-- ==== Sys2Proof/Word.lean ====
section
/-! DEFINITION. The word types of the ILX-2860: bytes, 32-bit register words (R12), 128-bit instruction words (R112)
and 48-bit device addresses (R643). -/

namespace Sys2Proof

/-- One byte. -/
abbrev Byte := BitVec 8

/-- A 32-bit register word (R12). -/
abbrev Word := BitVec 32

/-- A 64-bit quantity: a pair of registers under R12, a time, a mask. -/
abbrev DWord := BitVec 64

/-- A core instruction word (R112). -/
abbrev IWord := BitVec 128

end Sys2Proof
end

