-- ==== Sys2Proof/Syntax.lean ====
section
/-! DEFINITION. The commands the block takes: every row of the spec's table of operations and events, with the operands
the command brings from outside. The core instructions carry the core they issue on and the 128-bit instruction word of
R112. Events that complete or time out carry what the outside world decides (a completion's data, a measured value). -/

namespace Sys2Proof

/-- Who writes or reads a register (R12): the host through BAR0 or BAR4, or the management processor. -/
inductive Requester where
  | host
  | mp
  deriving DecidableEq, Repr

/-- A frame of the Bolcy ring as its bytes stand (R322, R323): the header (a data frame has 8 B, a control frame 16 B),
the 8 B extension with the frame counter where the frame is protected (R346), the payload, and the tag. -/
structure RFrame where
  hdr : BitVec 128
  ext : Option DWord
  payload : List Byte
  tag : List Byte
  deriving DecidableEq, Repr

/-- A frame as it arrives on a port (0 N, 1 S) with the CRC-32C that came with it, and whether it is the first frame of a
resend (R320). -/
structure RingRx where
  port : Fin 2
  crc : Word
  resend : Bool
  frame : RFrame
  deriving DecidableEq, Repr

/-- What a job's preparation takes from outside (R512): the prompts to tokenize (address, length, output address, room), the
tokens by which each token iteration advances each sequence the job names, the step record of an adaptation job (R306), n0
of each fusion group from its input record (R382), how many spilled frames are copied back before its first step, and what
host memory answers to the reads. -/
structure JobInputs where
  texts : List (Nat × Nat × Nat × Nat)
  iters : List (List Nat)
  record : List Byte
  augBase : List Word
  copied : Nat
  host : List Byte
  deriving DecidableEq, Repr

/-- An upset inside an array while a pass runs (R105, R106), brought by the outside world: the vector, lane, index (column
or row) and adding stage it shows at, the piece of a 16-bit product it strikes, the error it adds to the partial, the error
it adds to an aligned value before the shadow is formed, and the bits of the two-bit shadow it inverts. -/
structure Upset where
  vector : Nat
  lane : Nat
  index : Nat
  stage : Nat
  piece : Nat
  error : Int
  align : Int
  shadow : Nat
  deriving DecidableEq, Repr

/-- The commands of the block: one constructor per row of the spec's table of operations and events. -/
inductive Instr where
  /-- NOP (R122): Control instruction that issues on its delta and does nothing else, used to fill gaps longer than 4,095 cycles. -/
  | nop (core : Fin 8) (w : IWord)
  /-- STEP_END (R123): Marks a step boundary: checks idle engines, advances NC_STEP, then either spends a boundary credit and continues or halts at boundary. -/
  | stepEnd (core : Fin 8) (w : IWord)
  /-- REPEAT (R124): Runs the following body a fixed count of times, adding enabled strides to base registers after each iteration. -/
  | repeatBody (core : Fin 8) (w : IWord)
  /-- CALL (R126): Enters a resident routine one call level deeper, saving B0 to B7. -/
  | call (core : Fin 8) (w : IWord)
  /-- RETURN (R127): Ends a routine, restores B0 to B7 and checks the measured cost against the declared cost. -/
  | ret (core : Fin 8) (w : IWord)
  /-- SETB (R117): Writes a base register, visible to instructions issued from the next cycle. -/
  | setb (core : Fin 8) (w : IWord)
  /-- ADDB (R122): Adds a signed addend modulo 2^32 to a base register. -/
  | addb (core : Fin 8) (w : IWord)
  /-- REGION_SET (R149): Applies a new geometry to a circular region and resets its head, tail and valid bits. -/
  | regionSet (core : Fin 8) (w : IWord)
  /-- ASP_LOAD (R148): Loads an address-stream descriptor into a generator, waiting if the generator is bound. -/
  | aspLoad (core : Fin 8) (w : IWord)
  /-- PASS (R52): Array pass instruction that starts, possibly after a front hold, a loading or continuing run of vectors through the array and its drain. -/
  | pass (core : Fin 8) (w : IWord) (upsets : List Upset)
  /-- PROFILE_LOAD (R136): Loads a 32 B drain-control profile into one of the array's 16 profiles. -/
  | profileLoad (core : Fin 8) (w : IWord)
  /-- TABLE_LOAD (R99): Loads an activation table into a drain table slot in 33 cycles. -/
  | tableLoad (core : Fin 8) (w : IWord)
  /-- SIGNAL (R141): Adds an increment to a local or remote sync object. -/
  | signal (core : Fin 8) (w : IWord)
  /-- WAIT (R142): Holds the core's issue until a local sync object reaches its target. -/
  | wait (core : Fin 8) (w : IWord)
  /-- SET (R141): Sets a local sync object to a value. -/
  | setObj (core : Fin 8) (w : IWord)
  /-- MOVE (R145): Queues a mover transfer described by a 64 B descriptor. -/
  | move (core : Fin 8) (w : IWord)
  /-- ADD (R272): Vector engine element-wise addition. -/
  | veAdd (core : Fin 8) (w : IWord)
  /-- SUB (R272): Vector engine element-wise subtraction. -/
  | veSub (core : Fin 8) (w : IWord)
  /-- MUL (R272): Vector engine element-wise multiplication. -/
  | veMul (core : Fin 8) (w : IWord)
  /-- MAC (R273): Vector engine multiply-accumulate that reads its destination as a third operand. -/
  | veMac (core : Fin 8) (w : IWord)
  /-- MAX (R272): Vector engine element-wise maximum. -/
  | veMax (core : Fin 8) (w : IWord)
  /-- MIN (R272): Vector engine element-wise minimum. -/
  | veMin (core : Fin 8) (w : IWord)
  /-- CVT (R272): Vector engine format conversion, optionally with stochastic rounding. -/
  | veCvt (core : Fin 8) (w : IWord)
  /-- TABLE (R272): Vector engine evaluation of an activation table in a VE table slot. -/
  | veTable (core : Fin 8) (w : IWord)
  /-- VTABLE_LOAD (R273): Loads a 2,112 B table into a vector-engine table slot. -/
  | veTableLoad (core : Fin 8) (w : IWord)
  /-- RSUM (R275): Vector engine tree sum of a vector's elements. -/
  | veRsum (core : Fin 8) (w : IWord)
  /-- RMAX (R272): Vector engine maximum over a vector's elements. -/
  | veRmax (core : Fin 8) (w : IWord)
  /-- TREE (R275): Vector engine canonical tree combination of leaf vectors. -/
  | veTree (core : Fin 8) (w : IWord)
  /-- NORM (R276): Vector engine layer or RMS normalisation. -/
  | veNorm (core : Fin 8) (w : IWord)
  /-- EXP (R274): Correctly rounded exponential on the vector engine. -/
  | veExp (core : Fin 8) (w : IWord)
  /-- LN (R274): Correctly rounded natural logarithm on the vector engine. -/
  | veLn (core : Fin 8) (w : IWord)
  /-- RECIP (R274): Correctly rounded reciprocal on the vector engine. -/
  | veRecip (core : Fin 8) (w : IWord)
  /-- RSQRT (R274): Correctly rounded reciprocal square root on the vector engine. -/
  | veRsqrt (core : Fin 8) (w : IWord)
  /-- DIV (R274): Correctly rounded division on the vector engine. -/
  | veDiv (core : Fin 8) (w : IWord)
  /-- PATCH (R277): Builds convolution patch vectors from generator-addressed slots. -/
  | vePatch (core : Fin 8) (w : IWord)
  /-- TO_PIXEL (R277): Converts planar data to pixel-vector layout. -/
  | veToPixel (core : Fin 8) (w : IWord)
  /-- TO_PLANAR (R277): Converts pixel-vector data to planar layout. -/
  | veToPlanar (core : Fin 8) (w : IWord)
  /-- POOL (R230): Vector engine maximum or average pooling over a window of taps. -/
  | vePool (core : Fin 8) (w : IWord)
  /-- RESAMPLE (R278): Vector engine four-tap weighted resampling. -/
  | veResample (core : Fin 8) (w : IWord)
  /-- SAMPLE (R281): Sampling unit draws one token per logit vector under its parameter record. -/
  | sample (core : Fin 8) (w : IWord)
  /-- UNIFORM16 (R286): Grit generator writes raw 16-bit grit words. -/
  | uniform16 (core : Fin 8) (w : IWord)
  /-- UNIFORM (R286): Grit generator writes FP32 uniform values in (0, 1). -/
  | uniform (core : Fin 8) (w : IWord)
  /-- NORMAL_BM (R287): Grit generator writes Box-Muller normal values. -/
  | normalBm (core : Fin 8) (w : IWord)
  /-- NORMAL_TAB (R288): Grit generator writes table-interpolated normal values. -/
  | normalTab (core : Fin 8) (w : IWord)
  /-- BERNOULLI (R286): Grit generator writes an INT8 Bernoulli mask against a threshold. -/
  | bernoulli (core : Fin 8) (w : IWord)
  /-- WAIT_SATISFIED (R142): A pending WAIT finds its counter at target and the core resumes issue from that cycle. -/
  | waitSatisfied (core : Fin 8) (cycles : Nat)
  /-- STREAMED_PASS_COMPLETE (R61): A streamed pass writes its last output and its completion object is signalled. -/
  | streamedPassComplete (core : Fin 8) (arr : Fin 2) (cycles : Nat) (dry : Nat) (backup : Nat)
  /-- STREAM_ABANDONED (R62): A streamed instruction makes no progress for MA_STREAM_LIMIT cycles and is abandoned with its completion signalled. -/
  | streamAbandoned (core : Fin 8) (arr : Fin 2) (cycles : Nat) (written : Nat) (dry : Nat) (backup : Nat) (poisoned : Bool)
  /-- WAIT_TIMEOUT (R144): A wait inside a step stays unsatisfied for NC_WAIT_LIMIT and the core halts fault-halted. -/
  | waitTimeout (core : Fin 8) (cycles : Nat)
  /-- TRANSFER_COMPLETE (R205): Every write of a mover transfer becomes visible and its completion object is signalled. -/
  | transferComplete (core : Fin 8) (idx : Nat) (data : List Byte)
  /-- TRANSFER_FAILED (R206): A mover transfer meets an uncorrectable read, PCIe error or ring failure, stops and signals its completion. -/
  | transferFailed (core : Fin 8) (idx : Nat) (cause : Fin 3) (runs : Nat) (data : List Byte)
  /-- SP_ASYNC_WRITEBACK (R181): The corrected line of an asynchronous scratchpad read is written back on a free bank cycle. -/
  | spAsyncWriteback (core : Fin 8) (line : Nat)
  /-- NC_START (R156): Firmware starts a halted or idle core at NC_STREAM_POS, fetching the step's first lines. -/
  | ncStart (core : Fin 8)
  /-- NC_ABORT (R156): Firmware stops a core's issue at once and discards in-flight work. -/
  | ncAbort (core : Fin 8)
  /-- NC_ABORT_DONE (R156): An abort's engines and generators finish unwinding and the core reads idle. -/
  | ncAbortDone (core : Fin 8)
  /-- NC_COUNT_RESET (R156): Zeroes the core's freeze and wait counters. -/
  | ncCountReset (core : Fin 8)
  /-- CP_RELEASE (R532): The MP releases a core's control processor at vector 0. -/
  | cpRelease (core : Fin 8)
  /-- CP_HOLD (R532): The MP holds a core's control processor in reset. -/
  | cpHold (core : Fin 8)
  /-- MA_CLEAR_BANKS (R66): Starts clearing an idle array's banks, or is refused if the array is busy. -/
  | maClearBanks (core : Fin 8) (arr : Fin 2)
  /-- MA_CLEAR_DONE (R66): Bank clearing finishes after 260 cycles and the array returns to its reset state. -/
  | maClearDone (core : Fin 8) (arr : Fin 2)
  /-- MA_COUNT_RESET (R67): Zeroes the array's four counters. -/
  | maCountReset (core : Fin 8) (arr : Fin 2)
  /-- MA_COUNTS_CLEAR (R108): Zeroes MA_SAT_COUNT and MA_INVALID_COUNT. -/
  | maCountsClear (core : Fin 8) (arr : Fin 2)
  /-- TG_LOG_CLEAR (R167): Empties the tilth guard log and zeroes TG_STATUS. -/
  | tgLogClear (core : Fin 8)
  /-- SP_SCRUB_START (R183): Starts writing zero to the whole scratchpad, or is refused unless the core is halted. -/
  | spScrubStart (core : Fin 8)
  /-- SP_SCRUB_DONE (R183): The scratchpad scrub ends after 4,096 cycles and waiting asynchronous accesses proceed. -/
  | spScrubDone (core : Fin 8)
  /-- SP_COUNTS_CLEAR (R184): Zeroes SP_CORR_COUNT. -/
  | spCountsClear (core : Fin 8)
  /-- SP_INJECT_ARM (R189): Arms an ECC error injection carried by the next write of the target word. -/
  | spInjectArm (core : Fin 8) (v : Word)
  /-- HB_SCRUB_START (R196): Starts writing zero to the whole horizon buffer. -/
  | hbScrubStart
  /-- HB_SCRUB_DONE (R196): The horizon-buffer scrub ends and waiting port requests proceed. -/
  | hbScrubDone
  /-- HB_COUNTS_CLEAR (R197): Zeroes HB_CORR_COUNT. -/
  | hbCountsClear
  /-- MV_COUNT_RESET (R210): Zeroes every MV_TIER_BYTES counter. -/
  | mvCountReset (core : Fin 8)
  /-- VE_COUNTS_CLEAR (R293): Zeroes VE_SAT_COUNT. -/
  | veCountsClear (core : Fin 8)
  /-- SEED_CLEAR (R296): Sets the core's grit key to zero. -/
  | seedClear (core : Fin 8)
  /-- SELF_TEST (R296): Runs the AES-128 test vector through the GR and drain pipelines and reports pass or fail. -/
  | selfTest (core : Fin 8) (pass : Bool)
  /-- GR_SEED_WRITE (R298): Writes one word of the grit key while the core is halted. -/
  | grSeedWrite (core : Fin 8) (m : Fin 4) (v : Word)
  /-- REGISTER_WRITE (R9): Write to a register with no row of its own, applied by field type with reserved and growth bits judged. -/
  | registerWrite (rq : Requester) (off : Nat) (v : Word)
  /-- PAIR_LOW_READ (R12): Read of a 64-bit pair's low word that loads the requester's high-word latch. -/
  | pairLowRead (rq : Requester) (off : Nat)
  /-- PAIR_HIGH_READ (R12): Read of a 64-bit pair's high word that returns and clears the latch when marked. -/
  | pairHighRead (rq : Requester) (off : Nat)
  /-- PAIR_LOW_WRITE (R12): Write of a 64-bit pair's low word that is held for the requester. -/
  | pairLowWrite (rq : Requester) (off : Nat) (v : Word)
  /-- PAIR_HIGH_WRITE (R12): Write of a 64-bit pair's high word that commits it with any held low word. -/
  | pairHighWrite (rq : Requester) (off : Nat) (v : Word)
  /-- MP_SYNC_SIGNAL (R141): The MP signals a sync object by absolute number. -/
  | mpSyncSignal (obj : Fin 32768) (inc : Word)
  /-- MP_SYNC_SET (R141): The MP writes a sync object by absolute number. -/
  | mpSyncSet (obj : Fin 32768) (v : Word)
  /-- PORT_ENABLE (R319): Firmware enables a Bolcy port, which begins training. -/
  | portEnable (port : Fin 2)
  /-- PORT_TRAINING_DONE (R319): A port finishes training and FEC start and sends LINK_HELLO. -/
  | portTrainingDone (port : Fin 2) (reversed : Bool) (polarity : BitVec 8)
  /-- PORT_TRAINING_TIMEOUT (R319): A port does not finish training within 500 ms and enters state failed. -/
  | portTrainingTimeout (port : Fin 2)
  /-- LINK_HELLO (R319): Receipt of a peer's greeting, which brings the port up or sets version_mismatch or miswired. -/
  | linkHello (rx : RingRx)
  /-- IDLE_LINK_WORD (R320): A transmitter with nothing to send sends an idle link word at least every 1 µs. -/
  | idleLinkWord (port : Fin 2)
  /-- LINK_ACK (R320): Receipt of an acknowledgement link word that frees replay-buffer frames. -/
  | linkAck (port : Fin 2) (count : Nat)
  /-- REPLAY_REQUEST (R320): Receipt of a replay request, after which the transmitter resends from the first unacknowledged frame. -/
  | replayRequest (port : Fin 2)
  /-- CREDIT_RETURN (R321): Receipt of a credit-return link word that restores buffer credits. -/
  | creditReturn (port : Fin 2) (classD : Bool) (lines : Nat)
  /-- PORT_SILENCE_TIMEOUT (R320): A port receives nothing for 1 ms and goes down. -/
  | portSilenceTimeout (port : Fin 2)
  /-- DATA (R327): Receipt of a DATA frame, checked and written into the horizon buffer or forwarded. -/
  | frameData (rx : RingRx)
  /-- DATA_LAST (R327): Receipt of a burst's last data frame, after which the burst completes once visible. -/
  | dataLast (rx : RingRx)
  /-- BURST_OPEN (R330): Receipt of a burst open, checked against the receive window. -/
  | burstOpen (rx : RingRx)
  /-- BURST_REPLY (R329): Receipt of a burst reply, completing the burst or triggering restart or failure. -/
  | burstReply (rx : RingRx)
  /-- SIGNAL_FRAME (R340): Receipt of a remote SIGNAL frame, added to the ring sync window. -/
  | signalFrame (rx : RingRx)
  /-- FENCE (R338): Receipt of a FENCE frame, which quarantines the device if its epoch is later. -/
  | fence (rx : RingRx)
  /-- ENUM_OUTBOUND (R331): Receipt of an outbound ENUM frame; the device appends its record and forwards. -/
  | enumOutbound (rx : RingRx)
  /-- ENUM_RETURN (R331): Receipt of a returning ENUM frame travelling back to the head. -/
  | enumReturn (rx : RingRx)
  /-- ENUM_CLOSED_TIMEOUT (R331): The head's 1 ms wait for ENUM to return on its N port expires, so the ring is open. -/
  | enumClosedTimeout
  /-- MEMBERSHIP_QUIESCE (R333): Receipt of a quiesce frame: abort ring job cores, stop sending, abandon bursts and reply. -/
  | membershipQuiesce (rx : RingRx)
  /-- MEMBERSHIP_COMMIT (R333): Receipt of a commit frame: set the new epoch, address, routes and ports, then resume. -/
  | membershipCommit (rx : RingRx)
  /-- MEMBER_REPLY_TIMEOUT (R333): A member does not reply within 10 ms and the head reports it to the driver. -/
  | memberReplyTimeout
  /-- FW_MESSAGE (R345): Receipt of a firmware-to-firmware message such as a boundary index. -/
  | fwMessage (rx : RingRx)
  /-- BURST_HOLD_EXPIRY (R328): A receiver's hold timer expires and the burst is abandoned with a nak. -/
  | burstHoldExpiry (idx : Nat)
  /-- BURST_REPLY_TIMEOUT (R329): A sender receives no reply within twice the hold time and restarts the burst. -/
  | burstReplyTimeout (idx : Nat)
  /-- CI_READMIT (R339): Returns a quarantined device to unconfigured at epoch 0. -/
  | ciReadmit
  /-- CI_COUNTS_CLEAR (R356): Zeroes CI_STALE_COUNT and CI_COUNTS. -/
  | ciCountsClear
  /-- FRAME_START (R366): A CSI-2 Frame Start opens a frame, assigns a buffer and draws augmentation words. -/
  | frameStart (port : Fin 8) (vc : Fin 32) (number : BitVec 16) (hdr : Fin 3)
  /-- FRAME_END (R380): A CSI-2 Frame End closes an open frame, truncating it if lines are missing. -/
  | frameEnd (port : Fin 8) (vc : Fin 32) (hdr : Fin 3)
  /-- LONG_PACKET (R363): A CSI-2 long packet delivers one line through the pipe or raw path. -/
  | longPacket (port : Fin 8) (vc : Fin 32) (dt : Fin 64) (data : List Byte) (hdr : Fin 3) (crcOk : Bool) (fifoFull : Bool)
  /-- CSI_LANE_ERROR (R380): A lane error or loss of synchronisation discards the packet in progress. -/
  | csiLaneError (port : Fin 8)
  /-- LINE_TIMEOUT (R380): No packet arrives within line_timeout of an open frame, which is truncated. -/
  | lineTimeout (n : Fin 32)
  /-- SAMPLE_READY (R376): A frame's last line becomes visible and IA places it as a sample in a collection. -/
  | sampleReady (n : Fin 32)
  /-- COLLECTION_DEADLINE (R377): A collection's deadline falls due and it releases or is discarded. -/
  | collectionDeadline (g : Fin 16)
  /-- SPI_DATA_READY (R368): A data-ready edge makes an SPI controller stamp time, read and write a record. -/
  | spiDataReady (ctl : Fin 4) (data : List Byte)
  /-- PPS_EDGE (R374): An active PPS edge captures device time. -/
  | ppsEdge
  /-- PPS_LOST (R374): No PPS edge for 1.5 s sets pps_lost. -/
  | ppsLost
  /-- FSYNC_ASSERT (R371): A frame-sync output asserts when device time meets its period and phase. -/
  | fsyncAssert (n : Fin 8)
  /-- FSYNC_DEASSERT (R371): A frame-sync pulse ends after its width. -/
  | fsyncDeassert (n : Fin 8)
  /-- IA_FSYNC_COMMIT (R371): A write of IA_FSYNC word 0 commits all three frame-sync words. -/
  | iaFsyncCommit (n : Fin 8) (w0 : Word)
  /-- IA_TIME_STEP (R372): Commit of a device-time step, refused while any group is enabled. -/
  | iaTimeStep (delta : DWord)
  /-- IA_STREAM_ENABLE (R365): Enables a stream context, checking its data type, path and conflicts. -/
  | iaStreamEnable (n : Fin 32) (w0 : Word)
  /-- IA_STREAM_DISABLE (R395): Disables a stream, discarding held samples and freeing buffers. -/
  | iaStreamDisable (n : Fin 32)
  /-- IA_GROUP_ENABLE (R396): Enables a fusion group after checking its members and band objects. -/
  | iaGroupEnable (g : Fin 16) (w0 : Word)
  /-- IA_GROUP_DISABLE (R396): Disables a group, discarding its collections without signalling. -/
  | iaGroupDisable (g : Fin 16)
  /-- IA_AUG_COMMIT (R382): A write of n0 commits the pending augmentation key and base index. -/
  | iaAugCommit (g : Fin 16) (n0 : Word)
  /-- IA_COUNTS_CLEAR (R392): Zeroes IA_DROP_COUNT and every CR port counter. -/
  | iaCountsClear
  /-- PIPE_TURN (R416): A pipe serves the next ready stripe or frame of a context in round robin. -/
  | pipeTurn (p : Fin 2)
  /-- CONTEXT_COMMIT (R413): Marks a context's pending colour parameters for latching. -/
  | contextCommit (c : Fin 32)
  /-- CURVE_WRITE (R414): Writes a tone-curve set, discarded if an enabled context names it. -/
  | curveWrite (p : Fin 2) (cset : Fin 16) (word : Fin 387) (v : Word)
  /-- IP_COUNTS_CLEAR (R430): Zeroes IP_SWITCH_COUNT. -/
  | ipCountsClear (p : Fin 2)
  /-- VX_SEQ_HOLD (R434): Holds the video sequencer in reset. -/
  | vxSeqHold (image : List Byte) (crcs : List Nat)
  /-- VX_SEQ_RELEASE (R426): Releases the video sequencer once every block has checked. -/
  | vxSeqRelease
  /-- VX_SEQ_RESET (R434): Resets VX and sets hold. -/
  | vxSeqReset
  /-- VX_HEARTBEAT_TIMEOUT (R427): The sequencer heartbeat stops for 100 ms; the MP resets VX, ends sessions and reloads. -/
  | vxHeartbeatTimeout (image : List Byte) (crcs : List Nat)
  /-- BOUND_ENCODE_FRAME (R422): A bound encode session finds its group released and encodes the stream's buffer. -/
  | boundEncodeFrame (n : Fin 16)
  /-- VIDEO_FRAME_DONE (R422): VX finishes reading or coding a frame, writes its frame record and signals done. `host` is
  what the host's memory answers where an encoder's input lies there; the others are what a decoder made of its access unit:
  the picture, its type and QP, whether the unit has an error, and whether it is a key picture (R420). -/
  | videoFrameDone (n : Fin 16) (host picture : List Byte) (picType : Fin 2) (qp : Fin 256) (error key : Bool)
  /-- MC_REQUEST (R445): A port request is accepted by the memory controller with a deadline. -/
  | mcRequest (port : Fin 10) (addr : Nat) (slot : Fin 16) (write : Bool) (mask : BitVec 8) (data : List Byte)
  /-- MC_REQUEST_COMPLETE (R448): An accepted LPDDR read delivers data or a write reaches DRAM. -/
  | mcRequestComplete (idx : Nat) (lat : Nat) (link : Nat) (linkBad : Bool)
  /-- REFRESH_DUE (R450): A tREFI interval passes and a channel owes another refresh. -/
  | refreshDue (chan : Fin 24)
  /-- MR4_POLL (R449): Once per millisecond the controller reads MR4 and sets tREFI. -/
  | mr4Poll (rates : List (Fin 3))
  /-- OSCILLATOR_SAMPLE (R458): Once per millisecond the WCK2DQ oscillator is sampled and delays adjusted. -/
  | oscillatorSample (chan : Fin 24) (drift : Int) (beyond : Bool)
  /-- SELF_REFRESH_REQUEST (R455): A trigger drains the controller and puts every channel in self-refresh. -/
  | selfRefreshRequest (actor : Fin 3)
  /-- SELF_REFRESH_EXIT (R457): The actor that caused self-refresh ends it and the channels return to service. -/
  | selfRefreshExit (actor : Fin 3)
  /-- POWER_DOWN_IDLE (R457): A channel idle for pd_idle enters active power-down. -/
  | powerDownIdle (chan : Fin 24)
  /-- MC_ENABLE (R447): Puts the channels in service and computes effective port targets. -/
  | mcEnable (v : Word)
  /-- MC_CONFIG_WRITE (R463): Records the LPDDR population and target rate, or refuses a bad value. -/
  | mcConfigWrite (v : Word)
  /-- MC_PORT_WRITE (R446): Sets a port's latency target and credits, subject to the admission test. -/
  | mcPortWrite (p : Fin 10) (v : Word)
  /-- MC_COUNTS_CLEAR (R466): Zeroes MC_CORR_COUNT and every MC_LAT_MAX. -/
  | mcCountsClear
  /-- WRITE_PATTERN (R470): Training helper writes a pattern to the training area of selected channels. -/
  | writePattern (mask : BitVec 24)
  /-- READ_AND_COMPARE (R470): Training helper reads and compares the training area, counting mismatches. -/
  | readAndCompare (mask : BitVec 24)
  /-- COMMAND_BUS_COMPARE (R470): Training helper runs a command-bus training compare. -/
  | commandBusCompare (mask : BitVec 24)
  /-- READ_DQ_CALIBRATION (R470): Training helper runs a read DQ calibration compare. -/
  | readDqCalibration (mask : BitVec 24)
  /-- WCK2CK_LEVELING (R470): Training helper takes a WCK2CK leveling sample. -/
  | wck2ckLeveling (mask : BitVec 24)
  /-- TRAINING_OP_DONE (R470): A training helper operation finishes on every selected channel. -/
  | trainingOpDone (errors : List Nat)
  /-- BAR2_READ (R477): Host read through a BAR2 segment into device memory. -/
  | bar2Read (resize : Option (Fin 10)) (off : Nat) (len : Nat)
  /-- BAR2_WRITE (R477): Host write through a BAR2 segment into device memory. -/
  | bar2Write (resize : Option (Fin 10)) (off : Nat) (data : List Byte) (poisoned : Bool)
  /-- BOOT_WINDOW_WRITE (R481): Host write of manifest or image bytes into the boot window, checked block by block. -/
  | bootWindowWrite (off : Nat) (data : List Byte)
  /-- BOOT_GO (R534): The host writes go; the SC makes its final checks, derives keys and releases the MP. -/
  | bootGo
  /-- SIGNAL_WINDOW_WRITE (R480): Host write that signals a sync object through BAR4. -/
  | signalWindowWrite (obj : Fin 32768) (inc : Word)
  /-- SET_WINDOW_WRITE (R480): Host write that sets a sync object through BAR4. -/
  | setWindowWrite (obj : Fin 32768) (v : Word)
  /-- SQ_DOORBELL (R487): Driver writes a submission producer index, accepted or refused with RING_ERROR. -/
  | sqDoorbell (q : Fin 17) (p : Word)
  /-- CQ_DOORBELL (R488): Driver returns completion entries by writing its consumer index. -/
  | cqDoorbell (q : Fin 17) (p : Word)
  /-- RING_PAIR_ENABLE (R486): Driver enables a ring pair; firmware checks placement and party. -/
  | ringPairEnable (q : Fin 17) (v : Word)
  /-- RING_PAIR_DISABLE (R486): Driver stops the firmware taking descriptors from a ring pair. -/
  | ringPairDisable (q : Fin 17) (v : Word)
  /-- DESCRIPTOR_TAKE (R488): Firmware takes a submitted descriptor once it can reserve a completion entry. -/
  | descriptorTake (q : Fin 16)
  /-- IRQ_COALESCE_TIMER (R489): The oldest uninterrupted completion waits timer_us and the ring's vector is raised. -/
  | irqCoalesceTimer (q : Fin 17)
  /-- FUNCTION_LEVEL_RESET (R474): A PCIe Function Level Reset puts the device through a warm reset. -/
  | functionLevelReset
  /-- PERST_ASSERT (R639): PERST# asserted starts a warm reset. -/
  | perstAssert (cool : Bool)
  /-- PERST_DEASSERT (R637): PERST# deasserted lets the endpoint train and main reset release. -/
  | perstDeassert
  /-- OPEN (R503): Negotiates ring protocol and capabilities and allocates the host area. -/
  | fwOpen
  /-- CLOSE (R497): Ends every job, sequence and session and releases the host area and tier-3 pool. -/
  | fwClose
  /-- LOAD_PACKAGE (R40): Background load and check of a model package with its slice placement. -/
  | loadPackage (host : List Byte)
  /-- POOL_GRANT (R497): Adds host-window blocks to the tier-3 pool. -/
  | poolGrant
  /-- POOL_RECLAIM (R497): Background removal of host-window blocks from the pool once free. -/
  | poolReclaim
  /-- JOB_STOP (R515): Ends a job with STOPPED, at once or at its next boundary. -/
  | jobStop
  /-- JOB_SUSPEND (R515): Suspends a job, switching it out at its next boundary if running. -/
  | jobSuspend
  /-- JOB_RESUME (R515): Returns a suspended job to the pending set at its original position. -/
  | jobResume
  /-- JOB_QUERY (R497): Returns a job's state and its lowest core's step. -/
  | jobQuery
  /-- STREAM_MARGIN (R523): Sets a stream's deadline-monitor margin. -/
  | streamMargin
  /-- RING_ENUMERATE (R331): Head firmware enumerates the ring and reports its physical order. -/
  | ringEnumerate
  /-- RING_CONFIGURE (R333): Head firmware applies a member table by two-phase quiesce and commit. -/
  | ringConfigure (host : List Byte)
  /-- RING_READMIT (R339): Firmware sets CI_CTRL.readmit for a quarantined device. -/
  | ringReadmit
  /-- TIME_SAMPLE (R373): Feeds a host, PTP or PPS time sample to the firmware's time servo. -/
  | timeSample
  /-- SIDEPORT (R369): Runs an I3C, I2C or SPI side-port transaction. -/
  | sideport (answer : Option (Bool × List Byte)) (host : List Byte)
  /-- JOB (R498): Submits a job to run the resident package for the ring's party. -/
  | fwJob (q : Fin 16)
  /-- SEQ_OPEN (R238): Opens a KV sequence under a handle. -/
  | seqOpen (q : Fin 16)
  /-- SEQ_CLOSE (R238): Closes a sequence once no job names it, freeing its frames and input log. -/
  | seqClose (q : Fin 16)
  /-- ADAPT_CREATE (R312): Creates empty adaptation state for the party. -/
  | adaptCreate (q : Fin 16)
  /-- ADAPT_EXPORT (R549): Exports the published adaptation generation, sealed when the slot is sealed. -/
  | adaptExport (q : Fin 16) (host : List Byte)
  /-- ADAPT_IMPORT (R549): Replaces the published generation after checking the imported image. -/
  | adaptImport (q : Fin 16) (host : List Byte)
  /-- ADAPT_RELEASE (R497): Frees adaptation state once no job names it. -/
  | adaptRelease (q : Fin 16)
  /-- VIDEO_OPEN (R421): Admits a video session within capacity or refuses it with VIDEO_CAPACITY. -/
  | videoOpen (q : Fin 16)
  /-- VIDEO_FRAME (R422): Submits one frame or access unit to a video session. -/
  | videoFrame (q : Fin 16)
  /-- VIDEO_CLOSE (R497): Ends a session after its queued frames. -/
  | videoClose (q : Fin 16)
  /-- JOB_PREPARED (R512): A job's preparations complete and it joins the pending set, starting if the device is idle. -/
  | jobPrepared (q : Fin 16) (index : Nat) (x : JobInputs)
  /-- JOB_BOUNDARY (R29): Every core of the running job stands at a boundary and the firmware takes the due actions in order. -/
  | jobBoundary (overruns : List (Nat × Nat)) (peers : List Nat)
  /-- AON_PORST_RELEASE (R637): AON_PORST_N rises and the AOC starts from ROM and mounts the journal. -/
  | aonPorstRelease
  /-- MAIN_PWRGD_RISE (R530): Main power-good rises; memories clear, fuses load and the SC starts stage 1. -/
  | mainPwrgdRise (testen : Bool)
  /-- MAIN_PWRGD_FALL (R638): Main power-good falls; main domains reset and outside slumber a power-fail flush runs. -/
  | mainPwrgdFall
  /-- UNSEAL_ENVELOPE (R556): SC mailbox operation that unseals a job envelope. -/
  | unsealEnvelope
  /-- SEAL_OUTPUTS (R556): SC mailbox operation that seals a job's outputs. -/
  | sealOutputs
  /-- EXPORT_STATE (R556): SC mailbox operation that exports adaptation state. -/
  | exportState
  /-- IMPORT_STATE (R556): SC mailbox operation that imports adaptation state. -/
  | importState
  /-- MEASURE_PACKAGE (R556): SC mailbox operation that measures the resident package. -/
  | measurePackage
  /-- RELEASE_SLOT (R556): SC mailbox operation that releases a slot after SLOT_RENEW. -/
  | releaseSlot
  /-- GET_VERSION (R539): SPDM request for supported versions. -/
  | getVersion
  /-- GET_CAPABILITIES (R539): SPDM request for responder capabilities. -/
  | getCapabilities
  /-- NEGOTIATE_ALGORITHMS (R539): SPDM request that fixes the algorithms. -/
  | negotiateAlgorithms (common : Bool)
  /-- GET_DIGESTS (R539): SPDM request for certificate chain digests. -/
  | getDigests
  /-- GET_CERTIFICATE (R538): SPDM request for the certificate chain. -/
  | getCertificate (off : Nat) (len : Nat)
  /-- CHALLENGE (R539): SPDM authentication challenge. -/
  | challenge (nonce : List Byte)
  /-- GET_MEASUREMENTS (R540): SPDM request for signed measurement blocks. -/
  | getMeasurements (index : Fin 256) (nonce : List Byte)
  /-- KEY_EXCHANGE (R539): SPDM request that opens a secure session. -/
  | keyExchange (pub : List Byte)
  /-- FINISH (R539): SPDM request that completes a session handshake. -/
  | finish (id : Nat) (good : Bool)
  /-- HEARTBEAT (R539): SPDM session keep-alive. -/
  | heartbeat (id : Nat)
  /-- END_SESSION (R539): SPDM request that ends a session. -/
  | endSession (id : Nat)
  /-- PARTY_KEY_SET (R545): Sets or replaces a party sealing key through journalled key records. -/
  | partyKeySet (id : Nat) (slot : Nat) (key : List Byte) (proof : List Byte)
  /-- PARTY_KEY_ERASE (R544): Erases a party sealing key. -/
  | partyKeyErase (id : Nat) (slot : Nat)
  /-- RING_KEY_SET (R550): Provisions the ring key and ring identifier. -/
  | ringKeySet (id : Nat) (key : List Byte) (ringId : List Byte)
  /-- SLOT_RENEW (R544): Loads a fresh key into an unused slot. -/
  | slotRenew (slot : Nat)
  /-- LIFECYCLE_SET (R527): Moves the life cycle by a signed token, zeroising keys for RMA or SCRAPPED. -/
  | lifecycleSet (target : BitVec 8) (token : List Byte)
  /-- DEBUG_CHALLENGE (R529): Returns a fresh debug-unlock challenge. -/
  | debugChallenge
  /-- DEBUG_RESPONSE (R529): Verifies a signed response and unlocks debug. -/
  | debugResponse (pub : List Byte) (sig : List Byte) (scope : BitVec 8)
  /-- PLL_LOCK_LOSS (R564): A PLL loses lock; its domains stop or MEM moves to REF and relock attempts begin. -/
  | pllLockLoss (k : Fin 9)
  /-- RELOCK_ATTEMPT_TIMEOUT (R566): A relock attempt does not reach ready within 50 µs and the next begins or the PLL fails. -/
  | relockAttemptTimeout (k : Fin 9)
  /-- PLL_RELOCKED (R566): A relocked PLL reaches ready and its stopped domains restart. -/
  | pllRelocked (k : Fin 9)
  /-- REF_LOST (R567): The reference monitor finds the 38.4 MHz edge count out of range. -/
  | refLost (count : Nat)
  /-- DOMAIN_SOURCE_WRITE (R561): Switches a domain's clock source glitch-free, or refuses. -/
  | domainSourceWrite (d : Fin 9) (v : Word)
  /-- PLL_CTRL_WRITE (R580): Enables a PLL or changes its spread, refusing a disable in use. -/
  | pllCtrlWrite (k : Fin 9) (v : Word)
  /-- GOVERNOR_UPDATE (R574): Every 100 µs the governor recomputes each array domain's frequency from its terms. -/
  | governorUpdate (temps : List Int) (avgMs : Nat) (avgSec : Nat)
  /-- VOLTAGE_LOOP_UPDATE (R568): Every 1 µs each core's LDO steps up, down or holds by measured slack. -/
  | voltageLoopUpdate (core : Fin 8) (slack : Fin 128) (energy : Nat)
  /-- CAP_CUT (R575): The 1 ms average reaches 145 W and every array domain switches to REF. -/
  | capCut (avg : Nat)
  /-- CAP_CUT_END (R575): The 1 ms average falls below P_sus and domains return to their PLLs. -/
  | capCutEnd (avg : Nat)
  /-- CAP_CUT_HELD (R577): A cut held 10 ms without a break ends the running job. -/
  | capCutHeld
  /-- THERMAL_TRIP (R576): A sensor at T_trip on two samples switches arrays off and drives THERMTRIP_N. -/
  | thermalTrip (sensor : Fin 24) (temp : Int)
  /-- LIMIT_WRITE (R573): Lowers a governor limit, refusing any raise. -/
  | limitWrite (off : Nat) (v : Word)
  /-- CORE_POWER_OFF (R571): Powers an idle core's LDO off. -/
  | corePowerOff (core : Fin 8)
  /-- CORE_POWER_ON (R571): Requests a core's power back on. -/
  | corePowerOn (core : Fin 8)
  /-- CORE_POWER_ON_DONE (R570): A core finishes powering on with cleared banks. -/
  | corePowerOnDone (core : Fin 8)
  /-- SLUMBER_ENTRY (R572): After PME_TO_Ack the AOC puts LPDDR in self-refresh for slumber. -/
  | slumberEntry
  /-- POWER_FAIL (R604): PWR_FAIL_N falls and the AOC appends POWER_FAIL and flushes the newest entries. -/
  | powerFail
  /-- TAMPER (R612): TAMPER_N asserts; keys are zeroised and a warm reset follows. -/
  | tamper (cool : Bool)
  /-- WATCHDOG_ARM (R614): Arms the watchdog until the next reset. -/
  | watchdogArm (v : Word)
  /-- WATCHDOG_KICK (R614): Restarts the watchdog timeout. -/
  | watchdogKick
  /-- WATCHDOG_EXPIRY (R614): The watchdog expires and the AOC warm-resets the main domains. -/
  | watchdogExpiry
  /-- FENCED_WRITES_INTERVAL (R600): A 33-cycle interval closes and one FENCED_WRITES entry is appended. -/
  | fencedWritesInterval
  /-- TRICKLE_FLUSH (R604): The oldest unflushed entry reaches 1 s and unflushed entries are written to the journal. -/
  | trickleFlush
  /-- JOURNAL_RECORD_COMMIT (R607): A journal record's commit byte is programmed and the next waiting writer is served. -/
  | journalRecordCommit (failed : Bool)
  /-- RAS_CLASS_CFG_WRITE (R622): Sets a class's window and threshold, discarding invalid values whole. -/
  | rasClassCfgWrite (c : Fin 12) (v : Word)
  /-- AOC_SED_READ (R625): Latches a sediment slot's 16 B for reading. -/
  | aocSedRead (v : Word)
  /-- AOC_TAKEOVER (R617): The MP heartbeat stands for 100 ms and the AOC takes the management port. -/
  | aocTakeover
  /-- MP_TAKEBACK (R617): The MP's heartbeat advances and it takes the management port back. -/
  | mpTakeback
  /-- PROFILE_OPEN (R616): Opens management profile 1.0 for an endpoint. -/
  | profileOpen (eid : BitVec 8) (vdm : Bool) (lo : BitVec 8) (hi : BitVec 8) (caps : Word)
  /-- HEALTH (R617): Returns health state, failed units, entry count and life cycle. -/
  | health (eid : BitVec 8) (vdm : Bool)
  /-- SEDIMENT_READ (R617): Returns up to 8 sediment entries still held. -/
  | sedimentRead (eid : BitVec 8) (vdm : Bool) (first : Nat) (count : Nat)
  /-- SET_ENDPOINT_ID (R615): MCTP control message that sets the endpoint ID. -/
  | setEndpointId (eid : BitVec 8) (vdm : Bool) (new : BitVec 8)
  /-- GET_ENDPOINT_ID (R615): MCTP control message returning the endpoint ID. -/
  | getEndpointId (eid : BitVec 8) (vdm : Bool)
  /-- GET_ENDPOINT_UUID (R615): MCTP control message returning the endpoint UUID. -/
  | getEndpointUuid (eid : BitVec 8) (vdm : Bool)
  /-- GET_MCTP_VERSION_SUPPORT (R615): MCTP control message returning supported versions. -/
  | getMctpVersionSupport (eid : BitVec 8) (vdm : Bool) (type : BitVec 8)
  /-- GET_MESSAGE_TYPE_SUPPORT (R615): MCTP control message returning supported message types. -/
  | getMessageTypeSupport (eid : BitVec 8) (vdm : Bool)
  /-- GET_VENDOR_DEFINED_MESSAGE_SUPPORT (R615): MCTP control message returning vendor-defined support. -/
  | getVendorDefinedMessageSupport (eid : BitVec 8) (vdm : Bool) (selector : BitVec 8)
  /-- GET_TID (R615): PLDM Type 0 request for the terminus ID. -/
  | getTid (eid : BitVec 8) (vdm : Bool)
  /-- GET_PLDM_VERSION (R615): PLDM Type 0 request for a type's version. -/
  | getPldmVersion (eid : BitVec 8) (vdm : Bool) (type : BitVec 8)
  /-- GET_PLDM_TYPES (R615): PLDM Type 0 request for supported types. -/
  | getPldmTypes (eid : BitVec 8) (vdm : Bool)
  /-- GET_PLDM_COMMANDS (R615): PLDM Type 0 request for supported commands. -/
  | getPldmCommands (eid : BitVec 8) (vdm : Bool) (type : BitVec 8)
  /-- GET_SENSOR_READING (R618): PLDM Type 2 numeric sensor read. -/
  | getSensorReading (eid : BitVec 8) (vdm : Bool) (sensor : Nat)
  /-- GET_STATE_SENSOR_READINGS (R618): PLDM Type 2 state sensor read. -/
  | getStateSensorReadings (eid : BitVec 8) (vdm : Bool) (sensor : Nat)
  /-- GET_PDR_REPOSITORY_INFO (R615): PLDM Type 2 request for PDR repository information. -/
  | getPdrRepositoryInfo (eid : BitVec 8) (vdm : Bool)
  /-- GET_PDR (R615): PLDM Type 2 request for a platform descriptor record. -/
  | getPdr (eid : BitVec 8) (vdm : Bool) (record : Nat) (len : Nat)
  /-- SET_EVENT_RECEIVER (R618): PLDM Type 2 request naming the event receiver. -/
  | setEventReceiver (eid : BitVec 8) (vdm : Bool) (receiver : BitVec 8)
  /-- PIN_MUX_WRITE (R634): Changes a pad's function through a hold, or refuses for busy, refused or conflict. -/
  | pinMuxWrite (n : Fin 64) (v : Word)
  /-- PAD_SWITCH_DONE (R633): A pad's two-cycle hold ends and the new function drives and senses it. -/
  | padSwitchDone (n : Fin 64)
  /-- LANES_RETURN_TO_STOP_STATE (R380): After a lane error, the CSI-2 lanes return to stop state and the port leaves state lane_error. -/
  | lanesReturnToStopState (port : Fin 8)
  /-- AON_PORST_ASSERT (R639): AON_PORST_N goes low or a tier A rail leaves tolerance, putting the whole device in always-on power-on reset with pads at high impedance. -/
  | aonPorstAssert
  /-- PLL_READY (R561): A PLL that firmware enabled achieves lock and holds it for 20 µs, and its ready flag sets. -/
  | pllReady (k : Fin 9)
  /-- PCIE_LINK_RETRAIN (R510): The PCIe link retrains to a new speed or width, HI_LINK changes and the firmware recomputes B_3. -/
  | pcieLinkRetrain (speed : Fin 6) (width : Fin 4)
  /-- PACKAGE_LOAD_COMPLETE (R22): A background package load finishes its section CRC and body_digest checks and completes with SUCCESS or PACKAGE_INVALID. -/
  | packageLoadComplete
  /-- SIDEPORT_TIMEOUT (R501): A side-port transaction does not finish within 100 ms and completes with SIDEPORT_TIMEOUT. -/
  | sideportTimeout
  deriving DecidableEq, Repr

end Sys2Proof
end

