-- ==== Sys2Proof/Decode.lean ====
section
/-! DEFINITION. The words of the table: no row of spec/opcode_table.json gives its command bits of the table, so no word spells
a command; a core instruction's 128-bit word is an operand of its command. -/

namespace Sys2Proof

/-- The command that `nbits` bits of value `w` spell: none. -/
def decodeTableWord (_nbits _w : Nat) : Option Instr := none

end Sys2Proof
end

