-- ==== Sys2Proof/Machine/Bits.lean ====
section
/-! DEFINITION. Bit fields, sign extension, byte order (R8), clamping, and the sparse maps in canonical form that hold
every indexed piece of state: strictly rising keys, and no entry equal to what an unlisted key reads as. -/

namespace Sys2Proof.Machine

/-- Bits `hi` down to `lo` of a number. -/
def bits (x hi lo : Nat) : Nat := x / 2 ^ lo % 2 ^ (hi + 1 - lo)

/-- Bit `i` of a number. -/
def bit (x i : Nat) : Bool := x / 2 ^ i % 2 == 1

/-- A truth value as a bit. -/
def b2n (b : Bool) : Nat := if b then 1 else 0

/-- Replace bits `hi` down to `lo` of `x` by the low bits of `v`. -/
def setBits (x hi lo v : Nat) : Nat :=
  x - bits x hi lo * 2 ^ lo + v % 2 ^ (hi + 1 - lo) * 2 ^ lo

/-- The two's-complement value of the low `n` bits of `x`. -/
def sext (n x : Nat) : Int :=
  let y := x % 2 ^ n
  if y < 2 ^ (n - 1) then (y : Int) else (y : Int) - 2 ^ n

/-- An integer as `n` bits of two's complement. -/
def toTwos (n : Nat) (x : Int) : Nat := (x % (2 ^ n : Nat)).toNat

/-- An integer held inside a range. -/
def clampInt (lo hi x : Int) : Int := if x < lo then lo else if hi < x then hi else x

/-- The little-endian value of a byte string (R8). -/
def leNat : List Byte → Nat
  | [] => 0
  | b :: t => b.toNat + 256 * leNat t

/-- A number as `n` bytes, little-endian (R8). -/
def leBytes : Nat → Nat → List Byte
  | 0, _ => []
  | n + 1, x => BitVec.ofNat 8 x :: leBytes n (x / 256)

/-- The big-endian value of a byte string (the exceptions of R8). -/
def beNat (l : List Byte) : Nat := l.foldl (fun a b => 256 * a + b.toNat) 0

/-- A number as `n` bytes, big-endian. -/
def beBytes (n x : Nat) : List Byte := (leBytes n x).reverse

/-- `n` zero bytes. -/
def zeros (n : Nat) : List Byte := List.replicate n 0

/-- The little-endian number in bytes `off` to `off + n - 1` of a byte string. -/
def fieldAt (l : List Byte) (off n : Nat) : Nat := leNat ((l.drop off).take n)

/-- A list cut into runs of `n` (the last may be shorter); `fuel` bounds the number of runs. -/
def chunkFuel {α : Type} (n : Nat) : Nat → List α → List (List α)
  | 0, _ => []
  | f + 1, l => match l with
    | [] => []
    | l => l.take n :: chunkFuel n f (l.drop n)

/-- A list cut into runs of `n`. -/
def chunks {α : Type} (n : Nat) (l : List α) : List (List α) := chunkFuel n l.length l

/-- One byte of CRC-32C (reflected polynomial 0x82F63B78), bit by bit. -/
def crcBits : Nat → Nat → Nat
  | 0, c => c
  | k + 1, c => crcBits k (if c % 2 = 1 then (c / 2) ^^^ 0x82F63B78 else c / 2)

/-- CRC-32C of a byte string (R22, R426, R607). -/
def crc32c (l : List Byte) : Nat := (l.foldl (fun c b => crcBits 8 (c ^^^ b.toNat)) 0xFFFFFFFF) ^^^ 0xFFFFFFFF

/-- A number put at its place in a rising list. -/
def insertNat (n : Nat) : List Nat → List Nat
  | [] => [n]
  | a :: t => if n ≤ a then n :: a :: t else a :: insertNat n t

/-- The numbers of a list, rising. -/
def sortNat (l : List Nat) : List Nat := l.foldr insertNat []

/-- The quotient rounded up. -/
def ceilDiv (a b : Nat) : Nat := (a + b - 1) / b

/-- A mapping from numbers, listing only the keys that differ from what an unlisted key reads as. -/
abbrev Sparse (α : Type) := List (Nat × α)

/-- What key `k` reads as, `d` giving the unlisted keys. -/
def mapGet {α : Type} (d : Nat → α) : Sparse α → Nat → α
  | [], k => d k
  | (k', v) :: t, k => if k = k' then v else mapGet d t k

/-- The map without key `k`. -/
def mapErase {α : Type} (l : Sparse α) (k : Nat) : Sparse α := l.filter fun q => q.1 != k

/-- Write key `k`, keeping the canonical form. -/
def mapSet {α : Type} [DecidableEq α] (d : Nat → α) : Sparse α → Nat → α → Sparse α
  | [], k, v => if v = d k then [] else [(k, v)]
  | (k', v') :: t, k, v =>
    if k < k' then (if v = d k then mapErase ((k', v') :: t) k else (k, v) :: (k', v') :: t)
    else if k = k' then (if v = d k then mapErase t k else (k, v) :: t)
    else (k', v') :: mapSet d t k v

/-- Every key of the map lies above `k`. -/
def mapAbove {α : Type} (k : Nat) (l : Sparse α) : Bool := l.all fun p => k < p.1

/-- The canonical form: strictly rising keys, no entry equal to what an unlisted key reads as. -/
def mapWf {α : Type} [DecidableEq α] (d : Nat → α) : Sparse α → Bool
  | [] => true
  | (k, v) :: t => (v != d k) && mapAbove k t && mapWf d t

/-- The map without the keys for which `p` holds. -/
def mapDrop {α : Type} (p : Nat → Bool) (l : Sparse α) : Sparse α := l.filter fun q => !p q.1

end Sys2Proof.Machine
end

