-- ==== Sys2Proof/Machine/Arith.lean ====
section
/-! DEFINITION. Arithmetic on exact values: a value is an integer times a power of two, computed exactly and narrowed
once; the number formats of R76 and R77, the quantiser of R80, and the correctly rounded functions of R274, R287 and
R288. -/

namespace Sys2Proof.Machine

/-- A number as the formats give it: finite `m * 2^e` (zero has `m = 0`; negative zero decodes as zero, R78), an
infinity with its sign, or NaN. -/
inductive FV where
  | fin (m e : Int)
  | inf (neg : Bool)
  | nan
  deriving DecidableEq, Repr

def FV.zero : FV := .fin 0 0

/-- `m / 2^k` rounded to nearest, ties to even. -/
def rneShift (m : Int) (k : Nat) : Int :=
  let d : Int := 2 ^ k
  let q := m / d
  let r := m % d
  if 2 * r < d then q else if d < 2 * r then q + 1 else if q % 2 = 0 then q else q + 1

/-- `m * 2^e` in units of `2^t`, rounded to nearest even. -/
def roundAt (m e t : Int) : Int := if t ≤ e then m * 2 ^ (e - t).toNat else rneShift m (t - e).toNat

/-- `m * 2^e` in units of `2^t`, rounded toward minus infinity. -/
def floorAt (m e t : Int) : Int := if t ≤ e then m * 2 ^ (e - t).toNat else m / 2 ^ (t - e).toNat

/-- Floor of the base-two logarithm of a positive magnitude. -/
def topBit (m e : Int) : Int := (Nat.log2 m.natAbs : Int) + e

/-- Compare two exact values: `a < b`. -/
def dyLt (am ae bm be : Int) : Bool := if ae ≤ be then am < bm * 2 ^ (be - ae).toNat else am * 2 ^ (ae - be).toNat < bm

/-- The exact sum of two values. -/
def dyAdd (am ae bm be : Int) : Int × Int :=
  if ae ≤ be then (am + bm * 2 ^ (be - ae).toNat, ae) else (am * 2 ^ (ae - be).toNat + bm, be)

/-- A floating-point format (R77): exponent and mantissa bits, bias, its largest finite value, its infinity (if any)
and its canonical NaN (0 for a format without NaN). -/
structure FpFmt where
  ebits : Nat
  mbits : Nat
  bias : Int
  maxM : Int
  maxE : Int
  hasInf : Bool
  nan : Nat
  deriving DecidableEq, Repr

def fp4 : FpFmt := ⟨2, 1, 1, 3, 1, false, 0⟩
def fpE4m3 : FpFmt := ⟨4, 3, 7, 7, 6, false, 0x7F⟩
def fpE5m2 : FpFmt := ⟨5, 2, 15, 7, 13, true, 0x7F⟩
def fp16 : FpFmt := ⟨5, 10, 15, 2047, 5, true, 0x7E00⟩
def bf16 : FpFmt := ⟨8, 7, 127, 255, 120, true, 0x7FC0⟩
def fp32 : FpFmt := ⟨8, 23, 127, 16777215, 104, true, 0x7FC00000⟩

/-- The floating-point format of a format code (R76). -/
def fpOf (fmt : Nat) : Option FpFmt :=
  match fmt with
  | 5 => some fp4 | 6 => some fpE4m3 | 7 => some fpE5m2 | 8 => some fp16 | 9 => some bf16 | 0xA => some fp32
  | _ => none

/-- The integer range of a format code: smallest and largest (R76). -/
def intOf (fmt : Nat) : Option (Int × Int) :=
  match fmt with
  | 1 => some (-8, 7) | 2 => some (-128, 127) | 3 => some (0, 255) | 4 => some (-32768, 32767)
  | 0xB => some (-2147483648, 2147483647) | _ => none

/-- The width in bits of an element of a format (R76). -/
def fmtWidth (fmt : Nat) : Nat :=
  match fmt with
  | 1 => 4 | 5 => 4 | 4 => 16 | 8 => 16 | 9 => 16 | 0xA => 32 | 0xB => 32 | _ => 8

/-- The value of a floating-point code (R77). -/
def decodeFp (f : FpFmt) (code : Nat) : FV :=
  let sgn : Int := if bit code (f.ebits + f.mbits) then -1 else 1
  let e := bits code (f.ebits + f.mbits - 1) f.mbits
  let m := code % 2 ^ f.mbits
  if e = 0 then (if m = 0 then .zero else .fin (sgn * m) (1 - f.bias - f.mbits))
  else if e = 2 ^ f.ebits - 1 ∧ f.hasInf then (if m = 0 then .inf (sgn < 0) else .nan)
  else if e = 2 ^ f.ebits - 1 ∧ f.nan ≠ 0 ∧ m = 2 ^ f.mbits - 1 then .nan
  else .fin (sgn * (2 ^ f.mbits + m : Nat)) ((e : Int) - f.bias - f.mbits)

/-- The value of a code in a format; an integer code is its own value, UINT8 raw (R267). -/
def decodeFmt (fmt code : Nat) : FV :=
  match fpOf fmt with
  | some f => decodeFp f code
  | none =>
    if fmt = 3 then .fin (code % 256 : Nat) 0
    else .fin (sext (fmtWidth fmt) code) 0

/-- Round a finite value to a format's precision, subnormals included, with no bound above (R100). -/
def roundFp (f : FpFmt) (m e : Int) : Int × Int :=
  if m = 0 then (0, 0) else
    let q := max (topBit m e - f.mbits) (1 - f.bias - f.mbits)
    (roundAt m e q, q)

/-- Round a finite value to a format and saturate it (R78): the value, and whether it was clamped. -/
def satFp (f : FpFmt) (m e : Int) : Int × Int × Bool :=
  let r := roundFp f m e
  if dyLt f.maxM f.maxE (Int.natAbs r.1 : Int) r.2 then ((if r.1 < 0 then -f.maxM else f.maxM), f.maxE, true)
  else (r.1, r.2, false)

/-- The code of a value the format holds exactly; zero is +0 (R78). -/
def encodeFp (f : FpFmt) (m e : Int) : Nat :=
  if m = 0 then 0 else
    let sg := if m < 0 then 2 ^ (f.ebits + f.mbits) else 0
    let a : Int := m.natAbs
    let t := topBit m e
    if t < 1 - f.bias then sg + (roundAt a e (1 - f.bias - f.mbits)).toNat
    else sg + (t + f.bias).toNat * 2 ^ f.mbits + ((roundAt a e (t - f.mbits)).toNat - 2 ^ f.mbits)

/-- The canonical NaN code of a format, or 0 for a format without NaN (R77, R103). -/
def nanCode (fmt : Nat) : Nat := match fpOf fmt with | some f => f.nan | none => 0

/-- The code of largest magnitude with a sign (R103). DESIGN CHOICE (log entry 35): UINT8 has no negative code, and a negative
range error writes 0. -/
def maxCode (fmt : Nat) (neg : Bool) : Nat :=
  match fpOf fmt with
  | some f => encodeFp f (if neg then -f.maxM else f.maxM) f.maxE
  | none => match intOf fmt with
    | some (lo, hi) => toTwos (fmtWidth fmt) (if neg then lo else hi)
    | none => 0

/-- Round a finite value to FP32 and saturate (R78): the value and whether it was clamped. -/
def rnd32 (m e : Int) : Int × Int × Bool := satFp fp32 m e

/-- The FP32 code of a number. -/
def enc32 (v : FV) : Nat :=
  match v with
  | .nan => 0x7FC00000
  | .inf n => if n then 0xFF800000 else 0x7F800000
  | .fin m e => encodeFp fp32 m e

/-- The number of an FP32 code. -/
def dec32 (c : Nat) : FV := decodeFp fp32 c

/-! The quantiser (R80). -/

/-- An element as the quantiser takes it. -/
inductive QElem where
  | val (m e : Int)
  | invalid
  | ranged (neg : Bool)
  deriving DecidableEq, Repr

/-- emax of R80. -/
def quantEmax (fmt : Nat) : Int := match fmt with | 1 => 2 | 2 => 6 | 5 => 2 | 6 => 8 | 7 => 15 | _ => 0

/-- The shift of a group (R80): from the largest finite magnitude. -/
def quantShift (fmt : Nat) (ocp : Bool) (g : List QElem) : Int :=
  let top := g.foldl (fun (a : Option Int) x => match x with
    | .val m e => if m = 0 then a else some (match a with | some t => max t (topBit m e) | none => topBit m e)
    | _ => a) none
  let lo : Int := if ocp ∧ fmt = 2 then -133 else -127
  let hi : Int := if ocp ∧ fmt = 2 then 121 else 127
  match top with
  | some t => clampInt lo hi (t - quantEmax fmt)
  | none => -127

/-- The scale byte of a group (R80, R81). -/
def quantScale (fmt : Nat) (ocp : Bool) (g : List QElem) : Nat :=
  if g.any fun x => x == .invalid then 0xFF
  else (quantShift fmt ocp g + (if ocp ∧ fmt = 2 then 133 else 127)).toNat

/-- One element's code under a shift, rounded to nearest even; the symmetric integer ranges of R80. Gives the code and
whether it was clamped. -/
def quantCode (fmt : Nat) (s : Int) (x : QElem) : Nat × Bool :=
  match x with
  | .invalid => (nanCode fmt, false)
  | .ranged n => (match fpOf fmt with
      | some _ => (maxCode fmt n, true)
      | none => match intOf fmt with
        | some (_, hi) => (toTwos (fmtWidth fmt) (if n then -hi else hi), true)
        | none => (0, false))
  | .val m e => (match fpOf fmt with
      | some f => let r := satFp f m (e - s); (encodeFp f r.1 r.2.1, r.2.2)
      | none => match intOf fmt with
        | some (_, hi) =>
          let q := roundAt m (e - s) 0
          (toTwos (fmtWidth fmt) (clampInt (-hi) hi q), decide (q < -hi) || decide (hi < q))
        | none => (0, false))

/-! Correctly rounded functions (R274). -/

/-- A positive quotient rounded to FP32 precision as an exact value: 64 bits of quotient and a sticky bit. -/
def quotient (n d : Nat) : Int × Int :=
  if n = 0 then (0, 0) else
    let k := 64 + Nat.log2 d
    let q := n * 2 ^ k / d
    (((2 * q + (if n * 2 ^ k % d = 0 then 0 else 1) : Nat) : Int), -(k : Int) - 1)

/-- The exact quotient of two finite values with a sticky bit, ready to round. -/
def dyDiv (am ae bm be : Int) : Int × Int :=
  let q := quotient am.natAbs bm.natAbs
  ((if decide (am < 0) != decide (bm < 0) then -q.1 else q.1), q.2 + ae - be)

/-- The integer square root, bit by bit. -/
def isqrtBits : Nat → Nat → Nat → Nat
  | 0, _, r => r
  | k + 1, n, r => let c := r + 2 ^ k; isqrtBits k n (if c * c ≤ n then c else r)

/-- Floor of the square root. -/
def isqrt (n : Nat) : Nat := isqrtBits (Nat.log2 n / 2 + 1) n 0

/-- The square root of a positive value `m * 2^e` with a sticky bit. -/
def dySqrt (m e : Int) : Int × Int :=
  let a := m.natAbs * (if e % 2 = 0 then 1 else 2)
  let h := (e - e % 2) / 2
  let n := a * 2 ^ 160
  let q := isqrt n
  (((2 * q + (if q * q = n then 0 else 1) : Nat) : Int), h - 81)

/-- One over the square root of a positive value `m * 2^e`, with a sticky bit. -/
def dyRsqrt (m e : Int) : Int × Int :=
  let a := m.natAbs * (if e % 2 = 0 then 1 else 2)
  let h := (e - e % 2) / 2
  let kk := 2 * (Nat.log2 a + 80)
  let n := 2 ^ kk / a
  let q := isqrt n
  (((2 * q + (if q * q * a = 2 ^ kk then 0 else 1) : Nat) : Int), -(kk / 2 : Nat) - 1 - h)

/-- The fraction bits of the fixed-point evaluations: far below any FP32 rounding boundary. -/
def fixBits : Nat := 220

/-- One in fixed point. -/
def fixOne : Int := 2 ^ fixBits

/-- The product of two fixed-point values. -/
def fixMul (a b : Int) : Int := a * b / fixOne

/-- Σ x^k / k! from term `k` on, `t` the term before. -/
def expTerms : Nat → Int → Int → Nat → Int → Int
  | 0, _, _, _, acc => acc
  | f + 1, x, t, k, acc => let t' := fixMul t x / (k : Int); expTerms f x t' (k + 1) (acc + t')

/-- e^x in fixed point for a small x. -/
def fixExp (x : Int) : Int := expTerms 70 x fixOne 1 fixOne

/-- Σ z^(2k+1) / (2k+1). -/
def atanhTerms : Nat → Int → Int → Nat → Int → Int
  | 0, _, _, _, acc => acc
  | f + 1, z2, p, k, acc => atanhTerms f z2 (fixMul p z2) (k + 2) (acc + p / (k : Int))

/-- ln y in fixed point, y near 1. -/
def fixLn (y : Int) : Int :=
  let z := (y - fixOne) * fixOne / (y + fixOne)
  2 * atanhTerms 120 (fixMul z z) z 1 0

/-- ln 2 in fixed point: twice ln(4/3) plus ln(9/8). -/
def fixLn2 : Int := 2 * fixLn (fixOne * 4 / 3) + fixLn (fixOne * 9 / 8)

/-- Σ (-1)^k x^(2k+1) / (2k+1) for x = 1/n. -/
def atanInvTerms : Nat → Int → Int → Nat → Int → Int
  | 0, _, _, _, acc => acc
  | f + 1, n2, p, k, acc => atanInvTerms f n2 (-(p / n2)) (k + 2) (acc + p / (k : Int))

/-- The arctangent of 1/n in fixed point. -/
def fixAtanInv (n : Int) : Int := atanInvTerms 110 (n * n) (fixOne / n) 1 0

/-- π in fixed point. -/
def fixPi : Int := 16 * fixAtanInv 5 - 4 * fixAtanInv 239

/-- The alternating series of sine (from k = 1) or cosine (from k = 0). -/
def trigTerms : Nat → Int → Int → Nat → Int → Int
  | 0, _, _, _, acc => acc
  | f + 1, x2, t, k, acc => trigTerms f x2 (-(fixMul t x2) / (((k + 1) * (k + 2) : Nat) : Int)) (k + 2) (acc + t)

/-- sin θ and cos θ in fixed point, θ from 0 to π/2. -/
def fixSin (x : Int) : Int := trigTerms 50 (fixMul x x) x 1 0
def fixCos (x : Int) : Int := trigTerms 50 (fixMul x x) fixOne 0 0

/-- A fixed-point value, never exact, as an exact value with a sticky bit. -/
def fixSticky (x : Int) : Int × Int := (2 * x + 1, -(fixBits : Int) - 1)

/-- e^x for a finite nonzero FP32 value, ready to round (R274); a value far outside the range of FP32 keeps only its
side. -/
def dyExp (m e : Int) : Int × Int :=
  if dyLt 200 0 m e then (1, 400)
  else if dyLt m e (-200) 0 then (1, -400)
  else
    let x := roundAt m e (-(fixBits : Int))
    let k := (2 * x + fixLn2) / (2 * fixLn2)
    let r := fixSticky (fixExp (x - k * fixLn2))
    (r.1, r.2 + k)

/-- ln of a positive finite value, ready to round; ln 1 is exact. -/
def dyLn (m e : Int) : Int × Int :=
  let t := topBit m e
  if m = 2 ^ (t - e).toNat ∧ t = 0 then (0, 0) else
    let y := roundAt m (e - t) (-(fixBits : Int))
    let t' := if 3 * fixOne < 2 * y then t + 1 else t
    let y' := if 3 * fixOne < 2 * y then y / 2 else y
    fixSticky (t' * fixLn2 + fixLn y')

/-- sin 2πu and cos 2πu for u = b / 2^24, ready to round (R287). -/
def dySinCos (b : Nat) : (Int × Int) × (Int × Int) :=
  let q : Nat := b / 2 ^ 22 % 4
  let f : Nat := b % 2 ^ 22
  let th := fixPi * (f : Int) / 2 ^ 23
  let s : Int × Int := if f = 0 then (0, 0) else fixSticky (fixSin th)
  let c : Int × Int := if f = 0 then (1, 0) else fixSticky (fixCos th)
  let ng := fun (p : Int × Int) => (-p.1, p.2)
  match q with
  | 0 => (s, c)
  | 1 => (c, ng s)
  | 2 => (ng s, ng c)
  | _ => (ng c, s)

/-- Σ (-1)^k z^(2k+1) / (2^k k! (2k+1)): the integral of the standard normal density, times √2π. -/
def phiTerms : Nat → Int → Int → Nat → Int → Int
  | 0, _, _, _, acc => acc
  | f + 1, z2, t, k, acc => phiTerms f z2 (-(fixMul t z2) / ((2 * (k + 1) : Nat) : Int)) (k + 1) (acc + t / ((2 * k + 1 : Nat) : Int))

/-- √(2π) in fixed point. -/
def fixSqrt2Pi : Int := isqrt (2 * fixPi * fixOne).toNat

/-- Bisection for Φ(z) - 1/2 = p, z from 0 to 4, in fixed point. -/
def phiInv : Nat → Int → Int → Int → Int
  | 0, _, lo, _ => lo
  | f + 1, p, lo, hi =>
    let mid := (lo + hi) / 2
    if phiTerms 110 (fixMul mid mid) mid 0 0 ≤ p then phiInv f p mid hi else phiInv f p lo mid

/-- Entry i of the ROM table of R288: Φ⁻¹((i + 0.5) / 4,096) rounded to FP32, as an exact value. -/
def normalTab (i : Nat) : Int × Int :=
  let j := if i < 2048 then 4095 - i else i
  let p := fixSqrt2Pi * (2 * (j : Int) + 1 - 4096) / 8192
  let z := fixSticky (phiInv 160 p 0 (4 * fixOne))
  let r := rnd32 z.1 z.2
  if i < 2048 then (-r.1, r.2.1) else (r.1, r.2.1)

/-! The canonical tree (R38). -/

/-- One level of the tree: positions 2i and 2i + 1 combine, an odd last element passes unchanged. -/
def treeLevel {α : Type} (f : α → α → α) : List α → List α
  | a :: b :: t => f a b :: treeLevel f t
  | l => l

/-- The levels of the tree until one element remains. -/
def treeFuel {α : Type} (f : α → α → α) (z : α) : Nat → List α → α
  | 0, l => l.headD z
  | n + 1, l => match l with
    | [] => z
    | [a] => a
    | l => treeFuel f z n (treeLevel f l)

/-- The canonical pairwise tree over a list (R38); `z` for an empty one. -/
def canonTree {α : Type} (f : α → α → α) (z : α) (l : List α) : α := treeFuel f z l.length l

end Sys2Proof.Machine
end

