-- ==== Sys2Proof/Config.lean ====
section
/-! DEFINITION. What one part's manufacture fixes (fuses, identities) and the values the spec leaves open. Every
constant here is opaque, or a string of a length that a standard fixes whose bytes are: no proof can see a value of one, so a
statement that uses it holds for every value. -/

namespace Sys2Proof

/-- A value the spec does not state, drawn fresh: the counter is `State.fresh` (log entry 2). -/
opaque Config.freeValue : Nat → Nat

/-- What POOL writes for a vector without an in-bounds element (R230), where the spec states no result: one value for the
formats and modifier of the instruction and the element's place, the same on every run (R35). -/
opaque Config.emptyPool : Nat → Nat → Nat

/-- What a line of LPDDR reads as under a key it was not written under: "unrelated data" (R541); a function of the
device address of the byte, the tag it was written under and the tag it is read under. -/
opaque Config.unrelated : Nat → Nat → Nat → Byte

/-- What a pipe reads where R401's reflection of a window narrower than three pixels leaves the window: row and column. -/
opaque Config.outsideWindow : Int → Int → Nat

/-- Which 64 B lines of the on-chip memories the live_bytes of a step count (R23): step index, device address / 64. -/
opaque Config.liveLine : Nat → Nat → Bool

/-- What the CP kernel writes or names in a scratchpad for a token iteration (R245 to R251): the staging descriptors of a page
and their destinations, the zero page, the append descriptors and the writer's rows they read, and the slot table. -/
inductive KvItem where
  | codes | scales | whole | keySet | scaleArea | wideArea | zeroCodes | zeroScales | zeroWhole | appendK | appendV | appendScales
  | rowsK | rowsV | stagedScales | slotTable
  deriving DecidableEq, Repr

/-- One such thing: the package, the core, the batch slot, the pair and the logical page. -/
structure KvSite where
  package : List Byte
  item : KvItem
  core : Nat
  slot : Nat
  pair : Nat
  page : Nat
  deriving DecidableEq, Repr

/-- Where the compiler put it, which the spec does not say: a scratchpad line, the operand that names it in a descriptor, and
a stride in bytes (the distance from the key set to the value set; from one of the writer's rows to the next). -/
opaque Config.kvLine : KvSite → Nat
opaque Config.kvOperand : KvSite → Nat
opaque Config.kvStride : KvSite → Nat

/-- A batch slot's entry of the slot table (R245), whose layout the spec does not give: handle, length and bucket. -/
opaque Config.slotEntry : Nat → Nat → Nat → List Byte

/-- The encoders (R419, R423, R424), which the spec names and does not restate. What a session keeps of its frames depends on
its parameters, on what it kept before and on the next frame's bytes alone (R424); from it come the bytes that VX codes, the
picture's type and QP, and whether rate control skips it. -/
opaque Config.videoNext : List Nat → Nat → List Byte → Nat
opaque Config.videoBytes : Nat → List Byte
opaque Config.videoType : Nat → Nat
opaque Config.videoQp : Nat → Nat
opaque Config.videoSkip : Nat → Bool

/-- The level that the board drives on a pad whose driver of the device is off (R650): the pad, and the time on the 32.768 kHz
clock in parts of 9,375. -/
opaque Config.padLevel : Nat → Nat → Bool

/-- The life-cycle field and the anti-rollback counter as fused at manufacture (R527, R536). -/
opaque Config.lifeCycle : Nat
opaque Config.fuseCounter : Nat

/-- The magic of an adaptation-state export, whose value the spec does not give (R549). -/
opaque Config.exportMagicWord : Word
def Config.exportMagic : Nat := Config.exportMagicWord.toNat

/-- Whether a fused key digest slot is revoked (R534), and the fused debug-key digest (R529). -/
opaque Config.keyRevoked : Nat → Bool
opaque Config.debugKeyDigest : List Byte

/-- The public key under which Evlas signs life-cycle tokens (R527, R544). -/
opaque Config.evlasKey : List Byte

/-- The endpoint's MCTP UUID (R615), and the bytes of its platform descriptor records, by record and length, whose contents
the spec leaves to the standard. -/
opaque Config.endpointUuid : List Byte
opaque Config.pdrByte : Nat → Nat → Byte

/-- The version words that the device gives for an MCTP message type and for a PLDM type, by byte. -/
opaque Config.mctpVersion : Nat → Nat → Byte
opaque Config.pldmVersion : Nat → Nat → Byte

/-- The digest of the SC's boot ROM (R537), and the fused Vendor ID (R474). -/
opaque Config.romDigest : List Byte
opaque Config.vendorId : Nat

/-- The fuse-held device identity of CI_DEVICE_ID (R359). -/
opaque Config.deviceId : BitVec 64

/-- The unique device secret held in fuses (R537), 48 bytes. -/
opaque Config.deviceSecret : Nat → Byte

/-- The digest of the vendor's manifest key held in fuses (R534), by key index; none where no digest is fused. -/
opaque Config.rootKeyDigest : Nat → Option (List Byte)

/-- The output of the SC's DRBG (R292), drawn fresh by `State.fresh`. -/
opaque Config.drbg : Nat → Byte

/-- Whether an ECDSA P-384 signature verifies: public key, message and signature as byte strings (R534, R544; the
standard decides, its arithmetic is outside the spec). -/
opaque Config.ecdsaVerify : List Byte → List Byte → List Byte → Bool

/-- An ECDSA P-384 signature: private key, message, and the draw it uses. -/
opaque Config.ecdsaSign : List Byte → List Byte → Nat → List Byte

/-- The public key of a P-384 private key (SEC 1). -/
opaque Config.publicKey : List Byte → List Byte

/-- SHA-384 (FIPS 180-4) of a byte string, 48 bytes. -/
opaque Config.sha384Byte : List Byte → Nat → Byte
def Config.sha384 (d : List Byte) : List Byte := (List.range 48).map (Config.sha384Byte d)

/-- HMAC-SHA-384: key and message, 48 bytes. -/
opaque Config.hmac384Byte : List Byte → List Byte → Nat → Byte
def Config.hmac384 (key d : List Byte) : List Byte := (List.range 48).map (Config.hmac384Byte key d)

/-- AES-256-GCM sealing (SP 800-38D): key, nonce, additional data and plaintext give a ciphertext of its length and 16
bytes of tag. -/
opaque Config.gcmSealByte : List Byte → List Byte → List Byte → List Byte → Nat → Byte
def Config.gcmSeal (key nonce aad plain : List Byte) : List Byte :=
  (List.range (plain.length + 16)).map (Config.gcmSealByte key nonce aad plain)

/-- AES-256-GCM opening: key, nonce, additional data and ciphertext with its tag give the plaintext, if the tag holds. -/
opaque Config.gcmOpen : List Byte → List Byte → List Byte → List Byte → Option (List Byte)

end Sys2Proof
end

