-- ==== Sys2Proof/Machine/State.lean ====
section
/-! DEFINITION. The state of the ILX-2860 as plain data: every memory, register, queue and unit the spec gives the
machine, the queue of waiting commands, and the state right after reset. -/

namespace Sys2Proof.Machine

/-- How a register field behaves (R9). -/
inductive FieldKind where
  | rw | ro | w1c | w1s | wo | sc | rwl
  deriving DecidableEq, Repr

/-- One field of a register table: its bits, type, reset value, and how many of its top bits are growth bits (R14). -/
structure RegField where
  hi : Nat
  lo : Nat
  kind : FieldKind
  reset : Nat
  grow : Nat
  deriving DecidableEq, Repr

/-- A row of registers of one layout: the offset in its block, two strides with their counts, whether it is the low (1)
or the high (2) word of a pair (R12), and its fields. -/
structure RegRow where
  base : Nat
  stride1 : Nat
  count1 : Nat
  stride2 : Nat
  count2 : Nat
  pair : Nat
  fields : List RegField
  deriving DecidableEq, Repr

/-- A place in register space: BAR0 offset and bit range. -/
structure Fld where
  off : Nat
  hi : Nat
  lo : Nat
  deriving DecidableEq, Repr

/-- What the device sends outside (log entry 3). -/
inductive Output where
  /-- A write into host memory at a bus address. -/
  | hostWrite (addr : Nat) (data : List Byte)
  /-- An MSI-X interrupt with its vector. -/
  | msix (vector : Nat)
  /-- A frame sent on ring port 0 (N) or 1 (S), with its CRC-32C (R320). -/
  | frame (port : Nat) (f : RFrame) (crc : Nat)
  /-- A link word sent on a ring port. -/
  | linkWord (port : Nat) (fields : List Nat)
  /-- A response on a management transport. -/
  | mgmt (eid : Nat) (code : Nat) (data : List Byte)
  /-- An SPDM response: its code and fields. -/
  | spdm (code : Nat) (data : List Byte)
  /-- A report to the management processor: which unit, what, and its data. -/
  | toMp (what : Nat) (data : List Nat)
  /-- A value answered to a register or memory read. -/
  | readData (data : List Byte)
  /-- An access answered as Unsupported Request or bus error (R644). -/
  | refusedAccess (addr : Nat)
  /-- A side-port bus transaction on a controller. -/
  | sidePort (ctl : Nat) (data : List Byte)
  /-- A pin driven to a level. -/
  | pin (name : Nat) (level : Bool)
  deriving DecidableEq, Repr

/-- One repeat block in progress (R124). -/
structure RepFrame where
  start : Nat
  len : Nat
  left : Nat
  iter : Nat
  regA : Nat
  enA : Bool
  strideA : Int
  regB : Nat
  enB : Bool
  strideB : Int
  deriving DecidableEq, Repr

/-- One call level (R126): the routine entered, what RETURN restores, and the cost measured (R127). -/
structure CallFrame where
  routine : Nat
  saved : List Word
  retPos : Nat
  reps : List RepFrame
  callCycle : Nat
  stall : Nat
  cost : Nat
  len : Nat
  /-- Where the body starts in the routine store, in bytes (R129). -/
  body : Nat
  deriving DecidableEq, Repr

/-- An address-stream generator (R147, R148): its descriptor, whether it is bound, how many indices it has emitted since
it was bound, the cycle on which it last freed itself or restarted, the list lines it has read since then (line, cycle,
bytes), and the cycle on which a descriptor that waited for it was handed over (R153). -/
structure GenState where
  indirect : Bool
  start : Int
  levels : List (Nat × Int)
  listLine : Nat
  listLen : Nat
  bound : Bool
  pos : Nat
  freed : Nat
  lines : List (Nat × Nat × List Byte)
  handover : Nat
  deriving DecidableEq, Repr

/-- What an instruction issued earlier may still have to show to a read on an earlier cycle: the old contents of a line
of memory with the inverted bits of its eight stored words, an old valid bit, an old pair of region pointers. -/
inductive Undo where
  | line (addr : Nat) (old : List Byte) (flips : List (BitVec 72))
  | valid (region slot : Nat) (old : Bool)
  | ptr (region head tail : Nat)
  deriving DecidableEq, Repr

/-- A static scratchpad access (R176): its cycle, line, rank under R178, whether it writes, and the position of the
instruction that owns it. -/
structure SAcc where
  cycle : Nat
  line : Nat
  rank : Nat
  write : Bool
  pos : Nat
  deriving DecidableEq, Repr

/-- A resolved endpoint of a mover transfer (R202). -/
inductive EndPt where
  | sp (off : Nat)
  | region (n : Nat) (consume : Bool) (head : Nat)
  | hb (off : Nat)
  | ring (a off : Nat)
  | pool (tier addr : Nat)
  deriving DecidableEq, Repr

/-- A mover transfer queued or active (R201, R205). -/
structure Transfer where
  src : EndPt
  dst : EndPt
  length : Nat
  count1 : Nat
  count2 : Nat
  srcStride1 : Int
  srcStride2 : Int
  dstStride1 : Int
  dstStride2 : Int
  ffc : Nat
  unsigned : Bool
  fence : Bool
  done : Option (Nat × Word)
  active : Bool
  /-- Into a peer window: how many of its runs have been read, and the bursts of those runs that are still to open, each
  with its first line in the peer's horizon buffer (R327). -/
  pos : Nat
  rest : List (Nat × List Byte)
  /-- Where its MOVE stands: position, routine, call depth. -/
  ipos : Nat
  iroutine : Option Nat
  idepth : Nat
  /-- The number the mover gave it, counting its transfers from reset. -/
  serial : Nat
  deriving DecidableEq, Repr

/-- A weight bank of an array with the constants matched to it (R46, R50): the weight rows, row constants, stage
constants and drain constants as the front wrote them (empty after clearing, when all are zero), and its format. -/
structure Bank where
  fmt : Nat
  rows : List (List Byte)
  rowC : List (List Byte)
  stageC : List (List Byte)
  drainC : List Byte
  /-- Column lanes and row lanes the front marked invalid (R87), lane 0 first. -/
  colBad : List Bool
  rowBad : List Bool
  deriving DecidableEq, Repr

/-- A pass instruction as decoded and resolved at issue (R47, R132). -/
structure PassInst where
  load : Bool
  trans : Bool
  paired : Bool
  done : Option (Nat × Word)
  profile : Nat
  vectors : Nat
  wtAddr : Nat
  act : Nat
  actAddr : Nat
  out : Nat
  outAddr : Nat
  sample : Nat
  pos : Nat
  routine : Option Nat
  depth : Nat
  issue : Nat
  /-- B0 to B15 as the issue cycle reads them (R117); the profile names the one that gives the sample index (R135). -/
  regs : List Nat
  /-- Upsets inside the array while the instruction runs, brought by the outside world (R105, R106). -/
  upsets : List Upset
  /-- The profile record and the activation table copied on the start cycle (R99, R134). -/
  record : BitVec 256
  table : List Byte
  deriving DecidableEq, Repr

/-- A pass instruction as MA_STATUS sees it: its start cycle, the cycle of its last firing, the cycle of its last output,
its tag, whether it loads and whether it is paired (R49, R68), and whether MA_PASS_COUNT has counted it (R75). -/
structure Flight where
  start : Nat
  fired : Nat
  last : Nat
  tag : Bool
  load : Bool
  paired : Bool
  counted : Bool
  deriving DecidableEq, Repr

/-- One matrix array (R43 to R66). -/
structure ArrRt where
  /-- The two weight banks (R43, R46). -/
  bank0 : Bank
  bank1 : Bank
  /-- The current tag (R46). -/
  tag : Bool
  /-- X_0 and X_1 of R52; none is minus infinity. -/
  x0 : Option Nat
  x1 : Option Nat
  /-- Y of R52. -/
  y : Option Nat
  /-- The cycle after the last placed slot (R54). -/
  slotEnd : Nat
  /-- The cycle after the last output written. -/
  idleAt : Nat
  /-- The sixteen profiles of 32 B (R135). -/
  profiles : Sparse (BitVec 256)
  /-- The four table slots of the column drain (0 to 3) and of the row drain (4 to 7) (R98). -/
  tables : Sparse (List Byte)
  /-- Profiles named by issued instructions: profile, issue cycle, start cycle (R136). -/
  profUse : List (Nat × Nat × Nat)
  /-- Table slots named by issued instructions, with the cycle of their last output (R99). -/
  tabUse : List (Nat × Nat)
  /-- The streamed instruction in progress (R61). -/
  streamed : Option PassInst
  /-- An instruction that waits for the streamed one to complete (R54). -/
  heldPass : Option PassInst
  /-- Pass instructions that MA_STATUS counts (R68). -/
  flights : List Flight
  deriving DecidableEq, Repr

/-- An engine that takes one instruction at a time: VE, SU or GR (R153). -/
structure EngRt where
  /-- The cycle from which the engine accepts. -/
  free : Nat
  /-- The cycle on which a held instruction is handed over. -/
  handover : Nat
  /-- The cycle after its last write. -/
  idleAt : Nat
  deriving DecidableEq, Repr

/-- A core's running state beside its registers. -/
structure CoreRt where
  /-- B0 to B15 (R114). -/
  bregs : Sparse Word
  /-- Base registers as they stood at the start of cycle `bCycle` (R117). -/
  bOld : Sparse Word
  bCycle : Nat
  /-- The reference cycle of R115. -/
  ref : Nat
  /-- The cycle of the last issue, and the engines that issued on it (R116). -/
  lastIssue : Nat
  engines : List Nat
  /-- Position of the next instruction within the routine entered. -/
  rpos : Nat
  /-- The call stack, at most four deep (R126). -/
  calls : List CallFrame
  /-- The open repeat bodies of the stream executed, innermost first (R124). -/
  reps : List RepFrame
  /-- The sixteen address-stream generators (R147). -/
  gens : Sparse GenState
  /-- Descriptors that wait for their bound generator to free (R148). -/
  genLoads : Sparse (Option GenState)
  /-- The vector engine, the sampling unit and the grit generator (R153). -/
  ve : EngRt
  su : EngRt
  gr : EngRt
  /-- The vector engine's four table slots (R273). -/
  veTables : Sparse (List Byte)
  /-- Vector table slots named by issued instructions, with the cycle until which they are in use (R273). -/
  veTabUse : List (Nat × Nat)
  /-- The first half of a paired pass that waits for its partner (R134). -/
  half : Option (Nat × PassInst)
  /-- Regions named by issued instructions, with the cycle until which they are unfinished (R153). -/
  regionUse : List (Nat × Nat)
  /-- Slots claimed by accesses that have not made them valid (R150), as region * 4096 + slot. -/
  claims : List Nat
  /-- Lines of the main stream whose fetch met an invalid slot (R118). -/
  badLines : List Nat
  /-- The next line of the main stream to fetch (R118). -/
  fetched : Nat
  /-- The length of the core's main stream in instructions, once the firmware has laid out a package's stream (R131). -/
  streamLen : Option Nat
  /-- The wait the core stands in: object number, target, issue cycle, whether it opens the step (R142, R144). -/
  waiting : Option (Nat × Word × Nat × Bool)
  /-- Cycles of the present wait that a counter reset has already left behind (R156, R166). -/
  waitSkip : Nat
  /-- Where the step's opening stands: the next instruction is the first of the step (R27). -/
  stepOpen : Bool
  /-- A STEP_END that waits for busy engines, with its issue cycle (R123). -/
  stepEndAt : Option Nat
  /-- Issue is paused until a streamed instruction completes (R54). -/
  paused : Bool
  /-- Stream position of the anchor and its reference cycle (R155). -/
  anchorPos : Nat
  anchorRef : Nat
  /-- A default-mode schedule fault or static conflict stands (R154, R179). -/
  tgPending : Bool
  /-- Profiling mode as NC_START sampled it (R155). -/
  profiling : Bool
  /-- What issued instructions overwrote on later cycles, kept for reads on earlier ones (log entry 30). -/
  hist : List (Nat × Undo)
  /-- Static scratchpad accesses that a later issue may still conflict with (R176 to R179). -/
  accs : List SAcc
  /-- The cycle and bank of the static conflict that SP_CONFLICT_LOG holds (R187). -/
  conflictAt : Option (Nat × Nat)
  /-- The cycles of the faults that the tilth guard's log holds, in its order (R155, R169). -/
  tgCycles : List Nat
  /-- The core's own signals that land on later cycles: cycle, object, increment (R141). -/
  landings : List (Nat × Nat × Word)
  /-- The mover's queue, its active transfers among it (R201, R205). -/
  queue : List Transfer
  /-- The number of the next transfer queued (R205). -/
  nextSerial : Nat
  /-- The mover's round of tokens lost to a scrub: the scratchpad scrub runs (R183). -/
  scrubbing : Bool
  /-- Lines whose A-class correction waits for its write-back (R181). -/
  writebacks : List Nat
  /-- The grit key (R283) and which of its words have been written since it was last cleared (R297). -/
  gritKey : BitVec 128
  gritSeen : Nat
  deriving DecidableEq, Repr

/-! The ring (R316 to R361). -/

/-- One port of the ring (R319 to R321): whether training is done, the replay buffer with the frames not acknowledged,
the frames that wait, the credits left, whether frames are discarded until a resend, the round-robin turn, the time of
the last FENCE, and good frames received. -/
structure PortRt where
  trained : Bool
  replay : List RFrame
  waitC : List RFrame
  waitOwn : List RFrame
  waitTransit : List RFrame
  creditC : Nat
  creditD : Nat
  discarding : Bool
  ownTurn : Bool
  lastFence : Option Nat
  good : Nat
  /-- What the peer's greeting gave: its identity and its capability bits; and the bits this side offered in its own
  (R17, R319). -/
  peer : Option DWord
  caps : Nat
  offer : Nat
  deriving DecidableEq, Repr

/-- A burst this device has open as sender (R327, R329). -/
structure SendBurst where
  id : Nat
  core : Nat
  serial : Nat
  dst : Nat
  line : Nat
  data : List Byte
  restarts : Nat
  deriving DecidableEq, Repr

/-- A burst this device has open as receiver (R327, R328). -/
structure RecvBurst where
  id : Nat
  src : Nat
  enc : Bool
  line : Nat
  lines : Nat
  got : List Nat
  last : Bool
  epoch : Nat
  deriving DecidableEq, Repr

/-- A member of the ring table (R332). -/
structure Member where
  identity : DWord
  /-- None for an excluded device. -/
  address : Option Nat
  spare : Bool
  deriving DecidableEq, Repr

/-- What the head firmware does on the ring: enumerate in a direction (R331), or apply a table in its quiesce or commit
phase, with the members that have not replied (R333). -/
inductive HeadWork where
  | none
  /-- The direction, the records along S so far, and whether the millisecond for the frame's return has passed. -/
  | enumerate (south : Bool) (records : List (List Byte)) (late : Bool)
  /-- The members that have not replied. -/
  | quiesce (epoch : Nat) (table : List Member) (closed : Bool) (waiting : List DWord)
  | commit (epoch : Nat) (table : List Member) (closed : Bool) (waiting : List DWord)
  /-- The collection of NC_STEP before a boundary index is sent (R345). -/
  | collect (waiting : List DWord) (best : Nat)
  deriving DecidableEq, Repr

/-! The host interface (R474 to R510). -/

/-- A descriptor the firmware has taken and not completed (R487, R488). -/
structure Taken where
  index : Nat
  desc : List Byte
  start : Nat
  /-- A background command, or a job, has begun (R499). -/
  begun : Bool
  deriving DecidableEq, Repr

/-- A ring pair, or the event ring, as the firmware keeps it: the last accepted producer index, the driver's consumer index
(R487, R488), descriptors taken and not completed, completions since the last interrupt (R489), and whether the pair is
being disabled (R486). -/
structure RpRt where
  accepted : Nat
  consumer : Nat
  taken : List Taken
  unraised : Nat
  disabling : Bool
  deriving DecidableEq, Repr

def RpRt.reset : RpRt := ⟨0, 0, [], 0, false⟩

/-- The host interface. -/
structure HostRt where
  /-- Ring pairs 0 to 15 and the event ring, 16. -/
  pairs : Sparse RpRt
  /-- Events written since the event ring was enabled, and events lost since the last that fitted (R500, R502). -/
  evSeq : Nat
  evLost : Nat
  /-- Events of RAS that the firmware has not written yet: type, ring, payload (R502). -/
  evQueue : List (Nat × Nat × List Byte)
  /-- Capability bits granted at OPEN (R503, R504). -/
  granted : Nat
  /-- The host area: base and bytes (R485, R503). -/
  area : Option (Nat × Nat)
  /-- The boot window: the bytes received (R481). -/
  image : List Byte
  /-- The size code of the Resizable BAR on BAR2: 2^(28 + code) bytes, 16 GiB at reset (R7, R474). -/
  bar2 : Nat
  deriving DecidableEq, Repr

def HostRt.reset : HostRt := ⟨[], 0, 0, [], 0, none, [], 6⟩

/-- The ring logic. -/
structure RingRt where
  north : PortRt
  south : PortRt
  /-- The 16-bit burst counter (R327). -/
  burst : Nat
  /-- Bursts open as sender and as receiver (R327, R328). -/
  sends : List SendBurst
  recvs : List RecvBurst
  /-- Burst identifiers and sources already answered with reason 2 (R328). -/
  staleReplied : List (Nat × Nat)
  /-- Device time of the last commit (R337). -/
  commitTime : Nat
  /-- The ring is quiesced (R333): the address that the table gives this device, and the epoch the quiesce frame carried. -/
  quiesced : Bool
  claimed : Option Nat
  quiesceEpoch : Nat
  /-- Bursts that a quiesce abandoned: identifier, source, the epoch they were opened under (R336). -/
  oldRecvs : List (Nat × Nat × Nat)
  /-- Remote signals to this device's own address that wait while the fabric's clock stands stopped (R340, R565). -/
  loopback : List (Nat × Word)
  /-- The table of the last commit, in physical order along S, excluded devices without an address (R332). -/
  table : List Member
  /-- What this device does as head (R331, R333, R345). -/
  head : HeadWork
  /-- The head's records of the last enumeration, in physical order (R331). -/
  order : List (List Byte)
  /-- The link key in use, the key loaded for the next epoch, and the sender's frame counter (R346, R550). -/
  key : List Byte
  nextKey : Option (Nat × List Byte)
  txCount : Nat
  /-- The frame counter under the next epoch's key, which the commit frames use. -/
  txNext : Nat
  deriving DecidableEq, Repr

/-! Cameras (R362 to R397) and image pipes (R398 to R418). -/

/-- A camera frame from its Frame Start until its sample is released (R366, R375, R382): its buffer, sample time, CSI-2
frame number, ordinal, lines received, flags, augmentation, the colour words latched for it (R413), and on the pipe path
the payloads of its window lines and the output rows written. -/
structure CamFrame where
  buffer : Nat
  tSample : Int
  number : Nat
  ordinal : Nat
  lines : Nat
  truncated : Bool
  crc : Bool
  overflow : Bool
  flip : Bool
  cx : Nat
  cy : Nat
  gain : Nat
  colour : List Word
  rows : List (List Byte)
  served : Nat
  deriving DecidableEq, Repr

/-- A stream context: the open frame, whether packets of a dropped frame are being discarded, closed frames the pipe has
not finished, frames whose last line is visible, buffers in use (with the release that holds each), consecutive releases
it was absent from, and the SPI record sequence (R366, R368, R380). -/
structure StreamRt where
  cur : Option CamFrame
  dropping : Bool
  piped : List CamFrame
  ready : List CamFrame
  bufs : List (Nat × Option Nat)
  silent : Nat
  spiSeq : Nat
  deriving DecidableEq, Repr

def StreamRt.reset : StreamRt := ⟨none, false, [], [], [], 0, 0⟩

/-- A collection of samples, by stream context, with its deadline in device time (R376). -/
structure Collection where
  samples : List (Nat × CamFrame)
  deadline : Nat
  deriving DecidableEq, Repr

/-- A fusion group: its collections and the t_ref of its last release (R376), and the copies of its augmentation key and
base index: pending, committed and not latched, in use (R382). -/
structure GroupRt where
  current : Option Collection
  next : Option Collection
  lastRef : Option Int
  augSeed : BitVec 128
  augCommit : Option (BitVec 128 × Word)
  augKey : BitVec 128
  augN0 : Word
  deriving DecidableEq, Repr

def GroupRt.reset : GroupRt := ⟨none, none, none, 0, none, 0, 0⟩

/-- A pipe: the context served last, and whether a frame-mode turn goes on (R416). -/
structure IpRt where
  last : Option Nat
  serving : Bool
  deriving DecidableEq, Repr

def IpRt.reset : IpRt := ⟨none, false⟩

/-- The camera side. -/
structure CamRt where
  /-- The 32 stream contexts, the sixteen fusion groups and the two pipes (R363, R375, R398). -/
  streams : Sparse StreamRt
  groups : Sparse GroupRt
  pipes : Sparse IpRt
  /-- Active colour words of a context: words 0 to 31 as latched (R413); empty before the first latch. -/
  active : Sparse (List Word)
  /-- Frame-sync words in force (R371), and the outputs asserted. -/
  fsync : Sparse (List Word)
  fsyncOn : Nat
  /-- Device time of the last captured PPS edge (R374). -/
  ppsAt : Option Nat
  /-- Lines that wait for the scrub of their target to end, oldest first: target, line, bytes (R183, R196, R367). -/
  held : List (Nat × Nat × List Byte)
  deriving DecidableEq, Repr

def CamRt.reset : CamRt := ⟨[], [], [], [], [], 0, none, []⟩

/-! The memory controller (R438 to R473). -/

/-- A request a port has made of the memory controller (R443, R445): its line, key slot, the words written (none for a
read), and, once accepted, its deadline in tenths of a nanosecond. -/
structure McReq where
  port : Nat
  chan : Nat
  addr : Nat
  slot : Nat
  write : Bool
  mask : Nat
  data : List Byte
  deadline : Int
  deriving DecidableEq, Repr

/-- The memory controller beside its registers. -/
structure McRt where
  /-- Accepted requests, and requests that wait at their ports, each in order of age. -/
  reqs : List McReq
  held : List McReq
  /-- Refreshes owed by a channel, and the refresh rate its MR4 gave: 0, 1, 2 in the order of R449. -/
  owed : Sparse Nat
  mr4 : Sparse Nat
  /-- Channels in active power-down. -/
  powerDown : Nat
  /-- Effective targets T* in tenths of a nanosecond (R447). -/
  eff : Sparse Nat
  /-- Who holds the controller in self-refresh: 0 the firmware, 1 the AOC, 2 the memory PLL (R455, R457). -/
  causes : List Nat
  /-- The line last delivered to a port, and whether it was poisoned. -/
  delivered : Sparse (List Byte × Bool)
  /-- The training helper's operation and channels (R470), and the drift last measured (R458). -/
  run : Option (Nat × Nat)
  drift : Sparse Int
  /-- The drift has passed its limit and the firmware may retrain (R458). -/
  retrain : Bool
  /-- Lines of each channel whose contents a helper has replaced by its pattern: mode, seed, lines (R459). -/
  pattern : Sparse (Nat × Word × Nat)
  /-- The inline-ECC setting in service, and how often a change of it has left LPDDR undefined (R454). -/
  inlineNow : Bool
  era : Nat
  deriving DecidableEq, Repr

def McRt.reset : McRt := ⟨[], [], [], [], 0, [], [], [], none, [], false, [], false, 0⟩

/-! The firmware (R20 to R42, R208 to R216, R237 to R265, R309 to R315, R485 to R526). -/

/-- A 2 MiB block of a pool (R213): its tier and device address. -/
structure PoolBlock where
  tier : Nat
  addr : Nat
  deriving DecidableEq, Repr

/-- A package: its bytes, the ring size it is placed for with the ring address of each position, the tier-2 blocks that hold
its tier-2 data, and those of a ring member's copy of the whole package (R342). -/
structure Resident where
  bytes : List Byte
  ring : Nat
  place : List Nat
  blocks : List PoolBlock
  copy : List PoolBlock
  deriving DecidableEq, Repr

/-- Where a job stands (R511, R512): not yet prepared, in the pending set, running, suspended. -/
inductive JobPhase where
  | waiting | pending | running | suspended
  deriving DecidableEq, Repr

/-- A run of one bucket's step group in a token iteration (R257): the bucket and the sequences in its slots. -/
structure GroupRun where
  bucket : Nat
  slots : List Nat
  deriving DecidableEq, Repr

/-- A tier-3 frame being copied back for a job (R262): the sequence and page, the tier-3 frame, the tier-2 frame that the
copy fills, and the sequence's length when it was read. -/
structure KvCopy where
  handle : Nat
  page : Nat
  src : Nat
  dst : Nat
  length : Nat
  deriving DecidableEq, Repr

/-- A job from its JOB descriptor to its completion. -/
structure Job where
  /-- The job's number in the order of submission, its ring, descriptor and party (R498, R511). -/
  number : Nat
  ring : Nat
  taken : Taken
  party : Nat
  /-- Where it stands, whether its job block has been read, and whether its preparation has ended (R512). -/
  phase : JobPhase
  known : Bool
  prepared : Bool
  /-- Commanded while it runs (R515). -/
  stop : Bool
  suspend : Bool
  /-- The grit and augmentation seeds (R498), and n0 of each group from its input record (R382). -/
  grit : BitVec 128
  aug : BitVec 128
  augBase : List Word
  /-- The handles of its KV sequences and its adaptation identifier (R498). -/
  handles : List Nat
  adapt : Nat
  /-- I/O entries: first pool index and blocks (R498). -/
  io : List (Nat × List PoolBlock)
  /-- Class 3 blocks of the activation store (R315), and of the published generation that it reads from its first step to its
  end (R311). -/
  store : List PoolBlock
  gen : List PoolBlock
  /-- Copies of spilled frames that end before its first step (R262). -/
  copies : List KvCopy
  /-- Base and size of its sync window (R512). -/
  window : Nat × Nat
  /-- The envelope's data key and entries of a sealed job, as the SC keeps them until its completion (R548). -/
  sealedKey : List Byte
  sealedEnts : List (List Byte)
  /-- Tokens by which each token iteration advances each sequence, and the group runs left in the iteration in progress
  (R244, R257). -/
  iters : List (List Nat)
  groups : List GroupRun
  inGroups : Bool
  /-- The fallback entry it runs on, and whether a step of it has overrun its budget (R521 to R524). -/
  fallback : Option Nat
  overrun : Bool
  /-- Steps completed (R515). -/
  stepsRun : Nat
  /-- Where it stands: NC_STEP, and the step that ended there; while switched out also its save area, the live lines saved,
  the core records and the ring window's objects (R516, R518). -/
  step : Nat
  ended : Option Nat
  area : List PoolBlock
  saved : List (Nat × List Byte)
  records : List (List Byte)
  objects : List Word
  out : Bool
  deriving DecidableEq, Repr

/-- A KV sequence (R238, R243): owner, handle, cached length, marks, the number of the last job that named it, its pages'
frame and state, the content of dropped pages that a recompute writes again (R263), the place of its record in tier 2, and a
close that waits: its descriptor and the last job submitted before it. -/
structure Seq where
  party : Nat
  handle : Nat
  length : Nat
  fallback : Bool
  dropped : Bool
  lastUse : Nat
  pages : List (Nat × Nat)
  log : List Host.Cell
  place : Nat
  closing : Option (Nat × Nat × Nat)
  deriving DecidableEq, Repr

/-- Adaptation state (R311): owner, id, generation number, the two generations' blocks, whether it is incomplete (R334),
and a release that waits, with the last job submitted before it. -/
structure Adapt where
  party : Nat
  id : Nat
  gen : Nat
  live : List PoolBlock
  work : List PoolBlock
  incomplete : Bool
  releasing : Option (Nat × Nat × Nat)
  deriving DecidableEq, Repr

/-- A frame that a video session has not finished: input address and bytes, output address, timestamp, and the descriptor
that submitted it (ring and SQ index), if one did (R422). -/
structure VideoFrame where
  input : Nat
  bytes : Nat
  output : Nat
  stamp : Nat
  cmd : Option (Nat × Nat)
  deriving DecidableEq, Repr

/-- A video session (R421 to R425). -/
structure Video where
  /-- Its identifier, party, ring and OPEN operands (R421). -/
  session : Nat
  party : Nat
  ring : Nat
  codec : Nat
  depth : Nat
  width : Nat
  height : Nat
  rate : Nat
  refs : Nat
  /-- Rate control, its four QPs, and the target rate, largest rate, buffer and initial delay (R423, R497). -/
  control : Nat
  qps : List Nat
  rates : List Nat
  /-- The group and stream it is bound to, and its bitstream ring with the write position (R421, R422). -/
  group : Nat
  stream : Nat
  bits : Nat
  bitsLen : Nat
  bitsPos : Nat
  /-- Blocks of its session memory (R425). -/
  blocks : List PoolBlock
  /-- Frames submitted and not finished (R422). -/
  queue : List VideoFrame
  /-- Releases of the bound group that VX has taken (R422). -/
  releases : Nat
  /-- Pictures coded, what VX keeps of the frames it has taken, in their order (R424), and whether frames are skipped up to a
  key picture (R420). -/
  pictures : Nat
  coder : Nat
  skipTo : Bool
  /-- The VIDEO_CLOSE that waits: ring and SQ index. -/
  closing : Option (Nat × Nat)
  deriving DecidableEq, Repr

/-- The firmware. -/
structure FwRt where
  /-- OPEN has completed (R503). -/
  opened : Bool
  /-- The resident package (R520). -/
  pkg : Option Resident
  /-- A load in progress: its descriptor's index and the package, with what went wrong so far. -/
  loading : Option (Nat × Resident × Nat)
  /-- Reclaims in progress: descriptor index, first entry, count. -/
  reclaims : List (Nat × Nat × Nat)
  /-- Tier-2 blocks in use, by address / 2 MiB; host-window entries granted and in use. -/
  t2 : List Nat
  t3 : List Nat
  t3used : List Nat
  /-- Jobs submitted and not completed (R511). -/
  jobs : List Job
  /-- Jobs completed since OPEN: ring, tag, last NC_STEP (JOB_QUERY). -/
  past : List (Nat × Nat × Nat)
  /-- The number of the next job, and the party of the last that ran (R519). -/
  jobNo : Nat
  lastParty : Option Nat
  /-- Sync windows that parties' jobs have had: party, base, size (R519). -/
  windows : List (Nat × Nat × Nat)
  /-- Stream margins of the running path's cores (R28 to R30). -/
  margins : Sparse Nat
  /-- KV sequences open (R243). -/
  seqs : List Seq
  /-- KV blocks by 4096 × core + index (R241). -/
  kvBlocks : Sparse PoolBlock
  /-- The ring's KV policy is drop (R260). -/
  dropPolicy : Bool
  /-- Adaptation states (R311). -/
  adapts : List Adapt
  /-- Video sessions (R421). -/
  videos : List Video
  /-- The sequencer image failed its check (R426). -/
  vxRefused : Bool
  /-- The side-port transaction in progress: descriptor index and controller. -/
  side : Option (Nat × Nat)
  /-- SPI stream transactions set, and I3C dynamic addresses assigned, by controller. -/
  spiStream : Sparse (List Byte × Nat)
  dynAddr : Sparse (List Nat)
  /-- The fallback entry that the head has sent for a boundary (R524). -/
  ringEntry : Option Nat
  /-- Tier-2 and tier-3 bytes of each step's last run on a core, by 8 × step + core, with the pool layout it ran in; each
  core's counters at its last boundary; the running job's layout (R216). -/
  measured : Sparse (Nat × Nat × List PoolBlock)
  tierMark : Sparse (Nat × Nat)
  layout : List PoolBlock
  /-- Imports that wait for the running job's boundary (R213): ring and descriptor index, the generation, its bytes. -/
  imports : List (Nat × Nat × Nat × List Byte)
  /-- Blocks of LPDDR that hold the KV table records (R243), by address / 2 MiB. -/
  kvTable : List Nat
  /-- Sequencer memory of VX and the image digest it holds (R426). -/
  vxMem : List Byte
  deriving DecidableEq, Repr

def FwRt.reset : FwRt :=
  ⟨false, none, none, [], [], [], [], [], [], 0, none, [], [], [], [], false, [], [], false, none, [], [], none, [], [], [], [], [], []⟩

/-! The security controller (R527 to R556). -/

/-- An SPDM session: its identifier, and whether FINISH has completed it (R539). -/
structure SpdmSession where
  id : Nat
  open_ : Bool
  deriving DecidableEq, Repr

/-- A key request that waits for its records to be durable (R544, R545): its kind (1 party key, 2 ring key), slot, whether
it erases, the new key, the ring identifier, the proof it carries, and, once its KEY_PUT is durable, that record's sequence
number and generation. -/
structure KeyUpdate where
  kind : Nat
  index : Nat
  erase : Bool
  key : List Byte
  ringId : List Byte
  proof : List Byte
  put : Option (Nat × Nat)
  deriving DecidableEq, Repr

/-- The security controller beside its registers. -/
structure ScRt where
  /-- Bits blown in the life-cycle field and the highest counter value blown since manufacture (R527, R536), and the UDS
  read-disable fuse. -/
  lifeBlown : Nat
  svBlown : Nat
  udsRetired : Bool
  /-- CDI_L0, CDI_L1 and the Alias certificate (R537, R538). -/
  cdi0 : List Byte
  cdi1 : List Byte
  aliasCert : List Byte
  /-- The manifest of the last release (R533). -/
  manifest : List Byte
  /-- Sealing keys and their generation by slot, and the ring key with its identifier and generation (R545). -/
  psk : Sparse (Option (List Byte × Nat))
  ringKey : Option (List Byte × List Byte × Nat)
  /-- Job counters last accepted, by slot (R548). -/
  counters : Sparse (Option Nat)
  /-- The outstanding challenge of a debug, life-cycle or release request (R529). -/
  challenge : List Byte
  /-- Slots renewed whose release by the MP is due (R544, R556). -/
  renewed : List Nat
  /-- The data key and entries of the envelope last unsealed (R556). -/
  sealedKey : List Byte
  sealedEnts : List (List Byte)
  /-- The SPDM responder: steps of the negotiation done (1 version, 2 capabilities, 3 algorithms), and sessions (R539). -/
  spdm : Nat
  sessions : List SpdmSession
  nextSession : Nat
  /-- The digest of the resident package last measured (R556). -/
  measured : List Byte
  /-- Key requests in the order of their arrival; the first is in progress. -/
  updates : List KeyUpdate
  deriving DecidableEq, Repr

def ScRt.reset : ScRt := ⟨0, 0, false, [], [], [], [], [], none, [], [], [], [], [], 0, [], 0, [], []⟩

/-! The journal (R605 to R611). -/

/-- An append that waits for the JR block (R611): its writer (0 AOC, 1 SC, 2 MP), whether it is the power-fail record,
type and payload; and the flushed count to report when a sediment record is durable. -/
structure JrAppend where
  writer : Nat
  urgent : Bool
  type : Nat
  payload : List Byte
  flushed : Option Nat
  deriving DecidableEq, Repr

/-- The journal. -/
structure JrRt where
  /-- Bytes of the flash that differ from erased (R605). -/
  flash : Sparse Byte
  /-- The active set's generation, the write pointer within the set, and the next sequence number. -/
  gen : Nat
  wp : Nat
  seq : Nat
  /-- Appends that wait (R611). -/
  queue : List JrAppend
  /-- The record being written: its offset in the flash, and the append. -/
  writing : Option (Nat × JrAppend)
  /-- It is the retry after a flash error (R628). -/
  retried : Bool
  deriving DecidableEq, Repr

def JrRt.reset : JrRt := ⟨[], 0, 0x40, 1, [], none, false⟩

/-! The always-on controller, clocks and pads (R557 to R595, R612 to R618, R632 to R641). -/

/-- The always-on controller. -/
structure AocRt where
  /-- It owns the management port (R617); the MP has been released since the reset. -/
  owns : Bool
  released : Bool
  /-- Management profiles: endpoint and granted bits (R616). -/
  profiles : List (Nat × Nat)
  /-- The endpoint identifier assigned, 0 if none (R615). -/
  eid : Nat
  /-- The main domains are held in reset, by PERST#, by main power, by a thermal trip, in slumber. -/
  perst : Bool
  powered : Bool
  tripped : Bool
  slumber : Bool
  porst : Bool
  /-- The always-on tick on which the watchdog's timeout last started (R614). -/
  wdogAt : Nat
  deriving DecidableEq, Repr

def AocRt.reset : AocRt := ⟨true, false, [], 0, false, true, false, false, false, 0⟩

/-- Clocks and the governor; frequencies in units of half a megahertz (R564 to R578). -/
structure ClkRt where
  /-- The ceilings of R574: thermal and voltage by domain, and the power ceiling. -/
  thermal : Sparse Nat
  voltage : Sparse Nat
  power : Nat
  /-- Device time at which each domain stopped, and the frequency in MHz at which its PLL lost lock (R566). -/
  stopAt : Sparse Nat
  stopMhz : Sparse Nat
  /-- Domains whose PLL is relocking. -/
  lost : List Nat
  /-- The power-cap cut holds since this device time. -/
  cutAt : Option Nat
  /-- LIMIT events (R578): by kind × 256 + unit, one more than the device time of the last; by that key + 65,536, whether an
  episode runs. -/
  limits : Sparse Nat
  /-- Microseconds for which a core has stood at its V_max with slack below 8 % (R569). -/
  clipUs : Sparse Nat
  deriving DecidableEq, Repr

def ClkRt.reset : ClkRt := ⟨[], [], 1600, [], [], [], none, [], []⟩

/-- The count of a RAS unit (R599). -/
structure RasUnit where
  count : Nat
  start : Nat
  lasting : Bool
  deriving DecidableEq, Repr

/-- What may end a job with a status of R597, in R597's order of precedence, before the firmware's own statuses. -/
inductive JobCond where
  | clockFailed | unitFailed | hardwareLimit | uncorrectable | residue | streamAbandoned | transferFailed
  | ringFenced | ringReconfigured | ringFault | instructionFault | waitTimeout | scheduleFault
  deriving DecidableEq, Repr

/-- Reasons a machine of this kind could stop with a fault. The spec gives every command an effect, so none exists. -/
inductive Fault where
  deriving DecidableEq, Repr

/-- Reasons a command is turned away. -/
inductive Refusal where
  /-- Raised by the dispatch for a command whose meaning is not written; safe (nothing is proved about it). -/
  | notModelled (mnemonic : String)
  deriving DecidableEq, Repr

/-- The machine. -/
structure State where
  /-- Commands that wait, first in, first out. -/
  pending : List Instr
  /-- Scratchpads, horizon buffer, LPDDR, routine stores and CP memories, by device address (R643). -/
  mem : List Host.Cell
  /-- The key tag each LPDDR line was written under (R541). -/
  lineTag : Sparse Nat
  /-- Inverted bits of stored 72-bit words (R652), by device address / 8. -/
  ecc : Sparse (BitVec 72)
  /-- Every memory-mapped register, by BAR0 offset; the BAR4 pages at 0x400_0000 (R645, R479). -/
  regs : Sparse Word
  /-- Read latches and write holds of the pairs (R12), by pair and requester. -/
  latches : Sparse (Option Word)
  holds : Sparse (Option Word)
  /-- The 32,768 sync objects (R137). -/
  sync : Sparse Word
  /-- The eight cores, the sixteen matrix arrays (2 × core + array), and the RAS units. -/
  cores : Sparse CoreRt
  arrays : Sparse ArrRt
  ras : Sparse RasUnit
  /-- The sediment record: slot to entry (R601, R603). -/
  sediment : Sparse (BitVec 128)
  /-- Device time in ns and its fraction of 2^-32 ns (R372). -/
  devTime : DWord
  devFrac : Word
  /-- Ticks of the 32.768 kHz clock since always-on power-on (R601), and the 38.4 MHz cycles since the last tick. -/
  aonTicks : Nat
  refCount : Nat
  /-- Device time runs: the main domains are out of reset (R372, R601). -/
  timeRuns : Bool
  /-- Conditions that hold for the running job (R597), and whether one of them ends it at once. -/
  conds : List JobCond
  abortNow : Bool
  /-- The cores of the running job (R512, R597). -/
  jobCores : Nat
  /-- The generation of the key in each memory key slot (R541). -/
  slotGen : Sparse Nat
  /-- The ring interface, the host interface, cameras with pipes, the memory controller, the firmware, the security
  controller, the journal, the always-on controller, and the clocks with the governor. -/
  ring : RingRt
  host : HostRt
  cam : CamRt
  mc : McRt
  fw : FwRt
  sc : ScRt
  jr : JrRt
  aoc : AocRt
  clk : ClkRt
  /-- The level that holds a pad while its function changes: 1 low, 2 high (R633). -/
  pads : Sparse Nat
  /-- The running job is a ring job (R333, R338). -/
  jobRing : Bool
  /-- The event receiver's endpoint, once set (R618). -/
  evReceiver : Option Nat
  /-- The open interval of dropped writes (R600): drops so far. -/
  fenceOpen : Option Nat
  /-- Drawn by free values (log entry 2). -/
  fresh : Nat
  /-- What the device has sent outside, newest last (log entry 3). -/
  out : List Output
  deriving DecidableEq, Repr

def Bank.zero : Bank := ⟨0, [], [], [], [], [], []⟩

def ArrRt.reset : ArrRt :=
  { bank0 := .zero, bank1 := .zero, tag := true, x0 := none, x1 := none, y := none, slotEnd := 0, idleAt := 0,
    profiles := [], tables := [], profUse := [], tabUse := [], streamed := none, heldPass := none, flights := [] }

def GenState.reset : GenState := ⟨false, 0, [(1, 0)], 0, 1, false, 0, 0, [], 0⟩

def EngRt.reset : EngRt := ⟨0, 0, 0⟩

def CoreRt.reset : CoreRt :=
  { bregs := [], bOld := [], bCycle := 0, ref := 0, lastIssue := 0, engines := [], rpos := 0, calls := [], reps := [],
    gens := [], genLoads := [], ve := .reset, su := .reset, gr := .reset, veTables := [], veTabUse := [], half := none,
    regionUse := [], claims := [], badLines := [], fetched := 0, streamLen := none, waiting := none, waitSkip := 0, stepOpen := false, stepEndAt := none,
    paused := false, anchorPos := 0xFFFFFFFF, anchorRef := 0, tgPending := false, profiling := false, hist := [],
    accs := [], conflictAt := none, tgCycles := [], landings := [], queue := [], nextSerial := 0, scrubbing := false, writebacks := [], gritKey := 0, gritSeen := 0 }

def PortRt.reset : PortRt := ⟨false, [], [], [], [], 128, 1024, false, true, none, 0, none, 0, 0⟩

def RingRt.reset : RingRt :=
  { north := .reset, south := .reset, burst := 0, sends := [], recvs := [], staleReplied := [],
    commitTime := 0, quiesced := false, claimed := none, quiesceEpoch := 0, oldRecvs := [], loopback := [], table := [], head := .none, order := [], key := [],
    nextKey := none, txCount := 0, txNext := 0 }

/-- The machine right after reset. -/
def State.reset : State :=
  { pending := [], mem := [], lineTag := [], ecc := [], regs := [], latches := [], holds := [], sync := [], cores := [],
    arrays := [], ras := [], sediment := [], devTime := 0, devFrac := 0, aonTicks := 0, refCount := 0, timeRuns := true, conds := [], abortNow := false, jobCores := 0, slotGen := [], ring := .reset, host := .reset, cam := .reset, mc := .reset, fw := .reset, sc := .reset,
    jr := .reset, aoc := .reset, clk := .reset, pads := [], jobRing := false,
    evReceiver := none, fenceOpen := none, fresh := 0,
    out := [] }

end Sys2Proof.Machine
end

