-- ==== Sys2Proof/Machine/RegMap.lean ====
section
/-! DEFINITION. The register map: the fields of every register table of the spec (R67 to R651), each a place in the
BAR0 register space (R645, R646), the ring pages of BAR4 at 0x400_0000; and the descriptors that the generic register
write and reset values go by (R9, R11). Transcribed from the register tables of spec/. -/

namespace Sys2Proof.Machine

/-- MA_CTRL.clear_banks (R67). -/
def f_maCtrl_clear_banks (n a : Nat) : Fld := ⟨0x100000 * n + 0x40000 + 0x10000 * a + 0x0, 0, 0⟩
/-- MA_CTRL.count_en (R67). -/
def f_maCtrl_count_en (n a : Nat) : Fld := ⟨0x100000 * n + 0x40000 + 0x10000 * a + 0x0, 1, 1⟩
/-- MA_CTRL.count_reset (R67). -/
def f_maCtrl_count_reset (n a : Nat) : Fld := ⟨0x100000 * n + 0x40000 + 0x10000 * a + 0x0, 2, 2⟩
/-- MA_STATUS.passes_in_flight (R68). -/
def f_maStatus_passes_in_flight (n a : Nat) : Fld := ⟨0x100000 * n + 0x40000 + 0x10000 * a + 0x4, 1, 0⟩
/-- MA_STATUS.current_tag (R68). -/
def f_maStatus_current_tag (n a : Nat) : Fld := ⟨0x100000 * n + 0x40000 + 0x10000 * a + 0x4, 2, 2⟩
/-- MA_STATUS.front_active (R68). -/
def f_maStatus_front_active (n a : Nat) : Fld := ⟨0x100000 * n + 0x40000 + 0x10000 * a + 0x4, 3, 3⟩
/-- MA_STATUS.front_row (R68). -/
def f_maStatus_front_row (n a : Nat) : Fld := ⟨0x100000 * n + 0x40000 + 0x10000 * a + 0x4, 11, 4⟩
/-- MA_STATUS.bank0_format (R68). -/
def f_maStatus_bank0_format (n a : Nat) : Fld := ⟨0x100000 * n + 0x40000 + 0x10000 * a + 0x4, 15, 12⟩
/-- MA_STATUS.bank1_format (R68). -/
def f_maStatus_bank1_format (n a : Nat) : Fld := ⟨0x100000 * n + 0x40000 + 0x10000 * a + 0x4, 19, 16⟩
/-- MA_STATUS.mode (R68). -/
def f_maStatus_mode (n a : Nat) : Fld := ⟨0x100000 * n + 0x40000 + 0x10000 * a + 0x4, 20, 20⟩
/-- MA_STATUS.streamed_active (R68). -/
def f_maStatus_streamed_active (n a : Nat) : Fld := ⟨0x100000 * n + 0x40000 + 0x10000 * a + 0x4, 21, 21⟩
/-- MA_STATUS.clearing (R68). -/
def f_maStatus_clearing (n a : Nat) : Fld := ⟨0x100000 * n + 0x40000 + 0x10000 * a + 0x4, 22, 22⟩
/-- MA_STATUS.paired (R68). -/
def f_maStatus_paired (n a : Nat) : Fld := ⟨0x100000 * n + 0x40000 + 0x10000 * a + 0x4, 23, 23⟩
/-- MA_EVENT.stream_abandoned (R69). -/
def f_maEvent_stream_abandoned (n a : Nat) : Fld := ⟨0x100000 * n + 0x40000 + 0x10000 * a + 0x8, 0, 0⟩
/-- MA_EVENT.hb_uncorrectable (R69). -/
def f_maEvent_hb_uncorrectable (n a : Nat) : Fld := ⟨0x100000 * n + 0x40000 + 0x10000 * a + 0x8, 1, 1⟩
/-- MA_EVENT.clear_refused (R69). -/
def f_maEvent_clear_refused (n a : Nat) : Fld := ⟨0x100000 * n + 0x40000 + 0x10000 * a + 0x8, 2, 2⟩
/-- MA_EVENT.counter_wrap (R69). -/
def f_maEvent_counter_wrap (n a : Nat) : Fld := ⟨0x100000 * n + 0x40000 + 0x10000 * a + 0x8, 3, 3⟩
/-- MA_STREAM_LIMIT.limit_cycles (R70). -/
def f_maStreamLimit_limit_cycles (n a : Nat) : Fld := ⟨0x100000 * n + 0x40000 + 0x10000 * a + 0xC, 31, 0⟩
/-- MA_PASS_COUNT.passes_lo (R71). -/
def f_maPassCount_passes_lo (n a : Nat) : Fld := ⟨0x100000 * n + 0x40000 + 0x10000 * a + 0x10, 31, 0⟩
/-- MA_PASS_COUNT.passes_hi (R71). -/
def f_maPassCount_passes_hi (n a : Nat) : Fld := ⟨0x100000 * n + 0x40000 + 0x10000 * a + 0x14, 31, 0⟩
/-- MA_HOLD_CYCLES.hold_lo (R72). -/
def f_maHoldCycles_hold_lo (n a : Nat) : Fld := ⟨0x100000 * n + 0x40000 + 0x10000 * a + 0x18, 31, 0⟩
/-- MA_HOLD_CYCLES.hold_hi (R72). -/
def f_maHoldCycles_hold_hi (n a : Nat) : Fld := ⟨0x100000 * n + 0x40000 + 0x10000 * a + 0x1C, 31, 0⟩
/-- MA_DRY_CYCLES.dry_lo (R73). -/
def f_maDryCycles_dry_lo (n a : Nat) : Fld := ⟨0x100000 * n + 0x40000 + 0x10000 * a + 0x20, 31, 0⟩
/-- MA_DRY_CYCLES.dry_hi (R73). -/
def f_maDryCycles_dry_hi (n a : Nat) : Fld := ⟨0x100000 * n + 0x40000 + 0x10000 * a + 0x24, 31, 0⟩
/-- MA_BACKUP_CYCLES.backup_lo (R74). -/
def f_maBackupCycles_backup_lo (n a : Nat) : Fld := ⟨0x100000 * n + 0x40000 + 0x10000 * a + 0x28, 31, 0⟩
/-- MA_BACKUP_CYCLES.backup_hi (R74). -/
def f_maBackupCycles_backup_hi (n a : Nat) : Fld := ⟨0x100000 * n + 0x40000 + 0x10000 * a + 0x2C, 31, 0⟩
/-- MA_LAST_HOLD.hold (R75). -/
def f_maLastHold_hold (n a : Nat) : Fld := ⟨0x100000 * n + 0x40000 + 0x10000 * a + 0x30, 8, 0⟩
/-- MA_LAST_HOLD.pass_index (R75). -/
def f_maLastHold_pass_index (n a : Nat) : Fld := ⟨0x100000 * n + 0x40000 + 0x10000 * a + 0x30, 31, 16⟩
/-- MA_ARITH_EVENT.residue_mismatch (R108). -/
def f_maArithEvent_residue_mismatch (n a : Nat) : Fld := ⟨0x100000 * n + 0x40000 + 0x10000 * a + 0x40, 0, 0⟩
/-- MA_ARITH_EVENT.range_error (R108). -/
def f_maArithEvent_range_error (n a : Nat) : Fld := ⟨0x100000 * n + 0x40000 + 0x10000 * a + 0x40, 1, 1⟩
/-- MA_ARITH_EVENT.invalid_operand (R108). -/
def f_maArithEvent_invalid_operand (n a : Nat) : Fld := ⟨0x100000 * n + 0x40000 + 0x10000 * a + 0x40, 2, 2⟩
/-- MA_ARITH_EVENT.saturated (R108). -/
def f_maArithEvent_saturated (n a : Nat) : Fld := ⟨0x100000 * n + 0x40000 + 0x10000 * a + 0x40, 3, 3⟩
/-- MA_ARITH_EVENT.table_conflict (R108). -/
def f_maArithEvent_table_conflict (n a : Nat) : Fld := ⟨0x100000 * n + 0x40000 + 0x10000 * a + 0x40, 4, 4⟩
/-- MA_ARITH_EVENT.counts_clear (R108). -/
def f_maArithEvent_counts_clear (n a : Nat) : Fld := ⟨0x100000 * n + 0x40000 + 0x10000 * a + 0x40, 16, 16⟩
/-- MA_RESIDUE_LOG.valid (R109). -/
def f_maResidueLog_valid (n a : Nat) : Fld := ⟨0x100000 * n + 0x40000 + 0x10000 * a + 0x44, 0, 0⟩
/-- MA_RESIDUE_LOG.drain (R109). -/
def f_maResidueLog_drain (n a : Nat) : Fld := ⟨0x100000 * n + 0x40000 + 0x10000 * a + 0x44, 1, 1⟩
/-- MA_RESIDUE_LOG.lane (R109). -/
def f_maResidueLog_lane (n a : Nat) : Fld := ⟨0x100000 * n + 0x40000 + 0x10000 * a + 0x44, 2, 2⟩
/-- MA_RESIDUE_LOG.index (R109). -/
def f_maResidueLog_index (n a : Nat) : Fld := ⟨0x100000 * n + 0x40000 + 0x10000 * a + 0x44, 10, 3⟩
/-- MA_RESIDUE_LOG.stage (R109). -/
def f_maResidueLog_stage (n a : Nat) : Fld := ⟨0x100000 * n + 0x40000 + 0x10000 * a + 0x44, 13, 11⟩
/-- MA_RESIDUE_LOG.vector (R109). -/
def f_maResidueLog_vector (n a : Nat) : Fld := ⟨0x100000 * n + 0x40000 + 0x10000 * a + 0x44, 29, 14⟩
/-- MA_RESIDUE_LOG.more (R109). -/
def f_maResidueLog_more (n a : Nat) : Fld := ⟨0x100000 * n + 0x40000 + 0x10000 * a + 0x44, 30, 30⟩
/-- MA_SAT_COUNT.sat (R110). -/
def f_maSatCount_sat (n a : Nat) : Fld := ⟨0x100000 * n + 0x40000 + 0x10000 * a + 0x48, 15, 0⟩
/-- MA_SAT_COUNT.range (R110). -/
def f_maSatCount_range (n a : Nat) : Fld := ⟨0x100000 * n + 0x40000 + 0x10000 * a + 0x48, 31, 16⟩
/-- MA_INVALID_COUNT.invalid (R111). -/
def f_maInvalidCount_invalid (n a : Nat) : Fld := ⟨0x100000 * n + 0x40000 + 0x10000 * a + 0x4C, 31, 0⟩
/-- NC_CTRL.start (R156). -/
def f_ncCtrl_start (n : Nat) : Fld := ⟨0x100000 * n + 0x0, 0, 0⟩
/-- NC_CTRL.abort (R156). -/
def f_ncCtrl_abort (n : Nat) : Fld := ⟨0x100000 * n + 0x0, 1, 1⟩
/-- NC_CTRL.count_en (R156). -/
def f_ncCtrl_count_en (n : Nat) : Fld := ⟨0x100000 * n + 0x0, 2, 2⟩
/-- NC_CTRL.count_reset (R156). -/
def f_ncCtrl_count_reset (n : Nat) : Fld := ⟨0x100000 * n + 0x0, 3, 3⟩
/-- NC_STATUS.state (R157). -/
def f_ncStatus_state (n : Nat) : Fld := ⟨0x100000 * n + 0x4, 2, 0⟩
/-- NC_STATUS.call_depth (R157). -/
def f_ncStatus_call_depth (n : Nat) : Fld := ⟨0x100000 * n + 0x4, 5, 3⟩
/-- NC_STATUS.repeat_depth (R157). -/
def f_ncStatus_repeat_depth (n : Nat) : Fld := ⟨0x100000 * n + 0x4, 10, 6⟩
/-- NC_STATUS.tg_pending (R157). -/
def f_ncStatus_tg_pending (n : Nat) : Fld := ⟨0x100000 * n + 0x4, 11, 11⟩
/-- NC_STATUS.engine_busy (R157). -/
def f_ncStatus_engine_busy (n : Nat) : Fld := ⟨0x100000 * n + 0x4, 19, 12⟩
/-- NC_STREAM_POS.position (R158). -/
def f_ncStreamPos_position (n : Nat) : Fld := ⟨0x100000 * n + 0x8, 31, 0⟩
/-- NC_STEP.step (R159). -/
def f_ncStep_step (n : Nat) : Fld := ⟨0x100000 * n + 0xC, 31, 0⟩
/-- NC_BOUNDARY_CREDIT.credit (R160). -/
def f_ncBoundaryCredit_credit (n : Nat) : Fld := ⟨0x100000 * n + 0x10, 15, 0⟩
/-- NC_SYNC_WINDOW.base (R161). -/
def f_ncSyncWindow_base (n : Nat) : Fld := ⟨0x100000 * n + 0x14, 14, 0⟩
/-- NC_SYNC_WINDOW.size (R161). -/
def f_ncSyncWindow_size (n : Nat) : Fld := ⟨0x100000 * n + 0x14, 31, 16⟩
/-- NC_WAIT_LIMIT.limit_us (R162). -/
def f_ncWaitLimit_limit_us (n : Nat) : Fld := ⟨0x100000 * n + 0x18, 31, 0⟩
/-- NC_DECODE_FAULT.code (R163). -/
def f_ncDecodeFault_code (n : Nat) : Fld := ⟨0x100000 * n + 0x1C, 7, 0⟩
/-- NC_DECODE_FAULT.engine (R163). -/
def f_ncDecodeFault_engine (n : Nat) : Fld := ⟨0x100000 * n + 0x1C, 11, 8⟩
/-- NC_DECODE_FAULT.in_routine (R163). -/
def f_ncDecodeFault_in_routine (n : Nat) : Fld := ⟨0x100000 * n + 0x1C, 12, 12⟩
/-- NC_DECODE_FAULT.routine (R163). -/
def f_ncDecodeFault_routine (n : Nat) : Fld := ⟨0x100000 * n + 0x1C, 24, 13⟩
/-- NC_DECODE_POS.position (R164). -/
def f_ncDecodePos_position (n : Nat) : Fld := ⟨0x100000 * n + 0x20, 31, 0⟩
/-- NC_FREEZE_CYCLES.freeze_lo (R165). -/
def f_ncFreezeCycles_freeze_lo (n : Nat) : Fld := ⟨0x100000 * n + 0x28, 31, 0⟩
/-- NC_FREEZE_CYCLES.freeze_hi (R165). -/
def f_ncFreezeCycles_freeze_hi (n : Nat) : Fld := ⟨0x100000 * n + 0x2C, 31, 0⟩
/-- NC_WAIT_CYCLES.wait_lo (R166). -/
def f_ncWaitCycles_wait_lo (n : Nat) : Fld := ⟨0x100000 * n + 0x30, 31, 0⟩
/-- NC_WAIT_CYCLES.wait_hi (R166). -/
def f_ncWaitCycles_wait_hi (n : Nat) : Fld := ⟨0x100000 * n + 0x34, 31, 0⟩
/-- TG_CTRL.profiling (R167). -/
def f_tgCtrl_profiling (n : Nat) : Fld := ⟨0x100000 * n + 0x10000 + 0x0, 0, 0⟩
/-- TG_CTRL.log_clear (R167). -/
def f_tgCtrl_log_clear (n : Nat) : Fld := ⟨0x100000 * n + 0x10000 + 0x0, 1, 1⟩
/-- TG_STATUS.records (R168). -/
def f_tgStatus_records (n : Nat) : Fld := ⟨0x100000 * n + 0x10000 + 0x4, 4, 0⟩
/-- TG_STATUS.more_faults (R168). -/
def f_tgStatus_more_faults (n : Nat) : Fld := ⟨0x100000 * n + 0x10000 + 0x4, 31, 16⟩
/-- TG_LOG.record_word_w (R169). -/
def f_tgLog_word (n i : Nat) : Fld := ⟨0x100000 * n + 0x10000 + 0x100 + 4 * i, 31, 0⟩
/-- TG_REGION_CFG.base_line (R170). -/
def f_tgRegionCfg_base_line (n i : Nat) : Fld := ⟨0x100000 * n + 0x10000 + 0x1000 + 8 * i, 17, 0⟩
/-- TG_REGION_CFG.slot_lines_m1 (R170). -/
def f_tgRegionCfg_slot_lines_m1 (n i : Nat) : Fld := ⟨0x100000 * n + 0x10000 + 0x1000 + 8 * i, 23, 18⟩
/-- TG_REGION_CFG.slot_count_m1 (R170). -/
def f_tgRegionCfg_slot_count_m1 (n i : Nat) : Fld := ⟨0x100000 * n + 0x10000 + 0x1004 + 8 * i, 11, 0⟩
/-- TG_REGION_PTR.head (R171). -/
def f_tgRegionPtr_head (n i : Nat) : Fld := ⟨0x100000 * n + 0x10000 + 0x1200 + 4 * i, 11, 0⟩
/-- TG_REGION_PTR.tail (R171). -/
def f_tgRegionPtr_tail (n i : Nat) : Fld := ⟨0x100000 * n + 0x10000 + 0x1200 + 4 * i, 23, 12⟩
/-- TG_REGION_PTR.full (R171). -/
def f_tgRegionPtr_full (n i : Nat) : Fld := ⟨0x100000 * n + 0x10000 + 0x1200 + 4 * i, 24, 24⟩
/-- TG_VALID.valid (R172). -/
def f_tgValid_valid (n i : Nat) : Fld := ⟨0x100000 * n + 0x10000 + 0x4000 + 4 * i, 31, 0⟩
/-- SP_EVENT.corrected (R184). -/
def f_spEvent_corrected (n : Nat) : Fld := ⟨0x100000 * n + 0x20000 + 0x0, 0, 0⟩
/-- SP_EVENT.uncorrectable (R184). -/
def f_spEvent_uncorrectable (n : Nat) : Fld := ⟨0x100000 * n + 0x20000 + 0x0, 1, 1⟩
/-- SP_EVENT.static_conflict (R184). -/
def f_spEvent_static_conflict (n : Nat) : Fld := ⟨0x100000 * n + 0x20000 + 0x0, 2, 2⟩
/-- SP_EVENT.scrub_refused (R184). -/
def f_spEvent_scrub_refused (n : Nat) : Fld := ⟨0x100000 * n + 0x20000 + 0x0, 3, 3⟩
/-- SP_EVENT.counts_clear (R184). -/
def f_spEvent_counts_clear (n : Nat) : Fld := ⟨0x100000 * n + 0x20000 + 0x0, 16, 16⟩
/-- SP_CORR_COUNT.corrected (R185). -/
def f_spCorrCount_corrected (n : Nat) : Fld := ⟨0x100000 * n + 0x20000 + 0x4, 31, 0⟩
/-- SP_ERR_LOG.bank (R186). -/
def f_spErrLog_bank (n : Nat) : Fld := ⟨0x100000 * n + 0x20000 + 0x8, 5, 0⟩
/-- SP_ERR_LOG.row (R186). -/
def f_spErrLog_row (n : Nat) : Fld := ⟨0x100000 * n + 0x20000 + 0x8, 17, 6⟩
/-- SP_ERR_LOG.word (R186). -/
def f_spErrLog_word (n : Nat) : Fld := ⟨0x100000 * n + 0x20000 + 0x8, 20, 18⟩
/-- SP_ERR_LOG.uncorrectable (R186). -/
def f_spErrLog_uncorrectable (n : Nat) : Fld := ⟨0x100000 * n + 0x20000 + 0x8, 21, 21⟩
/-- SP_ERR_LOG.requester (R186). -/
def f_spErrLog_requester (n : Nat) : Fld := ⟨0x100000 * n + 0x20000 + 0x8, 26, 22⟩
/-- SP_ERR_LOG.valid (R186). -/
def f_spErrLog_valid (n : Nat) : Fld := ⟨0x100000 * n + 0x20000 + 0x8, 27, 27⟩
/-- SP_ERR_LOG.syndrome (R186). -/
def f_spErrLog_syndrome (n : Nat) : Fld := ⟨0x100000 * n + 0x20000 + 0xC, 7, 0⟩
/-- SP_CONFLICT_LOG.bank (R187). -/
def f_spConflictLog_bank (n : Nat) : Fld := ⟨0x100000 * n + 0x20000 + 0x10, 5, 0⟩
/-- SP_CONFLICT_LOG.winner (R187). -/
def f_spConflictLog_winner (n : Nat) : Fld := ⟨0x100000 * n + 0x20000 + 0x10, 9, 6⟩
/-- SP_CONFLICT_LOG.loser (R187). -/
def f_spConflictLog_loser (n : Nat) : Fld := ⟨0x100000 * n + 0x20000 + 0x10, 13, 10⟩
/-- SP_CONFLICT_LOG.loser_write (R187). -/
def f_spConflictLog_loser_write (n : Nat) : Fld := ⟨0x100000 * n + 0x20000 + 0x10, 14, 14⟩
/-- SP_CONFLICT_LOG.valid (R187). -/
def f_spConflictLog_valid (n : Nat) : Fld := ⟨0x100000 * n + 0x20000 + 0x10, 15, 15⟩
/-- SP_CONFLICT_LOG.more (R187). -/
def f_spConflictLog_more (n : Nat) : Fld := ⟨0x100000 * n + 0x20000 + 0x10, 31, 16⟩
/-- SP_CONFLICT_LOG.position (R187). -/
def f_spConflictLog_position (n : Nat) : Fld := ⟨0x100000 * n + 0x20000 + 0x14, 31, 0⟩
/-- SP_SCRUB.start (R188). -/
def f_spScrub_start (n : Nat) : Fld := ⟨0x100000 * n + 0x20000 + 0x18, 0, 0⟩
/-- SP_INJECT.arm (R189). -/
def f_spInject_arm (n : Nat) : Fld := ⟨0x100000 * n + 0x20000 + 0x1C, 0, 0⟩
/-- SP_INJECT.bank (R189). -/
def f_spInject_bank (n : Nat) : Fld := ⟨0x100000 * n + 0x20000 + 0x1C, 6, 1⟩
/-- SP_INJECT.word (R189). -/
def f_spInject_word (n : Nat) : Fld := ⟨0x100000 * n + 0x20000 + 0x1C, 9, 7⟩
/-- SP_INJECT.bit_a (R189). -/
def f_spInject_bit_a (n : Nat) : Fld := ⟨0x100000 * n + 0x20000 + 0x1C, 16, 10⟩
/-- SP_INJECT.bit_b (R189). -/
def f_spInject_bit_b (n : Nat) : Fld := ⟨0x100000 * n + 0x20000 + 0x1C, 23, 17⟩
/-- SP_INJECT.double (R189). -/
def f_spInject_double (n : Nat) : Fld := ⟨0x100000 * n + 0x20000 + 0x1C, 24, 24⟩
/-- HB_EVENT.corrected (R197). -/
def f_hbEvent_corrected : Fld := ⟨0x800000 + 0x0, 0, 0⟩
/-- HB_EVENT.uncorrectable (R197). -/
def f_hbEvent_uncorrectable : Fld := ⟨0x800000 + 0x0, 1, 1⟩
/-- HB_EVENT.counts_clear (R197). -/
def f_hbEvent_counts_clear : Fld := ⟨0x800000 + 0x0, 16, 16⟩
/-- HB_CORR_COUNT.corrected (R198). -/
def f_hbCorrCount_corrected : Fld := ⟨0x800000 + 0x4, 31, 0⟩
/-- HB_ERR_LOG.bank (R199). -/
def f_hbErrLog_bank : Fld := ⟨0x800000 + 0x8, 5, 0⟩
/-- HB_ERR_LOG.row (R199). -/
def f_hbErrLog_row : Fld := ⟨0x800000 + 0x8, 17, 6⟩
/-- HB_ERR_LOG.word (R199). -/
def f_hbErrLog_word : Fld := ⟨0x800000 + 0x8, 20, 18⟩
/-- HB_ERR_LOG.uncorrectable (R199). -/
def f_hbErrLog_uncorrectable : Fld := ⟨0x800000 + 0x8, 21, 21⟩
/-- HB_ERR_LOG.port (R199). -/
def f_hbErrLog_port : Fld := ⟨0x800000 + 0x8, 25, 22⟩
/-- HB_ERR_LOG.valid (R199). -/
def f_hbErrLog_valid : Fld := ⟨0x800000 + 0x8, 26, 26⟩
/-- HB_ERR_LOG.syndrome (R199). -/
def f_hbErrLog_syndrome : Fld := ⟨0x800000 + 0xC, 7, 0⟩
/-- HB_SCRUB.start (R200). -/
def f_hbScrub_start : Fld := ⟨0x800000 + 0x10, 0, 0⟩
/-- MV_STATUS.queued (R209). -/
def f_mvStatus_queued (n : Nat) : Fld := ⟨0x100000 * n + 0x30000 + 0x0, 6, 0⟩
/-- MV_STATUS.active (R209). -/
def f_mvStatus_active (n : Nat) : Fld := ⟨0x100000 * n + 0x30000 + 0x0, 10, 7⟩
/-- MV_EVENT.read_uncorrectable (R210). -/
def f_mvEvent_read_uncorrectable (n : Nat) : Fld := ⟨0x100000 * n + 0x30000 + 0x4, 0, 0⟩
/-- MV_EVENT.host_error (R210). -/
def f_mvEvent_host_error (n : Nat) : Fld := ⟨0x100000 * n + 0x30000 + 0x4, 1, 1⟩
/-- MV_EVENT.ring_error (R210). -/
def f_mvEvent_ring_error (n : Nat) : Fld := ⟨0x100000 * n + 0x30000 + 0x4, 2, 2⟩
/-- MV_EVENT.counter_wrap (R210). -/
def f_mvEvent_counter_wrap (n : Nat) : Fld := ⟨0x100000 * n + 0x30000 + 0x4, 3, 3⟩
/-- MV_EVENT.count_reset (R210). -/
def f_mvEvent_count_reset (n : Nat) : Fld := ⟨0x100000 * n + 0x30000 + 0x4, 16, 16⟩
/-- MV_TIER_BYTES.bytes_lo (R211). -/
def f_mvTierBytes_bytes_lo (n i : Nat) : Fld := ⟨0x100000 * n + 0x30000 + 0x10 + 8 * i, 31, 0⟩
/-- MV_TIER_BYTES.bytes_hi (R211). -/
def f_mvTierBytes_bytes_hi (n i : Nat) : Fld := ⟨0x100000 * n + 0x30000 + 0x14 + 8 * i, 31, 0⟩
/-- MV_POOL_MAP.valid (R212). -/
def f_mvPoolMap_valid (n i : Nat) : Fld := ⟨0x100000 * n + 0x30000 + 0x8000 + 8 * i, 0, 0⟩
/-- MV_POOL_MAP.tier (R212). -/
def f_mvPoolMap_tier (n i : Nat) : Fld := ⟨0x100000 * n + 0x30000 + 0x8000 + 8 * i, 1, 1⟩
/-- MV_POOL_MAP.class (R212). -/
def f_mvPoolMap_class (n i : Nat) : Fld := ⟨0x100000 * n + 0x30000 + 0x8000 + 8 * i, 4, 2⟩
/-- MV_POOL_MAP.addr_lo (R212). -/
def f_mvPoolMap_addr_lo (n i : Nat) : Fld := ⟨0x100000 * n + 0x30000 + 0x8000 + 8 * i, 31, 21⟩
/-- MV_POOL_MAP.addr_hi (R212). -/
def f_mvPoolMap_addr_hi (n i : Nat) : Fld := ⟨0x100000 * n + 0x30000 + 0x8004 + 8 * i, 15, 0⟩
/-- VE_EVENT.nan_produced (R293). -/
def f_veEvent_nan_produced (n : Nat) : Fld := ⟨0x100000 * n + 0x60000 + 0x0, 0, 0⟩
/-- VE_EVENT.saturated (R293). -/
def f_veEvent_saturated (n : Nat) : Fld := ⟨0x100000 * n + 0x60000 + 0x0, 1, 1⟩
/-- VE_EVENT.zero_divide (R293). -/
def f_veEvent_zero_divide (n : Nat) : Fld := ⟨0x100000 * n + 0x60000 + 0x0, 2, 2⟩
/-- VE_EVENT.counts_clear (R293). -/
def f_veEvent_counts_clear (n : Nat) : Fld := ⟨0x100000 * n + 0x60000 + 0x0, 16, 16⟩
/-- VE_SAT_COUNT.saturated (R294). -/
def f_veSatCount_saturated (n : Nat) : Fld := ⟨0x100000 * n + 0x60000 + 0x4, 31, 0⟩
/-- SU_EVENT.no_candidate (R295). -/
def f_suEvent_no_candidate (n : Nat) : Fld := ⟨0x100000 * n + 0x70000 + 0x0, 0, 0⟩
/-- SU_EVENT.nan_logit (R295). -/
def f_suEvent_nan_logit (n : Nat) : Fld := ⟨0x100000 * n + 0x70000 + 0x0, 1, 1⟩
/-- SU_EVENT.param_clamped (R295). -/
def f_suEvent_param_clamped (n : Nat) : Fld := ⟨0x100000 * n + 0x70000 + 0x0, 2, 2⟩
/-- GR_CTRL.seed_clear (R296). -/
def f_grCtrl_seed_clear (n : Nat) : Fld := ⟨0x100000 * n + 0x80000 + 0x0, 0, 0⟩
/-- GR_CTRL.self_test (R296). -/
def f_grCtrl_self_test (n : Nat) : Fld := ⟨0x100000 * n + 0x80000 + 0x0, 1, 1⟩
/-- GR_STATUS.seed_loaded (R297). -/
def f_grStatus_seed_loaded (n : Nat) : Fld := ⟨0x100000 * n + 0x80000 + 0x4, 0, 0⟩
/-- GR_STATUS.self_test_pass (R297). -/
def f_grStatus_self_test_pass (n : Nat) : Fld := ⟨0x100000 * n + 0x80000 + 0x4, 1, 1⟩
/-- GR_STATUS.self_test_fail (R297). -/
def f_grStatus_self_test_fail (n : Nat) : Fld := ⟨0x100000 * n + 0x80000 + 0x4, 2, 2⟩
/-- GR_SEED.seed (R298). -/
def f_grSeed_seed (n i : Nat) : Fld := ⟨0x100000 * n + 0x80000 + 0x10 + 4 * i, 31, 0⟩
/-- CI_CTRL.port_n_en (R349). -/
def f_ciCtrl_port_n_en : Fld := ⟨0x830000 + 0x0, 0, 0⟩
/-- CI_CTRL.port_s_en (R349). -/
def f_ciCtrl_port_s_en : Fld := ⟨0x830000 + 0x0, 1, 1⟩
/-- CI_CTRL.readmit (R349). -/
def f_ciCtrl_readmit : Fld := ⟨0x830000 + 0x0, 2, 2⟩
/-- CI_CTRL.encrypt_req (R349). -/
def f_ciCtrl_encrypt_req : Fld := ⟨0x830000 + 0x0, 3, 3⟩
/-- CI_STATUS.ring_state (R350). -/
def f_ciStatus_ring_state : Fld := ⟨0x830000 + 0x4, 1, 0⟩
/-- CI_STATUS.closed (R350). -/
def f_ciStatus_closed : Fld := ⟨0x830000 + 0x4, 2, 2⟩
/-- CI_STATUS.head (R350). -/
def f_ciStatus_head : Fld := ⟨0x830000 + 0x4, 3, 3⟩
/-- CI_STATUS.spare (R350). -/
def f_ciStatus_spare : Fld := ⟨0x830000 + 0x4, 4, 4⟩
/-- CI_STATUS.address (R350). -/
def f_ciStatus_address : Fld := ⟨0x830000 + 0x4, 10, 5⟩
/-- CI_STATUS.encrypt_active (R350). -/
def f_ciStatus_encrypt_active : Fld := ⟨0x830000 + 0x4, 11, 11⟩
/-- CI_EPOCH.epoch (R351). -/
def f_ciEpoch_epoch : Fld := ⟨0x830000 + 0x8, 31, 0⟩
/-- CI_PORT_STATUS.state (R352). -/
def f_ciPortStatus_state (i : Nat) : Fld := ⟨0x830000 + 0x10 + 4 * i, 2, 0⟩
/-- CI_PORT_STATUS.lane_reversed (R352). -/
def f_ciPortStatus_lane_reversed (i : Nat) : Fld := ⟨0x830000 + 0x10 + 4 * i, 3, 3⟩
/-- CI_PORT_STATUS.polarity (R352). -/
def f_ciPortStatus_polarity (i : Nat) : Fld := ⟨0x830000 + 0x10 + 4 * i, 11, 4⟩
/-- CI_HOLD_TIMER.hold_us (R353). -/
def f_ciHoldTimer_hold_us : Fld := ⟨0x830000 + 0x18, 19, 0⟩
/-- CI_RX_WINDOW.base_line (R354). -/
def f_ciRxWindow_base_line : Fld := ⟨0x830000 + 0x1C, 17, 0⟩
/-- CI_RX_WINDOW.lines (R354). -/
def f_ciRxWindow_lines : Fld := ⟨0x830000 + 0x20, 18, 0⟩
/-- CI_SYNC_WINDOW.base (R355). -/
def f_ciSyncWindow_base : Fld := ⟨0x830000 + 0x24, 14, 0⟩
/-- CI_SYNC_WINDOW.size (R355). -/
def f_ciSyncWindow_size : Fld := ⟨0x830000 + 0x24, 31, 16⟩
/-- CI_EVENT.stale_dropped (R356). -/
def f_ciEvent_stale_dropped : Fld := ⟨0x830000 + 0x28, 0, 0⟩
/-- CI_EVENT.fence_sent (R356). -/
def f_ciEvent_fence_sent : Fld := ⟨0x830000 + 0x28, 1, 1⟩
/-- CI_EVENT.fenced (R356). -/
def f_ciEvent_fenced : Fld := ⟨0x830000 + 0x28, 2, 2⟩
/-- CI_EVENT.burst_abandoned (R356). -/
def f_ciEvent_burst_abandoned : Fld := ⟨0x830000 + 0x28, 3, 3⟩
/-- CI_EVENT.window_refused (R356). -/
def f_ciEvent_window_refused : Fld := ⟨0x830000 + 0x28, 4, 4⟩
/-- CI_EVENT.sync_refused (R356). -/
def f_ciEvent_sync_refused : Fld := ⟨0x830000 + 0x28, 5, 5⟩
/-- CI_EVENT.malformed (R356). -/
def f_ciEvent_malformed : Fld := ⟨0x830000 + 0x28, 6, 6⟩
/-- CI_EVENT.auth_failed (R356). -/
def f_ciEvent_auth_failed : Fld := ⟨0x830000 + 0x28, 7, 7⟩
/-- CI_EVENT.port_change (R356). -/
def f_ciEvent_port_change : Fld := ⟨0x830000 + 0x28, 8, 8⟩
/-- CI_EVENT.counts_clear (R356). -/
def f_ciEvent_counts_clear : Fld := ⟨0x830000 + 0x28, 16, 16⟩
/-- CI_STALE_COUNT.stale (R357). -/
def f_ciStaleCount_stale : Fld := ⟨0x830000 + 0x2C, 31, 0⟩
/-- CI_COUNTS.replay_n (R358). -/
def f_ciCounts_replay_n : Fld := ⟨0x830000 + 0x30, 15, 0⟩
/-- CI_COUNTS.replay_s (R358). -/
def f_ciCounts_replay_s : Fld := ⟨0x830000 + 0x30, 31, 16⟩
/-- CI_COUNTS.abandoned (R358). -/
def f_ciCounts_abandoned : Fld := ⟨0x830000 + 0x34, 15, 0⟩
/-- CI_COUNTS.restarted (R358). -/
def f_ciCounts_restarted : Fld := ⟨0x830000 + 0x34, 31, 16⟩
/-- CI_DEVICE_ID.id_lo (R359). -/
def f_ciDeviceId_id_lo : Fld := ⟨0x830000 + 0x38, 31, 0⟩
/-- CI_DEVICE_ID.id_hi (R359). -/
def f_ciDeviceId_id_hi : Fld := ⟨0x830000 + 0x3C, 31, 0⟩
/-- CI_POSITION_MAP.address (R360). -/
def f_ciPositionMap_address (i : Nat) : Fld := ⟨0x830000 + 0x100 + 4 * i, 5, 0⟩
/-- CI_POSITION_MAP.valid (R360). -/
def f_ciPositionMap_valid (i : Nat) : Fld := ⟨0x830000 + 0x100 + 4 * i, 6, 6⟩
/-- CI_ROUTE.valid (R361). -/
def f_ciRoute_valid (i : Nat) : Fld := ⟨0x830000 + 0x200 + 4 * i, 0, 0⟩
/-- CI_ROUTE.port (R361). -/
def f_ciRoute_port (i : Nat) : Fld := ⟨0x830000 + 0x200 + 4 * i, 1, 1⟩
/-- CI_ROUTE.hops (R361). -/
def f_ciRoute_hops (i : Nat) : Fld := ⟨0x830000 + 0x200 + 4 * i, 5, 2⟩
/-- CI_ROUTE.spare (R361). -/
def f_ciRoute_spare (i : Nat) : Fld := ⟨0x830000 + 0x200 + 4 * i, 6, 6⟩
/-- CR_CFG.enable (R385). -/
def f_crCfg_enable (n : Nat) : Fld := ⟨0x840000 + 0x10000 * n + 0x0, 0, 0⟩
/-- CR_CFG.phy (R385). -/
def f_crCfg_phy (n : Nat) : Fld := ⟨0x840000 + 0x10000 * n + 0x0, 1, 1⟩
/-- CR_CFG.width (R385). -/
def f_crCfg_width (n : Nat) : Fld := ⟨0x840000 + 0x10000 * n + 0x0, 3, 2⟩
/-- CR_CFG.scramble (R385). -/
def f_crCfg_scramble (n : Nat) : Fld := ⟨0x840000 + 0x10000 * n + 0x0, 4, 4⟩
/-- CR_CFG.refclk_div (R385). -/
def f_crCfg_refclk_div (n : Nat) : Fld := ⟨0x840000 + 0x10000 * n + 0x0, 12, 5⟩
/-- CR_CFG.refclk_ss (R385). -/
def f_crCfg_refclk_ss (n : Nat) : Fld := ⟨0x840000 + 0x10000 * n + 0x0, 13, 13⟩
/-- CR_CFG.lane_map (R385). -/
def f_crCfg_lane_map (n : Nat) : Fld := ⟨0x840000 + 0x10000 * n + 0x0, 21, 14⟩
/-- CR_CFG.polarity (R385). -/
def f_crCfg_polarity (n : Nat) : Fld := ⟨0x840000 + 0x10000 * n + 0x0, 25, 22⟩
/-- CR_STATUS.state (R386). -/
def f_crStatus_state (n : Nat) : Fld := ⟨0x840000 + 0x10000 * n + 0x4, 1, 0⟩
/-- CR_STATUS.unmatched (R386). -/
def f_crStatus_unmatched (n : Nat) : Fld := ⟨0x840000 + 0x10000 * n + 0x4, 31, 16⟩
/-- CR_STATUS.hdr_corrected (R386). -/
def f_crStatus_hdr_corrected (n : Nat) : Fld := ⟨0x840000 + 0x10000 * n + 0x8, 9, 0⟩
/-- CR_STATUS.hdr_dropped (R386). -/
def f_crStatus_hdr_dropped (n : Nat) : Fld := ⟨0x840000 + 0x10000 * n + 0x8, 19, 10⟩
/-- CR_STATUS.crc_errors (R386). -/
def f_crStatus_crc_errors (n : Nat) : Fld := ⟨0x840000 + 0x10000 * n + 0x8, 31, 20⟩
/-- IA_TIME.time_lo (R387). -/
def f_iaTime_time_lo : Fld := ⟨0x8C0000 + 0x0, 31, 0⟩
/-- IA_TIME.time_hi (R387). -/
def f_iaTime_time_hi : Fld := ⟨0x8C0000 + 0x4, 31, 0⟩
/-- IA_TIME_RATE.rate_adj (R388). -/
def f_iaTimeRate_rate_adj : Fld := ⟨0x8C0000 + 0x8, 31, 0⟩
/-- IA_TIME_STEP.step_lo (R389). -/
def f_iaTimeStep_step_lo : Fld := ⟨0x8C0000 + 0x10, 31, 0⟩
/-- IA_TIME_STEP.step_hi (R389). -/
def f_iaTimeStep_step_hi : Fld := ⟨0x8C0000 + 0x14, 31, 0⟩
/-- IA_TIME_CTRL.source (R390). -/
def f_iaTimeCtrl_source : Fld := ⟨0x8C0000 + 0x18, 1, 0⟩
/-- IA_TIME_CTRL.pps_en (R390). -/
def f_iaTimeCtrl_pps_en : Fld := ⟨0x8C0000 + 0x18, 2, 2⟩
/-- IA_TIME_CTRL.pps_edge (R390). -/
def f_iaTimeCtrl_pps_edge : Fld := ⟨0x8C0000 + 0x18, 3, 3⟩
/-- IA_PPS_CAPTURE.capture_lo (R391). -/
def f_iaPpsCapture_capture_lo : Fld := ⟨0x8C0000 + 0x20, 31, 0⟩
/-- IA_PPS_CAPTURE.capture_hi (R391). -/
def f_iaPpsCapture_capture_hi : Fld := ⟨0x8C0000 + 0x24, 31, 0⟩
/-- IA_EVENT.config_refused (R392). -/
def f_iaEvent_config_refused : Fld := ⟨0x8C0000 + 0x30, 0, 0⟩
/-- IA_EVENT.stray_data (R392). -/
def f_iaEvent_stray_data : Fld := ⟨0x8C0000 + 0x30, 1, 1⟩
/-- IA_EVENT.truncated (R392). -/
def f_iaEvent_truncated : Fld := ⟨0x8C0000 + 0x30, 2, 2⟩
/-- IA_EVENT.no_buffer (R392). -/
def f_iaEvent_no_buffer : Fld := ⟨0x8C0000 + 0x30, 3, 3⟩
/-- IA_EVENT.late (R392). -/
def f_iaEvent_late : Fld := ⟨0x8C0000 + 0x30, 4, 4⟩
/-- IA_EVENT.group_overrun (R392). -/
def f_iaEvent_group_overrun : Fld := ⟨0x8C0000 + 0x30, 5, 5⟩
/-- IA_EVENT.stream_silent (R392). -/
def f_iaEvent_stream_silent : Fld := ⟨0x8C0000 + 0x30, 6, 6⟩
/-- IA_EVENT.pps_lost (R392). -/
def f_iaEvent_pps_lost : Fld := ⟨0x8C0000 + 0x30, 7, 7⟩
/-- IA_EVENT.step_refused (R392). -/
def f_iaEvent_step_refused : Fld := ⟨0x8C0000 + 0x30, 8, 8⟩
/-- IA_EVENT.counts_clear (R392). -/
def f_iaEvent_counts_clear : Fld := ⟨0x8C0000 + 0x30, 16, 16⟩
/-- IA_DROP_COUNT.truncated (R393). -/
def f_iaDropCount_truncated : Fld := ⟨0x8C0000 + 0x34, 15, 0⟩
/-- IA_DROP_COUNT.no_buffer (R393). -/
def f_iaDropCount_no_buffer : Fld := ⟨0x8C0000 + 0x34, 31, 16⟩
/-- IA_DROP_COUNT.late (R393). -/
def f_iaDropCount_late : Fld := ⟨0x8C0000 + 0x38, 15, 0⟩
/-- IA_DROP_COUNT.overrun (R393). -/
def f_iaDropCount_overrun : Fld := ⟨0x8C0000 + 0x38, 31, 16⟩
/-- IA_FSYNC.enable (R394). -/
def f_iaFsync_enable (i : Nat) : Fld := ⟨0x8C0000 + 0x100 + 16 * i, 0, 0⟩
/-- IA_FSYNC.polarity (R394). -/
def f_iaFsync_polarity (i : Nat) : Fld := ⟨0x8C0000 + 0x100 + 16 * i, 1, 1⟩
/-- IA_FSYNC.width_us (R394). -/
def f_iaFsync_width_us (i : Nat) : Fld := ⟨0x8C0000 + 0x100 + 16 * i, 17, 2⟩
/-- IA_FSYNC.period_ns (R394). -/
def f_iaFsync_period_ns (i : Nat) : Fld := ⟨0x8C0000 + 0x104 + 16 * i, 31, 0⟩
/-- IA_FSYNC.phase_ns (R394). -/
def f_iaFsync_phase_ns (i : Nat) : Fld := ⟨0x8C0000 + 0x108 + 16 * i, 31, 0⟩
/-- IA_STREAM.enable (R395). -/
def f_iaStream_enable (i : Nat) : Fld := ⟨0x8C0000 + 0x1000 + 32 * i, 0, 0⟩
/-- IA_STREAM.port (R395). -/
def f_iaStream_port (i : Nat) : Fld := ⟨0x8C0000 + 0x1000 + 32 * i, 3, 1⟩
/-- IA_STREAM.vc (R395). -/
def f_iaStream_vc (i : Nat) : Fld := ⟨0x8C0000 + 0x1000 + 32 * i, 8, 4⟩
/-- IA_STREAM.dt (R395). -/
def f_iaStream_dt (i : Nat) : Fld := ⟨0x8C0000 + 0x1000 + 32 * i, 14, 9⟩
/-- IA_STREAM.path (R395). -/
def f_iaStream_path (i : Nat) : Fld := ⟨0x8C0000 + 0x1000 + 32 * i, 16, 15⟩
/-- IA_STREAM.pipe (R395). -/
def f_iaStream_pipe (i : Nat) : Fld := ⟨0x8C0000 + 0x1000 + 32 * i, 17, 17⟩
/-- IA_STREAM.pipe_ctx (R395). -/
def f_iaStream_pipe_ctx (i : Nat) : Fld := ⟨0x8C0000 + 0x1000 + 32 * i, 24, 18⟩
/-- IA_STREAM.group (R395). -/
def f_iaStream_group (i : Nat) : Fld := ⟨0x8C0000 + 0x1000 + 32 * i, 28, 25⟩
/-- IA_STREAM.keep_truncated (R395). -/
def f_iaStream_keep_truncated (i : Nat) : Fld := ⟨0x8C0000 + 0x1000 + 32 * i, 29, 29⟩
/-- IA_STREAM.crc_drop (R395). -/
def f_iaStream_crc_drop (i : Nat) : Fld := ⟨0x8C0000 + 0x1000 + 32 * i, 30, 30⟩
/-- IA_STREAM.max_lines_m1 (R395). -/
def f_iaStream_max_lines_m1 (i : Nat) : Fld := ⟨0x8C0000 + 0x1004 + 32 * i, 15, 0⟩
/-- IA_STREAM.line_timeout_us (R395). -/
def f_iaStream_line_timeout_us (i : Nat) : Fld := ⟨0x8C0000 + 0x1004 + 32 * i, 25, 16⟩
/-- IA_STREAM.buffers_m1 (R395). -/
def f_iaStream_buffers_m1 (i : Nat) : Fld := ⟨0x8C0000 + 0x1004 + 32 * i, 29, 26⟩
/-- IA_STREAM.max_line_bytes_m1 (R395). -/
def f_iaStream_max_line_bytes_m1 (i : Nat) : Fld := ⟨0x8C0000 + 0x1008 + 32 * i, 15, 0⟩
/-- IA_STREAM.ts_offset (R395). -/
def f_iaStream_ts_offset (i : Nat) : Fld := ⟨0x8C0000 + 0x100C + 32 * i, 31, 0⟩
/-- IA_STREAM.aug_en (R395). -/
def f_iaStream_aug_en (i : Nat) : Fld := ⟨0x8C0000 + 0x1010 + 32 * i, 0, 0⟩
/-- IA_STREAM.flip_p (R395). -/
def f_iaStream_flip_p (i : Nat) : Fld := ⟨0x8C0000 + 0x1010 + 32 * i, 8, 1⟩
/-- IA_STREAM.margin_x (R395). -/
def f_iaStream_margin_x (i : Nat) : Fld := ⟨0x8C0000 + 0x1010 + 32 * i, 14, 9⟩
/-- IA_STREAM.margin_y (R395). -/
def f_iaStream_margin_y (i : Nat) : Fld := ⟨0x8C0000 + 0x1010 + 32 * i, 20, 15⟩
/-- IA_STREAM.gain_span (R395). -/
def f_iaStream_gain_span (i : Nat) : Fld := ⟨0x8C0000 + 0x1010 + 32 * i, 28, 21⟩
/-- IA_STREAM.raw_target (R395). -/
def f_iaStream_raw_target (i : Nat) : Fld := ⟨0x8C0000 + 0x1014 + 32 * i, 3, 0⟩
/-- IA_STREAM.raw_base_line (R395). -/
def f_iaStream_raw_base_line (i : Nat) : Fld := ⟨0x8C0000 + 0x1014 + 32 * i, 21, 4⟩
/-- IA_STREAM.stride_lines (R395). -/
def f_iaStream_stride_lines (i : Nat) : Fld := ⟨0x8C0000 + 0x1018 + 32 * i, 19, 0⟩
/-- IA_STREAM.ordinal (R395). -/
def f_iaStream_ordinal (i : Nat) : Fld := ⟨0x8C0000 + 0x101C + 32 * i, 31, 0⟩
/-- IA_GROUP.enable (R396). -/
def f_iaGroup_enable (i : Nat) : Fld := ⟨0x8C0000 + 0x2000 + 32 * i, 0, 0⟩
/-- IA_GROUP.min_members (R396). -/
def f_iaGroup_min_members (i : Nat) : Fld := ⟨0x8C0000 + 0x2000 + 32 * i, 6, 1⟩
/-- IA_GROUP.records_m1 (R396). -/
def f_iaGroup_records_m1 (i : Nat) : Fld := ⟨0x8C0000 + 0x2000 + 32 * i, 14, 7⟩
/-- IA_GROUP.members (R396). -/
def f_iaGroup_members (i : Nat) : Fld := ⟨0x8C0000 + 0x2004 + 32 * i, 31, 0⟩
/-- IA_GROUP.window_ns (R396). -/
def f_iaGroup_window_ns (i : Nat) : Fld := ⟨0x8C0000 + 0x2008 + 32 * i, 31, 0⟩
/-- IA_GROUP.deadline_us (R396). -/
def f_iaGroup_deadline_us (i : Nat) : Fld := ⟨0x8C0000 + 0x200C + 32 * i, 23, 0⟩
/-- IA_GROUP.ready_obj (R396). -/
def f_iaGroup_ready_obj (i : Nat) : Fld := ⟨0x8C0000 + 0x2010 + 32 * i, 14, 0⟩
/-- IA_GROUP.return_obj (R396). -/
def f_iaGroup_return_obj (i : Nat) : Fld := ⟨0x8C0000 + 0x2010 + 32 * i, 30, 16⟩
/-- IA_GROUP.record_base_line (R396). -/
def f_iaGroup_record_base_line (i : Nat) : Fld := ⟨0x8C0000 + 0x2014 + 32 * i, 17, 0⟩
/-- IA_GROUP.releases (R396). -/
def f_iaGroup_releases (i : Nat) : Fld := ⟨0x8C0000 + 0x2018 + 32 * i, 31, 0⟩
/-- IA_AUG.seed (R397). -/
def f_iaAug_seed (i j : Nat) : Fld := ⟨0x8C0000 + 0x3000 + 32 * i + 4 * j, 31, 0⟩
/-- IA_AUG.n0 (R397). -/
def f_iaAug_n0 (i : Nat) : Fld := ⟨0x8C0000 + 0x3010 + 32 * i, 31, 0⟩
/-- IP_CTRL.mode (R428). -/
def f_ipCtrl_mode (n : Nat) : Fld := ⟨0x8D0000 + 0x10000 * n + 0x0, 0, 0⟩
/-- IP_CTRL.stripe (R428). -/
def f_ipCtrl_stripe (n : Nat) : Fld := ⟨0x8D0000 + 0x10000 * n + 0x0, 2, 1⟩
/-- IP_STATUS.context (R429). -/
def f_ipStatus_context (n : Nat) : Fld := ⟨0x8D0000 + 0x10000 * n + 0x4, 4, 0⟩
/-- IP_STATUS.busy (R429). -/
def f_ipStatus_busy (n : Nat) : Fld := ⟨0x8D0000 + 0x10000 * n + 0x4, 5, 5⟩
/-- IP_STATUS.lm_used_kib (R429). -/
def f_ipStatus_lm_used_kib (n : Nat) : Fld := ⟨0x8D0000 + 0x10000 * n + 0x4, 18, 8⟩
/-- IP_EVENT.curve_busy (R430). -/
def f_ipEvent_curve_busy (n : Nat) : Fld := ⟨0x8D0000 + 0x10000 * n + 0x8, 0, 0⟩
/-- IP_EVENT.staging_full (R430). -/
def f_ipEvent_staging_full (n : Nat) : Fld := ⟨0x8D0000 + 0x10000 * n + 0x8, 1, 1⟩
/-- IP_EVENT.short_line (R430). -/
def f_ipEvent_short_line (n : Nat) : Fld := ⟨0x8D0000 + 0x10000 * n + 0x8, 2, 2⟩
/-- IP_EVENT.counts_clear (R430). -/
def f_ipEvent_counts_clear (n : Nat) : Fld := ⟨0x8D0000 + 0x10000 * n + 0x8, 16, 16⟩
/-- IP_SWITCH_COUNT.switches (R431). -/
def f_ipSwitchCount_switches (n : Nat) : Fld := ⟨0x8D0000 + 0x10000 * n + 0xC, 31, 0⟩
/-- VX_SEQ_CTRL.hold (R434). -/
def f_vxSeqCtrl_hold : Fld := ⟨0x8F0000 + 0x0, 0, 0⟩
/-- VX_SEQ_CTRL.release (R434). -/
def f_vxSeqCtrl_release : Fld := ⟨0x8F0000 + 0x0, 1, 1⟩
/-- VX_SEQ_CTRL.reset (R434). -/
def f_vxSeqCtrl_reset : Fld := ⟨0x8F0000 + 0x0, 2, 2⟩
/-- VX_SEQ_STATUS.state (R435). -/
def f_vxSeqStatus_state : Fld := ⟨0x8F0000 + 0x4, 2, 0⟩
/-- VX_SEQ_STATUS.bad_block (R435). -/
def f_vxSeqStatus_bad_block : Fld := ⟨0x8F0000 + 0x4, 8, 3⟩
/-- VX_SEQ_STATUS.heartbeat (R435). -/
def f_vxSeqStatus_heartbeat : Fld := ⟨0x8F0000 + 0x4, 31, 16⟩
/-- VX_EVENT.seq_fault (R436). -/
def f_vxEvent_seq_fault : Fld := ⟨0x8F0000 + 0x8, 0, 0⟩
/-- VX_EVENT.hrd_skip (R436). -/
def f_vxEvent_hrd_skip : Fld := ⟨0x8F0000 + 0x8, 1, 1⟩
/-- VX_EVENT.stream_error (R436). -/
def f_vxEvent_stream_error : Fld := ⟨0x8F0000 + 0x8, 2, 2⟩
/-- VX_LOAD.encode_mpix (R437). -/
def f_vxLoad_encode_mpix : Fld := ⟨0x8F0000 + 0xC, 15, 0⟩
/-- VX_LOAD.decode_mpix (R437). -/
def f_vxLoad_decode_mpix : Fld := ⟨0x8F0000 + 0xC, 31, 16⟩
/-- MC_CTRL.enable (R461). -/
def f_mcCtrl_enable : Fld := ⟨0x810000 + 0x0, 0, 0⟩
/-- MC_CTRL.inline_ecc (R461). -/
def f_mcCtrl_inline_ecc : Fld := ⟨0x810000 + 0x0, 1, 1⟩
/-- MC_CTRL.sr_req (R461). -/
def f_mcCtrl_sr_req : Fld := ⟨0x810000 + 0x0, 2, 2⟩
/-- MC_CTRL.pd_en (R461). -/
def f_mcCtrl_pd_en : Fld := ⟨0x810000 + 0x0, 3, 3⟩
/-- MC_CTRL.pd_idle (R461). -/
def f_mcCtrl_pd_idle : Fld := ⟨0x810000 + 0x0, 13, 4⟩
/-- MC_STATUS.state (R462). -/
def f_mcStatus_state : Fld := ⟨0x810000 + 0x4, 1, 0⟩
/-- MC_STATUS.bypass (R462). -/
def f_mcStatus_bypass : Fld := ⟨0x810000 + 0x4, 2, 2⟩
/-- MC_STATUS.rate (R462). -/
def f_mcStatus_rate : Fld := ⟨0x810000 + 0x4, 4, 3⟩
/-- MC_STATUS.u_ns (R462). -/
def f_mcStatus_u_ns : Fld := ⟨0x810000 + 0x4, 15, 5⟩
/-- MC_STATUS.target_raised (R462). -/
def f_mcStatus_target_raised : Fld := ⟨0x810000 + 0x4, 16, 16⟩
/-- MC_CONFIG.density (R463). -/
def f_mcConfig_density : Fld := ⟨0x810000 + 0x8, 17, 0⟩
/-- MC_CONFIG.rate_target (R463). -/
def f_mcConfig_rate_target : Fld := ⟨0x810000 + 0x8, 19, 18⟩
/-- MC_PORT.target (R464). -/
def f_mcPort_target (i : Nat) : Fld := ⟨0x810000 + 0x10 + 4 * i, 11, 0⟩
/-- MC_PORT.credits (R464). -/
def f_mcPort_credits (i : Nat) : Fld := ⟨0x810000 + 0x10 + 4 * i, 16, 12⟩
/-- MC_REFRESH.postpone (R465). -/
def f_mcRefresh_postpone : Fld := ⟨0x810000 + 0x40, 3, 0⟩
/-- MC_EVENT.link_corrected (R466). -/
def f_mcEvent_link_corrected : Fld := ⟨0x810000 + 0x44, 0, 0⟩
/-- MC_EVENT.inline_corrected (R466). -/
def f_mcEvent_inline_corrected : Fld := ⟨0x810000 + 0x44, 1, 1⟩
/-- MC_EVENT.uncorrectable (R466). -/
def f_mcEvent_uncorrectable : Fld := ⟨0x810000 + 0x44, 2, 2⟩
/-- MC_EVENT.qos_refused (R466). -/
def f_mcEvent_qos_refused : Fld := ⟨0x810000 + 0x44, 3, 3⟩
/-- MC_EVENT.dram_hot (R466). -/
def f_mcEvent_dram_hot : Fld := ⟨0x810000 + 0x44, 4, 4⟩
/-- MC_EVENT.bypass_entry (R466). -/
def f_mcEvent_bypass_entry : Fld := ⟨0x810000 + 0x44, 5, 5⟩
/-- MC_EVENT.drift_limit (R466). -/
def f_mcEvent_drift_limit : Fld := ⟨0x810000 + 0x44, 6, 6⟩
/-- MC_EVENT.config_refused (R466). -/
def f_mcEvent_config_refused : Fld := ⟨0x810000 + 0x44, 7, 7⟩
/-- MC_EVENT.counts_clear (R466). -/
def f_mcEvent_counts_clear : Fld := ⟨0x810000 + 0x44, 16, 16⟩
/-- MC_CORR_COUNT.link (R467). -/
def f_mcCorrCount_link : Fld := ⟨0x810000 + 0x48, 15, 0⟩
/-- MC_CORR_COUNT.inline (R467). -/
def f_mcCorrCount_inline : Fld := ⟨0x810000 + 0x48, 31, 16⟩
/-- MC_ERR_LOG.channel (R468). -/
def f_mcErrLog_channel : Fld := ⟨0x810000 + 0x4C, 4, 0⟩
/-- MC_ERR_LOG.bank (R468). -/
def f_mcErrLog_bank : Fld := ⟨0x810000 + 0x4C, 8, 5⟩
/-- MC_ERR_LOG.row (R468). -/
def f_mcErrLog_row : Fld := ⟨0x810000 + 0x4C, 25, 9⟩
/-- MC_ERR_LOG.link (R468). -/
def f_mcErrLog_link : Fld := ⟨0x810000 + 0x4C, 26, 26⟩
/-- MC_ERR_LOG.valid (R468). -/
def f_mcErrLog_valid : Fld := ⟨0x810000 + 0x4C, 27, 27⟩
/-- MC_ERR_LOG.port (R468). -/
def f_mcErrLog_port : Fld := ⟨0x810000 + 0x4C, 31, 28⟩
/-- MC_ERR_LOG.line (R468). -/
def f_mcErrLog_line : Fld := ⟨0x810000 + 0x50, 4, 0⟩
/-- MC_ERR_LOG.word (R468). -/
def f_mcErrLog_word : Fld := ⟨0x810000 + 0x50, 7, 5⟩
/-- MC_ERR_LOG.syndrome (R468). -/
def f_mcErrLog_syndrome : Fld := ⟨0x810000 + 0x50, 15, 8⟩
/-- MC_LAT_MAX.max_ns (R469). -/
def f_mcLatMax_max_ns (i : Nat) : Fld := ⟨0x810000 + 0x60 + 4 * i, 15, 0⟩
/-- MC_TRAIN_CTRL.channel_mask (R470). -/
def f_mcTrainCtrl_channel_mask : Fld := ⟨0x810000 + 0x100, 23, 0⟩
/-- MC_TRAIN_CTRL.op (R470). -/
def f_mcTrainCtrl_op : Fld := ⟨0x810000 + 0x100, 26, 24⟩
/-- MC_TRAIN_CTRL.start (R470). -/
def f_mcTrainCtrl_start : Fld := ⟨0x810000 + 0x100, 27, 27⟩
/-- MC_TRAIN_PATTERN.mode (R471). -/
def f_mcTrainPattern_mode : Fld := ⟨0x810000 + 0x104, 1, 0⟩
/-- MC_TRAIN_PATTERN.lines_m1 (R471). -/
def f_mcTrainPattern_lines_m1 : Fld := ⟨0x810000 + 0x104, 19, 2⟩
/-- MC_TRAIN_PATTERN.seed (R471). -/
def f_mcTrainPattern_seed : Fld := ⟨0x810000 + 0x108, 31, 0⟩
/-- MC_TRAIN_DELAY.rx_delay (R472). -/
def f_mcTrainDelay_rx_delay (i j : Nat) : Fld := ⟨0x810000 + 0x200 + 128 * i + 4 * j, 7, 0⟩
/-- MC_TRAIN_DELAY.tx_delay (R472). -/
def f_mcTrainDelay_tx_delay (i j : Nat) : Fld := ⟨0x810000 + 0x200 + 128 * i + 4 * j, 15, 8⟩
/-- MC_TRAIN_DELAY.vref (R472). -/
def f_mcTrainDelay_vref (i j : Nat) : Fld := ⟨0x810000 + 0x200 + 128 * i + 4 * j, 23, 16⟩
/-- MC_TRAIN_ERRORS.errors (R473). -/
def f_mcTrainErrors_errors (i j : Nat) : Fld := ⟨0x810000 + 0x1000 + 128 * i + 4 * j, 15, 0⟩
/-- HI_BAR2_SEG.enable (R478). -/
def f_hiBar2Seg_enable (i : Nat) : Fld := ⟨0x820000 + 0x100 + 8 * i, 0, 0⟩
/-- HI_BAR2_SEG.key_slot (R478). -/
def f_hiBar2Seg_key_slot (i : Nat) : Fld := ⟨0x820000 + 0x100 + 8 * i, 6, 1⟩
/-- HI_BAR2_SEG.base_lo (R478). -/
def f_hiBar2Seg_base_lo (i : Nat) : Fld := ⟨0x820000 + 0x100 + 8 * i, 31, 24⟩
/-- HI_BAR2_SEG.base_hi (R478). -/
def f_hiBar2Seg_base_hi (i : Nat) : Fld := ⟨0x820000 + 0x104 + 8 * i, 15, 0⟩
/-- HI_BOOT.state (R482). -/
def f_hiBoot_state : Fld := ⟨0x820000 + 0x0, 2, 0⟩
/-- HI_BOOT.unattested (R482). -/
def f_hiBoot_unattested : Fld := ⟨0x820000 + 0x0, 3, 3⟩
/-- HI_BOOT.go (R482). -/
def f_hiBoot_go : Fld := ⟨0x820000 + 0x0, 4, 4⟩
/-- HI_BOOT.blocks_checked (R482). -/
def f_hiBoot_blocks_checked : Fld := ⟨0x820000 + 0x0, 15, 8⟩
/-- HI_BOOT_LEN.bytes (R483). -/
def f_hiBootLen_bytes : Fld := ⟨0x820000 + 0x4, 19, 0⟩
/-- HI_FW_STATUS.state (R484). -/
def f_hiFwStatus_state : Fld := ⟨0x820000 + 0x8, 2, 0⟩
/-- HI_FW_STATUS.heartbeat (R484). -/
def f_hiFwStatus_heartbeat : Fld := ⟨0x820000 + 0x8, 31, 16⟩
/-- RP_BASE.addr_lo (R491). -/
def f_rpBase_addr_lo (q i : Nat) : Fld := ⟨0x4000000 + 0x1000 * q + 0x0 + 8 * i, 31, 6⟩
/-- RP_BASE.addr_hi (R491). -/
def f_rpBase_addr_hi (q i : Nat) : Fld := ⟨0x4000000 + 0x1000 * q + 0x4 + 8 * i, 15, 0⟩
/-- RP_CFG.enable (R492). -/
def f_rpCfg_enable (q : Nat) : Fld := ⟨0x4000000 + 0x1000 * q + 0x10, 0, 0⟩
/-- RP_CFG.log2_n (R492). -/
def f_rpCfg_log2_n (q : Nat) : Fld := ⟨0x4000000 + 0x1000 * q + 0x10, 4, 1⟩
/-- RP_CFG.party (R492). -/
def f_rpCfg_party (q : Nat) : Fld := ⟨0x4000000 + 0x1000 * q + 0x10, 10, 5⟩
/-- RP_CFG.priority (R492). -/
def f_rpCfg_priority (q : Nat) : Fld := ⟨0x4000000 + 0x1000 * q + 0x10, 13, 11⟩
/-- RP_CFG.vector (R492). -/
def f_rpCfg_vector (q : Nat) : Fld := ⟨0x4000000 + 0x1000 * q + 0x10, 19, 14⟩
/-- RP_IRQ.count (R493). -/
def f_rpIrq_count (q : Nat) : Fld := ⟨0x4000000 + 0x1000 * q + 0x14, 7, 0⟩
/-- RP_IRQ.timer_us (R493). -/
def f_rpIrq_timer_us (q : Nat) : Fld := ⟨0x4000000 + 0x1000 * q + 0x14, 17, 8⟩
/-- RP_DOORBELL.sq_producer (R494). -/
def f_rpDoorbell_sq_producer (q : Nat) : Fld := ⟨0x4000000 + 0x1000 * q + 0x20, 31, 0⟩
/-- RP_DOORBELL.cq_consumer (R494). -/
def f_rpDoorbell_cq_consumer (q : Nat) : Fld := ⟨0x4000000 + 0x1000 * q + 0x24, 31, 0⟩
/-- RP_INDEX.sq_head (R495). -/
def f_rpIndex_sq_head (q : Nat) : Fld := ⟨0x4000000 + 0x1000 * q + 0x28, 31, 0⟩
/-- RP_INDEX.cq_tail (R495). -/
def f_rpIndex_cq_tail (q : Nat) : Fld := ⟨0x4000000 + 0x1000 * q + 0x2C, 31, 0⟩
/-- HI_HOSTWIN.valid (R506). -/
def f_hiHostwin_valid (i : Nat) : Fld := ⟨0x820000 + 0x8000 + 8 * i, 0, 0⟩
/-- HI_HOSTWIN.write_en (R506). -/
def f_hiHostwin_write_en (i : Nat) : Fld := ⟨0x820000 + 0x8000 + 8 * i, 1, 1⟩
/-- HI_HOSTWIN.addr_lo (R506). -/
def f_hiHostwin_addr_lo (i : Nat) : Fld := ⟨0x820000 + 0x8000 + 8 * i, 31, 21⟩
/-- HI_HOSTWIN.addr_hi (R506). -/
def f_hiHostwin_addr_hi (i : Nat) : Fld := ⟨0x820000 + 0x8004 + 8 * i, 31, 0⟩
/-- HI_EVENT.ur_access (R509). -/
def f_hiEvent_ur_access : Fld := ⟨0x820000 + 0xC, 0, 0⟩
/-- HI_EVENT.poisoned_read (R509). -/
def f_hiEvent_poisoned_read : Fld := ⟨0x820000 + 0xC, 1, 1⟩
/-- HI_EVENT.poisoned_write (R509). -/
def f_hiEvent_poisoned_write : Fld := ⟨0x820000 + 0xC, 2, 2⟩
/-- HI_EVENT.host_write_refused (R509). -/
def f_hiEvent_host_write_refused : Fld := ⟨0x820000 + 0xC, 3, 3⟩
/-- HI_EVENT.doorbell_bad_access (R509). -/
def f_hiEvent_doorbell_bad_access : Fld := ⟨0x820000 + 0xC, 4, 4⟩
/-- HI_EVENT.outbound_refused (R509). -/
def f_hiEvent_outbound_refused : Fld := ⟨0x820000 + 0xC, 5, 5⟩
/-- HI_LINK.speed (R510). -/
def f_hiLink_speed : Fld := ⟨0x820000 + 0x10, 2, 0⟩
/-- HI_LINK.width (R510). -/
def f_hiLink_width : Fld := ⟨0x820000 + 0x10, 6, 3⟩
/-- HI_JOB_COUNT.jobs_lo (R526). -/
def f_hiJobCount_jobs_lo (i : Nat) : Fld := ⟨0x820000 + 0x200 + 8 * i, 31, 0⟩
/-- HI_JOB_COUNT.jobs_hi (R526). -/
def f_hiJobCount_jobs_hi (i : Nat) : Fld := ⟨0x820000 + 0x204 + 8 * i, 31, 0⟩
/-- NC_CP_CTRL.release (R532). -/
def f_ncCpCtrl_release (n : Nat) : Fld := ⟨0x100000 * n + 0x40, 0, 0⟩
/-- NC_CP_CTRL.hold (R532). -/
def f_ncCpCtrl_hold (n : Nat) : Fld := ⟨0x100000 * n + 0x40, 1, 1⟩
/-- NC_CP_CTRL.running (R532). -/
def f_ncCpCtrl_running (n : Nat) : Fld := ⟨0x100000 * n + 0x40, 2, 2⟩
/-- SC_STATUS.life_cycle (R553). -/
def f_scStatus_life_cycle : Fld := ⟨0x910000 + 0x0, 2, 0⟩
/-- SC_STATUS.attested (R553). -/
def f_scStatus_attested : Fld := ⟨0x910000 + 0x0, 3, 3⟩
/-- SC_STATUS.keys_locked (R553). -/
def f_scStatus_keys_locked : Fld := ⟨0x910000 + 0x0, 4, 4⟩
/-- SC_STATUS.debug_unlocked (R553). -/
def f_scStatus_debug_unlocked : Fld := ⟨0x910000 + 0x0, 5, 5⟩
/-- SC_STATUS.sv_counter (R553). -/
def f_scStatus_sv_counter : Fld := ⟨0x910000 + 0x0, 12, 6⟩
/-- SC_STATUS.tamper_seen (R553). -/
def f_scStatus_tamper_seen : Fld := ⟨0x910000 + 0x0, 13, 13⟩
/-- SC_STATUS.keys_replayed (R553). -/
def f_scStatus_keys_replayed : Fld := ⟨0x910000 + 0x0, 14, 14⟩
/-- SC_SLOT.psk_present (R554). -/
def f_scSlot_psk_present (i : Nat) : Fld := ⟨0x910000 + 0x100 + 4 * i, 0, 0⟩
/-- SC_SLOT.sealed (R554). -/
def f_scSlot_sealed (i : Nat) : Fld := ⟨0x910000 + 0x100 + 4 * i, 1, 1⟩
/-- SC_SLOT.in_use (R554). -/
def f_scSlot_in_use (i : Nat) : Fld := ⟨0x910000 + 0x100 + 4 * i, 2, 2⟩
/-- SC_SLOT.renewals (R554). -/
def f_scSlot_renewals (i : Nat) : Fld := ⟨0x910000 + 0x100 + 4 * i, 15, 8⟩
/-- SC_CORE_SLOT.key_slot (R555). -/
def f_scCoreSlot_key_slot (i : Nat) : Fld := ⟨0x910000 + 0x200 + 4 * i, 5, 0⟩
/-- SC_MBOX_CMD.op (R556). -/
def f_scMboxCmd_op : Fld := ⟨0x910000 + 0x400, 7, 0⟩
/-- SC_MBOX_CMD.go (R556). -/
def f_scMboxCmd_go : Fld := ⟨0x910000 + 0x400, 8, 8⟩
/-- SC_MBOX_CMD.status (R556). -/
def f_scMboxCmd_status : Fld := ⟨0x910000 + 0x400, 23, 16⟩
/-- CRU_PLL_CTRL.enable (R580). -/
def f_cruPllCtrl_enable (i : Nat) : Fld := ⟨0x940000 + 0x0 + 8 * i, 0, 0⟩
/-- CRU_PLL_CTRL.ss_en (R580). -/
def f_cruPllCtrl_ss_en (i : Nat) : Fld := ⟨0x940000 + 0x0 + 8 * i, 1, 1⟩
/-- CRU_PLL_CTRL.ss_depth (R580). -/
def f_cruPllCtrl_ss_depth (i : Nat) : Fld := ⟨0x940000 + 0x0 + 8 * i, 6, 2⟩
/-- CRU_PLL_CTRL.ss_rate (R580). -/
def f_cruPllCtrl_ss_rate (i : Nat) : Fld := ⟨0x940000 + 0x0 + 8 * i, 12, 7⟩
/-- CRU_PLL_STATUS.locked (R581). -/
def f_cruPllStatus_locked (i : Nat) : Fld := ⟨0x940000 + 0x4 + 8 * i, 0, 0⟩
/-- CRU_PLL_STATUS.ready (R581). -/
def f_cruPllStatus_ready (i : Nat) : Fld := ⟨0x940000 + 0x4 + 8 * i, 1, 1⟩
/-- CRU_PLL_STATUS.failed (R581). -/
def f_cruPllStatus_failed (i : Nat) : Fld := ⟨0x940000 + 0x4 + 8 * i, 2, 2⟩
/-- CRU_PLL_STATUS.attempts (R581). -/
def f_cruPllStatus_attempts (i : Nat) : Fld := ⟨0x940000 + 0x4 + 8 * i, 4, 3⟩
/-- CRU_PLL_STATUS.losses (R581). -/
def f_cruPllStatus_losses (i : Nat) : Fld := ⟨0x940000 + 0x4 + 8 * i, 15, 8⟩
/-- CRU_DOMAIN.src (R582). -/
def f_cruDomain_src (i : Nat) : Fld := ⟨0x940000 + 0x100 + 4 * i, 1, 0⟩
/-- CRU_DOMAIN.gate_disable (R582). -/
def f_cruDomain_gate_disable (i : Nat) : Fld := ⟨0x940000 + 0x100 + 4 * i, 2, 2⟩
/-- CRU_DOMAIN.src_now (R582). -/
def f_cruDomain_src_now (i : Nat) : Fld := ⟨0x940000 + 0x100 + 4 * i, 4, 3⟩
/-- CRU_DOMAIN.stopped (R582). -/
def f_cruDomain_stopped (i : Nat) : Fld := ⟨0x940000 + 0x100 + 4 * i, 5, 5⟩
/-- CRU_EVENT.switch_refused (R583). -/
def f_cruEvent_switch_refused : Fld := ⟨0x940000 + 0x200, 0, 0⟩
/-- CRU_EVENT.lock_lost (R583). -/
def f_cruEvent_lock_lost : Fld := ⟨0x940000 + 0x200, 1, 1⟩
/-- CRU_EVENT.relocked (R583). -/
def f_cruEvent_relocked : Fld := ⟨0x940000 + 0x200, 2, 2⟩
/-- CRU_EVENT.pll_failed (R583). -/
def f_cruEvent_pll_failed : Fld := ⟨0x940000 + 0x200, 3, 3⟩
/-- CRU_EVENT.ref_lost (R583). -/
def f_cruEvent_ref_lost : Fld := ⟨0x940000 + 0x200, 4, 4⟩
/-- PG_DOMAIN_REQ.req_mhz (R584). -/
def f_pgDomainReq_req_mhz (i : Nat) : Fld := ⟨0x930000 + 0x0 + 4 * i, 9, 0⟩
/-- PG_DOMAIN_STATUS.set_mhz (R585). -/
def f_pgDomainStatus_set_mhz (i : Nat) : Fld := ⟨0x930000 + 0x10 + 4 * i, 9, 0⟩
/-- PG_DOMAIN_STATUS.mean_mhz (R585). -/
def f_pgDomainStatus_mean_mhz (i : Nat) : Fld := ⟨0x930000 + 0x10 + 4 * i, 19, 10⟩
/-- PG_DOMAIN_STATUS.clip (R585). -/
def f_pgDomainStatus_clip (i : Nat) : Fld := ⟨0x930000 + 0x10 + 4 * i, 22, 20⟩
/-- PG_LIMIT_FMAX.fmax_mhz (R586). -/
def f_pgLimitFmax_fmax_mhz (i : Nat) : Fld := ⟨0x930000 + 0x20 + 4 * i, 9, 0⟩
/-- PG_LIMIT_POWER.psus_w (R587). -/
def f_pgLimitPower_psus_w : Fld := ⟨0x930000 + 0x30, 7, 0⟩
/-- PG_LIMIT_TEMP.throttle_c (R588). -/
def f_pgLimitTemp_throttle_c : Fld := ⟨0x930000 + 0x34, 7, 0⟩
/-- PG_LIMIT_TEMP.trip_c (R588). -/
def f_pgLimitTemp_trip_c : Fld := ⟨0x930000 + 0x34, 15, 8⟩
/-- PG_LIMIT_VMAX.vmax_mv (R589). -/
def f_pgLimitVmax_vmax_mv (i : Nat) : Fld := ⟨0x930000 + 0x40 + 4 * i, 9, 0⟩
/-- PG_CORE_V.v_mv (R590). -/
def f_pgCoreV_v_mv (i : Nat) : Fld := ⟨0x930000 + 0x60 + 4 * i, 9, 0⟩
/-- PG_CORE_V.slack_pct (R590). -/
def f_pgCoreV_slack_pct (i : Nat) : Fld := ⟨0x930000 + 0x60 + 4 * i, 16, 10⟩
/-- PG_CORE_PWR.off_req (R591). -/
def f_pgCorePwr_off_req (i : Nat) : Fld := ⟨0x930000 + 0x80 + 4 * i, 0, 0⟩
/-- PG_CORE_PWR.on (R591). -/
def f_pgCorePwr_on (i : Nat) : Fld := ⟨0x930000 + 0x80 + 4 * i, 1, 1⟩
/-- PG_POWER.avg_1ms (R592). -/
def f_pgPower_avg_1ms : Fld := ⟨0x930000 + 0xA0, 11, 0⟩
/-- PG_POWER.avg_1s (R592). -/
def f_pgPower_avg_1s : Fld := ⟨0x930000 + 0xA0, 23, 12⟩
/-- PG_POWER.cut_active (R592). -/
def f_pgPower_cut_active : Fld := ⟨0x930000 + 0xA0, 24, 24⟩
/-- PG_EVENT.raise_refused (R593). -/
def f_pgEvent_raise_refused : Fld := ⟨0x930000 + 0xA4, 0, 0⟩
/-- PG_EVENT.throttled (R593). -/
def f_pgEvent_throttled : Fld := ⟨0x930000 + 0xA4, 1, 1⟩
/-- PG_EVENT.power_clipped (R593). -/
def f_pgEvent_power_clipped : Fld := ⟨0x930000 + 0xA4, 2, 2⟩
/-- PG_EVENT.voltage_clipped (R593). -/
def f_pgEvent_voltage_clipped : Fld := ⟨0x930000 + 0xA4, 3, 3⟩
/-- PG_EVENT.floor_reached (R593). -/
def f_pgEvent_floor_reached : Fld := ⟨0x930000 + 0xA4, 4, 4⟩
/-- PG_EVENT.cut (R593). -/
def f_pgEvent_cut : Fld := ⟨0x930000 + 0xA4, 5, 5⟩
/-- PG_TEMP.temp (R594). -/
def f_pgTemp_temp (i : Nat) : Fld := ⟨0x930000 + 0x100 + 4 * i, 11, 0⟩
/-- PG_CORE_ENERGY.energy_lo (R595). -/
def f_pgCoreEnergy_energy_lo (i : Nat) : Fld := ⟨0x930000 + 0x200 + 8 * i, 31, 0⟩
/-- PG_CORE_ENERGY.energy_hi (R595). -/
def f_pgCoreEnergy_energy_hi (i : Nat) : Fld := ⟨0x930000 + 0x204 + 8 * i, 31, 0⟩
/-- RAS_EVENT.growth_overflow (R619). -/
def f_rasEvent_growth_overflow : Fld := ⟨0x950000 + 0x0, 0, 0⟩
/-- RAS_EVENT.lasting (R619). -/
def f_rasEvent_lasting : Fld := ⟨0x950000 + 0x0, 1, 1⟩
/-- RAS_EVENT.unit_failed (R619). -/
def f_rasEvent_unit_failed : Fld := ⟨0x950000 + 0x0, 2, 2⟩
/-- RAS_EVENT.fenced_write (R619). -/
def f_rasEvent_fenced_write : Fld := ⟨0x950000 + 0x0, 3, 3⟩
/-- RAS_FAILED.cores (R620). -/
def f_rasFailed_cores : Fld := ⟨0x950000 + 0x4, 7, 0⟩
/-- RAS_FAILED.vx (R620). -/
def f_rasFailed_vx : Fld := ⟨0x950000 + 0x4, 8, 8⟩
/-- RAS_FENCED_WRITES.dropped (R621). -/
def f_rasFencedWrites_dropped : Fld := ⟨0x950000 + 0x8, 31, 0⟩
/-- RAS_CLASS_CFG.window_s (R622). -/
def f_rasClassCfg_window_s (i : Nat) : Fld := ⟨0x950000 + 0x104 + 4 * i, 11, 0⟩
/-- RAS_CLASS_CFG.threshold (R622). -/
def f_rasClassCfg_threshold (i : Nat) : Fld := ⟨0x950000 + 0x104 + 4 * i, 19, 12⟩
/-- RAS_LASTING.lasting (R623). -/
def f_rasLasting_lasting (i j : Nat) : Fld := ⟨0x950000 + 0x440 + 64 * i + 4 * j, 31, 0⟩
/-- AOC_SED.value_lo (R624). -/
def f_aocSed_value_lo (i : Nat) : Fld := ⟨0x920000 + 0x0 + 8 * i, 31, 0⟩
/-- AOC_SED.value_hi (R624). -/
def f_aocSed_value_hi (i : Nat) : Fld := ⟨0x920000 + 0x4 + 8 * i, 31, 0⟩
/-- AOC_SED_READ.slot (R625). -/
def f_aocSedRead_slot : Fld := ⟨0x920000 + 0x10, 11, 0⟩
/-- AOC_WDOG.arm (R626). -/
def f_aocWdog_arm : Fld := ⟨0x920000 + 0x40, 0, 0⟩
/-- AOC_WDOG.timeout_ms (R626). -/
def f_aocWdog_timeout_ms : Fld := ⟨0x920000 + 0x40, 16, 1⟩
/-- AOC_WDOG.expired (R626). -/
def f_aocWdog_expired : Fld := ⟨0x920000 + 0x40, 17, 17⟩
/-- JR_STATUS.active_set (R627). -/
def f_jrStatus_active_set : Fld := ⟨0x960000 + 0x0, 0, 0⟩
/-- JR_STATUS.state (R627). -/
def f_jrStatus_state : Fld := ⟨0x960000 + 0x0, 2, 1⟩
/-- JR_STATUS.fill_pct (R627). -/
def f_jrStatus_fill_pct : Fld := ⟨0x960000 + 0x0, 9, 3⟩
/-- JR_STATUS.skipped (R627). -/
def f_jrStatus_skipped : Fld := ⟨0x960000 + 0x0, 25, 10⟩
/-- JR_EVENT.write_refused (R628). -/
def f_jrEvent_write_refused : Fld := ⟨0x960000 + 0x4, 0, 0⟩
/-- JR_EVENT.invalid_record (R628). -/
def f_jrEvent_invalid_record : Fld := ⟨0x960000 + 0x4, 1, 1⟩
/-- JR_EVENT.flash_error (R628). -/
def f_jrEvent_flash_error : Fld := ⟨0x960000 + 0x4, 2, 2⟩
/-- JR_EVENT.entries_lost (R628). -/
def f_jrEvent_entries_lost : Fld := ⟨0x960000 + 0x4, 3, 3⟩
/-- MP_STATUS.hart0_running (R647). -/
def f_mpStatus_hart0_running : Fld := ⟨0x900000 + 0x0, 0, 0⟩
/-- MP_STATUS.hart1_running (R647). -/
def f_mpStatus_hart1_running : Fld := ⟨0x900000 + 0x0, 1, 1⟩
/-- MP_STATUS.machine_check (R647). -/
def f_mpStatus_machine_check : Fld := ⟨0x900000 + 0x0, 2, 2⟩
/-- PIN_MUX.func (R648). -/
def f_pinMux_func (i : Nat) : Fld := ⟨0x970000 + 0x0 + 4 * i, 1, 0⟩
/-- PIN_MUX.drive (R648). -/
def f_pinMux_drive (i : Nat) : Fld := ⟨0x970000 + 0x0 + 4 * i, 3, 2⟩
/-- PIN_MUX.pull (R648). -/
def f_pinMux_pull (i : Nat) : Fld := ⟨0x970000 + 0x0 + 4 * i, 5, 4⟩
/-- PIN_MUX.switching (R648). -/
def f_pinMux_switching (i : Nat) : Fld := ⟨0x970000 + 0x0 + 4 * i, 7, 7⟩
/-- PIN_GPIO.out (R649). -/
def f_pinGpio_out (i : Nat) : Fld := ⟨0x970000 + 0x100 + 4 * i, 31, 0⟩
/-- PIN_GPIO.oe (R649). -/
def f_pinGpio_oe (i : Nat) : Fld := ⟨0x970000 + 0x108 + 4 * i, 31, 0⟩
/-- PIN_GPIO_IN.in (R650). -/
def f_pinGpioIn_in (i : Nat) : Fld := ⟨0x970000 + 0x110 + 4 * i, 31, 0⟩
/-- PIN_EVENT.busy (R651). -/
def f_pinEvent_busy : Fld := ⟨0x970000 + 0x200, 0, 0⟩
/-- PIN_EVENT.refused (R651). -/
def f_pinEvent_refused : Fld := ⟨0x970000 + 0x200, 1, 1⟩
/-- PIN_EVENT.conflict (R651). -/
def f_pinEvent_conflict : Fld := ⟨0x970000 + 0x200, 2, 2⟩
/-- IP_CTX.commit (R432). -/
def f_ipCtx_commit (n c : Nat) : Fld := ⟨0x8D0000 + 0x10000 * n + 0x1000 + 128 * c, 0, 0⟩
/-- IP_CTX.f (R432). -/
def f_ipCtx_f (n c : Nat) : Fld := ⟨0x8D0000 + 0x10000 * n + 0x1000 + 128 * c, 2, 1⟩
/-- IP_CTX.out_fmt (R432). -/
def f_ipCtx_out_fmt (n c : Nat) : Fld := ⟨0x8D0000 + 0x10000 * n + 0x1000 + 128 * c, 5, 3⟩
/-- IP_CTX.cfa (R432). -/
def f_ipCtx_cfa (n c : Nat) : Fld := ⟨0x8D0000 + 0x10000 * n + 0x1000 + 128 * c, 7, 6⟩
/-- IP_CTX.defect_en (R432). -/
def f_ipCtx_defect_en (n c : Nat) : Fld := ⟨0x8D0000 + 0x10000 * n + 0x1000 + 128 * c, 8, 8⟩
/-- IP_CTX.tone_en (R432). -/
def f_ipCtx_tone_en (n c : Nat) : Fld := ⟨0x8D0000 + 0x10000 * n + 0x1000 + 128 * c, 9, 9⟩
/-- IP_CTX.curve (R432). -/
def f_ipCtx_curve (n c : Nat) : Fld := ⟨0x8D0000 + 0x10000 * n + 0x1000 + 128 * c, 13, 10⟩
/-- IP_CTX.tap (R432). -/
def f_ipCtx_tap (n c : Nat) : Fld := ⟨0x8D0000 + 0x10000 * n + 0x1000 + 128 * c, 15, 14⟩
/-- IP_CTX.x0 (R432). -/
def f_ipCtx_x0 (n c : Nat) : Fld := ⟨0x8D0000 + 0x10000 * n + 0x1004 + 128 * c, 15, 0⟩
/-- IP_CTX.y0 (R432). -/
def f_ipCtx_y0 (n c : Nat) : Fld := ⟨0x8D0000 + 0x10000 * n + 0x1004 + 128 * c, 31, 16⟩
/-- IP_CTX.out_w (R432). -/
def f_ipCtx_out_w (n c : Nat) : Fld := ⟨0x8D0000 + 0x10000 * n + 0x1008 + 128 * c, 15, 0⟩
/-- IP_CTX.out_h (R432). -/
def f_ipCtx_out_h (n c : Nat) : Fld := ⟨0x8D0000 + 0x10000 * n + 0x1008 + 128 * c, 31, 16⟩
/-- IP_CTX.n_stage (R432). -/
def f_ipCtx_n_stage (n c : Nat) : Fld := ⟨0x8D0000 + 0x10000 * n + 0x100C + 128 * c, 11, 0⟩
/-- IP_CTX.out_target (R432). -/
def f_ipCtx_out_target (n c : Nat) : Fld := ⟨0x8D0000 + 0x10000 * n + 0x100C + 128 * c, 15, 12⟩
/-- IP_CTX.tap_target (R432). -/
def f_ipCtx_tap_target (n c : Nat) : Fld := ⟨0x8D0000 + 0x10000 * n + 0x100C + 128 * c, 19, 16⟩
/-- IP_CTX.out_base_line (R432). -/
def f_ipCtx_out_base_line (n c : Nat) : Fld := ⟨0x8D0000 + 0x10000 * n + 0x1010 + 128 * c, 17, 0⟩
/-- IP_CTX.out_row_stride (R432). -/
def f_ipCtx_out_row_stride (n c : Nat) : Fld := ⟨0x8D0000 + 0x10000 * n + 0x1014 + 128 * c, 11, 0⟩
/-- IP_CTX.plane_stride (R432). -/
def f_ipCtx_plane_stride (n c : Nat) : Fld := ⟨0x8D0000 + 0x10000 * n + 0x1018 + 128 * c, 19, 0⟩
/-- IP_CTX.buffer_stride (R432). -/
def f_ipCtx_buffer_stride (n c : Nat) : Fld := ⟨0x8D0000 + 0x10000 * n + 0x101C + 128 * c, 19, 0⟩
/-- IP_CTX.tap_base_line (R432). -/
def f_ipCtx_tap_base_line (n c : Nat) : Fld := ⟨0x8D0000 + 0x10000 * n + 0x1020 + 128 * c, 17, 0⟩
/-- IP_CTX.tap_row_stride (R432). -/
def f_ipCtx_tap_row_stride (n c : Nat) : Fld := ⟨0x8D0000 + 0x10000 * n + 0x1024 + 128 * c, 11, 0⟩
/-- IP_CTX.tap_buffer_stride (R432). -/
def f_ipCtx_tap_buffer_stride (n c : Nat) : Fld := ⟨0x8D0000 + 0x10000 * n + 0x1028 + 128 * c, 19, 0⟩
/-- IP_CTX.bl_r (R432). -/
def f_ipCtx_bl_r (n c : Nat) : Fld := ⟨0x8D0000 + 0x10000 * n + 0x102C + 128 * c, 15, 0⟩
/-- IP_CTX.bl_gr (R432). -/
def f_ipCtx_bl_gr (n c : Nat) : Fld := ⟨0x8D0000 + 0x10000 * n + 0x102C + 128 * c, 31, 16⟩
/-- IP_CTX.bl_gb (R432). -/
def f_ipCtx_bl_gb (n c : Nat) : Fld := ⟨0x8D0000 + 0x10000 * n + 0x1030 + 128 * c, 15, 0⟩
/-- IP_CTX.bl_b (R432). -/
def f_ipCtx_bl_b (n c : Nat) : Fld := ⟨0x8D0000 + 0x10000 * n + 0x1030 + 128 * c, 31, 16⟩
/-- IP_CTX.defect_thr (R432). -/
def f_ipCtx_defect_thr (n c : Nat) : Fld := ⟨0x8D0000 + 0x10000 * n + 0x1034 + 128 * c, 15, 0⟩
/-- IP_CTX.g_r (R432). -/
def f_ipCtx_g_r (n c : Nat) : Fld := ⟨0x8D0000 + 0x10000 * n + 0x1038 + 128 * c, 15, 0⟩
/-- IP_CTX.g_gr (R432). -/
def f_ipCtx_g_gr (n c : Nat) : Fld := ⟨0x8D0000 + 0x10000 * n + 0x1038 + 128 * c, 31, 16⟩
/-- IP_CTX.g_gb (R432). -/
def f_ipCtx_g_gb (n c : Nat) : Fld := ⟨0x8D0000 + 0x10000 * n + 0x103C + 128 * c, 15, 0⟩
/-- IP_CTX.g_b (R432). -/
def f_ipCtx_g_b (n c : Nat) : Fld := ⟨0x8D0000 + 0x10000 * n + 0x103C + 128 * c, 31, 16⟩
/-- IP_CTX.m1_0 (R432). -/
def f_ipCtx_m1_0 (n c : Nat) : Fld := ⟨0x8D0000 + 0x10000 * n + 0x1040 + 128 * c, 31, 0⟩
/-- IP_CTX.m1_1 (R432). -/
def f_ipCtx_m1_1 (n c : Nat) : Fld := ⟨0x8D0000 + 0x10000 * n + 0x1044 + 128 * c, 31, 0⟩
/-- IP_CTX.m1_2 (R432). -/
def f_ipCtx_m1_2 (n c : Nat) : Fld := ⟨0x8D0000 + 0x10000 * n + 0x1048 + 128 * c, 31, 0⟩
/-- IP_CTX.m1_3 (R432). -/
def f_ipCtx_m1_3 (n c : Nat) : Fld := ⟨0x8D0000 + 0x10000 * n + 0x104C + 128 * c, 31, 0⟩
/-- IP_CTX.m1_4 (R432). -/
def f_ipCtx_m1_4 (n c : Nat) : Fld := ⟨0x8D0000 + 0x10000 * n + 0x1050 + 128 * c, 31, 0⟩
/-- IP_CTX.off1_0 (R432). -/
def f_ipCtx_off1_0 (n c : Nat) : Fld := ⟨0x8D0000 + 0x10000 * n + 0x1054 + 128 * c, 16, 0⟩
/-- IP_CTX.off1_1 (R432). -/
def f_ipCtx_off1_1 (n c : Nat) : Fld := ⟨0x8D0000 + 0x10000 * n + 0x1058 + 128 * c, 16, 0⟩
/-- IP_CTX.off1_2 (R432). -/
def f_ipCtx_off1_2 (n c : Nat) : Fld := ⟨0x8D0000 + 0x10000 * n + 0x105C + 128 * c, 16, 0⟩
/-- IP_CTX.m2_0 (R432). -/
def f_ipCtx_m2_0 (n c : Nat) : Fld := ⟨0x8D0000 + 0x10000 * n + 0x1060 + 128 * c, 31, 0⟩
/-- IP_CTX.m2_1 (R432). -/
def f_ipCtx_m2_1 (n c : Nat) : Fld := ⟨0x8D0000 + 0x10000 * n + 0x1064 + 128 * c, 31, 0⟩
/-- IP_CTX.m2_2 (R432). -/
def f_ipCtx_m2_2 (n c : Nat) : Fld := ⟨0x8D0000 + 0x10000 * n + 0x1068 + 128 * c, 31, 0⟩
/-- IP_CTX.m2_3 (R432). -/
def f_ipCtx_m2_3 (n c : Nat) : Fld := ⟨0x8D0000 + 0x10000 * n + 0x106C + 128 * c, 31, 0⟩
/-- IP_CTX.m2_4 (R432). -/
def f_ipCtx_m2_4 (n c : Nat) : Fld := ⟨0x8D0000 + 0x10000 * n + 0x1070 + 128 * c, 31, 0⟩
/-- IP_CTX.off2_0 (R432). -/
def f_ipCtx_off2_0 (n c : Nat) : Fld := ⟨0x8D0000 + 0x10000 * n + 0x1074 + 128 * c, 16, 0⟩
/-- IP_CTX.off2_1 (R432). -/
def f_ipCtx_off2_1 (n c : Nat) : Fld := ⟨0x8D0000 + 0x10000 * n + 0x1078 + 128 * c, 16, 0⟩
/-- IP_CTX.off2_2 (R432). -/
def f_ipCtx_off2_2 (n c : Nat) : Fld := ⟨0x8D0000 + 0x10000 * n + 0x107C + 128 * c, 16, 0⟩
/-- SC_MBOX_ARG.arg (R556). -/
def f_scMboxArg_arg (i : Nat) : Fld := ⟨0x910000 + 0x410 + 4 * i, 31, 0⟩
/-- AOC_SED_DATA.data (R625). -/
def f_aocSedData_data (i : Nat) : Fld := ⟨0x920000 + 0x14 + 4 * i, 31, 0⟩

/-- The registers of block MA. -/
def regRows_ma : List RegRow :=
  [⟨0x0, 4, 1, 4, 1, 0, [⟨0, 0, .sc, 0x0, 0⟩, ⟨1, 1, .rw, 0x1, 0⟩, ⟨2, 2, .sc, 0x0, 0⟩]⟩,
   ⟨0x4, 4, 1, 4, 1, 0, [⟨1, 0, .ro, 0x0, 0⟩, ⟨2, 2, .ro, 0x1, 0⟩, ⟨3, 3, .ro, 0x0, 0⟩, ⟨11, 4, .ro, 0x0, 0⟩, ⟨15, 12, .ro, 0x0, 0⟩, ⟨19, 16, .ro, 0x0, 0⟩, ⟨20, 20, .ro, 0x0, 0⟩, ⟨21, 21, .ro, 0x0, 0⟩, ⟨22, 22, .ro, 0x0, 0⟩, ⟨23, 23, .ro, 0x0, 0⟩]⟩,
   ⟨0x8, 4, 1, 4, 1, 0, [⟨0, 0, .w1c, 0x0, 0⟩, ⟨1, 1, .w1c, 0x0, 0⟩, ⟨2, 2, .w1c, 0x0, 0⟩, ⟨3, 3, .w1c, 0x0, 0⟩]⟩,
   ⟨0xC, 4, 1, 4, 1, 0, [⟨31, 0, .rw, 0x1000000, 0⟩]⟩,
   ⟨0x10, 4, 1, 4, 1, 1, [⟨31, 0, .ro, 0x0, 0⟩]⟩,
   ⟨0x14, 4, 1, 4, 1, 2, [⟨31, 0, .ro, 0x0, 0⟩]⟩,
   ⟨0x18, 4, 1, 4, 1, 1, [⟨31, 0, .ro, 0x0, 0⟩]⟩,
   ⟨0x1C, 4, 1, 4, 1, 2, [⟨31, 0, .ro, 0x0, 0⟩]⟩,
   ⟨0x20, 4, 1, 4, 1, 1, [⟨31, 0, .ro, 0x0, 0⟩]⟩,
   ⟨0x24, 4, 1, 4, 1, 2, [⟨31, 0, .ro, 0x0, 0⟩]⟩,
   ⟨0x28, 4, 1, 4, 1, 1, [⟨31, 0, .ro, 0x0, 0⟩]⟩,
   ⟨0x2C, 4, 1, 4, 1, 2, [⟨31, 0, .ro, 0x0, 0⟩]⟩]
  ++ [⟨0x30, 4, 1, 4, 1, 0, [⟨8, 0, .ro, 0x0, 0⟩, ⟨31, 16, .ro, 0x0, 0⟩]⟩,
   ⟨0x40, 4, 1, 4, 1, 0, [⟨0, 0, .w1c, 0x0, 0⟩, ⟨1, 1, .w1c, 0x0, 0⟩, ⟨2, 2, .w1c, 0x0, 0⟩, ⟨3, 3, .w1c, 0x0, 0⟩, ⟨4, 4, .w1c, 0x0, 0⟩, ⟨16, 16, .sc, 0x0, 0⟩]⟩,
   ⟨0x44, 4, 1, 4, 1, 0, [⟨0, 0, .ro, 0x0, 0⟩, ⟨1, 1, .ro, 0x0, 0⟩, ⟨2, 2, .ro, 0x0, 0⟩, ⟨10, 3, .ro, 0x0, 0⟩, ⟨13, 11, .ro, 0x0, 0⟩, ⟨29, 14, .ro, 0x0, 0⟩, ⟨30, 30, .ro, 0x0, 0⟩]⟩,
   ⟨0x48, 4, 1, 4, 1, 0, [⟨15, 0, .ro, 0x0, 0⟩, ⟨31, 16, .ro, 0x0, 0⟩]⟩,
   ⟨0x4C, 4, 1, 4, 1, 0, [⟨31, 0, .ro, 0x0, 0⟩]⟩]

/-- The registers of block NC. -/
def regRows_nc : List RegRow :=
  [⟨0x0, 4, 1, 4, 1, 0, [⟨0, 0, .sc, 0x0, 0⟩, ⟨1, 1, .sc, 0x0, 0⟩, ⟨2, 2, .rw, 0x1, 0⟩, ⟨3, 3, .sc, 0x0, 0⟩]⟩,
   ⟨0x4, 4, 1, 4, 1, 0, [⟨2, 0, .ro, 0x0, 0⟩, ⟨5, 3, .ro, 0x0, 0⟩, ⟨10, 6, .ro, 0x0, 0⟩, ⟨11, 11, .ro, 0x0, 0⟩, ⟨19, 12, .ro, 0x0, 0⟩]⟩,
   ⟨0x8, 4, 1, 4, 1, 0, [⟨31, 0, .rw, 0x0, 0⟩]⟩,
   ⟨0xC, 4, 1, 4, 1, 0, [⟨31, 0, .rw, 0x0, 0⟩]⟩,
   ⟨0x10, 4, 1, 4, 1, 0, [⟨15, 0, .rw, 0x0, 0⟩]⟩,
   ⟨0x14, 4, 1, 4, 1, 0, [⟨14, 0, .rw, 0x0, 0⟩, ⟨31, 16, .rw, 0x0, 0⟩]⟩,
   ⟨0x18, 4, 1, 4, 1, 0, [⟨31, 0, .rw, 0xC350, 0⟩]⟩,
   ⟨0x1C, 4, 1, 4, 1, 0, [⟨7, 0, .ro, 0x0, 0⟩, ⟨11, 8, .ro, 0x0, 0⟩, ⟨12, 12, .ro, 0x0, 0⟩, ⟨24, 13, .ro, 0x0, 2⟩]⟩,
   ⟨0x20, 4, 1, 4, 1, 0, [⟨31, 0, .ro, 0x0, 0⟩]⟩,
   ⟨0x28, 4, 1, 4, 1, 1, [⟨31, 0, .ro, 0x0, 0⟩]⟩,
   ⟨0x2C, 4, 1, 4, 1, 2, [⟨31, 0, .ro, 0x0, 0⟩]⟩,
   ⟨0x30, 4, 1, 4, 1, 1, [⟨31, 0, .ro, 0x0, 0⟩]⟩]
  ++ [⟨0x34, 4, 1, 4, 1, 2, [⟨31, 0, .ro, 0x0, 0⟩]⟩,
   ⟨0x40, 4, 1, 4, 1, 0, [⟨0, 0, .sc, 0x0, 0⟩, ⟨1, 1, .w1s, 0x1, 0⟩, ⟨2, 2, .ro, 0x0, 0⟩]⟩]

/-- The registers of block TG. -/
def regRows_tg : List RegRow :=
  [⟨0x0, 4, 1, 4, 1, 0, [⟨0, 0, .rw, 0x0, 0⟩, ⟨1, 1, .sc, 0x0, 0⟩]⟩,
   ⟨0x4, 4, 1, 4, 1, 0, [⟨4, 0, .ro, 0x0, 0⟩, ⟨31, 16, .ro, 0x0, 0⟩]⟩,
   ⟨0x100, 4, 128, 4, 1, 0, [⟨31, 0, .ro, 0x0, 0⟩]⟩,
   ⟨0x1000, 8, 64, 4, 1, 0, [⟨17, 0, .rw, 0x0, 0⟩, ⟨23, 18, .rw, 0x0, 0⟩]⟩,
   ⟨0x1004, 8, 64, 4, 1, 0, [⟨11, 0, .rw, 0x0, 0⟩]⟩,
   ⟨0x1200, 4, 64, 4, 1, 0, [⟨11, 0, .rw, 0x0, 0⟩, ⟨23, 12, .rw, 0x0, 0⟩, ⟨24, 24, .ro, 0x0, 0⟩]⟩,
   ⟨0x4000, 4, 8192, 4, 1, 0, [⟨31, 0, .rw, 0x0, 0⟩]⟩]

/-- The registers of block SP. -/
def regRows_sp : List RegRow :=
  [⟨0x0, 4, 1, 4, 1, 0, [⟨0, 0, .w1c, 0x0, 0⟩, ⟨1, 1, .w1c, 0x0, 0⟩, ⟨2, 2, .w1c, 0x0, 0⟩, ⟨3, 3, .w1c, 0x0, 0⟩, ⟨16, 16, .sc, 0x0, 0⟩]⟩,
   ⟨0x4, 4, 1, 4, 1, 0, [⟨31, 0, .ro, 0x0, 0⟩]⟩,
   ⟨0x8, 4, 1, 4, 1, 0, [⟨5, 0, .ro, 0x0, 0⟩, ⟨17, 6, .ro, 0x0, 0⟩, ⟨20, 18, .ro, 0x0, 0⟩, ⟨21, 21, .ro, 0x0, 0⟩, ⟨26, 22, .ro, 0x0, 0⟩, ⟨27, 27, .ro, 0x0, 0⟩]⟩,
   ⟨0xC, 4, 1, 4, 1, 0, [⟨7, 0, .ro, 0x0, 0⟩]⟩,
   ⟨0x10, 4, 1, 4, 1, 0, [⟨5, 0, .ro, 0x0, 0⟩, ⟨9, 6, .ro, 0x0, 0⟩, ⟨13, 10, .ro, 0x0, 0⟩, ⟨14, 14, .ro, 0x0, 0⟩, ⟨15, 15, .ro, 0x0, 0⟩, ⟨31, 16, .ro, 0x0, 0⟩]⟩,
   ⟨0x14, 4, 1, 4, 1, 0, [⟨31, 0, .ro, 0x0, 0⟩]⟩,
   ⟨0x18, 4, 1, 4, 1, 0, [⟨0, 0, .sc, 0x0, 0⟩]⟩,
   ⟨0x1C, 4, 1, 4, 1, 0, [⟨0, 0, .sc, 0x0, 0⟩, ⟨6, 1, .rw, 0x0, 0⟩, ⟨9, 7, .rw, 0x0, 0⟩, ⟨16, 10, .rw, 0x0, 0⟩, ⟨23, 17, .rw, 0x0, 0⟩, ⟨24, 24, .rw, 0x0, 0⟩]⟩]

/-- The registers of block HB. -/
def regRows_hb : List RegRow :=
  [⟨0x0, 4, 1, 4, 1, 0, [⟨0, 0, .w1c, 0x0, 0⟩, ⟨1, 1, .w1c, 0x0, 0⟩, ⟨16, 16, .sc, 0x0, 0⟩]⟩,
   ⟨0x4, 4, 1, 4, 1, 0, [⟨31, 0, .ro, 0x0, 0⟩]⟩,
   ⟨0x8, 4, 1, 4, 1, 0, [⟨5, 0, .ro, 0x0, 0⟩, ⟨17, 6, .ro, 0x0, 0⟩, ⟨20, 18, .ro, 0x0, 0⟩, ⟨21, 21, .ro, 0x0, 0⟩, ⟨25, 22, .ro, 0x0, 0⟩, ⟨26, 26, .ro, 0x0, 0⟩]⟩,
   ⟨0xC, 4, 1, 4, 1, 0, [⟨7, 0, .ro, 0x0, 0⟩]⟩,
   ⟨0x10, 4, 1, 4, 1, 0, [⟨0, 0, .sc, 0x0, 0⟩]⟩]

/-- The registers of block MV. -/
def regRows_mv : List RegRow :=
  [⟨0x0, 4, 1, 4, 1, 0, [⟨6, 0, .ro, 0x0, 0⟩, ⟨10, 7, .ro, 0x0, 0⟩]⟩,
   ⟨0x4, 4, 1, 4, 1, 0, [⟨0, 0, .w1c, 0x0, 0⟩, ⟨1, 1, .w1c, 0x0, 0⟩, ⟨2, 2, .w1c, 0x0, 0⟩, ⟨3, 3, .w1c, 0x0, 0⟩, ⟨16, 16, .sc, 0x0, 0⟩]⟩,
   ⟨0x10, 8, 4, 4, 1, 1, [⟨31, 0, .ro, 0x0, 0⟩]⟩,
   ⟨0x14, 8, 4, 4, 1, 2, [⟨31, 0, .ro, 0x0, 0⟩]⟩,
   ⟨0x8000, 8, 4096, 4, 1, 1, [⟨0, 0, .rw, 0x0, 0⟩, ⟨1, 1, .rw, 0x0, 0⟩, ⟨4, 2, .rw, 0x0, 0⟩, ⟨31, 21, .rw, 0x0, 0⟩]⟩,
   ⟨0x8004, 8, 4096, 4, 1, 2, [⟨15, 0, .rw, 0x0, 0⟩]⟩]

/-- The registers of block VE. -/
def regRows_ve : List RegRow :=
  [⟨0x0, 4, 1, 4, 1, 0, [⟨0, 0, .w1c, 0x0, 0⟩, ⟨1, 1, .w1c, 0x0, 0⟩, ⟨2, 2, .w1c, 0x0, 0⟩, ⟨16, 16, .sc, 0x0, 0⟩]⟩,
   ⟨0x4, 4, 1, 4, 1, 0, [⟨31, 0, .ro, 0x0, 0⟩]⟩]

/-- The registers of block SU. -/
def regRows_su : List RegRow :=
  [⟨0x0, 4, 1, 4, 1, 0, [⟨0, 0, .w1c, 0x0, 0⟩, ⟨1, 1, .w1c, 0x0, 0⟩, ⟨2, 2, .w1c, 0x0, 0⟩]⟩]

/-- The registers of block GR. -/
def regRows_gr : List RegRow :=
  [⟨0x0, 4, 1, 4, 1, 0, [⟨0, 0, .sc, 0x0, 0⟩, ⟨1, 1, .sc, 0x0, 0⟩]⟩,
   ⟨0x4, 4, 1, 4, 1, 0, [⟨0, 0, .ro, 0x0, 0⟩, ⟨1, 1, .ro, 0x0, 0⟩, ⟨2, 2, .ro, 0x0, 0⟩]⟩,
   ⟨0x10, 4, 4, 4, 1, 0, [⟨31, 0, .wo, 0x0, 0⟩]⟩]

/-- The registers of block CI. -/
def regRows_ci : List RegRow :=
  [⟨0x0, 4, 1, 4, 1, 0, [⟨0, 0, .rw, 0x0, 0⟩, ⟨1, 1, .rw, 0x0, 0⟩, ⟨2, 2, .sc, 0x0, 0⟩, ⟨3, 3, .rw, 0x0, 0⟩]⟩,
   ⟨0x4, 4, 1, 4, 1, 0, [⟨1, 0, .ro, 0x0, 0⟩, ⟨2, 2, .ro, 0x0, 0⟩, ⟨3, 3, .ro, 0x0, 0⟩, ⟨4, 4, .ro, 0x0, 0⟩, ⟨10, 5, .ro, 0x0, 2⟩, ⟨11, 11, .ro, 0x0, 0⟩]⟩,
   ⟨0x8, 4, 1, 4, 1, 0, [⟨31, 0, .ro, 0x0, 0⟩]⟩,
   ⟨0x10, 4, 2, 4, 1, 0, [⟨2, 0, .ro, 0x0, 0⟩, ⟨3, 3, .ro, 0x0, 0⟩, ⟨11, 4, .ro, 0x0, 0⟩]⟩,
   ⟨0x18, 4, 1, 4, 1, 0, [⟨19, 0, .rw, 0x2710, 0⟩]⟩,
   ⟨0x1C, 4, 1, 4, 1, 0, [⟨17, 0, .rw, 0x0, 0⟩]⟩,
   ⟨0x20, 4, 1, 4, 1, 0, [⟨18, 0, .rw, 0x0, 0⟩]⟩,
   ⟨0x24, 4, 1, 4, 1, 0, [⟨14, 0, .rw, 0x0, 0⟩, ⟨31, 16, .rw, 0x0, 0⟩]⟩,
   ⟨0x28, 4, 1, 4, 1, 0, [⟨0, 0, .w1c, 0x0, 0⟩, ⟨1, 1, .w1c, 0x0, 0⟩, ⟨2, 2, .w1c, 0x0, 0⟩, ⟨3, 3, .w1c, 0x0, 0⟩, ⟨4, 4, .w1c, 0x0, 0⟩, ⟨5, 5, .w1c, 0x0, 0⟩, ⟨6, 6, .w1c, 0x0, 0⟩, ⟨7, 7, .w1c, 0x0, 0⟩, ⟨8, 8, .w1c, 0x0, 0⟩, ⟨16, 16, .sc, 0x0, 0⟩]⟩,
   ⟨0x2C, 4, 1, 4, 1, 0, [⟨31, 0, .ro, 0x0, 0⟩]⟩,
   ⟨0x30, 4, 1, 4, 1, 0, [⟨15, 0, .ro, 0x0, 0⟩, ⟨31, 16, .ro, 0x0, 0⟩]⟩,
   ⟨0x34, 4, 1, 4, 1, 0, [⟨15, 0, .ro, 0x0, 0⟩, ⟨31, 16, .ro, 0x0, 0⟩]⟩]
  ++ [⟨0x38, 4, 1, 4, 1, 1, [⟨31, 0, .ro, 0x0, 0⟩]⟩,
   ⟨0x3C, 4, 1, 4, 1, 2, [⟨31, 0, .ro, 0x0, 0⟩]⟩,
   ⟨0x100, 4, 16, 4, 1, 0, [⟨5, 0, .rw, 0x0, 2⟩, ⟨6, 6, .rw, 0x0, 0⟩]⟩,
   ⟨0x200, 4, 16, 4, 1, 0, [⟨0, 0, .ro, 0x0, 0⟩, ⟨1, 1, .ro, 0x0, 0⟩, ⟨5, 2, .ro, 0x0, 0⟩, ⟨6, 6, .ro, 0x0, 0⟩]⟩]

/-- The registers of block CR. -/
def regRows_cr : List RegRow :=
  [⟨0x0, 4, 1, 4, 1, 0, [⟨0, 0, .rw, 0x0, 0⟩, ⟨1, 1, .rw, 0x0, 0⟩, ⟨3, 2, .rw, 0x0, 0⟩, ⟨4, 4, .rw, 0x0, 0⟩, ⟨12, 5, .rw, 0x0, 0⟩, ⟨13, 13, .rw, 0x0, 0⟩, ⟨21, 14, .rw, 0xE4, 0⟩, ⟨25, 22, .rw, 0x0, 0⟩]⟩,
   ⟨0x4, 4, 1, 4, 1, 0, [⟨1, 0, .ro, 0x0, 0⟩, ⟨31, 16, .ro, 0x0, 0⟩]⟩,
   ⟨0x8, 4, 1, 4, 1, 0, [⟨9, 0, .ro, 0x0, 0⟩, ⟨19, 10, .ro, 0x0, 0⟩, ⟨31, 20, .ro, 0x0, 0⟩]⟩]

/-- The registers of block IA. -/
def regRows_ia : List RegRow :=
  [⟨0x0, 4, 1, 4, 1, 1, [⟨31, 0, .ro, 0x0, 0⟩]⟩,
   ⟨0x4, 4, 1, 4, 1, 2, [⟨31, 0, .ro, 0x0, 0⟩]⟩,
   ⟨0x8, 4, 1, 4, 1, 0, [⟨31, 0, .rw, 0x0, 0⟩]⟩,
   ⟨0x10, 4, 1, 4, 1, 1, [⟨31, 0, .wo, 0x0, 0⟩]⟩,
   ⟨0x14, 4, 1, 4, 1, 2, [⟨31, 0, .wo, 0x0, 0⟩]⟩,
   ⟨0x18, 4, 1, 4, 1, 0, [⟨1, 0, .rw, 0x0, 0⟩, ⟨2, 2, .rw, 0x0, 0⟩, ⟨3, 3, .rw, 0x0, 0⟩]⟩,
   ⟨0x20, 4, 1, 4, 1, 1, [⟨31, 0, .ro, 0x0, 0⟩]⟩,
   ⟨0x24, 4, 1, 4, 1, 2, [⟨31, 0, .ro, 0x0, 0⟩]⟩,
   ⟨0x30, 4, 1, 4, 1, 0, [⟨0, 0, .w1c, 0x0, 0⟩, ⟨1, 1, .w1c, 0x0, 0⟩, ⟨2, 2, .w1c, 0x0, 0⟩, ⟨3, 3, .w1c, 0x0, 0⟩, ⟨4, 4, .w1c, 0x0, 0⟩, ⟨5, 5, .w1c, 0x0, 0⟩, ⟨6, 6, .w1c, 0x0, 0⟩, ⟨7, 7, .w1c, 0x0, 0⟩, ⟨8, 8, .w1c, 0x0, 0⟩, ⟨16, 16, .sc, 0x0, 0⟩]⟩,
   ⟨0x34, 4, 1, 4, 1, 0, [⟨15, 0, .ro, 0x0, 0⟩, ⟨31, 16, .ro, 0x0, 0⟩]⟩,
   ⟨0x38, 4, 1, 4, 1, 0, [⟨15, 0, .ro, 0x0, 0⟩, ⟨31, 16, .ro, 0x0, 0⟩]⟩,
   ⟨0x100, 16, 8, 4, 1, 0, [⟨0, 0, .rw, 0x0, 0⟩, ⟨1, 1, .rw, 0x0, 0⟩, ⟨17, 2, .rw, 0x0, 0⟩]⟩]
  ++ [⟨0x104, 16, 8, 4, 1, 0, [⟨31, 0, .rw, 0x0, 0⟩]⟩,
   ⟨0x108, 16, 8, 4, 1, 0, [⟨31, 0, .rw, 0x0, 0⟩]⟩,
   ⟨0x1000, 32, 32, 4, 1, 0, [⟨0, 0, .rw, 0x0, 0⟩, ⟨3, 1, .rw, 0x0, 0⟩, ⟨8, 4, .rw, 0x0, 0⟩, ⟨14, 9, .rw, 0x0, 0⟩, ⟨16, 15, .rw, 0x0, 0⟩, ⟨17, 17, .rw, 0x0, 0⟩, ⟨24, 18, .rw, 0x0, 2⟩, ⟨28, 25, .rw, 0x0, 0⟩, ⟨29, 29, .rw, 0x0, 0⟩, ⟨30, 30, .rw, 0x0, 0⟩]⟩,
   ⟨0x1004, 32, 32, 4, 1, 0, [⟨15, 0, .rw, 0x0, 0⟩, ⟨25, 16, .rw, 0x0, 0⟩, ⟨29, 26, .rw, 0x0, 0⟩]⟩,
   ⟨0x1008, 32, 32, 4, 1, 0, [⟨15, 0, .rw, 0x0, 0⟩]⟩,
   ⟨0x100C, 32, 32, 4, 1, 0, [⟨31, 0, .rw, 0x0, 0⟩]⟩,
   ⟨0x1010, 32, 32, 4, 1, 0, [⟨0, 0, .rw, 0x0, 0⟩, ⟨8, 1, .rw, 0x0, 0⟩, ⟨14, 9, .rw, 0x0, 0⟩, ⟨20, 15, .rw, 0x0, 0⟩, ⟨28, 21, .rw, 0x0, 0⟩]⟩,
   ⟨0x1014, 32, 32, 4, 1, 0, [⟨3, 0, .rw, 0x0, 0⟩, ⟨21, 4, .rw, 0x0, 0⟩]⟩,
   ⟨0x1018, 32, 32, 4, 1, 0, [⟨19, 0, .rw, 0x0, 0⟩]⟩,
   ⟨0x101C, 32, 32, 4, 1, 0, [⟨31, 0, .ro, 0x0, 0⟩]⟩,
   ⟨0x2000, 32, 16, 4, 1, 0, [⟨0, 0, .rw, 0x0, 0⟩, ⟨6, 1, .rw, 0x1, 0⟩, ⟨14, 7, .rw, 0x0, 0⟩]⟩,
   ⟨0x2004, 32, 16, 4, 1, 0, [⟨31, 0, .rw, 0x0, 0⟩]⟩]
  ++ [⟨0x2008, 32, 16, 4, 1, 0, [⟨31, 0, .rw, 0x0, 0⟩]⟩,
   ⟨0x200C, 32, 16, 4, 1, 0, [⟨23, 0, .rw, 0x0, 0⟩]⟩,
   ⟨0x2010, 32, 16, 4, 1, 0, [⟨14, 0, .rw, 0x0, 0⟩, ⟨30, 16, .rw, 0x0, 0⟩]⟩,
   ⟨0x2014, 32, 16, 4, 1, 0, [⟨17, 0, .rw, 0x0, 0⟩]⟩,
   ⟨0x2018, 32, 16, 4, 1, 0, [⟨31, 0, .ro, 0x0, 0⟩]⟩,
   ⟨0x3000, 32, 16, 4, 4, 0, [⟨31, 0, .wo, 0x0, 0⟩]⟩,
   ⟨0x3010, 32, 16, 4, 1, 0, [⟨31, 0, .rw, 0x0, 0⟩]⟩]

/-- The registers of block IP. -/
def regRows_ip : List RegRow :=
  [⟨0x0, 4, 1, 4, 1, 0, [⟨0, 0, .rw, 0x0, 0⟩, ⟨2, 1, .rw, 0x1, 0⟩]⟩,
   ⟨0x4, 4, 1, 4, 1, 0, [⟨4, 0, .ro, 0x0, 0⟩, ⟨5, 5, .ro, 0x0, 0⟩, ⟨18, 8, .ro, 0x0, 0⟩]⟩,
   ⟨0x8, 4, 1, 4, 1, 0, [⟨0, 0, .w1c, 0x0, 0⟩, ⟨1, 1, .w1c, 0x0, 0⟩, ⟨2, 2, .w1c, 0x0, 0⟩, ⟨16, 16, .sc, 0x0, 0⟩]⟩,
   ⟨0xC, 4, 1, 4, 1, 0, [⟨31, 0, .ro, 0x0, 0⟩]⟩,
   ⟨0x1000, 128, 32, 4, 1, 0, [⟨0, 0, .sc, 0x0, 0⟩, ⟨2, 1, .rw, 0x0, 0⟩, ⟨5, 3, .rw, 0x0, 0⟩, ⟨7, 6, .rw, 0x0, 0⟩, ⟨8, 8, .rw, 0x0, 0⟩, ⟨9, 9, .rw, 0x0, 0⟩, ⟨13, 10, .rw, 0x0, 0⟩, ⟨15, 14, .rw, 0x0, 0⟩]⟩,
   ⟨0x1004, 128, 32, 4, 1, 0, [⟨15, 0, .rw, 0x0, 0⟩, ⟨31, 16, .rw, 0x0, 0⟩]⟩,
   ⟨0x1008, 128, 32, 4, 1, 0, [⟨15, 0, .rw, 0x0, 0⟩, ⟨31, 16, .rw, 0x0, 0⟩]⟩,
   ⟨0x100C, 128, 32, 4, 1, 0, [⟨11, 0, .rw, 0x8, 0⟩, ⟨15, 12, .rw, 0x0, 0⟩, ⟨19, 16, .rw, 0x0, 0⟩]⟩,
   ⟨0x1010, 128, 32, 4, 1, 0, [⟨17, 0, .rw, 0x0, 0⟩]⟩,
   ⟨0x1014, 128, 32, 4, 1, 0, [⟨11, 0, .rw, 0x0, 0⟩]⟩,
   ⟨0x1018, 128, 32, 4, 1, 0, [⟨19, 0, .rw, 0x0, 0⟩]⟩,
   ⟨0x101C, 128, 32, 4, 1, 0, [⟨19, 0, .rw, 0x0, 0⟩]⟩]
  ++ [⟨0x1020, 128, 32, 4, 1, 0, [⟨17, 0, .rw, 0x0, 0⟩]⟩,
   ⟨0x1024, 128, 32, 4, 1, 0, [⟨11, 0, .rw, 0x0, 0⟩]⟩,
   ⟨0x1028, 128, 32, 4, 1, 0, [⟨19, 0, .rw, 0x0, 0⟩]⟩,
   ⟨0x102C, 128, 32, 4, 1, 0, [⟨15, 0, .rw, 0x0, 0⟩, ⟨31, 16, .rw, 0x0, 0⟩]⟩,
   ⟨0x1030, 128, 32, 4, 1, 0, [⟨15, 0, .rw, 0x0, 0⟩, ⟨31, 16, .rw, 0x0, 0⟩]⟩,
   ⟨0x1034, 128, 32, 4, 1, 0, [⟨15, 0, .rw, 0x0, 0⟩]⟩,
   ⟨0x1038, 128, 32, 4, 1, 0, [⟨15, 0, .rw, 0x1000, 0⟩, ⟨31, 16, .rw, 0x1000, 0⟩]⟩,
   ⟨0x103C, 128, 32, 4, 1, 0, [⟨15, 0, .rw, 0x1000, 0⟩, ⟨31, 16, .rw, 0x1000, 0⟩]⟩,
   ⟨0x1040, 128, 32, 4, 1, 0, [⟨31, 0, .rw, 0x1000, 0⟩]⟩,
   ⟨0x1044, 128, 32, 4, 1, 0, [⟨31, 0, .rw, 0x0, 0⟩]⟩,
   ⟨0x1048, 128, 32, 4, 1, 0, [⟨31, 0, .rw, 0x1000, 0⟩]⟩,
   ⟨0x104C, 128, 32, 4, 1, 0, [⟨31, 0, .rw, 0x0, 0⟩]⟩]
  ++ [⟨0x1050, 128, 32, 4, 1, 0, [⟨31, 0, .rw, 0x1000, 0⟩]⟩,
   ⟨0x1054, 128, 32, 4, 1, 0, [⟨16, 0, .rw, 0x0, 0⟩]⟩,
   ⟨0x1058, 128, 32, 4, 1, 0, [⟨16, 0, .rw, 0x0, 0⟩]⟩,
   ⟨0x105C, 128, 32, 4, 1, 0, [⟨16, 0, .rw, 0x0, 0⟩]⟩,
   ⟨0x1060, 128, 32, 4, 1, 0, [⟨31, 0, .rw, 0x1000, 0⟩]⟩,
   ⟨0x1064, 128, 32, 4, 1, 0, [⟨31, 0, .rw, 0x0, 0⟩]⟩,
   ⟨0x1068, 128, 32, 4, 1, 0, [⟨31, 0, .rw, 0x1000, 0⟩]⟩,
   ⟨0x106C, 128, 32, 4, 1, 0, [⟨31, 0, .rw, 0x0, 0⟩]⟩,
   ⟨0x1070, 128, 32, 4, 1, 0, [⟨31, 0, .rw, 0x1000, 0⟩]⟩,
   ⟨0x1074, 128, 32, 4, 1, 0, [⟨16, 0, .rw, 0x0, 0⟩]⟩,
   ⟨0x1078, 128, 32, 4, 1, 0, [⟨16, 0, .rw, 0x0, 0⟩]⟩,
   ⟨0x107C, 128, 32, 4, 1, 0, [⟨16, 0, .rw, 0x0, 0⟩]⟩]
  ++ [⟨0x4000, 2048, 16, 4, 387, 0, [⟨31, 0, .rw, 0x0, 0⟩]⟩]

/-- The registers of block VX. -/
def regRows_vx : List RegRow :=
  [⟨0x0, 4, 1, 4, 1, 0, [⟨0, 0, .w1s, 0x1, 0⟩, ⟨1, 1, .sc, 0x0, 0⟩, ⟨2, 2, .sc, 0x0, 0⟩]⟩,
   ⟨0x4, 4, 1, 4, 1, 0, [⟨2, 0, .ro, 0x0, 0⟩, ⟨8, 3, .ro, 0x0, 0⟩, ⟨31, 16, .ro, 0x0, 0⟩]⟩,
   ⟨0x8, 4, 1, 4, 1, 0, [⟨0, 0, .w1c, 0x0, 0⟩, ⟨1, 1, .w1c, 0x0, 0⟩, ⟨2, 2, .w1c, 0x0, 0⟩]⟩,
   ⟨0xC, 4, 1, 4, 1, 0, [⟨15, 0, .ro, 0x0, 0⟩, ⟨31, 16, .ro, 0x0, 0⟩]⟩]

/-- The registers of block MC. -/
def regRows_mc : List RegRow :=
  [⟨0x0, 4, 1, 4, 1, 0, [⟨0, 0, .rw, 0x0, 0⟩, ⟨1, 1, .rw, 0x0, 0⟩, ⟨2, 2, .rw, 0x0, 0⟩, ⟨3, 3, .rw, 0x1, 0⟩, ⟨13, 4, .rw, 0x20, 0⟩]⟩,
   ⟨0x4, 4, 1, 4, 1, 0, [⟨1, 0, .ro, 0x0, 0⟩, ⟨2, 2, .ro, 0x0, 0⟩, ⟨4, 3, .ro, 0x0, 0⟩, ⟨15, 5, .ro, 0x0, 0⟩, ⟨16, 16, .ro, 0x0, 0⟩]⟩,
   ⟨0x8, 4, 1, 4, 1, 0, [⟨17, 0, .rw, 0x0, 0⟩, ⟨19, 18, .rw, 0x3, 0⟩]⟩,
   ⟨0x10, 4, 10, 4, 1, 0, [⟨11, 0, .rw, 0x0, 0⟩, ⟨16, 12, .rw, 0x4, 0⟩]⟩,
   ⟨0x40, 4, 1, 4, 1, 0, [⟨3, 0, .rw, 0x8, 0⟩]⟩,
   ⟨0x44, 4, 1, 4, 1, 0, [⟨0, 0, .w1c, 0x0, 0⟩, ⟨1, 1, .w1c, 0x0, 0⟩, ⟨2, 2, .w1c, 0x0, 0⟩, ⟨3, 3, .w1c, 0x0, 0⟩, ⟨4, 4, .w1c, 0x0, 0⟩, ⟨5, 5, .w1c, 0x0, 0⟩, ⟨6, 6, .w1c, 0x0, 0⟩, ⟨7, 7, .w1c, 0x0, 0⟩, ⟨16, 16, .sc, 0x0, 0⟩]⟩,
   ⟨0x48, 4, 1, 4, 1, 0, [⟨15, 0, .ro, 0x0, 0⟩, ⟨31, 16, .ro, 0x0, 0⟩]⟩,
   ⟨0x4C, 4, 1, 4, 1, 0, [⟨4, 0, .ro, 0x0, 0⟩, ⟨8, 5, .ro, 0x0, 0⟩, ⟨25, 9, .ro, 0x0, 0⟩, ⟨26, 26, .ro, 0x0, 0⟩, ⟨27, 27, .ro, 0x0, 0⟩, ⟨31, 28, .ro, 0x0, 0⟩]⟩,
   ⟨0x50, 4, 1, 4, 1, 0, [⟨4, 0, .ro, 0x0, 0⟩, ⟨7, 5, .ro, 0x0, 0⟩, ⟨15, 8, .ro, 0x0, 0⟩]⟩,
   ⟨0x60, 4, 10, 4, 1, 0, [⟨15, 0, .ro, 0x0, 0⟩]⟩,
   ⟨0x100, 4, 1, 4, 1, 0, [⟨23, 0, .rw, 0x0, 0⟩, ⟨26, 24, .rw, 0x0, 0⟩, ⟨27, 27, .sc, 0x0, 0⟩]⟩,
   ⟨0x104, 4, 1, 4, 1, 0, [⟨1, 0, .rw, 0x0, 0⟩, ⟨19, 2, .rw, 0x3FFFF, 0⟩]⟩]
  ++ [⟨0x108, 4, 1, 4, 1, 0, [⟨31, 0, .rw, 0x1, 0⟩]⟩,
   ⟨0x200, 128, 24, 4, 20, 0, [⟨7, 0, .rw, 0x80, 0⟩, ⟨15, 8, .rw, 0x80, 0⟩, ⟨23, 16, .rw, 0x80, 0⟩]⟩,
   ⟨0x1000, 128, 24, 4, 20, 0, [⟨15, 0, .ro, 0x0, 0⟩]⟩]

/-- The registers of block HI. -/
def regRows_hi : List RegRow :=
  [⟨0x100, 8, 16, 4, 1, 1, [⟨0, 0, .rw, 0x0, 0⟩, ⟨6, 1, .rw, 0x0, 2⟩, ⟨31, 24, .rw, 0x0, 0⟩]⟩,
   ⟨0x104, 8, 16, 4, 1, 2, [⟨15, 0, .rw, 0x0, 0⟩]⟩,
   ⟨0x0, 4, 1, 4, 1, 0, [⟨2, 0, .ro, 0x0, 0⟩, ⟨3, 3, .ro, 0x0, 0⟩, ⟨4, 4, .sc, 0x0, 0⟩, ⟨15, 8, .ro, 0x0, 0⟩]⟩,
   ⟨0x4, 4, 1, 4, 1, 0, [⟨19, 0, .rw, 0x0, 0⟩]⟩,
   ⟨0x8, 4, 1, 4, 1, 0, [⟨2, 0, .ro, 0x0, 0⟩, ⟨31, 16, .ro, 0x0, 0⟩]⟩,
   ⟨0x8000, 8, 4096, 4, 1, 1, [⟨0, 0, .rw, 0x0, 0⟩, ⟨1, 1, .rw, 0x0, 0⟩, ⟨31, 21, .rw, 0x0, 0⟩]⟩,
   ⟨0x8004, 8, 4096, 4, 1, 2, [⟨31, 0, .rw, 0x0, 0⟩]⟩,
   ⟨0xC, 4, 1, 4, 1, 0, [⟨0, 0, .w1c, 0x0, 0⟩, ⟨1, 1, .w1c, 0x0, 0⟩, ⟨2, 2, .w1c, 0x0, 0⟩, ⟨3, 3, .w1c, 0x0, 0⟩, ⟨4, 4, .w1c, 0x0, 0⟩, ⟨5, 5, .w1c, 0x0, 0⟩]⟩,
   ⟨0x10, 4, 1, 4, 1, 0, [⟨2, 0, .ro, 0x0, 0⟩, ⟨6, 3, .ro, 0x0, 0⟩]⟩,
   ⟨0x200, 8, 16, 4, 1, 1, [⟨31, 0, .ro, 0x0, 0⟩]⟩,
   ⟨0x204, 8, 16, 4, 1, 2, [⟨31, 0, .ro, 0x0, 0⟩]⟩]

/-- The registers of block RP. -/
def regRows_rp : List RegRow :=
  [⟨0x0, 8, 2, 4, 1, 1, [⟨31, 6, .rw, 0x0, 0⟩]⟩,
   ⟨0x4, 8, 2, 4, 1, 2, [⟨15, 0, .rw, 0x0, 0⟩]⟩,
   ⟨0x10, 4, 1, 4, 1, 0, [⟨0, 0, .rw, 0x0, 0⟩, ⟨4, 1, .rw, 0x4, 0⟩, ⟨10, 5, .rw, 0x0, 2⟩, ⟨13, 11, .rw, 0x0, 0⟩, ⟨19, 14, .rw, 0x0, 0⟩]⟩,
   ⟨0x14, 4, 1, 4, 1, 0, [⟨7, 0, .rw, 0x1, 0⟩, ⟨17, 8, .rw, 0x0, 0⟩]⟩,
   ⟨0x20, 4, 1, 4, 1, 0, [⟨31, 0, .wo, 0x0, 0⟩]⟩,
   ⟨0x24, 4, 1, 4, 1, 0, [⟨31, 0, .wo, 0x0, 0⟩]⟩,
   ⟨0x28, 4, 1, 4, 1, 0, [⟨31, 0, .ro, 0x0, 0⟩]⟩,
   ⟨0x2C, 4, 1, 4, 1, 0, [⟨31, 0, .ro, 0x0, 0⟩]⟩]

/-- The registers of block SC. -/
def regRows_sc : List RegRow :=
  [⟨0x0, 4, 1, 4, 1, 0, [⟨2, 0, .ro, 0x0, 0⟩, ⟨3, 3, .ro, 0x0, 0⟩, ⟨4, 4, .ro, 0x0, 0⟩, ⟨5, 5, .ro, 0x0, 0⟩, ⟨12, 6, .ro, 0x0, 0⟩, ⟨13, 13, .ro, 0x0, 0⟩, ⟨14, 14, .ro, 0x0, 0⟩]⟩,
   ⟨0x100, 4, 16, 4, 1, 0, [⟨0, 0, .ro, 0x0, 0⟩, ⟨1, 1, .ro, 0x0, 0⟩, ⟨2, 2, .rw, 0x0, 0⟩, ⟨15, 8, .ro, 0x0, 0⟩]⟩,
   ⟨0x200, 4, 8, 4, 1, 0, [⟨5, 0, .rw, 0x0, 2⟩]⟩,
   ⟨0x400, 4, 1, 4, 1, 0, [⟨7, 0, .rw, 0x0, 0⟩, ⟨8, 8, .sc, 0x0, 0⟩, ⟨23, 16, .ro, 0x0, 0⟩]⟩,
   ⟨0x410, 4, 8, 4, 1, 0, [⟨31, 0, .rw, 0x0, 0⟩]⟩]

/-- The registers of block CRU. -/
def regRows_cru : List RegRow :=
  [⟨0x0, 8, 9, 4, 1, 0, [⟨0, 0, .rw, 0x0, 0⟩, ⟨1, 1, .rw, 0x0, 0⟩, ⟨6, 2, .rw, 0x0, 0⟩, ⟨12, 7, .rw, 0x1E, 0⟩]⟩,
   ⟨0x4, 8, 9, 4, 1, 0, [⟨0, 0, .ro, 0x0, 0⟩, ⟨1, 1, .ro, 0x0, 0⟩, ⟨2, 2, .ro, 0x0, 0⟩, ⟨4, 3, .ro, 0x0, 0⟩, ⟨15, 8, .ro, 0x0, 0⟩]⟩,
   ⟨0x100, 4, 9, 4, 1, 0, [⟨1, 0, .rw, 0x0, 0⟩, ⟨2, 2, .rw, 0x0, 0⟩, ⟨4, 3, .ro, 0x0, 0⟩, ⟨5, 5, .ro, 0x0, 0⟩]⟩,
   ⟨0x200, 4, 1, 4, 1, 0, [⟨0, 0, .w1c, 0x0, 0⟩, ⟨1, 1, .w1c, 0x0, 0⟩, ⟨2, 2, .w1c, 0x0, 0⟩, ⟨3, 3, .w1c, 0x0, 0⟩, ⟨4, 4, .w1c, 0x0, 0⟩]⟩]

/-- The registers of block PG. -/
def regRows_pg : List RegRow :=
  [⟨0x0, 4, 4, 4, 1, 0, [⟨9, 0, .rw, 0x1F4, 0⟩]⟩,
   ⟨0x10, 4, 4, 4, 1, 0, [⟨9, 0, .ro, 0x0, 0⟩, ⟨19, 10, .ro, 0x0, 0⟩, ⟨22, 20, .ro, 0x0, 0⟩]⟩,
   ⟨0x20, 4, 4, 4, 1, 0, [⟨9, 0, .rw, 0x320, 0⟩]⟩,
   ⟨0x30, 4, 1, 4, 1, 0, [⟨7, 0, .rw, 0x78, 0⟩]⟩,
   ⟨0x34, 4, 1, 4, 1, 0, [⟨7, 0, .rw, 0x69, 0⟩, ⟨15, 8, .rw, 0x76, 0⟩]⟩,
   ⟨0x40, 4, 8, 4, 1, 0, [⟨9, 0, .rw, 0x30C, 0⟩]⟩,
   ⟨0x60, 4, 8, 4, 1, 0, [⟨9, 0, .ro, 0x0, 0⟩, ⟨16, 10, .ro, 0x0, 0⟩]⟩,
   ⟨0x80, 4, 8, 4, 1, 0, [⟨0, 0, .rw, 0x0, 0⟩, ⟨1, 1, .ro, 0x1, 0⟩]⟩,
   ⟨0xA0, 4, 1, 4, 1, 0, [⟨11, 0, .ro, 0x0, 0⟩, ⟨23, 12, .ro, 0x0, 0⟩, ⟨24, 24, .ro, 0x0, 0⟩]⟩,
   ⟨0xA4, 4, 1, 4, 1, 0, [⟨0, 0, .w1c, 0x0, 0⟩, ⟨1, 1, .w1c, 0x0, 0⟩, ⟨2, 2, .w1c, 0x0, 0⟩, ⟨3, 3, .w1c, 0x0, 0⟩, ⟨4, 4, .w1c, 0x0, 0⟩, ⟨5, 5, .w1c, 0x0, 0⟩]⟩,
   ⟨0x100, 4, 24, 4, 1, 0, [⟨11, 0, .ro, 0x0, 0⟩]⟩,
   ⟨0x200, 8, 8, 4, 1, 1, [⟨31, 0, .ro, 0x0, 0⟩]⟩]
  ++ [⟨0x204, 8, 8, 4, 1, 2, [⟨31, 0, .ro, 0x0, 0⟩]⟩]

/-- The registers of block RAS. -/
def regRows_ras : List RegRow :=
  [⟨0x0, 4, 1, 4, 1, 0, [⟨0, 0, .w1c, 0x0, 0⟩, ⟨1, 1, .w1c, 0x0, 0⟩, ⟨2, 2, .w1c, 0x0, 0⟩, ⟨3, 3, .w1c, 0x0, 0⟩]⟩,
   ⟨0x4, 4, 1, 4, 1, 0, [⟨7, 0, .ro, 0x0, 0⟩, ⟨8, 8, .ro, 0x0, 0⟩]⟩,
   ⟨0x8, 4, 1, 4, 1, 0, [⟨31, 0, .ro, 0x0, 0⟩]⟩,
   ⟨0x104, 4, 11, 4, 1, 0, [⟨11, 0, .rw, 0x0, 0⟩, ⟨19, 12, .rw, 0x0, 0⟩]⟩,
   ⟨0x440, 64, 11, 4, 16, 0, [⟨31, 0, .ro, 0x0, 0⟩]⟩]

/-- The registers of block AOC. -/
def regRows_aoc : List RegRow :=
  [⟨0x0, 8, 2, 4, 1, 1, [⟨31, 0, .ro, 0x0, 0⟩]⟩,
   ⟨0x4, 8, 2, 4, 1, 2, [⟨31, 0, .ro, 0x0, 0⟩]⟩,
   ⟨0x10, 4, 1, 4, 1, 0, [⟨11, 0, .rw, 0x0, 0⟩]⟩,
   ⟨0x40, 4, 1, 4, 1, 0, [⟨0, 0, .w1s, 0x0, 0⟩, ⟨16, 1, .rw, 0x3E8, 0⟩, ⟨17, 17, .ro, 0x0, 0⟩]⟩,
   ⟨0x14, 4, 4, 4, 1, 0, [⟨31, 0, .ro, 0x0, 0⟩]⟩,
   ⟨0x44, 4, 1, 4, 1, 0, [⟨31, 0, .wo, 0x0, 0⟩]⟩]

/-- The registers of block JR. -/
def regRows_jr : List RegRow :=
  [⟨0x0, 4, 1, 4, 1, 0, [⟨0, 0, .ro, 0x0, 0⟩, ⟨2, 1, .ro, 0x0, 0⟩, ⟨9, 3, .ro, 0x0, 0⟩, ⟨25, 10, .ro, 0x0, 0⟩]⟩,
   ⟨0x4, 4, 1, 4, 1, 0, [⟨0, 0, .w1c, 0x0, 0⟩, ⟨1, 1, .w1c, 0x0, 0⟩, ⟨2, 2, .w1c, 0x0, 0⟩, ⟨3, 3, .w1c, 0x0, 0⟩]⟩]

/-- The registers of block MP. -/
def regRows_mp : List RegRow :=
  [⟨0x0, 4, 1, 4, 1, 0, [⟨0, 0, .ro, 0x0, 0⟩, ⟨1, 1, .ro, 0x0, 0⟩, ⟨2, 2, .ro, 0x0, 0⟩]⟩]

/-- The registers of block PIN. -/
def regRows_pin : List RegRow :=
  [⟨0x0, 4, 64, 4, 1, 0, [⟨1, 0, .rw, 0x0, 0⟩, ⟨3, 2, .rw, 0x0, 0⟩, ⟨5, 4, .rw, 0x1, 0⟩, ⟨7, 7, .ro, 0x0, 0⟩]⟩,
   ⟨0x100, 4, 2, 4, 1, 0, [⟨31, 0, .rw, 0x0, 0⟩]⟩,
   ⟨0x108, 4, 2, 4, 1, 0, [⟨31, 0, .rw, 0x0, 0⟩]⟩,
   ⟨0x110, 4, 2, 4, 1, 0, [⟨31, 0, .ro, 0x0, 0⟩]⟩,
   ⟨0x200, 4, 1, 4, 1, 0, [⟨0, 0, .w1c, 0x0, 0⟩, ⟨1, 1, .w1c, 0x0, 0⟩, ⟨2, 2, .w1c, 0x0, 0⟩]⟩]

end Sys2Proof.Machine
end

