-- ==== Sys2Proof/Machine/Ops.lean ====
section
/-! DEFINITION. The named operations over registers, memory, sync objects and the fault machinery that every meaning is
written with: reading and writing a register field (R9, R11, R12), raising an event flag with its report to RAS (R596,
R602), counting reports in windows (R599), appending to the sediment record (R603), reading and writing memory under
SECDED (R652), and the sync objects (R141). -/

namespace Sys2Proof.Machine

/-! Registers. -/

/-- The register rows of a block (R645, R646). -/
def blockRows (blk : Nat) : List RegRow :=
  if blk < 0x80 then
    match blk % 16 with
    | 0 => regRows_nc | 1 => regRows_tg | 2 => regRows_sp | 3 => regRows_mv | 4 => regRows_ma | 5 => regRows_ma
    | 6 => regRows_ve | 7 => regRows_su | 8 => regRows_gr | _ => []
  else match blk with
    | 0x80 => regRows_hb | 0x81 => regRows_mc | 0x82 => regRows_hi | 0x83 => regRows_ci
    | 0x84 => regRows_cr | 0x85 => regRows_cr | 0x86 => regRows_cr | 0x87 => regRows_cr
    | 0x88 => regRows_cr | 0x89 => regRows_cr | 0x8A => regRows_cr | 0x8B => regRows_cr
    | 0x8C => regRows_ia | 0x8D => regRows_ip | 0x8E => regRows_ip | 0x8F => regRows_vx
    | 0x90 => regRows_mp | 0x91 => regRows_sc | 0x92 => regRows_aoc | 0x93 => regRows_pg
    | 0x94 => regRows_cru | 0x95 => regRows_ras | 0x96 => regRows_jr | 0x97 => regRows_pin
    | _ => []

/-- Whether a row holds the register at offset `o` of its block. -/
def rowHits (r : RegRow) (o : Nat) : Bool :=
  r.base ≤ o && (o - r.base) / r.stride1 < r.count1 &&
    (o - r.base) % r.stride1 % r.stride2 == 0 && (o - r.base) % r.stride1 / r.stride2 < r.count2

/-- The row of the register at a BAR0 offset; ring pages stand at 0x400_0000 (R479). -/
def findRow (off : Nat) : Option RegRow :=
  if off < 0x4000000 then (blockRows (off / 0x10000)).find? fun r => rowHits r (off % 0x10000)
  else if (off - 0x4000000) / 0x1000 ≤ 16 then regRows_rp.find? fun r => rowHits r ((off - 0x4000000) % 0x1000)
  else none

/-- The defaults of R598: window in seconds and threshold, by class. -/
def rasDefault (cls : Nat) : Nat × Nat :=
  match cls with
  | 1 => (10, 3) | 2 => (60, 8) | 3 => (60, 8) | 4 => (60, 8) | 5 => (60, 64) | 6 => (60, 8) | 7 => (1, 64)
  | 8 => (1, 64) | 9 => (600, 3) | 10 => (3600, 4) | _ => (1, 1)

/-- The life-cycle state of a fuse value (R527, R553). -/
def lifeCode (fuse : Nat) : Nat := match fuse with | 0 => 0 | 1 => 1 | 3 => 2 | 7 => 3 | _ => 4

/-- Reset values that a table gives by formula or by rule (R359, R464, R598, R433), and
the masked vectors of the MSI-X table (log entry 9). -/
def regResetSpecial (off : Nat) : Option Word :=
  if off = 0x830038 then some (BitVec.ofNat 32 Config.deviceId.toNat)
  else if off = 0x83003C then some (BitVec.ofNat 32 (Config.deviceId.toNat / 2 ^ 32))
  else if off = 0x910000 then some (BitVec.ofNat 32 (lifeCode Config.lifeCycle + 64 * min Config.fuseCounter 64))
  else if 0x810010 ≤ off ∧ off < 0x810038 then
    let n := (off - 0x810010) / 4
    some (BitVec.ofNat 32 ((if n < 8 then 250 else if n = 8 then 1000 else 125) + 4 * 4096))
  else if 0x40F0000 ≤ off ∧ off < 0x40F0400 ∧ off % 16 = 12 then some 1
  else if 0x950104 ≤ off ∧ off < 0x950130 then
    let d := rasDefault ((off - 0x950100) / 4)
    some (BitVec.ofNat 32 (d.1 + d.2 * 4096))
  else if (0x8D4000 ≤ off ∧ off < 0x8DC000) ∨ (0x8E4000 ≤ off ∧ off < 0x8EC000) then
    let j := (off % 0x10000 - 0x4000) % 2048 % 516 / 4
    let v := fun k => if 256 < k then 0 else min (256 * k) 65535
    if 387 * 4 ≤ (off % 0x10000 - 0x4000) % 2048 then some 0
    else some (BitVec.ofNat 32 (v (2 * j) + 65536 * v (2 * j + 1)))
  else none

/-- The value of a row after reset. -/
def rowReset (r : RegRow) : Nat := r.fields.foldl (fun a f => a + f.reset % 2 ^ (f.hi + 1 - f.lo) * 2 ^ f.lo) 0

/-- The reset value of the register at a BAR0 offset (R11). -/
def regReset (off : Nat) : Word :=
  match regResetSpecial off with
  | some w => w
  | none => match findRow off with
    | some r => BitVec.ofNat 32 (rowReset r)
    | none => 0

/-- The stored value of the register at a BAR0 offset. -/
def State.rd (s : State) (off : Nat) : Word := mapGet regReset s.regs off

/-- Store a register word. -/
def State.wr (s : State) (off : Nat) (v : Word) : State := { s with regs := mapSet regReset s.regs off v }

/-- The value of a register field. -/
def State.fget (s : State) (f : Fld) : Nat := bits (s.rd f.off).toNat f.hi f.lo

/-- Store a register field, the register's other bits unchanged. -/
def State.fput (s : State) (f : Fld) (v : Nat) : State :=
  s.wr f.off (BitVec.ofNat 32 (setBits (s.rd f.off).toNat f.hi f.lo v))

/-- A one-bit field as a truth value. -/
def State.fbit (s : State) (f : Fld) : Bool := s.fget f == 1

/-- Add to a field that holds at its largest value. -/
def State.fsat (s : State) (f : Fld) (n : Nat) : State :=
  s.fput f (min (s.fget f + n) (2 ^ (f.hi + 1 - f.lo) - 1))

/-- A 64-bit quantity in two registers (R12). -/
def State.fget64 (s : State) (lo : Fld) : Nat := (s.rd lo.off).toNat + 2 ^ 32 * (s.rd (lo.off + 4)).toNat

/-- Store a 64-bit quantity in two registers. -/
def State.fput64 (s : State) (lo : Fld) (v : Nat) : State :=
  (s.wr lo.off (BitVec.ofNat 32 v)).wr (lo.off + 4) (BitVec.ofNat 32 (v / 2 ^ 32))

/-- A domain has no clock: its clock stands stopped (R564, R565), or its source is OFF (R561). 0 to 3 are the array domains, 4
FAB, 5 MEM, 6 CAM, 7 VID, 8 IO. -/
def State.stopped (s : State) (d : Nat) : Bool := s.fbit (f_cruDomain_stopped d) || s.fget (f_cruDomain_src_now d) == 2

/-- The MP cannot act: its own clock or the fabric's stands stopped (R565, R567). -/
def State.mpStands (s : State) : Bool := s.stopped 4 || s.stopped 8

/-- The clock domain of a core stands stopped: the core is frozen (R32, R565). -/
def State.coreStopped (s : State) (n : Nat) : Bool := s.stopped (n / 2)

/-- Append to what the device has sent outside. -/
def State.emit (s : State) (o : Output) : State := { s with out := s.out ++ [o] }

/-- A value the spec leaves open, drawn fresh. -/
def State.draw (s : State) : Nat × State := (Config.freeValue s.fresh, { s with fresh := s.fresh + 1 })

/-! Cores and arrays. -/

/-- A core's running state. -/
def State.core (s : State) (n : Nat) : CoreRt := mapGet (fun _ => CoreRt.reset) s.cores n

/-- Store a core's running state. -/
def State.setCore (s : State) (n : Nat) (c : CoreRt) : State :=
  { s with cores := mapSet (fun _ => CoreRt.reset) s.cores n c }

/-- Array `a` of core `n`. -/
def State.array (s : State) (n a : Nat) : ArrRt := mapGet (fun _ => ArrRt.reset) s.arrays (2 * n + a)

/-- Store array `a` of core `n`. -/
def State.setArray (s : State) (n a : Nat) (r : ArrRt) : State :=
  { s with arrays := mapSet (fun _ => ArrRt.reset) s.arrays (2 * n + a) r }

/-- The states of NC_STATUS.state (R157): 0 idle, 1 running, 2 waiting, 3 at boundary, 4 fault-halted, 5 aborting. -/
def State.coreState (s : State) (n : Nat) : Nat := s.fget (f_ncStatus_state n)

/-- A core is halted when it reads idle, at boundary or fault-halted. -/
def State.halted (s : State) (n : Nat) : Bool :=
  s.coreState n == 0 || s.coreState n == 3 || s.coreState n == 4

/-- Count waiting cycles (R166). -/
def State.waitCycles (s : State) (n k : Nat) : State :=
  if s.fbit (f_ncCtrl_count_en n) then
    s.fput64 (f_ncWaitCycles_wait_lo n) ((s.fget64 (f_ncWaitCycles_wait_lo n) + k) % 2 ^ 64)
  else s

/-- The cycles that the wait a core stands in has lasted so far. The model holds no clock of a waiting core, so their number
is a free value (log entry 64). -/
def State.waitedSoFar (s : State) (n : Nat) : Nat × State :=
  match (s.core n).waiting with
  | none => (0, s)
  | some _ => s.draw

/-- Abort a core (R156): issue stops at once, and work in flight is discarded; the core reads aborting until its engines
and generators have unwound. A wait that the abort ends has counted its cycles (R166). -/
def State.abortCore (s : State) (n : Nat) : State :=
  let w := s.waitedSoFar n
  let s := w.2.waitCycles n (w.1 - (s.core n).waitSkip)
  let c := s.core n
  let drop := fun (s : State) a => s.setArray n a { s.array n a with streamed := none, heldPass := none }
  let s := drop (drop s 0) 1
  let s := s.setCore n { c with queue := [], half := none, waiting := none, stepEndAt := none, paused := false, stepOpen := false }
  let s := { s with ring := { s.ring with sends := s.ring.sends.filter fun b => b.core != n } }
  let s := (s.fput (f_maStatus_streamed_active n 0) 0).fput (f_maStatus_streamed_active n 1) 0
  (s.fput (f_ncCtrl_abort n) 1).fput (f_ncStatus_state n) 5

/-- Abort every core of a mask that is not idle. -/
def State.abortCores (s : State) (mask : Nat) : State :=
  (List.range 8).foldl (fun s n => if bit mask n && s.coreState n != 0 then s.abortCore n else s) s

/-! The sediment record and the counting of reports. -/

/-- The stamp of a sediment entry (R601). -/
def State.stamp (s : State) : Nat :=
  if s.timeRuns then s.devTime.toNat % 2 ^ 63 else 2 ^ 63 + s.aonTicks % 2 ^ 63

/-- The 16 bytes of a sediment entry (R601). -/
def sedEntry (stamp cls index code data : Nat) : BitVec 128 :=
  BitVec.ofNat 128 (stamp + 2 ^ 64 * (cls + 2 ^ 16 * (index % 65536 + 2 ^ 16 * (code + 2 ^ 16 * min data 0xFFFF))))

/-- Entries that the MP, while it serves the management port, sends on to the event receiver (R618). -/
def eventCode (code : Nat) : Bool :=
  code == 0x10 || code == 0x11 || code == 0x40 || code == 0x41 || code == 0x31

/-- Append an entry to the sediment record (R603); the oldest unflushed entries are lost when more than 4,096 stand
unflushed (R604, JR_EVENT.entries_lost). -/
def State.sediment' (s : State) (cls index code data : Nat) : State :=
  let n := s.fget64 (f_aocSed_value_lo 0)
  let e := sedEntry s.stamp cls index code data
  let s1 := { s with sediment := mapSet (fun _ => 0) s.sediment (n % 4096) e }
  let s2 := s1.fput64 (f_aocSed_value_lo 0) (n + 1)
  let fl := s2.fget64 (f_aocSed_value_lo 1)
  let s3 := if 4096 < n + 1 - fl then (s2.fput64 (f_aocSed_value_lo 1) (n + 1 - 4096)).fput f_jrEvent_entries_lost 1 else s2
  match s3.evReceiver with
  | some eid => if eventCode code && !s3.aoc.owns then s3.emit (.mgmt eid 0x0A (leBytes 16 e.toNat)) else s3
  | none => s3

/-- The firmware writes credit 0 to every core of the running job, so that each halts at its next STEP_END (R513). -/
def State.creditZero (s : State) : State :=
  (List.range 8).foldl (fun s n => if bit s.jobCores n then s.fput (f_ncBoundaryCredit_credit n) 0 else s) s

/-- A condition that holds for the running job; one that ends it at once has the firmware abort every core of the job, any
other ends it at the next boundary (R39, R513, R597). -/
def State.cond (s : State) (c : JobCond) (atOnce : Bool) : State :=
  let s := { s with conds := if s.conds.contains c then s.conds else s.conds ++ [c], abortNow := s.abortNow || atOnce }
  if atOnce then s.abortCores s.jobCores else s.creditZero

/-- The key of a unit's count: class and index. -/
def rasKey (cls idx : Nat) : Nat := cls * 65536 + idx

/-- The core a unit of a class belongs to, for the classes whose lasting fault declares a core failed (R598). -/
def rasCore (cls idx : Nat) : Option Nat :=
  match cls with
  | 1 => some (idx / 2) | 2 => some (idx / 40) | 3 => some idx | 11 => some idx | _ => none

/-- A RAS event for the driver (R502, R598): class, index and code. -/
def State.rasEvent (s : State) (cls idx code : Nat) : State :=
  { s with host := { s.host with evQueue := s.host.evQueue ++ [(0x20, 0xFF, leBytes 4 cls ++ leBytes 4 idx ++ leBytes 4 code)] } }

/-- Declare a core failed; the job that runs on it ends at once (R600). -/
def State.failCore (s : State) (n cls : Nat) : State :=
  let s := s.fput f_rasFailed_cores (s.fget f_rasFailed_cores ||| 2 ^ n)
  let s := s.fput f_rasEvent_unit_failed 1
  let s := (s.sediment' 0x0B n 0x0011 cls).rasEvent 0x0B n 0x0011
  if bit s.jobCores n then s.cond .unitFailed true else s

/-- Count one event of a unit in its window, and declare it lasting at its threshold (R599, R600). -/
def State.rasCount (s : State) (cls idx : Nat) : State :=
  let u := mapGet (fun _ => RasUnit.mk 0 0 false) s.ras (rasKey cls idx)
  if u.lasting then s else
    let win := s.fget (f_rasClassCfg_window_s (cls - 1)) * 32768
    let thr := if cls = 11 then 1 else s.fget (f_rasClassCfg_threshold (cls - 1))
    let u' : RasUnit :=
      if u.count = 0 ∨ win < s.aonTicks - u.start then ⟨1, s.aonTicks, false⟩ else ⟨u.count + 1, u.start, false⟩
    let last := decide (thr ≤ u'.count)
    let s1 := { s with ras := mapSet (fun _ => RasUnit.mk 0 0 false) s.ras (rasKey cls idx) { u' with lasting := last } }
    if !last then s1 else
      let f := f_rasLasting_lasting (cls - 1) (idx / 32)
      let s2 := (s1.fput f (s1.fget f ||| 2 ^ (idx % 32))).fput f_rasEvent_lasting 1
      let s3 := (s2.sediment' cls idx 0x0010 u'.count).rasEvent cls idx 0x0010
      match rasCore cls idx with
      | some n => s3.failCore n cls
      | none =>
        if cls = 9 then ((((s3.fput f_rasFailed_vx 1).fput f_rasEvent_unit_failed 1).sediment' 9 0 0x0011 9).rasEvent 9 0 0x0011) else s3

/-- A counted report: its sediment entry, then the count (R599, R603). -/
def State.report (s : State) (cls idx code data : Nat) : State := (s.sediment' cls idx code data).rasCount cls idx

/-- Set an event flag whose setting reports to RAS as FLAG_SET (R596, R602). A flag already set does not set again
(log entry 5). -/
def State.raise (s : State) (f : Fld) : State :=
  if s.fbit f then s
  else (s.fput f 1).sediment' 0x10 (f.off / 0x10000) 0x0050 (f.off % 0x10000 / 4 * 256 + f.lo)

/-- Set an event flag that reports to the MP only, or whose report has an entry of its own. -/
def State.flag (s : State) (f : Fld) : State := s.fput f 1

/-- A register write discarded for a growth bit (R14). -/
def State.growthOverflow (s : State) (off : Nat) : State :=
  (s.flag f_rasEvent_growth_overflow).sediment' 0x0F (off / 0x10000) 0x0020 (off % 0x10000)

/-- Whether a core has been declared failed (R600). -/
def State.coreFailed (s : State) (n : Nat) : Bool := bit (s.fget f_rasFailed_cores) n

/-- Count writes of a failed core dropped at the fabric (R600). -/
def State.dropWrites (s : State) (k : Nat) : State :=
  let s := (s.fsat f_rasFencedWrites_dropped k).flag f_rasEvent_fenced_write
  { s with fenceOpen := some ((s.fenceOpen.getD 0) + k) }

/-! Memory. -/

/-- The contents of memory cells in canonical form: strictly rising addresses, no zero byte listed (R653). -/
def memWf (m : List Host.Cell) : Bool := mapWf (fun _ => (0 : Byte)) m

/-- One byte of memory. -/
def State.byte (s : State) (a : Nat) : Byte := mapGet (fun _ => (0 : Byte)) s.mem a

/-- Store one byte of memory. -/
def State.setByte (s : State) (a : Nat) (b : Byte) : State := { s with mem := mapSet (fun _ => (0 : Byte)) s.mem a b }

/-- `n` bytes of memory from an address. -/
def State.bytes (s : State) (a n : Nat) : List Byte := (List.range n).map fun i => s.byte (a + i)

/-- Store bytes of memory from an address. -/
def State.setBytes (s : State) (a : Nat) : List Byte → State
  | [] => s
  | b :: t => (s.setByte a b).setBytes (a + 1) t

/-- The little-endian number in `n` bytes of memory. -/
def State.num (s : State) (a n : Nat) : Nat := leNat (s.bytes a n)

/-- The device address of scratchpad offset `off` of a core (R643). -/
def spAddr (n off : Nat) : Nat := 0x1000000 * n + off

/-- The device address of a horizon-buffer offset (R190). -/
def hbAddr (off : Nat) : Nat := 0x8000000 + off

/-- The device address of a routine-store offset (R645). -/
def rsAddr (n off : Nat) : Nat := 0x10000000 + 0x100000 * n + 0xC0000 + off

/-- Clear every byte of a range (scrubs and resets, R183, R196, R653), with valid check bits. -/
def State.clearRange (s : State) (a n : Nat) : State :=
  { s with mem := mapDrop (fun k => a ≤ k && k < a + n) s.mem,
           ecc := mapDrop (fun k => a ≤ 8 * k && 8 * k < a + n) s.ecc }

/-! SECDED (R652). -/

/-- The columns h(0) to h(63): the seven-bit values with at least two bits set, in order. -/
def eccColumns : List Nat :=
  ((List.range 128).filter fun v => 2 ≤ ((List.range 7).filter fun j => bit v j).length).take 64

/-- The syndrome of a pattern of inverted stored bits: S[6:0], and S[7] the parity of all 72. -/
def eccSyndrome (m : BitVec 72) : Nat :=
  let set := (List.range 72).filter fun i => bit m.toNat i
  let low := set.foldl (fun a i => a ^^^ (if i < 64 then eccColumns.getD i 0 else if i < 71 then 2 ^ (i - 64) else 0)) 0
  -- the parity column of check bit 7 takes every stored bit
  low + 128 * (set.length % 2)

/-- What a read makes of a word: no error, a corrected word with the bit it inverts (none for a check bit), or an
uncorrectable word. -/
inductive EccRead where
  | clean
  | corrected (bit : Option Nat)
  | uncorrectable
  deriving DecidableEq, Repr

/-- The meaning of a syndrome (R652). -/
def eccMeaning (syn : Nat) : EccRead :=
  let low := syn % 128
  if syn = 0 then .clean
  else if syn = 0x80 then .corrected none
  else if syn < 128 then .uncorrectable
  else match eccColumns.findIdx? (· == low) with
    | some i => .corrected (some i)
    | none => if (List.range 7).any fun j => low == 2 ^ j then .corrected none else .uncorrectable

/-- The inverted bits of the word at a device address. -/
def State.eccAt (s : State) (a : Nat) : BitVec 72 := mapGet (fun _ => 0) s.ecc (a / 8)

/-- Plant or clear inverted bits of a word. -/
def State.setEcc (s : State) (a : Nat) (m : BitVec 72) : State := { s with ecc := mapSet (fun _ => 0) s.ecc (a / 8) m }

/-- A line read under SECDED: the bytes delivered, the words corrected, and the uncorrectable words, each with its
syndrome. -/
structure LineRead where
  data : List Byte
  corrected : List (Nat × Nat)
  bad : List (Nat × Nat)
  deriving DecidableEq, Repr

/-- The eight bytes of a word with some of its bits inverted. -/
def flipWord (d : List Byte) (m : Nat) : List Byte := leBytes 8 (leNat d ^^^ (m % 2 ^ 64))

/-- Eight stored words, as their bytes and their inverted bits by word, read under SECDED (R652). -/
def lineRead (data : Nat → List Byte) (flips : Nat → BitVec 72) : LineRead :=
  (List.range 8).foldl (fun r w =>
    let d := data w
    let m := flips w
    if m = 0 then { r with data := r.data ++ d } else
      let syn := eccSyndrome m
      match eccMeaning syn with
      | .clean => { r with data := r.data ++ flipWord d m.toNat }
      | .corrected b =>
        let fix := match b with | some i => 2 ^ i | none => 0
        { r with data := r.data ++ flipWord d (m.toNat ^^^ fix), corrected := r.corrected ++ [(w, syn)] }
      | .uncorrectable => { r with data := r.data ++ flipWord d m.toNat, bad := r.bad ++ [(w, syn)] })
    ⟨[], [], []⟩

/-- Read the 64 B line at a device address under SECDED (R181, R194, R652). -/
def State.readLine (s : State) (a : Nat) : LineRead :=
  lineRead (fun w => s.bytes (a + 8 * w) 8) (fun w => s.eccAt (a + 8 * w))

/-- The inverted bits of the eight words of a line. -/
def State.lineFlips (s : State) (a : Nat) : List (BitVec 72) := (List.range 8).map fun w => s.eccAt (a + 8 * w)

/-- Write back a corrected line: the words a read corrected hold the delivered data with valid check bits. -/
def State.writeBack (s : State) (a : Nat) (r : LineRead) : State :=
  r.corrected.foldl (fun s p =>
    (s.setBytes (a + 8 * p.1) ((r.data.drop (8 * p.1)).take 8)).setEcc (a + 8 * p.1) 0) s

/-! Sync objects (R137, R141). -/

/-- The counter of a sync object. -/
def State.obj (s : State) (o : Nat) : Word := mapGet (fun _ => 0) s.sync o

/-- Set a sync object. -/
def State.setObject (s : State) (o : Nat) (v : Word) : State := { s with sync := mapSet (fun _ => 0) s.sync o v }

/-- Add a signal to a sync object (R141). -/
def State.signalObj (s : State) (o : Nat) (inc : Word) : State := s.setObject o (s.obj o + inc)

/-- A wait is satisfied when the counter has reached the target within half the range (R141). -/
def reached (counter target : Word) : Bool := (counter - target).toNat < 2 ^ 31

/-- The name the spec gives a core's number in a report to the MP. -/
def mpDecodeFault : Nat := 1
def mpBoundary : Nat := 2
def mpUncorrectable : Nat := 3
def mpPinEvent : Nat := 4

end Sys2Proof.Machine
end

