-- ==== Sys2Proof/Machine/Scratch.lean ====
section
/-! DEFINITION. The scratchpad as its two classes of access see it: static accesses on their scheduled cycle with bank
conflicts (R176 to R179), contents as they stood on a cycle, SECDED on every read (R181, R182), the error injection of
R189, and the tilth guard's log (R152 to R155). -/

namespace Sys2Proof.Machine

/-- The rank under R178 with its order inside a rank, times ten. -/
def rankFetch : Nat := 10
def rankDrain (arr : Nat) (row : Bool) : Nat := 20 + 2 * arr + b2n row
def rankWeights (arr : Nat) : Nat := 30 + arr
def rankActs (arr : Nat) : Nat := 40 + arr
def rankVe : Nat := 50
def rankSu : Nat := 60
def rankGr : Nat := 70
def rankDesc : Nat := 80

/-- The engine code of an access's rank (R112), for SP_ERR_LOG: 0 for fetch. -/
def rankEngine (rank eng : Nat) : Nat := if rank < 20 then 0 else eng

/-- Who an access is made for: the engine, the instruction's position, and the routine it lies in. -/
structure Who where
  core : Nat
  engine : Nat
  array : Nat
  pos : Nat
  routine : Option Nat
  depth : Nat
  deriving DecidableEq, Repr

/-- The iteration of the innermost repeat active over all call levels, in the 16 bits that hold it (R155, log entry 61). -/
def activeIter (c : CoreRt) : Nat :=
  match (c.reps :: c.calls.map (·.reps)).find? fun l => !l.isEmpty with
  | some (r :: _) => r.iter % 65536
  | _ => 0

/-- The eight words of a fault's record (R155). -/
def State.tgRecord (s : State) (who : Who) (kind region slot : Nat) (write : Bool) (cyc : Nat) : List Nat :=
  let n := who.core
  let c := s.core n
  [kind + 2 ^ 8 * who.engine + 2 ^ 12 * who.array + 2 ^ 15 * b2n write + 2 ^ 16 * region + 2 ^ 22 * n,
   slot + 2 ^ 12 * b2n who.routine.isSome + 2 ^ 13 * who.depth + 2 ^ 16 * who.routine.getD 0,
   who.pos, s.fget (f_ncStep_step n), c.anchorPos, cyc - c.anchorRef, activeIter c, s.devTime.toNat]

/-- The words of record `i` of a core's log. -/
def State.tgRead (s : State) (n i : Nat) : List Nat :=
  (List.range 8).map fun w => (s.rd (0x100000 * n + 0x10100 + 32 * i + 4 * w)).toNat

/-- Store the words of record `i` of a core's log. -/
def State.tgPut (s : State) (n i : Nat) (ws : List Nat) : State :=
  (List.range 8).foldl (fun s w => s.wr (0x100000 * n + 0x10100 + 32 * i + 4 * w) (BitVec.ofNat 32 (ws.getD w 0))) s

/-- Put a record at place `k` of a log, the records from there on moving up by one; the sixteenth falls out (R169). -/
def State.tgInsert (s : State) (n k : Nat) (ws : List Nat) : State :=
  ((List.range 15).reverse.foldl (fun s i => if k ≤ i then s.tgPut n (i + 1) (s.tgRead n i) else s) s).tgPut n k ws

/-- A default-mode fault of the step stands (R154, R179). -/
def State.tgPend (s : State) (n : Nat) : State :=
  let c := s.core n
  (s.setCore n { c with tgPending := c.tgPending || !c.profiling }).fput (f_ncStatus_tg_pending n)
    (b2n (c.tgPending || !c.profiling))

/-- One fault into the tilth guard's log (R154, R155), on cycle `cyc`. The log holds the first sixteen in the order of their
cycles; a fault that a fault on an earlier cycle puts out of it counts with the rest (R168, R169). -/
def State.tgFault (s : State) (who : Who) (kind region slot : Nat) (write : Bool) (cyc : Nat) : State :=
  let n := who.core
  let s := s.tgPend n
  let c := s.core n
  let at_ := (c.tgCycles.filter fun x => decide (x ≤ cyc)).length
  let full := decide (16 ≤ s.fget (f_tgStatus_records n))
  let s := if full then s.fsat (f_tgStatus_more_faults n) 1
    else s.fput (f_tgStatus_records n) (s.fget (f_tgStatus_records n) + 1)
  if 16 ≤ at_ then s
  else
    let s1 := s.tgInsert n at_ (s.tgRecord who kind region slot write cyc)
    s1.setCore n { s1.core n with tgCycles := (c.tgCycles.take at_ ++ cyc :: c.tgCycles.drop at_).take 16 }

/-- What a static conflict is to its logs (R179, R187): its bank and cycle, the access performed, and the losing access that
ranks highest. The first conflict since the flag was last clear is logged, and a further access on its bank and cycle
revises it; conflicts on other cycles or banks count in `more`, each once. -/
def State.staticConflict (s : State) (n cyc bank : Nat) (winner loser : SAcc) (again : Bool) : State :=
  let s := (s.raise (f_spEvent_static_conflict n)).tgPend n
  let c := s.core n
  let mine := decide (c.conflictAt = some (cyc, bank)) && again
  if s.fbit (f_spConflictLog_valid n) && !mine then
    (if again then s else s.fsat (f_spConflictLog_more n) 1)
  else
    let s := s.setCore n { c with conflictAt := some (cyc, bank) }
    let s := s.fput (f_spConflictLog_bank n) bank
    let s := s.fput (f_spConflictLog_winner n) (winner.rank / 10)
    let s := s.fput (f_spConflictLog_loser n) (loser.rank / 10)
    let s := s.fput (f_spConflictLog_loser_write n) (b2n loser.write)
    (s.fput (f_spConflictLog_valid n) 1).fput (f_spConflictLog_position n) loser.pos

/-- Note what a read on an earlier cycle would still have seen. -/
def State.note (s : State) (n cyc : Nat) (u : Undo) : State :=
  let c := s.core n
  s.setCore n { c with hist := (cyc, u) :: c.hist }

/-- The line of device address `a` as it stood at the start of cycle `cyc`, where a write noted on that cycle or later
has replaced it: its bytes and the inverted bits of its words. -/
def lineAsOf (h : List (Nat × Undo)) (a cyc : Nat) : Option (List Byte × List (BitVec 72)) :=
  h.foldl (fun r p => match p.2 with
    | .line a' old fl => if a' = a ∧ cyc ≤ p.1 then some (old, fl) else r
    | _ => r) none

/-- Whether two accesses are one for their bank: reads of one line on one cycle (R177). -/
def SAcc.merges (a b : SAcc) : Bool := a.line == b.line && !a.write && !b.write

/-- The access of a list that ranks highest; the first presented of equal rank (R178, log entry 31). -/
def topAcc : List SAcc → Option SAcc
  | [] => none
  | a :: t => match topAcc t with
    | some b => if b.rank < a.rank then some b else some a
    | none => some a

/-- Put back the line that a write performed on cycle `cyc` replaced, when the write loses its bank after all (R178). -/
def State.undoWrite (s : State) (n cyc : Nat) (a : SAcc) : State :=
  if !a.write then s else
    match (s.core n).hist.find? fun p => p.1 == cyc && (match p.2 with
        | .line a' _ _ => a' == spAddr n (64 * a.line) | _ => false) with
    | some (_, .line a' old fl) =>
      (List.range 8).foldl (fun s w => s.setEcc (a' + 8 * w) (fl.getD w 0)) (s.setBytes a' old)
    | _ => s

/-- Claim a bank for a static access (R177, R178): whether the bank performs it. Every access not merged with the one that
ranks highest loses; a write performed earlier on that cycle that now loses has its line put back. -/
def State.claimBank (s : State) (n cyc line rank : Nat) (write : Bool) (pos : Nat) : Bool × State :=
  let c := s.core n
  let me : SAcc := ⟨cyc, line, rank, write, pos⟩
  let here := c.accs.filter fun a => a.cycle == cyc && a.line % 40 == line % 40
  let s1 := s.setCore n { c with accs := me :: c.accs }
  match topAcc here with
  | none => (true, s1)
  | some top =>
    let again := here.any fun a => !a.merges top
    let win := if rank < top.rank then me else top
    let all := here ++ [me]
    match topAcc (all.filter fun a => !a.merges win && a != win) with
    | none => (true, s1)
    | some loser =>
      let s2 := s1.staticConflict n cyc (line % 40) win loser again
      if decide (win = me) || me.merges win then
        (true, here.foldl (fun s a => if a.merges me then s else s.undoWrite n cyc a) s2)
      else (false, s2)

/-- Log an ECC error of the scratchpad (R186). -/
def State.spErrLog (s : State) (n line word syn req : Nat) (bad : Bool) : State :=
  if s.fbit (f_spErrLog_valid n) && (!bad || s.fbit (f_spErrLog_uncorrectable n)) then s
  else
    let s := s.fput (f_spErrLog_bank n) (line % 40)
    let s := s.fput (f_spErrLog_row n) (line / 40)
    let s := s.fput (f_spErrLog_word n) word
    let s := s.fput (f_spErrLog_uncorrectable n) (b2n bad)
    let s := s.fput (f_spErrLog_requester n) req
    (s.fput (f_spErrLog_valid n) 1).fput (f_spErrLog_syndrome n) syn

/-- What follows a read of a scratchpad line that met errors (R181, R182): for a static read the freeze and the
write-back (none where a later cycle's write has already replaced the line), for an asynchronous read a write-back that
waits. An uncorrectable word ends the job that runs on the core only where a static read met it. -/
def State.spEccEffects (s : State) (n line : Nat) (r : LineRead) (static replaced : Bool) (req : Nat) : State :=
  let idx := 40 * n + line % 40
  let s := match r.corrected with
    | [] => s
    | (w, syn) :: _ =>
      let s := (s.flag (f_spEvent_corrected n)).fsat (f_spCorrCount_corrected n) 1
      let s := (s.spErrLog n line w syn req false).report 2 idx 0x0001 r.corrected.length
      if static then
        let s := if replaced then s else s.writeBack (spAddr n (64 * line)) r
        let c := s.core n
        let s := s.setCore n { c with writebacks := c.writebacks.filter (· != line) }
        if s.fbit (f_ncCtrl_count_en n) then
          s.fput64 (f_ncFreezeCycles_freeze_lo n) ((s.fget64 (f_ncFreezeCycles_freeze_lo n) + 2) % 2 ^ 64)
        else s
      else
        let c := s.core n
        s.setCore n { c with writebacks := if c.writebacks.contains line then c.writebacks else c.writebacks ++ [line] }
  match r.bad with
  | [] => s
  | (w, syn) :: _ =>
    let s := (s.flag (f_spEvent_uncorrectable n)).spErrLog n line w syn req true
    let s := (s.report 2 idx 0x0002 0).emit (.toMp mpUncorrectable [n, line])
    if static && bit s.jobCores n then s.cond .uncorrectable false else s

/-- A static read of one scratchpad line on cycle `cyc`: the 64 bytes, zero where the bank did not perform it. -/
def State.sRead (s : State) (who : Who) (cyc line rank : Nat) : List Byte × State :=
  let n := who.core
  let p := s.claimBank n cyc line rank false who.pos
  if !p.1 then (zeros 64, p.2)
  else
    let old := lineAsOf (p.2.core n).hist (spAddr n (64 * line)) cyc
    let r := match old with
      | some o => lineRead (fun w => (o.1.drop (8 * w)).take 8) (fun w => o.2.getD w 0)
      | none => p.2.readLine (spAddr n (64 * line))
    if r.corrected.isEmpty && r.bad.isEmpty then (r.data, p.2)
    else (r.data, p.2.spEccEffects n line r true old.isSome (rankEngine rank who.engine))

/-- The error that an armed injection plants (R189), if the write covers its word. -/
def State.inject (s : State) (n line firstWord lastWord : Nat) : State :=
  if !s.fbit (f_spInject_arm n) then s
  else
    let w := s.fget (f_spInject_word n)
    if s.fget (f_spInject_bank n) ≠ line % 40 ∨ w < firstWord ∨ lastWord < w then s
    else
      let pick := fun b => if b < 72 then 2 ^ b else 0
      let a := pick (s.fget (f_spInject_bit_a n))
      let b := if s.fbit (f_spInject_double n) then pick (s.fget (f_spInject_bit_b n)) else 0
      (s.setEcc (spAddr n (64 * line + 8 * w)) (BitVec.ofNat 72 (a ^^^ b))).fput (f_spInject_arm n) 0

/-- Store bytes inside one scratchpad line, each word touched taking valid check bits (R175), with a pending write-back of
the line dropped (R181). -/
def State.spStore (s : State) (n line start : Nat) (d : List Byte) : State :=
  match d with
  | [] => s
  | _ =>
    let a := spAddr n (64 * line + start)
    let w0 := start / 8
    let w1 := (start + d.length - 1) / 8
    let s := s.setBytes a d
    let s := (List.range (w1 + 1 - w0)).foldl (fun s i => s.setEcc (spAddr n (64 * line + 8 * (w0 + i))) 0) s
    s.inject n line w0 w1

/-- A static write inside one scratchpad line on cycle `cyc`; discarded where the bank does not perform it. -/
def State.sWrite (s : State) (who : Who) (cyc line start rank : Nat) (d : List Byte) : State :=
  let n := who.core
  let p := s.claimBank n cyc line rank true who.pos
  if !p.1 then p.2
  else
    let a := spAddr n (64 * line)
    let s := p.2.note n cyc (.line a (p.2.bytes a 64) (p.2.lineFlips a))
    let c := s.core n
    let s := s.setCore n { c with writebacks := c.writebacks.filter (· != line) }
    s.spStore n line start d

/-- Static reads of consecutive lines, each on the cycle the given function names. -/
def State.sReads (s : State) (who : Who) (line rank : Nat) : List Nat → List Byte × State
  | [] => ([], s)
  | cyc :: t =>
    let p := s.sRead who cyc line rank
    let q := p.2.sReads who (line + 1) rank t
    (p.1 ++ q.1, q.2)

/-- Static writes of consecutive lines from the start of one, each on its cycle. -/
def State.sWrites (s : State) (who : Who) (line rank : Nat) : List (Nat × List Byte) → State
  | [] => s
  | (cyc, d) :: t => (s.sWrite who cyc line 0 rank d).sWrites who (line + 1) rank t

/-- The corrected line of an asynchronous read is written back (R181). -/
def State.asyncWriteBack (s : State) (n line : Nat) : State :=
  let a := spAddr n (64 * line)
  let s1 := s.writeBack a (s.readLine a)
  let c := s1.core n
  s1.setCore n { c with writebacks := c.writebacks.filter (· != line) }

/-- A bank serves no further asynchronous request before the write-backs that wait at it (R181). -/
def State.bankWriteBacks (s : State) (n line : Nat) : State :=
  ((s.core n).writebacks.filter fun l => l % 40 == line % 40).foldl (fun s l => s.asyncWriteBack n l) s

/-- An asynchronous read of one scratchpad line (R180 to R182): requester 4 for the mover, 16 for the pipes, 17 for the
system port; whether the line met an uncorrectable word. -/
def State.aRead (s : State) (n line req : Nat) : List Byte × Bool × State :=
  let s := s.bankWriteBacks n line
  let r := s.readLine (spAddr n (64 * line))
  if r.corrected.isEmpty && r.bad.isEmpty then (r.data, false, s)
  else (r.data, !r.bad.isEmpty, s.spEccEffects n line r false false req)

/-- The horizon-buffer line read of R194: data, whether it is poisoned, and the state with its logs and counts. -/
def State.hbRead (s : State) (line port : Nat) : List Byte × Bool × State :=
  let a := hbAddr (64 * line)
  let r := s.readLine a
  let log := fun (s : State) (p : Nat × Nat) (bad : Bool) =>
    if s.fbit f_hbErrLog_valid && (!bad || s.fbit f_hbErrLog_uncorrectable) then s
    else
      let s := s.fput f_hbErrLog_bank (line % 64)
      let s := s.fput f_hbErrLog_row (line / 64)
      let s := s.fput f_hbErrLog_word p.1
      let s := s.fput f_hbErrLog_uncorrectable (b2n bad)
      ((s.fput f_hbErrLog_port port).fput f_hbErrLog_valid 1).fput f_hbErrLog_syndrome p.2
  let s := match r.corrected with
    | [] => s
    | p :: _ =>
      let s := (s.flag f_hbEvent_corrected).fsat f_hbCorrCount_corrected 1
      ((log s p false).report 4 (line % 64) 0x0001 r.corrected.length).writeBack a r
  let s := match r.bad with
    | [] => s
    | p :: _ => ((log (s.flag f_hbEvent_uncorrectable) p true).report 4 (line % 64) 0x0002 0)
  (r.data, !r.bad.isEmpty, s)

/-- Store bytes in the horizon buffer with valid check bits (R190). -/
def State.hbStore (s : State) (off : Nat) (d : List Byte) : State :=
  let s := s.setBytes (hbAddr off) d
  { s with ecc := mapDrop (fun k => hbAddr off ≤ 8 * k + 7 && 8 * k < hbAddr off + d.length) s.ecc }

end Sys2Proof.Machine
end

