-- ==== Sys2Proof/Machine/Regions.lean ====
section
/-! DEFINITION. Circular regions (R149 to R152): geometry and pointers in the TG registers, claims, valid bits, and the
reads, writes and releases on their cycles. -/

namespace Sys2Proof.Machine

/-- A region's base line, slot size in lines and slot count (R170). -/
def State.regionBase (s : State) (n r : Nat) : Nat := s.fget (f_tgRegionCfg_base_line n r)
def State.slotLines (s : State) (n r : Nat) : Nat := s.fget (f_tgRegionCfg_slot_lines_m1 n r) + 1
def State.slotCount (s : State) (n r : Nat) : Nat := s.fget (f_tgRegionCfg_slot_count_m1 n r) + 1

/-- The first line of a slot. -/
def State.slotLine (s : State) (n r slot : Nat) : Nat := s.regionBase n r + slot * s.slotLines n r

/-- The place of a slot's valid bit (R172). -/
def validFld (n r slot : Nat) : Fld :=
  ⟨0x100000 * n + 0x14000 + 512 * r + 4 * (slot / 32), slot % 32, slot % 32⟩

def State.slotValid (s : State) (n r slot : Nat) : Bool := s.fbit (validFld n r slot)

def State.head (s : State) (n r : Nat) : Nat := s.fget (f_tgRegionPtr_head n r)
def State.tail (s : State) (n r : Nat) : Nat := s.fget (f_tgRegionPtr_tail n r)

/-- The region's head as it stood at the start of a cycle. -/
def State.headAsOf (s : State) (n r cyc : Nat) : Nat :=
  (s.core n).hist.foldl (fun v p => match p.2 with
    | .ptr r' h _ => if r' = r ∧ cyc ≤ p.1 then h else v
    | _ => v) (s.head n r)

/-- A slot's valid bit as it stood at the start of a cycle (R151). -/
def State.validAsOf (s : State) (n r slot cyc : Nat) : Bool :=
  (s.core n).hist.foldl (fun v p => match p.2 with
    | .valid r' sl o => if r' = r ∧ sl = slot ∧ cyc ≤ p.1 then o else v
    | _ => v) (s.slotValid n r slot)

/-- Whether the slot's valid bit changes on a noted cycle at or after `cyc`. -/
def State.changesLater (s : State) (n r slot cyc : Nat) : Bool :=
  (s.core n).hist.any fun p => match p.2 with
    | .valid r' sl _ => r' == r && sl == slot && decide (cyc ≤ p.1)
    | _ => false

def claimKey (r slot : Nat) : Nat := 4096 * r + slot

/-- The full mark of R171. -/
def State.regionFull (s : State) (n r : Nat) : State :=
  let full := s.head n r == s.tail n r && (List.range (s.slotCount n r)).all fun k =>
    s.slotValid n r k || (s.core n).claims.contains (claimKey r k)
  s.fput (f_tgRegionPtr_full n r) (b2n full)

/-- Claim the slot at the tail on cycle `cyc` (R150): the slot, with an overwrite fault if it is valid. -/
def State.claimSlot (s : State) (who : Who) (r cyc : Nat) : Nat × State :=
  let n := who.core
  let slot := s.tail n r
  let s1 := if s.validAsOf n r slot cyc then s.tgFault who 0x02 r slot true cyc else s
  let s2 := s1.note n cyc (.ptr r (s1.head n r) slot)
  let c := s2.core n
  let s3 := s2.setCore n { c with claims := claimKey r slot :: c.claims }
  (slot, s3.fput (f_tgRegionPtr_tail n r) ((slot + 1) % s.slotCount n r))

/-- Make a claimed slot valid at the end of cycle `cyc` (R150). -/
def State.makeValid (s : State) (n r slot cyc : Nat) : State :=
  let s1 := s.note n cyc (.valid r slot (s.slotValid n r slot))
  let c := s1.core n
  let s2 := s1.setCore n { c with claims := c.claims.erase (claimKey r slot) }
  (s2.fput (validFld n r slot) 1).regionFull n r

/-- Move a head over free slots until a valid or claimed slot or the tail; `fuel` bounds the walk. -/
def State.headWalk (s : State) (n r : Nat) : Nat → Nat → Nat
  | 0, h => h
  | f + 1, h =>
    if h = s.tail n r ∨ s.slotValid n r h ∨ (s.core n).claims.contains (claimKey r h) then h
    else s.headWalk n r f ((h + 1) % s.slotCount n r)

/-- Release a slot at the end of cycle `cyc` (R150, R151). -/
def State.releaseSlot (s : State) (n r slot cyc : Nat) : State :=
  if !s.validAsOf n r slot cyc || s.changesLater n r slot cyc then s
  else
    let s1 := (s.note n cyc (.valid r slot true)).fput (validFld n r slot) 0
    let h := s1.head n r
    let s2 :=
      if h ≠ slot then s1
      else
        let s1' := s1.note n cyc (.ptr r h (s1.tail n r))
        s1'.fput (f_tgRegionPtr_head n r) (s1'.headWalk n r (s.slotCount n r) ((h + 1) % s.slotCount n r))
    s2.regionFull n r

/-- The check a region read makes (R150): a fault where the slot is not valid at the start of the cycle. -/
def State.checkRead (s : State) (who : Who) (r slot cyc : Nat) : State :=
  if s.validAsOf who.core r slot cyc then s else s.tgFault who 0x01 r slot false cyc

/-- A region that would pass the end of the scratchpad is a decode fault (R149). -/
def regionFits (baseLine slotLines slotCount : Nat) : Bool := 64 * (baseLine + slotLines * slotCount) ≤ 0xA00000

end Sys2Proof.Machine
end

