-- ==== Sys2Proof/Machine/Operands.lean ====
section
/-! DEFINITION. The operand forms of an instruction word: fields (R112), base registers (R117), region and address
operands (R114), sync operands (R137, R138), and address-stream generators (R147, R148). -/

namespace Sys2Proof.Machine

/-- Bits of an instruction word. -/
def fld (w : IWord) (hi lo : Nat) : Nat := bits w.toNat hi lo

/-- The value of a base register for an instruction that issues on cycle `cyc` (R117). -/
def breg (c : CoreRt) (cyc r : Nat) : Nat :=
  (if c.bCycle = cyc then mapGet (fun _ => (0 : Word)) c.bOld r else mapGet (fun _ => (0 : Word)) c.bregs r).toNat

/-- Write a base register on cycle `cyc`, visible to later cycles (R117). -/
def setBreg (c : CoreRt) (cyc r : Nat) (v : Word) : CoreRt :=
  let c' := if c.bCycle = cyc then c else { c with bOld := c.bregs, bCycle := cyc }
  { c' with bregs := mapSet (fun _ => 0) c'.bregs r v }

/-- Add a repeat stride, visible at once (R124). -/
def addStride (c : CoreRt) (r : Nat) (d : Int) : CoreRt :=
  let v : Word := mapGet (fun _ => (0 : Word)) c.bregs r + BitVec.ofInt 32 d
  { c with bregs := mapSet (fun _ => 0) c.bregs r v, bOld := mapSet (fun _ => 0) c.bOld r v }

/-- An operand (R114). -/
inductive Operand where
  | region (n order : Nat) (consume : Bool)
  | addr (off : Nat)
  deriving DecidableEq, Repr

/-- Decode a 16-bit operand for an instruction that issues on `cyc`. -/
def operand (c : CoreRt) (cyc f : Nat) : Operand :=
  if bit f 15 then .addr (breg c cyc (f % 16) + 64 * bits f 14 4)
  else .region (f % 64) (bits f 10 6) (bit f 11)

/-- The size of a core's scratchpad and of the horizon buffer in bytes. -/
def spBytes : Nat := 0xA00000
def hbBytes : Nat := 0x1000000

/-- An address operand in a memory of `size` bytes whose access takes `len` bytes (R114). -/
def addrOk (size off len : Nat) : Bool := off % 64 == 0 && off + len ≤ size

/-- A read region operand: the order names a generator that exists (R114). -/
def readRegionOk : Operand → Bool
  | .region _ o _ => o ≤ 16
  | .addr _ => true

/-- A write region operand names no generator and sets no consume (R114). -/
def writeRegionOk : Operand → Bool
  | .region _ o c => o == 0 && !c
  | .addr _ => true

/-- The address of an operand that must be an address operand in the scratchpad. -/
def addrOnly (o : Operand) (len : Nat) : Option Nat :=
  match o with
  | .addr off => if addrOk spBytes off len then some off else none
  | .region _ _ _ => none

/-! Sync operands. -/

/-- The object that a local sync index of a core names (R138, R139); none is a decode fault, code 0x0A. -/
def State.syncIndex (s : State) (n idx : Nat) : Option Nat :=
  let base := s.fget (f_ncSyncWindow_base n)
  let size := s.fget (f_ncSyncWindow_size n)
  let size := if 32768 < base + size then 32768 - base else size
  if 0x7F30 ≤ idx then none
  else if 0x7F00 ≤ idx then some idx
  else if idx < size ∧ base + idx < 0x7F30 then some (base + idx) else none

/-- A sync operand of an instruction that sets a growth bit (R15, R137). -/
def syncGrowth (w : IWord) : Bool := fld w 45 44 != 0

/-! Generators (R147, R148). -/

def getGen (c : CoreRt) (g : Nat) : GenState := mapGet (fun _ => GenState.reset) c.gens g

def setGen (c : CoreRt) (g : Nat) (x : GenState) : CoreRt :=
  { c with gens := mapSet (fun _ => GenState.reset) c.gens g x }

/-- The number of indices in a generator's sequence. -/
def genLength (g : GenState) : Nat := g.levels.foldl (fun a l => a * l.1) 1

/-- The affine index at position `k`: the innermost level varies fastest. -/
def genAffine : List (Nat × Int) → Nat → Int
  | [], _ => 0
  | (c, st) :: t, k => ((k % c : Nat) : Int) * st + genAffine t (k / c)

/-- The place in the list that position `k` names. -/
def genListIndex (g : GenState) (k : Nat) : Nat :=
  ((g.start + genAffine g.levels k) % (g.listLen : Int)).toNat

/-- Parse a descriptor of 64 B (R147); none where the mode is undefined or an index list passes the end of the
scratchpad (code 0x0B). -/
def parseGen (d : List Byte) : Option GenState :=
  let h := fieldAt d 0 2
  let mode := h % 4
  let lv := bits h 3 2 + 1
  let levels := (List.range lv).map fun l =>
    (fieldAt d (4 + 4 * l) 2 + 1, sext 16 (fieldAt d (6 + 4 * l) 2))
  let line := fieldAt d 20 4 % 2 ^ 18
  let len := fieldAt d 24 2 + 1
  if 2 ≤ mode ∨ (mode = 1 ∧ spBytes < 64 * line + 2 * len) then none
  else some { indirect := mode == 1, start := sext 16 (fieldAt d 2 2), levels := levels, listLine := line,
              listLen := len, bound := false, pos := 0, freed := 0, lines := [], handover := 0 }

/-- The line of the list that position `k` reads its entry from. -/
def genLine (g : GenState) (k : Nat) : Nat := g.listLine + genListIndex g k / 32

/-- A generator reads a list line on cycle `cyc` and keeps it (R148). -/
def State.genReadLine (s : State) (who : Who) (g : GenState) (line cyc : Nat) : GenState × State :=
  let p := s.sRead who cyc line rankDesc
  ({ g with lines := g.lines ++ [(line, cyc, p.1)] }, p.2)

/-- The list-line reads that a generator makes when it is loaded, frees itself or restarts: the lines of its first two
entries, on the two cycles after `cyc` (R148). -/
def State.genFirstLines (s : State) (who : Who) (g : GenState) (cyc : Nat) : GenState × State :=
  let g := { g with lines := [] }
  if !g.indirect then (g, s)
  else
    let p := s.genReadLine who g (genLine g 0) (cyc + 1)
    p.2.genReadLine who p.1 (genLine g 1) (cyc + 2)

/-- The list entry of position `k` for an access on cycle `cyc`: from its line as read, or, where the line has not been
read yet, from the line as it stands on that cycle (R148). -/
def State.genEntry (s : State) (n : Nat) (g : GenState) (k cyc : Nat) : Nat :=
  let line := genLine g k
  let i := 2 * (genListIndex g k % 32)
  match g.lines.find? fun p => p.1 == line && decide (p.2.1 < cyc) with
  | some p => fieldAt p.2.2 i 2
  | none => match lineAsOf (s.core n).hist (spAddr n (64 * line)) cyc with
    | some old => fieldAt old.1 i 2
    | none => s.num (spAddr n (64 * line) + i) 2

/-- Draw the next index of generator `g` for an access on cycle `cyc` (R148): the value as the access names slots, the raw
list entry; an asp-exhausted fault and a restart where the instruction needs an index past the end of the sequence. -/
def State.genNext (s : State) (who : Who) (g region cyc : Nat) : Int × Nat × State :=
  let n := who.core
  let x := getGen (s.core n) g
  -- a generator that reached its last index within this instruction restarts with a fault (x.pos stands at its end)
  let ended := x.bound && x.pos == genLength x
  let s1 := if ended then s.tgFault who 0x07 region 0 false cyc else s
  let p1 := if ended then s1.genFirstLines who { x with pos := 0, freed := cyc } cyc else (x, s1)
  let k := p1.1.pos
  -- every list line but those of the first two entries is read two cycles before its first use
  let first := p1.1.indirect && decide (2 ≤ k) && !(p1.1.lines.any fun q => q.1 == genLine p1.1 k)
  let p2 := if first then p1.2.genReadLine who p1.1 (genLine p1.1 k) (cyc - 2) else p1
  let raw := if p2.1.indirect then p2.2.genEntry n p2.1 k cyc else 0
  let v : Int := if p2.1.indirect then (raw % 4096 : Nat) else p2.1.start + genAffine p2.1.levels k
  (v, raw, p2.2.setCore n (setGen (p2.2.core n) g { p2.1 with bound := true, pos := k + 1 }))

/-- At an instruction's end, a generator whose last index has been used frees itself (R148). A descriptor that waits for it
is handed over on that cycle (R153). -/
def State.genFree (s : State) (who : Who) (o : Operand) (cyc : Nat) : State :=
  match o with
  | .region _ ord _ =>
    if ord = 0 then s else
      let n := who.core
      let c := s.core n
      let x := getGen c (ord - 1)
      if x.bound && x.pos == genLength x then
        let x' : GenState := match mapGet (fun _ => none) c.genLoads (ord - 1) with
          | some y => { y with freed := cyc, handover := cyc }
          | none => { x with bound := false, pos := 0, freed := cyc }
        let s1 := s.setCore n { c with genLoads := mapSet (fun _ => none) c.genLoads (ord - 1) none }
        let p := s1.genFirstLines who x' cyc
        p.2.setCore n (setGen (p.2.core n) (ord - 1) p.1)
      else s
  | .addr _ => s

end Sys2Proof.Machine
end

