-- ==== Sys2Proof/Machine/Issue.lean ====
section
/-! DEFINITION. Issue of a core instruction: the cycle it issues on (R115, R116), the fetch that its position brings
(R118), decode-class faults (R120, R121), repeat blocks (R124, R125), and the engines that hold one instruction
(R153). -/

namespace Sys2Proof.Machine

/-- The position of the next instruction: in the main stream, or in the routine entered (R118, R126). -/
def State.pos (s : State) (n : Nat) : Nat :=
  match (s.core n).calls with
  | [] => s.fget (f_ncStreamPos_position n)
  | _ => (s.core n).rpos

/-- The routine the core runs in, if any. -/
def State.routine (s : State) (n : Nat) : Option Nat := ((s.core n).calls.head?).map (·.routine)

/-- Who issues the next instruction to an engine. -/
def State.who (s : State) (n eng : Nat) : Who :=
  { core := n, engine := eng, array := if eng = 2 then 1 else 0, pos := s.pos n, routine := s.routine n,
    depth := (s.core n).calls.length }

/-- A decode-class fault of an instruction (R120, R121, R163, R164): the core halts fault-halted and reports to the MP and
to RAS; the firmware ends the job at once (R597). -/
def State.faultAt (s : State) (who : Who) (code : Nat) (c : JobCond) : State :=
  let n := who.core
  let s := s.fput (f_ncDecodeFault_code n) code
  let s := s.fput (f_ncDecodeFault_engine n) who.engine
  let s := s.fput (f_ncDecodeFault_in_routine n) (b2n who.routine.isSome)
  let s := s.fput (f_ncDecodeFault_routine n) (who.routine.getD 0)
  let s := s.fput (f_ncDecodePos_position n) who.pos
  let s := s.fput (f_ncStatus_state n) 4
  let s := s.setCore n { s.core n with half := none, waiting := none }
  ((s.emit (.toMp mpDecodeFault [n, code])).sediment' 0x10 n 0x0008 code).cond c true

/-- A decode-class fault of the instruction at the core's position. -/
def State.decodeFault (s : State) (n eng code : Nat) : State := s.faultAt (s.who n eng) code .instructionFault

/-- The opcodes each engine defines (R122, R132, R140, R145, R272, R279, R286). -/
def engineDefines (eng op : Nat) : Bool :=
  match eng with
  | 0 => op ≤ 8
  | 1 => op ≤ 2
  | 2 => op ≤ 2
  | 3 => [1, 2, 3, 4, 5, 6, 7, 8, 9, 0x10, 0x11, 0x12, 0x13, 0x18, 0x19, 0x1A, 0x1B, 0x1C, 0x20, 0x21, 0x22, 0x23,
      0x24].contains op
  | 4 => op == 0
  | 5 => op ≤ 2
  | 6 => op == 1
  | 7 => 1 ≤ op && op ≤ 5
  | _ => false

/-- Sixteen bytes of a routine store as the fetch pipeline reads them under SECDED (R596, R652): a corrected word adds no
cycle, an uncorrectable one yields none; either reports its routine store. -/
def State.routineRead (s : State) (n off : Nat) : Option (List Byte) × State :=
  let a := rsAddr n off
  let r := s.readLine (a / 64 * 64)
  let w := a % 64 / 8
  let mine := fun (p : Nat × Nat) => p.1 == w || p.1 == w + 1
  if r.bad.any mine then (none, s.report 3 n 0x0002 0)
  else
    let k := (r.corrected.filter mine).length
    (some ((r.data.drop (a % 64)).take 16), if k = 0 then s else s.report 3 n 0x0001 k)

/-- The fetch of an instruction or a table entry met an uncorrectable word: the core halts as under R120, and its job ends
at once (R596). No code of R121 is this one: the code field takes a free value (log entry 62). -/
def State.routineFault (s : State) (who : Who) : State :=
  let n := who.core
  let d := s.draw
  let s := d.2.fput (f_ncDecodeFault_code n) d.1
  let s := s.fput (f_ncDecodeFault_engine n) who.engine
  let s := s.fput (f_ncDecodeFault_in_routine n) (b2n who.routine.isSome)
  let s := s.fput (f_ncDecodeFault_routine n) (who.routine.getD 0)
  let s := s.fput (f_ncDecodePos_position n) who.pos
  let s := s.fput (f_ncStatus_state n) 4
  let s := s.setCore n { s.core n with half := none, waiting := none }
  (s.emit (.toMp mpDecodeFault [n, d.1])).cond .uncorrectable true

/-- Fetch line `k` of the main stream on cycle `cyc`: a static read that releases its slot; an invalid slot is a
read-before-write fault with engine 0, and the line is marked (R118). -/
def State.fetchLine (s : State) (n k cyc : Nat) : State :=
  let who : Who := { core := n, engine := 0, array := 0, pos := 4 * k, routine := none, depth := 0 }
  let slot := k % s.slotCount n 63
  let ok := s.validAsOf n 63 slot cyc
  let s1 := s.checkRead who 63 slot cyc
  let s2 := (s1.sRead who cyc (s1.slotLine n 63 slot) rankFetch).2
  let s3 := s2.releaseSlot n 63 slot cyc
  let c := s3.core n
  s3.setCore n { c with fetched := k + 1, badLines := if ok then c.badLines else k :: c.badLines }

/-- Forget accesses and old contents that no later instruction can meet. -/
def pruneCore (c : CoreRt) (cyc : Nat) : CoreRt :=
  { c with hist := c.hist.filter (fun p => cyc ≤ p.1), accs := c.accs.filter (fun a => cyc ≤ a.cycle),
           landings := c.landings.filter (fun p => cyc ≤ p.1) }

/-- Whether a word is the second half of the paired pass whose first half stands on array `a` (R134). -/
def isPartner (w : IWord) (a : Nat) : Bool :=
  fld w 11 8 == 2 - a && fld w 7 0 == 0 && fld w 26 26 == 1 && fld w 23 12 == 0 && fld w 50 48 == a

/-- What the issue of an instruction comes to: nothing can issue (log entry 6), a decode-class fault, or the issue cycle,
who issues, the state before the issue and the state with the issue taken. -/
inductive Issue where
  | none
  | fault (s : State)
  | go (cyc : Nat) (who : Who) (s : State)

/-- The fetch of the routine instruction at the core's position (R129, R596); nothing is read in the main stream. -/
def State.routineFetch (s : State) (n : Nat) : Bool × State :=
  match (s.core n).calls with
  | [] => (true, s)
  | f :: _ =>
    let r := s.routineRead n (f.body + 16 * (s.core n).rpos)
    (r.1.isSome, r.2)

/-- Issue the instruction word `w` on core `n`, as the row of engine `eng` and opcode `op` (R113, R115, R116, R118). A
frozen core issues nothing (R32). -/
def State.issue (s : State) (n : Nat) (w : IWord) (eng op : Nat) : Issue :=
  let c := s.core n
  let e := fld w 11 8
  if s.coreState n ≠ 1 ∨ s.coreStopped n ∨ c.paused ∨ c.stepEndAt.isSome then .none
  else if (c.half.any fun h => !isPartner w h.1) then
    -- the first half stands without its partner on its cycle (R134): its fault, at its position
    match c.half with
    | some (a, p) => .fault (s.faultAt { s.who n (1 + a) with pos := p.pos } 0x06 .instructionFault)
    | none => .none
  else
    let line := s.pos n / 4
    let rf := s.routineFetch n
    if !rf.1 then .fault (rf.2.routineFault (s.who n e))
    else if c.calls.isEmpty && c.badLines.contains line then .fault (s.decodeFault n 0 0x0C)
    else if 8 ≤ e then .fault (s.decodeFault n e 0x01)
    else if !engineDefines e (fld w 7 0) then .fault (s.decodeFault n e 0x02)
    else if e ≠ eng ∨ fld w 7 0 ≠ op then .none
    else
      let t := c.ref + fld w 23 12
      let same := t == c.lastIssue
      let pair := c.half.isSome
      -- a paired pass counts as one issue: its second half stands in the list as engine + 16
      let clash := same && ((!pair && 4 ≤ (c.engines.filter (· < 16)).length) || c.engines.contains eng ||
        c.engines.contains (eng + 16))
      let cyc := if clash then t + 1 else t
      let who := s.who n eng
      match (if clash then c.half else none) with
      -- the partner cannot issue on the first half's cycle: the half has no partner there (R116, R134)
      | some (a, p) => .fault (s.faultAt { who with engine := 1 + a, array := a, pos := p.pos } 0x06 .instructionFault)
      | none =>
      let s1 := if clash then rf.2.tgFault who 0x05 0 0 false cyc else rf.2
      let c1 := s1.core n
      let c2 := { pruneCore c1 cyc with
        ref := cyc, lastIssue := cyc, engines := if same && !clash then (if pair then eng + 16 else eng) :: c1.engines else [eng],
        stepOpen := false }
      let s2 := s1.setCore n c2
      let k := line + 4
      let s3 := if c.calls.isEmpty && s.pos n % 4 == 0 && c.fetched ≤ k then s2.fetchLine n k cyc else s2
      .go cyc who s3

/-- Close every repeat body that ends at position `p` (R124): strides, then the next iteration or the instruction after;
`fuel` bounds the nesting. -/
def closeBodies (c : CoreRt) : Nat → Nat → CoreRt × Nat
  | 0, p => (c, p)
  | f + 1, p =>
    match c.reps with
    | [] => (c, p)
    | r :: t =>
      if p ≠ r.start + r.len then (c, p)
      else
        let c1 := if r.enA then addStride c r.regA r.strideA else c
        let c2 := if r.enB then addStride c1 r.regB r.strideB else c1
        if r.left ≤ 1 then closeBodies { c2 with reps := t } f p
        else ({ c2 with reps := { r with left := r.left - 1, iter := r.iter + 1 } :: t }, r.start)

/-- Repeat levels active over all call levels (R157). -/
def repeatDepth (c : CoreRt) : Nat := c.reps.length + c.calls.foldl (fun a f => a + f.reps.length) 0

/-- Move the core to position `p` of its stream, closing the repeat bodies that end there. -/
def State.moveTo (s : State) (n p : Nat) : State :=
  let r := closeBodies (s.core n) 8 p
  let s1 := match r.1.calls with
    | [] => (s.setCore n r.1).fput (f_ncStreamPos_position n) r.2
    | _ => s.setCore n { r.1 with rpos := r.2 }
  (s1.fput (f_ncStatus_call_depth n) r.1.calls.length).fput (f_ncStatus_repeat_depth n) (repeatDepth r.1)

/-- The core goes on to the instruction after the one at its position. -/
def State.advance (s : State) (n : Nat) : State := s.moveTo n (s.pos n + 1)

/-- Pause issue for `h` cycles: later deltas count from the later cycle, and open routines do not count it (R53, R127). -/
def State.pause (s : State) (n h : Nat) : State :=
  let c := s.core n
  s.setCore n { c with ref := c.ref + h, calls := c.calls.map fun f => { f with stall := f.stall + h } }

/-- An engine of a core that takes one instruction at a time, and the cycle on which an instruction of it issues that would
issue on `cyc`: no earlier than the handover of one it holds (R153). -/
def CoreRt.engine (c : CoreRt) (eng : Nat) : EngRt := if eng = 3 then c.ve else if eng = 6 then c.su else c.gr
def State.issuedAt (s : State) (who : Who) (cyc : Nat) : Nat := max cyc ((s.core who.core).engine who.engine).handover

/-- Start an instruction on an engine that takes one at a time (R153): the cycle it starts from, and the engine after it,
`cost` cycles busy, its last write on `start + last`. -/
def State.engineStart (s : State) (who : Who) (cyc cost last : Nat) : Nat × State :=
  let n := who.core
  let c := s.core n
  let e := c.engine who.engine
  let i := s.issuedAt who cyc
  let s1 := if cyc < i then s.pause n (i - cyc) else s
  let busy := decide (i < e.free)
  let s2 := if busy then s1.tgFault who 0x04 0 0 false i else s1
  let start := if busy then e.free else i
  let e' : EngRt := ⟨start + max 1 cost, if busy then e.free else e.handover, max e.idleAt (start + last + 1)⟩
  let c2 := s2.core n
  let c3 := if who.engine = 3 then { c2 with ve := e' } else if who.engine = 6 then { c2 with su := e' } else { c2 with gr := e' }
  (start, s2.setCore n c3)

/-- Note that an issued instruction names a region until a cycle (R153). -/
def State.useRegion (s : State) (n : Nat) (o : Operand) (until_ : Nat) : State :=
  match o with
  | .region r _ _ => let c := s.core n; s.setCore n { c with regionUse := (r, until_) :: c.regionUse }
  | .addr _ => s

/-- A completion signal of an instruction that lands on cycle `cyc` of its core (R47, R141). A failed core's signal to
an object outside the core is dropped (R600). -/
def State.complete (s : State) (n cyc : Nat) : Option (Nat × Word) → State
  | none => s
  | some (o, inc) =>
    if s.coreFailed n then s.dropWrites 1
    else
      let c := s.core n
      (s.setCore n { c with landings := (cyc, o, inc) :: c.landings }).signalObj o inc

/-- What core `n` sees of an object on cycle `cyc`: the counter less its own signals that land on that cycle or later. -/
def State.objSeen (s : State) (n o cyc : Nat) : Word :=
  (s.core n).landings.foldl (fun v p => if p.2.1 = o ∧ cyc ≤ p.1 then v - p.2.2 else v) (s.obj o)

/-- The signals of an object that its cores have issued and that land on their present cycles or later (R141). -/
def State.pendingSignals (s : State) (o : Nat) : Word :=
  (List.range 8).foldl (fun v n =>
    let c := s.core n
    c.landings.foldl (fun v p => if p.2.1 = o ∧ c.ref ≤ p.1 then v + p.2.2 else v) v) 0

/-- A SET or a write replaces an object's counter, every signal already added being gone from it; the signals that land on
that cycle or later are added to the new value (R141, R143). -/
def State.replaceObject (s : State) (o : Nat) (v : Word) : State := s.setObject o (v + s.pendingSignals o)

/-- The cycle from which every engine of a core but the mover is idle (R25). -/
def State.idleCycle (s : State) (n : Nat) : Nat :=
  let c := s.core n
  max (max c.ve.idleAt c.su.idleAt) (max c.gr.idleAt (max (s.array n 0).idleAt (s.array n 1).idleAt))

end Sys2Proof.Machine
end

