-- ==== Sys2Proof/Machine/Grit.lean ====
section
/-! DEFINITION. The grit function (R283 to R285): AES-128 of FIPS 197 in counter form. -/

namespace Sys2Proof.Machine

/-- Multiplication by x in the field of AES. -/
def aesXtime (a : Nat) : Nat := if a < 128 then 2 * a else (2 * a) ^^^ 0x11B

/-- Multiplication in the field of AES. -/
def aesMul (a b : Nat) : Nat :=
  ((List.range 8).foldl (fun (p : Nat × Nat) i => ((if bit b i then p.1 ^^^ p.2 else p.1), aesXtime p.2)) (0, a)).1

/-- The inverse in the field of AES: the 254th power. -/
def aesInv (a : Nat) : Nat :=
  let a2 := aesMul a a
  let a3 := aesMul a2 a
  let a6 := aesMul a3 a3
  let a12 := aesMul a6 a6
  let a15 := aesMul a12 a3
  let a30 := aesMul a15 a15
  let a60 := aesMul a30 a30
  let a120 := aesMul a60 a60
  let a126 := aesMul a120 a6
  let a127 := aesMul a126 a
  aesMul a127 a127

/-- The substitution of one byte (FIPS 197). -/
def aesSub (a : Nat) : Nat :=
  let b := aesInv a
  let rot := fun k => (b * 2 ^ k % 256) + b / 2 ^ (8 - k)
  b ^^^ rot 1 ^^^ rot 2 ^^^ rot 3 ^^^ rot 4 ^^^ 0x63

/-- The substitution as a table. -/
def aesSbox : List Nat := (List.range 256).map aesSub

def sboxOf (t : List Nat) (a : Nat) : Nat := t.getD a 0

/-- The round keys: words of four bytes, `nk` of them from the key, up to `4 * rounds` more. -/
def aesExpand (t : List Nat) (nk : Nat) : Nat → Nat → Nat → List (List Nat) → List (List Nat)
  | 0, _, _, ws => ws
  | f + 1, i, rc, ws =>
    let prev := ws.getD (i - 1) []
    let back := ws.getD (i - nk) []
    let tmp :=
      if i % nk = 0 then
        match (prev.drop 1 ++ prev.take 1).map (sboxOf t) with
        | a :: r => (a ^^^ rc) :: r
        | [] => []
      else if 6 < nk ∧ i % nk = 4 then prev.map (sboxOf t) else prev
    aesExpand t nk f (i + 1) (if i % nk = 0 then aesXtime rc else rc) (ws ++ [List.zipWith (· ^^^ ·) back tmp])

/-- Shift the rows of a state held column by column. -/
def aesShift (b : List Nat) : List Nat := (List.range 16).map fun i => b.getD ((i + 4 * (i % 4)) % 16) 0

/-- Mix one column. -/
def aesMixColumn (c : List Nat) : List Nat :=
  (List.range 4).map fun i =>
    let x := fun k => c.getD ((i + k) % 4) 0
    aesXtime (x 0) ^^^ (aesXtime (x 1) ^^^ x 1) ^^^ x 2 ^^^ x 3

def aesMix (b : List Nat) : List Nat := ((chunks 4 b).map aesMixColumn).flatten

/-- The rounds after the first key addition. -/
def aesRounds (t : List Nat) : Nat → List (List Nat) → List Nat → List Nat
  | 0, _, b => b
  | f + 1, ks, b =>
    match ks with
    | [] => b
    | k :: rest =>
      let sb := aesShift (b.map (sboxOf t))
      let mx := if rest.isEmpty then sb else aesMix sb
      aesRounds t f rest (List.zipWith (· ^^^ ·) mx k)

/-- AES (FIPS 197) of one 16 B block under a key of 16 or 32 bytes. -/
def aesEncrypt (key block : List Nat) : List Nat :=
  let t := aesSbox
  let nk := key.length / 4
  let rounds := nk + 6
  let ws := aesExpand t nk (4 * (rounds + 1) - nk) nk 1 (chunks 4 key)
  let ks := (chunks 4 ws).map List.flatten
  match ks with
  | [] => block
  | k :: rest => aesRounds t rounds rest (List.zipWith (· ^^^ ·) block k)

/-- The counter block of R283. -/
def gritBlock (d st n e : Nat) : List Nat :=
  (leBytes 4 (e / 8)).map (·.toNat) ++ (leBytes 4 n).map (·.toNat) ++ [st % 256, d % 256] ++ List.replicate 6 0

/-- The bytes of a grit key: byte 4m + i is byte i of GR_SEED_m (R283). -/
def gritKeyBytes (k : BitVec 128) : List Nat := (leBytes 16 k.toNat).map (·.toNat)

/-- The grit function G(K, d, s, n, e) of R283. -/
def gritWord (k : BitVec 128) (d st n e : Nat) : Nat :=
  let o := aesEncrypt (gritKeyBytes k) (gritBlock d st n (e % 2 ^ 32))
  let j := e % 8
  o.getD (2 * j) 0 + 256 * o.getD (2 * j + 1) 0

end Sys2Proof.Machine
end

