-- ==== Sys2Proof/Machine/ArrayData.lean ====
section
/-! DEFINITION. The arithmetic of the matrix arrays and their drains, bit for bit: profiles (R135), operand pairs (R82),
products (R83 to R86), invalid operands (R87), rescale stages (R88 to R91), drain arithmetic (R93 to R103) and residue
checking (R105, R106). -/

namespace Sys2Proof.Machine

/-- A drain-control profile (R92, R135). -/
structure Profile where
  actFmt : Nat
  wtFmt : Nat
  outFmt : Nat
  group : Nat
  ocp : Bool
  dyn : Bool
  scaleRegion : Bool
  biasEn : Bool
  zpEn : Bool
  stoch : Bool
  tableEn : Bool
  table : Nat
  actScale : Nat
  actScaleRegion : Nat
  soB : Nat
  outScaleRegion : Nat
  zo : Nat
  kb : Int
  za : Nat
  grit : Nat
  sampleReg : Nat
  deriving DecidableEq, Repr

/-- Read a profile from its 32 B record (R135). -/
def parseProfile (b : BitVec 256) : Profile :=
  let by_ := fun i => bits b.toNat (8 * i + 7) (8 * i)
  { actFmt := by_ 0 % 16, wtFmt := by_ 0 / 16, outFmt := by_ 1 % 16, group := 32 * 2 ^ bits (by_ 1) 5 4,
    ocp := bit (by_ 1) 6, dyn := bit (by_ 1) 7, scaleRegion := bit (by_ 2) 0, biasEn := bit (by_ 2) 1,
    zpEn := bit (by_ 2) 2, stoch := bit (by_ 2) 3, tableEn := bit (by_ 2) 4, table := bits (by_ 2) 6 5,
    actScale := by_ 3, actScaleRegion := by_ 4 % 64, soB := by_ 5, outScaleRegion := by_ 6 % 64, zo := by_ 7,
    kb := sext 8 (by_ 8), za := by_ 9, grit := by_ 10, sampleReg := by_ 11 % 16 }

/-- The arithmetic class of an operand format (R45): 8, 4 or 16; 0 for none. -/
def fmtClass (fmt : Nat) : Nat :=
  match fmt with
  | 2 => 8 | 3 => 8 | 6 => 8 | 7 => 8 | 1 => 4 | 5 => 4 | 8 => 16 | 9 => 16 | _ => 0

/-- Integer operand formats of the arrays. -/
def fmtIsInt (fmt : Nat) : Bool := fmt == 1 || fmt == 2 || fmt == 3

/-- The pairs of R82. -/
def pairOk (a w : Nat) : Bool :=
  ((a == 2 || a == 3) && (w == 2 || w == 3)) || ((a == 6 || a == 7) && (w == 6 || w == 7)) ||
  (a == 1 && w == 1) || (a == 5 && w == 5) || ((a == 8 || a == 9) && (w == 8 || w == 9))

/-- The selections of R92 that are decode faults, code 0x04. -/
def profileFault (p : Profile) (trans : Bool) : Bool :=
  let raw := p.outFmt == 0xA || p.outFmt == 0xB
  !pairOk p.actFmt p.wtFmt || !([1, 2, 3, 5, 6, 7, 8, 9, 0xA, 0xB].contains p.outFmt) ||
  (p.ocp && p.actFmt != 2 && p.wtFmt != 2 && p.outFmt != 2) ||
  (p.outFmt == 0xB && !fmtIsInt p.actFmt) ||
  (p.dyn && !([1, 2, 5, 6, 7].contains p.outFmt)) ||
  (p.zpEn && !((p.actFmt == 3 || p.wtFmt == 3) && !trans && p.group == 256)) ||
  (p.tableEn && raw)

/-- The shape of a pass: activation bytes and outputs a vector, slots a vector, lanes (R45). -/
def actBytes (cls : Nat) (trans : Bool) : Nat := if cls = 4 then (if trans then 256 else 128) else if cls = 16 then 512 else 256
def outCount (cls : Nat) (trans : Bool) : Nat := if cls = 4 ∧ !trans then 512 else 256
def slotsPer (cls : Nat) : Nat := if cls = 16 then 4 else 1
def lanesOf (cls : Nat) : Nat := if cls = 4 then 2 else 1
def rowBytes (cls : Nat) : Nat := if cls = 16 then 512 else 256

/-- Bytes of an output vector in a format. -/
def outBytes (cls : Nat) (trans : Bool) (fmt : Nat) : Nat := outCount cls trans * fmtWidth fmt / 8

/-- The codes in a byte string for elements of a width (R78). -/
def codesOf (width : Nat) (d : List Byte) : List Nat :=
  if width = 4 then (d.map fun b => [b.toNat % 16, b.toNat / 16]).flatten
  else (chunks (width / 8) d).map leNat

/-- Pack codes into bytes (R78). -/
def packCodes (width : Nat) (cs : List Nat) : List Byte :=
  if width = 4 then (chunks 2 cs).map fun p => BitVec.ofNat 8 (p.headD 0 % 16 + 16 * (p.getD 1 0 % 16))
  else (cs.map fun c => leBytes (width / 8) c).flatten

/-! Products. -/

/-- The alignment L of a floating-point pair (R84). -/
def pairL (a w : Nat) : Int :=
  if a = 5 then -2 else if a = 6 ∧ w = 6 then -6 else if a = 7 ∧ w = 7 then 8 else if fmtIsInt a then 0 else 1

/-- The integer value of a code as the PE multiplies it (R83). -/
def intCode (fmt code : Nat) : Int := if fmt = 3 then (code % 256 : Nat) else sext (fmtWidth fmt) code

/-- The exact product aligned into the lane, its magnitude truncated below 2^L (R84); an invalid code enters as zero. -/
def fpProduct (fa fw a w : Nat) : Int :=
  match decodeFmt fa a, decodeFmt fw w with
  | .fin am ae, .fin wm we =>
    let m := floorAt (am.natAbs * wm.natAbs : Nat) (ae + we) (pairL fa fw)
    if decide (am < 0) != decide (wm < 0) then -m else m
  | _, _ => 0

/-- The exponent field of a 16-bit code, zero taken as one, and whether the code is NaN or infinite (R85, R87). -/
def expField (fmt code : Nat) : Nat := max 1 (if fmt = 8 then bits code 14 10 else bits code 14 7)
def fp16Invalid (fmt code : Nat) : Bool := if fmt = 8 then bits code 14 10 == 31 else bits code 14 7 == 255

/-- The array form of an FP16 or BF16 code against a reference (R85): sign, offset d and significand S. -/
def arrayForm (fmt eref code : Nat) : Nat × Nat × Nat :=
  if fp16Invalid fmt code then (0, 0, 0) else
    let raw := if fmt = 8 then bits code 14 10 else bits code 14 7
    let m := if fmt = 8 then code % 1024 else code % 128
    let s := if fmt = 8 then (if raw = 0 then m else 1024 + m) else (if raw = 0 then 8 * m else (128 + m) * 8)
    let d := eref - max 1 raw
    let s' := if 15 < d then s / 2 ^ (d - 15) else s
    if s' = 0 then (0, min d 15, 0) else (code / 2 ^ 15 % 2, min d 15, s')

/-- A weight word already in array form (R85); 0x8000 marks an invalid weight. -/
def weightForm (w : Nat) : Nat × Nat × Nat := if w = 0x8000 then (0, 0, 0) else (w / 2 ^ 15 % 2, bits w 14 11, w % 2 ^ 11)

/-- Piece `k` of a 16-bit product, truncated in magnitude, with the product's sign (R86). -/
def pieceOf (a w : Nat × Nat × Nat) (k : Nat) : Int :=
  let sa := if k < 2 then a.2.2 % 32 else a.2.2 / 32
  let sw := if k % 2 = 0 then w.2.2 % 32 else w.2.2 / 32
  let o : Int := if k = 0 then 0 else if k = 3 then 10 else 5
  let m := floorAt (sa * sw : Nat) (o + 4 - a.2.1 - w.2.1) 0
  if a.1 != w.1 then -m else m

/-- The four pieces of a 16-bit product summed exactly (R86). -/
def pieceSum (a w : Nat × Nat × Nat) : Int := pieceOf a w 0 + pieceOf a w 1 + pieceOf a w 2 + pieceOf a w 3

/-- An activation as the PEs take it: its code, or its array form in the 16-bit class. -/
inductive ActElem where
  | code (c : Nat)
  | form (f : Nat × Nat × Nat)
  deriving DecidableEq, Repr

/-- The product of an activation and a weight code or word (R83 to R86). -/
def product (fa fw : Nat) (a : ActElem) (w : Nat) : Int :=
  match a with
  | .code c => if c = 0 ∨ w = 0 then 0 else if fmtIsInt fa then intCode fa c * intCode fw w else fpProduct fa fw c w
  | .form f => pieceSum f (weightForm w)

/-! Weight sets. -/

/-- The weight codes of one row, lane 0 first: a byte each, two nibbles a byte, or 16-bit words (R50). -/
def rowCodes (cls : Nat) (row : List Byte) : List Nat :=
  if cls = 4 then row.map (fun b => b.toNat % 16) ++ row.map (fun b => b.toNat / 16)
  else if cls = 16 then codesOf 16 row else row.map (·.toNat)

/-- Whether a weight code is one the array cannot represent (R87). -/
def weightInvalid (fmt code : Nat) : Bool :=
  if fmt = 8 ∨ fmt = 9 then code == 0x8000
  else if fmtIsInt fmt then false else match decodeFmt fmt code with | .fin _ _ => false | _ => true

/-- The bank that a front writes from a weight set's bytes (R50, R51, R87). -/
def makeBank (fmt : Nat) (d : List Byte) : Bank :=
  let cls := fmtClass fmt
  let rb := rowBytes cls
  let lanes := lanesOf cls
  let rows := chunks rb (d.take (256 * rb))
  let rowC := chunks 16 ((d.drop (256 * rb)).take 4096)
  let stageC := chunks 512 ((d.drop (256 * rb + 4096)).take 4096)
  let drainC := (d.drop (256 * rb + 8192)).take 4096
  let bad := rows.map fun r => (rowCodes cls r).map (weightInvalid fmt)
  let colW := bad.foldl (fun a r => List.zipWith (· || ·) a r) (List.replicate (256 * lanes) false)
  let colS := stageC.foldl (fun a e => List.zipWith (fun x b => x || b == 0xFF) a (e.take (256 * lanes)))
    (List.replicate (256 * lanes) false)
  let rowBad := (List.range lanes).map fun l => List.zipWith (fun r e =>
      ((r.drop (256 * l)).take 256).any id ||
      (List.range 8).any fun g => e.getD (2 * g + l) (0 : Byte) == 0xFF) bad rowC
  { fmt := fmt, rows := rows, rowC := rowC, stageC := stageC, drainC := drainC,
    colBad := List.zipWith (· || ·) colW colS, rowBad := rowBad.flatten }

/-- Bytes of a weight set (R50). -/
def weightSetBytes (cls : Nat) : Nat := if cls = 16 then 143360 else 77824

/-! Accumulators. -/

/-- An accumulator (R90, R91): empty, significand, exponent, and the sign of a range error. -/
structure Acc where
  empty : Bool
  a : Int
  e : Int
  range : Option Bool
  deriving DecidableEq, Repr

def Acc.zero : Acc := ⟨true, 0, 0, none⟩

/-- Add a partial to an integer pair's accumulator (R90). -/
def accInt (x : Acc) (p ep : Int) : Acc :=
  if p = 0 ∨ x.range.isSome then x
  else if x.empty then ⟨false, p, ep, none⟩
  else
    let s := dyAdd x.a x.e p ep
    if 2 ^ 47 ≤ s.1.natAbs then ⟨false, if s.1 < 0 then -(2 ^ 47 - 1) else 2 ^ 47 - 1, s.2, some (decide (s.1 < 0))⟩
    else ⟨false, s.1, s.2, none⟩

/-- Add a partial to a floating-point pair's accumulator (R91). -/
def accFp (x : Acc) (p ep : Int) : Acc :=
  if p = 0 then x
  else if x.empty then ⟨false, p, ep, none⟩
  else
    let s := dyAdd x.a x.e p ep
    let e1 := max x.e ep
    let a1 := roundAt s.1 s.2 e1
    if 2 ^ 46 ≤ a1.natAbs then ⟨false, roundAt s.1 s.2 (e1 + 1), e1 + 1, none⟩ else ⟨false, a1, e1, none⟩

/-- Whether stage g adds under a group size (R88). -/
def stageAdds (group g : Nat) : Bool := 32 * (g + 1) % min group 128 == 0

/-- A vector as the feeder prepares it: its elements by lane, its shifts by lane and stage (a scale byte, or the
reference of the 16-bit class), whether it is invalid, and the sum of its raw codes (R85, R87, R89, R96). -/
structure Vect where
  elems : List (List ActElem)
  shifts : List (List Nat)
  invalid : Bool
  sum : Int
  deriving DecidableEq, Repr

/-- Prepare a vector from its activation bytes and scale bytes. -/
def prepVector (p : Profile) (trans : Bool) (act scales : List Byte) : Vect :=
  let cls := fmtClass p.actFmt
  let codes := codesOf (fmtWidth p.actFmt) act
  let lanes := if cls = 4 ∧ trans then 2 else 1
  let per := (List.range lanes).map fun l => (codes.drop (256 * l)).take 256
  if cls = 16 then
    let groups := chunks 32 codes
    let refs := groups.map fun g => g.foldl (fun a c => max a (expField p.actFmt c)) 1
    let el := (List.zipWith (fun g r => g.map fun c => ActElem.form (arrayForm p.actFmt r c)) groups refs).flatten
    { elems := [el], shifts := [refs], invalid := codes.any (fp16Invalid p.actFmt), sum := 0 }
  else
    let ng := 256 / p.group
    let byteAt := fun l g => if p.scaleRegion then (scales.getD (ng * l + 32 * g / p.group) (0 : Byte)).toNat else p.actScale
    let shifts := (List.range lanes).map fun l => (List.range 8).map fun g => byteAt l g
    let used := if p.scaleRegion then (scales.take (ng * lanes)).map (·.toNat) else [p.actScale]
    let badCode := fun c => if fmtIsInt p.actFmt then false else match decodeFmt p.actFmt c with | .fin _ _ => false | _ => true
    let bad := codes.any badCode || used.any (· == 0xFF)
    { elems := per.map fun l => l.map fun c => ActElem.code (if badCode c then 0 else c), shifts := shifts,
      invalid := bad, sum := (codes.foldl (fun a c => a + intCode p.actFmt c) 0) }

/-- The partials of one stage in normal mode: one for each column of each lane. -/
def stageNormal (p : Profile) (xs : List ActElem) (rows : List (List Byte)) : List Int :=
  let cls := fmtClass p.wtFmt
  (List.zip xs rows).foldl (fun acc xr =>
      List.zipWith (fun a w => a + product p.actFmt p.wtFmt xr.1 (if weightInvalid p.wtFmt w then 0 else w)) acc
        (rowCodes cls xr.2))
    (List.replicate (256 * lanesOf cls) 0)

/-- The partials of one stage in transposed mode: one for each row of each lane. -/
def stageTransposed (p : Profile) (g : Nat) (elems : List (List ActElem)) (rows : List (List Byte)) : List Int :=
  let cls := fmtClass p.wtFmt
  ((List.range (lanesOf cls)).map fun l =>
    let xs := ((elems.getD l []).drop (32 * g)).take 32
    rows.map fun r =>
      let ws := ((rowCodes cls r).drop (256 * l + 32 * g)).take 32
      (List.zipWith (fun x w => product p.actFmt p.wtFmt x (if weightInvalid p.wtFmt w then 0 else w)) xs ws).foldl (· + ·) 0).flatten

/-- The weight shift of lane-and-place `i` at stage `g` (R89). -/
def weightShift (b : Bank) (trans : Bool) (g i : Nat) : Nat :=
  if trans then ((b.rowC.getD (i % 256) []).getD (2 * g + i / 256) (0 : Byte)).toNat
  else ((b.stageC.getD g []).getD i (0 : Byte)).toNat

/-- The bias of a 16-bit format. -/
def bias16 (fmt : Nat) : Int := if fmt = 8 then 15 else 127

/-- The exponent of a stage's partial (R89). -/
def stageExp (p : Profile) (qa qw : Nat) : Int :=
  if fmtClass p.actFmt = 16 then
    ((qa : Int) - bias16 p.actFmt - 10) + ((qw : Int) - bias16 p.wtFmt - 10) - 4
  else
    ((qa : Int) - 127) + ((qw : Int) - 127) + pairL p.actFmt p.wtFmt -
      (if p.ocp ∧ p.actFmt = 2 then 6 else 0) - (if p.ocp ∧ p.wtFmt = 2 then 6 else 0)

/-- The operands that meet in the PEs of one stage for column (row, in transposed mode) `i` of a lane (R88). -/
def stageOperands (p : Profile) (trans : Bool) (b : Bank) (v : Vect) (g lane i : Nat) : List (ActElem × Nat) :=
  let cls := fmtClass p.wtFmt
  if trans then
    List.zip (((v.elems.getD lane []).drop (32 * g)).take 32) (((rowCodes cls (b.rows.getD i [])).drop (256 * lane + 32 * g)).take 32)
  else
    List.zip (((v.elems.getD 0 []).drop (32 * g)).take 32) (((b.rows.drop (32 * g)).take 32).map fun r =>
      (rowCodes cls r).getD (256 * lane + i) 0)

/-- The partial of piece `k` at one stage and place (R86). -/
def piecePartial (p : Profile) (trans : Bool) (b : Bank) (v : Vect) (g lane i k : Nat) : Int :=
  (stageOperands p trans b v g lane i).foldl (fun a x => a + match x.1 with
    | .form f => pieceOf f (weightForm x.2) k
    | .code _ => 0) 0

/-- The residue x mod 3 of an integer (R105). -/
def residue (x : Int) : Nat := (x % 3).toNat

/-- Whether an adding stage finds a mismatch (R105, R106). The shadow is the residue of the sum the PEs formed, which their
additions mod 3 give: products of the codes' residues for integer pairs, residues of the aligned values for the others,
where an error of the alignment shifter reaches both sides. `sum` is that sum, `err` the error of the partial, `inv` the
inverted bits of the shadow. -/
def residueBad (sum err : Int) (inv : Nat) : Bool :=
  let sh := residue sum ^^^ (inv % 4)
  sh == 3 || residue (sum + err) != sh

/-- The places of a stage that upsets strike, each piece on its own: lane, index, piece. -/
def struckPlaces (ups : List Upset) : List (Nat × Nat × Nat) :=
  ups.foldl (fun a u => let k := (u.lane, u.index, u.piece); if a.contains k then a else a ++ [k]) []

/-- The sums of the upsets at a place: error of the partial, error of the aligned values, inverted shadow bits. -/
def struckBy (ups : List Upset) (k : Nat × Nat × Nat) : Int × Int × Nat :=
  ups.foldl (fun a u => if (u.lane, u.index, u.piece) = k then (a.1 + u.error, a.2.1 + u.align, a.2.2 ^^^ u.shadow) else a)
    (0, 0, 0)

/-- The accumulators of a vector after its eight stages, and the residue mismatches met: lane, index and stage
(R88 to R91, R105, R106). An integer pair has no alignment shifter, and only the 16-bit class has pieces. -/
def runStages (p : Profile) (trans : Bool) (b : Bank) (v : Vect) (upsets : List Upset) :
    List Acc × List (Nat × Nat × Nat) :=
  let width := 256 * lanesOf (fmtClass p.wtFmt)
  let group := if fmtClass p.actFmt = 16 then 32 else p.group
  let out := (List.range 8).foldl (fun (st : List Acc × List Int × List (Nat × Nat × Nat)) g =>
      let part := if b.rows.isEmpty then List.replicate width (0 : Int)
        else if trans then stageTransposed p g v.elems b.rows
        else stageNormal p (((v.elems.getD 0 []).drop (32 * g)).take 32) ((b.rows.drop (32 * g)).take 32)
      let pend := List.zipWith (· + ·) st.2.1 part
      if !stageAdds group g then (st.1, pend, st.2.2)
      else
        let wide := fmtClass p.actFmt == 16
        let ups := (upsets.filter fun u => u.stage == g && decide (256 * u.lane + u.index < width)).map fun u =>
          { u with piece := if wide then u.piece else 0, align := if fmtIsInt p.actFmt then 0 else u.align }
        let hit := fun i => ups.foldl (fun a u => if u.lane * 256 + u.index = i then a + u.error + u.align else a) (0 : Int)
        let bad := ((struckPlaces ups).filter fun k =>
            let u := struckBy ups k
            let sum := (if wide then piecePartial p trans b v g k.1 k.2.1 k.2.2 else pend.getD (256 * k.1 + k.2.1) 0) + u.2.1
            residueBad sum u.1 u.2.2).map fun k => (k.1, k.2.1, g)
        let accs := List.zipWith (fun (ia : Nat × Acc) q =>
            let i := ia.1
            let qa := (v.shifts.getD (if trans then i / 256 else 0) []).getD g 0
            let ep := stageExp p qa (weightShift b trans g i)
            let q' := if ups.isEmpty then q else q + hit i
            if fmtIsInt p.actFmt then accInt ia.2 q' ep else accFp ia.2 q' ep)
          (List.zip (List.range width) st.1) pend
        (accs, List.replicate width (0 : Int), st.2.2 ++ bad))
    (List.replicate width Acc.zero, List.replicate width (0 : Int), [])
  (out.1, out.2.2)

/-! The drain. -/

/-- What a drain carries for an output element through steps 3 to 7 of R94. -/
inductive DrainVal where
  | exact (m e : Int)
  | num (v : FV)
  | invalid
  | ranged (neg : Bool)
  deriving DecidableEq, Repr

/-- Round a floating-point value to FP32 in a drain: a finite overflow saturates (R78). -/
def drain32 (m e : Int) : FV × Bool := let r := rnd32 m e; (.fin r.1 r.2.1, r.2.2)

/-- FP32 addition with one rounding as the drains do it (R97), and whether it was clamped. -/
def drainAdd (a b : FV) : FV × Bool :=
  match a, b with
  | .fin am ae, .fin bm be => let s := dyAdd am ae bm be; drain32 s.1 s.2
  | _, _ => (.nan, false)

/-- Drain constants of entry i (R93). -/
def drainWord (b : Bank) (i off n : Nat) : Nat := fieldAt b.drainC (8 * i + off) n

/-- The value of an output element before its table: bias and zero points (R94 to R97), and whether it was clamped. DESIGN
CHOICE (log entry 35): where both lanes of a row took a range error the sign is lane 0's, and a bias shifted by more than 40
bits takes the sign of the exact sum W + B × 2^kb. -/
def drainValue (p : Profile) (trans : Bool) (b : Bank) (v : Vect) (accs : List Acc) (j : Nat) : DrainVal × Bool :=
  let cls := fmtClass p.actFmt
  let two := trans && cls == 4
  let x := accs.getD j .zero
  let y := accs.getD (j + 256) .zero
  let bad := v.invalid || (if trans then b.rowBad.getD j false || (two && b.rowBad.getD (j + 256) false)
    else b.colBad.getD j false)
  let biasW := drainWord b j 4 4
  if fmtIsInt p.actFmt then
    if bad then (.invalid, false)
    else
      let rg := match x.range with | some n => some n | none => if two then y.range else none
      match rg with
      | some n => (.ranged n, false)
      | none =>
        let lane := if two then dyAdd x.a (if x.empty then 0 else x.e) y.a (if y.empty then 0 else y.e)
          else (x.a, if x.empty then 0 else x.e)
        let bm := sext 32 biasW
        let w1 := if p.biasEn then dyAdd lane.1 lane.2 bm p.kb else lane
        if p.biasEn ∧ 40 < (p.kb - lane.2).natAbs then (.ranged (decide (w1.1 < 0)), false)
        else
          let k7 := stageExp p ((v.shifts.getD 0 []).getD 7 0) (weightShift b trans 7 j)
          let zw : Int := drainWord b j 3 1
          let corr := -(p.za : Int) * sext 24 (drainWord b j 0 3) - zw * v.sum + 256 * (p.za : Int) * zw
          let w2 := if p.zpEn then dyAdd w1.1 w1.2 corr k7 else w1
          (.exact w2.1 w2.2, false)
  else
    let bv := dec32 biasW
    let biasBad := p.biasEn && (match bv with | .fin _ _ => false | _ => true)
    if bad || biasBad then (.invalid, false)
    else
      let lane : FV × Bool :=
        if two then
          let r := drain32 x.a x.e
          let q := drain32 y.a y.e
          let t := drainAdd r.1 q.1
          (t.1, r.2 || q.2 || t.2)
        else (.fin x.a x.e, false)
      match lane.1, (if p.biasEn then bv else FV.zero) with
      | .fin am ae, .fin bm be =>
        let s := dyAdd am ae bm be
        let r := drain32 s.1 s.2
        (.num r.1, r.2 || lane.2)
      | _, _ => (.num .nan, false)

/-- FP32 subtraction, multiplication and multiply-add of the table evaluation, in a drain (R98, R78). -/
def drainSub (a b : FV) : FV × Bool :=
  match a, b with
  | .fin am ae, .fin bm be => let s := dyAdd am ae (-bm) be; drain32 s.1 s.2
  | .nan, _ => (.nan, false)
  | _, .nan => (.nan, false)
  | .inf x, .inf y => (if x = y then .nan else .inf x, false)
  | .inf x, _ => (.inf x, false)
  | _, .inf y => (.inf (!y), false)

def fvNeg (v : FV) : Bool := match v with | .fin m _ => decide (m < 0) | .inf n => n | .nan => false

def drainMulAdd (a b c : FV) : FV × Bool :=
  match a, b, c with
  | .fin am ae, .fin bm be, .fin cm ce => let s := dyAdd (am * bm) (ae + be) cm ce; drain32 s.1 s.2
  | .nan, _, _ => (.nan, false)
  | _, .nan, _ => (.nan, false)
  | _, _, .nan => (.nan, false)
  | .fin _ _, .fin _ _, .inf n => (.inf n, false)
  | x, y, z =>
    let zero := (match x with | .fin m _ => m == 0 | _ => false) || (match y with | .fin m _ => m == 0 | _ => false)
    let sg := fvNeg x != fvNeg y
    if zero then (.nan, false)
    else match z with
      | .inf n => (if n = sg then .inf n else .nan, false)
      | _ => (.inf sg, false)

/-- The table index of t (R98). -/
def tableIndex (t : FV) : Nat :=
  match t with
  | .nan => 0
  | .inf n => if n then 0 else 255
  | .fin m e => (clampInt 0 255 (floorAt m e 0)).toNat

/-- Evaluate an activation table of 2,112 B (R98); an empty one is all zero. -/
def tableEval (t : List Byte) (x : FV) : FV × Bool :=
  let w := fun o => dec32 (fieldAt t o 4)
  let d := drainSub x (w 0)
  let p := drainMulAdd d.1 (w 4) .zero
  let k := tableIndex p.1
  let y := drainMulAdd (w (64 + 8 * k)) x (w (68 + 8 * k))
  match x with
  | .nan => (.nan, d.2 || p.2)
  | _ => (y.1, d.2 || p.2 || y.2)

/-- Round the magnitude stochastically at quantum 2^q (R102). -/
def stochAt (m e q : Int) (rho : Nat) : Int :=
  let a := floorAt ((m.natAbs : Int) * 2 ^ 16 * 2 ^ (e - q).toNat + (rho : Int) * 2 ^ (q - e).toNat) (min (e - q) 0 - 16) 0
  if m < 0 then -a else a

/-- Requantise one finite value `m * 2^e`, already shifted by the output scale (R100, R102): the code and whether it was
clamped. `sym` names the quantiser's symmetric integer range (R80). -/
def requant (fmt : Nat) (zo : Nat) (sym : Bool) (rho : Option Nat) (m e : Int) : Nat × Bool :=
  match fpOf fmt with
  | some f =>
    let r := match rho with
      | none => roundFp f m e
      | some r => if m = 0 then (0, 0) else
          let q := max (topBit m e - f.mbits) (1 - f.bias - f.mbits)
          (stochAt m e q r, q)
    let s := satFp f r.1 r.2
    (encodeFp f s.1 s.2.1, s.2.2)
  | none => match intOf fmt with
    | some (lo, hi) =>
      let q := (match rho with
        | none => roundAt m e 0
        | some r => (let s := dyAdd m e r (-16); floorAt s.1 s.2 0)) + (if fmt = 3 then (zo : Int) else 0)
      let lo' := if sym then -hi else lo
      (toTwos (fmtWidth fmt) (clampInt lo' hi q), decide (q < lo') || decide (hi < q))
    | none => (0, false)

/-- The output of one vector: codes, scale bytes, and the counts of invalid, ranged and saturated elements. -/
structure DrainOut where
  codes : List Nat
  scales : List Nat
  invalid : Nat
  ranged : Nat
  sat : Nat
  deriving DecidableEq, Repr

/-- The value an element is quantised from, and what the quantiser sees of it. -/
def quantElem (v : DrainVal) : QElem :=
  match v with
  | .exact m e => let r := rnd32 m e; .val r.1 r.2.1
  | .num (.fin m e) => .val m e
  | .num _ => .invalid
  | .invalid => .invalid
  | .ranged n => .ranged n

/-- Write one element's code under a shift `so` (R94 steps 7 and 8, R100, R103); `sym` says that the scale is dynamic, where an
infinite element takes the codes of R80. -/
def drainCode (p : Profile) (so : Int) (sym : Bool) (rho : Option Nat) (v : DrainVal) : Nat × Bool :=
  match v with
  | .invalid => (nanCode p.outFmt, false)
  | .ranged n => if sym then ((quantCode p.outFmt so (.ranged n)).1, false) else (maxCode p.outFmt n, false)
  | .exact m e =>
    if p.outFmt = 0xB then let q := roundAt m (e - so) 0
      (toTwos 32 (clampInt (-2147483648) 2147483647 q), decide (q < -2147483648) || decide (2147483647 < q))
    else requant p.outFmt p.zo sym rho m (e - so)
  | .num (.fin m e) => if p.outFmt = 0xA then (enc32 (.fin m e), false) else requant p.outFmt p.zo sym rho m (e - so)
  | .num (.inf n) => if sym then (nanCode p.outFmt, false) else (maxCode p.outFmt n, true)
  | .num .nan => (nanCode p.outFmt, false)

/-- The whole drain for one vector (R94 to R103): `grit j` is the draw of element j. DESIGN CHOICE (log entry 35): a raw FP32
output of an integer pair, whose v R95 does not form, is round_FP32(W). -/
def drainVector (p : Profile) (trans : Bool) (b : Bank) (v : Vect) (accs : List Acc) (table : List Byte)
    (grit : Nat → Nat) : DrainOut :=
  let count := outCount (fmtClass p.actFmt) trans
  let raw := p.outFmt == 0xA || p.outFmt == 0xB
  let vals := (List.range count).map fun j =>
    let d := drainValue p trans b v accs j
    if raw && p.outFmt == 0xA then
      match d.1 with
      | .exact m e => let r := drain32 m e; (DrainVal.num r.1, r.2)
      | _ => d
    else if p.tableEn then
      match d.1 with
      | .exact m e => let r := rnd32 m e; (DrainVal.num (tableEval table (.fin r.1 r.2.1)).1, r.2.2)
      | .num x => (DrainVal.num (tableEval table x).1, d.2)
      | _ => d
    else d
  let rho := fun j => if p.stoch && !raw then some (grit j) else none
  let idx := List.zip (List.range count) vals
  let coded : List (Nat × Bool) × List Nat :=
    if p.dyn then
      let gs := chunks 32 idx
      let r := gs.map fun g =>
        let q := g.map fun x => quantElem x.2.1
        let so := quantShift p.outFmt p.ocp q
        (g.map fun x => drainCode p so true (rho x.1) x.2.1, quantScale p.outFmt p.ocp q)
      ((r.map (·.1)).flatten, r.map (·.2))
    else (idx.map fun x => drainCode p ((p.soB : Int) - 127) false (rho x.1) x.2.1, [])
  let sat := (List.zip coded.1 vals).foldl (fun a x =>
    match x.2.1 with | .invalid => a | .ranged _ => a | _ => if x.1.2 || x.2.2 then a + 1 else a) 0
  { codes := coded.1.map (·.1), scales := coded.2,
    invalid := (vals.filter fun x => x.1 == .invalid).length,
    ranged := (vals.filter fun x => match x.1 with | .ranged _ => true | _ => false).length,
    sat := sat }

end Sys2Proof.Machine
end

