-- ==== Sys2Proof/Machine/CoreControl.lean ====
section
/-! DEFINITION. The control engine's instructions (R122 to R128, R148, R149). -/

namespace Sys2Proof.Machine

/-- NOP (R122). -/
def execNop (core : Fin 8) (w : IWord) (s : State) : Host.Outcome State Fault Refusal :=
  match s.issue core.val w 0 0x00 with
  | .none => .next s
  | .fault s' => .next s'
  | .go _ _ s' => .next (s'.advance core.val)

/-- The bytes that a core's mover has moved in tiers 2 and 3 (R211). -/
def State.tierCounts (s : State) (n : Nat) : Nat × Nat :=
  (s.fget64 (f_mvTierBytes_bytes_lo n 2), s.fget64 (f_mvTierBytes_bytes_lo n 3))

/-- Measure a step that a core of the running job has run, against the core's counters at its last boundary (R216). -/
def State.measureStep (s : State) (n step : Nat) : State :=
  if !bit s.jobCores n then s
  else
    let m := s.tierCounts n
    let k := mapGet (fun _ => ((0, 0) : Nat × Nat)) s.fw.tierMark n
    { s with fw := { s.fw with
      measured := mapSet (fun _ => (0, 0, ([] : List PoolBlock))) s.fw.measured (8 * step + n) (m.1 - k.1, m.2 - k.2, s.fw.layout),
      tierMark := mapSet (fun _ => ((0, 0) : Nat × Nat)) s.fw.tierMark n m } }

/-- The boundary of a step: NC_STEP counts, the MP hears of it, and the core spends a credit or halts (R123, R154). A step
entered on a credit keeps the anchor of the last satisfied WAIT (log entry 61). -/
def State.boundary (s : State) (n cyc : Nat) : State :=
  let step := s.fget (f_ncStep_step n)
  let s := s.fput (f_ncStep_step n) ((step + 1) % 2 ^ 32)
  let s := (s.measureStep n step).emit (.toMp mpBoundary [n, step])
  let c := s.core n
  let prof := s.fbit (f_tgCtrl_profiling n)
  let credit := s.fget (f_ncBoundaryCredit_credit n)
  let s := s.setCore n { c with ref := max c.ref cyc, stepEndAt := none, profiling := prof }
  if credit ≠ 0 ∧ !c.tgPending then
    let c := s.core n
    (s.fput (f_ncBoundaryCredit_credit n) (credit - 1)).setCore n { c with stepOpen := true }
  else
    let s := if c.tgPending then s.cond .scheduleFault false else s
    s.fput (f_ncStatus_state n) 3

/-- STEP_END (R123): waits for busy engines with a boundary-busy fault; a wait for the mover or a streamed pass ends with
their completion. -/
def execStepEnd (core : Fin 8) (w : IWord) (s : State) : Host.Outcome State Fault Refusal :=
  let n := core.val
  let c := s.core n
  match s.issue n w 0 0x01 with
  | .none => .next s
  | .fault s' => .next s'
  | .go cyc who s1 =>
    if !c.calls.isEmpty || !c.reps.isEmpty || fld w 55 24 ≠ s.fget (f_ncStep_step n) then
      .next (s.decodeFault n 0 0x0D)
    else
      let c1 := s1.core n
      let idle := s1.idleCycle n
      let bound := c1.gens.any fun g => g.2.bound
      let asyncBusy := !c1.queue.isEmpty || (s1.array n 0).streamed.isSome || (s1.array n 1).streamed.isSome || bound
      let busy := asyncBusy || decide (cyc < idle)
      let s2 := if busy then s1.tgFault who 0x08 0 0 false cyc else s1
      -- the STEP_END has issued: the next instruction of the stream is the one after it (R158)
      let s3 := s2.advance n
      if asyncBusy then .next (s3.setCore n { s3.core n with stepEndAt := some cyc })
      else .next (s3.boundary n (max cyc idle))

/-- REPEAT (R124, R125). -/
def execRepeatBody (core : Fin 8) (w : IWord) (s : State) : Host.Outcome State Fault Refusal :=
  let n := core.val
  let c := s.core n
  let len := fld w 51 40 + 1
  let p := s.pos n
  let tooLong := match c.calls with
    | [] => decide (64 < len) || (match c.streamLen with | some l => decide (l < p + 1 + len) | none => false)
    | f :: _ => decide (4096 < len) || decide (f.len < p + 1 + len)
  match s.issue n w 0 0x02 with
  | .none => .next s
  | .fault s' => .next s'
  | .go _ _ s1 =>
    if decide (4 ≤ c.reps.length) || tooLong then .next (s.decodeFault n 0 0x08)
    else
      let count := fld w 39 24 + 1
      let f : RepFrame :=
        { start := p + 1, len := len, left := count, iter := 1,
          regA := fld w 55 52, enA := bit w.toNat 56, strideA := sext 24 (fld w 80 57),
          regB := fld w 84 81, enB := bit w.toNat 85, strideB := sext 24 (fld w 109 86) }
      let c1 := s1.core n
      .next ((s1.setCore n { c1 with reps := f :: c1.reps }).advance n)

/-- A routine table entry (R129): start in 4 B units, whether it is valid, length and declared cost, from its 16 bytes. -/
structure RoutineEntry where
  offset : Nat
  valid : Bool
  length : Nat
  cost : Nat
  deriving DecidableEq, Repr

def routineEntry (d : List Byte) : RoutineEntry :=
  let w := fieldAt d 0 4
  ⟨w % 2 ^ 20, bit w 31, fieldAt d 4 2, fieldAt d 8 4⟩

/-- The main-stream position that issues next once the routines entered have returned, the CALL at `p` being the last
main-stream instruction issued (R158): a body that ends with the CALL goes on at its first instruction. -/
def afterCall (c : CoreRt) (p : Nat) : Nat := (closeBodies c 8 (p + 1)).2

/-- CALL (R126, R127). The core reads the routine's table entry through its fetch pipeline (R129, R596). -/
def execCall (core : Fin 8) (w : IWord) (s : State) : Host.Outcome State Fault Refusal :=
  let n := core.val
  let c := s.core n
  let i := fld w 33 24
  match s.issue n w 0 0x03 with
  | .none => .next s
  | .fault s' => .next s'
  | .go cyc who s1 =>
    if fld w 35 34 ≠ 0 then .next (s.decodeFault n 0 0x03)
    else if 4 ≤ c.calls.length then .next (s.decodeFault n 0 0x08)
    else match s1.routineRead n (16 * i) with
      | (none, s2) => .next (s2.routineFault who)
      | (some d, s2) =>
        let e := routineEntry d
        if !e.valid then .next (s.decodeFault n 0 0x09)
        else
          let c1 := s2.core n
          let f : CallFrame :=
            { routine := i, saved := (List.range 8).map fun r => mapGet (fun _ => (0 : Word)) c1.bregs r,
              retPos := s.pos n + 1, reps := c1.reps, callCycle := cyc, stall := 0, cost := e.cost, len := e.length,
              body := 4 * e.offset }
          let s3 := if c1.calls.isEmpty then s2.fput (f_ncStreamPos_position n) (afterCall c1 (s.pos n)) else s2
          let s4 := s3.setCore n { c1 with calls := f :: c1.calls, reps := [], rpos := 0 }
          .next ((s4.fput (f_ncStatus_call_depth n) (c1.calls.length + 1)).fput (f_ncStatus_repeat_depth n)
            (repeatDepth c1))

/-- Restore B0 to B7, the values that stood at the CALL. -/
def restoreLow (c : CoreRt) (vs : List Word) : CoreRt :=
  (List.range 8).foldl (fun c r =>
    { c with bregs := mapSet (fun _ => 0) c.bregs r (vs.getD r 0), bOld := mapSet (fun _ => 0) c.bOld r (vs.getD r 0) }) c

/-- RETURN (R126, R127). -/
def execRet (core : Fin 8) (w : IWord) (s : State) : Host.Outcome State Fault Refusal :=
  let n := core.val
  let c := s.core n
  match s.issue n w 0 0x04 with
  | .none => .next s
  | .fault s' => .next s'
  | .go cyc who s1 =>
    match c.calls with
    | [] => .next (s.decodeFault n 0 0x10)
    | f :: rest =>
      let measured := cyc - f.callCycle - f.stall
      let s2 := if measured ≠ f.cost then s1.tgFault who 0x06 0 0 false cyc else s1
      let c2 := restoreLow (s2.core n) f.saved
      let s3 := s2.setCore n { c2 with calls := rest, reps := f.reps }
      .next (s3.moveTo n f.retPos)

/-- SETB (R117). -/
def execSetb (core : Fin 8) (w : IWord) (s : State) : Host.Outcome State Fault Refusal :=
  match s.issue core.val w 0 0x05 with
  | .none => .next s
  | .fault s' => .next s'
  | .go cyc _ s1 =>
    .next ((s1.setCore core.val (setBreg (s1.core core.val) cyc (fld w 27 24) (BitVec.ofNat 32 (fld w 59 28)))).advance
      core.val)

/-- ADDB (R122): the addend joins the register's newest value modulo 2^32. -/
def execAddb (core : Fin 8) (w : IWord) (s : State) : Host.Outcome State Fault Refusal :=
  match s.issue core.val w 0 0x06 with
  | .none => .next s
  | .fault s' => .next s'
  | .go cyc _ s1 =>
    let c := s1.core core.val
    let r := fld w 27 24
    let v : Word := BitVec.ofNat 32 (breg c cyc r) + BitVec.ofNat 32 (fld w 59 28)
    .next ((s1.setCore core.val (setBreg c cyc r v)).advance core.val)

/-- REGION_SET (R149, R153). -/
def execRegionSet (core : Fin 8) (w : IWord) (s : State) : Host.Outcome State Fault Refusal :=
  let n := core.val
  let r := fld w 29 24
  let lines := fld w 51 46 + 1
  let slots := fld w 63 52 + 1
  match s.issue n w 0 0x07 with
  | .none => .next s
  | .fault s' => .next s'
  | .go cyc who s1 =>
    match operand (s.core n) cyc (fld w 45 30) with
    | .region _ _ _ => .next (s.decodeFault n 0 0x07)
    | .addr off =>
      if r = 63 then .next (s.decodeFault n 0 0x11)
      else if off % 64 ≠ 0 ∨ !regionFits (off / 64) lines slots then .next (s.decodeFault n 0 0x07)
      else
        let c := s1.core n
        let busy := (c.regionUse.any fun p => p.1 == r && decide (cyc < p.2)) ||
          c.queue.any fun t => (match t.src with | .region q _ _ => q == r | _ => false) ||
            (match t.dst with | .region q _ _ => q == r | _ => false)
        let s2 := if busy then s1.tgFault who 0x09 r 0 false cyc else s1
        let s3 := s2.fput (f_tgRegionCfg_base_line n r) (off / 64)
        let s4 := s3.fput (f_tgRegionCfg_slot_lines_m1 n r) (lines - 1)
        let s5 := s4.fput (f_tgRegionCfg_slot_count_m1 n r) (slots - 1)
        let s6 := (s5.note n cyc (.ptr r (s5.head n r) (s5.tail n r))).wr (f_tgRegionPtr_head n r).off 0
        let s7 := (List.range 128).foldl (fun s k => s.wr (0x100000 * n + 0x14000 + 512 * r + 4 * k) 0) s6
        .next (s7.advance n)

/-- Load a generator's descriptor, its first lines being read after cycle `cyc` (R148). -/
def State.genLoad (s : State) (who : Who) (g : Nat) (x : GenState) (cyc : Nat) : State :=
  let p := s.genFirstLines who x cyc
  p.2.setCore who.core (setGen (p.2.core who.core) g p.1)

/-- ASP_LOAD (R147, R148): to a bound generator an engine-busy fault; the load waits until the generator frees. A further
load to a generator that holds one pauses issue until the handover (R153). A generator is bound until the last access of
the instruction that emptied it. -/
def execAspLoad (core : Fin 8) (w : IWord) (s : State) : Host.Outcome State Fault Refusal :=
  let n := core.val
  let g := fld w 27 24
  match s.issue n w 0 0x08 with
  | .none => .next s
  | .fault s' => .next s'
  | .go cyc0 who s0 =>
    match addrOnly (operand (s.core n) cyc0 (fld w 43 28)) 64 with
    | none => .next (s.decodeFault n 0 0x07)
    | some off =>
      let old := getGen (s0.core n) g
      if (mapGet (fun _ => none) (s0.core n).genLoads g).isSome then
        -- the generator already holds a load, whose handover no issued work brings
        .next (s0.setCore n { s0.core n with paused := true })
      else
        let wait := old.handover - cyc0
        let cyc := cyc0 + wait
        let s1 := if 0 < wait then s0.pause n wait else s0
        let p := s1.sRead who (cyc + 1) (off / 64) rankDesc
        match parseGen p.1 with
        | none => .next (s.decodeFault n 0 0x0B)
        | some x =>
          if old.bound then
            let s2 := p.2.tgFault who 0x04 0 0 false cyc
            let c := s2.core n
            .next ((s2.setCore n { c with genLoads := mapSet (fun _ => none) c.genLoads g (some x) }).advance n)
          else if cyc < old.freed then
            let s2 := p.2.tgFault who 0x04 0 0 false cyc
            .next ((s2.genLoad who g { x with freed := old.freed, handover := old.freed } old.freed).advance n)
          else .next ((p.2.genLoad who g { x with freed := cyc } (cyc + 1)).advance n)

end Sys2Proof.Machine
end

