-- ==== Sys2Proof/Machine/ArrayPass.lean ====
section
/-! DEFINITION. The matrix arrays' instructions and events: front launch and hold (R52 to R55), the reads of weight sets and
activations and the writes of outputs on their cycles (R57, R64), streamed passes (R61, R62), paired passes (R63, R134),
profile and table loads (R99, R136), and bank clearing (R66). -/

namespace Sys2Proof.Machine

/-- Count in one of the array's 64-bit counters (R67, R69): it wraps with counter_wrap. -/
def State.maCount (s : State) (n a : Nat) (lo : Fld) (k : Nat) : State :=
  if !s.fbit (f_maCtrl_count_en n a) then s
  else
    let v := s.fget64 lo + k
    let s1 := s.fput64 lo (v % 2 ^ 64)
    if v < 2 ^ 64 then s1 else s1.raise (f_maEvent_counter_wrap n a)

/-- X_t of an array (R52). -/
def ArrRt.x (r : ArrRt) (t : Bool) : Option Nat := if t then r.x1 else r.x0

def ArrRt.bank (r : ArrRt) (t : Bool) : Bank := if t then r.bank1 else r.bank0

def ArrRt.setBank (r : ArrRt) (t : Bool) (b : Bank) : ArrRt := if t then { r with bank1 := b } else { r with bank0 := b }

/-- The start cycle an array alone gives an instruction from the cycle that stands for I + 3 (R52). -/
def startFrom (r : ArrRt) (load : Bool) (base : Nat) : Nat :=
  if !load then base
  else
    let past := fun (x : Option Nat) => match x with | some v => v + 256 | none => 0
    max base (max (past (r.x (!r.tag))) (past r.y))

/-- The fields of a PASS word that its issue resolves and checks (R132 to R134): the instruction, or a fault code. -/
def State.parsePass (s : State) (n a cyc : Nat) (w : IWord) (pos : Nat) (upsets : List Upset) :
    Except Nat PassInst :=
  let c := s.core n
  let load := bit w.toNat 24
  let paired := bit w.toNat 26
  let en := bit w.toNat 27
  let wt := operand c cyc (fld w 67 52)
  let act := operand c cyc (fld w 83 68)
  let out := operand c cyc (fld w 99 84)
  let inc := fld w 122 115
  let streamed := match act with | .addr _ => true | .region _ _ _ => false
  let outAddr := match out with | .addr _ => true | .region _ _ _ => false
  let aligned := fun (o : Operand) => match o with | .addr off => off % 64 == 0 | .region _ _ _ => true
  let wtOff := match wt with | .addr off => off | .region _ _ _ => 0
  let wtBad := load && (match wt with | .addr off => off % 64 != 0 | .region _ _ _ => true)
  let obj := s.syncIndex n (fld w 114 100)
  if fld w 50 49 ≠ 0 then .error 0x03
  else if wtBad || !readRegionOk act || !writeRegionOk out || !aligned act || !aligned out then .error 0x07
  else if paired && (streamed || fld w 48 48 == a) then .error 0x06
  else if (outAddr && !streamed) || (streamed && !en) || (en && inc == 0) then .error 0x07
  else if en && obj.isNone then .error 0x0A
  else .ok
    { load := load, trans := bit w.toNat 25, paired := paired,
      done := if en then obj.map fun o => (o, BitVec.ofNat 32 inc) else none,
      profile := fld w 31 28, vectors := fld w 47 32 + 1, wtAddr := wtOff,
      act := fld w 83 68, actAddr := (match act with | .addr off => off | .region _ _ _ => 0),
      out := fld w 99 84, outAddr := (match out with | .addr off => off | .region _ _ _ => 0),
      sample := 0, pos := pos, routine := s.routine n, depth := c.calls.length, issue := cyc,
      regs := (List.range 16).map (breg c cyc), upsets := upsets, record := 0, table := [] }

/-- The region, order and consume of a region operand's bits. -/
def regionOf (f : Nat) : Nat × Nat × Bool := (f % 64, bits f 10 6, bit f 11)

def PassInst.streamed (p : PassInst) : Bool := bit p.act 15

/-- Who an array's accesses are made for. -/
def PassInst.who (p : PassInst) (n a : Nat) : Who :=
  { core := n, engine := 1 + a, array := a, pos := p.pos, routine := p.routine, depth := p.depth }

/-- Lines that a number of bytes takes. -/
def linesFor (b : Nat) : Nat := ceilDiv b 64

/-- Bytes of scales a vector reads (R79, R89). -/
def scaleBytes (p : Profile) (trans : Bool) : Nat := 256 / p.group * (if fmtClass p.actFmt = 4 ∧ trans then 2 else 1)

/-- Whether the pass reads activation scales from a region (R92, R135). -/
def readsScales (p : Profile) : Bool := p.scaleRegion && fmtClass p.actFmt != 16

/-- The checks an instruction makes on its start cycle (R92, R121, R133): a fault code. -/
def State.startCheck (s : State) (n : Nat) (r : ArrRt) (p : PassInst) (pr : Profile) : Option Nat :=
  let cls := fmtClass pr.actFmt
  let b := r.bank r.tag
  let act := regionOf p.act
  let out := regionOf p.out
  let bytes := outBytes cls p.trans pr.outFmt
  if profileFault pr p.trans then some 0x04
  else if !p.load && b.fmt != 0 && b.fmt != pr.wtFmt then some 0x05
  else if (p.load && spBytes < p.wtAddr + weightSetBytes cls) ||
      (p.streamed && hbBytes < p.actAddr + p.vectors * actBytes cls p.trans) ||
      (!p.streamed && s.slotLines n act.1 < linesFor (actBytes cls p.trans)) ||
      (bit p.out 15 && hbBytes < p.outAddr + p.vectors * bytes) ||
      (!bit p.out 15 && s.slotLines n out.1 < linesFor bytes) then some 0x07
  else none

/-- The lines of a weight set with the cycles that read them (R64). The 256 B pieces of the drain constants are read last
piece first (log entry 7). -/
def weightReads (cls f : Nat) : List (Nat × Nat) :=
  let rl := rowBytes cls / 64
  let rows := (List.range (256 * rl)).map fun i => (f + i / rl - 2, i)
  let rc := (List.range 64).map fun k => (f + 4 * k - 2, 256 * rl + k)
  let sc := (List.range 64).map fun k => (f + 32 * (k / 8) + 29, 256 * rl + 64 + k)
  let dc := (List.range 64).map fun k => (f + 13 - k / 4, 256 * rl + 128 + k)
  rows ++ rc ++ sc ++ dc

/-- Read the lines of a weight set. -/
def State.readWeights (s : State) (who : Who) (base : Nat) : List (Nat × Nat) → List Byte × State
  | [] => ([], s)
  | (cyc, i) :: t =>
    let p := s.sRead who cyc (base + i) (rankWeights who.array)
    let q := p.2.readWeights who base t
    (p.1 ++ q.1, q.2)

/-- One array's share of a pass that runs: the instruction, what it copied on F, and its start cycle. -/
structure Lane where
  a : Nat
  p : PassInst
  prof : Profile
  bank : Bank
  f : Nat
  n : Nat
  deriving DecidableEq, Repr

def Lane.cls (l : Lane) : Nat := fmtClass l.prof.actFmt

/-- The last slot of vector v (R57). -/
def Lane.slotOf (l : Lane) (v : Nat) : Nat := if l.cls = 16 then 4 * v + 3 else v

/-- D of R57: 12 for integer output formats, 14 for floating-point ones. -/
def Lane.d (l : Lane) : Nat := if (intOf l.prof.outFmt).isSome then 12 else 14

/-- The cycle on which vector v is written (R57). -/
def Lane.outCycle (l : Lane) (v : Nat) : Nat := l.f + l.slotOf v + 511 + l.d

/-- The cycle on which vector v's activations are read (R64). -/
def Lane.readCycle (l : Lane) (v : Nat) : Nat := l.f + (if l.cls = 16 then 4 * v else v) - 2

/-- The table a drain evaluates (R98). -/
def State.drainTable (s : State) (n a : Nat) (trans : Bool) (slot : Nat) : List Byte :=
  mapGet (fun _ => []) (s.array n a).tables (slot + 4 * b2n trans)

/-- Events and counts of one written vector (R103, R106, R108 to R111). Every mismatch after the logged one sets `more`, also
one on the logged one's cycle (DESIGN CHOICE, log entry 63). -/
def State.passEvents (s : State) (l : Lane) (v : Nat) (bad : Bool) (d : DrainOut) (res : List (Nat × Nat × Nat)) : State :=
  let n := l.n
  let a := l.a
  let s := if bad then s.raise (f_maArithEvent_invalid_operand n a) else s
  let s := if d.sat = 0 then s else (s.raise (f_maArithEvent_saturated n a)).fsat (f_maSatCount_sat n a) d.sat
  let s := if d.ranged = 0 then s else (s.raise (f_maArithEvent_range_error n a)).fsat (f_maSatCount_range n a) d.ranged
  let s := if d.invalid = 0 then s else s.fsat (f_maInvalidCount_invalid n a) d.invalid
  match res with
  | [] => s
  | (lane, idx, stage) :: t =>
    let s1 := s.flag (f_maArithEvent_residue_mismatch n a)
    if s1.fbit (f_maResidueLog_valid n a) then s1.fput (f_maResidueLog_more n a) 1
    else
      let s2 := (s1.fput (f_maResidueLog_valid n a) 1).fput (f_maResidueLog_drain n a) (b2n l.p.trans)
      let s3 := (s2.fput (f_maResidueLog_lane n a) lane).fput (f_maResidueLog_index n a) idx
      let s4 := (s3.fput (f_maResidueLog_stage n a) stage).fput (f_maResidueLog_vector n a) v
      if t.isEmpty then s4 else s4.fput (f_maResidueLog_more n a) 1

/-- Order mismatches as R109 does: lowest lane, then lowest index, then the first stage. -/
def insertMismatch (x : Nat × Nat × Nat) : List (Nat × Nat × Nat) → List (Nat × Nat × Nat)
  | [] => [x]
  | y :: t => if x.1 * 65536 + x.2.1 * 16 + x.2.2 ≤ y.1 * 65536 + y.2.1 * 16 + y.2.2 then x :: y :: t
    else y :: insertMismatch x t

/-- Compute one vector through the array and its drain. -/
def State.computeVector (s : State) (l : Lane) (v : Nat) (act scales : List Byte) :
    DrainOut × Bool × List (Nat × Nat × Nat) :=
  let vec := prepVector l.prof l.p.trans act scales
  let ups := l.p.upsets.filter fun u => u.vector == v
  let r := runStages l.prof l.p.trans l.bank vec ups
  let key := (s.core l.n).gritKey
  let g := fun j => gritWord key 0 l.prof.grit l.p.sample (v * 512 + j)
  (drainVector l.prof l.p.trans l.bank vec r.1 l.p.table g, vec.invalid, r.2.foldl (fun a x => insertMismatch x a) [])

/-- Whether any residue mismatch occurred so far is told by the third part of the running triple. -/
abbrev Queued := List (Nat × List Byte × List Byte)

/-- Write one region slot on one cycle: claim, lines, valid (R150). -/
def State.writeSlot (s : State) (who : Who) (r cyc rank : Nat) (d : List Byte) : State :=
  let p := s.claimSlot who r cyc
  let s1 := p.2.sWrites who (p.2.slotLine who.core r p.1) rank ((chunks 64 d).map fun x => (cyc, x))
  s1.makeValid who.core r p.1 cyc

/-- Write one vector's outputs on cycle `cyc` (R57, R101, R133); the flag tells a residue mismatch. -/
def State.writeVector (s : State) (l : Lane) (v cyc : Nat) (act scales : List Byte) : Bool × State :=
  let c := s.computeVector l v act scales
  let who := l.p.who l.n l.a
  let rank := rankDrain l.a l.p.trans
  let data := packCodes (fmtWidth l.prof.outFmt) c.1.codes
  let s1 := if bit l.p.out 15 then
      -- a failed core's fabric writes are dropped (R600)
      (if s.coreFailed l.n then s.dropWrites (linesFor data.length) else s.hbStore (l.p.outAddr + v * data.length) data)
    else s.writeSlot who (regionOf l.p.out).1 cyc rank data
  let s2 := if l.prof.dyn then s1.writeSlot who l.prof.outScaleRegion cyc rank (c.1.scales.map fun b => BitVec.ofNat 8 b) else s1
  (!c.2.2.isEmpty, s2.passEvents l v c.2.1 c.1 c.2.2)

/-- Write the queued vectors whose cycle has come. -/
def State.drainUpTo (s : State) (l : Lane) (lim : Nat) (seen : Bool) : Queued → Bool × Queued × State
  | [] => (seen, [], s)
  | (v, act, sc) :: t =>
    if l.outCycle v ≤ lim then
      let r := s.writeVector l v (l.outCycle v) act sc
      -- R596: one report for a pass instruction with at least one mismatch
      let s1 := if r.1 && !seen then
          (r.2.report 1 (2 * l.n + l.a) 0x0003 (bits (s.rd (f_maResidueLog_valid l.n l.a).off).toNat 15 0)).cond .residue false
        else r.2
      s1.drainUpTo l lim (seen || r.1) t
    else (seen, (v, act, sc) :: t, s)

/-- The slot that the k-th access of a read operand takes, with the head of the instruction's start (R148, R150). -/
def State.readSlotOf (s : State) (who : Who) (f head k cyc : Nat) : Nat × State :=
  let r := regionOf f
  let cnt := s.slotCount who.core r.1
  if r.2.1 = 0 then ((head + k) % cnt, s)
  else
    let g := s.genNext who (r.2.1 - 1) r.1 cyc
    ((((head : Int) + g.1) % (cnt : Int)).toNat, g.2.2)

/-- Read one slot's lines on one cycle, with its check and its release (R150). -/
def State.readSlot (s : State) (who : Who) (r slot cyc rank lines : Nat) (consume : Bool) : List Byte × State :=
  let s1 := s.checkRead who r slot cyc
  let p := s1.sReads who (s1.slotLine who.core r slot) rank (List.replicate lines cyc)
  (p.1, if consume then p.2.releaseSlot who.core r slot cyc else p.2)

/-- What a pass carries from vector to vector. -/
structure PassRun where
  s : State
  q0 : Queued
  q1 : Queued
  bad0 : Bool
  bad1 : Bool

/-- Read vector `v` of a scratchpad pass, writing first the outputs that fall due by then. The second lane of a paired
pass takes the first one's activations and reads its own scales (R63). -/
def runVector (l : Lane) (m : Option Lane) (head : Nat) (x : PassRun) (v : Nat) : PassRun :=
  let cyc := l.readCycle v
  let d0 := x.s.drainUpTo l cyc x.bad0 x.q0
  let d1 := match m with
    | some m => d0.2.2.drainUpTo m cyc x.bad1 x.q1
    | none => (x.bad1, x.q1, d0.2.2)
  let who := l.p.who l.n l.a
  let r := regionOf l.p.act
  let sl := d1.2.2.readSlotOf who l.p.act head v cyc
  let rank := rankActs l.a
  let act := sl.2.readSlot who r.1 sl.1 cyc rank (linesFor (actBytes l.cls l.p.trans)) r.2.2
  let sc := if readsScales l.prof then act.2.readSlot who l.prof.actScaleRegion sl.1 cyc rank 1 r.2.2 else ([], act.2)
  match m with
  | none => { s := sc.2, q0 := d0.2.1 ++ [(v, act.1, sc.1)], q1 := d1.2.1, bad0 := d0.1, bad1 := d1.1 }
  | some m =>
    let sc1 := if readsScales m.prof then
        sc.2.readSlot (m.p.who m.n m.a) m.prof.actScaleRegion sl.1 cyc (rankActs m.a) 1 r.2.2
      else ([], sc.2)
    { s := sc1.2, q0 := d0.2.1 ++ [(v, act.1, sc.1)], q1 := d1.2.1 ++ [(v, act.1, sc1.1)], bad0 := d0.1, bad1 := d1.1 }

/-- The slots an instruction places. -/
def Lane.slots (l : Lane) : Nat := l.p.vectors * slotsPer l.cls

/-- Note a scratchpad instruction's course in its array (R52, R54, R68, R99, R136). -/
def Lane.book (l : Lane) (r : ArrRt) : ArrRt :=
  let last := l.outCycle (l.p.vectors - 1)
  let fin := l.f + l.slots
  let r1 := if r.tag then { r with x1 := some fin } else { r with x0 := some fin }
  { r1 with
    slotEnd := fin,
    idleAt := max r.idleAt (last + 1 + b2n l.p.done.isSome),
    profUse := (l.p.profile, l.p.issue, l.f) :: r.profUse.filter (fun u => l.p.issue ≤ u.2.2),
    tabUse := (if l.prof.tableEn then [(l.prof.table + 4 * b2n l.p.trans, last)] else []) ++
      r.tabUse.filter (fun u => l.p.issue ≤ u.2),
    flights := ⟨l.f, fin - 1 + 511, last, r.tag, l.p.load, l.p.paired, true⟩ :: r.flights.filter (fun u => l.p.issue ≤ u.last) }

/-- Start an instruction on its array on cycle `f`: the tag, the front and its reads, the profile copied (R48, R50, R52,
R75, R134). -/
def State.startLane (s : State) (n a f hold : Nat) (p : PassInst) : Lane × State :=
  let r := s.array n a
  let rec_ := mapGet (fun _ => 0) r.profiles p.profile
  let pr := parseProfile rec_
  let p := { p with record := rec_, table := if pr.tableEn then s.drainTable n a p.trans pr.table else [], sample := p.regs.getD pr.sampleReg 0 }
  let s := s.maCount n a (f_maHoldCycles_hold_lo n a) hold
  if !p.load then (⟨a, p, pr, r.bank r.tag, f, n⟩, s.fput (f_maStatus_mode n a) (b2n p.trans))
  else
    let tag := !r.tag
    let w := s.readWeights (p.who n a) (p.wtAddr / 64) (weightReads (fmtClass pr.wtFmt) f)
    let b := makeBank pr.wtFmt w.1
    let r := w.2.array n a
    let s1 := w.2.setArray n a { r.setBank tag b with tag := tag, y := some f }
    let s2 := if b.colBad.any id || b.rowBad.any id then s1.raise (f_maArithEvent_invalid_operand n a) else s1
    -- instructions counted at their issue whose last output is not written on F (R71, R75)
    let ahead := (r.flights.filter fun u => u.counted && decide (f ≤ u.last)).length
    let s3 := (s2.fput (f_maLastHold_hold n a) (min hold 511)).fput (f_maLastHold_pass_index n a)
      (s2.fget (f_maPassCount_passes_lo n a) - ahead)
    let s4 := if tag then s3.fput (f_maStatus_bank1_format n a) pr.wtFmt else s3.fput (f_maStatus_bank0_format n a) pr.wtFmt
    (⟨a, p, pr, b, f, n⟩, (s4.fput (f_maStatus_current_tag n a) (b2n tag)).fput (f_maStatus_mode n a) (b2n p.trans))

/-- A scratchpad instruction's end: its count (R71), its completion (R47), its region uses (R153), its course. -/
def State.finishLane (s : State) (l : Lane) : State :=
  let last := l.outCycle (l.p.vectors - 1)
  let n := l.n
  let s := (s.maCount n l.a (f_maPassCount_passes_lo n l.a) 1).complete n (last + 1) l.p.done
  let r := l.book (s.array n l.a)
  let on := s.fbit (f_maCtrl_count_en n l.a)
  let fl := (r.flights.take 1).map (fun x => { x with counted := on }) ++ r.flights.drop 1
  let s := s.setArray n l.a { r with flights := fl }
  let s := s.useRegion n (.region (regionOf l.p.act).1 0 false) (l.readCycle (l.p.vectors - 1) + 1)
  let s := s.useRegion n (.region (regionOf l.p.out).1 0 false) (last + 1)
  let s := if readsScales l.prof then s.useRegion n (.region l.prof.actScaleRegion 0 false) (l.readCycle (l.p.vectors - 1) + 1) else s
  if l.prof.dyn then s.useRegion n (.region l.prof.outScaleRegion 0 false) (last + 1) else s

/-- Run one scratchpad instruction, or the two of a paired pass, once started. -/
def State.runLanes (s : State) (l : Lane) (m : Option Lane) : State :=
  let far := l.outCycle l.p.vectors + 16
  let who := l.p.who l.n l.a
  let head := s.headAsOf l.n (regionOf l.p.act).1 l.f
  let x := (List.range l.p.vectors).foldl (fun x v => runVector l m head x v)
    { s := s, q0 := [], q1 := [], bad0 := false, bad1 := false }
  let d0 := x.s.drainUpTo l far x.bad0 x.q0
  let s1 := d0.2.2.finishLane l
  let s2 := match m with
    | some m => ((s1.drainUpTo m far x.bad1 x.q1).2.2).finishLane m
    | none => s1
  s2.genFree who (operand (s2.core l.n) 0 l.p.act) (l.readCycle (l.p.vectors - 1))

/-- The mark of a region that array `a`'s streamed instruction uses, in place of the cycle of its end. -/
def streamMark (a : Nat) : Nat := 2 ^ 80 + a

/-- Start a streamed instruction: its front runs, and its slots wait for the horizon buffer (R61). -/
def State.startStream (s : State) (n a : Nat) (p : PassInst) (f hold : Nat) : State :=
  let l := s.startLane n a f hold p
  let s1 := l.2.fput (f_maStatus_streamed_active n a) 1
  let r := s1.array n a
  let s2 := s1.setArray n a { r with
    streamed := some l.1.p, slotEnd := f, profUse := (p.profile, p.issue, f) :: r.profUse,
    flights := ⟨f, f, f, r.tag, p.load, false, false⟩ :: r.flights }
  -- its regions are in use until its end (R153)
  let s3 := if bit p.out 15 then s2 else s2.useRegion n (.region (regionOf p.out).1 0 false) (streamMark a)
  let s4 := if readsScales l.1.prof then s3.useRegion n (.region l.1.prof.actScaleRegion 0 false) (streamMark a) else s3
  if l.1.prof.dyn then s4.useRegion n (.region l.1.prof.outScaleRegion 0 false) (streamMark a) else s4

/-- Launch one instruction on an array, `base` standing for I + 3 (R52 to R54): the fault it takes on F, or the state. -/
def State.launch (s : State) (n a : Nat) (p : PassInst) (base : Nat) : State :=
  let r := s.array n a
  let pr := parseProfile (mapGet (fun _ => 0) r.profiles p.profile)
  let f := startFrom r p.load base
  let hold := f - (p.issue + 3)
  match s.startCheck n r p pr with
  | some code => s.faultAt (p.who n a) code .instructionFault
  | none =>
    let s1 := s.pause n hold
    if p.streamed then s1.startStream n a p f hold
    else
      let l := s1.startLane n a f hold p
      l.2.runLanes l.1 none

/-- Launch a paired pass, both halves starting on one cycle (R63, R134). A half that fails its own check takes the fault at its
own position, the first half's coming first; halves of different classes fault at the first half (log entry 63). -/
def State.launchPair (s : State) (n a : Nat) (p q : PassInst) : State :=
  let b := 1 - a
  let ra := s.array n a
  let rb := s.array n b
  let pa := parseProfile (mapGet (fun _ => 0) ra.profiles p.profile)
  let pb := parseProfile (mapGet (fun _ => 0) rb.profiles q.profile)
  let f := max (startFrom ra p.load (max (p.issue + 3) ra.slotEnd)) (startFrom rb q.load (max (q.issue + 3) rb.slotEnd))
  let hold := f - (p.issue + 3)
  let mism := if fmtClass pa.actFmt ≠ fmtClass pb.actFmt then some (p.who n a, 0x06) else none
  match ((s.startCheck n ra p pa).map fun c => (p.who n a, c)).or
      (((s.startCheck n rb q pb).map fun c => (q.who n b, c)).or mism) with
  | some (who, code) => s.faultAt who code .instructionFault
  | none =>
    let la := (s.pause n hold).startLane n a f hold p
    let lb := la.2.startLane n b f hold q
    lb.2.runLanes la.1 (some lb.1)

/-- The early-issue fault of R54. -/
def State.earlyIssue (s : State) (n a cyc : Nat) (who : Who) : State :=
  let r := s.array n a
  if cyc + 3 < r.slotEnd || r.streamed.isSome then s.tgFault who 0x03 0 0 false cyc else s

/-- PASS (R47 to R66, R132 to R134). The upsets are errors of partials the outside world brings (R105, R106). -/
def execPass (core : Fin 8) (w : IWord) (upsets : List Upset) (s : State) :
    Host.Outcome State Fault Refusal :=
  let n := core.val
  let a := if fld w 11 8 = 2 then 1 else 0
  match s.issue n w (1 + a) 0x00 with
  | .none => .next s
  | .fault s' => .next s'
  | .go cyc who s1 =>
    match s.parsePass n a cyc w (s.pos n) upsets with
    | .error code => .next (s.decodeFault n (1 + a) code)
    | .ok p =>
      let s2 := s1.earlyIssue n a cyc who
      match (s.core n).half with
      | some (b, q) =>
        if bits q.act 15 0 ≠ bits p.act 15 0 ∨ q.vectors ≠ p.vectors ∨ q.trans ≠ p.trans then
          .next (s.faultAt (q.who n b) 0x06 .instructionFault)
        else
          let c := s2.core n
          let s3 := (s2.setCore n { c with half := none }).advance n
          if (s.array n b).streamed.isSome ∨ (s.array n a).streamed.isSome then
            -- held until the streamed instruction completes (R54)
            let c := s3.core n
            let s4 := s3.setCore n { c with paused := true }
            .next ((s4.setArray n b { s4.array n b with heldPass := some q }).setArray n a
              { s4.array n a with heldPass := some p })
          else .next (s3.launchPair n b q p)
      | none =>
        if p.paired then
          let c := s2.core n
          .next ((s2.setCore n { c with half := some (a, p) }).advance n)
        else
          let s3 := s2.advance n
          let r := s3.array n a
          if r.streamed.isSome then
            let c := s3.core n
            .next ((s3.setCore n { c with paused := true }).setArray n a { r with heldPass := some p })
          else .next (s3.launch n a p (max (cyc + 3) r.slotEnd))

/-- PROFILE_LOAD (R135, R136). -/
def execProfileLoad (core : Fin 8) (w : IWord) (s : State) : Host.Outcome State Fault Refusal :=
  let n := core.val
  let a := if fld w 11 8 = 2 then 1 else 0
  let pn := fld w 27 24
  match s.issue n w (1 + a) 0x01 with
  | .none => .next s
  | .fault s' => .next s'
  | .go cyc who s1 =>
    match addrOnly (operand (s.core n) cyc (fld w 43 28)) 32 with
    | none => .next (s.decodeFault n (1 + a) 0x07)
    | some off =>
      let d := s1.sRead who (cyc + 1) (off / 64) rankDesc
      let r := d.2.array n a
      let busy := r.profUse.any fun u => u.1 == pn && decide (u.2.1 < cyc) && decide (cyc < u.2.2)
      let held := r.heldPass.any fun h => h.profile == pn
      let s2 := if busy || held then d.2.tgFault who 0x03 0 0 false cyc else d.2
      let r := s2.array n a
      let s3 := s2.setArray n a { r with
        profiles := mapSet (fun _ => 0) r.profiles pn (BitVec.ofNat 256 (leNat (d.1.take 32))),
        idleAt := max r.idleAt (cyc + 3) }
      .next (s3.advance n)

/-- TABLE_LOAD (R98, R99). -/
def execTableLoad (core : Fin 8) (w : IWord) (s : State) : Host.Outcome State Fault Refusal :=
  let n := core.val
  let a := if fld w 11 8 = 2 then 1 else 0
  let slot := fld w 25 24
  let mask := fld w 27 26
  match s.issue n w (1 + a) 0x02 with
  | .none => .next s
  | .fault s' => .next s'
  | .go cyc who s1 =>
    match addrOnly (operand (s.core n) cyc (fld w 43 28)) 2112 with
    | none => .next (s.decodeFault n (1 + a) 0x07)
    | some off =>
      if mask = 0 then .next (s.decodeFault n (1 + a) 0x07)
      else
        let d := s1.sReads who (off / 64) rankDesc ((List.range 33).map fun i => cyc + 1 + i)
        let r := d.2.array n a
        let pend := fun drain (o : Option PassInst) => o.any fun p =>
          let pr := parseProfile (if p.record = 0 then mapGet (fun _ => 0) r.profiles p.profile else p.record)
          pr.tableEn && pr.table == slot && p.trans == (drain == 1)
        let names := fun drain => bit mask drain && ((r.tabUse.any fun u =>
          u.1 == slot + 4 * drain && decide (cyc ≤ u.2)) || pend drain r.streamed || pend drain r.heldPass)
        let s2 := if names 0 || names 1 then
            (d.2.tgFault who 0x03 0 0 false cyc).raise (f_maArithEvent_table_conflict n a)
          else d.2
        let r := s2.array n a
        let put := fun (t : Sparse (List Byte)) drain =>
          if bit mask drain then mapSet (fun _ => []) t (slot + 4 * drain) d.1 else t
        let s3 := s2.setArray n a { r with tables := put (put r.tables 0) 1, idleAt := max r.idleAt (cyc + 34) }
        .next (s3.advance n)

/-! Streamed instructions. -/

/-- Read vector `v` of a streamed instruction from the horizon buffer and its scales from their region (R61, R79, R190):
whether its data is poisoned. -/
def State.streamVector (s : State) (l : Lane) (v cyc : Nat) : (List Byte × List Byte) × Bool × State :=
  let b := actBytes l.cls l.p.trans
  let line := (l.p.actAddr + v * b) / 64
  let rd := (List.range (linesFor (b + (l.p.actAddr + v * b) % 64))).foldl
    (fun (x : List Byte × Bool × State) i =>
      let h := x.2.2.hbRead (line + i) l.n
      (x.1 ++ h.1, x.2.1 || h.2.1, h.2.2)) ([], false, s)
  let act := (rd.1.drop ((l.p.actAddr + v * b) % 64)).take b
  if !readsScales l.prof then ((act, []), rd.2.1, rd.2.2)
  else
    let who := l.p.who l.n l.a
    let r := l.prof.actScaleRegion
    let slot := (rd.2.2.head l.n r + v) % rd.2.2.slotCount l.n r
    let sc := rd.2.2.readSlot who r slot cyc (rankActs l.a) 1 false
    ((act, sc.1), rd.2.1, sc.2)

/-- Run the vectors `vs` of a streamed instruction, the last one written on the cycle before `fin`; stops before a vector
whose data is poisoned. -/
def State.streamRun (s : State) (l : Lane) (fin : Nat) (seen : Bool) : List Nat → Bool × State
  | [] => (false, s)
  | v :: t =>
    let cyc := fin - 1 - t.length
    let x := s.streamVector l v cyc
    if x.2.1 then (true, x.2.2)
    else
      let r := x.2.2.writeVector l v cyc x.1.1 x.1.2
      let s1 := if r.1 && !seen then
          (r.2.report 1 (2 * l.n + l.a) 0x0003 (bits (r.2.rd (f_maResidueLog_valid l.n l.a).off).toNat 15 0)).cond .residue false
        else r.2
      s1.streamRun l fin (seen || r.1) t

/-- What held for a streamed instruction goes on: a held pass starts (R54), a STEP_END that waits may end. -/
def State.afterStream (s : State) (n a cyc : Nat) : State :=
  let r := s.array n a
  match r.heldPass with
  | none => s
  | some p =>
    let other := s.array n (1 - a)
    if p.paired && other.streamed.isSome then s
    else
      let c := s.core n
      let s1 := (s.setCore n { c with paused := false }).setArray n a { r with heldPass := none }
      match (if p.paired then other.heldPass else none) with
      | some q =>
        let s2 := s1.setArray n (1 - a) { s1.array n (1 - a) with heldPass := none, slotEnd := max cyc other.slotEnd }
        (s2.setArray n a { s2.array n a with slotEnd := max cyc r.slotEnd }).launchPair n a p q
      | none => s1.launch n a p (max cyc (max (p.issue + 3) r.slotEnd))

/-- The lane of a streamed instruction as it stands. -/
def State.streamLane (s : State) (n a : Nat) (p : PassInst) : Lane :=
  let r := s.array n a
  ⟨a, p, parseProfile p.record, r.bank r.tag, 0, n⟩

/-- Cycles from a vector's last slot to the cycle after its output is written (R57). -/
def Lane.depth (l : Lane) : Nat := 512 + l.d

/-- A streamed instruction ends on cycle `cyc`, whole or abandoned: counters, X_t, its completion (R61, R62, R71 to R74). -/
def State.endStream (s : State) (n a cyc dry backup : Nat) (p : PassInst) : State :=
  let r := s.array n a
  let fin := cyc - ((s.streamLane n a p).depth - 1)
  let r1 := if r.tag then { r with x1 := some fin } else { r with x0 := some fin }
  let s1 := s.setArray n a { r1 with streamed := none, slotEnd := fin, idleAt := max r.idleAt (cyc + 1),
                                     flights := r.flights.filter fun u => u.last != u.start }
  let c := s1.core n
  let s1 := s1.setCore n { c with regionUse := c.regionUse.map fun u => if u.2 = streamMark a then (u.1, cyc) else u }
  let s2 := (s1.fput (f_maStatus_streamed_active n a) 0).maCount n a (f_maPassCount_passes_lo n a) 1
  let s3 := (s2.maCount n a (f_maDryCycles_dry_lo n a) dry).maCount n a (f_maBackupCycles_backup_lo n a) backup
  (s3.complete n cyc p.done).afterStream n a cyc

/-- The event of an abandoned streamed instruction: its flag and its sediment entry (R62, R596, R602). -/
def State.abandonEvent (s : State) (n a : Nat) (poisoned : Bool) : State :=
  let s1 := if poisoned then s.flag (f_maEvent_hb_uncorrectable n a) else s.flag (f_maEvent_stream_abandoned n a)
  let s2 := s1.sediment' 0x10 (2 * n + a) 0x0004 (b2n poisoned)
  s2.cond (if poisoned then .uncorrectable else .streamAbandoned) false

/-- A STEP_END that waits for the mover or a streamed pass ends its wait once everything is idle (R123, R153). -/
def State.stepEndRetry (s : State) (n cyc : Nat) : State :=
  let c := s.core n
  match c.stepEndAt with
  | none => s
  | some _ =>
    if c.queue.isEmpty && (s.array n 0).streamed.isNone && (s.array n 1).streamed.isNone &&
        !(c.gens.any fun g => g.2.bound) && s.coreState n == 1 then s.boundary n (max cyc (s.idleCycle n))
    else s

/-- The start cycle of the streamed instruction of an array. -/
def State.streamStart (s : State) (n a : Nat) : Nat :=
  (((s.array n a).flights.find? fun u => u.last == u.start).map (·.start)).getD 0

/-- The end of a streamed instruction's event on its core's cycle axis, `done` of its vectors being written: no earlier than
their slots allow (R57, R61). -/
def State.streamEnd (s : State) (n a cycles done : Nat) (p : PassInst) : Nat :=
  let l := s.streamLane n a p
  let st := s.streamStart n a
  max ((s.core n).ref + cycles) (if done = 0 then st else st + l.slotOf (done - 1) + l.depth)

/-- The no-progress limit of an array (R62, R70). -/
def State.streamLimit (s : State) (n a : Nat) : Nat := max (s.fget (f_maStreamLimit_limit_cycles n a)) 0x10000

/-- STREAMED_PASS_COMPLETE (R61): the vectors, or as many as come before poisoned data (R62). None comes while the core or
the fabric stands stopped (R565). -/
def execStreamedPassComplete (core : Fin 8) (arr : Fin 2) (cycles dry backup : Nat) (s : State) :
    Host.Outcome State Fault Refusal :=
  let n := core.val
  let a := arr.val
  match (s.array n a).streamed with
  | none => .next s
  | some p =>
    if s.coreStopped n || s.stopped 4 then .next s
    else
      let fin := s.streamEnd n a cycles p.vectors p
      let r := s.streamRun (s.streamLane n a p) fin false (List.range p.vectors)
      let s1 := if r.1 then r.2.abandonEvent n a true else r.2
      .next ((s1.endStream n a fin dry backup p).stepEndRetry n fin)

/-- STREAM_ABANDONED (R62): `written` vectors were written; the rest are discarded, and the completion is signalled. The
cause is an uncorrectable read, or the limit of R70, which cannot have passed before as many cycles since the start. -/
def execStreamAbandoned (core : Fin 8) (arr : Fin 2) (cycles written dry backup : Nat) (poisoned : Bool) (s : State) :
    Host.Outcome State Fault Refusal :=
  let n := core.val
  let a := arr.val
  match (s.array n a).streamed with
  | none => .next s
  | some p =>
    let k := min written (p.vectors - 1)
    let fin := s.streamEnd n a cycles k p
    if s.coreStopped n || (!poisoned && decide (fin < s.streamStart n a + s.streamLimit n a)) then .next s
    else
      let r := s.streamRun (s.streamLane n a p) fin false (List.range k)
      .next (((r.2.abandonEvent n a (poisoned || r.1)).endStream n a fin dry backup p).stepEndRetry n fin)

/-! Clearing and counters. -/

/-- Whether an array has a pass in flight or an instruction pending (R66). -/
def State.arrayBusy (s : State) (n a : Nat) : Bool :=
  let r := s.array n a
  r.streamed.isSome || r.heldPass.isSome || (!s.halted n && decide ((s.core n).ref < r.idleAt))

/-- Start bank clearing, or refuse it (R66). -/
def State.maClear (s : State) (n a : Nat) : State :=
  if s.arrayBusy n a then s.raise (f_maEvent_clear_refused n a)
  else (s.fput (f_maCtrl_clear_banks n a) 1).fput (f_maStatus_clearing n a) 1

/-- Bank clearing done: the state of R66, the profiles and tables kept. -/
def State.maCleared (s : State) (n a : Nat) : State :=
  let r := s.array n a
  let s1 := s.setArray n a { ArrRt.reset with profiles := r.profiles, tables := r.tables }
  let s2 := (s1.fput (f_maCtrl_clear_banks n a) 0).fput (f_maStatus_clearing n a) 0
  ((s2.fput (f_maStatus_current_tag n a) 1).fput (f_maStatus_bank0_format n a) 0).fput (f_maStatus_bank1_format n a) 0

/-- Zero the four counters (R67). -/
def State.maCountReset (s : State) (n a : Nat) : State :=
  let r := s.array n a
  let s := s.setArray n a { r with flights := r.flights.map fun u => { u with counted := false } }
  (((s.fput64 (f_maPassCount_passes_lo n a) 0).fput64 (f_maHoldCycles_hold_lo n a) 0).fput64
    (f_maDryCycles_dry_lo n a) 0).fput64 (f_maBackupCycles_backup_lo n a) 0

/-- Zero MA_SAT_COUNT and MA_INVALID_COUNT (R108). -/
def State.maCountsClear (s : State) (n a : Nat) : State :=
  (s.wr (f_maSatCount_sat n a).off 0).wr (f_maInvalidCount_invalid n a).off 0

/-- MA_CLEAR_BANKS (R66). -/
def execMaClearBanks (core : Fin 8) (arr : Fin 2) (s : State) : Host.Outcome State Fault Refusal :=
  .next (s.maClear core.val arr.val)

/-- MA_CLEAR_DONE (R66). -/
def execMaClearDone (core : Fin 8) (arr : Fin 2) (s : State) : Host.Outcome State Fault Refusal :=
  .next (if s.fbit (f_maStatus_clearing core.val arr.val) && !s.coreStopped core.val then s.maCleared core.val arr.val else s)

/-- MA_COUNT_RESET (R67). -/
def execMaCountReset (core : Fin 8) (arr : Fin 2) (s : State) : Host.Outcome State Fault Refusal :=
  .next (s.maCountReset core.val arr.val)

/-- MA_COUNTS_CLEAR (R108). -/
def execMaCountsClear (core : Fin 8) (arr : Fin 2) (s : State) : Host.Outcome State Fault Refusal :=
  .next (s.maCountsClear core.val arr.val)

end Sys2Proof.Machine
end

