-- ==== Sys2Proof/Machine/Lpddr.lean ====
section
/-! DEFINITION. LPDDR as its users see it: the populated capacity (R438, R440, R441), reads and writes under a key slot
(R541, R542), and the host window's translation (R505). -/

namespace Sys2Proof.Machine

/-- Where LPDDR, the host window and the ring peer windows begin in device address space (R643). -/
def lpBase : Nat := 0x001000000000
def hostBase : Nat := 0x004000000000
def peerBase : Nat := 0x008000000000

/-- GiB per channel of a density code (R438). -/
def densityGiB (code : Nat) : Nat := if code ≤ 4 then code else 0

/-- The density code of package j (R463). -/
def State.density (s : State) (j : Nat) : Nat := bits (s.fget f_mcConfig_density) (3 * j + 2) (3 * j)

/-- The populated LPDDR in bytes (R438, R441). -/
def State.lpCapacity (s : State) : Nat :=
  let g := (List.range 6).foldl (fun a j => a + 4 * densityGiB (s.density j)) 0
  if s.fbit f_mcCtrl_inline_ecc then g * 0x40000000 * 7 / 8 else g * 0x40000000

/-- The smaller and the larger per-channel capacity of the population in bytes, and the packages of the larger (R438). -/
def State.lpShape (s : State) : Nat × List Nat :=
  let g := (List.range 6).map fun j => densityGiB (s.density j)
  let lo := g.foldl min (g.headD 0)
  (lo * 0x40000000, (List.range 6).filter fun j => lo < densityGiB (s.density j))

/-- Where the controller places an LPDDR device address: channel, bank, row, and byte in the page (R440, R441). -/
def State.lpPlace (s : State) (addr : Nat) : Nat × Nat × Nat × Nat :=
  let a := addr - lpBase
  let inl := s.fbit f_mcCtrl_inline_ecc
  let sh := s.lpShape
  let clo := if inl then sh.1 * 7 / 8 else sh.1
  let chans := (sh.2.map fun j => (List.range 4).map fun k => 4 * j + k).flatten
  let p : Nat × Nat :=
    if a < 24 * clo ∨ chans.isEmpty then (a / 256 % 24, a / 256 / 24 * 256 + a % 256)
    else
      let a1 := a - 24 * clo
      (chans.getD (a1 / 256 % chans.length) 0, clo + a1 / 256 / chans.length * 256 + a1 % 256)
  let ca := if inl then p.2 / 1792 * 2048 + p.2 % 1792 else p.2
  (p.1, bits ca 14 11 ^^^ bits ca 18 15, bits ca 31 15, ca % 2048)

/-- The tag a line is written under with the key of a slot; 0 stands for a line never written. -/
def State.keyTag (s : State) (slot : Nat) : Nat :=
  1 + slot + 64 * mapGet (fun _ => 0) s.slotGen slot + 2 ^ 40 * s.mc.era

/-- The tag of a line that holds package data, which every party reads (log entry 14). -/
def packageTag : Nat := 2 ^ 60

/-- Whether a line that no port has written holds what it held at power-on: LPDDR has not been left undefined (R454), and
no training pattern stands in it (R459). -/
def State.lpFresh (s : State) (a : Nat) : Bool :=
  let p := s.lpPlace a
  let ca := p.2.2.1 * 2 ^ 15 + bits (p.2.1 ^^^ p.2.2.1 % 16) 3 0 * 2048 + p.2.2.2
  s.mc.era == 0 && decide ((mapGet (fun _ => (0, 0, 0)) s.mc.pattern p.1).2.2 ≤ ca / 64)

/-- One byte of LPDDR read under a tag (R541). -/
def State.lpByte (s : State) (tag a : Nat) : Byte :=
  let t := mapGet (fun _ => 0) s.lineTag (a / 64)
  if t = tag ∨ t = packageTag ∨ (t = 0 ∧ s.lpFresh a = true) then s.byte a else Config.unrelated a t tag

/-- Bytes of LPDDR read under a slot's key. -/
def State.lpBytes (s : State) (slot a n : Nat) : List Byte := (List.range n).map fun i => s.lpByte (s.keyTag slot) (a + i)

/-- Store bytes inside one line under a tag; the words the write does not select are merged (R541). -/
def State.lpStoreLine (s : State) (tag a : Nat) (d : List Byte) : State :=
  let line := a / 64 * 64
  let t := mapGet (fun _ => 0) s.lineTag (a / 64)
  let s1 := if t = tag ∨ t = packageTag ∨ (t = 0 ∧ s.lpFresh a = true) then s else s.setBytes line ((List.range 64).map fun i => Config.unrelated (line + i) t tag)
  let s2 := { s1 with lineTag := mapSet (fun _ => 0) s1.lineTag (a / 64) tag }
  { s2.setBytes a d with ecc := mapDrop (fun k => a ≤ 8 * k + 7 && 8 * k < a + d.length) s2.ecc }

/-- Store bytes in LPDDR under a slot's key, line by line. -/
def State.lpStore (s : State) (slot a : Nat) (d : List Byte) : State :=
  let first := 64 - a % 64
  let s1 := if d.isEmpty then s else s.lpStoreLine (s.keyTag slot) a (d.take first)
  ((chunks 64 (d.drop first)).foldl (fun (p : State × Nat) c => (p.1.lpStoreLine (s.keyTag slot) p.2 c, p.2 + 64))
    (s1, a + first)).1

/-- The host bus address that a host-window offset reaches, refused where the entry is not valid, or not writable for a
write, or the offset lies beyond the window (R505). -/
def State.hostWindow (s : State) (o : Nat) (write : Bool) : Option Nat :=
  let i := o / 0x200000
  if 0x200000000 ≤ o ∨ !s.fbit (f_hiHostwin_valid i) ∨ (write && !s.fbit (f_hiHostwin_write_en i)) then none
  else some (s.fget (f_hiHostwin_addr_lo i) * 0x200000 + s.fget (f_hiHostwin_addr_hi i) * 2 ^ 32 + o % 0x200000)

/-- The key slot of a core's requests (R542). -/
def State.coreSlot (s : State) (n : Nat) : Nat := s.fget (f_scCoreSlot_key_slot n)

/-- What follows a checked read of one LPDDR line that met errors, for a requesting port (R454). -/
def State.mcEccEffects (s : State) (a port : Nat) (r : LineRead) : State :=
  let pl := s.lpPlace a
  let s := match r.corrected with
    | [] => s
    | _ =>
      let s := (s.flag f_mcEvent_inline_corrected).fsat f_mcCorrCount_inline r.corrected.length
      (s.report 5 pl.1 0x0001 r.corrected.length).writeBack a r
  match r.bad with
  | [] => s
  | (w, syn) :: _ =>
    let s := s.flag f_mcEvent_uncorrectable
    let s := if s.fbit f_mcErrLog_valid then s else
      let s := (s.fput f_mcErrLog_channel pl.1).fput f_mcErrLog_bank pl.2.1
      let s := (s.fput f_mcErrLog_row pl.2.2.1).fput f_mcErrLog_link 0
      let s := (s.fput f_mcErrLog_valid 1).fput f_mcErrLog_port port
      ((s.fput f_mcErrLog_line (pl.2.2.2 / 64)).fput f_mcErrLog_word w).fput f_mcErrLog_syndrome syn
    s.report 5 pl.1 0x0002 0

/-- Read bytes of LPDDR under a key slot for a port: data, whether a word was uncorrectable, and the state (R454, R541). -/
def State.lpRead (s : State) (slot a n port : Nat) : List Byte × Bool × State :=
  let d := s.lpBytes slot a n
  if !s.fbit f_mcCtrl_inline_ecc then (d, false, s)
  else
    let x := (List.range (ceilDiv (a % 64 + n) 64)).foldl (fun (x : Bool × State) i =>
      let l := a / 64 * 64 + 64 * i
      let r := x.2.readLine l
      if r.corrected.isEmpty && r.bad.isEmpty then x else (x.1 || !r.bad.isEmpty, x.2.mcEccEffects l port r)) (false, s)
    (d, x.1, x.2)

end Sys2Proof.Machine
end

