-- ==== Sys2Proof/Machine/Host.lean ====
section
/-! DEFINITION. What the firmware writes for the driver: completion entries and events on the rings in LPDDR (R486 to R490,
R500, R502), and the MSI-X vectors it raises (R489). -/

namespace Sys2Proof.Machine

/-- Ring pair `q` as the firmware keeps it; 16 is the event ring. -/
def State.pair (s : State) (q : Nat) : RpRt := mapGet (fun _ => RpRt.reset) s.host.pairs q

def State.setPair (s : State) (q : Nat) (x : RpRt) : State :=
  { s with host := { s.host with pairs := mapSet (fun _ => RpRt.reset) s.host.pairs q x } }

/-- N of a ring (R492). -/
def State.ringSize (s : State) (q : Nat) : Nat :=
  let l := s.fget (f_rpCfg_log2_n q)
  if 4 ≤ l ∧ l ≤ 12 then 2 ^ l else 16

/-- Base addresses of the two queues of a pair (R491). -/
def State.sqBase (s : State) (q : Nat) : Nat := s.fget (f_rpBase_addr_lo q 0) * 64 + s.fget (f_rpBase_addr_hi q 0) * 2 ^ 32
def State.cqBase (s : State) (q : Nat) : Nat := s.fget (f_rpBase_addr_lo q 1) * 64 + s.fget (f_rpBase_addr_hi q 1) * 2 ^ 32

/-- Raise an MSI-X vector: sent, or pending where its table entry masks it. -/
def State.msix (s : State) (v : Nat) : State :=
  let ctl := 0x40F0000 + 16 * v + 12
  if bit (s.rd ctl).toNat 0 then
    let a := 0x40F8000 + 4 * (v / 32)
    s.wr a (BitVec.ofNat 32 ((s.rd a).toNat ||| 2 ^ (v % 32)))
  else s.emit (.msix v)

/-- Raise a ring's vector and count its completions anew. -/
def State.raiseRing (s : State) (q : Nat) : State :=
  (s.setPair q { s.pair q with unraised := 0 }).msix (s.fget (f_rpCfg_vector q))

/-- Write the next entry of a completion queue or of the event ring: 63 bytes, then the phase (R488), and raise the vector
where R489 asks for it now; `force` is the descriptor's interrupt flag. -/
def State.cqWrite (s : State) (q : Nat) (d : List Byte) (force : Bool) : State :=
  let n := s.ringSize q
  let c := s.fget (f_rpIndex_cq_tail q)
  let phase := 1 - c / n % 2
  let line := (d ++ zeros 63).take 63 ++ [BitVec.ofNat 8 (128 * phase)]
  let s1 := (s.lpStore 0 (s.cqBase q + 64 * (c % n)) line).fput (f_rpIndex_cq_tail q) ((c + 1) % 2 ^ 32)
  let x := s1.pair q
  let k := x.unraised + 1
  let s2 := s1.setPair q { x with unraised := k }
  let coalesce := bit s.host.granted 0
  let cnt := if coalesce then max 1 (s.fget (f_rpIrq_count q)) else 1
  let tm := if coalesce then s.fget (f_rpIrq_timer_us q) else 0
  if force || tm == 0 || decide (cnt ≤ k) then s2.raiseRing q else s2

/-- Entries of a queue the driver has not returned. -/
def State.cqUsed (s : State) (q : Nat) : Nat := (s.fget (f_rpIndex_cq_tail q) + 2 ^ 32 - (s.pair q).consumer) % 2 ^ 32

/-- An event entry (R502). -/
def eventEntry (type ring seq time : Nat) (payload : List Byte) : List Byte :=
  leBytes 2 type ++ leBytes 1 ring ++ zeros 1 ++ leBytes 4 seq ++ leBytes 8 time ++ (payload ++ zeros 40).take 40 ++ zeros 7

/-- Write one event with the next sequence number. -/
def State.eventWrite (s : State) (type ring : Nat) (payload : List Byte) : State :=
  let s1 := s.cqWrite 16 (eventEntry type ring s.host.evSeq s.devTime.toNat payload) false
  { s1 with host := { s1.host with evSeq := (s1.host.evSeq + 1) % 2 ^ 32 } }

/-- Write one event, or count it lost when the event ring is full (R490); the next event written after a loss is
EVENTS_LOST. -/
def State.eventOne (s : State) (type ring : Nat) (payload : List Byte) : State :=
  let full := fun (s : State) => decide (s.ringSize 16 ≤ s.cqUsed 16)
  let lose := fun (s : State) => { s with host := { s.host with evLost := s.host.evLost + 1 } }
  if full s then lose s
  else
    let s1 := if s.host.evLost = 0 then s
      else
        let t := s.eventWrite 1 0xFF (leBytes 4 s.host.evLost)
        { t with host := { t.host with evLost := 0 } }
    if full s1 then lose s1 else s1.eventWrite type ring payload

/-- Write the events of RAS that wait. Nothing is written before the event ring is enabled: such events are not kept. -/
def State.drainEvents (s : State) : State :=
  let q := s.host.evQueue
  let s1 := { s with host := { s.host with evQueue := [] } }
  if !s.fbit (f_rpCfg_enable 16) then s1 else q.foldl (fun s e => s.eventOne e.1 e.2.1 e.2.2) s1

/-- An event for the driver (R490, R502). -/
def State.event (s : State) (type ring : Nat) (payload : List Byte) : State :=
  let s1 := s.drainEvents
  if !s1.fbit (f_rpCfg_enable 16) then s1 else s1.eventOne type ring payload

/-- A LIMIT event (R578): at the start of an episode of a kind and unit, at most one in 10 ms of each; `active` says whether
the episode goes on. -/
def State.limitEvent (s : State) (kind unit value : Nat) (active : Bool) : State :=
  let key := kind * 256 + unit
  let at_ := fun k => mapGet (fun _ => 0) s.clk.limits k
  let put := fun (s : State) k v => { s with clk := { s.clk with limits := mapSet (fun _ => 0) s.clk.limits k v } }
  if !active then put s (key + 0x10000) 0
  else if at_ (key + 0x10000) ≠ 0 then s
  else
    let now := s.devTime.toNat + 1
    let s1 := put s (key + 0x10000) 1
    if at_ key ≠ 0 ∧ now < at_ key + 10000000 then s1
    else (put s1 key now).event 0x70 0xFF (leBytes 1 kind ++ leBytes 1 unit ++ leBytes 4 value)

/-- A LIMIT event whose episode is one moment. -/
def State.limitOnce (s : State) (kind unit value : Nat) : State :=
  (s.limitEvent kind unit value true).limitEvent kind unit value false

/-- Status codes (R501). -/
def stSuccess : Nat := 0x00
def stInvalidField : Nat := 0x01
def stUnsupported : Nat := 0x02
def stWrongRing : Nat := 0x03
def stNotOpen : Nat := 0x04
def stBusy : Nat := 0x05
def stVersionMismatch : Nat := 0x06
def stPackageInvalid : Nat := 0x10
def stContractMismatch : Nat := 0x11
def stNoPackage : Nat := 0x12
def stPoolExhausted : Nat := 0x13
def stContextLimit : Nat := 0x14
def stStopped : Nat := 0x20
def stAborted : Nat := 0x21
def stUnitFailed : Nat := 0x36
def stVideoCapacity : Nat := 0x50
def stVideoFault : Nat := 0x51
def stTrainingFailed : Nat := 0x60
def stSealRejected : Nat := 0x70
def stSideportNak : Nat := 0x80
def stSideportTimeout : Nat := 0x81

/-- What a completion carries beside the descriptor's own fields (R500). -/
structure Done where
  status : Nat
  flags : Nat
  fallback : Nat
  result0 : Nat
  result1 : Nat
  deriving DecidableEq, Repr

def Done.of (status : Nat) : Done := ⟨status, 0, 0xFFFFFFFF, 0, 0⟩

/-- Bytes of a taken descriptor. -/
def Taken.field (t : Taken) (off n : Nat) : Nat := fieldAt t.desc off n
def Taken.opcode (t : Taken) : Nat := t.field 0 1
def Taken.tag (t : Taken) : Nat := t.field 4 4

/-- Complete a taken descriptor of ring `q` (R488, R500): its entry, and it leaves the taken list; a pair being disabled
whose last descriptor completes reads disabled (R486). -/
def State.completeTaken (s : State) (q : Nat) (t : Taken) (d : Done) : State :=
  let x := s.pair q
  let rest := x.taken.filter fun u => u.index != t.index
  let s1 := s.setPair q { x with taken := rest }
  let e := leBytes 4 t.tag ++ leBytes 2 d.status ++ leBytes 2 d.flags ++ leBytes 4 t.index ++ leBytes 1 q ++
    leBytes 1 t.opcode ++ zeros 2 ++ leBytes 4 d.fallback ++ zeros 4 ++ leBytes 8 t.start ++ leBytes 8 s.devTime.toNat ++
    leBytes 8 d.result0 ++ leBytes 8 d.result1
  let s2 := s1.cqWrite q e (bit (t.field 1 1) 0)
  if x.disabling && rest.isEmpty then (s2.setPair q { s2.pair q with disabling := false }).fput (f_rpCfg_enable q) 0 else s2

/-- The background command of an opcode in progress on the admin ring (R499). -/
def State.bgTaken (s : State) (op : Nat) : Option Taken := (s.pair 0).taken.find? fun t => t.begun && t.opcode == op

/-- Complete it. -/
def State.bgDone (s : State) (op : Nat) (d : Done) : State :=
  match s.bgTaken op with
  | some t => s.completeTaken 0 t d
  | none => s

/-- Store bytes at an address that a descriptor names: LPDDR under slot 0, or host memory through the host window (R485,
R496, R505). -/
def State.areaWrite (s : State) (a : Nat) (d : List Byte) : State :=
  if hostBase ≤ a then
    match s.hostWindow (a - hostBase) true with
    | some b => s.emit (.hostWrite b d)
    | none => s.raise f_hiEvent_outbound_refused
  else s.lpStore 0 a d

/-- Read bytes at an address that a descriptor names; `host` is what the host's memory answers, in the order of the reads
(bytes it lacks read 0). -/
def State.areaRead (s : State) (host : List Byte) (a n : Nat) : List Byte × List Byte :=
  if hostBase ≤ a then ((host ++ zeros n).take n, host.drop n) else (s.lpBytes 0 a n, host)

/-- RING_ERROR (R502). -/
def State.ringError (s : State) (q kind value : Nat) : State :=
  s.event 2 q (leBytes 4 q ++ leBytes 4 kind ++ leBytes 4 value)

end Sys2Proof.Machine
end

