-- ==== Sys2Proof/Machine/Ffc.lean ====
section
/-! DEFINITION. Fixed-rate feature compression (R217 to R221), bit for bit. -/

namespace Sys2Proof.Machine

/-- The signed value of an element (R218). -/
def ffcSigned (uns : Bool) (b : Byte) : Int := if uns then (b.toNat : Int) - 128 else sext 8 b.toNat

/-- The element of a decoded value (R221). -/
def ffcElem (uns : Bool) (v : Int) : Byte := BitVec.ofNat 8 (toTwos 8 (if uns then v + 128 else v))

def ffcHalf (k : Nat) : Nat := if k = 0 then 0 else 2 ^ (k - 1)

/-- The smallest shift up to `top` that brings the range down to `lim`. -/
def ffcShift (r lim top : Nat) : Nat :=
  ((List.range (top + 1)).find? fun k => decide ((r + ffcHalf k) / 2 ^ k ≤ lim)).getD top

def listMin (l : List Int) : Int := l.foldl min (l.headD 0)
def listMax (l : List Int) : Int := l.foldl max (l.headD 0)

/-- One 2:1 quadrant as 64 bits (R219). -/
def ffcQuadrant (q : List Int) : Nat :=
  let b := listMin q
  let k := ffcShift (listMax q - b).toNat 7 7
  let c := q.map fun v => ((v - b).toNat + ffcHalf k) / 2 ^ k % 8
  toTwos 8 b + 2 ^ 8 * k + (c.foldr (fun v a => v + 8 * a) 0) * 2 ^ 11

/-- The element index of place t of quadrant j (R219). -/
def quadIndex (j t : Nat) : Nat := 8 * (4 * (j / 2) + t / 4) + 4 * (j % 2) + t % 4

/-- A 2:1 block of 32 B from the 64 signed values of a tile. -/
def ffcEncode2 (s : List Int) : List Byte :=
  ((List.range 4).map fun j => leBytes 8 (ffcQuadrant ((List.range 16).map fun t => s.getD (quadIndex j t) 0))).flatten

/-- A 4:1 block of 16 B (R220). -/
def ffcEncode4 (s : List Int) : List Byte :=
  let m := (List.range 16).map fun j =>
    let r0 := 2 * (j / 4)
    let c0 := 2 * (j % 4)
    (s.getD (8 * r0 + c0) 0 + s.getD (8 * r0 + c0 + 1) 0 + s.getD (8 * (r0 + 1) + c0) 0 +
      s.getD (8 * (r0 + 1) + c0 + 1) 0 + 2) / 4
  let b := listMin m
  let k := ffcShift (listMax m - b).toNat 127 3
  let c := m.map fun v => ((v - b).toNat + ffcHalf k) / 2 ^ k % 128
  leBytes 16 (toTwos 8 b + 2 ^ 8 * k + (c.foldr (fun v a => v + 128 * a) 0) * 2 ^ 10)

/-- The 64 signed values of a decoded 2:1 block (R221). -/
def ffcDecode2 (d : List Byte) : List Int :=
  (List.range 64).map fun i =>
    let r := i / 8
    let c := i % 8
    let j := 2 * (r / 4) + c / 4
    let t := 4 * (r % 4) + c % 4
    let q := fieldAt d (8 * j) 8
    min 127 (sext 8 (q % 256) + ((bits q (13 + 3 * t) (11 + 3 * t) * 2 ^ bits q 10 8 : Nat) : Int))

/-- The 64 signed values of a decoded 4:1 block (R221). -/
def ffcDecode4 (d : List Byte) : List Int :=
  (List.range 64).map fun i =>
    let j := 4 * (i / 16) + i % 8 / 2
    let q := leNat (d.take 16)
    min 127 (sext 8 (q % 256) + ((bits q (16 + 7 * j) (10 + 7 * j) * 2 ^ bits q 9 8 : Nat) : Int))

/-- Encode the 64 elements of one tile at a ratio (1: 2:1, 2: 4:1). -/
def ffcEncodeTile (ratio : Nat) (uns : Bool) (e : List Byte) : List Byte :=
  let s := e.map (ffcSigned uns)
  if ratio = 1 then ffcEncode2 s else ffcEncode4 s

/-- Decode one block to the 64 elements of its tile. -/
def ffcDecodeTile (ratio : Nat) (uns : Bool) (d : List Byte) : List Byte :=
  (if ratio = 1 then ffcDecode2 d else ffcDecode4 d).map (ffcElem uns)

/-- Encode a plane given by its rows: blocks row by row of tiles (R217). -/
def ffcEncodePlane (ratio : Nat) (uns : Bool) (rows : List (List Byte)) : List Byte :=
  ((chunks 8 rows).map fun band =>
    let w := (band.headD []).length / 8
    ((List.range w).map fun tx => ffcEncodeTile ratio uns ((band.map fun r => (r.drop (8 * tx)).take 8).flatten)).flatten).flatten

/-- Decode the blocks of a plane `w` elements wide to its rows. -/
def ffcDecodePlane (ratio : Nat) (uns : Bool) (w : Nat) (d : List Byte) : List (List Byte) :=
  let bs := if ratio = 1 then 32 else 16
  ((chunks (w / 8) (chunks bs d)).map fun band =>
    let tiles := band.map (ffcDecodeTile ratio uns)
    (List.range 8).map fun r => (tiles.map fun t => (t.drop (8 * r)).take 8).flatten).flatten

end Sys2Proof.Machine
end

