-- ==== Sys2Proof/Machine/RingLink.lean ====
section
/-! DEFINITION. Sending on the ring: the two ports with their replay buffers and credits (R320, R321), the headers of
R322 to R324, protection (R346), bursts (R327, R329), and the delivery of remote signals (R340). -/

namespace Sys2Proof.Machine

/-- Port 0 is N, port 1 is S. -/
def State.port (s : State) (p : Nat) : PortRt := if p = 0 then s.ring.north else s.ring.south

def State.setPort (s : State) (p : Nat) (x : PortRt) : State :=
  { s with ring := if p = 0 then { s.ring with north := x } else { s.ring with south := x } }

/-- CI_PORT_STATUS.state (R352). -/
def State.portState (s : State) (p : Nat) : Nat := s.fget (f_ciPortStatus_state p)

/-- A port's state changes: its status, the flag, the report to the MP, and the driver's event (R319, R356, R502). -/
def State.setPortState (s : State) (p v : Nat) : State :=
  if s.portState p = v then s
  else
    let s1 := (s.fput (f_ciPortStatus_state p) v).raise f_ciEvent_port_change
    (s1.emit (.toMp 5 [p, v])).event 0x30 0xFF (leBytes 4 p ++ leBytes 4 v)

/-- The device's ring address, epoch and state (R350, R351). -/
def State.ringAddr (s : State) : Nat := s.fget f_ciStatus_address
def State.epoch (s : State) : Nat := s.fget f_ciEpoch_epoch
def State.ringState (s : State) : Nat := s.fget f_ciStatus_ring_state
def State.quarantined (s : State) : Bool := s.ringState == 2

/-! Headers (R322, R323). -/

/-- A field of a frame's header. -/
def frField (f : RFrame) (hi lo : Nat) : Nat := bits f.hdr.toNat hi lo

def frKind (f : RFrame) : Nat := frField f 3 0
def frDst (f : RFrame) : Nat := frField f 9 4
def frSrc (f : RFrame) : Nat := frField f 15 10
/-- The full epoch of a control frame. -/
def frEpoch (f : RFrame) : Nat := frField f 63 32
/-- A control frame's type fields, header bits [127:64]. -/
def frType (f : RFrame) : Nat := frField f 127 64

/-- Class D frames are DATA and DATA_LAST (R321). -/
def frClassD (f : RFrame) : Bool := frKind f == 1 || frKind f == 2

/-- Credits a frame spends: one per line (R321). -/
def frLines (f : RFrame) : Nat := if frClassD f then frField f 58 56 + 1 else frField f 27 24

/-- A control frame from this device: type fields `tf` stand at bits [127:64] (R323). -/
def State.control (s : State) (kind dst tf : Nat) (payload : List Byte) : RFrame :=
  ⟨BitVec.ofNat 128 (kind + 2 ^ 4 * dst + 2 ^ 10 * s.ringAddr + 2 ^ 24 * ceilDiv payload.length 64 + 2 ^ 32 * s.epoch + 2 ^ 64 * tf),
    none, payload, []⟩

/-- A link-local control frame (R323). -/
def State.localFrame (s : State) (kind tf : Nat) (payload : List Byte) : RFrame :=
  let f := s.control kind 0 tf payload
  { f with hdr := f.hdr ||| 0x10000 }

/-- What a frame's CRC covers, in the order it travels: the header, the extension, the payload and the tag (R320, R346, log
entry 10). -/
def frameBytes (f : RFrame) : List Byte :=
  leBytes (if frClassD f then 8 else 16) f.hdr.toNat ++ (match f.ext with | some e => leBytes 8 e.toNat | none => []) ++
    f.payload ++ f.tag

/-- The CRC-32C of a frame (R320). -/
def frameCrc (f : RFrame) : Nat := crc32c (frameBytes f)

/-- A received frame whose CRC holds (R320). -/
def rxGood (rx : RingRx) : Bool := rx.crc.toNat == frameCrc rx.frame

/-- A frame on the wire with its CRC. -/
def State.wire (s : State) (p : Nat) (f : RFrame) : State := s.emit (.frame p f (frameCrc f))

/-- Put a frame on the wire: it stays in the replay buffer until acknowledged. -/
def State.putFrame (s : State) (p : Nat) (f : RFrame) : State :=
  let x := s.port p
  let x' := if frClassD f then { x with creditD := x.creditD - frLines f } else { x with creditC := x.creditC - frLines f }
  (s.setPort p { x' with replay := x.replay ++ [f] }).wire p f

/-- The next frame a port may send: class C first, then own and transit data in turn, while the replay buffer and the
credits hold out (R320, R321). -/
def PortRt.next (x : PortRt) : Option (RFrame × PortRt) :=
  if 64 ≤ x.replay.length then none else
  match x.waitC with
  | f :: t => if frLines f ≤ x.creditC then some (f, { x with waitC := t }) else none
  | [] =>
    match (if x.ownTurn then x.waitOwn else x.waitTransit), (if x.ownTurn then x.waitTransit else x.waitOwn) with
    | f :: t, _ =>
      if frLines f ≤ x.creditD then
        some (f, if x.ownTurn then { x with waitOwn := t, ownTurn := false } else { x with waitTransit := t, ownTurn := true })
      else none
    | [], f :: t =>
      if frLines f ≤ x.creditD then some (f, if x.ownTurn then { x with waitTransit := t } else { x with waitOwn := t }) else none
    | [], [] => none

/-- Send what can be sent on a port; `fuel` bounds the frames. -/
def State.pump (s : State) (p : Nat) : Nat → State
  | 0 => s
  | n + 1 =>
    match (s.port p).next with
    | none => s
    | some (f, x) => ((s.setPort p x).putFrame p f).pump p n

/-- Frames that wait on a port. -/
def PortRt.waiting (x : PortRt) : Nat := x.waitC.length + x.waitOwn.length + x.waitTransit.length

/-- Let a port send what it can: a port that is up or excluded (R319, R332), while the fabric's clock runs (R565). -/
def State.portRun (s : State) (p : Nat) : State :=
  if (s.portState p = 2 ∨ s.portState p = 3) ∧ s.stopped 4 = false then s.pump p (s.port p).waiting else s

/-- Hand a frame to a port. -/
def State.queueFrame (s : State) (p : Nat) (f : RFrame) (transit : Bool) : State :=
  let x := s.port p
  let x' := if !frClassD f then { x with waitC := x.waitC ++ [f] }
    else if transit then { x with waitTransit := x.waitTransit ++ [f] } else { x with waitOwn := x.waitOwn ++ [f] }
  (s.setPort p x').portRun p

/-! Protection (R346). -/

/-- Types that travel protected while encryption is active. -/
def protectedKind (f : RFrame) : Bool :=
  frClassD f || [8, 9, 10, 15].contains (frKind f) || (frKind f == 13 && frField f 64 64 == 1)

/-- The nonce of a protected frame: epoch, sender's address as its header names it, frame counter (R346). -/
def frameNonce (epoch addr count : Nat) : List Byte := leBytes 4 epoch ++ leBytes 1 addr ++ leBytes 7 count

/-- The header's bytes that stand in clear: 8 B, since a control frame's type fields are encrypted. -/
def frameAad (f : RFrame) : List Byte := leBytes 8 f.hdr.toNat ++ leBytes 8 ((f.ext.getD 0).toNat)

/-- What is encrypted: the payload, and a control frame's type fields before it. -/
def frameSecret (f : RFrame) : List Byte := (if frClassD f then [] else leBytes 8 (frType f)) ++ f.payload

/-- A frame with its secret part replaced. -/
def withSecret (f : RFrame) (d : List Byte) : RFrame :=
  if frClassD f then { f with payload := d }
  else { f with hdr := BitVec.ofNat 128 (setBits f.hdr.toNat 127 64 (fieldAt d 0 8)), payload := d.drop 8 }

/-- The epoch, key and frame counter a frame is protected under: the MEMBERSHIP commit takes the new epoch's. -/
def State.frameKey (s : State) (f : RFrame) : Nat × List Byte × Nat :=
  match s.ring.nextKey with
  | some (e, k) => if frKind f = 13 then (e, k, s.ring.txNext) else (s.epoch, s.ring.key, s.ring.txCount)
  | none => (s.epoch, s.ring.key, s.ring.txCount)

/-- Whether a frame of this type is protected here: encryption is active, or a commit follows the loading of a key. -/
def State.protects (s : State) (f : RFrame) : Bool :=
  protectedKind f && (if frKind f = 13 then s.ring.nextKey.isSome else s.fbit f_ciStatus_encrypt_active)

/-- Seal a frame under the link key; none when the frame counter would wrap. -/
def State.seal (s : State) (f : RFrame) : Option (RFrame × State) :=
  if !s.protects f then some (f, s)
  else
    let k := s.frameKey f
    if 2 ^ 56 ≤ k.2.2 + 1 then none
    else
      let h := if frClassD f then f.hdr ||| BitVec.ofNat 128 (2 ^ 59) else f.hdr
      let f1 := { f with hdr := h, ext := some (BitVec.ofNat 64 k.2.2) }
      let plain := frameSecret f1
      let out := Config.gcmSeal k.2.1 (frameNonce k.1 (frSrc f) k.2.2) (frameAad f1) plain
      some ({ withSecret f1 (out.take plain.length) with tag := out.drop plain.length },
        { s with ring := if frKind f = 13 then { s.ring with txNext := k.2.2 + 1 } else { s.ring with txCount := k.2.2 + 1 } })

/-- Open a protected frame that has reached this device; none where the tag fails (R347). -/
def State.unseal (s : State) (f : RFrame) : Option RFrame :=
  match f.ext with
  | none => if s.protects f && !(s.ring.quiesced && frKind f == 15) then none else some f
  | some c =>
    let k := s.frameKey f
    (Config.gcmOpen k.2.1 (frameNonce k.1 (frSrc f) c.toNat) (frameAad f) (frameSecret f ++ f.tag)).map (withSecret f)

/-- Send a frame to a ring address on its route (R325, R361); not sent in quarantine or without a route. -/
def State.sendFrame (s : State) (f : RFrame) : State :=
  if s.quarantined || !s.fbit (f_ciRoute_valid (frDst f)) then s
  else match s.seal f with
    | none => s.sediment' 0x10 0x83 0x0050 (0x28 / 4 * 256 + 7)
    | some (g, s1) => s1.queueFrame (s1.fget (f_ciRoute_port (frDst f))) g false

/-- A remote signal reaches this device (R340): added in the ring sync window, or refused. -/
def State.ringSignal (s : State) (idx : Nat) (inc : Word) : State :=
  let base := s.fget f_ciSyncWindow_base
  let size := s.fget f_ciSyncWindow_size
  let size := if 32768 < base + size then 32768 - base else size
  if idx < size then s.signalObj (base + idx) inc
  else (s.raise f_ciEvent_sync_refused).cond .ringFault false

/-- Send a signal to a slice position (R340, R360). -/
def State.remoteSignal (s : State) (pos idx : Nat) (inc : Word) : State :=
  if !s.fbit (f_ciPositionMap_valid pos) then s.cond .ringFault false
  else
    let a := s.fget (f_ciPositionMap_address pos)
    if a = s.ringAddr then
      (if s.stopped 4 then { s with ring := { s.ring with loopback := s.ring.loopback ++ [(idx, inc)] } } else s.ringSignal idx inc)
    else if s.ring.quiesced then s
    else s.sendFrame (s.control 0xA a (idx + 2 ^ 16 * inc.toNat) [])

/-- The fabric's clock runs again: signals to the own address go on, and the ports (R565, R566). -/
def State.ringRestart (s : State) : State :=
  let s1 := s.ring.loopback.foldl (fun s p => s.ringSignal p.1 p.2) { s with ring := { s.ring with loopback := [] } }
  (s1.portRun 0).portRun 1

/-! Bursts. -/

/-- The data frames of a burst: up to eight lines each, the last one DATA_LAST (R322, R327). -/
def burstFrames (s : State) (b : SendBurst) : List RFrame :=
  let cs := chunks 512 b.data
  let n := cs.length
  (List.zip (List.range n) cs).map fun p =>
    ⟨BitVec.ofNat 128 ((if p.1 + 1 = n then 2 else 1) + 2 ^ 4 * b.dst + 2 ^ 10 * s.ringAddr + 2 ^ 16 * (s.epoch % 256) +
      2 ^ 24 * b.id + 2 ^ 40 * (8 * p.1) + 2 ^ 56 * (p.2.length / 64 - 1)), none, p.2, []⟩

/-- Put a burst on the ring: BURST_OPEN, then its data frames (R324, R327). -/
def State.sendBurst (s : State) (b : SendBurst) : State :=
  let enc := b2n (s.fbit f_ciStatus_encrypt_active)
  let s1 := s.sendFrame (s.control 8 b.dst (b.id + 2 ^ 16 * (b.data.length / 64 - 1) + 2 ^ 32 * b.line + 2 ^ 50 * enc) [])
  (burstFrames s b).foldl (fun s f => s.sendFrame f) s1

/-- Open a new burst under the next value of the burst counter. -/
def State.openBurst (s : State) (core serial dst line restarts : Nat) (data : List Byte) : State :=
  let id := s.ring.burst
  let b : SendBurst := ⟨id, core, serial, dst, line, data, restarts⟩
  let s1 := { s with ring := { s.ring with burst := (id + 1) % 65536, sends := s.ring.sends ++ [b] } }
  if s1.ring.quiesced then s1 else s1.sendBurst b

end Sys2Proof.Machine
end

