-- ==== Sys2Proof/Machine/Mover.lean ====
section
/-! DEFINITION. The mover (R145, R201 to R212): descriptors and their checks, the queue, transfers that complete or fail,
their data, and bursts into peer windows (R326 to R329). -/

namespace Sys2Proof.Machine

/-- The bytes a run of a transfer takes at each end: plain runs as they are; with compression, a plane (R217). -/
structure RunShape where
  runs : Nat
  srcBytes : Nat
  dstBytes : Nat
  deriving DecidableEq, Repr

/-- Compressed bytes of a plane of W by H elements. -/
def planeBytes (ratio w h : Nat) : Nat := w / 8 * (h / 8) * (if ratio = 1 then 32 else 16)

def ffcRatio (ffc : Nat) : Nat := if ffc = 1 ∨ ffc = 3 then 1 else 2

def Transfer.encode (t : Transfer) : Bool := t.ffc == 1 || t.ffc == 2
def Transfer.decode (t : Transfer) : Bool := t.ffc == 3 || t.ffc == 4

/-- The runs of a transfer. -/
def Transfer.shape (t : Transfer) : RunShape :=
  if t.ffc = 0 then ⟨t.count1 * t.count2, t.length, t.length⟩
  else
    let c := planeBytes (ffcRatio t.ffc) t.length t.count1
    if t.encode then ⟨t.count2, t.length * t.count1, c⟩ else ⟨t.count2, c, t.length * t.count1⟩

/-- The offset of run k at the source and at the destination, from the endpoint's start (R201, R217). -/
def Transfer.srcOff (t : Transfer) (k : Nat) : Int :=
  if t.ffc = 0 then ((k % t.count1 : Nat) : Int) * t.srcStride1 + ((k / t.count1 : Nat) : Int) * t.srcStride2
  else (k : Int) * t.srcStride2
def Transfer.dstOff (t : Transfer) (k : Nat) : Int :=
  if t.ffc = 0 then ((k % t.count1 : Nat) : Int) * t.dstStride1 + ((k / t.count1 : Nat) : Int) * t.dstStride2
  else (k : Int) * t.dstStride2

/-! Descriptor checks (R203). -/

/-- The least and greatest offset of a sum of strides. -/
def strideSpan (n : Nat) (st : Int) : Int × Int :=
  let e := ((n - 1 : Nat) : Int) * st
  (min 0 e, max 0 e)

/-- Whether every byte of runs of `len` bytes from `start` lies below `size`. -/
def spanOk (size start len n1 : Nat) (s1 : Int) (n2 : Nat) (s2 : Int) : Bool :=
  let a := strideSpan n1 s1
  let b := strideSpan n2 s2
  decide (0 ≤ (start : Int) + a.1 + b.1) && decide ((start : Int) + a.2 + b.2 + len ≤ size)

/-- An endpoint as read: the endpoint, its start in its memory, and that memory's size; or a fault code. -/
def State.parseEnd (s : State) (n cyc : Nat) (d : List Byte) (isSrc : Bool) : Except Nat (EndPt × Nat × Nat) :=
  let kind := fieldAt d 0 1 % 4
  if kind = 0 then
    match operand (s.core n) cyc (fieldAt d 2 2) with
    | .addr off => .ok (.sp off, off, spBytes)
    | .region r o c =>
      if o ≠ 0 ∨ (!isSrc && c) then .error 0x07 else .ok (.region r c (s.headAsOf n r (cyc + 1)), 0, 64 * s.slotLines n r)
  else if kind = 1 then
    let a := fieldAt d 4 6
    if hbAddr 0 ≤ a ∧ a < hbAddr hbBytes then .ok (.hb (a - hbAddr 0), a - hbAddr 0, hbBytes)
    else if !isSrc ∧ peerBase ≤ a ∧ a < peerBase + 2 ^ 40 then
      .ok (.ring ((a - peerBase) / 2 ^ 36) ((a - peerBase) % 2 ^ 36), (a - peerBase) % 2 ^ 36, hbBytes)
    else .error 0x07
  else if kind = 2 then
    let i := fieldAt d 4 2 % 4096
    let off := bits (fieldAt d 4 6) 32 12
    let base := s.fget (f_mvPoolMap_addr_lo n i) * 0x200000 + s.fget (f_mvPoolMap_addr_hi n i) * 2 ^ 32
    let tier := s.fget (f_mvPoolMap_tier n i)
    let inRange := if tier = 0 then decide (lpBase ≤ base) && decide (base + 0x200000 ≤ lpBase + s.lpCapacity)
      else decide (hostBase ≤ base) && decide (base + 0x200000 ≤ hostBase + 0x200000000)
    if !s.fbit (f_mvPoolMap_valid n i) || !inRange then .error 0x07
    else .ok (.pool tier (base + off), off, 0x200000)
  else .error 0x07

def EndPt.isRegion : EndPt → Bool
  | .region _ _ _ => true
  | _ => false

/-- Read and check a descriptor of 64 B (R201 to R203); the transfer without its completion and number, or a code. -/
def State.parseMove (s : State) (n cyc : Nat) (d : List Byte) : Except Nat Transfer :=
  match s.parseEnd n cyc (d.take 16) true with
  | .error e => .error e
  | .ok src =>
    match s.parseEnd n cyc ((d.drop 16).take 16) false with
    | .error e => .error e
    | .ok dst =>
      let b56 := fieldAt d 56 1
      let ffc := b56 % 8
      let fmt := b56 / 16
      let len := fieldAt d 32 4
      let st := fun o => sext 32 (fieldAt d o 4)
      let t : Transfer :=
        { src := src.1, dst := dst.1, length := len, count1 := fieldAt d 36 2 + 1, count2 := fieldAt d 38 2 + 1,
          srcStride1 := st 40, srcStride2 := st 44, dstStride1 := st 48, dstStride2 := st 52, ffc := ffc,
          unsigned := fmt == 3, fence := bit (fieldAt d 57 1) 0, done := none, active := false, pos := 0, rest := [],
          ipos := s.pos n, iroutine := s.routine n, idepth := (s.core n).calls.length, serial := 0 }
      if 4 < ffc then .error 0x07
      else if ffc = 0 then
        let mult := fun (x : Int) => x % 64 == 0
        if len % 64 ≠ 0 ∨ len < 64 ∨ 0x1000000 < len then .error 0x07
        else
          let one := fun (e : EndPt × Nat × Nat) (s1 s2 : Int) => if e.1.isRegion then decide (len ≤ e.2.2)
            else e.2.1 % 64 == 0 && mult s1 && mult s2 && spanOk e.2.2 e.2.1 len t.count1 s1 t.count2 s2
          if one src t.srcStride1 t.srcStride2 && one dst t.dstStride1 t.dstStride2 then .ok t else .error 0x07
      else if src.1.isRegion || dst.1.isRegion then .error 0x07
      else if fmt ≠ 2 ∧ fmt ≠ 3 then .error 0x04
      else if len % 8 ≠ 0 ∨ len < 8 ∨ 8192 < len ∨ t.count1 % 8 ≠ 0 then .error 0x07
      else
        let cb := planeBytes (ffcRatio ffc) len t.count1
        let m8 := fun (x : Int) => x % 8 == 0
        let plain := fun (e : EndPt × Nat × Nat) (s1 s2 : Int) =>
          e.2.1 % 8 == 0 && m8 s1 && m8 s2 && spanOk e.2.2 e.2.1 len t.count1 s1 t.count2 s2
        let packed := fun (e : EndPt × Nat × Nat) (s2 : Int) =>
          e.2.1 % 64 == 0 && s2 % 64 == 0 && spanOk e.2.2 e.2.1 cb 1 0 t.count2 s2
        let ok := if t.encode then plain src t.srcStride1 t.srcStride2 && packed dst t.dstStride2
          else packed src t.srcStride2 && plain dst t.dstStride1 t.dstStride2
        if ok then .ok t else .error 0x07

/-! Data. -/

/-- An asynchronous event of a core comes after every access of the instructions it has issued (log entry 8). -/
def asyncCycle (c : CoreRt) : Nat := 1 + c.hist.foldl (fun a p => max a p.1) c.ref

/-- Count bytes moved at a tier's end (R211). -/
def State.mvBytes (s : State) (n tier k : Nat) : State :=
  let v := s.fget64 (f_mvTierBytes_bytes_lo n tier) + k
  let s1 := s.fput64 (f_mvTierBytes_bytes_lo n tier) (v % 2 ^ 64)
  if v < 2 ^ 64 then s1 else s1.raise (f_mvEvent_counter_wrap n)

/-- A mover's change of a region's valid bits stands from the core's present cycle on, since a wait may already have seen
its signal (R33); where an issued instruction still has the slot on a later cycle, after that. -/
def State.asyncChange (s : State) (n r slot : Nat) : Nat :=
  let t := (s.core n).ref - 1
  if s.changesLater n r slot t then asyncCycle (s.core n) else t

/-- Read scratchpad bytes as asynchronous accesses: data, whether a word was uncorrectable. -/
def State.spBytesA (s : State) (n off len req : Nat) : List Byte × Bool × State :=
  let l0 := off / 64
  let x := (List.range (ceilDiv (off % 64 + len) 64)).foldl (fun (x : List Byte × Bool × State) i =>
    let r := x.2.2.aRead n (l0 + i) req
    (x.1 ++ r.1, x.2.1 || r.2.1, r.2.2)) ([], false, s)
  ((x.1.drop (off % 64)).take len, x.2.1, x.2.2)

/-- Store scratchpad bytes as asynchronous accesses, line by line; a bank first performs the write-backs that wait at it
(R181). -/
def State.spStoreA (s : State) (n off : Nat) (d : List Byte) : State :=
  let first := 64 - off % 64
  let s := (List.range (min 40 (ceilDiv (off % 64 + d.length) 64))).foldl (fun s i => s.bankWriteBacks n (off / 64 + i)) s
  let s1 := s.spStore n (off / 64) (off % 64) (d.take first)
  ((chunks 64 (d.drop first)).foldl (fun (p : State × Nat) x => (p.1.spStore n p.2 0 x, p.2 + 1)) (s1, off / 64 + 1)).1

/-- Read horizon-buffer bytes through a port: data, whether a line was poisoned. -/
def State.hbBytesP (s : State) (off len port : Nat) : List Byte × Bool × State :=
  let l0 := off / 64
  let x := (List.range (ceilDiv (off % 64 + len) 64)).foldl (fun (x : List Byte × Bool × State) i =>
    let r := x.2.2.hbRead (l0 + i) port
    (x.1 ++ r.1, x.2.1 || r.2.1, r.2.2)) ([], false, s)
  ((x.1.drop (off % 64)).take len, x.2.1, x.2.2)

def Transfer.who (t : Transfer) (n : Nat) : Who :=
  { core := n, engine := 4, array := 0, pos := t.ipos, routine := t.iroutine, depth := t.idepth }

/-- Why a transfer stops (R206): 0 an uncorrectable or poisoned read, 1 a PCIe error, 2 the ring. -/
abbrev Cause := Nat

/-- Host bytes of a read at a host-window address, from the data the completion brings: they begin at `k`. -/
def hostData (data : List Byte) (k n : Nat) : List Byte := (List.range n).map fun i => data.getD (k + i) 0

/-- Read `len` bytes of an endpoint at an offset from its start (R202, R204). -/
def State.readEnd (s : State) (n : Nat) (t : Transfer) (k : Nat) (off : Int) (len : Nat) (data : List Byte) (taken : Nat) :
    Option (List Byte) × Cause × State :=
  match t.src with
  | .sp a =>
    let r := (s.mvBytes n 0 len).spBytesA n ((a : Int) + off).toNat len 4
    (if r.2.1 then none else some r.1, 0, r.2.2)
  | .hb a =>
    let r := (s.mvBytes n 1 len).hbBytesP ((a : Int) + off).toNat len n
    (if r.2.1 then none else some r.1, 0, r.2.2)
  | .region r c head =>
    let slot := (head + k) % s.slotCount n r
    let cyc := asyncCycle (s.core n)
    let s1 := (s.mvBytes n 0 len).checkRead (t.who n) r slot cyc
    let d := s1.spBytesA n (64 * s1.slotLine n r slot) len 4
    let s2 := if c then d.2.2.releaseSlot n r slot (d.2.2.asyncChange n r slot) else d.2.2
    (if d.2.1 then none else some d.1, 0, s2)
  | .pool tier a =>
    let addr := ((a : Int) + off).toNat
    if tier = 0 then
      let r := (s.mvBytes n 2 len).lpRead (s.coreSlot n) addr len n
      (if r.2.1 then none else some r.1, 0, r.2.2)
    else match s.hostWindow (addr - hostBase) false with
      | some _ => (some (hostData data taken len), 1, s.mvBytes n 3 len)
      | none => (none, 1, s.raise f_hiEvent_outbound_refused)
  | .ring _ _ => (none, 2, s)

/-- Write bytes at an offset of the destination; a failed core's fabric writes are dropped (R600). -/
def State.writeEnd (s : State) (n : Nat) (t : Transfer) (off : Int) (d : List Byte) : Bool × Cause × State :=
  let lines := ceilDiv d.length 64
  match t.dst with
  | .sp a => (true, 0, (s.mvBytes n 0 d.length).spStoreA n ((a : Int) + off).toNat d)
  | .hb a =>
    (true, 0, if s.coreFailed n then s.dropWrites lines else (s.mvBytes n 1 d.length).hbStore ((a : Int) + off).toNat d)
  | .region r _ _ =>
    let p := s.claimSlot (t.who n) r (asyncCycle (s.core n))
    let s1 := (p.2.mvBytes n 0 d.length).spStoreA n (64 * p.2.slotLine n r p.1) d
    (true, 0, s1.makeValid n r p.1 (s1.asyncChange n r p.1))
  | .pool tier a =>
    let addr := ((a : Int) + off).toNat
    if s.coreFailed n then (true, 0, s.dropWrites lines)
    else if tier = 0 then (true, 0, (s.mvBytes n 2 d.length).lpStore (s.coreSlot n) addr d)
    else match s.hostWindow (addr - hostBase) true with
      | some bus => (true, 0, (s.mvBytes n 3 d.length).emit (.hostWrite bus d))
      | none => (false, 1, s.raise f_hiEvent_outbound_refused)
  | .ring _ _ => (false, 2, s)

/-- The source bytes of run k as they go to the destination: read, and encoded or decoded (R217). -/
def State.readRun (s : State) (n : Nat) (t : Transfer) (k : Nat) (data : List Byte) :
    Option (List Byte) × Cause × State :=
  let sh := t.shape
  if t.encode then
    let x := (List.range t.count1).foldl (fun (x : Option (List (List Byte)) × Cause × State) (y : Nat) =>
      match x.1 with
      | none => x
      | some rows =>
        let r := x.2.2.readEnd n t k (t.srcOff k + (y : Int) * t.srcStride1) t.length data (k * sh.srcBytes + y * t.length)
        (r.1.map fun d => rows ++ [d], r.2.1, r.2.2)) (some [], 0, s)
    (x.1.map fun rows => ffcEncodePlane (ffcRatio t.ffc) t.unsigned rows, x.2.1, x.2.2)
  else
    let r := s.readEnd n t k (t.srcOff k) sh.srcBytes data (k * sh.srcBytes)
    (r.1.map fun d => if t.decode then (ffcDecodePlane (ffcRatio t.ffc) t.unsigned t.length d).flatten else d, r.2.1, r.2.2)

/-- Write run k at the destination. -/
def State.writeRun (s : State) (n : Nat) (t : Transfer) (k : Nat) (d : List Byte) : Bool × Cause × State :=
  if t.decode then
    (List.zip (List.range t.count1) (chunks t.length d)).foldl (fun (x : Bool × Cause × State) y =>
      if !x.1 then x else x.2.2.writeEnd n t (t.dstOff k + (y.1 : Int) * t.dstStride1) y.2) (true, 0, s)
  else s.writeEnd n t (t.dstOff k) d

/-- Move the runs of a list; stops at the first that cannot be read or written (R206): the cause, if any. -/
def State.moveRuns (s : State) (n : Nat) (t : Transfer) (data : List Byte) : List Nat → Option Cause × State
  | [] => (none, s)
  | k :: rest =>
    let r := s.readRun n t k data
    match r.1 with
    | none => (some r.2.1, r.2.2)
    | some d =>
      let w := r.2.2.writeRun n t k d
      if w.1 then w.2.2.moveRuns n t data rest else (some w.2.1, w.2.2)

/-! The queue (R205). -/

/-- Mark the transfers that start: in queue order, eight at once, a fence only at the front. -/
def startable : List Transfer → Nat → Nat → List Transfer
  | [], _, _ => []
  | t :: rest, idx, act =>
    if t.active then t :: startable rest (idx + 1) (act + 1)
    else if act < 8 ∧ (!t.fence ∨ idx = 0) then { t with active := true } :: startable rest (idx + 1) (act + 1)
    else t :: rest

/-- Start the transfers that may start. -/
def State.startTransfers (s : State) (n : Nat) : State :=
  let c := s.core n
  s.setCore n { c with queue := startable c.queue 0 0 }

/-- The completion of a mover transfer lands now (R141, R205); a failed core's signal is dropped (R600). -/
def State.landNow (s : State) (n : Nat) : Option (Nat × Word) → State
  | none => s
  | some (o, inc) => if s.coreFailed n then s.dropWrites 1 else s.signalObj o inc

/-- Take a transfer out of the queue, signal its completion, and start what follows. -/
def State.retire (s : State) (n : Nat) (t : Transfer) : State :=
  let c := s.core n
  let s1 := s.setCore n { c with queue := c.queue.filter fun x => x.serial != t.serial }
  (s1.landNow n t.done).startTransfers n

/-- A transfer fails (R206, R596): its flag and report, its completion signalled, its open burst dropped. -/
def State.failTransfer (s : State) (n : Nat) (t : Transfer) (cause : Cause) : State :=
  let f := if cause = 0 then f_mvEvent_read_uncorrectable n else if cause = 1 then f_mvEvent_host_error n
    else f_mvEvent_ring_error n
  let s1 := if cause = 0 then (s.raise f).cond .uncorrectable false
    else
      let s' := s.flag f
      (s'.sediment' 0x10 n 0x0005 (bits (s'.rd (f_mvEvent_host_error n).off).toNat 15 0)).cond .transferFailed false
  let s2 := { s1 with ring := { s1.ring with sends := s1.ring.sends.filter fun b => b.core != n || b.serial != t.serial } }
  s2.retire n t

/-! What holds a transfer (R183, R196, R565). -/

def EndPt.inScratch : EndPt → Bool
  | .sp _ => true
  | .region _ _ _ => true
  | _ => false

def EndPt.inHorizon : EndPt → Bool
  | .hb _ => true
  | _ => false

def EndPt.isRing : EndPt → Bool
  | .ring _ _ => true
  | _ => false

/-- A transfer whose accesses wait: the core's or the fabric's clock stands stopped, or a scrub of a memory it touches
runs. -/
def State.moverHeld (s : State) (n : Nat) (t : Transfer) : Bool :=
  s.coreStopped n || s.stopped 4 || ((s.core n).scrubbing && (t.src.inScratch || t.dst.inScratch)) ||
    (s.fbit f_hbScrub_start && (t.src.inHorizon || t.dst.inHorizon))

/-! Bursts of a transfer into a peer window (R327). -/

/-- Whether a transfer's source is host memory: its bytes come with the read's completion. -/
def EndPt.isHost : EndPt → Bool
  | .pool tier _ => tier != 0
  | _ => false

/-- Bytes at byte offsets as whole lines in order; a byte that none of them is takes its place in `pad` (log entry 65). -/
def asLines (cells : List (Nat × Byte)) (pad : Nat → Byte) : List (Nat × List Byte) :=
  let lines := cells.foldl (fun (l : List Nat) c => if l.contains (c.1 / 64) then l else insertNat (c.1 / 64) l) []
  let m := cells.foldl (fun (m : Sparse (Option Byte)) c => mapSet (fun _ => none) m c.1 (some c.2)) []
  lines.map fun l => (l, (List.range 64).map fun i => (mapGet (fun _ => none) m (64 * l + i)).getD (pad (64 * l + i)))

/-- Lines joined into runs of consecutive lines. -/
def joinRuns : List (Nat × List Byte) → List (Nat × List Byte)
  | [] => []
  | (l, d) :: t => match joinRuns t with
    | (l', d') :: r => if l' = l + 1 then (l, d ++ d') :: r else (l, d) :: (l', d') :: r
    | [] => [(l, d)]

/-- The bursts of run k, up to 4 MiB each, with their first lines (R327): a plain run or a compressed plane is contiguous; a
decoded plane goes row by row to where R217 puts its rows. -/
def Transfer.bursts (t : Transfer) (off k : Nat) (d : List Byte) (pad : Nat → Byte) : List (Nat × List Byte) :=
  let at_ := fun (o : Int) => ((off : Int) + t.dstOff k + o).toNat
  let parts := if t.decode then
      joinRuns (asLines ((List.zip (List.range t.count1) (chunks t.length d)).flatMap fun y =>
        (List.zip (List.range t.length) y.2).map fun b => (at_ ((y.1 : Int) * t.dstStride1) + b.1, b.2)) pad)
    else [(at_ 0 / 64, d)]
  parts.flatMap fun p => let cs := chunks 0x400000 p.2
    (List.zip (List.range cs.length) cs).map fun c => (p.1 + 65536 * c.1, c.2)

/-- A transfer in its mover's queue, changed. -/
def State.setTransfer (s : State) (n : Nat) (t : Transfer) : State :=
  let c := s.core n
  s.setCore n { c with queue := c.queue.map fun x => if x.serial = t.serial then t else x }

/-- Every burst of a transfer has opened. -/
def Transfer.opened (t : Transfer) : Bool := t.rest.isEmpty && decide (t.shape.runs ≤ t.pos)

/-- Read the next run of a transfer into a peer window: its bursts join those to open, or the read fails. -/
def State.ringRead (s : State) (n : Nat) (t : Transfer) (off : Nat) (data : List Byte) : Except Cause Transfer × State :=
  let r := s.readRun n t t.pos data
  match r.1 with
  | none => (.error r.2.1, r.2.2)
  | some d =>
    let p := if t.decode then r.2.2.draw else (0, r.2.2)
    let pad := fun i => BitVec.ofNat 8 (p.1 / 256 ^ i)
    (.ok { t with pos := t.pos + 1, rest := t.rest ++ t.bursts off t.pos d pad }, p.2)

/-- Open the next burst of a transfer whose run has been read. -/
def State.ringOpen (s : State) (n : Nat) (t : Transfer) (addr : Nat) : State :=
  match t.rest with
  | [] => s
  | (line, d) :: rest => (s.setTransfer n { t with rest := rest }).openBurst n t.serial addr line 0 d

/-- The transfer of a position that maps to the device's own address: its runs move within the horizon buffer. -/
def State.ringOwn (s : State) (n : Nat) (t : Transfer) (off : Nat) (data : List Byte) : State :=
  let r := s.moveRuns n { t with dst := .hb off } data (List.range t.shape.runs)
  match r.1 with
  | some cause => r.2.failTransfer n t cause
  | none => r.2.retire n t

/-- Open the next burst of a transfer into a peer window, if the mover has none open to that destination (R327). Host bytes
come with the completion of their reads, so such a transfer waits for it. -/
def State.ringStep (s : State) (n : Nat) (t : Transfer) : State :=
  match t.dst with
  | .ring a off =>
    if !t.active || t.opened || s.moverHeld n t then s
    else if !s.fbit (f_ciPositionMap_valid a) then (s.failTransfer n t 2).cond .ringFault false
    else
      let addr := s.fget (f_ciPositionMap_address a)
      if s.ring.sends.any (fun b => b.core == n && (b.dst == addr || b.serial == t.serial)) then s
      else if s.coreFailed n then s.dropWrites 1
      else if !t.rest.isEmpty then s.ringOpen n t addr
      else if t.src.isHost then s
      else if addr = s.ringAddr then s.ringOwn n t off []
      else
        let r := s.ringRead n t off []
        match r.1 with
        | .error cause => r.2.failTransfer n t cause
        | .ok t' => r.2.ringOpen n t' addr
  | _ => s

/-- The host bytes of a transfer into a peer window have come: every run's bursts are ready to open. -/
def State.ringFill (s : State) (n : Nat) (t : Transfer) (data : List Byte) : State :=
  match t.dst with
  | .ring a off =>
    if !t.src.isHost || t.pos != 0 then s
    else if s.fget (f_ciPositionMap_address a) = s.ringAddr ∧ s.fbit (f_ciPositionMap_valid a) = true then s.ringOwn n t off data
    else
      let r := (List.range t.shape.runs).foldl (fun (x : Except Cause Transfer × State) _ => match x.1 with
        | .error c => (.error c, x.2)
        | .ok t => x.2.ringRead n t off data) (.ok t, s)
      match r.1 with
      | .error cause => r.2.failTransfer n t cause
      | .ok t' => r.2.setTransfer n t'
  | _ => s

/-- Open what bursts may open, transfer by transfer in queue order. -/
def State.ringKick (s : State) (n : Nat) : State :=
  (s.core n).queue.foldl (fun s t => match (s.core n).queue.find? fun x => x.serial == t.serial with
    | some x => s.ringStep n x
    | none => s) s

/-- After a queue change: start transfers, open their bursts, let a waiting STEP_END go on. -/
def State.mvSettle (s : State) (n : Nat) : State :=
  let s1 := (s.startTransfers n).ringKick n
  s1.stepEndRetry n (asyncCycle (s1.core n))

/-- MOVE (R145, R201 to R204). -/
def execMove (core : Fin 8) (w : IWord) (s : State) : Host.Outcome State Fault Refusal :=
  let n := core.val
  let c := s.core n
  let en := bit w.toNat 63
  let inc := fld w 62 55
  let obj := s.syncIndex n (fld w 54 40)
  match s.issue n w 4 0x00 with
  | .none => .next s
  | .fault s' => .next s'
  | .go cyc who s1 =>
    if en && inc == 0 then .next (s.decodeFault n 4 0x07)
    else if en && obj.isNone then .next (s.decodeFault n 4 0x0A)
    else if 64 ≤ c.queue.length then .next (s.decodeFault n 4 0x0F)
    else match addrOnly (operand c cyc (fld w 39 24)) 64 with
      | none => .next (s.decodeFault n 4 0x07)
      | some off =>
        let d := s1.sRead who (cyc + 1) (off / 64) rankDesc
        match d.2.parseMove n cyc d.1 with
        | .error code => .next (d.2.faultAt who code .instructionFault)
        | .ok t =>
          let c1 := d.2.core n
          let t1 := { t with done := if en then obj.map fun o => (o, BitVec.ofNat 32 inc) else none,
                             serial := c1.nextSerial }
          let s2 := d.2.setCore n { c1 with queue := c1.queue ++ [t1], nextSerial := c1.nextSerial + 1 }
          .next ((s2.advance n).mvSettle n)

/-- The active transfer at a place of the queue, unless it is held. -/
def State.activeAt (s : State) (n idx : Nat) : Option Transfer :=
  (s.core n).queue[idx]?.bind fun t => if t.active && !s.moverHeld n t then some t else none

/-- TRANSFER_COMPLETE (R205): `data` brings the bytes that host reads return, in run order. A read the hardware finds
uncorrectable, or a host address it refuses, fails the transfer instead (R206). Transfers into a peer window complete with
their last burst's reply; for one whose source is host memory, `data` brings the bytes that its bursts carry. -/
def execTransferComplete (core : Fin 8) (idx : Nat) (data : List Byte) (s : State) : Host.Outcome State Fault Refusal :=
  let n := core.val
  match s.activeAt n idx with
  | none => .next s
  | some t =>
    if t.dst.isRing then .next ((s.ringFill n t data).mvSettle n)
    else
      let r := s.moveRuns n t data (List.range t.shape.runs)
      match r.1 with
      | some cause => .next ((r.2.failTransfer n t cause).mvSettle n)
      | none => .next ((r.2.retire n t).mvSettle n)

/-- TRANSFER_FAILED (R206): the first `runs` runs were written. -/
def execTransferFailed (core : Fin 8) (idx : Nat) (cause : Fin 3) (runs : Nat) (data : List Byte) (s : State) :
    Host.Outcome State Fault Refusal :=
  let n := core.val
  match s.activeAt n idx with
  | none => .next s
  | some t =>
    if t.dst.isRing then .next ((s.failTransfer n t cause.val).mvSettle n)
    else
      let r := s.moveRuns n t data (List.range (min runs (t.shape.runs - 1)))
      .next ((r.2.failTransfer n t (r.1.getD cause.val)).mvSettle n)

/-! Camera deliveries (R367). -/

/-- A scrub of a delivery's target holds it (R183, R196). -/
def State.targetHeld (s : State) (target : Nat) : Bool :=
  if target < 8 then (s.core target).scrubbing else s.fbit f_hbScrub_start

/-- Deliver bytes at a 64 B line of a target, a scratchpad or the horizon buffer (R367), as asynchronous accesses; lines past
its end take nothing. -/
def State.deliverNow (s : State) (target line : Nat) (d : List Byte) : State :=
  if target < 8 then (if spBytes < 64 * line + d.length then s else s.spStoreA target (64 * line) d)
  else if hbBytes < 64 * line + d.length then s else s.hbStore (64 * line) d

/-- A delivery, which waits while a scrub holds its target. -/
def State.deliverTo (s : State) (target line : Nat) (d : List Byte) : State :=
  if s.targetHeld target then { s with cam := { s.cam with held := s.cam.held ++ [(target, line, d)] } }
  else s.deliverNow target line d

/-- The deliveries that waited for a scrub go on, oldest first. -/
def State.deliverHeld (s : State) : State :=
  let l := s.cam.held
  l.foldl (fun s x => s.deliverTo x.1 x.2.1 x.2.2) { s with cam := { s.cam with held := [] } }

/-- Zero every MV_TIER_BYTES counter (R210). -/
def State.mvCountReset (s : State) (n : Nat) : State :=
  (List.range 4).foldl (fun s t => s.fput64 (f_mvTierBytes_bytes_lo n t) 0) s

/-- MV_COUNT_RESET (R210). -/
def execMvCountReset (core : Fin 8) (s : State) : Host.Outcome State Fault Refusal := .next (s.mvCountReset core.val)

end Sys2Proof.Machine
end

