-- ==== Sys2Proof/Machine/RegRules.lean ====
section
/-! DEFINITION. What a register write does by the types of the register's fields (R9, R13), and the judgement of growth
bits (R14). -/

namespace Sys2Proof.Machine

/-- A field after a write of `v` over its stored value (R9): actions and locks are the register's own rules. -/
def fieldAfter (k : FieldKind) (old v : Nat) : Nat :=
  match k with
  | .rw => v
  | .rwl => v
  | .w1c => old - (old &&& v)
  | .w1s => old ||| v
  | .ro => old
  | .wo => old
  | .sc => old

/-- The register word after a plain write: each field by its type, reserved bits zero (R9, R13). -/
def rowWrite (r : RegRow) (old v : Nat) : Nat :=
  r.fields.foldl (fun a f => setBits a f.hi f.lo (fieldAfter f.kind (bits old f.hi f.lo) (bits v f.hi f.lo))) 0

/-- Whether a word sets a growth bit of a row (R14). -/
def rowGrowth (r : RegRow) (v : Nat) : Bool :=
  r.fields.any fun f => 0 < f.grow && bits v f.hi (f.hi + 1 - f.grow) != 0

/-- A plain write to the register at an offset. -/
def State.writeReg (s : State) (off : Nat) (v : Word) : State :=
  match findRow off with
  | some r => s.wr off (BitVec.ofNat 32 (rowWrite r (s.rd off).toNat v.toNat))
  | none => s

/-- Whether a word sets a growth bit of the register at an offset. -/
def growthSet (off : Nat) (v : Word) : Bool :=
  match findRow off with
  | some r => rowGrowth r v.toNat
  | none => false

end Sys2Proof.Machine
end

