-- ==== Sys2Proof/Machine/Camera.lean ====
section
/-! DEFINITION. Cameras and time alignment (R362 to R397): stream contexts and their buffers, frames from Frame Start to
sample, fusion groups and their releases, augmentation words, SPI records, frame sync, device-time steps and PPS. -/

namespace Sys2Proof.Machine

def State.stream (s : State) (n : Nat) : StreamRt := mapGet (fun _ => StreamRt.reset) s.cam.streams n

def State.setStream (s : State) (n : Nat) (x : StreamRt) : State :=
  { s with cam := { s.cam with streams := mapSet (fun _ => StreamRt.reset) s.cam.streams n x } }

def State.group (s : State) (g : Nat) : GroupRt := mapGet (fun _ => GroupRt.reset) s.cam.groups g

def State.setGroup (s : State) (g : Nat) (x : GroupRt) : State :=
  { s with cam := { s.cam with groups := mapSet (fun _ => GroupRt.reset) s.cam.groups g x } }

/-! Geometry. -/

/-- The downscale factor of a context (R402, R432). -/
def ctxF (code : Nat) : Nat := if code = 0 then 1 else if code = 1 then 2 else 4

def State.ctxFactor (s : State) (c : Nat) : Nat := ctxF (s.fget (f_ipCtx_f 0 c))
def State.ctxInW (s : State) (c : Nat) : Nat := s.ctxFactor c * s.fget (f_ipCtx_out_w 0 c)
def State.ctxInH (s : State) (c : Nat) : Nat := s.ctxFactor c * s.fget (f_ipCtx_out_h 0 c)

/-- Bits per pixel of a pipe-path data type (R363); 0 for any other. -/
def dtBits (dt : Nat) : Nat :=
  if dt = 0x1E then 16 else if dt = 0x24 then 24
  else if dt = 0x2A then 8 else if dt = 0x2B then 10 else if dt = 0x2C then 12 else if dt = 0x2D then 14
  else if dt = 0x2E then 16 else 0

/-- Whether a data type is raw Bayer data. -/
def dtRaw (dt : Nat) : Bool := 0x2A ≤ dt && dt ≤ 0x2E

/-- Types the raw path takes beside them. -/
def dtRawPath (dt : Nat) : Bool := dtBits dt != 0 || dt == 0x12 || (0x30 ≤ dt && dt ≤ 0x37)

def State.maxBytes (s : State) (n : Nat) : Nat := s.fget (f_iaStream_max_line_bytes_m1 n) + 1
def State.maxLines (s : State) (n : Nat) : Nat := s.fget (f_iaStream_max_lines_m1 n) + 1
def State.streamCtx (s : State) (n : Nat) : Nat := s.fget (f_iaStream_pipe_ctx n) % 32
def State.isPipe (s : State) (n : Nat) : Bool := s.fget (f_iaStream_path n) == 0

/-- IA holds: the fabric's clock stands stopped (R565), or a scrub holds the horizon buffer, where it writes its records
(R196). -/
def State.iaHeld (s : State) : Bool := s.stopped 4 || s.fbit f_hbScrub_start

/-- Lines of a stream wait for a scrub of their target: its frames are not visible yet (R183, R376). -/
def State.linesHeld (s : State) (n : Nat) : Bool :=
  let c := s.streamCtx n
  let targets := if s.isPipe n then [s.fget (f_ipCtx_out_target 0 c), s.fget (f_ipCtx_tap_target 0 c)]
    else [s.fget (f_iaStream_raw_target n)]
  s.cam.held.any fun h => targets.contains h.1

/-- A byte string filled with zeros to a 64 B boundary. -/
def pad64 (d : List Byte) : List Byte := d ++ zeros (64 * ceilDiv d.length 64 - d.length)

/-! Buffers. -/

/-- Buffers of a stream in use, after the frees that the group's return object allows (R366). -/
def State.heldBufs (s : State) (n : Nat) : List (Nat × Option Nat) :=
  let g := s.fget (f_iaStream_group n)
  let ret := s.obj (s.fget (f_iaGroup_return_obj g))
  (s.stream n).bufs.filter fun b => match b.2 with
    | none => true
    | some r => !reached ret (BitVec.ofNat 32 r)

/-- The lowest-numbered free buffer. -/
def State.freeBuf (s : State) (n : Nat) : Option Nat :=
  (List.range (s.fget (f_iaStream_buffers_m1 n) + 1)).find? fun b => !((s.heldBufs n).any fun x => x.1 == b)

/-- A discarded frame frees its buffer at once. -/
def State.dropBuf (s : State) (n b : Nat) : State :=
  let x := s.stream n
  s.setStream n { x with bufs := x.bufs.filter fun y => y.1 != b }

/-! The end of a frame. -/

/-- The 64 B lines a raw-path line takes (R363). -/
def State.rawPitch (s : State) (n : Nat) : Nat := ceilDiv (s.maxBytes n) 64

/-- The line where raw line k of a buffer starts. -/
def State.rawLine (s : State) (n b k : Nat) : Nat :=
  s.fget (f_iaStream_raw_base_line n) + b * s.fget (f_iaStream_stride_lines n) + k * s.rawPitch n

/-- A closed frame goes on: to the pipe, or, its last line visible, to the samples; or it is discarded (R380). -/
def State.frameOn (s : State) (n : Nat) (fr : CamFrame) : State :=
  let x := s.stream n
  let drop := (fr.truncated && !s.fbit (f_iaStream_keep_truncated n)) || (fr.crc && s.fbit (f_iaStream_crc_drop n))
  if drop then (s.setStream n { x with cur := none }).dropBuf n fr.buffer
  else if s.isPipe n then s.setStream n { x with cur := none, piped := x.piped ++ [fr] }
  else
    let rest := if fr.truncated then s.maxLines n - fr.lines else 0
    let s1 := (List.range rest).foldl (fun s k =>
      s.deliverTo (s.fget (f_iaStream_raw_target n)) (s.rawLine n fr.buffer (fr.lines + k)) (zeros (64 * s.rawPitch n))) s
    let y := s1.stream n
    s1.setStream n { y with cur := none, ready := y.ready ++ [fr] }

/-- Count a truncated frame (R380). -/
def State.countTruncated (s : State) : State := (s.fsat f_iaDropCount_truncated 1).raise f_iaEvent_truncated

/-- Truncate the open frame of a stream. -/
def State.truncate (s : State) (n : Nat) (overflow : Bool) : State :=
  match (s.stream n).cur with
  | none => s
  | some fr => s.countTruncated.frameOn n { fr with truncated := true, overflow := fr.overflow || overflow }

/-- Whether a frame holds every line it needs: the window's lines on the pipe path, all lines otherwise (R418). -/
def State.frameWhole (s : State) (n : Nat) (fr : CamFrame) : Bool :=
  if s.isPipe n then decide (s.ctxInH (s.streamCtx n) ≤ fr.rows.length) else decide (s.maxLines n ≤ fr.lines)

/-- Close the open frame at its Frame End (R380, R418); a frame truncated by a short line counts here. After the end of a
frame whose rest was dropped, long packets are stray again. -/
def State.closeFrame (s : State) (n : Nat) : State :=
  match (s.stream n).cur with
  | none => s.setStream n { s.stream n with dropping := false }
  | some fr => if !s.frameWhole n fr then s.truncate n false
    else (if fr.truncated then s.countTruncated else s).frameOn n fr

/-! Frame Start (R366, R375, R382, R413). -/

/-- The context's colour words as they stand in its pending copy: the registers. -/
def State.pendingColour (s : State) (c : Nat) : List Word :=
  (List.range 32).map fun w => s.rd ((f_ipCtx_commit 0 c).off + 4 * w)

/-- The active copy of a context's colour words; before the first latch, the reset values. -/
def State.activeColour (s : State) (c : Nat) : List Word :=
  match mapGet (fun _ => []) s.cam.active c with
  | [] => (List.range 32).map fun w => regReset ((f_ipCtx_commit 0 c).off + 4 * w)
  | l => l

/-- A marked pending copy is latched (R413). -/
def State.latchColour (s : State) (c : Nat) : State :=
  if !s.fbit (f_ipCtx_commit 0 c) then s
  else
    let s1 := { s with cam := { s.cam with active := mapSet (fun _ => []) s.cam.active c (s.pendingColour c) } }
    s1.fput (f_ipCtx_commit 0 c) 0

/-- A committed augmentation copy is latched by the first Frame Start that the group's members have accepted since. -/
def State.latchAug (s : State) (g : Nat) : State :=
  let x := s.group g
  match x.augCommit with
  | none => s
  | some (k, n0) => s.setGroup g { x with augCommit := none, augKey := k, augN0 := n0 }

/-- The augmentation of a frame: flip, crop and gain (R382). -/
def State.augment (s : State) (n ord : Nat) : Bool × Nat × Nat × Nat :=
  if !(s.isPipe n && s.fbit (f_iaStream_aug_en n)) then (false, 0, 0, 256)
  else
    let x := s.group (s.fget (f_iaStream_group n))
    let w := fun e => gritWord x.augKey 2 n ((x.augN0.toNat + ord) % 2 ^ 32) e
    let gs := s.fget (f_iaStream_gain_span n)
    (decide (w 0 < s.fget (f_iaStream_flip_p n) * 256),
     8 * (w 1 * (s.fget (f_iaStream_margin_x n) + 1) / 65536),
     8 * (w 2 * (s.fget (f_iaStream_margin_y n) + 1) / 65536),
     256 - gs + w 3 * (2 * gs + 1) / 65536)

/-- Accept a Frame Start for one stream context. -/
def State.openFrame (s : State) (n number : Nat) : State :=
  let s := s.truncate n false
  match s.freeBuf n with
  | none =>
    ((s.fsat f_iaDropCount_no_buffer 1).raise f_iaEvent_no_buffer).setStream n { s.stream n with dropping := true }
  | some b =>
    let ord := s.fget (f_iaStream_ordinal n) + 1
    let s := s.fput (f_iaStream_ordinal n) ord
    let g := s.fget (f_iaStream_group n)
    let s := if bit (s.fget (f_iaGroup_members g)) n then s.latchAug g else s
    let s := if s.isPipe n then s.latchColour (s.streamCtx n) else s
    let a := s.augment n (ord % 2 ^ 32)
    let t := (s.devTime.toNat : Int) + sext 32 (s.fget (f_iaStream_ts_offset n))
    let fr : CamFrame := {
      buffer := b, tSample := t, number := number % 65536, ordinal := ord % 2 ^ 32, lines := 0, truncated := false,
      crc := false, overflow := false, flip := a.1, cx := a.2.1, cy := a.2.2.1, gain := a.2.2.2,
      colour := if s.isPipe n then s.activeColour (s.streamCtx n) else [], rows := [], served := 0 }
    let x := s.stream n
    s.setStream n { x with cur := some fr, dropping := false, bufs := (s.heldBufs n).filter (fun y => y.1 != b) ++ [(b, none)] }

/-- Enabled camera contexts of a port and virtual channel. -/
def State.camStreams (s : State) (port vc : Nat) : List Nat :=
  (List.range 32).filter fun n => s.fbit (f_iaStream_enable n) && s.fget (f_iaStream_path n) != 2 &&
    s.fget (f_iaStream_port n) == port && s.fget (f_iaStream_vc n) == vc

/-- A port that receives packets: enabled, and not in a lane error (R380). -/
def State.crUp (s : State) (port : Nat) : Bool := s.fbit (f_crCfg_enable port) && s.fget (f_crStatus_state port) != 3

/-- A packet header that the port corrected, or dropped (R364). -/
def State.crHeader (s : State) (port : Nat) (hdr : Fin 3) : State :=
  if hdr = 1 then s.fsat (f_crStatus_hdr_corrected port) 1
  else if hdr = 2 then s.fsat (f_crStatus_hdr_dropped port) 1 else s

/-! Long packets (R363, R364, R380). -/

/-- Window lines of a context that wait in its staging lines (R416). -/
def State.staged (s : State) (n : Nat) : Nat :=
  let x := s.stream n
  let f := s.ctxFactor (s.streamCtx n)
  (x.piped ++ x.cur.toList).foldl (fun a fr => a + (fr.rows.length - f * fr.served)) 0

/-- Pixels a line of `len` bytes holds. -/
def linePixels (dt len : Nat) : Nat := if dtBits dt = 0 then 0 else len * 8 / dtBits dt

/-- Take one line into the open frame of a stream: into its buffer on the raw path, into staging on the pipe path. -/
def State.takeLine (s : State) (n : Nat) (fr : CamFrame) (d : List Byte) (crcOk : Bool) : State :=
  let fr1 := { fr with lines := fr.lines + 1, crc := fr.crc || !crcOk }
  let put := fun (s : State) (fr : CamFrame) => s.setStream n { s.stream n with cur := some fr }
  if !s.isPipe n then
    (put s fr1).deliverTo (s.fget (f_iaStream_raw_target n)) (s.rawLine n fr.buffer fr.lines) (pad64 d)
  else
    let c := s.streamCtx n
    let y := s.fget (f_ipCtx_y0 0 c) + fr.cy
    if fr.lines < y ∨ y + s.ctxInH c ≤ fr.lines then put s fr1
    else if s.fget (f_ipCtx_n_stage 0 c) ≤ s.staged n then
      (s.raise (f_ipEvent_staging_full (s.fget (f_iaStream_pipe n)))).truncate n true
    else
      let short := decide (linePixels (s.fget (f_iaStream_dt n)) d.length < s.fget (f_ipCtx_x0 0 c) + fr.cx + s.ctxInW c)
      let s1 := if short then s.raise (f_ipEvent_short_line (s.fget (f_iaStream_pipe n))) else s
      put s1 { fr1 with rows := fr.rows ++ [d], truncated := fr.truncated || short }

/-- A long packet for the stream context that serves its triple. -/
def State.takePacket (s : State) (n : Nat) (d : List Byte) (crcOk fifoFull : Bool) : State :=
  let x := s.stream n
  match x.cur with
  | none => if x.dropping then s else s.raise f_iaEvent_stray_data
  | some fr =>
    if s.maxBytes n < d.length ∨ s.maxLines n ≤ fr.lines ∨ fifoFull then
      let s1 := s.truncate n true
      s1.setStream n { s1.stream n with dropping := true }
    else
      let s1 := s.takeLine n fr d crcOk
      if (s1.stream n).cur.isSome then s1 else s1.setStream n { s1.stream n with dropping := true }

/-- A lane error or a payload CRC error, reported for its port (R596). -/
def State.inputError (s : State) (port : Nat) : State := s.report 8 port 0x0007 (s.fget (f_crStatus_state port))

/-- CSI_LANE_ERROR (R380). -/
def execCsiLaneError (port : Fin 8) (s : State) : Host.Outcome State Fault Refusal :=
  if !s.crUp port.val then .next s
  else .next ((s.fput (f_crStatus_state port.val) 3).inputError port.val)

/-- LANES_RETURN_TO_STOP_STATE (R380). -/
def execLanesReturnToStopState (port : Fin 8) (s : State) : Host.Outcome State Fault Refusal :=
  .next (if s.fget (f_crStatus_state port.val) = 3 then s.fput (f_crStatus_state port.val) 1 else s)

/-! Fusion groups (R376 to R379). -/

def Collection.times (c : Collection) : List Int := c.samples.map fun p => p.2.tSample
def Collection.least (c : Collection) : Int := match c.times with | [] => 0 | t :: r => r.foldl min t
def Collection.most (c : Collection) : Int := match c.times with | [] => 0 | t :: r => r.foldl max t

/-- Whether a sample keeps the collection's spread at or below W. -/
def Collection.fits (c : Collection) (w : Nat) (t : Int) : Bool := decide (max c.most t - min c.least t ≤ (w : Int))

/-- Free the buffers of a collection's samples. -/
def State.freeSamples (s : State) (c : Collection) : State := c.samples.foldl (fun s p => s.dropBuf p.1 p.2.buffer) s

/-- The next record sequence number of an SPI controller's enabled stream, or zero (R379). -/
def State.spiNext (s : State) (ctl : Nat) : Nat :=
  match (List.range 32).find? fun n => s.fbit (f_iaStream_enable n) && s.fget (f_iaStream_path n) == 2 &&
      s.fget (f_iaStream_port n) == ctl with
  | some n => (s.stream n).spiSeq
  | none => 0

/-- One entry of a group record (R379). -/
def recordEntry (tRef : Int) (p : Option CamFrame) : List Byte :=
  match p with
  | none => zeros 16
  | some f =>
    leBytes 4 (toTwos 32 (f.tSample - tRef)) ++ leBytes 2 f.number ++ leBytes 1 f.buffer ++
      leBytes 1 (1 + 2 * b2n f.truncated + 4 * b2n f.crc + 8 * b2n f.overflow) ++ leBytes 4 f.ordinal ++
      leBytes 2 f.lines ++ zeros 2

/-- A group record (R379). -/
def State.groupRecord (s : State) (g r : Nat) (c : Collection) : List Byte :=
  let members := s.fget (f_iaGroup_members g)
  let present := c.samples.foldl (fun a p => a ||| 2 ^ p.1) 0
  let flags := b2n (present != members) + 2 * b2n (c.samples.any fun p => p.2.truncated) + 4 * b2n (c.samples.any fun p => p.2.crc)
  leBytes 4 r ++ leBytes 4 present ++ leBytes 4 members ++ leBytes 4 flags ++ leBytes 8 (toTwos 64 c.least) ++
    leBytes 8 s.devTime.toNat ++ zeros 16 ++ ((List.range 4).map fun k => leBytes 4 (s.spiNext k)).flatten ++
    ((List.range 32).map fun n => recordEntry c.least ((c.samples.find? fun p => p.1 == n).map (·.2))).flatten

/-- A stream's presence in a release: the third consecutive absence is reported (R380). -/
def State.notePresence (s : State) (n : Nat) (present : Bool) : State :=
  let x := s.stream n
  let k := if present then 0 else x.silent + 1
  let s1 := s.setStream n { x with silent := k }
  if k = 3 then (s1.raise f_iaEvent_stream_silent).event 0x40 0xFF (leBytes 4 n) else s1

/-- Release a collection, or discard it where the record ring is full (R377). -/
def State.release (s : State) (g : Nat) (c : Collection) : State :=
  let r := (s.fget (f_iaGroup_releases g) + 1) % 2 ^ 32
  let count := s.fget (f_iaGroup_records_m1 g) + 1
  let ret := s.obj (s.fget (f_iaGroup_return_obj g))
  if !reached (ret + BitVec.ofNat 32 count) (BitVec.ofNat 32 r) then
    ((s.freeSamples c).fsat f_iaDropCount_overrun 1).raise f_iaEvent_group_overrun
  else
    let s1 := s.deliverTo 8 (s.fget (f_iaGroup_record_base_line g) + 9 * ((r + count - 1) % count)) (s.groupRecord g r c)
    let s2 := s1.fput (f_iaGroup_releases g) r
    let s3 := s2.setGroup g { s2.group g with lastRef := some c.least }
    let s4 := c.samples.foldl (fun s p =>
      let x := s.stream p.1
      s.setStream p.1 { x with bufs := x.bufs.map fun b => if b.1 = p.2.buffer ∧ b.2 = none then (b.1, some r) else b }) s3
    let members := s.fget (f_iaGroup_members g)
    let s5 := ((List.range 32).filter fun n => bit members n).foldl
      (fun s n => s.notePresence n (c.samples.any fun p => p.1 == n)) s4
    s5.signalObj (s.fget (f_iaGroup_ready_obj g)) 1

/-- Members of a mask. -/
def popCount (m : Nat) : Nat := ((List.range 32).filter fun i => bit m i).length

/-- The test of a deadline: release, or discard (R377). -/
def State.endCollection (s : State) (g : Nat) (c : Collection) : State :=
  let need := min (s.fget (f_iaGroup_min_members g)) (popCount (s.fget (f_iaGroup_members g)))
  if need ≤ c.samples.length then s.release g c else s.freeSamples c

/-- End the current collection under the deadline's test; the next becomes current. -/
def State.endCurrent (s : State) (g : Nat) : State :=
  let x := s.group g
  match x.current with
  | none => s
  | some c => (s.setGroup g { x with current := x.next, next := none }).endCollection g c

/-- Add a sample to a collection, replacing the stream's own. -/
def State.joinTo (s : State) (n : Nat) (fr : CamFrame) (c : Collection) : Collection × State :=
  match c.samples.find? fun p => p.1 == n with
  | some old => ({ c with samples := c.samples.filter (fun p => p.1 != n) ++ [(n, fr)] }, s.dropBuf n old.2.buffer)
  | none => ({ c with samples := c.samples ++ [(n, fr)] }, s)

/-- A collection that opens with a sample (R376). -/
def State.openWith (s : State) (g n : Nat) (fr : CamFrame) : Collection :=
  ⟨[(n, fr)], s.devTime.toNat + 1000 * max 1 (s.fget (f_iaGroup_deadline_us g))⟩

/-- Place a sample in its group (R376); `fuel` bounds how often rule 4 places it again. -/
def State.place (s : State) (g n : Nat) (fr : CamFrame) : Nat → State
  | 0 => s
  | fuel + 1 =>
    let x := s.group g
    let w := s.fget (f_iaGroup_window_ns g)
    let late := fun (_ : Unit) => ((s.dropBuf n fr.buffer).fsat f_iaDropCount_late 1).raise f_iaEvent_late
    let isLate := match x.lastRef with | some t => decide (fr.tSample ≤ t + (w : Int)) | none => false
    if isLate then late ()
    else match x.current with
      | none => s.setGroup g { x with current := some (s.openWith g n fr) }
      | some c =>
        if c.fits w fr.tSample then
          let p := s.joinTo n fr c
          p.2.setGroup g { x with current := some p.1 }
        else if fr.tSample < c.least then late ()
        else match x.next with
          | none => s.setGroup g { x with next := some (s.openWith g n fr) }
          | some c2 =>
            if c2.fits w fr.tSample then
              let p := s.joinTo n fr c2
              p.2.setGroup g { x with next := some p.1 }
            else (s.endCurrent g).place g n fr fuel

/-- Release the current collection while it is full (R377, R378). -/
def State.releaseFull (s : State) (g : Nat) : State :=
  let x := s.group g
  match x.current with
  | none => s
  | some c =>
    if c.samples.length = popCount (s.fget (f_iaGroup_members g)) then
      (s.setGroup g { x with current := x.next, next := none }).release g c
    else s

/-- SAMPLE_READY (R376): the first frame of the stream whose last line is visible is placed; a frame of a group that
does not run, or does not name the stream, is discarded. While IA holds, or lines of the stream wait, no frame is. -/
def execSampleReady (n : Fin 32) (s : State) : Host.Outcome State Fault Refusal :=
  let x := s.stream n.val
  match if s.iaHeld || s.linesHeld n.val then [] else x.ready with
  | [] => .next s
  | fr :: rest =>
    let s1 := s.setStream n.val { x with ready := rest }
    let g := s.fget (f_iaStream_group n.val)
    if s.fbit (f_iaGroup_enable g) && bit (s.fget (f_iaGroup_members g)) n.val then
      .next ((s1.place g n.val { fr with rows := [] } 4).releaseFull g)
    else .next (s1.dropBuf n.val fr.buffer)

/-- COLLECTION_DEADLINE (R377): the current collection's deadline falls due; IA acts on it when it does not hold. -/
def execCollectionDeadline (g : Fin 16) (s : State) : Host.Outcome State Fault Refusal :=
  .next (if s.fbit (f_iaGroup_enable g.val) && !s.iaHeld then (s.endCurrent g.val).releaseFull g.val else s)

/-! SPI streams, frame sync and time (R368, R371 to R374). -/

/-- Whether a pad carries its function 1, outside a hold (R632, R633). -/
def State.padOn (s : State) (n : Nat) : Bool := s.fget (f_pinMux_func n) == 1 && !s.fbit (f_pinMux_switching n)

/-- The enabled SPI stream of a controller whose data-ready input a pad carries: a pad that is not switched to it counts no
edges (R632, R633), and a stopped clock takes none (R565). -/
def State.spiStream (s : State) (ctl : Nat) : Option Nat :=
  if !s.padOn (17 + 6 * ctl) || s.stopped 4 || s.stopped 8 then none
  else (List.range 32).find? fun n => s.fbit (f_iaStream_enable n) && s.fget (f_iaStream_path n) == 2 &&
    s.fget (f_iaStream_port n) == ctl

/-- SPI_DATA_READY (R368): the bytes the controller read. -/
def execSpiDataReady (ctl : Fin 4) (data : List Byte) (s : State) : Host.Outcome State Fault Refusal :=
  match s.spiStream ctl.val with
  | none => .next s
  | some n =>
    let x := s.stream n
    let len := min 48 (s.maxBytes n)
    let rec64 := leBytes 8 s.devTime.toNat ++ leBytes 4 x.spiSeq ++ leBytes 1 len ++ zeros 3 ++
      ((data.take len) ++ zeros 48).take 48
    let line := s.fget (f_iaStream_raw_base_line n) + x.spiSeq % max 1 (s.fget (f_iaStream_stride_lines n))
    let s1 := s.setStream n { x with spiSeq := (x.spiSeq + 1) % 2 ^ 32 }
    .next (s1.deliverTo (s.fget (f_iaStream_raw_target n)) line rec64)

/-- PPS_EDGE (R374): an edge counts where pad 52 carries the PPS input (R632, R633). -/
def execPpsEdge (s : State) : Host.Outcome State Fault Refusal :=
  let near := match s.cam.ppsAt with | some t => decide (s.devTime.toNat < t + 500000000) | none => false
  if !s.fbit f_iaTimeCtrl_pps_en || near || !s.padOn 52 then .next s
  else
    let s1 := { s with cam := { s.cam with ppsAt := some s.devTime.toNat } }
    .next (s1.fput64 f_iaPpsCapture_capture_lo s.devTime.toNat)

/-- PPS_LOST (R374, R502). -/
def execPpsLost (s : State) : Host.Outcome State Fault Refusal :=
  .next (if s.fbit f_iaTimeCtrl_pps_en then (s.raise f_iaEvent_pps_lost).event 0x41 0xFF [] else s)

/-- The words of a frame-sync output in force (R371). -/
def State.fsyncWords (s : State) (n : Nat) : List Word := mapGet (fun _ => [0, 0, 0]) s.cam.fsync n

/-- Drive the pads that carry FSYNCn (R632): MPIO(36 + n) under function 1, MPIO(44 + n) under function 2. -/
def State.driveFsync (s : State) (n : Nat) (on : Bool) : State :=
  let level := on != bit ((s.fsyncWords n).getD 0 0).toNat 1
  let s1 := if s.padOn (36 + n) then s.emit (.pin (36 + n) level) else s
  if s.fget (f_pinMux_func (44 + n)) = 2 ∧ s.fbit (f_pinMux_switching (44 + n)) = false then s1.emit (.pin (44 + n) level) else s1

/-- FSYNC_ASSERT (R371): device time meets the output's period and phase. Pulses are withheld while the camera clock stands
stopped (R565). -/
def execFsyncAssert (n : Fin 8) (s : State) : Host.Outcome State Fault Refusal :=
  let w := s.fsyncWords n.val
  if !bit (w.getD 0 0).toNat 0 || w.getD 1 0 == 0 || s.stopped 6 then .next s
  else
    let s1 := { s with cam := { s.cam with fsyncOn := s.cam.fsyncOn ||| 2 ^ n.val } }
    .next (s1.driveFsync n.val true)

/-- FSYNC_DEASSERT (R371): the pulse ends after its width. -/
def execFsyncDeassert (n : Fin 8) (s : State) : Host.Outcome State Fault Refusal :=
  if !bit s.cam.fsyncOn n.val then .next s
  else
    let s1 := { s with cam := { s.cam with fsyncOn := setBits s.cam.fsyncOn n.val n.val 0 } }
    .next (s1.driveFsync n.val false)

/-- A write of IA_FSYNC word 0 commits the three words (R371). -/
def State.fsyncCommit (s : State) (n : Nat) (w0 : Word) : State :=
  let s1 := s.writeReg (f_iaFsync_enable n).off w0
  let w := [s1.rd (f_iaFsync_enable n).off, s1.rd (f_iaFsync_period_ns n).off, s1.rd (f_iaFsync_phase_ns n).off]
  { s1 with cam := { s1.cam with fsync := mapSet (fun _ => [0, 0, 0]) s1.cam.fsync n w } }

/-- IA_FSYNC_COMMIT (R371). -/
def execIaFsyncCommit (n : Fin 8) (w0 : Word) (s : State) : Host.Outcome State Fault Refusal := .next (s.fsyncCommit n.val w0)

/-- Whether any fusion group is enabled. -/
def State.anyGroup (s : State) : Bool := (List.range 16).any fun g => s.fbit (f_iaGroup_enable g)

/-- The commit of a device-time step (R372). -/
def State.timeStep (s : State) (step : DWord) : State :=
  if s.anyGroup then s.raise f_iaEvent_step_refused else { s with devTime := s.devTime + step }

/-- IA_TIME_STEP (R372). -/
def execIaTimeStep (step : DWord) (s : State) : Host.Outcome State Fault Refusal := .next (s.timeStep step)

/-- A write of n0 commits the pending key and base index (R382). -/
def State.augCommit (s : State) (g : Nat) (n0 : Word) : State :=
  let x := s.group g
  (s.wr (f_iaAug_n0 g).off n0).setGroup g { x with augCommit := some (x.augSeed, n0) }

/-- IA_AUG_COMMIT (R382). -/
def execIaAugCommit (g : Fin 16) (n0 : Word) (s : State) : Host.Outcome State Fault Refusal := .next (s.augCommit g.val n0)

/-- Zero IA_DROP_COUNT and every port's counters (R386, R392). -/
def State.iaCountsClear (s : State) : State :=
  (List.range 8).foldl (fun s p => (s.fput (f_crStatus_unmatched p) 0).wr (f_crStatus_hdr_corrected p).off 0)
    ((s.wr f_iaDropCount_truncated.off 0).wr f_iaDropCount_late.off 0)

/-- IA_COUNTS_CLEAR (R392). -/
def execIaCountsClear (s : State) : Host.Outcome State Fault Refusal := .next s.iaCountsClear

end Sys2Proof.Machine
end

