-- ==== Sys2Proof/Machine/ImagePipe.lean ====
section
/-! DEFINITION. The image pipes (R398 to R418): what a pipe computes of a frame's window lines, the rows it writes, line
memory, and the turns by which contexts share a pipe. -/

namespace Sys2Proof.Machine

/-! Unpacking (R400). The packing of codes in a CSI-2 payload is the CSI-2 standard's (PRESUMED, log entry 12). -/

/-- Code `i` of a raw payload. -/
def rawCode (dt : Nat) (d : List Byte) (i : Nat) : Nat :=
  let b := fun k => (d.getD k 0).toNat
  if dt = 0x2A then b i
  else if dt = 0x2B then b (5 * (i / 4) + i % 4) * 4 + b (5 * (i / 4) + 4) / 4 ^ (i % 4) % 4
  else if dt = 0x2C then b (3 * (i / 2) + i % 2) * 16 + b (3 * (i / 2) + 2) / 16 ^ (i % 2) % 16
  else if dt = 0x2D then
    let g := 7 * (i / 4)
    b (g + i % 4) * 64 + (b (g + 4) + 256 * b (g + 5) + 65536 * b (g + 6)) / 64 ^ (i % 4) % 64
  else b (2 * i) * 256 + b (2 * i + 1)

/-- Bits of a raw code. -/
def rawShift (dt : Nat) : Nat := 16 - dtBits dt

/-- A triple of samples. -/
structure Pix where
  c0 : Int
  c1 : Int
  c2 : Int
  deriving DecidableEq, Repr

def Pix.chan (p : Pix) (i : Nat) : Int := if i = 0 then p.c0 else if i = 1 then p.c1 else p.c2

/-- Pixel `i` of an RGB888 (R, G, B) or a YUV422 (Y, U, V) payload. -/
def colourCode (dt : Nat) (d : List Byte) (i : Nat) : Pix :=
  let b := fun k => ((d.getD k 0).toNat : Int) * 256
  if dt = 0x24 then ⟨b (3 * i + 2), b (3 * i + 1), b (3 * i)⟩
  else ⟨b (4 * (i / 2) + 1 + 2 * (i % 2)), b (4 * (i / 2)), b (4 * (i / 2) + 2)⟩

/-! The stages. -/

/-- What the stages of a frame read: its data type, window, colour words and augmentation. -/
structure PipeJob where
  dt : Nat
  inW : Nat
  inH : Nat
  x0 : Nat
  f : Nat
  cfa : Nat
  outW : Nat
  outH : Nat
  fmt : Nat
  tap : Nat
  colour : List Word
  curve : Nat → Nat → Int
  flip : Bool
  gain : Nat
  rows : List (List Byte)

/-- A field of a colour word. -/
def PipeJob.col (j : PipeJob) (w hi lo : Nat) : Nat := bits (j.colour.getD w 0).toNat hi lo

/-- The mosaic sample of window row i and column j after stage 1; a sample past a short line's end is code 0 (R418). -/
def PipeJob.mosaic (j : PipeJob) (i k : Nat) : Int :=
  let d := j.rows.getD i []
  if linePixels j.dt d.length ≤ j.x0 + k then 0 else (rawCode j.dt d (j.x0 + k) * 2 ^ rawShift j.dt : Nat)

/-- The colour of a mosaic site: 0 R, 1 Gr, 2 Gb, 3 B. -/
def PipeJob.site (j : PipeJob) (i k : Nat) : Nat := 2 * ((i + j.cfa / 2) % 2) + (k + j.cfa) % 2

/-- The reflection of R401 about the edge pixels of `n`; none where it leaves the window. -/
def reflect (n : Nat) (i : Int) : Option Nat :=
  let r := if i < 0 then -i else if (n : Int) ≤ i then 2 * (n : Int) - 2 - i else i
  if 0 ≤ r ∧ r < n then some r.toNat else none

/-- A stage's neighbour sample under R401. -/
def PipeJob.near (j : PipeJob) (g : Nat → Nat → Int) (i k : Int) : Int :=
  match reflect j.inH i, reflect j.inW k with
  | some a, some b => g a b
  | _, _ => (Config.outsideWindow i k % 65536 : Nat)

/-- Stage 2 (R403). -/
def PipeJob.black (j : PipeJob) (i k : Nat) : Int :=
  let c := j.site i k
  let bl := j.col (11 + c / 2) (16 * (c % 2) + 15) (16 * (c % 2))
  max 0 (j.mosaic i k - (bl : Int))

/-- The four neighbours sorted ascending. -/
def sort4 (l : List Int) : List Int := l.foldl (fun a x => a.filter (· ≤ x) ++ x :: a.filter (fun y => ¬ (y ≤ x))) []

/-- Stage 3 (R403). -/
def PipeJob.defect (j : PipeJob) (i k : Nat) : Int :=
  let b := j.black i k
  if j.col 0 8 8 = 0 then b
  else
    let n := fun (di dk : Int) => j.near j.black ((i : Int) + di) ((k : Int) + dk)
    let s := sort4 [n 0 (-2), n 0 2, n (-2) 0, n 2 0]
    let thr : Int := j.col 13 15 0
    if b > s.getD 3 0 + thr ∨ b + thr < s.getD 0 0 then (s.getD 1 0 + s.getD 2 0 + 1) / 2 else b

/-- Stage 4 (R404). -/
def PipeJob.white (j : PipeJob) (i k : Nat) : Int :=
  let c := j.site i k
  let g := j.col (14 + c / 2) (16 * (c % 2) + 15) (16 * (c % 2))
  min 65535 ((j.defect i k * (g : Int) * (j.gain : Int) + 2 ^ 19) / 2 ^ 20)

/-- Stage 5 (R405). -/
def PipeJob.demosaic (j : PipeJob) (i k : Nat) : Pix :=
  let n := fun (di dk : Int) => j.near j.white ((i : Int) + di) ((k : Int) + dk)
  let own := j.white i k
  let cross := (n (-1) 0 + n 1 0 + n 0 1 + n 0 (-1) + 2) / 4
  let diag := (n (-1) (-1) + n (-1) 1 + n 1 (-1) + n 1 1 + 2) / 4
  let row := (n 0 (-1) + n 0 1 + 1) / 2
  let colm := (n (-1) 0 + n 1 0 + 1) / 2
  match j.site i k with
  | 0 => ⟨own, cross, diag⟩
  | 3 => ⟨diag, cross, own⟩
  | 1 => ⟨row, own, colm⟩
  | _ => ⟨colm, own, row⟩

def clamp16 (x : Int) : Int := clampInt 0 65535 x

/-- A matrix stage (R406), its coefficients from word `w`, its offsets from word `o`. -/
def PipeJob.matrix (j : PipeJob) (w o : Nat) (p : Pix) : Pix :=
  let m := fun k => sext 16 (j.col (w + k / 2) (16 * (k % 2) + 15) (16 * (k % 2)))
  let out := fun i => clamp16 ((m (3 * i) * p.c0 + m (3 * i + 1) * p.c1 + m (3 * i + 2) * p.c2 + 2048) / 4096
    + sext 17 (j.col (o + i) 16 0))
  ⟨out 0, out 1, out 2⟩

/-- The tone curve of one channel (R407). -/
def PipeJob.tone (j : PipeJob) (i : Nat) (x : Int) : Int :=
  let k := x.toNat / 256
  j.curve i k + ((j.curve i (k + 1) - j.curve i k) * (x.toNat % 256 : Nat) + 128) / 256

/-- The pixel after stage 6, as a tap T2 writes it; YUV422 has entered at stage 9. -/
def PipeJob.tap2 (j : PipeJob) (i k : Nat) : Pix :=
  if dtRaw j.dt then j.matrix 16 21 (j.demosaic i k)
  else
    let d := j.rows.getD i []
    let p : Pix := if linePixels j.dt d.length ≤ j.x0 + k then ⟨0, 0, 0⟩ else colourCode j.dt d (j.x0 + k)
    if j.dt = 0x24 then j.matrix 16 21 p else p

/-- The pixel after stage 8. -/
def PipeJob.stage8 (j : PipeJob) (i k : Nat) : Pix :=
  let p := j.tap2 i k
  if j.dt = 0x1E then p
  else j.matrix 24 29 (if j.col 0 9 9 = 0 then p else ⟨j.tone 0 p.c0, j.tone 1 p.c1, j.tone 2 p.c2⟩)

/-- Stages 9 and 10: the downscaled and flipped sample (R408). -/
def PipeJob.scaled (j : PipeJob) (ch r q : Nat) : Int :=
  let q' := if j.flip then j.outW - 1 - q else q
  let sum := ((List.range (j.f * j.f)).map fun t =>
    (j.stage8 (j.f * r + t / j.f) (j.f * q' + t % j.f)).chan ch).sum
  (sum + ((j.f * j.f / 2 : Nat) : Int)) / ((j.f * j.f : Nat) : Int)

/-- The UINT8 code of R409. -/
def code8 (y : Int) : Int := min 255 ((y + 128) / 256)

/-- Stage 11 of one element (R409). -/
def quantOut (fmt : Nat) (y : Int) : List Byte :=
  let fp := fun (f : FpFmt) => leBytes 2 (if y = 0 then 0 else let r := satFp f y (-16); encodeFp f r.1 r.2.1)
  match fmt with
  | 0 => leBytes 1 (code8 y).toNat
  | 1 => leBytes 1 (toTwos 8 (code8 y - 128))
  | 2 => fp fp16
  | 3 => fp bf16
  | 4 => leBytes 1 (code8 y).toNat
  | _ => leBytes 2 (min 1023 ((y + 32) / 64)).toNat

/-- Whether an output format is YUV 4:2:0. -/
def is420 (fmt : Nat) : Bool := fmt == 4 || fmt == 5

/-- The elements of one output row of a plane; a 4:2:0 chroma row averages 2 × 2 flipped pixels (R409). -/
def PipeJob.outRow (j : PipeJob) (p r : Nat) : List Byte :=
  if is420 j.fmt && p != 0 then
    ((List.range (j.outW / 2)).map fun q =>
      let s := j.scaled p
      quantOut j.fmt ((s (2 * r) (2 * q) + s (2 * r) (2 * q + 1) + s (2 * r + 1) (2 * q) + s (2 * r + 1) (2 * q + 1) + 2) / 4)).flatten
  else ((List.range j.outW).map fun q => quantOut j.fmt (j.scaled p r q)).flatten

/-- The samples of one tap row of a plane (R412). -/
def PipeJob.tapRow (j : PipeJob) (p i : Nat) : List Byte :=
  ((List.range j.inW).map fun k =>
    leBytes 2 (match j.tap with
      | 1 => j.mosaic i k
      | 2 => j.white i k
      | _ => (j.tap2 i k).chan p).toNat).flatten

/-! Rows in memory. -/

/-- Entry k of channel i of a tone-curve set (R433). -/
def State.curveEntry (s : State) (set i k : Nat) : Int :=
  bits (s.rd (0x8D4000 + 2048 * set + 516 * i + 4 * (k / 2))).toNat (16 * (k % 2) + 15) (16 * (k % 2))

/-- What the stages read for a frame of a stream on context c. -/
def State.pipeJob (s : State) (n c : Nat) (fr : CamFrame) : PipeJob :=
  { dt := s.fget (f_iaStream_dt n), inW := s.ctxInW c, inH := s.ctxInH c, x0 := s.fget (f_ipCtx_x0 0 c) + fr.cx,
    f := s.ctxFactor c, cfa := s.fget (f_ipCtx_cfa 0 c), outW := s.fget (f_ipCtx_out_w 0 c),
    outH := s.fget (f_ipCtx_out_h 0 c), fmt := s.fget (f_ipCtx_out_fmt 0 c), tap := s.fget (f_ipCtx_tap 0 c),
    colour := fr.colour, curve := s.curveEntry (bits (fr.colour.getD 0 0).toNat 13 10), flip := fr.flip, gain := fr.gain,
    rows := fr.rows }

/-- Output rows that the window lines received so far complete (R416). -/
def rowsDone (f outH inH got : Nat) : Nat := if inH ≤ got then outH else min outH ((got - 3) / f)

/-- Write one output row of a plane: elements, or zero codes past `live` rows, then zeros to the 64 B boundary (R410,
R418). -/
def State.writeOut (s : State) (c b : Nat) (j : PipeJob) (p r : Nat) (live : Bool) : State :=
  let d := j.outRow p r
  let line := s.fget (f_ipCtx_out_base_line 0 c) + b * s.fget (f_ipCtx_buffer_stride 0 c) +
    p * s.fget (f_ipCtx_plane_stride 0 c) + r * s.fget (f_ipCtx_out_row_stride 0 c)
  s.deliverTo (s.fget (f_ipCtx_out_target 0 c)) line (pad64 (if live then d else zeros d.length))

/-- Write one tap row of a plane (R412). -/
def State.writeTap (s : State) (c b : Nat) (j : PipeJob) (p i : Nat) (live : Bool) : State :=
  let d := j.tapRow p i
  let stride := s.fget (f_ipCtx_tap_row_stride 0 c)
  let line := s.fget (f_ipCtx_tap_base_line 0 c) + b * s.fget (f_ipCtx_tap_buffer_stride 0 c) + p * stride * j.inH + i * stride
  s.deliverTo (s.fget (f_ipCtx_tap_target 0 c)) line (pad64 (if live then d else zeros d.length))

/-- Write output row r of every plane, with the chroma row that ends there and the tap rows beside it; rows from `live` on
are zero codes. -/
def State.writeRow (s : State) (c b : Nat) (j : PipeJob) (live r : Nat) : State :=
  let ok := decide (r < live)
  let s1 :=
    if is420 j.fmt then
      let s1 := s.writeOut c b j 0 r ok
      if r % 2 = 1 then (s1.writeOut c b j 1 (r / 2) ok).writeOut c b j 2 (r / 2) ok else s1
    else ((s.writeOut c b j 0 r ok).writeOut c b j 1 r ok).writeOut c b j 2 r ok
  if j.tap = 0 then s1
  else
    (List.range j.f).foldl (fun s k =>
      let i := j.f * r + k
      let t := s.writeTap c b j 0 i ok
      if j.tap = 3 then (t.writeTap c b j 1 i ok).writeTap c b j 2 i ok else t) s1

/-- Serve output rows of the oldest frame of a stream's context up to row `upto`; a frame served whole is a sample once
its last line has come. -/
def State.serveRows (s : State) (n upto : Nat) : State :=
  let x := s.stream n
  let c := s.streamCtx n
  match x.piped ++ x.cur.toList with
  | [] => s
  | fr :: _ =>
    let j := s.pipeJob n c fr
    let live := rowsDone j.f j.outH j.inH fr.rows.length
    let s1 := (List.range (upto - fr.served)).foldl (fun s k => s.writeRow c fr.buffer j live (fr.served + k)) s
    let fr1 := { fr with served := max fr.served upto }
    let y := s1.stream n
    match x.piped with
    | [] => s1.setStream n { y with cur := some fr1 }
    | _ :: rest =>
      if j.outH ≤ fr1.served then s1.setStream n { y with piped := rest, ready := y.ready ++ [fr1] }
      else s1.setStream n { y with piped := fr1 :: rest }

/-! Turns (R416). -/

def State.ipRt (s : State) (p : Nat) : IpRt := mapGet (fun _ => IpRt.reset) s.cam.pipes p

def State.setIp (s : State) (p : Nat) (x : IpRt) : State :=
  { s with cam := { s.cam with pipes := mapSet (fun _ => IpRt.reset) s.cam.pipes p x } }

/-- The enabled stream that names context c of pipe p. -/
def State.ctxStream (s : State) (p c : Nat) : Option Nat :=
  (List.range 32).find? fun n => s.fbit (f_iaStream_enable n) && s.isPipe n && s.fget (f_iaStream_pipe n) == p &&
    s.streamCtx n == c

/-- The oldest frame a context has in its pipe, and whether its input has ended. -/
def State.ctxFrame (s : State) (n : Nat) : Option (CamFrame × Bool) :=
  match (s.stream n).piped, (s.stream n).cur with
  | fr :: _, _ => some (fr, true)
  | [], some fr => some (fr, false)
  | [], none => none

/-- Rows of the stripe at the head of a context's frame that is ready, in stripe mode: the row where it ends (R416). -/
def State.readyStripe (s : State) (p n : Nat) : Option Nat :=
  match s.ctxFrame n with
  | none => none
  | some (fr, ended) =>
    let c := s.streamCtx n
    let S := 8 * 2 ^ s.fget (f_ipCtrl_stripe p)
    let outH := s.fget (f_ipCtx_out_h 0 c)
    let e := min ((fr.served / S + 1) * S) outH
    if outH ≤ fr.served then (if ended then some outH else none)
    else if s.ctxFactor c * e + 3 ≤ fr.rows.length ∨ s.ctxInH c ≤ fr.rows.length then some e
    else if ended then some outH else none

/-- Whether a context has staged lines, in frame mode. -/
def State.hasLines (s : State) (n : Nat) : Bool :=
  match s.ctxFrame n with
  | none => false
  | some (fr, ended) => ended || decide (s.ctxFactor (s.streamCtx n) * fr.served < fr.rows.length)

/-- In frame mode the context being served takes its lines as they come; its turn ends with its frame (R416). -/
def State.pipeRun (s : State) (p : Nat) : State :=
  let x := s.ipRt p
  if !x.serving then s
  else
    let stop := fun (s : State) => (s.setIp p { s.ipRt p with serving := false }).fput (f_ipStatus_busy p) 0
    match (x.last.bind fun c => s.ctxStream p c) with
    | none => stop s
    | some n => match s.ctxFrame n with
      | none => stop s
      | some (fr, ended) =>
        let c := s.streamCtx n
        let outH := s.fget (f_ipCtx_out_h 0 c)
        let upto := if ended then outH else rowsDone (s.ctxFactor c) outH (s.ctxInH c) fr.rows.length
        let s1 := s.serveRows n upto
        if outH ≤ upto then stop s1 else s1

/-- The next context in round robin that a turn may serve: ascending, starting after the last served. -/
def State.nextCtx (s : State) (p : Nat) (can : Nat → Bool) : Option (Nat × Nat) :=
  let start := match (s.ipRt p).last with | some c => c + 1 | none => 0
  (List.range 32).findSome? fun k =>
    let c := (start + k) % 32
    match s.ctxStream p c with
    | some n => if can n then some (c, n) else none
    | none => none

/-- Turn a pipe to a context: a change is counted (R417, R431). -/
def State.turnTo (s : State) (p c : Nat) (serving : Bool) : State :=
  let x := s.ipRt p
  let s1 := match x.last with
    | some l => if l = c then s else s.fsat (f_ipSwitchCount_switches p) 1
    | none => s
  ((s1.setIp p ⟨some c, serving⟩).fput (f_ipStatus_context p) c).fput (f_ipStatus_busy p) (b2n serving)

/-- PIPE_TURN (R416): the pipe serves the next ready stripe, or turns to the next context with staged lines; it holds while
the fabric's clock stands stopped (R565). -/
def execPipeTurn (p : Fin 2) (s : State) : Host.Outcome State Fault Refusal :=
  let p := p.val
  if s.stopped 4 then .next s
  else if s.fbit (f_ipCtrl_mode p) then
    match s.nextCtx p fun n => (s.readyStripe p n).isSome with
    | none => .next s
    | some (c, n) => .next ((s.turnTo p c false).serveRows n ((s.readyStripe p n).getD 0))
  else if (s.ipRt p).serving then .next s
  else match s.nextCtx p fun n => s.hasLines n with
    | none => .next s
    | some (c, _) => .next ((s.turnTo p c true).pipeRun p)

/-! Line memory and contexts (R413 to R415). -/

/-- The line memory a context needs for a stream's data type (R415). -/
def State.lineMemory (s : State) (n : Nat) : Nat :=
  let c := s.streamCtx n
  let dt := s.fget (f_iaStream_dt n)
  let up := fun k => 64 * ceilDiv k 64
  (s.fget (f_ipCtx_n_stage 0 c) + (if dtRaw dt then 6 else 0)) * up ((if dt = 0x24 then 3 else 2) * s.ctxInW c) +
    up (12 * s.fget (f_ipCtx_out_w 0 c))

/-- The sum over the enabled streams that name a pipe. -/
def State.lineMemoryUsed (s : State) (p : Nat) : Nat :=
  ((List.range 32).filter fun n => s.fbit (f_iaStream_enable n) && s.isPipe n && s.fget (f_iaStream_pipe n) == p).foldl
    (fun a n => a + s.lineMemory n) 0

/-- Report it in IP_STATUS of both pipes (R415, R429). -/
def State.lineMemoryReport (s : State) : State :=
  (s.fput (f_ipStatus_lm_used_kib 0) (ceilDiv (s.lineMemoryUsed 0) 1024)).fput (f_ipStatus_lm_used_kib 1)
    (ceilDiv (s.lineMemoryUsed 1) 1024)

/-- Whether an enabled stream names a context. -/
def State.ctxBound (s : State) (c : Nat) : Bool :=
  (List.range 32).any fun n => s.fbit (f_iaStream_enable n) && s.isPipe n && s.streamCtx n == c

/-- CONTEXT_COMMIT (R413): the pending copy is marked until the latch. -/
def execContextCommit (c : Fin 32) (s : State) : Host.Outcome State Fault Refusal :=
  .next (s.fput (f_ipCtx_commit 0 c.val) 1)

/-- Whether a context bound to an enabled stream names a tone-curve set in its active or pending copy (R414). -/
def State.curveNamed (s : State) (set : Nat) : Bool :=
  (List.range 32).any fun c => s.ctxBound c &&
    (s.fget (f_ipCtx_curve 0 c) == set || bits ((s.activeColour c).getD 0 0).toNat 13 10 == set)

/-- A write to a word of a tone-curve set through pipe p (R414, R433). -/
def State.curveWrite (s : State) (p set word : Nat) (v : Word) : State :=
  if s.curveNamed set then s.raise (f_ipEvent_curve_busy p) else s.writeReg (0x8D4000 + 2048 * set + 4 * word) v

/-- CURVE_WRITE (R414). -/
def execCurveWrite (p : Fin 2) (set : Fin 16) (word : Fin 387) (v : Word) (s : State) : Host.Outcome State Fault Refusal :=
  .next (s.curveWrite p.val set.val word.val v)

/-- IP_COUNTS_CLEAR (R430). -/
def execIpCountsClear (p : Fin 2) (s : State) : Host.Outcome State Fault Refusal :=
  .next (s.wr (f_ipSwitchCount_switches p.val).off 0)

end Sys2Proof.Machine
end

