-- ==== Sys2Proof/Machine/CamEvents.lean ====
section
/-! DEFINITION. The events of camera frames (R363 to R366, R380) and the enables of streams and groups (R363, R365, R395,
R396, R398). -/

namespace Sys2Proof.Machine

/-- Both pipes take what has come for the contexts they serve; they hold while the fabric's clock stands stopped (R565). -/
def State.pipesRun (s : State) : State := if s.stopped 4 then s else (s.pipeRun 0).pipeRun 1

/-- FRAME_START (R366, R375): `hdr` is 0 for a good header, 1 for a corrected one, 2 for an uncorrectable one. -/
def execFrameStart (port : Fin 8) (vc : Fin 32) (number : BitVec 16) (hdr : Fin 3) (s : State) :
    Host.Outcome State Fault Refusal :=
  if !s.crUp port.val then .next s
  else
    let s1 := s.crHeader port.val hdr
    if hdr = 2 then .next s1
    else match s1.camStreams port.val vc.val with
      | [] => .next (s1.fsat (f_crStatus_unmatched port.val) 1)
      | l => .next (l.foldl (fun s n => s.openFrame n number.toNat) s1).pipesRun

/-- FRAME_END (R380). -/
def execFrameEnd (port : Fin 8) (vc : Fin 32) (hdr : Fin 3) (s : State) : Host.Outcome State Fault Refusal :=
  if !s.crUp port.val then .next s
  else
    let s1 := s.crHeader port.val hdr
    if hdr = 2 then .next s1
    else match s1.camStreams port.val vc.val with
      | [] => .next (s1.fsat (f_crStatus_unmatched port.val) 1)
      | l => .next (l.foldl (fun s n => s.closeFrame n) s1).pipesRun

/-- LONG_PACKET (R363, R364, R380): header and payload check as `hdr` and `crcOk` say; `fifoFull` where the delivery
FIFO cannot take the line (R367). -/
def execLongPacket (port : Fin 8) (vc : Fin 32) (dt : Fin 64) (data : List Byte) (hdr : Fin 3) (crcOk fifoFull : Bool)
    (s : State) : Host.Outcome State Fault Refusal :=
  if !s.crUp port.val then .next s
  else
    let s1 := s.crHeader port.val hdr
    if hdr = 2 then .next s1
    else match (s1.camStreams port.val vc.val).find? fun n => s1.fget (f_iaStream_dt n) == dt.val with
      | none => .next (s1.fsat (f_crStatus_unmatched port.val) 1)
      | some n =>
        let s2 := if crcOk then s1 else (s1.fsat (f_crStatus_crc_errors port.val) 1).inputError port.val
        .next (s2.takePacket n data crcOk fifoFull).pipesRun

/-- LINE_TIMEOUT (R380): no packet of the open frame within its line timeout; a frame of max_lines lines completes. -/
def execLineTimeout (n : Fin 32) (s : State) : Host.Outcome State Fault Refusal :=
  if !s.fbit (f_iaStream_enable n.val) || s.fget (f_iaStream_line_timeout_us n.val) == 0 then .next s
  else match (s.stream n.val).cur with
    | none => .next s
    | some fr => .next (if s.maxLines n.val ≤ fr.lines then s.closeFrame n.val else s.truncate n.val false).pipesRun

/-! Enables. -/

/-- Why a camera stream of the pipe path is refused (R398, R402, R415, R432), its word 0 being in place. -/
def State.pipeRefused (s : State) (n : Nat) : Bool :=
  let c := s.streamCtx n
  let p := s.fget (f_iaStream_pipe n)
  let dt := s.fget (f_iaStream_dt n)
  let fmt := s.fget (f_ipCtx_out_fmt 0 c)
  let w := s.fget (f_ipCtx_out_w 0 c)
  let h := s.fget (f_ipCtx_out_h 0 c)
  let tap := s.fget (f_ipCtx_tap 0 c)
  dtBits dt == 0 || s.ctxBound c || (!dtRaw dt && (tap == 1 || tap == 2)) ||
  (is420 fmt && (w % 2 == 1 || h % 2 == 1)) || fmt == 6 || fmt == 7 || s.fget (f_ipCtx_f 0 c) == 3 ||
  w == 0 || decide (8192 < w) || h == 0 || decide (8192 < h) || decide (s.fget (f_ipCtx_n_stage 0 c) < 8) ||
  decide (8 < s.fget (f_ipCtx_out_target 0 c)) || decide (8 < s.fget (f_ipCtx_tap_target 0 c)) ||
  decide (linePixels dt (s.maxBytes n) < s.fget (f_ipCtx_x0 0 c) + 8 * s.fget (f_iaStream_margin_x n) + s.ctxInW c) ||
  decide (s.maxLines n < s.fget (f_ipCtx_y0 0 c) + 8 * s.fget (f_iaStream_margin_y n) + s.ctxInH c) ||
  decide (1048576 < s.lineMemoryUsed p + s.lineMemory n)

/-- Why a stream's enable is refused (R363, R365, R368, R395), its word 0 being in place and not enabled. -/
def State.streamRefused (s : State) (n : Nat) : Bool :=
  let path := s.fget (f_iaStream_path n)
  let target := decide (8 < s.fget (f_iaStream_raw_target n))
  let same := (List.range n).any fun m => s.fbit (f_iaStream_enable m) && s.fget (f_iaStream_path m) != 2 &&
    s.fget (f_iaStream_port m) == s.fget (f_iaStream_port n) && s.fget (f_iaStream_vc m) == s.fget (f_iaStream_vc n) &&
    s.fget (f_iaStream_dt m) == s.fget (f_iaStream_dt n)
  match path with
  | 0 => same || s.pipeRefused n
  | 1 => same || target || !dtRawPath (s.fget (f_iaStream_dt n))
  | 2 => target || decide (48 < s.maxBytes n) || decide (3 < s.fget (f_iaStream_port n))
  | _ => true

/-- A write of word 0 of a stream context that asks for its enable; one that sets a growth bit is an overflow even where the
stream is enabled (R14). -/
def State.streamEnable (s : State) (n : Nat) (w0 : Word) : State :=
  if growthSet (f_iaStream_enable n).off w0 then s.growthOverflow (f_iaStream_enable n).off
  else if s.fbit (f_iaStream_enable n) then s
  else
    let s1 := s.writeReg (f_iaStream_enable n).off (w0 &&& 0xFFFFFFFE)
    if s1.streamRefused n then s1.raise f_iaEvent_config_refused
    else (((s1.fput (f_iaStream_enable n) 1).fput (f_iaStream_ordinal n) 0).setStream n .reset).lineMemoryReport

/-- IA_STREAM_ENABLE (R365). -/
def execIaStreamEnable (n : Fin 32) (w0 : Word) (s : State) : Host.Outcome State Fault Refusal :=
  .next (s.streamEnable n.val w0)

/-- A collection without a stream's sample; none when it held no other. -/
def Collection.without (c : Collection) (n : Nat) : Option Collection :=
  match c.samples.filter fun p => p.1 != n with
  | [] => none
  | l => some { c with samples := l }

/-- Disable a stream: its held samples are discarded and its buffers freed (R395). -/
def State.streamDisable (s : State) (n : Nat) : State :=
  if !s.fbit (f_iaStream_enable n) then s
  else
    let g := s.fget (f_iaStream_group n)
    let x := s.group g
    let cur := x.current.bind fun c => c.without n
    let nxt := x.next.bind fun c => c.without n
    let s1 := s.setGroup g (match cur with
      | some c => { x with current := some c, next := nxt }
      | none => { x with current := nxt, next := none })
    (((s1.setStream n .reset).fput (f_iaStream_enable n) 0).lineMemoryReport).pipesRun

/-- IA_STREAM_DISABLE (R395). -/
def execIaStreamDisable (n : Fin 32) (s : State) : Host.Outcome State Fault Refusal := .next (s.streamDisable n.val)

/-- Why a group's enable is refused (R396). -/
def State.groupRefused (s : State) (g : Nat) : Bool :=
  let m := s.fget (f_iaGroup_members g)
  (List.range 32).any (fun n => bit m n &&
    (!s.fbit (f_iaStream_enable n) || s.fget (f_iaStream_group n) != g || s.fget (f_iaStream_path n) == 2)) ||
  s.fget (f_iaGroup_ready_obj g) != 0x7F00 + 2 * g || s.fget (f_iaGroup_return_obj g) != 0x7F01 + 2 * g

/-- A write of word 0 of a group that asks for its enable. -/
def State.groupEnable (s : State) (g : Nat) (w0 : Word) : State :=
  if s.fbit (f_iaGroup_enable g) then s
  else
    let s1 := s.writeReg (f_iaGroup_enable g).off (w0 &&& 0xFFFFFFFE)
    if s1.groupRefused g then s1.raise f_iaEvent_config_refused
    else ((s1.fput (f_iaGroup_enable g) 1).fput (f_iaGroup_releases g) 0).setGroup g
      { s1.group g with current := none, next := none, lastRef := none }

/-- IA_GROUP_ENABLE (R396). -/
def execIaGroupEnable (g : Fin 16) (w0 : Word) (s : State) : Host.Outcome State Fault Refusal :=
  .next (s.groupEnable g.val w0)

/-- Disable a group: its collections are discarded without a signal (R396). -/
def State.groupDisable (s : State) (g : Nat) : State :=
  let x := s.group g
  let s1 := (x.current.toList ++ x.next.toList).foldl (fun s c => s.freeSamples c) s
  (s1.setGroup g { x with current := none, next := none }).fput (f_iaGroup_enable g) 0

/-- IA_GROUP_DISABLE (R396). -/
def execIaGroupDisable (g : Fin 16) (s : State) : Host.Outcome State Fault Refusal := .next (s.groupDisable g.val)

end Sys2Proof.Machine
end

