-- ==== Sys2Proof/Machine/Sync.lean ====
section
/-! DEFINITION. The sync engine's instructions and the events of waits (R137 to R144), and the sync objects as the MP
writes them. -/

namespace Sys2Proof.Machine

/-- SIGNAL (R140, R141, R340): local objects take the increment on the issue cycle; remote ones go over the ring. -/
def execSignal (core : Fin 8) (w : IWord) (s : State) : Host.Outcome State Fault Refusal :=
  let n := core.val
  let inc : Word := BitVec.ofNat 32 (fld w 79 48)
  let remote := bit w.toNat 39
  match s.issue n w 5 0x00 with
  | .none => .next s
  | .fault s' => .next s'
  | .go cyc _ s1 =>
    if syncGrowth w then .next (s.decodeFault n 5 0x03)
    else if remote then
        let s2 := if s1.coreFailed n then s1.dropWrites 1 else s1.remoteSignal (fld w 43 40) (fld w 38 24) inc
        .next (s2.advance n)
    else match s.syncIndex n (fld w 38 24) with
      | none => .next (s.decodeFault n 5 0x0A)
      | some o => .next ((s1.complete n cyc (some (o, inc))).advance n)

/-- The anchor moves to a satisfied WAIT (R31, R142). -/
def State.satisfy (s : State) (n cyc : Nat) : State :=
  let p := s.pos n
  let c := s.core n
  (s.setCore n { c with ref := cyc, anchorPos := p, anchorRef := cyc, waiting := none }).advance n

/-- WAIT (R142 to R144): satisfied on its issue cycle, or the core waits. -/
def execWait (core : Fin 8) (w : IWord) (s : State) : Host.Outcome State Fault Refusal :=
  let n := core.val
  let c := s.core n
  match s.issue n w 5 0x01 with
  | .none => .next s
  | .fault s' => .next s'
  | .go cyc _ s1 =>
    if syncGrowth w then .next (s.decodeFault n 5 0x03)
    else if bit w.toNat 39 then .next (s.decodeFault n 5 0x0A)
    else if !c.calls.isEmpty then .next (s.decodeFault n 5 0x0E)
    else match s.syncIndex n (fld w 38 24) with
      | none => .next (s.decodeFault n 5 0x0A)
      | some o =>
        let target : Word := BitVec.ofNat 32 (fld w 79 48 + if bit w.toNat 84 then breg c cyc (fld w 83 80) else 0)
        if reached (s1.objSeen n o cyc) target then .next (s1.satisfy n cyc)
        else
          let c1 := s1.core n
          .next ((s1.setCore n { c1 with waitSkip := 0, waiting := some (o, target, cyc, c.stepOpen) }).fput (f_ncStatus_state n) 2)

/-- SET (R140, R141): the value, then the signals that land on this cycle or later. -/
def execSetObj (core : Fin 8) (w : IWord) (s : State) : Host.Outcome State Fault Refusal :=
  let n := core.val
  match s.issue n w 5 0x02 with
  | .none => .next s
  | .fault s' => .next s'
  | .go _ _ s1 =>
    if syncGrowth w then .next (s.decodeFault n 5 0x03)
    else if bit w.toNat 39 then .next (s.decodeFault n 5 0x0A)
    else match s.syncIndex n (fld w 38 24) with
      | none => .next (s.decodeFault n 5 0x0A)
      | some o =>
        let v : Word := BitVec.ofNat 32 (fld w 79 48)
        let s2 := if s1.coreFailed n then s1.dropWrites 1 else s1.replaceObject o v
        .next (s2.advance n)

/-- WAIT_SATISFIED (R142): `cycles` after its issue the waiting core samples a counter that meets its target. A frozen core
samples none (R32). -/
def execWaitSatisfied (core : Fin 8) (cycles : Nat) (s : State) : Host.Outcome State Fault Refusal :=
  let n := core.val
  match (s.core n).waiting with
  | none => .next s
  | some (o, target, cyc, _) =>
    let at_ := cyc + max 1 cycles
    if !s.coreStopped n && reached (s.objSeen n o at_) target then
      .next (((s.waitCycles n (at_ - cyc - (s.core n).waitSkip)).fput (f_ncStatus_state n) 1).satisfy n at_)
    else .next s

/-- WAIT_TIMEOUT (R144): a wait inside a step, and a limit that is not disabled. -/
def execWaitTimeout (core : Fin 8) (cycles : Nat) (s : State) : Host.Outcome State Fault Refusal :=
  let n := core.val
  match (s.core n).waiting with
  | none => .next s
  | some (o, target, _, opens) =>
    if opens || s.coreStopped n || s.fget (f_ncWaitLimit_limit_us n) == 0 || reached (s.obj o) target then .next s
    else .next ((s.waitCycles n (cycles - (s.core n).waitSkip)).faultAt (s.who n 5) 0x00 .waitTimeout)

/-- MP_SYNC_SIGNAL (R141). -/
def execMpSyncSignal (obj : Fin 32768) (inc : Word) (s : State) : Host.Outcome State Fault Refusal :=
  .next (s.signalObj obj.val inc)

/-- MP_SYNC_SET (R141). -/
def execMpSyncSet (obj : Fin 32768) (v : Word) (s : State) : Host.Outcome State Fault Refusal :=
  .next (s.replaceObject obj.val v)

end Sys2Proof.Machine
end

