-- ==== Sys2Proof/Machine/CoreEvents.lean ====
section
/-! DEFINITION. Starting, aborting and resetting a core and its memories: NC_CTRL, NC_CP_CTRL, the tilth guard's log, the
scratchpad's and the horizon buffer's scrubs, counters and error injection, the grit key and the self-test. -/

namespace Sys2Proof.Machine

/-- Start a core at NC_STREAM_POS (R118, R156): the step's first four lines are read on four cycles, and the cycle after
them is the step's anchor. -/
def State.startCore (s : State) (n : Nat) : State :=
  if s.coreState n ≠ 0 ∧ s.coreState n ≠ 3 ∨ s.fbit (f_pgCorePwr_on n) = false then s
  else
    let c := s.core n
    let t0 := asyncCycle c
    let p := s.fget (f_ncStreamPos_position n)
    let k := p / 4
    let s1 := s.setCore n { c with
      ref := t0 + 4, lastIssue := 0, engines := [], calls := [], reps := [], half := none, waiting := none, stepOpen := true,
      stepEndAt := none, paused := false, badLines := [], tgPending := false, profiling := s.fbit (f_tgCtrl_profiling n),
      anchorPos := 0xFFFFFFFF, anchorRef := t0 + 4, rpos := 0 }
    let s2 := (((s1.fput (f_ncStatus_tg_pending n) 0).fetchLine n k t0).fetchLine n (k + 1) (t0 + 1)).fetchLine n (k + 2) (t0 + 2)
    let s3 := s2.fetchLine n (k + 3) (t0 + 3)
    (((s3.fput (f_ncStatus_state n) 1).fput (f_ncCtrl_start n) 0).fput (f_ncStatus_call_depth n) 0).fput
      (f_ncStatus_repeat_depth n) 0

/-- An array whose work in flight has been discarded: from the reference cycle on it holds none and accepts the next
instruction (R54, R156); its banks, profiles and tables stay. -/
def ArrRt.unwound (a : ArrRt) (t : Nat) : ArrRt :=
  { a with slotEnd := min a.slotEnd t, idleAt := min a.idleAt t, x0 := a.x0.map (min t), x1 := a.x1.map (min t),
           y := a.y.map (min t), profUse := [], tabUse := [], streamed := none, heldPass := none, flights := [] }

/-- The abort's engines and generators have unwound: the core reads idle (R156). -/
def State.abortDone (s : State) (n : Nat) : State :=
  let c := s.core n
  let s := (s.setArray n 0 ((s.array n 0).unwound c.ref)).setArray n 1 ((s.array n 1).unwound c.ref)
  let s1 := s.setCore n { c with
    calls := [], reps := [], rpos := 0, hist := [], accs := [], claims := [], genLoads := [], landings := [],
    gens := c.gens.map fun g => (g.1, { g.2 with bound := false, pos := 0, lines := [] }),
    ve := { c.ve with free := 0, handover := 0, idleAt := 0 }, su := { c.su with free := 0, handover := 0, idleAt := 0 },
    gr := { c.gr with free := 0, handover := 0, idleAt := 0 }, regionUse := [], veTabUse := [] }
  (((s1.fput (f_ncStatus_state n) 0).fput (f_ncCtrl_abort n) 0).fput (f_ncStatus_call_depth n) 0).fput
    (f_ncStatus_repeat_depth n) 0

/-- NC_START (R156): a fault-halted core is aborted to idle first; the start has no effect in it. -/
def execNcStart (core : Fin 8) (s : State) : Host.Outcome State Fault Refusal := .next (s.startCore core.val)

/-- NC_ABORT (R156). -/
def execNcAbort (core : Fin 8) (s : State) : Host.Outcome State Fault Refusal := .next (s.abortCore core.val)

/-- NC_ABORT_DONE (R156). -/
def execNcAbortDone (core : Fin 8) (s : State) : Host.Outcome State Fault Refusal :=
  .next (if s.coreState core.val = 5 && !s.coreStopped core.val then s.abortDone core.val else s)

/-- Zero the freeze and wait counters (R156). A wait in progress counts from there on (log entry 64). -/
def State.ncCountReset (s : State) (n : Nat) : State :=
  let w := s.waitedSoFar n
  let s := w.2.setCore n { w.2.core n with waitSkip := w.1 }
  (s.fput64 (f_ncFreezeCycles_freeze_lo n) 0).fput64 (f_ncWaitCycles_wait_lo n) 0

/-- NC_COUNT_RESET (R156). -/
def execNcCountReset (core : Fin 8) (s : State) : Host.Outcome State Fault Refusal := .next (s.ncCountReset core.val)

/-- Release a control processor at vector 0 (R531, R532). -/
def State.cpRelease (s : State) (n : Nat) : State :=
  (s.fput (f_ncCpCtrl_hold n) 0).fput (f_ncCpCtrl_running n) 1

/-- Hold a control processor in reset. -/
def State.cpHold (s : State) (n : Nat) : State :=
  (s.fput (f_ncCpCtrl_hold n) 1).fput (f_ncCpCtrl_running n) 0

/-- CP_RELEASE (R532). -/
def execCpRelease (core : Fin 8) (s : State) : Host.Outcome State Fault Refusal := .next (s.cpRelease core.val)

/-- CP_HOLD (R532). -/
def execCpHold (core : Fin 8) (s : State) : Host.Outcome State Fault Refusal := .next (s.cpHold core.val)

/-- Empty the tilth guard's log (R167). -/
def State.tgClear (s : State) (n : Nat) : State :=
  let s := s.setCore n { s.core n with tgCycles := [] }
  (List.range 128).foldl (fun s i => s.wr (f_tgLog_word n i).off 0) (s.wr (f_tgStatus_records n).off 0)

/-- TG_LOG_CLEAR (R167). -/
def execTgLogClear (core : Fin 8) (s : State) : Host.Outcome State Fault Refusal := .next (s.tgClear core.val)

/-! The scratchpad. -/

/-- Start a scrub, or refuse it (R183). No access sees a row that the scrub has not reached, so every word is zero from
its start (log entry 11). -/
def State.spScrub (s : State) (n : Nat) : State :=
  if !s.halted n then s.raise (f_spEvent_scrub_refused n)
  else if (s.core n).scrubbing then s
  else
    let s1 := (s.clearRange (spAddr n 0) spBytes).fput (f_spScrub_start n) 1
    s1.setCore n { s1.core n with scrubbing := true, writebacks := [], hist := [] }

/-- The scrub's end (R183): what waited for it goes on. -/
def State.spScrubbed (s : State) (n : Nat) : State :=
  let s1 := s.fput (f_spScrub_start n) 0
  ((s1.setCore n { s1.core n with scrubbing := false }).mvSettle n).deliverHeld

/-- SP_SCRUB_START (R183). -/
def execSpScrubStart (core : Fin 8) (s : State) : Host.Outcome State Fault Refusal := .next (s.spScrub core.val)

/-- SP_SCRUB_DONE (R183). The scrub stands while the array domain's clock is stopped (R565). -/
def execSpScrubDone (core : Fin 8) (s : State) : Host.Outcome State Fault Refusal :=
  .next (if (s.core core.val).scrubbing && !s.coreStopped core.val then s.spScrubbed core.val else s)

/-- SP_COUNTS_CLEAR (R184). -/
def execSpCountsClear (core : Fin 8) (s : State) : Host.Outcome State Fault Refusal :=
  .next (s.wr (f_spCorrCount_corrected core.val).off 0)

/-- SP_INJECT_ARM (R189): the write that arms an injection; its target fields are the word's own. -/
def execSpInjectArm (core : Fin 8) (v : Word) (s : State) : Host.Outcome State Fault Refusal :=
  .next (s.wr (f_spInject_arm core.val).off ((v ||| 1) &&& 0x01FFFFFF))

/-- SP_ASYNC_WRITEBACK (R181): a pending corrected line is written back. -/
def execSpAsyncWriteback (core : Fin 8) (line : Nat) (s : State) : Host.Outcome State Fault Refusal :=
  .next (if (s.core core.val).writebacks.contains line && !s.coreStopped core.val then s.asyncWriteBack core.val line else s)

/-! The horizon buffer. -/

/-- Start a scrub of the horizon buffer (R196): every word is zero with valid check bits from its start (log entry 11). -/
def State.hbScrub (s : State) : State :=
  if s.fbit f_hbScrub_start then s else (s.clearRange (hbAddr 0) hbBytes).fput f_hbScrub_start 1

/-- The scrub's end (R196): the port requests that waited for it go on. -/
def State.hbScrubbed (s : State) : State :=
  if s.fbit f_hbScrub_start then ((List.range 8).foldl (fun s n => s.mvSettle n) (s.fput f_hbScrub_start 0)).deliverHeld else s

/-- HB_SCRUB_START (R196). -/
def execHbScrubStart (s : State) : Host.Outcome State Fault Refusal := .next s.hbScrub

/-- HB_SCRUB_DONE (R196). The scrub stands while the fabric's clock is stopped (R565). -/
def execHbScrubDone (s : State) : Host.Outcome State Fault Refusal := .next (if s.stopped 4 then s else s.hbScrubbed)

/-- HB_COUNTS_CLEAR (R197). -/
def execHbCountsClear (s : State) : Host.Outcome State Fault Refusal := .next (s.wr f_hbCorrCount_corrected.off 0)

/-- VE_COUNTS_CLEAR (R293). -/
def execVeCountsClear (core : Fin 8) (s : State) : Host.Outcome State Fault Refusal :=
  .next (s.wr (f_veSatCount_saturated core.val).off 0)

end Sys2Proof.Machine
end

