-- ==== Sys2Proof/Machine/VecData.lean ====
section
/-! DEFINITION. The vector engine's arithmetic (R266 to R278): the two domains of R267, the special values of R268, the
correctly rounded functions of R274, the sums of R275, NORM, pooling and resampling, and the conversion of a result to
the destination's format, with the shifts of a scaled destination. -/

namespace Sys2Proof.Machine

/-- The flags one element's computation raises (R268): clamped, a NaN produced, a zero divide. -/
structure VFlags where
  clamp : Bool
  nan : Bool
  zd : Bool
  deriving DecidableEq, Repr

def VFlags.none : VFlags := ⟨false, false, false⟩

def VFlags.or (a b : VFlags) : VFlags := ⟨a.clamp || b.clamp, a.nan || b.nan, a.zd || b.zd⟩

/-- A value with the flags its computation raised. -/
abbrev VR := FV × VFlags

/-- A NaN result (R268). -/
def vNan : VR := (.nan, ⟨false, true, false⟩)

/-- A value that raises nothing. -/
def vPure (v : FV) : VR := (v, .none)

/-- Round a finite result to FP32; beyond FP32 it saturates (R268). -/
def vRound (m e : Int) : VR := let r := rnd32 m e; (.fin r.1 r.2.1, ⟨r.2.2, false, false⟩)

/-- The largest finite FP32 value with a sign. -/
def vMax (neg : Bool) : FV := .fin (if neg then -fp32.maxM else fp32.maxM) fp32.maxE

/-- An operation on values that carries the flags of its operands' computations along. -/
def vBind (a : VR) (f : FV → VR) : VR := let r := f a.1; (r.1, a.2.or r.2)
def vBind2 (a b : VR) (f : FV → FV → VR) : VR := let r := f a.1 b.1; (r.1, (a.2.or b.2).or r.2)

def fvIsZero (v : FV) : Bool := match v with | .fin m _ => m == 0 | _ => false

def fvNegate (v : FV) : FV := match v with | .fin m e => .fin (-m) e | .inf n => .inf (!n) | .nan => .nan

/-- `a + b`, rounded once (R268). -/
def vAdd (a b : FV) : VR :=
  match a, b with
  | .nan, _ => vNan
  | _, .nan => vNan
  | .fin am ae, .fin bm be => let s := dyAdd am ae bm be; vRound s.1 s.2
  | .inf x, .inf y => if x = y then vPure (.inf x) else vNan
  | .inf x, .fin _ _ => vPure (.inf x)
  | .fin _ _, .inf y => vPure (.inf y)

/-- `a * b + c`, rounded once (R268). -/
def vFma (a b c : FV) : VR :=
  match a, b, c with
  | .fin am ae, .fin bm be, .fin cm ce => let s := dyAdd (am * bm) (ae + be) cm ce; vRound s.1 s.2
  | _, _, _ => match (drainMulAdd a b c).1 with
    | .nan => vNan
    | v => vPure v

/-- `a * b`, rounded once. -/
def vMul (a b : FV) : VR := vFma a b .zero

/-- `a / b`, correctly rounded (R268, R274). -/
def vDiv (a b : FV) : VR :=
  match a, b with
  | .nan, _ => vNan
  | _, .nan => vNan
  | .inf x, .inf _ => let _ := x; vNan
  | .inf x, .fin m _ => if m = 0 then (vMax x, ⟨false, false, true⟩) else vPure (.inf (x != decide (m < 0)))
  | .fin _ _, .inf _ => vPure .zero
  | .fin am ae, .fin bm be =>
    if bm = 0 then (if am = 0 then vNan else (vMax (decide (am < 0)), ⟨false, false, true⟩))
    else let q := dyDiv am ae bm be; vRound q.1 q.2

/-- The elementary functions of one operand (R272, R274). -/
def vExp (a : FV) : VR :=
  match a with
  | .nan => vNan
  | .inf n => vPure (if n then .zero else .inf false)
  | .fin m e => if m = 0 then vPure (.fin 1 0) else let r := dyExp m e; vRound r.1 r.2

def vLn (a : FV) : VR :=
  match a with
  | .nan => vNan
  | .inf n => if n then vNan else vPure (.inf false)
  | .fin m e => if m < 0 then vNan else if m = 0 then (vMax true, ⟨true, false, false⟩)
    else let r := dyLn m e; vRound r.1 r.2

def vRecip (a : FV) : VR :=
  match a with
  | .fin m _ => if m = 0 then (vMax false, ⟨false, false, true⟩) else vDiv (.fin 1 0) a
  | _ => vDiv (.fin 1 0) a

def vRsqrt (a : FV) : VR :=
  match a with
  | .nan => vNan
  | .inf n => if n then vNan else vPure .zero
  | .fin m e => if m < 0 then vNan else if m = 0 then (vMax false, ⟨false, false, true⟩)
    else let r := dyRsqrt m e; vRound r.1 r.2

/-- Order among values that are not NaN. -/
def fvLt (a b : FV) : Bool :=
  match a, b with
  | .fin am ae, .fin bm be => dyLt am ae bm be
  | .inf true, .inf true => false
  | .inf true, _ => true
  | _, .inf false => (match a with | .inf false => false | _ => true)
  | _, _ => false

/-- The larger of two values; a NaN operand gives NaN (R272). -/
def vMaximum (a b : FV) : VR :=
  match a, b with
  | .nan, _ => vNan
  | _, .nan => vNan
  | _, _ => vPure (if fvLt a b then b else a)

def vMinimum (a b : FV) : VR :=
  match a, b with
  | .nan, _ => vNan
  | _, .nan => vNan
  | _, _ => vPure (if fvLt b a then b else a)

/-- The integer a value of the integer domain is. -/
def fvInt (v : FV) : Int := match v with | .fin m e => roundAt m e 0 | _ => 0

/-- A value of the integer domain. -/
def ofInt (x : Int) : VR := vPure (.fin x 0)

/-- RSUM's tree over a vector in the FP32 domain (R275): within chunks of 256, then over the chunks. -/
def vTreeSum (l : List VR) : VR :=
  let f := fun (a b : VR) => vBind2 a b vAdd
  canonTree f (vPure .zero) ((chunks 256 l).map fun c => canonTree f (vPure .zero) c)

/-- The activation table on the vector engine (R98, R268). -/
def vTable (t : List Byte) (x : FV) : VR :=
  let w := fun o => dec32 (fieldAt t o 4)
  match x with
  | .nan => vNan
  | _ =>
    let d := vBind (vAdd x (fvNegate (w 0))) fun d => vMul d (w 4)
    let k := tableIndex d.1
    let y := vFma (w (64 + 8 * k)) x (w (68 + 8 * k))
    (y.1, d.2.or y.2)

/-- A vector instruction's fields (R271). -/
structure VInst where
  op : Nat
  n : Nat
  count : Nat
  modifier : Nat
  aux : Nat
  aux2 : Nat
  fa : Nat
  fb : Nat
  fd : Nat
  sa : Bool
  sb : Bool
  sd : Bool
  deriving DecidableEq, Repr

/-- Opcodes that take two formatted sources. -/
def VInst.two (v : VInst) : Bool := (1 ≤ v.op && v.op ≤ 6) || v.op == 0x1C

/-- CVT with stochastic rounding (R271). -/
def VInst.stoch (v : VInst) : Bool := v.op == 7 && bit v.modifier 1

/-- The integer domain (R267). -/
def VInst.dint (v : VInst) : Bool :=
  [1, 2, 3, 4, 5, 6, 7, 0x10, 0x11, 0x12, 0x20, 0x21, 0x22, 0x23].contains v.op && !v.sa && !v.sd && !(v.two && v.sb) &&
    (intOf v.fa).isSome && (intOf v.fd).isSome && (!v.two || (intOf v.fb).isSome)

/-- Bytes of `n` elements rounded up to lines. -/
def eltLines (fmt n : Nat) : Nat := ceilDiv (n * fmtWidth fmt) 512

/-- Lines of a vector of `n` elements, with its scales where it is scaled (R270). -/
def vecLines (fmt n : Nat) (scaled : Bool) : Nat := eltLines fmt n + (if scaled then ceilDiv (ceilDiv n 32) 64 else 0)

/-- The value of a scale byte times an element (R79, R267, R270). -/
def scaledValue (v : FV) (sc : Nat) : VR :=
  if sc = 0xFF then vNan
  else match v with
    | .nan => vNan
    | .inf n => vPure (.inf n)
    | .fin m e => vRound m (e + (sc : Int) - 127)

/-- Element `i` of a code list as the engine takes it: a NaN operand raises its flag in the FP32 domain (R268). -/
def vDecode (fmt code : Nat) : VR :=
  match decodeFmt fmt code with
  | .nan => vNan
  | x => vPure x

/-- The values of a vector of `n` elements in its slot (R267, R270). -/
def vecValues (fmt n : Nat) (scaled : Bool) (d : List Byte) : List VR :=
  let codes := (codesOf (fmtWidth fmt) d).take n
  if scaled then
    let sc := d.drop (64 * eltLines fmt n)
    (List.zip (List.range n) codes).map fun p => scaledValue (decodeFmt fmt p.2) (sc.getD (p.1 / 32) 0).toNat
  else codes.map (vDecode fmt)

/-- One result as a code of the destination (R100, R102, R268): the code and whether it was clamped. -/
def vStore (fd : Nat) (rho : Option Nat) (v : FV) : Nat × Bool :=
  match v with
  | .nan => (nanCode fd, false)
  | .inf n => if fd = 0xA then (enc32 (.inf n), false) else (maxCode fd n, true)
  | .fin m e => requant fd 0 false rho m e

/-- A vector as it is written: its bytes, the scale bytes apart, the elements clamped, and the flags. -/
structure VOut where
  data : List Byte
  scales : List Byte
  sat : Nat
  flags : VFlags
  deriving DecidableEq, Repr

/-- How many elements were clamped, and every flag raised. -/
def vTally (l : List (Nat × VFlags)) : Nat × VFlags :=
  l.foldl (fun a x => ((if x.2.clamp then a.1 + 1 else a.1), a.2.or x.2)) (0, .none)

/-- Write a vector of results (R270, R80, R100). DESIGN CHOICE (log entry 36): a scaled INT8 destination is written under the
E8M0 convention, since R271 has no field that chooses the OCP one. -/
def vecStore (fd : Nat) (scaled : Bool) (rho : Nat → Option Nat) (l : List VR) : VOut :=
  let idx := List.zip (List.range l.length) l
  let r : List (Nat × VFlags) × List Byte :=
    if scaled then
      let gs := (chunks 32 idx).map fun g =>
        let q := g.map fun x => match x.2.1 with | .fin m e => QElem.val m e | _ => .invalid
        let so := quantShift fd false q
        (g.map fun x => match x.2.1 with
          | .fin m e => let c := requant fd 0 true (rho x.1) m (e - so); (c.1, x.2.2.or ⟨c.2, false, false⟩)
          | _ => (nanCode fd, x.2.2), BitVec.ofNat 8 (quantScale fd false q))
      ((gs.map (·.1)).flatten, gs.map (·.2))
    else (idx.map fun x => let c := vStore fd (rho x.1) x.2.1; (c.1, x.2.2.or ⟨c.2, false, false⟩), [])
  let t := vTally r.1
  { data := packCodes (fmtWidth fd) (r.1.map (·.1)), scales := r.2, sat := t.1, flags := t.2 }

/-- One element of an opcode with one or two sources (R272). `d` is the destination's element, for MAC. -/
def vElement (v : VInst) (table : List Byte) (a b d : VR) : VR :=
  if v.dint then
    let x := fvInt a.1; let y := fvInt b.1
    ofInt (match v.op with
      | 1 => x + y | 2 => x - y | 3 => x * y | 4 => x * y + fvInt d.1
      | 5 => max x y | 6 => min x y | _ => x)
  else match v.op with
    | 1 => vBind2 a b vAdd
    | 2 => vBind2 a b fun x y => vAdd x (fvNegate y)
    | 3 => vBind2 a b vMul
    | 4 => let r := vBind2 a b fun x y => vFma x y d.1; (r.1, r.2.or d.2)
    | 5 => vBind2 a b vMaximum
    | 6 => vBind2 a b vMinimum
    | 8 => vBind a (vTable table)
    | 0x18 => vBind a vExp
    | 0x19 => vBind a vLn
    | 0x1A => vBind a vRecip
    | 0x1B => vBind a vRsqrt
    | 0x1C => vBind2 a b vDiv
    | _ => a

/-- NORM (R276). A clamp in a value the whole vector shares counts with its first element. -/
def vNorm (v : VInst) (xs : List VR) (block : List Byte) : List VR :=
  let n := v.n
  let w := fun o => vDecode 0xA (fieldAt block o 4)
  let cnt : VR := vPure (.fin (n : Nat) 0)
  let mul := fun (a b : VR) => vBind2 a b vMul
  let idx := fun (l : List VR) => List.zip (List.range n) l
  let share := fun (f : VFlags) (l : List VR) => match l with | x :: t => (x.1, x.2.or f) :: t | [] => []
  if bit v.modifier 5 then
    let ms := vBind2 (vTreeSum (xs.map fun x => mul x x)) cnt vDiv
    let r := vBind (vBind2 ms (w 0) vAdd) vRsqrt
    share r.2 ((idx xs).map fun p =>
      vBind2 (vBind2 p.2 (vPure r.1) vMul) (w (64 + 4 * p.1)) vMul)
  else
    let mu := vBind2 (vTreeSum xs) cnt vDiv
    let ds := xs.map fun x => vBind2 x (vPure mu.1) fun a b => vAdd a (fvNegate b)
    let var := vBind2 (vTreeSum (ds.map fun d => mul d d)) cnt vDiv
    let r := vBind (vBind2 var (w 0) vAdd) vRsqrt
    share (mu.2.or r.2) ((idx ds).map fun p =>
      let g := w (64 + 4 * p.1)
      let bt := w (64 + 4 * n + 4 * p.1)
      let t := vBind2 p.2 (vPure r.1) vMul
      let y := vFma t.1 g.1 bt.1
      (y.1, ((t.2.or g.2).or bt.2).or y.2))

/-- One channel of POOL over the in-bounds elements of its window (R230); `free` stands where there is none. -/
def vPool (v : VInst) (free : Nat) (l : List VR) : VR :=
  let avg := bit v.modifier 5
  match l with
  | [] => if v.dint then ofInt (sext 32 free) else vDecode 0xA (free % 2 ^ 32)
  | x :: t =>
    let k : Int := (t.length + 1 : Nat)
    if v.dint then
      if avg then
        let sum := l.foldl (fun a y => a + fvInt y.1) 0
        let q := dyDiv sum 0 k 0
        ofInt (roundAt q.1 q.2 0)
      else ofInt (t.foldl (fun a y => max a (fvInt y.1)) (fvInt x.1))
    else if avg then vBind (t.foldl (fun a y => vBind2 a y vAdd) x) fun s => vDiv s (.fin k 0)
    else t.foldl (fun a y => vBind2 a y vMaximum) x

/-- The weighted sum of R278, from left to right, rounded after each product and each addition. -/
def vWeighted (pairs : List (VR × VR)) : VR :=
  match pairs.map fun p => vBind2 p.1 p.2 vMul with
  | [] => vPure .zero
  | x :: t => t.foldl (fun a y => vBind2 a y vAdd) x

/-- One channel of RESAMPLE over four taps (R278, R232). -/
def vResample (v : VInst) (ws : List VR) (taps : List VR) : VR :=
  let int4 := (intOf v.fa).isSome && (intOf v.fd).isSome && !v.sa && !v.sd
  let pairs := List.zip ws taps
  if bit v.modifier 5 then
    if int4 then
      let s := pairs.foldl (fun a p => a + fvInt p.1.1 * fvInt p.2.1) (0 : Int)
      ofInt (roundAt s (-4) 0)
    else vBind (vWeighted pairs) fun x => vDiv x (.fin 16 0)
  else vWeighted pairs

/-- TREE over the leaves of one element (R275). -/
def vTreeElement (v : VInst) (l : List VR) : VR :=
  if v.dint then
    let f := fun (a b : VR) =>
      let s := fvInt a.1 + fvInt b.1
      if v.fa = 0xB then
        (.fin (clampInt (-2147483648) 2147483647 s) 0, (a.2.or b.2).or
          ⟨decide (s < -2147483648) || decide (2147483647 < s), false, false⟩)
      else ((.fin s 0, .none) : VR)
    canonTree f (vPure .zero) l
  else canonTree (fun a b => vBind2 a b vAdd) (vPure .zero) l

/-- Element `i` of a list of vectors: the leaves of TREE, the taps of POOL and RESAMPLE. -/
def column (vs : List (List VR)) (i : Nat) : List VR := vs.map fun l => l.getD i (vPure .zero)

/-- The results of one vector: `srcs` holds src_a's vectors (one, the leaves of TREE, or the taps), `marks` the taps out of
bounds, `bsrc` src_b's bytes and `dsrc` the destination's. -/
def vecResults (v : VInst) (srcs : List (List Byte)) (marks : List Bool) (bsrc dsrc table : List Byte)
    (free : Nat → Nat) : List VR :=
  let as := srcs.map fun d => vecValues v.fa v.n v.sa d
  let a := as.headD []
  match v.op with
  | 0x10 => if v.dint then [ofInt (a.foldl (fun s x => s + fvInt x.1) 0)] else [vTreeSum a]
  | 0x11 =>
    (match a with
    | [] => []
    | x :: t => [if v.dint then ofInt (t.foldl (fun m y => max m (fvInt y.1)) (fvInt x.1))
        else t.foldl (fun m y => vBind2 m y vMaximum) x])
  | 0x12 => (List.range v.n).map fun i => vTreeElement v (column as i)
  | 0x13 => vNorm v a bsrc
  | 0x23 =>
    let keep := (List.zip as marks).filterMap fun p => if p.2 then none else some p.1
    (List.range v.n).map fun i => vPool v (free i) (column keep i)
  | 0x24 =>
    let ws := (List.range 4).map fun j => vDecode 0xA (fieldAt bsrc (4 * j) 4)
    (List.range v.n).map fun i => vResample v ws (column as i)
  | _ =>
    let b := if v.two then vecValues v.fb v.n v.sb bsrc else []
    let b0 := b.headD (vPure .zero)
    let d := if v.op = 4 then vecValues v.fd v.n v.sd dsrc else []
    (List.zip (List.range a.length) a).map fun p =>
      vElement v table p.2 (if bit v.modifier 0 then b0 else b.getD p.1 (vPure .zero)) (d.getD p.1 (vPure .zero))

/-- The draw of an element for stochastic CVT (R271): one 16-bit word per element of src_b, or element 0's for every one
under broadcast. -/
def VInst.rho (v : VInst) (bsrc : List Byte) (i : Nat) : Option Nat :=
  if v.stoch then some (fieldAt bsrc (if bit v.modifier 0 then 0 else 2 * i) 2) else none

end Sys2Proof.Machine
end

