-- ==== Sys2Proof/Machine/Vector.lean ====
section
/-! DEFINITION. The vector engine's instructions (R146, R266 to R278): operands, the cycles of R273, and what each vector
reads and writes. -/

namespace Sys2Proof.Machine

/-- A source or destination operand: the raw field, and its lines per vector. -/
structure VOpd where
  f : Nat
  o : Operand
  lines : Nat
  deriving DecidableEq, Repr

/-- Decode an operand of `nvec` vectors of `lines` lines each (R114, R266); none is code 0x07. -/
def State.vOpd (s : State) (n cyc f lines nvec : Nat) (write : Bool) : Option VOpd :=
  let o := operand (s.core n) cyc f
  match o with
  | .addr off => if addrOk spBytes off (64 * lines * nvec) then some ⟨f, o, lines⟩ else none
  | .region r _ _ =>
    if (if write then writeRegionOk o else readRegionOk o) && decide (lines ≤ s.slotLines n r) then some ⟨f, o, lines⟩
    else none

/-- Whether an operand reads through an address-stream generator. -/
def VOpd.generated (x : VOpd) : Bool := match x.o with | .region _ ord _ => ord != 0 | .addr _ => false

/-- The head of an operand's region at the issue cycle (R150). -/
def State.vHead (s : State) (n cyc : Nat) (x : VOpd) : Nat :=
  match x.o with
  | .region r _ _ => s.headAsOf n r cyc
  | .addr _ => 0

/-- Static reads of the lines `idx` from line `base`, four per cycle from cycle `cyc` (R273), each with its index. -/
def State.vLines (s : State) (who : Who) (rank base cyc : Nat) : List (Nat × Nat) → List (Nat × List Byte) × State
  | [] => ([], s)
  | (j, i) :: t =>
    let p := s.sRead who (cyc + j / 4) (base + i) rank
    let q := p.2.vLines who rank base cyc t
    ((i, p.1) :: q.1, q.2)

/-- The bytes of `lines` lines, of which some were read. -/
def joinLines (lines : Nat) (got : List (Nat × List Byte)) : List Byte :=
  (List.range lines).flatMap fun i => match got.find? fun p => p.1 == i with | some p => p.2 | none => zeros 64

/-- Read a vector: the k-th access of an operand; the lines of index list `idx`, four on each cycle from `cyc`, of which the
first `q` places serve the accesses before it (R273). Gives the bytes and the raw generator entry's out-of-bounds mark
(R278). -/
def State.vRead (s : State) (who : Who) (x : VOpd) (head k cyc q : Nat) (idx : List Nat) (rank : Nat) : List Byte × Bool × State :=
  let num := List.zip ((List.range idx.length).map (q + ·)) idx
  let at_ := cyc + q / 4
  match x.o with
  | .addr off =>
    let r := s.vLines who rank (off / 64 + k * x.lines) cyc num
    (joinLines x.lines r.1, false, r.2)
  | .region rg ord cons =>
    let n := who.core
    let cnt := s.slotCount n rg
    let p : Nat × Bool × State :=
      if ord = 0 then ((head + k) % cnt, false, s)
      else
        let g := s.genNext who (ord - 1) rg at_
        ((((head : Int) + g.1) % (cnt : Int)).toNat, bit g.2.1 15, g.2.2)
    let s1 := p.2.2.checkRead who rg p.1 at_
    let r := s1.vLines who rank (s1.slotLine n rg p.1) cyc num
    let s2 := if cons then r.2.releaseSlot n rg p.1 (cyc + (q + idx.length - 1) / 4) else r.2
    (joinLines x.lines r.1, p.2.1, s2)

/-- The lines of a result with their indices: the data, then the scales at the next line (R270). -/
def outLines (o : VOut) : List (Nat × List Byte) :=
  let d := chunks 64 o.data
  List.zip (List.range (d.length + o.scales.length)) (d ++ chunks 64 o.scales)

/-- Static writes of indexed lines, each on its cycle of R273: four per cycle, ending on cycle `last`. -/
def State.vWriteLines (s : State) (who : Who) (rank base last lines : Nat) : List (Nat × List Byte) → State
  | [] => s
  | (i, d) :: t => (s.sWrite who (last - (ceilDiv lines 4 - 1) + i / 4) (base + i) 0 rank d).vWriteLines who rank base last lines t

/-- Write a vector, its last line on cycle `last`; `slot` is the slot that MAC has claimed (R273). -/
def State.vWrite (s : State) (who : Who) (x : VOpd) (k last : Nat) (slot : Option Nat) (o : VOut) (rank : Nat) : State :=
  let n := who.core
  match x.o with
  | .addr off => s.vWriteLines who rank (off / 64 + k * x.lines) last x.lines (outLines o)
  | .region rg _ _ =>
    let p := match slot with
      | some sl => (sl, s)
      | none => s.claimSlot who rg (last - (ceilDiv x.lines 4 - 1))
    (p.2.vWriteLines who rank (p.2.slotLine n rg p.1) last x.lines (outLines o)).makeValid n rg p.1 last

/-- The engine's flags and count after a vector (R268, R293, R294). -/
def State.veEvents (s : State) (n : Nat) (o : VOut) : State :=
  let s1 := if o.flags.nan then s.raise (f_veEvent_nan_produced n) else s
  let s2 := if 0 < o.sat ∨ o.flags.clamp then s1.raise (f_veEvent_saturated n) else s1
  let s3 := if o.flags.zd then s2.raise (f_veEvent_zero_divide n) else s2
  s3.fsat (f_veSatCount_saturated n) o.sat

/-- The fields of a vector instruction (R146, R271). -/
def parseVec (w : IWord) : VInst :=
  let m := fld w 31 24
  let a2 := fld w 127 112
  { op := fld w 7 0, n := fld w 109 96 + 1, count := fld w 47 32 + 1, modifier := m, aux := fld w 111 96, aux2 := a2,
    fa := a2 % 16, fb := bits a2 7 4, fd := bits a2 11 8, sa := bit m 3, sb := bit m 4, sd := bit m 2 }

/-- Whether an opcode may take a format, scaled or not (R266, R271). -/
def vecFmtOk (fmt : Nat) (scaled : Bool) : Bool := 1 ≤ fmt && fmt ≤ 0xB && (!scaled || [1, 2, 5, 6, 7].contains fmt)

/-- The formats of an instruction are allowed (code 0x04). -/
def VInst.fmtsOk (v : VInst) : Bool := vecFmtOk v.fa v.sa && vecFmtOk v.fd v.sd && (!v.two || vecFmtOk v.fb v.sb)

/-- The rate by width (R272). -/
def VInst.widthRate (v : VInst) : Nat :=
  let w := max (max (fmtWidth v.fa) (fmtWidth v.fd)) (max (if v.two then fmtWidth v.fb else 0) (if v.stoch then 16 else 0))
  let r := if w ≤ 8 then 256 else if w = 16 then 128 else 64
  if v.op = 7 ∧ fmtWidth v.fa = 4 then min r 128 else r

/-- Rate, passes and pipeline depth of the element-wise, reducing and gathering opcodes (R272). -/
def VInst.timing (v : VInst) : Nat × Nat × Nat :=
  match v.op with
  | 4 => (v.widthRate, 1, 8)
  | 8 => (64, 1, 10)
  | 0x10 => (64, 1, 14)
  | 0x11 => (v.widthRate, 1, 14)
  | 0x12 => (64, bits v.aux2 15 12 + 1, 8)
  | 0x13 => (64, 3, 24)
  | 0x18 => (32, 1, 16) | 0x19 => (32, 1, 16) | 0x1A => (32, 1, 16) | 0x1B => (32, 1, 16) | 0x1C => (32, 1, 16)
  | 0x23 => (v.widthRate, bits v.aux2 15 12 + 1, 8)
  | 0x24 => (v.widthRate, 4, 8)
  | _ => (v.widthRate, 1, 6)

/-- How many source vectors one result takes: TREE's leaves, the taps of POOL and RESAMPLE. -/
def VInst.leaves (v : VInst) : Nat :=
  match v.op with
  | 0x12 => bits v.aux2 15 12 + 2
  | 0x23 => bits v.aux2 15 12 + 1
  | 0x24 => 4
  | _ => 1

/-- The cycle of leaf `j` after the vector's first read: TREE reads leaves 0 and 1 together (R273). -/
def VInst.leafCycle (v : VInst) (j per : Nat) : Nat := if v.op = 0x12 then (j - 1) * per else j * per

/-- Elements of one result. -/
def VInst.outs (v : VInst) : Nat := if v.op = 0x10 ∨ v.op = 0x11 then 1 else v.n

/-- Read every leaf of vector `k`. -/
def State.vLeaves (s : State) (who : Who) (v : VInst) (x : VOpd) (head k base per : Nat) :
    List Nat → List (List Byte × Bool) × State
  | [] => ([], s)
  | j :: t =>
    let p := s.vRead who x head (k * v.leaves + j) (base + v.leafCycle j per) 0 (List.range x.lines) rankVe
    let q := p.2.2.vLeaves who v x head k base per t
    ((p.1, p.2.1) :: q.1, q.2)

/-- The line indices of src_b that a vector reads: with broadcast only element 0's line and its scale's (R271). -/
def VInst.bLines (v : VInst) (x : VOpd) : List Nat :=
  if (v.two || v.stoch) && bit v.modifier 0 then (if v.two && v.sb then [0, eltLines v.fb v.n] else [0])
  else List.range x.lines

/-- One vector of an instruction that starts on cycle `start` with `c` cycles per vector (R273). -/
def State.vecOne (s : State) (who : Who) (v : VInst) (xa : VOpd) (xb : Option VOpd) (xd : VOpd) (ha hb start c per depth : Nat)
    (k : Nat) : State :=
  let n := who.core
  let base := start + 2 + k * c
  let ra := s.vLeaves who v xa ha k base per (List.range v.leaves)
  let rb : List Byte × State := match xb with
    | some x =>
      let r := ra.2.vRead who x hb (if v.op = 0x13 then 0 else k) base 0 (v.bLines x) rankVe
      (r.1, r.2.2)
    | none => ([], ra.2)
  -- MAC claims its slot as it reads it (R273)
  let rd : List Byte × Option Nat × State :=
    if v.op ≠ 4 then ([], none, rb.2)
    else match xd.o with
      | .addr off =>
        let r := rb.2.vLines who rankVe (off / 64 + k * xd.lines) base ((List.range xd.lines).map fun i => (i, i))
        (joinLines xd.lines r.1, none, r.2)
      | .region rg _ _ =>
        let p := rb.2.claimSlot who rg base
        let r := p.2.vLines who rankVe (p.2.slotLine n rg p.1) base ((List.range xd.lines).map fun i => (i, i))
        (joinLines xd.lines r.1, some p.1, r.2)
  let s3 := rd.2.2
  let table := mapGet (fun _ => []) (s3.core n).veTables (bits v.aux2 13 12)
  let marks := ra.1.map (·.2)
  let res := vecResults v (ra.1.map (·.1)) marks rb.1 rd.1 table (Config.emptyPool (v.aux2 + 65536 * v.modifier))
  let out := vecStore v.fd v.sd (v.rho rb.1) res
  (s3.vWrite who xd k (base + c - 1 + depth) rd.2.1 out rankVe).veEvents n out

/-- The second source an instruction reads: its lines per vector and how many vectors it spans. -/
def VInst.second (v : VInst) : Option (Nat × Nat) :=
  if v.two then some (vecLines v.fb v.n v.sb, v.count)
  else if v.stoch then some (ceilDiv (2 * v.n) 64, v.count)
  else match v.op with
    | 0x13 => some (ceilDiv (64 + 4 * v.n * (if bit v.modifier 5 then 1 else 2)) 64, 1)
    | 0x24 => some (1, v.count)
    | _ => none

/-- A generator that used its last index frees itself on the cycle of the operand's last access, given with the operand
(R148), and the instruction's regions are in use until its end (R153). -/
def State.vDone (s : State) (who : Who) (ops : List (VOpd × Nat)) (last : Nat) : State :=
  ops.foldl (fun s x => (s.genFree who x.1.o x.2).useRegion who.core x.1.o last) s

/-- The element-wise, reducing, normalising and gathering opcodes of R272. -/
def State.vecInst (s : State) (n : Nat) (w : IWord) (op : Nat) : State :=
  let v := parseVec w
  match s.issue n w 3 op with
  | .none => s
  | .fault s' => s'
  | .go cyc who s1 =>
    if !v.fmtsOk then s.decodeFault n 3 0x04
    else
      let xa := s.vOpd n cyc (fld w 63 48) (vecLines v.fa v.n v.sa) (v.count * v.leaves) false
      let xb := match v.second with
        | some (l, k) => (s.vOpd n cyc (fld w 79 64) l k false).map some
        | none => some none
      let xd := s.vOpd n cyc (fld w 95 80) (vecLines v.fd v.outs v.sd) v.count true
      match xa, xb, xd with
      | some xa, some xb, some xd =>
        -- NORM's block is an address operand (R276); RESAMPLE's taps come through a generator (R278)
        let formOk := (v.op != 0x13 || (match xb with | some ⟨_, .addr _, _⟩ => true | _ => false)) &&
          (v.op != 0x24 || xa.generated)
        if !formOk then s.decodeFault n 3 0x07
        else
          let t := v.timing
          let per := ceilDiv v.n t.1
          let c := t.2.1 * per
          let last := 2 + (v.count - 1) * c + c - 1 + t.2.2
          let st := s1.engineStart who cyc (v.count * c) last
          let s2 := st.2
          let ha := s2.vHead n (s1.issuedAt who cyc) xa
          let hb := match xb with | some x => s2.vHead n (s1.issuedAt who cyc) x | none => 0
          let s3 := (List.range v.count).foldl (fun s k => s.vecOne who v xa xb xd ha hb st.1 c per t.2.2 k) s2
          let end_ := st.1 + 2 + (v.count - 1) * c
          let s4 := s3.vDone who ((xa, end_ + v.leafCycle (v.leaves - 1) per + (xa.lines - 1) / 4) :: (xd, 0) ::
            (match xb with | some x => [(x, end_ + ((v.bLines x).length - 1) / 4)] | none => [])) (st.1 + last)
          let cr := s4.core n
          let s5 := if v.op = 8 then
              s4.setCore n { cr with veTabUse := (bits v.aux2 13 12, st.1 + last) :: cr.veTabUse.filter (fun u => st.1 ≤ u.2) }
            else s4
          s5.advance n
      | _, _, _ => s.decodeFault n 3 0x07

/-- VTABLE_LOAD (R273, R99): 33 lines into a table slot. -/
def execVeTableLoad (core : Fin 8) (w : IWord) (s : State) : Host.Outcome State Fault Refusal :=
  let n := core.val
  let slot := fld w 125 124
  match s.issue n w 3 0x09 with
  | .none => .next s
  | .fault s' => .next s'
  | .go cyc who s1 =>
    match addrOnly (operand (s.core n) cyc (fld w 63 48)) 2112 with
    | none => .next (s.decodeFault n 3 0x07)
    | some off =>
      let busyUntil := s.core n |>.veTabUse.foldl (fun a u => if u.1 = slot then max a (u.2 + 1) else a) 0
      let st := s1.engineStart who cyc 33 34
      let s2 := if st.1 < busyUntil then st.2.tgFault who 0x03 0 0 false cyc else st.2
      let d := s2.sReads who (off / 64) rankVe ((List.range 33).map fun i => st.1 + 2 + i)
      let c := d.2.core n
      .next ((d.2.setCore n { c with veTables := mapSet (fun _ => []) c.veTables slot d.1 }).advance n)

/-- The reads of PATCH for one vector: every line of each tap's slot, four lines per cycle over the taps (R273, R277). -/
def State.patchReads (s : State) (who : Who) (x : VOpd) (head k taps cyc : Nat) : List Nat → List (List Byte) × State
  | [] => ([], s)
  | p :: t =>
    let r := s.vRead who x head (k * taps + p) cyc (p * x.lines) (List.range x.lines) rankVe
    let q := r.2.2.patchReads who x head k taps cyc t
    (r.1 :: q.1, q.2)

/-- One vector of PATCH: the taps' first elements in tap order, then the pad code (R277). -/
def State.patchOne (s : State) (who : Who) (v : VInst) (xa xd : VOpd) (head start c k : Nat) : State :=
  let cg := v.aux % 256 + 1
  let taps := 256 / cg
  let base := start + 2 + k * c
  let r := s.patchReads who xa head k taps base (List.range taps)
  let vals := r.1.flatMap fun d => vecValues v.fa cg v.sa d
  let pad : VR := vPure (.fin (if v.fd = 3 then ((v.aux / 256 : Nat) : Int) else 0) 0)
  let out := vecStore v.fd v.sd (fun _ => none) (vals ++ List.replicate (256 - taps * cg) pad)
  (r.2.vWrite who xd k (base + c - 1 + 6) none out rankVe).veEvents who.core out

/-- PATCH (R277). -/
def execVePatch (core : Fin 8) (w : IWord) (s : State) : Host.Outcome State Fault Refusal :=
  let n := core.val
  let v := parseVec w
  match s.issue n w 3 0x20 with
  | .none => .next s
  | .fault s' => .next s'
  | .go cyc who s1 =>
    if !v.fmtsOk then .next (s.decodeFault n 3 0x04)
    else
      let cg := v.aux % 256 + 1
      let src := operand (s.core n) cyc (fld w 63 48)
      let ls := match src with | .region r _ _ => s.slotLines n r | .addr _ => 0
      let xd := s.vOpd n cyc (fld w 95 80) (vecLines v.fd 256 v.sd) v.count true
      let xa : VOpd := ⟨fld w 63 48, src, ls⟩
      match xd with
      | some xd =>
        if !xa.generated || !readRegionOk src || decide (ls < vecLines v.fa cg v.sa) then .next (s.decodeFault n 3 0x07)
        else
          let c := ceilDiv (256 / cg * ls) 4
          let last := 2 + v.count * c - 1 + 6
          let st := s1.engineStart who cyc (v.count * c) last
          let head := st.2.vHead n (s1.issuedAt who cyc) xa
          let s3 := (List.range v.count).foldl (fun s k => s.patchOne who v xa xd head st.1 c k) st.2
          let rd := st.1 + 2 + (v.count - 1) * c + (256 / cg * ls - 1) / 4
          .next ((s3.vDone who [(xa, rd), (xd, 0)] (st.1 + last)).advance n)
      | none => .next (s.decodeFault n 3 0x07)

/-! Layout conversion (R223, R277). -/

/-- Where the run of `count` elements of channel `ch` stands in a plane: its first byte and its length. -/
def planeRun (off stride fmt count ch : Nat) : Nat × Nat := (off + ch * stride, ceilDiv (count * fmtWidth fmt) 8)

/-- Every plane of a planar tensor lies in the scratchpad. -/
def planesOk (off stride fmt count chans : Nat) : Bool :=
  off % 64 == 0 && (let r := planeRun off stride fmt count (chans - 1); decide (r.1 + r.2 ≤ spBytes))

/-- A line of a plane: the channel, the line, the place and number of the plane's bytes in it, and the pixels of its first and
its last element. -/
structure PlaneLine where
  chan : Nat
  line : Nat
  start : Nat
  len : Nat
  first : Nat
  last : Nat
  deriving DecidableEq, Repr

/-- The lines of the planes, channel by channel. -/
def planeLines (off stride fmt count chans : Nat) : List PlaneLine :=
  (List.range chans).flatMap fun ch =>
    let r := planeRun off stride fmt count ch
    let e := r.1 + r.2
    (List.range ((e + 63) / 64 - r.1 / 64)).map fun i =>
      let l := r.1 / 64 + i
      let b := max r.1 (64 * l)
      let t := min e (64 * l + 64)
      ⟨ch, l, b - 64 * l, t - b, (b - r.1) * 8 / fmtWidth fmt, min (count - 1) ((t - r.1) * 8 / fmtWidth fmt - 1)⟩

/-- The place of each entry among the entries of its key before it, with the counts of the keys. -/
def keyPlaces : Sparse Nat → List Nat → List Nat × Sparse Nat
  | m, [] => ([], m)
  | m, k :: t =>
    let q := mapGet (fun _ => 0) m k
    let r := keyPlaces (mapSet (fun _ => 0) m k (q + 1)) t
    (q :: r.1, r.2)

/-- Read the planes, each line with the first pixel that takes an element from it, four lines per cycle in channel order
(R273, log entry 36). -/
def State.planeReads (s : State) (who : Who) (base c : Nat) : List (PlaneLine × Nat) → List (Nat × List Byte) × State
  | [] => ([], s)
  | (p, q) :: t =>
    let d := s.sRead who (base + p.first * c + q / 4) p.line rankVe
    let r := d.2.planeReads who base c t
    ((p.chan, (d.1.drop p.start).take p.len) :: r.1, r.2)

/-- The bytes of one channel among the lines read. -/
def chanBytes (got : List (Nat × List Byte)) (ch : Nat) : List Byte := (got.filter fun p => p.1 == ch).flatMap (·.2)

/-- Write the planes, each line with the last pixel that has an element in it, four lines per cycle in channel order, the
last on that pixel's last cycle (R273, log entry 36). `data` holds the channels' bytes left to write. -/
def State.planeWrites (s : State) (who : Who) (base c : Nat) (m : Sparse Nat) :
    List (PlaneLine × Nat) → List (Nat × List Byte) → State
  | [], _ => s
  | (p, q) :: t, data =>
    match data with
    | [] => s
    | (ch, d) :: rest =>
      let cur : List Byte × List (Nat × List Byte) := if ch = p.chan then (d, rest) else match rest with
        | (_, d') :: rest' => (d', rest')
        | [] => ([], [])
      let k := mapGet (fun _ => 0) m p.last
      let cyc := base + p.last * c - (ceilDiv k 4 - 1) + q / 4
      (s.sWrite who cyc p.line p.start rankVe (cur.1.take p.len)).planeWrites who base c m t
        ((p.chan, cur.1.drop p.len) :: cur.2)

/-- The cycles per pixel of the layout conversions: 256 B of destination per cycle (R272). -/
def layoutCycles (fd chans : Nat) : Nat := max 1 (ceilDiv (chans * fmtWidth fd) 2048)

/-- One pixel of TO_PIXEL: the k-th element of every plane. -/
def State.pixelOne (s : State) (who : Who) (v : VInst) (planes : List (List VR)) (xd : VOpd) (start c k : Nat) : State :=
  let out := vecStore v.fd v.sd (fun _ => none) (planes.map fun p => p.getD k (vPure .zero))
  (s.vWrite who xd k (start + 2 + k * c + c - 1 + 6) none out rankVe).veEvents who.core out

/-- TO_PIXEL (R223, R277): from planes at src_a to one slot per pixel. -/
def execVeToPixel (core : Fin 8) (w : IWord) (s : State) : Host.Outcome State Fault Refusal :=
  let n := core.val
  let v := parseVec w
  match s.issue n w 3 0x21 with
  | .none => .next s
  | .fault s' => .next s'
  | .go cyc who s1 =>
    if !v.fmtsOk then .next (s.decodeFault n 3 0x04)
    else
      let chans := v.aux + 1
      let stride := breg (s.core n) cyc (bits v.aux2 15 12)
      match operand (s.core n) cyc (fld w 63 48), s.vOpd n cyc (fld w 95 80) (vecLines v.fd chans v.sd) v.count true with
      | .addr off, some xd =>
        if !planesOk off stride v.fa v.count chans then .next (s.decodeFault n 3 0x07)
        else
          let c := layoutCycles v.fd chans
          let last := 2 + v.count * c - 1 + 6
          let st := s1.engineStart who cyc (v.count * c) last
          let pl := planeLines off stride v.fa v.count chans
          let d := st.2.planeReads who (st.1 + 2) c (List.zip pl (keyPlaces [] (pl.map (·.first))).1)
          let planes := (List.range chans).map fun ch => vecValues v.fa v.count false (chanBytes d.1 ch)
          let s3 := (List.range v.count).foldl (fun s k => s.pixelOne who v planes xd st.1 c k) d.2
          .next ((s3.vDone who [(xd, 0)] (st.1 + last)).advance n)
      | _, _ => .next (s.decodeFault n 3 0x07)

/-- Read every pixel's vector. -/
def State.pixelReads (s : State) (who : Who) (v : VInst) (x : VOpd) (head start c : Nat) : List Nat → List (List VR) × State
  | [] => ([], s)
  | k :: t =>
    let r := s.vRead who x head k (start + 2 + k * c) 0 (List.range x.lines) rankVe
    let q := r.2.2.pixelReads who v x head start c t
    (vecValues v.fa (v.aux + 1) v.sa r.1 :: q.1, q.2)

/-- TO_PLANAR (R223, R277): from one slot per pixel to planes at dst. -/
def execVeToPlanar (core : Fin 8) (w : IWord) (s : State) : Host.Outcome State Fault Refusal :=
  let n := core.val
  let v := parseVec w
  match s.issue n w 3 0x22 with
  | .none => .next s
  | .fault s' => .next s'
  | .go cyc who s1 =>
    if !v.fmtsOk then .next (s.decodeFault n 3 0x04)
    else
      let chans := v.aux + 1
      let stride := breg (s.core n) cyc (bits v.aux2 15 12)
      match s.vOpd n cyc (fld w 63 48) (vecLines v.fa chans v.sa) v.count false, operand (s.core n) cyc (fld w 95 80) with
      | some xa, .addr off =>
        if !planesOk off stride v.fd v.count chans then .next (s.decodeFault n 3 0x07)
        else
          let c := layoutCycles v.fd chans
          let last := 2 + v.count * c - 1 + 6
          let st := s1.engineStart who cyc (v.count * c) last
          let head := st.2.vHead n (s1.issuedAt who cyc) xa
          let d := st.2.pixelReads who v xa head st.1 c (List.range v.count)
          let outs := (List.range chans).map fun ch =>
            (ch, vecStore v.fd false (fun _ => none) (d.1.map fun px => px.getD ch (vPure .zero)))
          let pl := planeLines off stride v.fd v.count chans
          let ky := keyPlaces [] (pl.map (·.last))
          let s3 := d.2.planeWrites who (st.1 + 2 + c - 1 + 6) c ky.2 (List.zip pl ky.1) (outs.map fun p => (p.1, p.2.data))
          let s4 := outs.foldl (fun s p => s.veEvents n p.2) s3
          let rd := st.1 + 2 + (v.count - 1) * c + (xa.lines - 1) / 4
          .next ((s4.vDone who [(xa, rd)] (st.1 + last)).advance n)
      | _, _ => .next (s.decodeFault n 3 0x07)

/-! One meaning per opcode of R272. -/

def execVeAdd (core : Fin 8) (w : IWord) (s : State) : Host.Outcome State Fault Refusal := .next (s.vecInst core.val w 0x01)
def execVeSub (core : Fin 8) (w : IWord) (s : State) : Host.Outcome State Fault Refusal := .next (s.vecInst core.val w 0x02)
def execVeMul (core : Fin 8) (w : IWord) (s : State) : Host.Outcome State Fault Refusal := .next (s.vecInst core.val w 0x03)
def execVeMac (core : Fin 8) (w : IWord) (s : State) : Host.Outcome State Fault Refusal := .next (s.vecInst core.val w 0x04)
def execVeMax (core : Fin 8) (w : IWord) (s : State) : Host.Outcome State Fault Refusal := .next (s.vecInst core.val w 0x05)
def execVeMin (core : Fin 8) (w : IWord) (s : State) : Host.Outcome State Fault Refusal := .next (s.vecInst core.val w 0x06)
def execVeCvt (core : Fin 8) (w : IWord) (s : State) : Host.Outcome State Fault Refusal := .next (s.vecInst core.val w 0x07)
def execVeTable (core : Fin 8) (w : IWord) (s : State) : Host.Outcome State Fault Refusal := .next (s.vecInst core.val w 0x08)
def execVeRsum (core : Fin 8) (w : IWord) (s : State) : Host.Outcome State Fault Refusal := .next (s.vecInst core.val w 0x10)
def execVeRmax (core : Fin 8) (w : IWord) (s : State) : Host.Outcome State Fault Refusal := .next (s.vecInst core.val w 0x11)
def execVeTree (core : Fin 8) (w : IWord) (s : State) : Host.Outcome State Fault Refusal := .next (s.vecInst core.val w 0x12)
def execVeNorm (core : Fin 8) (w : IWord) (s : State) : Host.Outcome State Fault Refusal := .next (s.vecInst core.val w 0x13)
def execVeExp (core : Fin 8) (w : IWord) (s : State) : Host.Outcome State Fault Refusal := .next (s.vecInst core.val w 0x18)
def execVeLn (core : Fin 8) (w : IWord) (s : State) : Host.Outcome State Fault Refusal := .next (s.vecInst core.val w 0x19)
def execVeRecip (core : Fin 8) (w : IWord) (s : State) : Host.Outcome State Fault Refusal := .next (s.vecInst core.val w 0x1A)
def execVeRsqrt (core : Fin 8) (w : IWord) (s : State) : Host.Outcome State Fault Refusal := .next (s.vecInst core.val w 0x1B)
def execVeDiv (core : Fin 8) (w : IWord) (s : State) : Host.Outcome State Fault Refusal := .next (s.vecInst core.val w 0x1C)
def execVePool (core : Fin 8) (w : IWord) (s : State) : Host.Outcome State Fault Refusal := .next (s.vecInst core.val w 0x23)
def execVeResample (core : Fin 8) (w : IWord) (s : State) : Host.Outcome State Fault Refusal := .next (s.vecInst core.val w 0x24)

end Sys2Proof.Machine
end

