-- ==== Sys2Proof/Machine/GritInstr.lean ====
section
/-! DEFINITION. The grit generator's instructions (R286 to R290), its key and its self-test (R285, R296 to R298). -/

namespace Sys2Proof.Machine

/-- The exact square root of a value with its sticky bit, zero for zero. -/
def fvSqrt (v : FV) : FV :=
  match v with
  | .fin m e => if m ≤ 0 then .zero else let r := dySqrt m e; (vRound r.1 r.2).1
  | x => x

/-- The pair z0, z1 of R287 from two 32-bit words. -/
def boxMuller (a b : Nat) : FV × FV :=
  let u1 : Int := (a / 256 + 1 : Nat)
  let l := dyLn u1 (-24)
  let ln := (vRound l.1 l.2).1
  let r := fvSqrt (vMul (.fin (-2) 0) ln).1
  let t := dySinCos (b / 256)
  let sn := (vRound t.1.1 t.1.2).1
  let cs := (vRound t.2.1 t.2.2).1
  ((vMul r cs).1, (vMul r sn).1)

/-- The value of R288 from a 32-bit word. -/
def normalFrom (w : Nat) : FV :=
  let i := w / 2 ^ 20
  let f : Nat := w / 16 % 65536
  let t0 := normalTab i
  if 4095 ≤ i then .fin t0.1 t0.2
  else
    let t1 := normalTab (i + 1)
    let d := (vAdd (.fin t1.1 t1.2) (.fin (-t0.1) t0.2)).1
    (vAdd (.fin t0.1 t0.2) (vMul d (.fin (f : Nat) (-16))).1).1

/-- The format of an opcode's output and its elements per cycle (R286, R289). -/
def grShape (op : Nat) : Nat × Nat :=
  match op with | 1 => (4, 64) | 2 => (0xA, 32) | 3 => (0xA, 16) | 4 => (0xA, 32) | _ => (2, 64)

/-- UNIFORM's value (k + 0.5) × 2^-24 of a 24-bit k as FP32 (R286): rounded to nearest, ties to even, and kept inside (0, 1),
where the largest k takes the largest value below 1 (log entry 37). -/
def unitValue (k : Nat) : FV :=
  if 2 ^ 24 ≤ k + 1 then .fin (2 ^ 24 - 1) (-24) else (vRound ((2 * k + 1 : Nat) : Int) (-25)).1

/-- The code of output element `i` (R286); `g` is the grit word at an element counter. -/
def grElement (op e h : Nat) (g : Nat → Nat) (i : Nat) : Nat :=
  let word := fun k => g (e + k) + 65536 * g (e + k + 1)
  match op with
  | 1 => g (e + i)
  | 2 => enc32 (unitValue (word (2 * i) / 256))
  | 3 =>
    let j := i / 2
    let z := boxMuller (word (4 * j)) (word (4 * j + 2))
    enc32 (if i % 2 = 0 then z.1 else z.2)
  | 4 => enc32 (normalFrom (word (2 * i)))
  | _ => b2n (decide (g (e + i) < min h 65536))

/-- The instructions of R286: one destination vector of `count` elements, P = 24 (R289). -/
def State.gritInst (s : State) (n : Nat) (w : IWord) (op : Nat) : State :=
  let sh := grShape op
  let count := fld w 47 32 + 1
  match s.issue n w 7 op with
  | .none => s
  | .fault s' => s'
  | .go cyc who s1 =>
    match s.vOpd n cyc (fld w 95 80) (eltLines sh.1 count) 1 true with
    | none => s.decodeFault n 7 0x07
    | some xd =>
      let c0 := s.core n
      let e := breg c0 cyc (fld w 27 24)
      let sample := breg c0 cyc (fld w 115 112)
      let h := fld w 79 64 + 65536 * fld w 28 28
      let c := ceilDiv count sh.2
      let last := 2 + c - 1 + 24
      let st := s1.engineStart who cyc c last
      let g := gritWord (st.2.core n).gritKey 0 (fld w 103 96) sample
      let data := packCodes (fmtWidth sh.1) ((List.range count).map (grElement op e h g))
      let s3 := st.2.vWrite who xd 0 (st.1 + last) none ⟨data, [], 0, .none⟩ rankGr
      (s3.vDone who [(xd, 0)] (st.1 + last)).advance n

def execUniform16 (core : Fin 8) (w : IWord) (s : State) : Host.Outcome State Fault Refusal := .next (s.gritInst core.val w 1)
def execUniform (core : Fin 8) (w : IWord) (s : State) : Host.Outcome State Fault Refusal := .next (s.gritInst core.val w 2)
def execNormalBm (core : Fin 8) (w : IWord) (s : State) : Host.Outcome State Fault Refusal := .next (s.gritInst core.val w 3)
def execNormalTab (core : Fin 8) (w : IWord) (s : State) : Host.Outcome State Fault Refusal := .next (s.gritInst core.val w 4)
def execBernoulli (core : Fin 8) (w : IWord) (s : State) : Host.Outcome State Fault Refusal := .next (s.gritInst core.val w 5)

/-- Clear a core's key (R285, R296). -/
def State.seedClear (s : State) (n : Nat) : State :=
  (s.setCore n { s.core n with gritKey := 0, gritSeen := 0 }).fput (f_grStatus_seed_loaded n) 0

/-- Write one word of a core's key; discarded unless the core is halted (R297, R298). -/
def State.seedWrite (s : State) (n m : Nat) (v : Word) : State :=
  if !s.halted n then s
  else
    let c := s.core n
    let seen := c.gritSeen ||| 2 ^ m
    let key := BitVec.ofNat 128 (setBits c.gritKey.toNat (32 * m + 31) (32 * m) v.toNat)
    (s.setCore n { c with gritKey := key, gritSeen := seen }).fput (f_grStatus_seed_loaded n) (b2n (seen == 15))

/-- The self-test's result, run while the core is halted (R296, R297); a mismatch is core logic and reports to RAS
(R596, R598). -/
def State.selfTest (s : State) (n : Nat) (pass : Bool) : State :=
  if !s.halted n then s
  else
    let s1 := ((s.fput (f_grCtrl_self_test n) 0).fput (f_grStatus_self_test_pass n) (b2n pass)).fput (f_grStatus_self_test_fail n) (b2n (!pass))
    if pass then s1 else s1.report 11 n 0x0013 0

/-- SEED_CLEAR (R296). -/
def execSeedClear (core : Fin 8) (s : State) : Host.Outcome State Fault Refusal := .next (s.seedClear core.val)

/-- SELF_TEST (R296, R297): whether every pipeline matches is the outside world's. -/
def execSelfTest (core : Fin 8) (pass : Bool) (s : State) : Host.Outcome State Fault Refusal :=
  .next (s.selfTest core.val pass)

/-- GR_SEED_WRITE (R298). -/
def execGrSeedWrite (core : Fin 8) (m : Fin 4) (v : Word) (s : State) : Host.Outcome State Fault Refusal :=
  .next (s.seedWrite core.val m.val v)

end Sys2Proof.Machine
end

