-- ==== Sys2Proof/Machine/Package.lean ====
section
/-! DEFINITION. The model package (R20 to R24, R40, R129 to R131, R242, R314, R342, R343, R383, R520): its header, sections
and tables, and every check the firmware makes of it at load. -/

namespace Sys2Proof.Machine

/-- A section-table entry (R22). -/
structure Section where
  kind : Nat
  mask : Nat
  offset : Nat
  length : Nat
  crc : Nat
  deriving DecidableEq, Repr

/-- Header fields (R21). -/
def pkSections (b : List Byte) : Nat := fieldAt b 0x0A 2
def pkTable (b : List Byte) : Nat := fieldAt b 0x0C 4
def pkCaps (b : List Byte) : Nat := fieldAt b 0x10 8
def pkRingBits (b : List Byte) : Nat := fieldAt b 0x18 8
def pkMain (b : List Byte) : Nat := fieldAt b 0x20 4
def pkBytes (b : List Byte) : Nat := fieldAt b 0x28 8

/-- The ring sizes and the fallback path of a package whose required_caps ask for bits 7 and 5; of one that does not, the
fields are reserved (R18, R41). -/
def pkRings (b : List Byte) : Nat := if bit (pkCaps b) 7 then pkRingBits b else pkRingBits b % 2
def pkFallback (b : List Byte) : Nat := if bit (pkCaps b) 5 then fieldAt b 0x24 4 else 0
def pkSteps (b : List Byte) : Nat := pkMain b + pkFallback b

/-- The header's own identity: magic and length (R21). -/
def headerMagic (b : List Byte) : Bool := fieldAt b 0 4 == 0x50584C49 && fieldAt b 4 2 == 128

/-- The negotiation of R40: contract major 2, target generation 2, capability bits 0 to 7 (R41). -/
def contractOk (b : List Byte) : Bool :=
  fieldAt b 6 1 ≤ 2 && 2 ≤ fieldAt b 7 1 && fieldAt b 9 1 == 2 && pkCaps b < 256

/-- The other checked fields of the header, against the length given (R21, R15). -/
def headerOk (b : List Byte) (len : Nat) : Bool :=
  let n := pkSections b
  1 ≤ n && n ≤ 4096 && pkTable b % 64 == 0 && pkTable b + 32 * n ≤ len && pkRingBits b < 2 ^ 16 && 1 ≤ pkMain b &&
    pkBytes b == len && len % 64 == 0

/-- Section `i` (R22). -/
def sectionAt (b : List Byte) (i : Nat) : Section :=
  let e := (b.drop (pkTable b + 32 * i)).take 32
  ⟨fieldAt e 0 2, fieldAt e 2 1, fieldAt e 4 8, fieldAt e 12 8, fieldAt e 20 4⟩

def sections (b : List Byte) : List Section := (List.range (pkSections b)).map (sectionAt b)

/-- The bytes of a section. -/
def Section.data (x : Section) (b : List Byte) : List Byte := (b.drop x.offset).take x.length

/-- How many cores a mask names. -/
def maskCores (m : Nat) : List Nat := (List.range 8).filter fun n => bit m n

/-- Whether a section's entry is one of R131's kinds, lies in the package and has its CRC (R22). -/
def sectionOk (b : List Byte) (len : Nat) (x : Section) : Bool :=
  let cores := (maskCores x.mask).length
  (match x.kind with
    | 1 => cores == 0 | 2 => cores == 1 | 3 => 1 ≤ cores | 4 => true | 5 => cores == 0 | 6 => cores == 0 | 7 => 1 ≤ cores
    | _ => false) &&
    x.offset % 64 == 0 && x.offset + x.length ≤ len && crc32c (x.data b) == x.crc

/-- The first section of a kind that `p` accepts. -/
def findSection (b : List Byte) (kind : Nat) (p : Section → Bool) : Option Section :=
  (sections b).find? fun x => x.kind == kind && p x

/-- The step table's bytes (R23, R520). -/
def stepTable (b : List Byte) : List Byte := match findSection b 1 (fun _ => true) with | some x => x.data b | none => []

/-- A step (R23). -/
structure StepEntry where
  mask : Nat
  path : Nat
  issue : Nat
  wait : Nat
  live : Nat
  deriving DecidableEq, Repr

/-- Where the entry with a step index stands among the table's entries. -/
def stepPlace (b : List Byte) (i : Nat) : Option Nat :=
  (List.range (pkSteps b)).find? fun k => fieldAt (stepTable b) (32 * k) 4 == i

/-- The entry of step `i`. -/
def stepAt (b : List Byte) (i : Nat) : StepEntry :=
  match stepPlace b i with
  | some k =>
    let e := ((stepTable b).drop (32 * k)).take 32
    ⟨fieldAt e 4 1, fieldAt e 5 1, fieldAt e 8 4, fieldAt e 12 4, fieldAt e 16 8⟩
  | none => ⟨0, 0, 0, 0, 0⟩

/-- The cores of a job: every core that a step names. -/
def jobMask (b : List Byte) : Nat := (List.range (pkSteps b)).foldl (fun m i => m ||| (stepAt b i).mask) 0

/-- A fallback entry (R520): entry step, and the position of each core. -/
def fallbackEntry (b : List Byte) (k : Nat) : Nat × List Nat :=
  let e := ((stepTable b).drop (32 * pkSteps b + 48 * k)).take 48
  (fieldAt e 0 4, (List.range 8).map fun c => fieldAt e (16 + 4 * c) 4)

/-- Steps and fallback entries (R24, R520): issue_cycles / 300 MHz + wait_allowance_ns is at most 250 µs. A table that is
short, lacks a step's entry, gives a step the other path's byte, or stands in no one section is refused as well (log entry
15, DESIGN CHOICE: R23 states no check of these). -/
def stepsOk (b : List Byte) : Bool :=
  let need := 32 * pkSteps b + if pkFallback b = 0 then 0 else 48 * pkMain b
  decide (need ≤ (stepTable b).length) && ((sections b).filter fun x => x.kind == 1).length == 1 &&
    ((List.range (pkSteps b)).all fun i =>
      let e := stepAt b i
      (stepPlace b i).isSome && decide (10 * e.issue + 3 * e.wait ≤ 750000) && e.path == (if i < pkMain b then 0 else 1)) &&
    (pkFallback b == 0 || ((fallbackEntry b 0).1 != 0xFFFFFFFF && (List.range (pkMain b)).all fun k =>
      let e := fallbackEntry b k
      e.1 == 0xFFFFFFFF || (decide (pkMain b ≤ e.1) && decide (e.1 < pkSteps b) &&
        e.2.all fun p => p == 0xFFFFFFFF || p % 4 == 0)))

/-- One valid routine entry: start and length of its body in bytes, or none where the entry breaks R130. -/
def routineBody (d : List Byte) (i : Nat) : Option (Nat × Nat) :=
  let e := (d.drop (16 * i)).take 16
  let w := fieldAt e 0 4
  let off := w % 2 ^ 20
  let at_ := 4 * off
  let len := 16 * fieldAt e 4 2
  if off % 4 ≠ 0 ∨ 2 ^ 16 ≤ off ∨ len = 0 ∨ at_ < 0x4000 ∨ 0x40000 < at_ + len ∨
      crc32c ((d.drop at_).take len) ≠ fieldAt e 12 4 then none
  else some (at_, len)

/-- A routine library (R130). -/
def routinesOk (d : List Byte) : Bool :=
  let valid := (List.range 1024).filter fun i => bit (fieldAt d (16 * i) 4) 31
  let bodies := valid.map (routineBody d)
  let spans := bodies.filterMap id
  let apart := fun (x y : Nat × Nat) => decide (x.1 + x.2 ≤ y.1) || decide (y.1 + y.2 ≤ x.1)
  let rec clear : List (Nat × Nat) → Bool
    | [] => true
    | x :: t => t.all (apart x) && clear t
  decide (d.length ≤ 0x40000) && bodies.all (·.isSome) && clear spans

/-- Offset of the KV plan record in a region and sync plan section: after the 64 region geometries and the sync window
(log entry 15). -/
def kvOffset : Nat := 576

def kvPairs (r : List Byte) : Nat := fieldAt r 2 2
def kvFrameBytes (r : List Byte) : Nat := fieldAt r 4 4
def kvBase (r : List Byte) : Nat := fieldAt r 8 2
def kvCount (r : List Byte) : Nat := fieldAt r 10 2
def kvMaxContext (r : List Byte) : Nat := fieldAt r 12 2

/-- The bucket sizes (R242, R257), and a bucket's first step, step count and capacity. -/
def bucketSizes : List Nat := [128, 256, 512, 1024, 2048, 4096]
def kvBucket (r : List Byte) (i : Nat) : Nat × Nat × Nat :=
  (fieldAt r (16 + 8 * i) 4, fieldAt r (20 + 8 * i) 2, fieldAt r (22 + 8 * i) 2)

/-- A pair: layer, head dimension code, format, page offset (R242). -/
structure KvPair where
  layer : Nat
  dim : Nat
  archive : Bool
  offset : Nat
  deriving DecidableEq, Repr

/-- Pair `p` of a record of package `b`; the format bit is reserved where required_caps do not ask for archive KV heads
(R18, R41). -/
def kvPair (b r : List Byte) (p : Nat) : KvPair :=
  let f := fieldAt r (0x42 + 8 * p) 1
  ⟨fieldAt r (0x40 + 8 * p) 1, f % 4, bit f 2 && bit (pkCaps b) 4, fieldAt r (0x44 + 8 * p) 4⟩

/-- D of a pair, and the bytes of a token's code row (R240). -/
def kvDim (x : KvPair) : Nat := 64 * 2 ^ x.dim
def kvRow (x : KvPair) : Nat := if x.archive then kvDim x / 2 else kvDim x

/-- Bytes of a pair's code section and of its scale section (R240). -/
def kvCodes (x : KvPair) : Nat := 16 * kvRow x
def kvScales (x : KvPair) : Nat := if x.dim = 2 then 128 else 64
def kvPage (x : KvPair) : Nat := 2 * kvCodes x + 2 * kvScales x

/-- The checks of a KV plan record (R242). -/
def kvOk (b r : List Byte) : Bool :=
  let n := kvPairs r
  let ps := (List.range n).map (kvPair b r)
  let rec apart : List KvPair → Bool
    | [] => true
    | x :: t => (t.all fun y => decide (x.offset + kvPage x ≤ y.offset) || decide (y.offset + kvPage y ≤ x.offset)) && apart t
  let big := kvMaxContext r
  let i := (bucketSizes.findIdx? fun z => big ≤ z).getD 5
  decide (n ≤ 256) && fieldAt r 0 2 == 64 + 8 * n && decide (64 + 8 * n ≤ r.length) &&
    kvFrameBytes r % 64 == 0 && decide (64 ≤ kvFrameBytes r) && decide (kvFrameBytes r ≤ 2097152) &&
    decide (kvBase r + kvCount r ≤ 4096) && decide (16 ≤ big) && decide (big ≤ 4096) && big % 16 == 0 &&
    (kvBucket r i).2.1 != 0 && ((List.range 6).all fun j => (kvBucket r j).2.1 == 0 || (kvBucket r j).2.2 != 0) &&
    (ps.all fun x => x.dim != 3 && !(x.archive && x.dim == 0) && x.offset % 64 == 0 &&
      decide (x.offset + kvPage x ≤ kvFrameBytes r) && decide ((ps.filter fun y => y.layer == x.layer).length ≤ 4)) && apart ps

/-- Every KV plan record, and what is equal on every core. -/
def kvPlansOk (b : List Byte) : Bool :=
  let rs := ((sections b).filter fun x => x.kind == 7).map fun x => (x.data b).drop kvOffset
  rs.all (kvOk b) && rs.all fun r => (r.drop 12).take 2 == ((rs.headD []).drop 12).take 2 &&
    (r.drop 16).take 48 == ((rs.headD []).drop 16).take 48

/-- Whether a tier-2 data section is the tokenizer table (R383). -/
def isTokenizer (b : List Byte) (x : Section) : Bool := fieldAt (x.data b) 0 4 == 0x314E4B54

/-- The tokenizer table's node and edge fields (R383). -/
def tkNode (d : List Byte) (i : Nat) : Nat × Nat × Nat :=
  let a := fieldAt d 0x0C 4 + 16 * i
  (fieldAt d a 4, fieldAt d (a + 4) 2, fieldAt d (a + 8) 4)
def tkEdge (d : List Byte) (e : Nat) : Nat × Nat :=
  let a := fieldAt d 0x10 4 + 8 * e
  (fieldAt d a 1, fieldAt d (a + 4) 4)

/-- The checks of R383. -/
def tokenizerOk (d : List Byte) : Bool :=
  let nodes := fieldAt d 4 4
  let edges := fieldAt d 8 4
  let tokenOk := fun t => t == 0xFFFFFFFF || decide (t < 262144)
  let bb := fieldAt d 0x18 4
  decide (1 ≤ nodes) && decide (nodes ≤ 4194304) && fieldAt d 0x0C 4 % 64 == 0 && fieldAt d 0x10 4 % 64 == 0 &&
    decide (fieldAt d 0x0C 4 + 16 * nodes ≤ d.length) && decide (fieldAt d 0x10 4 + 8 * edges ≤ d.length) &&
    decide (fieldAt d 0x14 4 < 262144) && (bb == 0xFFFFFFFF || decide (bb + 255 < 262144)) && tokenOk (fieldAt d 0x1C 4) &&
    (List.range nodes).all fun i =>
      let x := tkNode d i
      decide (x.2.1 ≤ 256) && decide (x.1 + x.2.1 ≤ edges) && (i == 0 || tokenOk x.2.2) &&
        (List.range x.2.1).all fun j =>
          let e := tkEdge d (x.1 + j)
          decide (e.2 < nodes) && (j == 0 || decide ((tkEdge d (x.1 + j - 1)).1 < e.1))

/-- The adaptation plan's section, where required_caps bit 6 is set (R314). -/
def adaptSection (b : List Byte) : Option Section :=
  if bit (pkCaps b) 6 then findSection b 5 fun x => !isTokenizer b x else none

/-- The trainable elements of a plan, over its groups (R299). -/
def adaptElements (d : List Byte) : Nat :=
  (List.range (fieldAt d 0 2)).foldl (fun a g => a + fieldAt d (0x44 + 32 * g) 4) 0

/-- The checks of the adaptation plan (R299, R314). max_examples, a 2 B field, is from 1 up. -/
def adaptOk (b : List Byte) : Bool :=
  match adaptSection b with
  | none => false
  | some x =>
    let d := x.data b
    let g := fieldAt d 0 2
    decide (1 ≤ g) && decide (g ≤ 64) && decide (1 ≤ fieldAt d 2 2) && decide (adaptElements d ≤ 16777216) && decide (4096 ≤ d.length) &&
      ((List.range 3).all fun i => decide (fieldAt d (4 + 4 * i) 4 < pkMain b)) &&
      (List.range g).all fun i =>
        let a := 0x40 + 32 * i
        decide (1 ≤ fieldAt d a 1) && decide (fieldAt d a 1 ≤ 7) && decide (fieldAt d (a + 1) 1 ≤ 1) &&
          decide (fieldAt d (a + 2) 1 ≤ 1)

/-- The slice plan for a ring size (R343). -/
def slicePlan (b : List Byte) (n : Nat) : Option (List Byte) :=
  ((findSection b 6 fun x => fieldAt (x.data b) 0 1 == n)).map fun x => x.data b

/-- Section indices that a plan lists, for one position or for all. -/
def planList (d : List Byte) : List Nat :=
  (List.range (fieldAt d 2 2)).map fun i => fieldAt d (fieldAt d 4 4 + 2 * i) 2
def planPosition (d : List Byte) (p : Nat) : List Nat :=
  ((planList d).drop (fieldAt d (0x20 + 16 * p) 2)).take (fieldAt d (0x22 + 16 * p) 2)

/-- The indices of the sections that a device loads: those no plan names, and those its own position's list names (R342). -/
def loadedSections (b : List Byte) (n : Nat) (pos : Option Nat) : List Nat :=
  let named := ((sections b).filter fun x => x.kind == 6).flatMap fun x => planList (x.data b)
  let own := match slicePlan b n, pos with | some d, some p => planPosition d p | _, _ => []
  (List.range (pkSections b)).filter fun i => !named.contains i || own.contains i

/-- The checks of one slice plan (R343). -/
def planOk (b : List Byte) (d : List Byte) : Bool :=
  let n := fieldAt d 0 1
  decide (1 ≤ n) && decide (n ≤ 16) && bit (pkRingBits b) (n - 1) &&
    ((sections b).filter fun x => x.kind == 6 && fieldAt (x.data b) 0 1 == n).length == 1 &&
    fieldAt d 4 4 % 64 == 0 && decide (fieldAt d 4 4 + 2 * fieldAt d 2 2 ≤ d.length) && decide (0x20 + 16 * n ≤ d.length) &&
    decide (fieldAt d 0x0C 4 ≤ 262144) && decide (fieldAt d 8 4 + fieldAt d 0x0C 4 ≤ 262144) &&
    decide (fieldAt d 0x10 2 + fieldAt d 0x12 2 ≤ 32512) &&
    ((planList d).all fun i => decide (i < pkSections b) && [2, 3, 4, 5, 7].contains (sectionAt b i).kind) &&
    (List.range n).all fun p =>
      let ld := (loadedSections b n (some p)).map (sectionAt b)
      decide (fieldAt d (0x20 + 16 * p) 2 + fieldAt d (0x22 + 16 * p) 2 ≤ fieldAt d 2 2) &&
        (maskCores (jobMask b)).all fun c => ((ld.filter fun x => x.kind == 2 && bit x.mask c).length == 1)

/-- The checks of the slice plans, and of the one stream each core needs where the package has no plan (R342, R343). -/
def plansOk (b : List Byte) : Bool :=
  let plans := ((sections b).filter fun x => x.kind == 6).map fun x => x.data b
  plans.all (planOk b) && (!plans.isEmpty || (maskCores (jobMask b)).all fun c =>
    ((sections b).filter fun x => x.kind == 2 && bit x.mask c).length == 1)

/-- Every check of a package that has arrived whole (R22, R24, R130, R131, R242, R314, R343, R383, R520). -/
def packageOk (b : List Byte) : Bool :=
  ((sections b).all (sectionOk b b.length)) && Config.sha384 (b.drop 0x80) == (b.drop 0x30).take 48 && stepsOk b &&
    ((sections b).all fun x => x.kind != 3 || routinesOk (x.data b)) && kvPlansOk b &&
    (let tk := (sections b).filter fun x => x.kind == 5 && isTokenizer b x
     decide (tk.length ≤ 1) && tk.all fun x => tokenizerOk (x.data b)) &&
    (!bit (pkCaps b) 6 || adaptOk b) && plansOk b

/-- The position of the first instruction of step `k` in a core's main stream: after the STEP_END of step k − 1, at the next
multiple of 4 (R118, R123). -/
def stepStart (stream : List Byte) (k : Nat) : Nat :=
  if k = 0 then 0
  else
    let ends := (List.range (stream.length / 16)).find? fun p =>
      let w := (stream.drop (16 * p)).take 16
      fieldAt w 0 1 == 1 && fieldAt w 1 1 % 16 == 0 && fieldAt w 3 4 == k - 1
    match ends with
    | some p => (p + 4) / 4 * 4
    | none => 0

/-- Greedy longest match from one position of a text (R384): the best token, its length, walking `n` more nodes. -/
def tkWalk (d : List Byte) : List Byte → Nat → Nat → Option (Nat × Nat) → Option (Nat × Nat)
  | [], _, _, best => best
  | c :: t, node, k, best =>
    let x := tkNode d node
    match (List.range x.2.1).find? fun j => (tkEdge d (x.1 + j)).1 == c.toNat with
    | none => best
    | some j =>
      let child := (tkEdge d (x.1 + j)).2
      let tok := (tkNode d child).2.2
      tkWalk d t child (k + 1) (if tok = 0xFFFFFFFF then best else some (tok, k + 1))

/-- The identifiers of a text without its BOS; `fuel` bounds the tokens (R384). -/
def tkRun (d : List Byte) : Nat → List Byte → List Nat
  | 0, _ => []
  | _, [] => []
  | f + 1, c :: t =>
    match tkWalk d (c :: t) 0 0 none with
    | some (tok, n) => tok :: tkRun d f ((c :: t).drop n)
    | none =>
      let bb := fieldAt d 0x18 4
      (if bb = 0xFFFFFFFF then fieldAt d 0x14 4 else bb + c.toNat) :: tkRun d f t

/-- The tokenizer of R384. -/
def tokenize (d text : List Byte) : List Nat :=
  let bos := fieldAt d 0x1C 4
  (if bos = 0xFFFFFFFF then [] else [bos]) ++ tkRun d text.length text

end Sys2Proof.Machine
end

