-- ==== Sys2Proof/Machine/Pools.lean ====
section
/-! DEFINITION. The pools of 2 MiB blocks in tiers 2 and 3 (R213, R214, R543), and the KV sequences' frames in them (R238 to
R241, R260 to R264). -/

namespace Sys2Proof.Machine

def blockBytes : Nat := 0x200000

/-- The first block above the bootstrap area (R485), counted from the bottom of LPDDR. -/
def firstBlock : Nat := 193

/-- The bootstrap area (R485). -/
def bootArea : Nat × Nat := (0x001018000000, 0x200000)

/-- Blocks of LPDDR within the populated capacity. -/
def State.lpBlocks (s : State) : Nat := s.lpCapacity / blockBytes

/-- Whether a party's slot is sealed (R543). -/
def State.slotSealed (s : State) (p : Nat) : Bool := s.fbit (f_scSlot_sealed p)

/-- The blocks of region 0 of LPDDR, counted from the bottom (R438, R439). -/
def State.region0 (s : State) : Nat :=
  let lo := 24 * s.lpShape.1
  (if s.fbit f_mcCtrl_inline_ecc then lo * 7 / 8 else lo) / blockBytes

/-- The lowest free block of a range of LPDDR blocks. -/
def State.freeBlockIn (s : State) (lo hi : Nat) : Option Nat :=
  ((List.range (s.fw.t2.length + 1)).find? fun i => !s.fw.t2.contains (lo + i)).bind fun i =>
    if lo + i < hi then some (lo + i) else none

/-- Take an LPDDR block. -/
def State.takeT2 (s : State) (i : Nat) : PoolBlock × State :=
  (⟨2, lpBase + i * blockBytes⟩, { s with fw := { s.fw with t2 := i :: s.fw.t2 } })

/-- Take a block of one tier (R213): of tier 2 the lowest free one of region 0 (R439), of tier 3 the first free granted host
block. -/
def State.allocTier (s : State) (tier : Nat) : Option (PoolBlock × State) :=
  if tier = 2 then (s.freeBlockIn firstBlock s.region0).map s.takeT2
  else (s.fw.t3.find? fun i => !s.fw.t3used.contains i).map fun i =>
    (⟨3, hostBase + i * blockBytes⟩, { s with fw := { s.fw with t3used := i :: s.fw.t3used } })

/-- Take a pool block (R213): a tier-2 block if one is free, or else one of tier 3. A sealed party takes tier 2 only (R543). -/
def State.allocBlock (s : State) (t2only : Bool) : Option (PoolBlock × State) :=
  match s.allocTier 2 with
  | some x => some x
  | none => if t2only then none else s.allocTier 3

/-- Take a block for a save area or a video session: in region 1 first (R439). -/
def State.allocSide (s : State) (t2only : Bool) : Option (PoolBlock × State) :=
  match s.freeBlockIn (max firstBlock s.region0) s.lpBlocks with
  | some i => some (s.takeT2 i)
  | none => s.allocBlock t2only

/-- Take `n` blocks with an allocation, or none. -/
def State.allocMany (s : State) (take : State → Option (PoolBlock × State)) : Nat → Option (List PoolBlock × State)
  | 0 => some ([], s)
  | n + 1 => (take s).bind fun x => (x.2.allocMany take n).map fun y => (x.1 :: y.1, y.2)

/-- Take `n` pool blocks, or none. -/
def State.allocBlocks (s : State) (t2only : Bool) (n : Nat) : Option (List PoolBlock × State) :=
  s.allocMany (fun s => s.allocBlock t2only) n

/-- Take `n` blocks outside the pools' region, or none. -/
def State.allocSides (s : State) (t2only : Bool) (n : Nat) : Option (List PoolBlock × State) :=
  s.allocMany (fun s => s.allocSide t2only) n

/-- A POOL_RECLAIM whose blocks are all free completes (R497). -/
def State.reclaimCheck (s : State) : State :=
  s.fw.reclaims.foldl (fun s r =>
    if (List.range r.2.2).any fun k => s.fw.t3used.contains (r.2.1 + k) then s
    else
      let s1 := { s with fw := { s.fw with reclaims := s.fw.reclaims.filter (· != r) } }
      match (s1.pair 0).taken.find? fun t => t.index == r.1 with
      | some t => s1.completeTaken 0 t (Done.of stSuccess)
      | none => s1) s

/-- Free blocks. -/
def State.freeBlocks (s : State) (l : List PoolBlock) : State :=
  let t2 := (l.filter (·.tier == 2)).map fun b => (b.addr - lpBase) / blockBytes
  let t3 := (l.filter (·.tier == 3)).map fun b => (b.addr - hostBase) / blockBytes
  ({ s with fw := { s.fw with t2 := s.fw.t2.filter (!t2.contains ·), t3used := s.fw.t3used.filter (!t3.contains ·) } }).reclaimCheck

/-- `n` consecutive free blocks of LPDDR, the lowest: a run that begins at the first block or just above a block in use. -/
def State.allocRun (s : State) (n : Nat) : Option (Nat × State) :=
  let starts := firstBlock :: sortNat (s.fw.t2.map (· + 1))
  (starts.find? fun i => decide (i + n ≤ s.lpBlocks) && !s.fw.t2.any fun b => decide (i ≤ b) && decide (b < i + n)).map fun i =>
    (i, { s with fw := { s.fw with t2 := (List.range n).map (i + ·) ++ s.fw.t2 } })

/-- Store bytes in a block under a party's slot, or in host memory (R542). -/
def State.blockWrite (s : State) (slot : Nat) (b : PoolBlock) (off : Nat) (d : List Byte) : State :=
  if b.tier = 3 then s.areaWrite (b.addr + off) d else s.lpStore slot (b.addr + off) d

/-- Read bytes of a block; those of host memory come from what the host answers. -/
def State.blockRead (s : State) (host : List Byte) (slot : Nat) (b : PoolBlock) (off n : Nat) : List Byte × List Byte :=
  if b.tier = 3 then s.areaRead host (b.addr + off) n else (s.lpBytes slot (b.addr + off) n, host)

/-! What this device has loaded of the resident package. -/

/-- The resident package's bytes. -/
def State.pkgBytes (s : State) : List Byte := match s.fw.pkg with | some p => p.bytes | none => []

/-- The ring size the resident package is placed for, and this device's slice position (R342). -/
def State.pkgRing (s : State) : Nat := match s.fw.pkg with | some p => p.ring | none => 1
def State.position (s : State) : Option Nat :=
  match s.fw.pkg with
  | some p => if p.ring ≤ 1 then some 0 else p.place.findIdx? (· == s.ringAddr)
  | none => none

/-- The sections this device has loaded. -/
def State.loaded (s : State) : List Section :=
  (loadedSections s.pkgBytes s.pkgRing s.position).map (sectionAt s.pkgBytes)

/-- A core's main stream. -/
def State.mainStream (s : State) (c : Nat) : List Byte :=
  match s.loaded.find? fun x => x.kind == 2 && bit x.mask c with
  | some x => x.data s.pkgBytes
  | none => []

/-- A core's region and sync plan. -/
def State.regionPlan (s : State) (c : Nat) : List Byte :=
  match s.loaded.find? fun x => x.kind == 7 && bit x.mask c with
  | some x => x.data s.pkgBytes
  | none => []

/-- The KV plan record of a core's region and sync plan (R242), and one of its pairs. -/
def State.kvRec (s : State) (c : Nat) : List Byte := (s.regionPlan c).drop kvOffset
def State.kvPairAt (s : State) (c p : Nat) : KvPair := kvPair s.pkgBytes (s.kvRec c) p

/-- The KV plan record that stands first: its max_context and buckets are those of every core (R242). -/
def State.anyPlan (s : State) : List Byte :=
  match s.loaded.find? fun x => x.kind == 7 with
  | some x => (x.data s.pkgBytes).drop kvOffset
  | none => []

/-! KV frames. -/

/-- The cores that own pairs (R237). -/
def State.kvCores (s : State) : List Nat := (List.range 8).filter fun c => kvPairs (s.kvRec c) != 0

/-- Where frame `f` lies on a core: block index and byte offset (R241). -/
def State.framePlace (s : State) (c f : Nat) : Nat × Nat :=
  let fb := kvFrameBytes (s.kvRec c)
  let per := 2097152 / fb
  (f / per, f % per * fb)

/-- The block of a frame on a core, if it has been taken. -/
def State.frameBlock (s : State) (c f : Nat) : Option PoolBlock :=
  let b := mapGet (fun _ => PoolBlock.mk 0 0) s.fw.kvBlocks (4096 * c + (s.framePlace c f).1)
  if b.tier = 0 then none else some b

/-- Whether a frame holds a page of a sequence (R243), or a copy that goes on for a job (R262). -/
def State.frameUsed (s : State) (f : Nat) : Bool :=
  (s.fw.seqs.any fun q => q.pages.any fun p => p.1 == f && (p.2 == 1 || p.2 == 2)) ||
    s.fw.jobs.any fun j => j.copies.any fun x => x.dst == f

/-- Take, on every core, the block a frame needs in a tier. -/
def State.frameTake (s : State) (tier f : Nat) : Option State :=
  s.kvCores.foldl (fun (o : Option State) c => o.bind fun s =>
    let j := (s.framePlace c f).1
    if kvCount (s.kvRec c) ≤ j then none
    else match s.frameBlock c f with
      | some b => if b.tier = tier then some s else none
      | none => (s.allocTier tier).map fun x =>
          { x.2 with fw := { x.2.fw with kvBlocks := mapSet (fun _ => PoolBlock.mk 0 0) x.2.fw.kvBlocks (4096 * c + j) x.1 } }) (some s)

/-- The first number from `i` on, of `n`, that `p` maps to a value. -/
def firstSome {α : Type} (p : Nat → Option α) : Nat → Nat → Option α
  | 0, _ => none
  | n + 1, i => match p i with
    | some x => some x
    | none => firstSome p n (i + 1)

/-- The most frames any plan can hold. -/
def State.frameLimit (s : State) : Nat :=
  s.kvCores.foldl (fun m c =>
    let r := s.kvRec c
    max m (kvCount r * (2097152 / kvFrameBytes r))) 0

/-- A free frame in a tier, the lowest. -/
def State.freeFrame (s : State) (tier : Nat) : Option (Nat × State) :=
  firstSome (fun f => if s.frameUsed f then none else (s.frameTake tier f).map fun s' => (f, s')) s.frameLimit 0

/-- Fill a frame: code sections zero, scale sections 0x7F (R241). -/
def State.fillFrame (s : State) (party f : Nat) : State :=
  s.kvCores.foldl (fun s c =>
    let r := s.kvRec c
    match s.frameBlock c f with
    | none => s
    | some b => (List.range (kvPairs r)).foldl (fun s p =>
        let x := s.kvPairAt c p
        s.blockWrite party b ((s.framePlace c f).2 + x.offset) (zeros (2 * kvCodes x) ++ List.replicate (2 * kvScales x) 0x7F)) s) s

/-- A frame's bytes on every core. -/
def State.frameRead (s : State) (host : List Byte) (party f : Nat) : List Byte × List Byte :=
  s.kvCores.foldl (fun (d : List Byte × List Byte) c =>
    match s.frameBlock c f with
    | none => d
    | some b =>
      let x := s.blockRead d.2 party b (s.framePlace c f).2 (kvFrameBytes (s.kvRec c))
      (d.1 ++ x.1, x.2)) ([], host)

/-- Write a frame's bytes on every core. -/
def State.frameWrite (s : State) (party f : Nat) (d : List Byte) : State :=
  (s.kvCores.foldl (fun (x : State × List Byte) c =>
    let n := kvFrameBytes (x.1.kvRec c)
    match x.1.frameBlock c f with
    | none => x
    | some b => (x.1.blockWrite party b (x.1.framePlace c f).2 (x.2.take n), x.2.drop n)) (s, d)).1

/-! Sequences. -/

/-- The sequence of a handle. -/
def State.seq (s : State) (h : Nat) : Option Seq := s.fw.seqs.find? fun q => q.handle == h

/-- The KV table record of a sequence (R243). -/
def Seq.record (q : Seq) : List Byte :=
  leBytes 4 q.handle ++ leBytes 2 q.length ++ leBytes 1 (b2n q.fallback + 2 * b2n q.dropped) ++ zeros 1 ++ leBytes 8 q.lastUse ++
    zeros 16 ++ (List.range 256).flatMap fun j =>
      let e := q.pages.getD j (0, 0)
      leBytes 4 (e.1 % 2 ^ 24 + e.2 * 2 ^ 24)

/-- Records that a block holds, and where record `i` stands; the records are the firmware's own, under key slot 0 (log
entry 67). -/
def seqPerBlock : Nat := 1024
def State.seqRecordAt (s : State) (i : Nat) : Nat :=
  lpBase + s.fw.kvTable.getD (i / seqPerBlock) 0 * blockBytes + 2048 * (i % seqPerBlock)

/-- Write a sequence's record. -/
def State.putRecord (s : State) (q : Seq) : State :=
  if q.place / seqPerBlock < s.fw.kvTable.length then s.lpStore 0 (s.seqRecordAt q.place) q.record else s

/-- Replace a sequence, and write its record. -/
def State.setSeq (s : State) (q : Seq) : State :=
  ({ s with fw := { s.fw with seqs := s.fw.seqs.map fun (x : Seq) => if x.handle = q.handle then q else x } }).putRecord q

/-- The lowest place of the table that no sequence's record takes. -/
def State.freePlace (s : State) : Nat :=
  ((List.range (s.fw.seqs.length + 1)).find? fun i => !s.fw.seqs.any fun q => q.place == i).getD 0

/-- Open a sequence with its record; none where tier 2 holds no block for one more. -/
def State.openSeq (s : State) (party h : Nat) : Option State :=
  let i := s.freePlace
  let q : Seq := ⟨party, h, 0, false, false, 0, [], [], i, none⟩
  let room := if i / seqPerBlock < s.fw.kvTable.length then some s
    else (s.allocRun 1).map fun x => { x.2 with fw := { x.2.fw with kvTable := x.2.fw.kvTable ++ [x.1] } }
  room.map fun s => ({ s with fw := { s.fw with seqs := s.fw.seqs ++ [q] } }).putRecord q

/-- The victim (R261): among sequences that neither the running job nor `keep` names and that hold tier-2 frames, the one
least recently used; the lower handle breaks ties. -/
def State.victim (s : State) (keep : List Nat) : Option Seq :=
  let busy := keep ++ (s.fw.jobs.filter fun j => j.phase == .running).flatMap (·.handles)
  (s.fw.seqs.filter fun q => !busy.contains q.handle && q.pages.any fun p => p.2 == 1).foldl (fun (o : Option Seq) q =>
    match o with
    | none => some q
    | some b => if q.lastUse < b.lastUse ∨ (q.lastUse = b.lastUse ∧ q.handle < b.handle) then some q else o) none

/-- A page's bytes as the log of a sequence keeps them, by page × 2^32 + byte. -/
def pageLog (i : Nat) (d : List Byte) : List Host.Cell := (List.zip (List.range d.length) d).map fun b => (i * 2 ^ 32 + b.1, b.2)

/-- Drop a sequence (R263): every frame is freed; what its pages held is what the recompute writes again. -/
def State.dropSeq (s : State) (q : Seq) : State :=
  let keep := (List.zip (List.range q.pages.length) q.pages).flatMap fun p =>
    if p.2.2 = 1 then pageLog p.1 (s.frameRead [] q.party p.2.1).1 else q.log.filter fun b => b.1 / 2 ^ 32 == p.1
  s.setSeq { q with dropped := true, pages := q.pages.map fun p => if p.2 = 0 then p else (0, 3), log := keep }

/-- Spill a sequence's oldest tier-2 frame (R262). -/
def State.spillOne (s : State) (q : Seq) : Option State :=
  match q.pages.findIdx? fun p => p.2 == 1 with
  | none => none
  | some i =>
    let f := (q.pages.getD i (0, 0)).1
    let d := (s.frameRead [] q.party f).1
    (s.freeFrame 3).map fun x => (x.2.frameWrite q.party x.1 d).setSeq { q with
      pages := q.pages.set i (x.1, 2), log := (q.log.filter fun b => b.1 / 2 ^ 32 != i) ++ pageLog i d }

/-- A tier-2 frame for an allocation, freeing others' frames under the ring's policy (R260, R261, R543): the frame, or none
where no victim remains or none can be spilled; what was spilled and dropped on the way stays so. -/
def State.needFrame (s : State) (keep : List Nat) : Nat → Option Nat × State
  | 0 => (none, s)
  | fuel + 1 =>
    match s.freeFrame 2 with
    | some x => (some x.1, x.2)
    | none => match s.victim keep with
      | none => (none, s)
      | some q =>
        if s.fw.dropPolicy || s.slotSealed q.party then (s.dropSeq q).needFrame keep fuel
        else match s.spillOne q with
          | some s' => s'.needFrame keep fuel
          | none => (none, s)

/-- Pages in tier 2 over all sequences, which bounds the frames that can be freed. -/
def State.pagesHeld (s : State) : Nat := s.fw.seqs.foldl (fun n q => n + q.pages.length + 1) 1

/-- Give a sequence filled frames up to `n` pages (R241, R245); the table entry is written once the frame is filled. Whether
every frame was found. -/
def State.growSeq (s : State) (h n : Nat) (keep : List Nat) : Nat → Bool × State
  | 0 => (true, s)
  | fuel + 1 =>
    match s.seq h with
    | none => (true, s)
    | some q =>
      if n ≤ q.pages.length then (true, s)
      else match s.needFrame keep s.pagesHeld with
        | (none, s1) => (false, s1)
        | (some f, s1) => match s1.seq h with
          | none => (true, s1)
          | some q' => ((s1.fillFrame q'.party f).setSeq { q' with pages := q'.pages ++ [(f, 1)] }).growSeq h n keep fuel

/-- Recompute a dropped sequence (R263): its prefill writes every page byte-identical to the pages dropped. Whether every
frame was found; where one was not, the sequence stays dropped. -/
def State.recompute (s : State) (h : Nat) (keep : List Nat) : Bool × State :=
  match s.seq h with
  | none => (true, s)
  | some q =>
    if !q.dropped then (true, s)
    else
      let n := q.pages.length
      match (s.setSeq { q with pages := [] }).growSeq h n keep n with
      | (false, s1) => (false, match s1.seq h with
          | some q1 => s1.setSeq { q1 with pages := q.pages }
          | none => s1)
      | (true, s1) => (true, match s1.seq h with
          | none => s1
          | some q1 => ((List.zip (List.range n) q1.pages).foldl (fun s p =>
              let d := (q.log.filter fun b => b.1 / 2 ^ 32 == p.1).map (·.2)
              s.frameWrite q1.party p.2.1 d) s1).setSeq { q1 with dropped := false, log := [] })

/-- Copy one tier-3 frame of a sequence into a free tier-2 frame (R262): the copy, for the job to take at its first step, and
what host memory has yet to answer. -/
def State.copyBack (s : State) (host : List Byte) (h : Nat) (done : List KvCopy) : Option (KvCopy × State × List Byte) :=
  match s.seq h with
  | none => none
  | some q => match (List.range q.pages.length).find? fun i =>
        (q.pages.getD i (0, 0)).2 == 2 && !done.any fun x => x.handle == h && x.page == i with
    | none => none
    | some i =>
      let src := (q.pages.getD i (0, 0)).1
      match s.freeFrame 2 with
      | none => none
      | some x =>
        let d := x.2.frameRead host q.party src
        some (⟨h, i, src, x.1, q.length⟩, x.2.frameWrite q.party x.1 d.1, d.2)

/-- Take a job's copies at its first step (R262): a page that still lies in the frame copied, and to which no row has been
appended since, takes its tier-2 frame, and the tier-3 copy is free; every other copy is abandoned. -/
def State.takeCopies (s : State) (l : List KvCopy) : State :=
  l.foldl (fun (s : State) (x : KvCopy) => match s.seq x.handle with
    | some q =>
      let same := q.pages.getD x.page (0, 0) == (x.src, 2) && (q.length == x.length || decide (16 * (x.page + 1) ≤ x.length))
      if same then s.setSeq { q with pages := q.pages.set x.page (x.dst, 1) } else s
    | none => s) s

/-- KV blocks that hold no frame return to their pools (R213): evaluated where frames are freed at a boundary or a close. -/
def State.trimKv (s : State) : State :=
  let used : List (Nat × Nat) := (s.fw.seqs.flatMap fun q => q.pages.filter fun p => p.2 == 1 || p.2 == 2) ++
    s.fw.jobs.flatMap fun j => j.copies.map fun x => (x.dst, 1)
  let idle : List (Nat × PoolBlock) := s.fw.kvBlocks.filter fun b =>
    !used.any fun p => s.kvCores.contains (b.1 / 4096) && (s.framePlace (b.1 / 4096) p.1).1 == b.1 % 4096
  let gone := idle.map fun (b : Nat × PoolBlock) => b.1
  let s1 := { s with fw := { s.fw with kvBlocks := mapDrop (fun k => gone.contains k) s.fw.kvBlocks } }
  s1.freeBlocks (idle.map fun (b : Nat × PoolBlock) => b.2)

/-- A close takes effect (R238): the sequence's frames and input log are freed, and its record's place. -/
def State.closeSeq (s : State) (h : Nat) : State :=
  ({ s with fw := { s.fw with seqs := s.fw.seqs.filter fun q => q.handle != h } }).trimKv

end Sys2Proof.Machine
end

