-- ==== Sys2Proof/Machine/KvKernel.lean ====
section
/-! DEFINITION. What each core's CP kernel writes into the scratchpad at the first boundary of a token iteration (R245, R246,
R249, R251, R257): the staging and append descriptors of the batch's sequences, and the slot table. Where these stand, and
the operands that name the areas they fill and read, the compiler chooses: constants of Config (log entry 67). -/

namespace Sys2Proof.Machine

/-- A scratchpad endpoint and a pool reference (R202). -/
def spEnd (operand : Nat) : List Byte := leBytes 4 (operand % 65536 * 65536) ++ zeros 12
def poolEnd (block off : Nat) : List Byte := leBytes 16 (2 + block * 2 ^ 32 + off * 2 ^ 44)

/-- A mover descriptor without compression and without a fence (R201). -/
def moveDesc (src dst : List Byte) (length count1 count2 src1 src2 dst1 dst2 : Nat) : List Byte :=
  src ++ dst ++ leBytes 4 length ++ leBytes 2 (count1 - 1) ++ leBytes 2 (count2 - 1) ++ leBytes 4 src1 ++ leBytes 4 src2 ++
    leBytes 4 dst1 ++ leBytes 4 dst2 ++ zeros 8

/-- The site of an item for the resident package. -/
def State.kvSite (s : State) (item : KvItem) (c slot p page : Nat) : KvSite :=
  ⟨(s.pkgBytes.drop 0x30).take 48, item, c, slot, p, page⟩

/-- The pool reference to byte `off` of the page of pair `p` in frame `f` on core `c` (R241). -/
def State.pageRef (s : State) (c p f off : Nat) : List Byte :=
  let x := s.framePlace c f
  poolEnd (kvBase (s.kvRec c) + x.1) (x.2 + (s.kvPairAt c p).offset + off)

/-- Write a 64 B line of a site into its core's scratchpad. -/
def State.kvPut (s : State) (x : KvSite) (d : List Byte) : State := s.spStoreA x.core (64 * Config.kvLine x) d

/-- The source of a staging descriptor (R249): the frame of an entry in state 1 or 2, or the zero page. -/
def State.stageSrc (s : State) (q : Seq) (zero : KvSite) (off : Nat) : List Byte :=
  let e := q.pages.getD zero.page (0, 0)
  if e.2 = 1 ∨ e.2 = 2 then s.pageRef zero.core zero.pair e.1 off else spEnd (Config.kvOperand zero)

/-- The staging of logical page `j` of a pair for the sequence in a slot: codes and scales of a standard page (R249), the
whole of an archive page (R251). -/
def State.stagePage (s : State) (c slot p j : Nat) (q : Seq) : State :=
  let x := s.kvPairAt c p
  let at_ := fun i => s.kvSite i c slot p j
  if x.archive then
    s.kvPut (at_ .whole) (moveDesc (s.stageSrc q (at_ .zeroWhole) 0) (spEnd (Config.kvOperand (at_ .wideArea))) (kvPage x) 1 1 0 0 0 0)
  else
    let d := kvDim x
    let s1 := s.kvPut (at_ .codes) (moveDesc (s.stageSrc q (at_ .zeroCodes) 0) (spEnd (Config.kvOperand (at_ .keySet))) d 16 2 d
      (16 * d) 256 (Config.kvStride (at_ .keySet)))
    s1.kvPut (at_ .scales) (moveDesc (s.stageSrc q (at_ .zeroScales) (2 * kvCodes x)) (spEnd (Config.kvOperand (at_ .scaleArea)))
      (2 * kvScales x) 1 1 0 0 0 0)

/-- The appends of rows `i` to `i + n - 1` of logical page `j` of a pair (R246): the K rows, the V rows, both scale
sections. -/
def State.appendPage (s : State) (c slot p j i n : Nat) (q : Seq) : State :=
  let x := s.kvPairAt c p
  let at_ := fun k => s.kvSite k c slot p j
  let f := (q.pages.getD j (0, 0)).1
  let rows := fun (s : State) (put from_ : KvItem) (off : Nat) =>
    s.kvPut (at_ put) (moveDesc (spEnd (Config.kvOperand (at_ from_))) (s.pageRef c p f off) (kvRow x) n 1 (Config.kvStride (at_ from_)) 0
      (kvRow x) 0)
  let s1 := rows s .appendK .rowsK (i * kvRow x)
  let s2 := rows s1 .appendV .rowsV (kvCodes x + i * kvRow x)
  s2.kvPut (at_ .appendScales) (moveDesc (spEnd (Config.kvOperand (at_ .stagedScales))) (s.pageRef c p f (2 * kvCodes x)) (2 * kvScales x)
    1 1 0 0 0 0)

/-- The appends of `n` tokens of a sequence, page by page. -/
def State.appendTokens (s : State) (c slot p n : Nat) (q : Seq) : State :=
  if n = 0 then s
  else (List.range ((q.length + n - 1) / 16 + 1 - q.length / 16)).foldl (fun s k =>
    let j := q.length / 16 + k
    let lo := max q.length (16 * j)
    let hi := min (q.length + n) (16 * j + 16)
    s.appendPage c slot p j (lo - 16 * j) (hi - lo) q) s

/-- One slot of a batch on a core: its entry of the slot table, with the length after the iteration's appends, and the
descriptors of every pair over the chunks of its bucket (R252, R256). -/
def State.kvSlot (s : State) (c bucket slot : Nat) (h : Option (Nat × Nat)) : State :=
  match h.bind fun x => (s.seq x.1).map fun q => (q, x.2) with
  | none => s.kvPut (s.kvSite .slotTable c slot 0 0) (Config.slotEntry 0 0 bucket)
  | some (q, n) =>
    let s1 := s.kvPut (s.kvSite .slotTable c slot 0 0) (Config.slotEntry q.handle (q.length + n) bucket)
    (List.range (kvPairs (s.kvRec c))).foldl (fun s p =>
      let s2 := (List.range (16 * max 1 (bucket / 256))).foldl (fun s j => s.stagePage c slot p j q) s
      s2.appendTokens c slot p n q) s1

/-- The CP kernel of a core, for a run of a bucket's step group with sequences in its slots and the tokens each appends. -/
def State.kvKernel (s : State) (c bucket capacity : Nat) (slots : List (Nat × Nat)) : State :=
  (List.range (max capacity slots.length)).foldl (fun s i => s.kvSlot c bucket i slots[i]?) s

/-- The kernels of every core that owns pairs (R237, R245). -/
def State.kvRewrite (s : State) (bucket capacity : Nat) (slots : List (Nat × Nat)) : State :=
  s.kvCores.foldl (fun s c => s.kvKernel c bucket capacity slots) s

end Sys2Proof.Machine
end

