-- ==== Sys2Proof/Machine/Placement.lean ====
section
/-! DEFINITION. What a device loads of the resident package: routine libraries with the release of each CP, tier-2 data, the
copy of the whole package that a ring member keeps, and the position map (R20, R130, R334, R342, R530 stage 6, R531). -/

namespace Sys2Proof.Machine

/-- Store package data in its blocks, readable by every party (log entry 14). -/
def State.storePackage (s : State) (bs : List PoolBlock) (d : List Byte) : State :=
  (List.zip bs (chunks blockBytes d)).foldl (fun s p =>
    (List.zip (List.range (ceilDiv p.2.length 64)) (chunks 64 p.2)).foldl (fun s l => s.lpStoreLine packageTag (p.1.addr + 64 * l.1) l.2) s) s

/-- The tier-2 data of the sections loaded, each from a multiple of 64. -/
def State.tier2Data (s : State) : List Byte :=
  (s.loaded.filter fun x => x.kind == 5).flatMap fun x => x.data s.pkgBytes ++ zeros (64 * ceilDiv x.length 64 - x.length)

/-- Replace the resident package's record. -/
def State.setResident (s : State) (f : Resident → Resident) : State := { s with fw := { s.fw with pkg := s.fw.pkg.map f } }

/-- Load what this device's position calls for: tier-2 data into the blocks given, routine libraries, and each CP. -/
def State.loadPosition (s : State) (blocks : List PoolBlock) : State :=
  let s1 := (s.setResident fun r => { r with blocks := blocks }).storePackage blocks s.tier2Data
  let s2 := (s1.loaded.filter fun x => x.kind == 3).foldl (fun s x =>
    (maskCores x.mask).foldl (fun s c => (s.clearRange (rsAddr c 0) 0x40000).setBytes (rsAddr c 0) (x.data s.pkgBytes)) s) s1
  (List.range 8).foldl (fun s c => s.cpRelease c) s2

/-- A package takes the place of the resident one (R20), its blocks allocated; the ring's copy is the firmware's own, under
key slot 0. -/
def State.makeResident (s : State) (r : Resident) : State :=
  let old := match s.fw.pkg with | some p => p.blocks ++ p.copy | none => []
  let s1 := ({ s with fw := { s.fw with pkg := some r, measured := [] }, sc := { s.sc with measured := (r.bytes.drop 0x30).take 48 } }).freeBlocks old
  let s2 := (List.zip r.copy (chunks blockBytes r.bytes)).foldl (fun s p => s.blockWrite 0 p.1 0 p.2) s1
  let s3 := s2.loadPosition r.blocks
  (List.range 16).foldl (fun s p =>
    let a := r.place.getD p 0xFF
    let v := decide (1 < r.ring) && a != 0xFF
    (s.fput (f_ciPositionMap_address p) (if v then a else 0)).fput (f_ciPositionMap_valid p) (b2n v)) s3

/-- Load this device's sections into the blocks found for them; without blocks, what needs none. -/
def State.loadFound (s : State) : Option (List PoolBlock × State) → State
  | none => s.loadPosition []
  | some x => x.2.loadPosition x.1

/-- A spare that takes a dead member's address takes its slice position too, and loads that position's sections from its copy
of the package (R334). -/
def State.takePosition (s : State) : State :=
  match s.fw.pkg with
  | none => s
  | some r =>
    let s1 := (s.setResident fun r => { r with blocks := [] }).freeBlocks r.blocks
    s1.loadFound (s1.allocBlocks true (ceilDiv s1.tier2Data.length blockBytes))

/-- The slice positions of the resident package whose device a new member table changes (R334), given the device of an
address before and after. -/
def State.movedPositions (s : State) (old new : Nat → Option (BitVec 64)) : List Nat :=
  match s.fw.pkg with
  | some p => if p.ring ≤ 1 then [] else (List.range p.place.length).filter fun i =>
      let a := p.place.getD i 0xFF
      old a != new a
  | none => []

/-- Whether a position's sections hold KV pairs, and whether they hold the adaptation plan. -/
def State.positionPairs (s : State) (p : Nat) : Bool :=
  ((loadedSections s.pkgBytes s.pkgRing (some p)).map (sectionAt s.pkgBytes)).any fun x =>
    x.kind == 7 && kvPairs ((x.data s.pkgBytes).drop kvOffset) != 0
def State.positionAdapts (s : State) (p : Nat) : Bool :=
  match adaptSection s.pkgBytes with
  | some a => ((loadedSections s.pkgBytes s.pkgRing (some p)).map (sectionAt s.pkgBytes)).contains a
  | none => false

/-- Close a sequence for a reconfiguration and report it (R334); a close that waits for it ends too. -/
def State.seqMoved (s : State) (q : Seq) : State :=
  let s1 := (s.closeSeq q.handle).event 0x32 0xFF (leBytes 4 q.handle)
  match q.closing with
  | some (r, i, _) => match (s1.pair r).taken.find? fun t => t.index == i with
    | some t => s1.completeTaken r t (Done.of stSuccess)
    | none => s1
  | none => s1

/-- The effects of a commit on what the firmware keeps (R260, R334), `members` being the ring's size now and `mine` whether
this device has taken another position. -/
def State.ringMoved (s : State) (members : Nat) (moved : List Nat) (mine : Bool) : State :=
  let s1 := { s with fw := { s.fw with dropPolicy := decide (5 ≤ members) } }
  let s2 := if moved.any s1.positionPairs then (s1.fw.seqs.filter fun q => !q.pages.isEmpty).foldl (fun s q => s.seqMoved q) s1 else s1
  let s3 := if moved.any s2.positionAdapts then
      { s2 with fw := { s2.fw with adapts := s2.fw.adapts.map fun a => { a with incomplete := true } } }
    else s2
  if mine then s3.takePosition else s3

end Sys2Proof.Machine
end

