-- ==== Sys2Proof/Machine/RingRx.lean ====
section
/-! DEFINITION. What arrives on the ring: the link layer (R319 to R321), the checks of every frame (R325, R336 to R338),
bursts as receiver and sender (R327 to R330), remote signals (R340), enumeration and membership (R331 to R335), and the
firmware's messages (R345). The layouts of LINK_HELLO, ENUM records, MEMBERSHIP and FW_MESSAGE are log entry 10. -/

namespace Sys2Proof.Machine

/-! Epochs (R335). -/

/-- `a` is later than `b`. -/
def laterEpoch (a b : Nat) : Bool :=
  a != 0 && (b == 0 || (let d := (a + 2 ^ 32 - b) % 2 ^ 32; 1 ≤ d && d < 2 ^ 31))

/-- The epoch that directly precedes a nonzero epoch. -/
def prevEpoch (e : Nat) : Nat := if e = 1 then 0xFFFFFFFF else e - 1

/-- The epoch that follows. -/
def nextEpoch (e : Nat) : Nat := if e = 0xFFFFFFFF then 1 else e + 1

/-! Ports (R319 to R321). -/

/-- The enable bit of a port. -/
def portEn (p : Nat) : Fld := if p = 0 then f_ciCtrl_port_n_en else f_ciCtrl_port_s_en

/-- A port is enabled: it starts training with its link state afresh (R319). -/
def State.portEnable (s : State) (p : Nat) : State :=
  ((s.fput (portEn p) 1).setPort p .reset).setPortState p 1

/-- A port is no longer held: it goes down. -/
def State.portDisable (s : State) (p : Nat) : State := ((s.fput (portEn p) 0).setPort p .reset).setPortState p 0

/-- PORT_ENABLE (R319). -/
def execPortEnable (port : Fin 2) (s : State) : Host.Outcome State Fault Refusal :=
  .next (if s.fbit (portEn port.val) then s else s.portEnable port.val)

/-- The capability bits this device offers (R319): link encryption with a committed ring key and keys not locked (R535,
R550). -/
def State.offer (s : State) : Nat := b2n (s.sc.ringKey.isSome && !s.fbit f_scStatus_keys_locked)

/-- The greeting (R319, R324). -/
def State.hello (s : State) (p : Nat) : RFrame :=
  s.localFrame 0xE (p + 2 ^ 8 * 1 + 2 ^ 16 * 1 + 2 ^ 32 * s.offer) (leBytes 64 Config.deviceId.toNat)

/-- PORT_TRAINING_DONE (R319): polarity and lane reversal are what training found; the port greets its peer at once, the only
frame of a port that is not up. A quarantined device sends none (R338). -/
def execPortTrainingDone (port : Fin 2) (reversed : Bool) (polarity : BitVec 8) (s : State) : Host.Outcome State Fault Refusal :=
  let p := port.val
  if s.portState p ≠ 1 ∨ (s.port p).trained then .next s
  else
    let s1 := (s.fput (f_ciPortStatus_lane_reversed p) (b2n reversed)).fput (f_ciPortStatus_polarity p) polarity.toNat
    let s2 := s1.setPort p { s1.port p with trained := true, offer := s1.offer }
    .next (if s2.quarantined then s2 else s2.putFrame p (s2.hello p))

/-- PORT_TRAINING_TIMEOUT (R319). -/
def execPortTrainingTimeout (port : Fin 2) (s : State) : Host.Outcome State Fault Refusal :=
  let p := port.val
  .next (if s.portState p = 1 ∧ !(s.port p).trained then s.setPortState p 4 else s)

/-- A port on which frames travel: it trains and has greeted, is up, or faces an excluded device (R319, R332). -/
def State.portLive (s : State) (p : Nat) : Bool :=
  s.portState p == 2 || s.portState p == 3 || (s.portState p == 1 && (s.port p).trained)

/-- IDLE_LINK_WORD (R320): sent where nothing else is to be sent. -/
def execIdleLinkWord (port : Fin 2) (s : State) : Host.Outcome State Fault Refusal :=
  let p := port.val
  .next (if s.portLive p then s.emit (.linkWord p [0]) else s)

/-- LINK_ACK (R320): `count` frames leave the replay buffer. -/
def execLinkAck (port : Fin 2) (count : Nat) (s : State) : Host.Outcome State Fault Refusal :=
  let p := port.val
  let x := s.port p
  .next ((s.setPort p { x with replay := x.replay.drop count }).portRun p)

/-- What a replay sends (R320): every frame not acknowledged, of which a quarantined device keeps to ENUM (R338). -/
def State.replayFrames (s : State) (p : Nat) : List RFrame :=
  if s.quarantined then (s.port p).replay.filter fun f => frKind f == 12 else (s.port p).replay

/-- REPLAY_REQUEST (R320, R358, R596): every frame not acknowledged is sent again. A port that failed its greeting carries no
traffic (R17). -/
def execReplayRequest (port : Fin 2) (s : State) : Host.Outcome State Fault Refusal :=
  let p := port.val
  if !s.portLive p || s.stopped 4 then .next s
  else
    let s1 := s.fsat (if p = 0 then f_ciCounts_replay_n else f_ciCounts_replay_s) 1
    let s2 := s1.report 7 p 0x0006 1
    .next ((s.replayFrames p).foldl (fun s f => s.wire p f) s2)

/-- CREDIT_RETURN (R321). -/
def execCreditReturn (port : Fin 2) (classD : Bool) (lines : Nat) (s : State) : Host.Outcome State Fault Refusal :=
  let p := port.val
  let x := s.port p
  let x' := if classD then { x with creditD := min 1024 (x.creditD + lines) } else { x with creditC := min 128 (x.creditC + lines) }
  .next ((s.setPort p x').portRun p)

/-- PORT_SILENCE_TIMEOUT (R320). -/
def execPortSilenceTimeout (port : Fin 2) (s : State) : Host.Outcome State Fault Refusal :=
  let p := port.val
  .next (if s.portState p = 2 ∨ s.portState p = 3 then s.setPortState p 0 else s)

/-! The checks of every frame (R325). -/

/-- The type fields' defined bits, of header bits [127:64] (R324). -/
def typeMask (kind : Nat) : Nat :=
  match kind with
  | 8 => 2 ^ 51 - 1
  | 9 => 2 ^ 24 - 1
  | 10 => 2 ^ 15 - 1 + (2 ^ 48 - 2 ^ 16)
  | 11 => 2 ^ 32 - 1
  | 12 => 2 ^ 8 - 1
  | 13 => 1 + (2 ^ 64 - 2 ^ 32)
  | 15 => 2 ^ 16 - 1
  | _ => 2 ^ 64 - 1

/-- A frame is malformed: a growth bit of its addresses, which a link-local frame has none of (R323), a type that is not
defined, more than eight lines, or a reserved type field (R324, R325). A protected frame's type fields are judged where it is opened. -/
def malformed (f : RFrame) : Bool :=
  let k := frKind f
  ((frClassD f || frField f 16 16 == 0) && (frField f 9 8 != 0 || frField f 15 14 != 0)) || !(k == 1 || k == 2 || 8 ≤ k) ||
    (!frClassD f && (8 < frField f 27 24 || (f.ext.isNone && (frType f).land (2 ^ 64 - 1 - typeMask k) != 0)))

/-- A malformed frame is dropped, flagged and reported (R325, R596). -/
def State.dropMalformed (s : State) (p : Nat) : State := (s.flag f_ciEvent_malformed).report 7 p 0x0006 1

/-- Whether a frame's epoch passes (R336); a data frame's burst and a protected commit are judged at their destination. A
device that the quiesce of a new table has reached also passes the firmware messages of the sender's epoch, which are its
members' replies (R333, log entry 66). -/
def State.epochOk (s : State) (p : Nat) (f : RFrame) : Bool :=
  match frKind f with
  | 1 => frField f 23 16 == s.epoch % 256
  | 2 => frField f 23 16 == s.epoch % 256
  | 11 => true
  | 12 => true
  | 14 => true
  | 13 => (f.ext.isSome && s.portState p == 2 && !s.quarantined) || (laterEpoch (frField f 127 96) s.epoch && !s.quarantined && s.portState p == 2)
  | 15 => frEpoch f == s.epoch || (s.ring.quiesced && frEpoch f == s.ring.quiesceEpoch)
  | _ => frEpoch f == s.epoch

/-- A stale frame is dropped and counted, and the port answers with FENCE (R337): at most one per microsecond, and none in
the millisecond after a commit to a frame of the epoch before it. -/
def State.staleFrame (s : State) (p : Nat) (f : RFrame) : State :=
  let s1 := (s.fsat f_ciStaleCount_stale 1).raise f_ciEvent_stale_dropped
  let e := s.epoch
  let seen := if frClassD f then frField f 23 16 else frEpoch f
  let prev := e != 0 && (if frClassD f then seen == prevEpoch e % 256 else seen == prevEpoch e)
  let now := s.devTime.toNat
  let excused := s.portState p != 3 && prev && decide (now ≤ s.ring.commitTime + 1000000)
  let x := s1.port p
  let tooSoon := match x.lastFence with | some t => decide (now < t + 1000) | none => false
  if excused || tooSoon then s1
  else
    let s2 := (s1.setPort p { x with lastFence := some now }).raise f_ciEvent_fence_sent
    s2.queueFrame p (s2.localFrame 0xB seen []) false

/-- Fail the transfers of every open send burst (R338). -/
def State.failSends (s : State) : State :=
  s.ring.sends.foldl (fun s b => match (s.core b.core).queue.find? fun t => t.serial == b.serial with
    | some t => (s.failTransfer b.core t 2).mvSettle b.core
    | none => s) s

/-- Quarantine (R338, R602). -/
def State.quarantine (s : State) (epoch : Nat) : State :=
  let s1 := (s.fput f_ciStatus_ring_state 2).raise f_ciEvent_fenced
  let wipe := fun (s : State) p => s.setPort p { s.port p with waitC := [], waitOwn := [], waitTransit := [] }
  let s2 := wipe (wipe s1 0) 1
  let s3 := { s2 with ring := { s2.ring with recvs := [] } }.failSends
  let s4 := { s3 with ring := { s3.ring with sends := [] } }
  let s5 := s4.sediment' 0x10 0x83 0x0049 (epoch % 65536)
  if s5.jobRing then s5.cond .ringFenced true else s5

/-! Bursts as receiver. -/

/-- A burst reply (R324). -/
def State.burstReply (s : State) (dst id reason : Nat) : State :=
  s.sendFrame (s.control 9 dst (id + 2 ^ 16 * b2n (reason != 0) + 2 ^ 17 * reason) [])

/-- Whether a frame's burst was opened under another epoch than the current one (R336). -/
def State.oldBurst (s : State) (id src : Nat) : Bool :=
  s.ring.oldRecvs.any fun r => r.1 == id && r.2.1 == src && r.2.2 != s.epoch

/-- BURST_OPEN at its destination (R327, R330). -/
def State.takeOpen (s : State) (f : RFrame) : State :=
  let id := frField f 79 64
  let lines := frField f 95 80 + 1
  let line := frField f 113 96
  let src := frSrc f
  let base := s.fget f_ciRxWindow_base_line
  let size := s.fget f_ciRxWindow_lines
  if s.ringState ≠ 1 then s.burstReply src id 4
  else if line < base ∨ base + size < line + lines then (s.raise f_ciEvent_window_refused).burstReply src id 3
  else
    let b : RecvBurst := ⟨id, src, frField f 114 114 == 1, line, lines, [], false, s.epoch⟩
    let rest := s.ring.recvs.filter fun r => !(r.id == id && r.src == src)
    let old := s.ring.oldRecvs.filter fun r => !(r.1 == id && r.2.1 == src)
    { s with ring := { s.ring with recvs := rest ++ [b], oldRecvs := old } }

/-- DATA and DATA_LAST at their destination (R327, R328, R336). -/
def State.takeData (s : State) (p : Nat) (f : RFrame) : State :=
  let id := frField f 39 24
  let src := frSrc f
  match s.ring.recvs.find? fun r => r.id == id && r.src == src with
  | none =>
    if s.oldBurst id src then s.staleFrame p f
    else if s.ring.staleReplied.contains (id, src) then s
    else { s with ring := { s.ring with staleReplied := (id, src) :: s.ring.staleReplied } }.burstReply src id 2
  | some b =>
    let off := frField f 55 40
    let n := min (frField f 58 56 + 1) (b.lines - off)
    let s1 := if b.lines ≤ off then s else s.hbStore (64 * (b.line + off)) (f.payload.take (64 * n))
    let got : List Nat := (List.range n).foldl (fun g i => if g.contains (off + i) then g else (off + i) :: g) b.got
    let b' : RecvBurst := { b with got := got, last := b.last || frKind f == 2 }
    let done := b'.last && decide (b'.got.length = b'.lines)
    let rest := s1.ring.recvs.filter fun r => !(r.id == id && r.src == src)
    let s2 := { s1 with ring := { s1.ring with recvs := if done then rest else rest ++ [b'] } }
    if done then s2.burstReply src id 0 else s2

/-- BURST_HOLD_EXPIRY (R328). The timer stands while the fabric's clock is stopped (R565). -/
def execBurstHoldExpiry (idx : Nat) (s : State) : Host.Outcome State Fault Refusal :=
  match if s.stopped 4 then none else s.ring.recvs[idx]? with
  | none => .next s
  | some b =>
    let s1 := { s with ring := { s.ring with recvs := s.ring.recvs.filter fun r => r != b } }
    let s2 := (s1.fsat f_ciCounts_abandoned 1).raise f_ciEvent_burst_abandoned
    .next (s2.burstReply b.src b.id 1)

/-! Bursts as sender. -/

/-- The transfer a send burst belongs to. -/
def State.burstTransfer (s : State) (b : SendBurst) : Option Transfer := (s.core b.core).queue.find? fun t => t.serial == b.serial

/-- Drop an open send burst. -/
def State.dropSend (s : State) (id : Nat) : State :=
  { s with ring := { s.ring with sends := s.ring.sends.filter fun b => b.id != id } }

/-- A burst fails: its transfer fails (R329, R206). -/
def State.burstFail (s : State) (b : SendBurst) : State :=
  match s.burstTransfer b with
  | some t => ((s.dropSend b.id).failTransfer b.core t 2).mvSettle b.core
  | none => s.dropSend b.id

/-- Restart a burst under a new identifier, or fail it after three restarts (R329). -/
def State.burstRestart (s : State) (b : SendBurst) : State :=
  if 3 ≤ b.restarts then s.burstFail b
  else ((s.dropSend b.id).fsat f_ciCounts_restarted 1).openBurst b.core b.serial b.dst b.line (b.restarts + 1) b.data

/-- A burst is done: its transfer goes on, or completes with its last burst (R205, R327). -/
def State.burstDone (s : State) (b : SendBurst) : State :=
  let s1 := s.dropSend b.id
  match s1.burstTransfer b with
  | none => s1
  | some t =>
    (if t.opened then s1.retire b.core t else s1).mvSettle b.core

/-- BURST_REPLY at the sender (R327, R329). -/
def State.takeReply (s : State) (f : RFrame) : State :=
  match s.ring.sends.find? fun b => b.id == frField f 79 64 && b.dst == frSrc f with
  | none => s
  | some b =>
    match frField f 87 81 with
    | 0 => s.burstDone b
    | 1 => s.burstRestart b
    | 2 => s.burstRestart b
    | _ => s.burstFail b

/-- BURST_REPLY_TIMEOUT (R329). The timer stands while the fabric's clock is stopped (R565). -/
def execBurstReplyTimeout (idx : Nat) (s : State) : Host.Outcome State Fault Refusal :=
  match if s.stopped 4 then none else s.ring.sends[idx]? with
  | none => .next s
  | some b => .next (s.burstRestart b)

/-! Enumeration (R331). -/

/-- This device's record: identity, port states, spare flag. -/
def State.enumRecord (s : State) : List Byte :=
  leBytes 8 Config.deviceId.toNat ++ leBytes 1 (s.portState 0) ++ leBytes 1 (s.portState 1) ++
    leBytes 1 (b2n (s.fbit f_ciStatus_spare)) ++ zeros 5

/-- The records of an ENUM payload: 16 B each, up to the first with identity zero. -/
def enumRecords (d : List Byte) : List (List Byte) := (chunks 16 d).takeWhile fun r => leNat (r.take 8) != 0

/-- Records as a payload of whole lines. -/
def enumPayload (rs : List (List Byte)) : List Byte :=
  let d := rs.flatten
  d ++ zeros (64 * ceilDiv d.length 64 - d.length)

/-- An ENUM frame. -/
def State.enumFrame (s : State) (phase : Nat) (rs : List (List Byte)) : RFrame := s.control 0xC 0 phase (enumPayload rs)

/-- A port that carries ENUM. -/
def State.portUp (s : State) (p : Nat) : Bool := s.portState p == 2

/-- The enumeration ends (R331, R497): the firmware reports the records from the head along S, and keeps the physical order
along S. The line of an open ring begins at the device whose N port is not up; its report goes on there after the last
device along S. -/
def State.enumEnd (s : State) (south north : List (List Byte)) (closed : Bool) : State :=
  let s1 := s.fput f_ciStatus_closed (b2n closed)
  let report := s.enumRecord :: (south ++ north.reverse)
  let s2 := { s1 with ring := { s1.ring with head := .none, order := north.reverse ++ (s.enumRecord :: south) } }
  match s2.bgTaken 0x20 with
  | some t => (s2.areaWrite (t.field 16 8) report.flatten).bgDone 0x20 { Done.of stSuccess with result0 := report.length }
  | none => s2

/-- Go on with the enumeration in the N direction, or end it where the N port is not up. -/
def State.enumNorth (s : State) (south : List (List Byte)) : State :=
  if s.portUp 0 then
    let s1 := { s with ring := { s.ring with head := .enumerate false south false } }
    s1.queueFrame 0 (s1.enumFrame 0 [s1.enumRecord]) false
  else s.enumEnd south [] false

/-- The head starts an enumeration: out of its S port first (R331). A quarantined device sends no frame of its own (R338): it
finds itself alone. -/
def State.enumStart (s : State) : State :=
  if s.quarantined then s.enumEnd [] [] false
  else if s.portUp 1 then
    let s1 := { s with ring := { s.ring with head := .enumerate true [] false } }
    s1.queueFrame 1 (s1.enumFrame 0 [s1.enumRecord]) false
  else s.enumNorth []

/-- ENUM received (R331). A frame that comes round after the head's millisecond leaves the ring open (log entry 66). -/
def State.takeEnum (s : State) (p : Nat) (f : RFrame) : State :=
  let rs := enumRecords f.payload
  let own := (rs.head?.map fun r => leNat (r.take 8)) == some Config.deviceId.toNat
  let phase := frField f 71 64
  match own, s.ring.head with
  | true, .enumerate south got late =>
    if phase = 0 then (if south && p == 0 then s.enumEnd (rs.drop 1) [] (!late) else s)
    else if south then s.enumNorth (rs.drop 1)
    else s.enumEnd got (rs.drop 1) false
  | true, _ => s
  | false, _ =>
    if phase = 0 then
      let rs' := rs ++ [s.enumRecord]
      if s.portUp (1 - p) then s.queueFrame (1 - p) (s.enumFrame 0 rs') true
      else s.queueFrame p (s.enumFrame 1 rs') true
    else s.queueFrame (1 - p) f true

/-- ENUM_CLOSED_TIMEOUT (R331): the ring is open; the head waits for the returning frame. -/
def execEnumClosedTimeout (s : State) : Host.Outcome State Fault Refusal :=
  match if s.mpStands then .none else s.ring.head with
  | .enumerate true got _ =>
    .next ({ s with ring := { s.ring with head := .enumerate true got true } }.fput f_ciStatus_closed 0)
  | _ => .next s

/-! Membership (R332, R333). -/

/-- The payload of MEMBERSHIP: one 16 B record per device in physical order along S: identity, address (0xFF where excluded),
spare flag, and whether the ring is closed. -/
def memberPayload (t : List Member) (closed : Bool) : List Byte :=
  enumPayload (t.map fun m => leBytes 8 m.identity.toNat ++ leBytes 1 (m.address.getD 0xFF) ++ leBytes 1 (b2n m.spare) ++
    leBytes 1 (b2n closed) ++ zeros 5)

/-- The table of a MEMBERSHIP payload, and whether the ring is closed. -/
def parseMembers (d : List Byte) : List Member × Bool :=
  let rs := enumRecords d
  (rs.map fun r => ⟨BitVec.ofNat 64 (leNat (r.take 8)), (let a := fieldAt r 8 1; if a = 0xFF then none else some a),
    fieldAt r 9 1 == 1⟩, rs.any fun r => fieldAt r 10 1 == 1)

/-- This device's place in a table. -/
def ownPlace (t : List Member) : Option Nat := t.findIdx? fun m => m.identity == Config.deviceId

/-- The places passed strictly between `i` and `j`, going along S or along N; none where the line ends. -/
def pathBetween (n i j : Nat) (south closed : Bool) : Option (List Nat) :=
  let d := if south then (j + n - i) % n else (i + n - j) % n
  let ok := closed || (if south then decide (i < j) else decide (j < i))
  if ok then some ((List.range (d - 1)).map fun k => if south then (i + 1 + k) % n else (i + n - 1 - k) % n) else none

/-- Hops and port of the route from place `i` to place `j` (R332). -/
def memberRoute (t : List Member) (closed : Bool) (i j : Nat) : Option (Nat × Nat) :=
  let n := t.length
  let clear := fun (o : Option (List Nat)) => match o with
    | some l => if l.all fun k => (t[k]?.bind (·.address)).isSome then some (l.length + 1) else none
    | none => none
  match clear (pathBetween n i j true closed), clear (pathBetween n i j false closed) with
  | some a, some b => if b < a then some (b, 0) else some (a, 1)
  | some a, none => some (a, 1)
  | none, some b => some (b, 0)
  | none, none => none

/-- Write CI_ROUTE from a table, seen from place `i` (R332, R361). -/
def State.writeRoutes (s : State) (t : List Member) (closed : Bool) (i : Nat) : State :=
  let s0 := (List.range 16).foldl (fun (s : State) a => s.wr (f_ciRoute_valid a).off 0) s
  (List.zip (List.range t.length) t).foldl (fun s q =>
    match q.2.address with
    | none => s
    | some a =>
      let put := fun (s : State) (hops port : Nat) =>
        (((s.fput (f_ciRoute_valid a) 1).fput (f_ciRoute_port a) port).fput (f_ciRoute_hops a) hops).fput (f_ciRoute_spare a) (b2n q.2.spare)
      if q.1 = i then put s 0 0
      else match memberRoute t closed i q.1 with
        | some r => put s r.1 r.2
        | none => s) s0

/-- The identity of the device that a table puts on the S (or N) side of place `i`. -/
def neighbour (t : List Member) (closed : Bool) (i : Nat) (south : Bool) : Option Member :=
  let n := t.length
  if south then (if i + 1 < n then t[i + 1]? else if closed then t[0]? else none)
  else (if 0 < i then t[i - 1]? else if closed then t[n - 1]? else none)

/-- K_epoch (R550): the SC derives it where encryption is requested, keys are not locked and a ring key is committed, and
loads it for the epoch that the table commits. -/
def State.loadLinkKey (s : State) (epoch : Nat) (t : List Member) : State :=
  match s.sc.ringKey with
  | some (rk, rid, _) =>
    if s.fbit f_scStatus_keys_locked || !s.fbit f_ciCtrl_encrypt_req then s
    else
      let ids := (List.range 16).flatMap fun a => (t.filter fun m => m.address == some a).flatMap fun m => leBytes 8 m.identity.toNat
      let k := (Config.hmac384 rk ([0x62, 0x6F, 0x6C, 0x63, 0x79] ++ rid ++ leBytes 4 epoch ++ ids)).take 32
      { s with ring := { s.ring with nextKey := some (epoch, k) } }
  | none => s

/-- The address a table gives this device. -/
def ownAddress (t : List Member) : Option Nat := (ownPlace t).bind fun i => t[i]?.bind (·.address)

/-- Quiesce at a member (R333): ring jobs end, DATA and SIGNAL stop, open receive bursts are abandoned. `sent` is the epoch
that the quiesce frame carries as its sender's. -/
def State.quiesceLocal (s : State) (epoch : Nat) (t : List Member) (sent : Nat) : State :=
  let s := s.loadLinkKey epoch t
  let s1 := { s with ring := { s.ring with
    quiesced := true, claimed := ownAddress t, quiesceEpoch := sent, recvs := [],
    oldRecvs := s.ring.oldRecvs ++ s.ring.recvs.map fun b => (b.id, b.src, b.epoch) } }
  let own := fun (s : State) p => s.setPort p { s.port p with
    waitOwn := [], waitC := (s.port p).waitC.filter fun f => !(frKind f == 0xA && frSrc f == s.ringAddr) }
  let s2 := own (own s1 0) 1
  if s2.jobRing then s2.cond .ringReconfigured true else s2

/-- The device at a ring address of a member table. -/
def deviceAt (t : List Member) (a : Nat) : Option (BitVec 64) := (t.find? fun m => m.address == some a).map (·.identity)

/-- Commit at a member (R333, R334): epoch, address, routes and port states; it resumes and restarts its open bursts. -/
def State.commitLocal (s : State) (epoch : Nat) (t : List Member) (closed head : Bool) : State :=
  match ownPlace t with
  | none => s
  | some i =>
    let me := t[i]?.getD ⟨0, none, false⟩
    match me.address with
    | none => s
    | some a =>
      let s1 := (s.fput f_ciEpoch_epoch epoch).fput f_ciStatus_address a
      let s2 := ((s1.fput f_ciStatus_ring_state 1).fput f_ciStatus_spare (b2n me.spare)).fput f_ciStatus_head (b2n head)
      let s3 := s2.writeRoutes t closed i
      let faces : Nat → Bool := fun p => match neighbour t closed i (p == 1) with | some m => m.address.isNone | none => false
      let port := fun (s : State) p =>
        if s.portState p = 2 ∧ faces p then s.setPortState p 3
        else if s.portState p = 3 ∧ !faces p then s.setPortState p 2 else s
      let s4 := port (port s3 0) 1
      let keyed := match s4.ring.nextKey with | some (e, _) => e == epoch | none => false
      let enc := keyed && s4.fbit f_ciCtrl_encrypt_req && [0, 1].all fun p => s4.portState p != 2 || (bit (s4.port p).caps 0 && bit (s4.port p).offer 0)
      let key := match s4.ring.nextKey with | some (_, k) => if keyed then k else s4.ring.key | none => s4.ring.key
      let s5 := { s4 with ring := { s4.ring with
        table := t, quiesced := false, claimed := none, commitTime := s4.devTime.toNat, key := key, nextKey := if keyed then none else s4.ring.nextKey,
        txCount := s4.ring.txNext, txNext := 0, staleReplied := [], recvs := [] } }.fput f_ciStatus_encrypt_active (b2n enc)
      let moved := s.movedPositions (deviceAt s.ring.table) (deviceAt t)
      (s5.ring.sends.foldl (fun s b => s.burstRestart b) s5).ringMoved (t.filter fun m => m.address.isSome).length moved
        (moved.any fun p => s5.position == some p)

/-- A firmware message with this device's identity and one value (R324, log entry 10). -/
def State.fwMessage (s : State) (dst kind value : Nat) : RFrame :=
  s.control 0xF dst kind (leBytes 8 Config.deviceId.toNat ++ leBytes 8 value ++ zeros 48)

/-- Queue a frame that the sealing left, where it left one, on a port. -/
def State.queueSealed (s : State) (p : Nat) : Option (RFrame × State) → State
  | some (f, s1) => s1.queueFrame p f false
  | none => s

/-- Reply to the head on the port its frame came by; the epoch the reply carries is `epoch` (log entry 66). -/
def State.replyOn (s : State) (p dst kind epoch : Nat) : State :=
  let f := s.fwMessage dst kind 0
  s.queueSealed p (s.seal { f with hdr := BitVec.ofNat 128 (setBits f.hdr.toNat 63 32 epoch) })

/-- A MEMBERSHIP frame for address `a`: its source is the address the table gives the head (R322, log entry 66). -/
def State.memberFrame (s : State) (phase epoch a : Nat) (t : List Member) (closed : Bool) : RFrame :=
  let f := s.control 0xD a (phase + 2 ^ 32 * epoch) (memberPayload t closed)
  { f with hdr := BitVec.ofNat 128 (setBits f.hdr.toNat 15 10 ((ownAddress t).getD s.ringAddr)) }

/-- Send MEMBERSHIP to every other member of a table on the new table's routes (R333). -/
def State.sendMembership (s : State) (phase epoch : Nat) (t : List Member) (closed : Bool) : State :=
  match ownPlace t with
  | none => s
  | some i =>
    (List.zip (List.range t.length) t).foldl (fun s q =>
      match q.2.address, memberRoute t closed i q.1 with
      | some a, some r =>
        if q.1 = i then s
        else s.queueSealed r.2 (s.seal (s.memberFrame phase epoch a t closed))
      | _, _ => s) s

/-- The identities of the members other than this device. -/
def othersOf (t : List Member) : List DWord :=
  (t.filter fun m => m.address.isSome && m.identity != Config.deviceId).map (·.identity)

/-- The commit phase of the head, and its end when no member is left to wait for (R333). -/
def State.headCommit (s : State) (epoch : Nat) (t : List Member) (closed : Bool) : State :=
  let s1 := s.sendMembership 1 epoch t closed
  let s2 := s1.commitLocal epoch t closed true
  let w := othersOf t
  if w.isEmpty then { s2 with ring := { s2.ring with head := .none } }.bgDone 0x21 { Done.of stSuccess with result0 := epoch }
  else { s2 with ring := { s2.ring with head := .commit epoch t closed w } }

/-- The head applies a member table (R333): quiesce first. -/
def State.headConfigure (s : State) (t : List Member) (closed : Bool) : State :=
  let e := nextEpoch s.epoch
  let s1 := s.sendMembership 0 e t closed
  let s2 := s1.quiesceLocal e t s.epoch
  let w := othersOf t
  if w.isEmpty then s2.headCommit e t closed
  else { s2 with ring := { s2.ring with head := .quiesce e t closed w } }

/-- MEMBERSHIP received: the member it is for acts on it, and every other device passes it on unopened (R325, R333). A quiesce
is for the device that its table gives the frame's address, and a protected commit for the one that the quiesce before it
gave that address. -/
def State.takeMembership (s : State) (p : Nat) (f : RFrame) : State :=
  let m := parseMembers f.payload
  let mine := if f.ext.isSome then s.ring.claimed == some (frDst f) else ownAddress m.1 == some (frDst f)
  if !mine then s.queueFrame (1 - p) f true
  else match s.unseal f with
    | none => s.raise f_ciEvent_auth_failed
    | some g =>
      let m := parseMembers g.payload
      let epoch := frField g 127 96
      if !laterEpoch epoch s.epoch then s.staleFrame p g
      else if frField g 64 64 = 0 then (s.quiesceLocal epoch m.1 (frEpoch g)).replyOn p (frSrc g) 1 (frEpoch g)
      else
        let s1 := s.commitLocal epoch m.1 m.2 false
        s1.replyOn p (frSrc g) 2 s1.epoch

/-- MEMBER_REPLY_TIMEOUT (R333): the members that have not replied are reported to the driver by identity. The
spec gives RING_CONFIGURE no status for this end: it is a free value (log entry 2). -/
def execMemberReplyTimeout (s : State) : Host.Outcome State Fault Refusal :=
  let tell := fun (w : List DWord) =>
    let s1 := w.foldl (fun s d => s.event 0x31 0xFF (leBytes 8 d.toNat)) s
    let s2 := { s1 with ring := { s1.ring with head := .none } }
    let p := s2.draw
    p.2.bgDone 0x21 (Done.of (p.1 % 65536))
  match if s.mpStands then .none else s.ring.head with
  | .quiesce _ _ _ w => .next (tell w)
  | .commit _ _ _ w => .next (tell w)
  | .collect w _ => .next (tell w)
  | _ => .next s

/-! Firmware messages (R333, R345). -/

/-- The cores of the running job, each given the credit that halts it at boundary `k` (R345, R160). -/
def State.creditTo (s : State) (k : Nat) : State :=
  (List.range 8).foldl (fun s n =>
    if bit s.jobCores n then s.fput (f_ncBoundaryCredit_credit n) (min 65535 (k - 1 - s.fget (f_ncStep_step n))) else s) s

/-- The largest NC_STEP among the cores of the running job. -/
def State.topStep (s : State) : Nat :=
  (List.range 8).foldl (fun m n => if bit s.jobCores n then max m (s.fget (f_ncStep_step n)) else m) 0

/-- The boundary index for a ring job: one past the largest collected step, sent to every member and applied here. -/
def State.sendBoundary (s : State) (best : Nat) : State :=
  let s1 := s.ring.table.foldl (fun s m => match m.address with
    | some a => if m.identity == Config.deviceId then s else s.sendFrame (s.fwMessage a 5 (best + 1))
    | none => s) s
  { s1.creditTo (best + 1) with ring := { s1.ring with head := .none } }

/-- The head brings a ring job to a boundary (R345): it collects every member's NC_STEP first. -/
def State.ringBoundary (s : State) : State :=
  let w := othersOf s.ring.table
  if w.isEmpty then s.sendBoundary s.topStep
  else
    let s1 := s.ring.table.foldl (fun s m => match m.address with
      | some a => if m.identity == Config.deviceId then s else s.sendFrame (s.fwMessage a 3 0)
      | none => s) s
    { s1 with ring := { s1.ring with head := .collect w s1.topStep } }

/-- FW_MESSAGE at its destination: 1 and 2 are a member's replies, 3 asks for NC_STEP, 4 gives it, 5 gives a boundary, 6 the
fallback entry to take there (R524). -/
def State.takeFw (s : State) (f : RFrame) : State :=
  let who := BitVec.ofNat 64 (fieldAt f.payload 0 8)
  let v := fieldAt f.payload 8 8
  let setHead := fun (h : HeadWork) => { s with ring := { s.ring with head := h } }
  match frField f 79 64, s.ring.head with
  | 1, .quiesce e t c w =>
    let w' := w.filter (· != who)
    if w'.isEmpty then (setHead .none).headCommit e t c else setHead (.quiesce e t c w')
  | 2, .commit e t c w =>
    let w' := w.filter (· != who)
    if w'.isEmpty then (setHead .none).bgDone 0x21 { Done.of stSuccess with result0 := e } else setHead (.commit e t c w')
  | 3, _ => s.sendFrame (s.fwMessage (frSrc f) 4 s.topStep)
  | 4, .collect w best =>
    let w' := w.filter (· != who)
    if w'.isEmpty then s.sendBoundary (max best v) else setHead (.collect w' (max best v))
  | 5, _ => s.creditTo v
  | 6, _ => { s with fw := { s.fw with ringEntry := some v } }
  | _, _ => s

/-! A frame received. -/

/-- Deliver a frame at its destination, its tag checked first (R346, R347). -/
def State.deliver (s : State) (p : Nat) (f : RFrame) : State :=
  match s.unseal f with
  | none => s.raise f_ciEvent_auth_failed
  | some g =>
    if (frType g).land (2 ^ 64 - 1 - typeMask (frKind g)) ≠ 0 ∧ !frClassD g then s.dropMalformed p
    else match frKind g with
      | 1 => s.takeData p g
      | 2 => s.takeData p g
      | 8 => s.takeOpen g
      | 9 => s.takeReply g
      | 10 => s.ringSignal (frField g 78 64) (BitVec.ofNat 32 (frField g 111 80))
      | 15 => s.takeFw g
      | _ => s

/-- The greeting received (R319). -/
def State.takeHello (s : State) (p : Nat) (f : RFrame) : State :=
  let x := s.port p
  if s.portState p ≠ 1 ∨ !x.trained then s
  else
    let lo := frField f 79 72
    let hi := frField f 87 80
    let s1 := s.setPort p { x with peer := some (BitVec.ofNat 64 (fieldAt f.payload 0 8)), caps := frField f 127 96 }
    if !(lo ≤ 1 && 1 ≤ hi) then s1.setPortState p 5
    else if frField f 64 64 = p then s1.setPortState p 6
    else (s1.setPortState p 2).portRun p

/-- FENCE received (R338): quarantine where its epoch is later, otherwise counted only. -/
def State.takeFence (s : State) (f : RFrame) : State :=
  if s.quarantined then s.fsat f_ciStaleCount_stale 1
  else if laterEpoch (frEpoch f) s.epoch then s.quarantine (frEpoch f)
  else s.fsat f_ciStaleCount_stale 1

/-- A good frame, after the link layer: malformed, quarantine, epoch, then forwarded or delivered (R325). -/
def State.takeFrame (s : State) (p : Nat) (f : RFrame) : State :=
  if malformed f then s.dropMalformed p
  else
    let k := frKind f
    if s.quarantined ∧ k ≠ 12 ∧ k ≠ 14 then (s.fsat f_ciStaleCount_stale 1).raise f_ciEvent_stale_dropped
    else if !s.epochOk p f then s.staleFrame p f
    else match k with
      | 11 => s.takeFence f
      | 12 => s.takeEnum p f
      | 13 => s.takeMembership p f
      | 14 => s.takeHello p f
      | _ =>
        -- between quiesce and commit the routes are the old table's: the members' replies go straight on (log entry 66)
        if k = 15 ∧ s.ring.quiesced = true then
          (if s.ring.claimed = some (frDst f) then s.deliver p f else s.queueFrame (1 - p) f true)
        else if frDst f = s.ringAddr ∨ (frField f 16 16 = 1 ∧ !frClassD f) then s.deliver p f
        else if s.fbit (f_ciRoute_valid (frDst f)) then s.queueFrame (s.fget (f_ciRoute_port (frDst f))) f true
        else s

/-- Whether a frame that arrives stays in its receive buffer: the fabric's clock stands stopped, or it writes the horizon
buffer while that is scrubbed (R196, R565). -/
def State.rxHeld (s : State) (f : RFrame) : Bool := s.stopped 4 || (frClassD f && s.fbit f_hbScrub_start)

/-- A frame arrives (R320): on a CRC error it and every later frame is discarded until the resend; good ones are
acknowledged and their credits returned. -/
def State.receive (s : State) (rx : RingRx) : State :=
  let p := rx.port.val
  let x := s.port p
  let live := s.portState p == 2 || s.portState p == 3 || (s.portState p == 1 && frKind rx.frame == 14)
  if !live || s.rxHeld rx.frame then s
  else if x.discarding && !rx.resend then s
  else if !rxGood rx then (s.setPort p { x with discarding := true }).emit (.linkWord p [2])
  else
    let s1 := (s.setPort p { x with discarding := false, good := x.good + 1 }).emit (.linkWord p [1, 1])
    let s2 := s1.emit (.linkWord p [3, b2n (frClassD rx.frame), frLines rx.frame])
    s2.takeFrame p rx.frame

/-- Whether a frame belongs to a row: the row's type, or no type of any row (dropped as malformed wherever it stands). -/
def rowFrame (rx : RingRx) (kind : Nat) : Bool :=
  frKind rx.frame == kind || !(frKind rx.frame == 1 || frKind rx.frame == 2 || 8 ≤ frKind rx.frame)

/-- A received frame of one row. -/
def State.rowReceive (s : State) (rx : RingRx) (kind : Nat) : State := if rowFrame rx kind then s.receive rx else s

/-- DATA (R327). -/
def execFrameData (rx : RingRx) (s : State) : Host.Outcome State Fault Refusal := .next (s.rowReceive rx 1)
/-- DATA_LAST (R327). -/
def execDataLast (rx : RingRx) (s : State) : Host.Outcome State Fault Refusal := .next (s.rowReceive rx 2)
/-- BURST_OPEN (R330). -/
def execBurstOpen (rx : RingRx) (s : State) : Host.Outcome State Fault Refusal := .next (s.rowReceive rx 8)
/-- BURST_REPLY (R329). -/
def execBurstReply (rx : RingRx) (s : State) : Host.Outcome State Fault Refusal := .next (s.rowReceive rx 9)
/-- SIGNAL_FRAME (R340). -/
def execSignalFrame (rx : RingRx) (s : State) : Host.Outcome State Fault Refusal := .next (s.rowReceive rx 10)
/-- FENCE (R338). -/
def execFence (rx : RingRx) (s : State) : Host.Outcome State Fault Refusal := .next (s.rowReceive rx 11)
/-- LINK_HELLO (R319). -/
def execLinkHello (rx : RingRx) (s : State) : Host.Outcome State Fault Refusal := .next (s.rowReceive rx 14)
/-- FW_MESSAGE (R345). -/
def execFwMessage (rx : RingRx) (s : State) : Host.Outcome State Fault Refusal := .next (s.rowReceive rx 15)

/-- A received frame of a row that takes one phase of its type. -/
def State.phaseReceive (s : State) (rx : RingRx) (kind hi phase : Nat) : State :=
  if frKind rx.frame == kind && rx.frame.ext.isNone && frField rx.frame hi 64 != phase then s else s.rowReceive rx kind

/-- ENUM_OUTBOUND (R331). -/
def execEnumOutbound (rx : RingRx) (s : State) : Host.Outcome State Fault Refusal := .next (s.phaseReceive rx 12 71 0)
/-- ENUM_RETURN (R331). -/
def execEnumReturn (rx : RingRx) (s : State) : Host.Outcome State Fault Refusal := .next (s.phaseReceive rx 12 71 1)
/-- MEMBERSHIP_QUIESCE (R333). -/
def execMembershipQuiesce (rx : RingRx) (s : State) : Host.Outcome State Fault Refusal := .next (s.phaseReceive rx 13 64 0)
/-- MEMBERSHIP_COMMIT (R333). -/
def execMembershipCommit (rx : RingRx) (s : State) : Host.Outcome State Fault Refusal := .next (s.phaseReceive rx 13 64 1)

/-- Leave quarantine (R339, R349). -/
def State.ciReadmit (s : State) : State :=
  if !s.quarantined then s else ((s.fput f_ciStatus_ring_state 0).fput f_ciEpoch_epoch 0).fput f_ciStatus_head 0

/-- CI_READMIT (R339). -/
def execCiReadmit (s : State) : Host.Outcome State Fault Refusal := .next s.ciReadmit

/-- Zero CI_STALE_COUNT and CI_COUNTS (R356). -/
def State.ciCountsClear (s : State) : State :=
  ((s.wr f_ciStaleCount_stale.off 0).wr f_ciCounts_replay_n.off 0).wr f_ciCounts_abandoned.off 0

/-- CI_COUNTS_CLEAR (R356). -/
def execCiCountsClear (s : State) : Host.Outcome State Fault Refusal := .next s.ciCountsClear

end Sys2Proof.Machine
end

