-- ==== Sys2Proof/Machine/Seal.lean ====
section
/-! DEFINITION. Sealed jobs (R543, R547, R548): the envelope the SC opens during preparation, and the outputs it seals at
completion. -/

namespace Sys2Proof.Machine

/-- Whether an address range that a descriptor names lies where R496 allows it: 64 B-aligned in the bootstrap area, in the
host area, or in valid entries of the host window. -/
def State.inArea (s : State) (a n : Nat) : Bool :=
  a % 64 == 0 &&
    ((decide (bootArea.1 ≤ a) && decide (a + n ≤ bootArea.1 + bootArea.2)) ||
      (match s.host.area with | some (b, k) => decide (b ≤ a) && decide (a + n ≤ b + k) | none => false) ||
      (decide (hostBase ≤ a) && (List.range (ceilDiv (a % blockBytes + n) blockBytes)).all fun i =>
        (s.hostWindow ((a - hostBase) / blockBytes * blockBytes + i * blockBytes) false).isSome))

/-- The sealing key in use for a slot, if one is committed. -/
def State.psk (s : State) (slot : Nat) : Option (List Byte) :=
  ((mapGet (fun _ => (none : Option (List Byte × Nat))) s.sc.psk slot)).map (·.1)

/-- Whether the SC refuses uses of its locked keys (R529, R535). -/
def State.keysLocked (s : State) : Bool := s.fbit f_scStatus_keys_locked || s.fbit f_scStatus_debug_unlocked

/-- A run of a target in one block: the block, the offset in it, the place in the entry's data, and the length. -/
structure SealRun where
  block : PoolBlock
  off : Nat
  place : Nat
  len : Nat
  deriving DecidableEq, Repr

/-- The runs of an entry's target over the blocks of the I/O entry it names: `io` gives each I/O entry's blocks, and the
entry's offset counts over them (R498, R548). -/
def sealTarget (io : List (List PoolBlock)) (e : List Byte) : Option (List SealRun) :=
  let off := fieldAt e 20 4
  let stop := off + fieldAt e 4 4
  match io[fieldAt e 16 2]? with
  | some bs =>
    if bs.length * blockBytes < stop then none
    else some ((List.zip (List.range bs.length) bs).filterMap fun p =>
      let lo := max off (p.1 * blockBytes)
      let hi := min stop ((p.1 + 1) * blockBytes)
      if lo < hi then some ⟨p.2, lo - p.1 * blockBytes, lo - off, hi - lo⟩ else none)
  | none => none

/-- One input entry: its staging ciphertext opened and written to its target under the party's slot; none on a failure. -/
def State.unsealEntry (s : State) (host key : List Byte) (slot : Nat) (io : List (List PoolBlock)) (e : List Byte) :
    Option (State × List Byte) :=
  if fieldAt e 0 1 ≠ 0 then (if fieldAt e 0 1 = 1 then some (s, host) else none)
  else
    let len := fieldAt e 4 4
    if len % 64 ≠ 0 ∨ !s.inArea (fieldAt e 8 8) len then none
    else
      let ct := s.areaRead host (fieldAt e 8 8) len
      match Config.gcmOpen key ((e.drop 24).take 12) (e.take 36) (ct.1 ++ (e.drop 36).take 16), sealTarget io e with
      | some pt, some l => some (l.foldl (fun (s : State) t => s.blockWrite slot t.block t.off ((pt.drop t.place).take t.len)) s, ct.2)
      | _, _ => none

/-- What opening an envelope gives: whether it held, the state (plaintext written before a failure stays), the data key and
the entries. -/
structure Unsealed where
  ok : Bool
  state : State
  key : List Byte
  entries : List (List Byte)

/-- Open a sealed envelope (R548): `block` is the 256 B job block. -/
def State.unsealEnvelope (s : State) (host : List Byte) (addr : Nat) (block : List Byte) (io : List (List PoolBlock)) : Unsealed :=
  let h := s.areaRead host addr 0x80
  let slot := fieldAt h.1 4 1
  let n := fieldAt h.1 5 1
  let bad : Unsealed := ⟨false, s, [], []⟩
  match s.psk slot with
  | none => bad
  | some psk =>
    if s.keysLocked || fieldAt h.1 0 4 != 0x4C414553 || decide (16 < n) then bad
    else match Config.gcmOpen psk ((h.1.drop 0x10).take 12) (h.1.take 16) ((h.1.drop 0x1C).take 48) with
      | none => bad
      | some key =>
        let es := s.areaRead h.2 (addr + 0x80) (64 * n)
        let entries := chunks 64 es.1
        let counter := fieldAt h.1 8 8
        let fresh := match mapGet (fun _ => (none : Option Nat)) s.sc.counters slot with | some c => decide (c < counter) | none => true
        if Config.sha384 block ≠ (h.1.drop 0x50).take 48 ∨ !fresh then bad
        else
          let s1 := { s with sc := { s.sc with counters := mapSet (fun _ => (none : Option Nat)) s.sc.counters slot (some counter) } }
          let r := entries.foldl (fun (x : Bool × State × List Byte) e =>
            if !x.1 then x
            else match x.2.1.unsealEntry x.2.2 key slot io e with
              | some y => (true, y.1, y.2)
              | none => (false, x.2.1, x.2.2)) (true, s1, es.2)
          ⟨r.1, r.2.1, key, entries⟩

/-- Seal a job's outputs (R548): each output entry's target goes encrypted to its staging address, its tag after it. -/
def State.sealOutputs (s : State) (key : List Byte) (slot : Nat) (io : List (List PoolBlock)) (entries : List (List Byte)) : State :=
  entries.foldl (fun s e =>
    if fieldAt e 0 1 ≠ 1 then s
    else match sealTarget io e with
      | none => s
      | some l =>
        let pt := l.flatMap fun t => (s.blockRead [] slot t.block t.off t.len).1
        s.areaWrite (fieldAt e 8 8) (Config.gcmSeal key ((e.drop 24).take 12) (e.take 36) pt)) s

end Sys2Proof.Machine
end

