-- ==== Sys2Proof/Machine/Jobs.lean ====
section
/-! DEFINITION. Jobs (R511 to R526): the pending set, switching, the scrub at a change of party, the fallback path, the
deadline monitor, and completion. -/

namespace Sys2Proof.Machine

/-! The job list. -/

/-- The running job (R511). -/
def State.running (s : State) : Option Job := s.fw.jobs.find? fun j => j.phase == .running

/-- Replace a job. -/
def State.setJob (s : State) (j : Job) : State :=
  { s with fw := { s.fw with jobs := s.fw.jobs.map fun x => if x.number = j.number then j else x } }

/-- Descriptor fields of a job (R498). -/
def Job.deadline (j : Job) : Nat := j.taken.field 24 8
def Job.stream (j : Job) : Nat := j.taken.field 32 1
def Job.flagFallback (j : Job) : Bool := bit (j.taken.field 33 1) 0
def Job.flagSealed (j : Job) : Bool := bit (j.taken.field 33 1) 1
def Job.flagAdapt (j : Job) : Bool := bit (j.taken.field 33 1) 2

/-- The priority of a ring (R492). -/
def State.priority (s : State) (q : Nat) : Nat := s.fget (f_rpCfg_priority q)

/-- Whether job `a` goes before job `b` (R499): higher priority, then lower ring, then submission order. -/
def State.before (s : State) (a b : Job) : Bool :=
  let x := s.priority a.ring
  let y := s.priority b.ring
  decide (y < x) || (x == y && (decide (a.ring < b.ring) || (a.ring == b.ring && decide (a.number < b.number))))

/-- Whether an earlier adaptation job on the same state, or one whose job block has not been read, has not completed
(R311). -/
def State.adaptWaits (s : State) (j : Job) : Bool :=
  j.flagAdapt && s.fw.jobs.any fun k => k.flagAdapt && k.party == j.party && (k.adapt == j.adapt || !k.known) && decide (k.number < j.number)

/-- The first job of the pending set (R499, R514). -/
def State.nextJob (s : State) : Option Job :=
  (s.fw.jobs.filter fun j => j.phase == .pending && !s.adaptWaits j).foldl (fun (o : Option Job) j => match o with
    | none => some j
    | some b => if s.before j b then some j else o) none

/-! The deadline monitor (R215, R216, R522 to R524). -/

/-- The last step of the path a job is on, counted one past it (R520). -/
def State.pathEnd (s : State) (j : Job) : Nat :=
  if j.fallback.isSome then pkSteps s.pkgBytes else pkMain s.pkgBytes

/-- Tier-2 and tier-3 bandwidth in bytes per nanosecond (R215). -/
def State.bandwidth2 (s : State) : Rat :=
  let r : Nat := match s.fget f_mcStatus_rate with | 0 => 4266 | 1 => 6400 | 2 => 7500 | _ => 8533
  340 * (r : Rat) / 8533
def State.bandwidth3 (s : State) : Rat :=
  let lane : Rat := match s.fget f_hiLink_speed with | 5 => 4 | 4 => 2 | 3 => 1 | 2 => 1 / 2 | 1 => 1 / 4 | _ => 0
  3 / 4 * (s.fget f_hiLink_width : Rat) * lane

/-- The array clock of the slowest domain among a job's cores in MHz (R522, R560), and what ring members report (R524). -/
def State.jobClock (s : State) (mask : Nat) (peers : List Nat) : Nat :=
  let own := ((List.range 4).filter fun d => bit mask (2 * d) || bit mask (2 * d + 1)).map fun d =>
    let m := s.fget (f_pgDomainStatus_mean_mhz d)
    if m = 0 then 38 else m
  (own ++ peers).foldl min 800

/-- The class 3 blocks that a job reaches: the generation it reads, for an adaptation job the working one too, and its
activation store (R311, R315). -/
def State.adaptMapped (s : State) (j : Job) : List PoolBlock :=
  let a := s.fw.adapts.filter fun a => a.party == j.party && a.id == j.adapt && j.adapt != 0
  (if j.flagAdapt then a.flatMap fun a => a.live ++ a.work else j.gen) ++ j.store

/-- The KV blocks, by 4096 × core + index, that hold frames of a job's sequences. -/
def State.jobKv (s : State) (j : Job) : List (Nat × PoolBlock) :=
  let pages : List (Nat × Nat) := (j.handles.filterMap s.seq).flatMap fun q => q.pages.filter fun p => p.2 == 1 || p.2 == 2
  s.fw.kvBlocks.filter fun b => pages.any fun p => (s.framePlace (b.1 / 4096) p.1).1 == b.1 % 4096

/-- A job's pool blocks. -/
def State.jobBlocks (s : State) (j : Job) : List PoolBlock :=
  (match s.fw.pkg with | some p => p.blocks | none => []) ++ j.io.flatMap (·.2) ++ (s.jobKv j).map (·.2) ++ s.adaptMapped j

/-- The tier-2 and tier-3 bytes of a step's last run, summed over the job's cores, and the pool layout it ran in (R216). -/
def State.stepBytes (s : State) (i : Nat) : Nat × Nat × List PoolBlock :=
  (maskCores (jobMask s.pkgBytes)).foldl (fun (x : Nat × Nat × List PoolBlock) c =>
    let m := mapGet (fun _ => (0, 0, ([] : List PoolBlock))) s.fw.measured (8 * i + c)
    (x.1 + m.1, x.2.1 + m.2.1, if m.2.2.isEmpty then x.2.2 else m.2.2)) (0, 0, [])

/-- t_i' of R216 in nanoseconds. -/
def State.stepBudget (s : State) (j : Job) (f i : Nat) : Rat :=
  let e := stepAt s.pkgBytes i
  let t : Rat := (e.issue : Rat) * 1000 / (f : Rat) + (e.wait : Rat)
  let m := s.stepBytes i
  let blocks := s.jobBlocks j
  let d : Rat := if m.2.2 = blocks then (m.2.1 : Rat)
    else ((blocks.filter (·.tier == 3)).length : Rat) / (blocks.length : Rat) * ((m.1 + m.2.1 : Nat) : Rat)
  if s.bandwidth3 = 0 then t else t + d * (1 / s.bandwidth3 - 1 / s.bandwidth2)

/-- P of R522. -/
def State.predict (s : State) (j : Job) (k : Nat) (peers : List Nat) : Rat :=
  let f := s.jobClock (jobMask s.pkgBytes) peers
  (List.range (s.pathEnd j - k)).foldl (fun (p : Rat) i => p + s.stepBudget j f (k + i) + 1200) (s.devTime.toNat : Rat)

/-- Whether the monitor moves a job at boundary `k` to the fallback path (R523). -/
def State.monitor (s : State) (j : Job) (k : Nat) (peers : List Nat) : Bool :=
  j.deadline != 0 && j.fallback.isNone && !j.flagAdapt && pkFallback s.pkgBytes != 0 && decide (k < pkMain s.pkgBytes) &&
    (fallbackEntry s.pkgBytes k).1 != 0xFFFFFFFF &&
    decide ((j.deadline : Rat) - ((mapGet (fun _ => 0) s.fw.margins j.stream : Nat) : Rat) < s.predict j k peers)

/-- What a switch is predicted to take, in nanoseconds (R517): `drain` and `scrub` are its terms in nanoseconds, `live` the
bytes saved and restored (at B_3 where the save area lies in tier 3), `load` those of the initial image. -/
def State.switchTime (s : State) (drain : Rat) (live : Nat) (tier3 : Bool) (load : Nat) (scrub : Rat) : Rat :=
  4000 + drain + (live : Rat) / (if tier3 then s.bandwidth3 else 200) + (load : Rat) / 300 + scrub

/-- t_scrub of R519 at the lowest array clock in MHz, in nanoseconds. -/
def scrubTime (mhz : Nat) : Rat := 4096000 / (mhz : Rat) + 1000

/-- The predicted cost of a spill or a prefetch of a sequence's frame bytes, and the delay of a prefetch that a lead time
hides in part (R265), in nanoseconds. -/
def State.spillTime (s : State) (bytes : Nat) : Rat := (bytes : Rat) / s.bandwidth3
def State.prefetchDelay (s : State) (bytes lead : Nat) : Rat := max 0 (s.spillTime bytes - (lead : Rat))

/-! Positions and credits. -/

/-- Fill the first 64 lines of a core's stream from position `pos` into region 63 (R118). Slots that the program's own
transfers have filled past them keep their lines. -/
def State.fillStream (s : State) (c pos : Nat) : State :=
  let st := s.mainStream c
  let k0 := pos / 4
  let size := s.slotCount c 63
  let n := min (min 64 size) (ceilDiv st.length 64 - k0)
  let ahead := ((List.range size).takeWhile fun i => s.fbit (validFld c 63 ((k0 + i) % size))).length
  let s1 := (List.range n).foldl (fun s i =>
    let slot := (k0 + i) % size
    (s.spStoreA c (64 * s.slotLine c 63 slot) ((st.drop (64 * (k0 + i))).take 64)).fput (validFld c 63 slot) 1) s
  ((s1.fput (f_tgRegionPtr_head c 63) (k0 % size)).fput (f_tgRegionPtr_tail c 63) ((k0 + max n ahead) % size)).regionFull c 63

/-- Start a core of a job at its NC_STREAM_POS, its step's first lines filled (R118). -/
def State.startFilled (s : State) (c : Nat) : State :=
  if s.coreState c = 0 ∨ s.coreState c = 3 then
    let s1 := (s.fillStream c (s.fget (f_ncStreamPos_position c))).startCore c
    { s1 with fw := { s1.fw with tierMark := mapSet (fun _ => ((0, 0) : Nat × Nat)) s1.fw.tierMark c (s1.tierCounts c) } }
  else s

/-- Take a core that waits at a step's opening off its WAIT (R27). -/
def State.quietCore (s : State) (c : Nat) : State := if s.coreState c = 2 then (s.abortCore c).abortDone c else s

/-- Stand every core of a job at a step: its index and position; no line of its stream is left in region 63. -/
def State.standAt (s : State) (mask step : Nat) (pos : Nat → Nat) : State :=
  (maskCores mask).foldl (fun s c =>
    let s1 := (List.range 128).foldl (fun s k => s.wr (0x100000 * c + 0x14000 + 512 * 63 + 4 * k) 0) (s.quietCore c)
    (s1.fput (f_ncStep_step c) step).fput (f_ncStreamPos_position c) (pos c)) s

/-- The span of the bucket groups' steps (log entry 16). -/
def groupSpan (r : List Byte) : Nat × Nat :=
  (List.range 6).foldl (fun (x : Nat × Nat) i =>
    let b := kvBucket r i
    if b.2.1 = 0 then x else (min x.1 b.1, max x.2 (b.1 + b.2.1))) (2 ^ 32, 0)

/-- First update step of an adaptation package (R309, R314). -/
def State.updStep (s : State) : Nat :=
  match adaptSection s.pkgBytes with | some x => fieldAt (x.data s.pkgBytes) 0x0C 4 | none => 0

/-- Whether a job's path meets the groups of its sequences. -/
def State.hasGroups (s : State) (j : Job) : Bool :=
  !j.handles.isEmpty && j.fallback.isNone && !j.iters.isEmpty && !s.anyPlan.isEmpty

/-- The next boundary after `k` at which the firmware must act (R513). -/
def State.nextAct (s : State) (j : Job) (k : Nat) : Nat :=
  let fin := s.pathEnd j
  let g := groupSpan s.anyPlan
  let a := if j.inGroups then
      (match j.groups.head? with | some r => (kvBucket s.anyPlan r.bucket).1 + (kvBucket s.anyPlan r.bucket).2.1 | none => fin)
    else if s.hasGroups j ∧ k < g.1 then g.1 else fin
  let b := if j.flagAdapt ∧ k < s.updStep then s.updStep else fin
  min fin (min a b)

/-- Write the credits of a job that stands at boundary `k` and start every core that is halted (R513). -/
def State.goOn (s : State) (j : Job) (k : Nat) : State :=
  let credit := if j.deadline ≠ 0 ∨ s.jobRing = true then 0 else min 65535 (s.nextAct j k - k - 1)
  let s := { s with fw := { s.fw with layout := s.jobBlocks j } }
  (maskCores (jobMask s.pkgBytes)).foldl (fun s c => (s.fput (f_ncBoundaryCredit_credit c) credit).startFilled c) s

/-! Token iterations: what the CP kernels write (R245, R257). -/

/-- The smallest bucket of the plan that holds a length, or the greatest present. -/
def State.bucketFor (s : State) (len : Nat) : Nat :=
  let present := (List.range 6).filter fun i => (kvBucket s.anyPlan i).2.1 != 0
  (present.find? fun i => decide (len ≤ bucketSizes.getD i 0)).getD (present.getLastD 0)

/-- The kernels write for a run of a bucket's group, `n` being the tokens by which each sequence of the job advances. -/
def State.rewriteGroup (s : State) (j : Job) (n : List Nat) (r : GroupRun) : State :=
  let tokens := List.zip j.handles n
  s.kvRewrite (bucketSizes.getD r.bucket 0) (kvBucket s.anyPlan r.bucket).2.2
    (r.slots.map fun h => (h, ((tokens.find? fun x => x.1 == h).map (·.2)).getD 0))

/-- The kernels write for the group run that a job is about to make, if it is in one; on the fallback path, whose steps have
no groups, for every sequence of the job in ascending order of handle (log entry 67). -/
def State.rewriteFor (s : State) (j : Job) : State :=
  let n := j.iters.headD []
  if j.fallback.isSome then
    if j.handles.isEmpty || j.iters.isEmpty then s
    else
      let len := (List.zip j.handles n).foldl (fun m h => max m (((s.seq h.1).map (·.length)).getD 0 + h.2)) 0
      s.rewriteGroup j n ⟨s.bucketFor len, sortNat j.handles⟩
  else match j.groups.head? with
    | some r => if j.inGroups then s.rewriteGroup j n r else s
    | none => s

/-- A job's sequences advance by the iterations that its path completed (R245). -/
def State.advanceSeqs (s : State) (j : Job) (n : List Nat) : State :=
  (List.zip j.handles n).foldl (fun s h => match s.seq h.1 with
    | some q => s.setSeq { q with length := q.length + h.2 }
    | none => s) s

/-- The group runs of a token iteration (R257): buckets in descending order, slots in ascending order of handle, up to the
bucket's capacity. -/
def State.groupRuns (s : State) (j : Job) (n : List Nat) : List GroupRun :=
  let r := s.anyPlan
  let present := (List.range 6).filter fun i => (kvBucket r i).2.1 != 0
  let place := fun (h : Nat × Nat) => s.bucketFor (((s.seq h.1).map (·.length)).getD 0 + h.2)
  let all := List.zip j.handles n
  present.reverse.flatMap fun i =>
    let hs := sortNat ((all.filter fun h => place h == i).map (·.1))
    (chunks (max 1 (kvBucket r i).2.2) hs).map fun c => ⟨i, c⟩

/-- Move a job to a boundary on its path: its index and every core's position. -/
def State.jumpTo (s : State) (j : Job) (k : Nat) : State × Job :=
  let s1 := s.standAt (jobMask s.pkgBytes) k fun c => stepStart (s.mainStream c) k
  let j1 := { j with step := k }
  (s1.setJob j1, j1)

/-- Stand the job at the first step of a group run, and let the kernels write for it (R245, R257). -/
def State.enterGroup (s : State) (j : Job) (r : GroupRun) (k : Nat) : State × Job :=
  let first := (kvBucket s.anyPlan r.bucket).1
  let x := if k = first then (s.setJob j, j) else s.jumpTo j first
  (x.1.rewriteFor x.2, x.2)

/-- Begin the job's next token iteration at boundary `k`, or leave the groups when none is left (R245, R257). -/
def State.nextIteration (s : State) (j : Job) (k : Nat) : State × Job :=
  let g := groupSpan s.anyPlan
  match j.iters with
  | [] =>
    let j1 := { j with inGroups := false, groups := [] }
    if k = g.2 then (s.setJob j1, j1) else s.jumpTo j1 g.2
  | n :: _ =>
    let runs := s.groupRuns j n
    let j1 := { j with inGroups := true, groups := runs }
    match runs with
    | [] => s.jumpTo { j1 with inGroups := false, iters := [] } g.2
    | r :: _ => s.enterGroup j1 r k

/-- What the firmware does about a job's token iterations at boundary `k` (R245, R257). -/
def State.iterate (s : State) (j : Job) (k : Nat) : State × Job :=
  let r := s.anyPlan
  if !s.hasGroups j then (s, j)
  else if !j.inGroups then (if k = (groupSpan r).1 then s.nextIteration j k else (s, j))
  else match j.groups with
    | [] => (s, j)
    | g :: rest =>
      let b := kvBucket r g.bucket
      if k ≠ b.1 + b.2.1 then (s, j)
      else match rest with
        | g2 :: _ => s.enterGroup { j with groups := rest } g2 k
        | [] =>
          let s1 := s.advanceSeqs j (j.iters.headD [])
          s1.nextIteration { j with iters := j.iters.drop 1, groups := [] } k

/-! Switching (R516 to R519). -/

/-- The lines of the on-chip memories: each core's scratchpad, and the horizon buffer as core 8. -/
def onChipLines : List (Nat × Nat) :=
  (List.range 8).flatMap (fun c => (List.range (spBytes / 64)).map fun l => (c, l)) ++ (List.range (hbBytes / 64)).map fun l => (8, l)

/-- The device address of such a line. -/
def chipAddr (x : Nat × Nat) : Nat := if x.1 < 8 then spAddr x.1 (64 * x.2) else hbAddr (64 * x.2)

/-- Read one of them as the firmware's save does, through its memory's asynchronous port under SECDED (R181, R194). -/
def State.readChip (s : State) (x : Nat × Nat) : List Byte × State :=
  if x.1 < 8 then
    let r := s.aRead x.1 x.2 4
    (r.1, r.2.2)
  else
    let r := s.hbRead x.2 0
    (r.1, r.2.2)

/-- Store one of them; an armed injection takes part in a scratchpad store (R189). -/
def State.storeChip (s : State) (x : Nat × Nat) (d : List Byte) : State :=
  if x.1 < 8 then s.spStoreA x.1 (64 * x.2) d else s.hbStore (64 * x.2) d

/-- The lines that live_bytes of a step counts, each with its bytes, read for a save (R516 step 2); none before the first
step. -/
def State.saveLive (s : State) : Option Nat → List (Nat × List Byte) × State
  | none => ([], s)
  | some i => (onChipLines.filter fun x => Config.liveLine i (chipAddr x / 64)).foldl (fun (y : List (Nat × List Byte) × State) x =>
      let r := y.2.readChip x
      (y.1 ++ [(chipAddr x, r.1)], r.2)) ([], s)

/-- A core record (R518). -/
def State.coreRecord (s : State) (c : Nat) : List Byte :=
  let w := fun (o : Nat) => leBytes 4 (s.rd o).toNat
  w (f_ncStep_step c).off ++ w (f_ncStreamPos_position c).off ++ w (f_ncSyncWindow_base c).off ++ zeros 244 ++
    (List.range 128).flatMap (fun i => w ((f_tgRegionCfg_base_line c 0).off + 4 * i)) ++
    (List.range 64).flatMap (fun i => w (f_tgRegionPtr_head c i).off) ++
    (List.range 8192).flatMap fun i => w ((f_tgValid_valid c 0).off + 4 * i)

/-- Clear a range of registers to their reset values. -/
def State.regsClear (s : State) (lo n : Nat) : State := { s with regs := mapDrop (fun k => lo ≤ k && k < lo + n) s.regs }

/-- Write a core's registers from its record (R516 step 6). -/
def State.loadRecord (s : State) (c : Nat) (r : List Byte) : State :=
  let put := fun (s : State) (o at_ : Nat) => s.wr o (BitVec.ofNat 32 (fieldAt r at_ 4))
  let s1 := put (put (put s (f_ncStep_step c).off 0) (f_ncStreamPos_position c).off 4) (f_ncSyncWindow_base c).off 8
  let s2 := (List.range 128).foldl (fun s i => put s ((f_tgRegionCfg_base_line c 0).off + 4 * i) (0x100 + 4 * i)) s1
  let s3 := (List.range 64).foldl (fun s i => put s (f_tgRegionPtr_head c i).off (0x300 + 4 * i)) s2
  (List.range 8192).foldl (fun s i => put s ((f_tgValid_valid c 0).off + 4 * i) (0x400 + 4 * i)) s3

/-- Store bytes over a run of blocks. -/
def State.areaStore (s : State) (slot : Nat) (bs : List PoolBlock) (off : Nat) (d : List Byte) : State :=
  ((List.zip (List.range bs.length) bs).foldl (fun (s : State) b =>
    let lo := b.1 * blockBytes
    let d' := (d.take (lo + blockBytes - off)).drop (lo - off)
    if lo + blockBytes ≤ off ∨ d'.isEmpty then s else s.blockWrite slot b.2 (off - lo) d')) s

/-- The ring sync window (R343). -/
def State.ringWindow (s : State) : Nat × Nat :=
  match slicePlan s.pkgBytes s.pkgRing with | some d => (fieldAt d 0x10 2, fieldAt d 0x12 2) | none => (0, 0)

/-- Count bytes that a core's mover moves in a tier (R211). -/
def State.countTier (s : State) (c tier n : Nat) : State :=
  let f := f_mvTierBytes_bytes_lo c tier
  s.fput64 f ((s.fget64 f + n) % 2 ^ 64)

/-- Count the bytes of a save or a restore at the area's tier: each core's lines and record; those of the horizon buffer and
the window's objects with the job's lowest core (log entry 68). -/
def State.countSave (s : State) (cores : List Nat) (tier : Nat) (lines : List (Nat × List Byte)) (objects : Nat) : State :=
  cores.foldl (fun s c =>
    let own := (lines.filter fun x => x.1 / 0x1000000 == c).length
    let rest := if cores.head? = some c then 64 * (lines.filter fun x => 0x8000000 ≤ x.1).length + 4 * objects else 0
    s.countTier c tier (64 * own + 33792 + rest)) s

/-- Save a job that stands at boundary `k` into a new save area; none where none can be allocated (R516 step 2). -/
def State.switchOut (s : State) (j : Job) (k : Nat) (ph : JobPhase) : Option State :=
  let b := s.pkgBytes
  let cores := maskCores (jobMask b)
  let live := match j.ended with | some i => (stepAt b i).live | none => 0
  let win := if s.jobRing then s.ringWindow else (0, 0)
  (s.allocSides (s.slotSealed j.party) (ceilDiv (live + 33792 * cores.length + 4 * win.2) blockBytes)).map fun x =>
    let s1 := cores.foldl (fun s c => s.quietCore c) x.2
    let recs := cores.map s1.coreRecord
    let objs := (List.range win.2).map fun i => s1.obj (win.1 + i)
    let saved := s1.saveLive j.ended
    let s2 := saved.2.areaStore j.party x.1 0 ((saved.1.flatMap (·.2)).take live)
    let s3 := (List.zip (List.range recs.length) recs).foldl (fun s r => s.areaStore j.party x.1 (live + 33792 * r.1) r.2) s2
    let s4 := s3.areaStore j.party x.1 (live + 33792 * cores.length) (objs.flatMap fun (w : Word) => leBytes 4 w.toNat)
    let s5 := s4.countSave cores ((x.1.head?.map (·.tier)).getD 2) saved.1 win.2
    let j' := { j with phase := ph, stop := false, suspend := false, step := k, area := x.1, saved := saved.1, records := recs,
                       objects := objs, out := true }
    { s5.setJob j' with jobCores := 0, jobRing := false, conds := [], abortNow := false }

/-- Restore a job's live data over the initial image, and free its save area (R516 step 5). -/
def State.restore (s : State) (j : Job) : State :=
  let s1 := (onChipLines.filter fun x => j.saved.any fun y => y.1 == chipAddr x).foldl (fun s x =>
    s.storeChip x (((j.saved.find? fun y => y.1 == chipAddr x).map (·.2)).getD [])) s
  let win := s1.ringWindow
  let s2 := (List.zip (List.range j.objects.length) j.objects).foldl (fun s o => s.setObject (win.1 + o.1) o.2) s1
  let s3 := s2.countSave (maskCores (jobMask s.pkgBytes)) ((j.area.head?.map (·.tier)).getD 2) j.saved j.objects.length
  s3.freeBlocks j.area

/-- The scrub at a change of party (R519), before a job with sync window `win`. -/
def State.partyScrub (s : State) (old : Nat) (win : Nat × Nat) : State :=
  let s1 := (List.range 8).foldl (fun s c =>
    let s := ((s.spScrub c).spScrubbed c).seedClear c
    let s := ((s.maClear c 0).maCleared c 0).maClear c 1
    let s := s.maCleared c 1
    (s.regsClear (f_tgRegionCfg_base_line c 0).off 0x300).regsClear (f_tgValid_valid c 0).off 0x8000) s
  let s2 := s1.clearRange (hbAddr 0) hbBytes
  let s3 := (List.range 16).foldl (fun s g => (s.setGroup g { s.group g with augSeed := 0 }).augCommit g 0) s2
  let mine := s3.fw.windows.filter fun w => w.1 == old
  { s3 with sync := mapDrop (fun o => decide (win.1 ≤ o) && decide (o < win.1 + win.2) && mine.any fun w =>
      decide (w.2.1 ≤ o) && decide (o < w.2.1 + w.2.2)) s3.sync }

/-- Load the initial image (R131, R516 step 4): scratchpads and horizon buffer from offset 0 (log entry 15); an armed
injection takes part in a scratchpad store (R189). -/
def State.loadImage (s : State) (mask : Nat) : State :=
  (s.loaded.filter fun x => x.kind == 4).foldl (fun s x =>
    let d := x.data s.pkgBytes
    if x.mask = 0 then s.hbStore 0 (d.take hbBytes)
    else (maskCores (x.mask &&& mask)).foldl (fun s c => s.spStoreA c 0 (d.take spBytes)) s) s

/-- Pool indices that the firmware uses for package data and adaptation state on a core: from 256 up, outside the KV
blocks (log entry 17). -/
def State.freeIndices (s : State) (c n : Nat) : List Nat :=
  let r := s.kvRec c
  let base := kvBase r
  let cnt := kvCount r
  (List.range n).map fun i =>
    if cnt = 0 ∨ base + cnt ≤ 256 ∨ 256 + i < base then 256 + i
    else if base ≤ 256 then base + cnt + i else 256 + i + cnt

/-- Write one entry of a core's pool map (R212). -/
def State.mapBlock (s : State) (c i cls : Nat) (b : PoolBlock) : State :=
  let o := (f_mvPoolMap_valid c i).off
  (s.wr o (BitVec.ofNat 32 (1 + 2 * b2n (b.tier == 3) + 4 * cls + b.addr / blockBytes % 2048 * 2 ^ 21))).wr (o + 4)
    (BitVec.ofNat 32 (b.addr / 2 ^ 32))

/-- Write a job's pool maps (R213, R241, R498, R516 step 6). -/
def State.mapJob (s : State) (j : Job) : State :=
  (maskCores (jobMask s.pkgBytes)).foldl (fun s c =>
    let s1 := s.regsClear (f_mvPoolMap_valid c 0).off 0x8000
    let s2 := j.io.foldl (fun s e => (List.zip (List.range e.2.length) e.2).foldl (fun s b => s.mapBlock c (e.1 + b.1) 0 b.2) s) s1
    let s3 := (s2.fw.kvBlocks.filter fun b => b.1 / 4096 == c).foldl (fun s b =>
      s.mapBlock c (kvBase (s.kvRec c) + b.1 % 4096) 1 b.2) s2
    let data := (match s3.fw.pkg with | some p => p.blocks | none => []).map fun b => (0, b)
    let all := data ++ (s3.adaptMapped j).map fun b => (3, b)
    (List.zip (s3.freeIndices c all.length) all).foldl (fun s p => s.mapBlock c p.1 p.2.1 p.2.2) s3) s

/-- Load a job's grit key into its cores, and its augmentation key and each group's n0 into IA (R285, R382). -/
def State.loadSeeds (s : State) (j : Job) : State :=
  let s1 := (maskCores (jobMask s.pkgBytes)).foldl (fun s c =>
    (List.range 4).foldl (fun s m => s.seedWrite c m (BitVec.ofNat 32 (bits j.grit.toNat (32 * m + 31) (32 * m)))) s) s
  (List.range 16).foldl (fun s g => (s.setGroup g { s.group g with augSeed := j.aug }).augCommit g (j.augBase.getD g 0)) s1

/-- A new job's registers from the region and sync plan (R131, R516 step 6). -/
def State.initRegs (s : State) (j : Job) (mask : Nat) : State :=
  (maskCores mask).foldl (fun s c =>
    let p := s.regionPlan c
    let s1 := (s.regsClear (f_tgRegionCfg_base_line c 0).off 0x300).regsClear (f_tgValid_valid c 0).off 0x8000
    let s2 := (List.range 128).foldl (fun s i =>
      s.writeReg ((f_tgRegionCfg_base_line c 0).off + 4 * i) (BitVec.ofNat 32 (fieldAt p (4 * i) 4))) s1
    s2.wr (f_ncSyncWindow_base c).off (BitVec.ofNat 32 (j.window.1 + j.window.2 * 65536))) s

/-- Clear the flags an adaptation job is judged by (R309). -/
def State.clearArithFlags (s : State) (mask : Nat) : State :=
  (maskCores mask).foldl (fun s c =>
    let s := s.wr (f_veEvent_nan_produced c).off 0
    [0, 1].foldl (fun s a => (s.fput (f_maArithEvent_invalid_operand c a) 0).fput (f_maArithEvent_range_error c a) 0) s) s

/-- Whether any of them has set. -/
def State.nonfinite (s : State) (mask : Nat) : Bool :=
  (maskCores mask).any fun c => s.fbit (f_veEvent_nan_produced c) ||
    [0, 1].any fun a => s.fbit (f_maArithEvent_invalid_operand c a) || s.fbit (f_maArithEvent_range_error c a)

/-- Move a job that stands at main boundary `k` to the fallback path (R521, R248). -/
def State.toFallback (s : State) (j : Job) (k : Nat) : State × Job :=
  let e := fallbackEntry s.pkgBytes k
  let s1 := s.standAt (jobMask s.pkgBytes) e.1 fun c => e.2.getD c 0
  let s2 := j.handles.foldl (fun s h => match s.seq h with | some q => s.setSeq { q with fallback := true } | none => s) s1
  let j' := { j with fallback := some k, groups := [], inGroups := false, step := e.1 }
  ((s2.setJob j').rewriteFor j', j')

/-- Give a job's cores the lengths of their main streams (R124), or take them away. -/
def State.knowStreams (s : State) (mask : Nat) (on : Bool) : State :=
  (maskCores mask).foldl (fun s c =>
    s.setCore c { s.core c with streamLen := if on then some ((s.mainStream c).length / 16) else none }) s

/-- Bring a job in (R516 steps 3 to 7). -/
def State.switchIn (s : State) (j : Job) (peers : List Nat) : State :=
  let mask := jobMask s.pkgBytes
  let s : State := match s.fw.lastParty with
    | some p => if p = j.party then s else s.partyScrub p j.window
    | none => s
  let s : State := s.loadImage mask
  let s : State := if j.out then s.restore j else s
  let s : State := (maskCores mask).foldl (fun s c => s.wr (f_scCoreSlot_key_slot c).off (BitVec.ofNat 32 j.party)) s
  let s : State := if j.out then (List.zip (maskCores mask) j.records).foldl (fun s r => s.loadRecord r.1 r.2) s
    else (s.initRegs j mask).standAt mask 0 fun _ => 0
  let s : State := ((s.mapJob j).loadSeeds j).knowStreams mask true
  let ring := decide (1 < s.pkgRing)
  let s : State := if ring then
      (match slicePlan s.pkgBytes s.pkgRing with
        | some d => (((s.fput f_ciRxWindow_base_line (fieldAt d 8 4)).fput f_ciRxWindow_lines (fieldAt d 0x0C 4)).fput
            f_ciSyncWindow_base (fieldAt d 0x10 2)).fput f_ciSyncWindow_size (fieldAt d 0x12 2)
        | none => s)
    else s
  let s : State := if j.flagAdapt && !j.out then s.clearArithFlags mask else s
  let j1 := { j with phase := .running, area := [], saved := [], records := [], objects := [], out := false, copies := [],
                     step := if j.out then j.step else 0 }
  let s : State := s.setJob j1
  let win := (j.party, j.window.1, j.window.2)
  let s : State := { s with
    jobCores := mask, jobRing := ring, conds := [], abortNow := false,
    fw := { s.fw with lastParty := some j.party, windows := win :: (s.fw.windows.filter (· != win)) } }
  let y := if j.out then (s.rewriteFor j1, j1) else s.iterate j1 0
  let fresh := j.flagFallback && !j.out && pkFallback s.pkgBytes != 0
  let x := if fresh ∨ y.1.monitor y.2 y.2.step peers then y.1.toFallback y.2 (if fresh then 0 else y.2.step) else y
  x.1.goOn x.2 x.2.step

/-- Recompute the dropped sequences among some handles (R263, R264), one after the other, and whether each could be. -/
def State.recomputeAll (s : State) (hs keep : List Nat) : Bool × State :=
  hs.foldl (fun (x : Bool × State) h => if x.1 then x.2.recompute h keep else x) (true, s)

/-- Give the sequences of a job the frames that its appends will reach (R241, R245), `n` tokens each, and whether each could
be. -/
def State.growAll (s : State) (n : List (Nat × Nat)) (keep : List Nat) : Bool × State :=
  n.foldl (fun (x : Bool × State) h => if x.1 then
      (match x.2.seq h.1 with
        | some q => x.2.growSeq h.1 (ceilDiv (q.length + h.2) 16) keep 4096
        | none => x)
    else x) (true, s)

/-- The tokens by which a job's iterations advance each of its sequences. -/
def Job.appends (j : Job) : List (Nat × Nat) :=
  (List.zip (List.range j.handles.length) j.handles).map fun h => (h.2, j.iters.foldl (fun a n => a + n.getD h.1 0) 0)

/-- Whether a job's appends would take a sequence past its limit (R238). -/
def State.overLimit (s : State) (j : Job) : Bool :=
  let limit := min 4096 (if s.anyPlan.isEmpty then 4096 else kvMaxContext s.anyPlan)
  j.appends.any fun h => match s.seq h.1 with | some q => decide (limit < q.length + h.2) | none => false

/-- A job that starts takes the published generation of its state as the one it reads to its end; an adaptation job whose
working generation such a job still reads takes other blocks (R311). None where none can be allocated. -/
def State.takeGeneration (s : State) (j : Job) : Option (State × Job) :=
  match s.fw.adapts.find? fun a => a.party == j.party && a.id == j.adapt && j.adapt != 0 with
  | none => some (s, j)
  | some a =>
    if !j.flagAdapt then some (s, { j with gen := a.live })
    else if !s.fw.jobs.any fun k => a.work.any k.gen.contains then some (s, j)
    else (s.allocBlocks (s.slotSealed j.party) a.work.length).map fun x =>
      ({ x.2 with fw := { x.2.fw with adapts := x.2.fw.adapts.map fun b =>
          if b.party = a.party ∧ b.id = a.id then { b with work := x.1 } else b } }, j)

/-- What a job needs at its opening boundary beside the switch (R238, R245, R262 to R264): the limit and the frames of its
sequences as they stand now; the status with which it ends where one is missing. -/
def State.openJob (s : State) (j : Job) : Option Nat × State × Job :=
  if !j.out && s.overLimit j then (some stContextLimit, s, j)
  else
    let s1 := if j.out then s else s.takeCopies j.copies
    let r := s1.recomputeAll j.handles j.handles
    let g := if r.1 && !j.out then r.2.growAll j.appends j.handles else r
    if !g.1 then (some stPoolExhausted, g.2, j)
    else if j.out then (none, g.2, j)
    else match g.2.takeGeneration j with
      | some x => (none, x)
      | none => (some stPoolExhausted, g.2, j)

/-! Completion. -/

/-- Whether a job submitted no later than number `no` names something of its party, or may: its job block is unread. -/
def State.namedBefore (s : State) (party no : Nat) (names : Job → Bool) : Bool :=
  s.fw.jobs.any fun j => j.party == party && decide (j.number ≤ no) && (names j || !j.known)

/-- A held descriptor of a ring completes. -/
def State.heldDone (s : State) (r i st : Nat) : State :=
  match (s.pair r).taken.find? fun t => t.index == i with
  | some t => s.completeTaken r t (Done.of st)
  | none => s

/-- Closes of sequences whose jobs have ended take effect (R238). -/
def State.settleSeqs (s : State) : State :=
  s.fw.seqs.foldl (fun s q => match q.closing with
    | some (r, i, no) =>
      if s.namedBefore q.party no fun j => j.handles.contains q.handle then s
      else (s.closeSeq q.handle).heldDone r i stSuccess
    | none => s) s

/-- Releases of adaptation state that no job names take effect (R497). -/
def State.settleReleases (s : State) : State :=
  s.fw.adapts.foldl (fun s a => match a.releasing with
    | some (r, i, no) =>
      if (s.fw.jobs.any fun j => j.party == a.party && j.adapt == a.id) || s.namedBefore a.party no (fun _ => false) then s
      else
        let s1 := { s with fw := { s.fw with adapts := s.fw.adapts.filter fun b => b.id != a.id || b.party != a.party } }
        (s1.freeBlocks (a.live ++ a.work)).heldDone r i stSuccess
    | none => s) s

def State.setAdapt (s : State) (a : Adapt) : State :=
  { s with fw := { s.fw with adapts := s.fw.adapts.map fun b => if b.party = a.party ∧ b.id = a.id then a else b } }

/-- The party of a ring (R486). -/
def State.ringParty (s : State) (q : Nat) : Nat := s.fget (f_rpCfg_party q) % 16

/-- The adaptation state that a command names for the ring's party. -/
def State.adaptOf (s : State) (q : Nat) (t : Taken) : Option Adapt :=
  s.fw.adapts.find? fun a => a.party == s.ringParty q && a.id == t.field 16 4

/-- Replace a state's published generation; none where no block can be allocated. A job that reads the present one keeps it
(R311). -/
def State.importState (s : State) (a : Adapt) (gen : Nat) (p : List Byte) : Option State :=
  let kept := s.fw.jobs.any fun j => a.live.any j.gen.contains
  let old := if kept then [] else a.live
  (s.allocBlocks (s.slotSealed a.party) (ceilDiv p.length blockBytes - old.length)).map fun x =>
    let live := old ++ x.1
    let s1 := (List.zip live (chunks blockBytes p)).foldl (fun s b => s.blockWrite a.party b.1 0 b.2) x.2
    s1.setAdapt { a with live := live, gen := gen, incomplete := false }

/-- An import ends: its state is in place, or its pools were short. -/
def State.importEnds (s : State) (q : Nat) (t : Taken) : Option State → State
  | none => s.completeTaken q t (Done.of stPoolExhausted)
  | some s1 => s1.completeTaken q t (Done.of stSuccess)

/-- Imports that waited for a boundary take their blocks (R213, R549). -/
def State.settleImports (s : State) : State :=
  let l := s.fw.imports
  l.foldl (fun s x => match (s.pair x.1).taken.find? fun t => t.index == x.2.1 with
    | none => s
    | some t => match s.adaptOf x.1 t with
      | none => s.completeTaken x.1 t (Done.of stInvalidField)
      | some a => s.importEnds x.1 t (s.importState a x.2.2.1 x.2.2.2)) { s with fw := { s.fw with imports := [] } }

/-- What frees or takes pool blocks at a boundary for commands that wait (R213). -/
def State.settleNow (s : State) : State := s.settleSeqs.settleReleases.settleImports

/-- The same while no job is in the midst of a step. -/
def State.settleCloses (s : State) : State := if s.running.isSome then s else s.settleNow

/-- Publish an adaptation job's working generation (R311). -/
def State.publish (s : State) (j : Job) : State :=
  { s with fw := { s.fw with adapts := s.fw.adapts.map fun a =>
      if a.party = j.party ∧ a.id = j.adapt then { a with gen := a.gen + 1, live := a.work, work := a.live } else a } }

/-- SC_SLOT.in_use as the MP keeps it (R554): the party has rings, jobs, sequences or state. -/
def State.markSlots (s : State) : State :=
  let used := ((List.range 16).filter fun q => s.fbit (f_rpCfg_enable q)).map (fun q => s.fget (f_rpCfg_party q) % 16) ++
    s.fw.jobs.map (·.party) ++ s.fw.seqs.map (·.party) ++ s.fw.adapts.map (·.party)
  (List.range 16).foldl (fun s p => s.fput (f_scSlot_in_use p) (b2n (used.contains p))) s

/-- The generation that a job read and that neither its state nor another job holds any more (R311). -/
def State.orphans (s : State) (j : Job) : List PoolBlock :=
  j.gen.filter fun b => !(s.fw.adapts.any fun a => a.live.contains b || a.work.contains b) && !s.fw.jobs.any fun k => k.gen.contains b

/-- Complete a job with a status (R248, R311, R500, R515, R525, R548). -/
def State.endJob (s : State) (j : Job) (status : Nat) : State :=
  let ok := status == stSuccess
  let s := if ok then j.iters.foldl (fun s n => s.advanceSeqs j n) s else s
  let s := if j.sealedEnts.isEmpty then s else s.sealOutputs j.sealedKey j.party (j.io.map (·.2)) j.sealedEnts
  let s := if ok && j.flagAdapt then s.publish j else s
  let marked := j.handles.any fun h => match s.seq h with | some q => q.fallback | none => false
  let fb := !j.flagAdapt && (j.fallback.isSome || marked)
  let flags := b2n fb + 2 * b2n j.overrun
  let run := j.phase == .running
  let last := if run then s.topStep else j.step
  let s := if run then (maskCores s.jobCores).foldl (fun s c => s.quietCore c) s else s
  let s := if run then s.knowStreams s.jobCores false else s
  let s := if run && s.jobRing then (s.wr f_ciRxWindow_lines.off 0).fput f_ciSyncWindow_size 0 else s
  let s := { s with fw := { s.fw with jobs := s.fw.jobs.filter fun k => k.number != j.number,
                                      past := s.fw.past ++ [(j.ring, j.taken.tag, last)] } }
  let s := if run then { s with jobCores := 0, jobRing := false, conds := [], abortNow := false } else s
  let s := s.freeBlocks (j.store ++ j.area ++ s.orphans j)
  let s := if j.copies.isEmpty then s else s.trimKv
  let f := f_hiJobCount_jobs_lo j.party
  let s := s.fput64 f ((s.fget64 f + 1) % 2 ^ 64)
  let d : Done := ⟨status, flags, if fb then j.fallback.getD 0xFFFFFFFF else 0xFFFFFFFF, j.number, j.stepsRun⟩
  (s.completeTaken j.ring j.taken d).settleCloses.markSlots

/-- A job's cores that the spec says can no longer run one (R567, R600). -/
def State.deadCores (s : State) : Option Nat :=
  let m := jobMask s.pkgBytes
  let failed := fun k => s.fbit (f_cruPllStatus_failed k)
  if failed 5 || (List.range 4).any fun d => failed d && (bit m (2 * d) || bit m (2 * d + 1)) then some 0x35
  else if s.fget f_rasFailed_cores &&& m ≠ 0 then some 0x36
  else none

/-- The cores of the resident package's jobs that are off (R571). -/
def State.coresOff (s : State) : List Nat := (maskCores (jobMask s.pkgBytes)).filter fun c => !s.fbit (f_pgCorePwr_on c)

/-- Start the first pending job (R514), or the next after it where it cannot start; `fuel` bounds the jobs. -/
def State.startFirst (s : State) (peers : List Nat) : Nat → State
  | 0 => s
  | fuel + 1 => match s.nextJob with
    | none => s
    | some j =>
      -- a core that is off is asked on, and the job starts once it is
      if !s.coresOff.isEmpty then s.coresOff.foldl (fun (s : State) c => s.fput (f_pgCorePwr_off_req c) 0) s
      else match s.openJob j with
      | (none, s1, j1) => s1.switchIn j1 peers
      | (some st, s1, j1) => (s1.endJob j1 st).startFirst peers fuel

/-- Start a job when none runs (R514); once a core of the package or the memory PLL has failed, every pending job completes
with the status of that instead. While CLOSE waits, none starts (R497). -/
def State.startNext (s : State) (peers : List Nat) : State :=
  if s.running.isSome || (s.bgTaken 0x02).isSome then s
  else match s.deadCores with
    | none => s.startFirst peers (s.fw.jobs.length + 1)
    | some st => (s.fw.jobs.filter fun k => k.phase == .pending).foldl (fun (s : State) k => s.endJob k st) s

/-- The status of a condition (R501, R597). -/
def JobCond.status : JobCond → Nat
  | .clockFailed => 0x35 | .unitFailed => 0x36 | .hardwareLimit => 0x34 | .uncorrectable => 0x30 | .residue => 0x31
  | .streamAbandoned => 0x33 | .transferFailed => 0x32 | .ringFenced => 0x41 | .ringReconfigured => 0x40
  | .ringFault => 0x42 | .instructionFault => 0x23 | .waitTimeout => 0x24 | .scheduleFault => 0x22

/-- R597's order of precedence. -/
def condOrder : List JobCond :=
  [.clockFailed, .unitFailed, .hardwareLimit, .uncorrectable, .residue, .streamAbandoned, .transferFailed, .ringFenced,
   .ringReconfigured, .ringFault, .instructionFault, .waitTimeout, .scheduleFault]

/-- The status with which the conditions that hold end a job. -/
def State.condStatus (s : State) : Option Nat := (condOrder.find? fun c => s.conds.contains c).map (·.status)

end Sys2Proof.Machine
end

