-- ==== Sys2Proof/Machine/Journal.lean ====
section
/-! DEFINITION. The journal on the NOR flash (R605 to R611): sets and their headers, records, the scan, appends and their
order of service, compaction; and the flushes of the sediment record (R604). -/

namespace Sys2Proof.Machine

/-! The flash. -/

/-- Erased flash reads all ones. -/
def erased (_ : Nat) : Byte := 0xFF

def State.jrByte (s : State) (a : Nat) : Byte := mapGet erased s.jr.flash a

def State.jrBytes (s : State) (a n : Nat) : List Byte := (List.range n).map fun i => s.jrByte (a + i)

/-- Program bytes of the flash. -/
def State.jrPut (s : State) (a : Nat) : List Byte → State
  | [] => s
  | b :: t => ({ s with jr := { s.jr with flash := mapSet erased s.jr.flash a b } }).jrPut (a + 1) t

/-- Erase a range of the flash. -/
def State.jrErase (s : State) (a n : Nat) : State :=
  { s with jr := { s.jr with flash := mapDrop (fun k => a ≤ k && k < a + n) s.jr.flash } }

def setBytes4M : Nat := 0x400000

/-! Set headers (R606). -/

/-- The header of a set. -/
def setHeader (gen : Nat) (committed : Bool) : List Byte :=
  let a := leBytes 4 0x4C4E524A ++ leBytes 2 1 ++ zeros 1
  let g := leBytes 4 gen
  a ++ [if committed then 0 else 0xFF] ++ g ++ leBytes 4 (crc32c (a ++ g)) ++ zeros 48

/-- The generation of a set whose header qualifies. -/
def State.setGen (s : State) (set : Nat) : Option Nat :=
  let h := s.jrBytes (set * setBytes4M) 16
  if h.getD 7 0xFF = 0 ∧ crc32c (h.take 7 ++ (h.drop 8).take 4) = fieldAt h 12 4 then some (fieldAt h 8 4) else none

/-- Whether a generation is later than another (R606). -/
def laterGen (a b : Nat) : Bool :=
  a != 0 && (b == 0 || decide (1 ≤ (a + 2 ^ 32 - b) % 2 ^ 32) && decide ((a + 2 ^ 32 - b) % 2 ^ 32 < 2 ^ 31))

/-- The active set with its generation. -/
def State.activeSet (s : State) : Option (Nat × Nat) :=
  match s.setGen 0, s.setGen 1 with
  | some a, some b => if laterGen b a then some (1, b) else some (0, a)
  | some a, none => some (0, a)
  | none, some b => some (1, b)
  | none, none => none

/-! Records (R607, R608). -/

/-- A record as the scan takes it. -/
structure JrRec where
  seq : Nat
  type : Nat
  writer : Nat
  payload : List Byte
  deriving DecidableEq, Repr

/-- The CRC of a record. -/
def recordCrc (seq type writer : Nat) (p : List Byte) : Nat :=
  crc32c (leBytes 8 seq ++ leBytes 2 type ++ leBytes 1 writer ++ leBytes 4 p.length ++ p)

/-- A record's bytes. -/
def recordBytes (seq type writer : Nat) (p : List Byte) (commit : Byte) : List Byte :=
  leBytes 8 seq ++ leBytes 2 type ++ leBytes 1 writer ++ [commit] ++ leBytes 4 p.length ++ leBytes 4 (recordCrc seq type writer p) ++
    zeros 4 ++ p ++ zeros (8 * ceilDiv p.length 8 - p.length)

/-- Where a record may start at or after an offset: never within 24 B of the end of a page. -/
def recordStart (off : Nat) : Nat := if 256 - off % 256 < 24 then (off / 256 + 1) * 256 else off

/-- The valid record at an offset of a set, expected to carry a sequence number (the first of a set may carry any). -/
def State.recordAt (s : State) (base off : Nat) (expected : Option Nat) : Option JrRec :=
  let h := s.jrBytes (base + off) 24
  let n := fieldAt h 12 4
  let r : JrRec := ⟨fieldAt h 0 8, fieldAt h 8 2, fieldAt h 10 1, if n ≤ 65536 then s.jrBytes (base + off + 24) n else []⟩
  let ok := match expected with | some e => r.seq == e | none => true
  if ok && h.getD 11 0xFF == 0 && decide (n ≤ 65536) && recordCrc r.seq r.type r.writer r.payload == fieldAt h 16 4 then some r else none

/-- What a scan has found. -/
structure JrScan where
  recs : List JrRec
  wp : Nat
  next : Option Nat
  skipped : Nat

/-- The scan of a set from an offset (R608). -/
def State.jrScan (s : State) (base : Nat) : Nat → Nat → JrScan → JrScan
  | 0, _, x => x
  | fuel + 1, off, x =>
    if setBytes4M ≤ off then x
    else if (s.jrBytes (base + off) 8).all (· == 0xFF) then
      if off % 256 = 0 then x else s.jrScan base fuel ((off / 256 + 1) * 256) x
    else match s.recordAt base off x.next with
      | some r =>
        let e := off + 24 + 8 * ceilDiv r.payload.length 8
        s.jrScan base fuel e ⟨x.recs ++ [r], e, some (r.seq + 1), x.skipped⟩
      | none =>
        let e := (off / 4096 + 1) * 4096
        s.jrScan base fuel e { x with wp := e, skipped := x.skipped + 1 }

/-- The scan of a whole set. -/
def State.scanSet (s : State) (set : Nat) : JrScan := s.jrScan (set * setBytes4M) 0x80000 0x40 ⟨[], 0x40, none, 0⟩

/-- The active set's number and its valid records. -/
def State.jrSet (s : State) : Nat := s.fget f_jrStatus_active_set
def State.jrRecs (s : State) : List JrRec := (s.scanSet s.jrSet).recs

/-- JR_STATUS.fill_pct; where the percentage is not whole its rounding is open (log entry 2). -/
def State.jrFill (s : State) : State :=
  let x := 100 * s.jr.wp
  if x % setBytes4M = 0 then s.fput f_jrStatus_fill_pct (x / setBytes4M)
  else
    let p := s.draw
    p.2.fput f_jrStatus_fill_pct (x / setBytes4M + p.1 % 2)

/-! Appends (R609, R611). -/

/-- Whether a writer may append a type (R609). -/
def typeAllowed (writer type : Nat) : Bool :=
  match writer with
  | 0 => type == 0x10
  | 1 => type == 0x40 || type == 0x41 || type == 0x43
  | _ => decide (0x20 ≤ type) && decide (type ≤ 0x2F)

/-- The waiting writer served next (R611). -/
def jrNext (q : List JrAppend) : Option JrAppend :=
  match q.find? (·.urgent) with
  | some a => some a
  | none => match q.find? fun a => a.writer == 1 with
    | some a => some a
    | none => match q.find? fun a => a.writer == 0 with
      | some a => some a
      | none => q.head?

/-- Serve the next waiting writer, once the journal is mounted and no record is in progress: header, payload and padding
are written with the commit byte erased, and the sector after them is kept erased (R607, R608). -/
def State.jrServe (s : State) : State :=
  if s.jr.writing.isSome ∨ s.fget f_jrStatus_state ≠ 1 then s
  else match jrNext s.jr.queue with
    | none => s
    | some a =>
      let n := 24 + 8 * ceilDiv a.payload.length 8
      let o := recordStart s.jr.wp
      let off := if a.urgent ∧ 256 < o % 256 + n then (o / 256 + 1) * 256 else o
      -- the sectors that the record enters, and the one after them, stand erased
      let k := s.jr.wp / 4096 + 1
      let s0 := s.jrErase (s.jrSet * setBytes4M + 4096 * k) (4096 * (min (setBytes4M / 4096) ((off + n) / 4096 + 2) - k))
      let s1 := s0.jrPut (s.jrSet * setBytes4M + off) (recordBytes s.jr.seq a.type a.writer a.payload 0xFF)
      ({ s1 with jr := { s1.jr with queue := s1.jr.queue.erase a, writing := some (off, a) } }).fput f_jrStatus_state 2

/-- Append a record: refused for a type outside its writer's rows, and for the MP within 64 KiB of the set's end (R609). -/
def State.jrAppend (s : State) (a : JrAppend) : State :=
  if !typeAllowed a.writer a.type || a.writer == 2 && decide (setBytes4M - 0x10000 ≤ s.jr.wp) then s.flag f_jrEvent_write_refused
  else ({ s with jr := { s.jr with queue := s.jr.queue ++ [a] } }).jrServe

/-! Compaction (R610). -/

/-- The newest sediment records that hold at least 16,384 entries together, newest first. -/
def keepSediment : List JrRec → Nat → List JrRec
  | [], _ => []
  | r :: t, n => if 16384 ≤ n then [] else r :: keepSediment t (n + fieldAt r.payload 8 2)

/-- A KEY_PUT counts when a later KEY_COMMIT names its sequence number, kind, index and generation (R546). -/
def commitOf (l : List JrRec) (p : JrRec) : Option JrRec :=
  l.find? fun c => c.type == 0x41 && decide (p.seq < c.seq) && fieldAt c.payload 0 8 == p.seq && fieldAt c.payload 8 1 == fieldAt p.payload 0 1 &&
    fieldAt c.payload 9 1 == fieldAt p.payload 1 1 && fieldAt c.payload 12 4 == fieldAt p.payload 4 4

/-- The records that compaction keeps (R546, R609). -/
def keptRecords (l : List JrRec) : List JrRec :=
  let sed := keepSediment (l.reverse.filter fun r => r.type == 0x10) 0
  let puts := l.filter fun r => r.type == 0x40 && (commitOf l r).isSome
  let best := puts.filter fun p => !puts.any fun q =>
    fieldAt q.payload 0 2 == fieldAt p.payload 0 2 && decide (p.seq < q.seq)
  let commits := best.filterMap (commitOf l)
  l.filter fun r =>
    if r.type = 0x10 then sed.contains r
    else if 0x20 ≤ r.type ∧ r.type ≤ 0x2F then
      !l.any fun q => q.type == r.type && fieldAt q.payload 0 2 == fieldAt r.payload 0 2 && decide (r.seq < q.seq)
    else if r.type = 0x40 then best.contains r
    else if r.type = 0x41 then commits.contains r
    else true

/-- Copy the kept records into the other set, whose header then commits; the old set is erased. The copying is one step of
the model (log entry 22). -/
def State.compact (s : State) : State :=
  let old := s.jrSet
  let new := 1 - old
  let gen := if s.jr.gen = 0xFFFFFFFF then 1 else s.jr.gen + 1
  let kept := keptRecords s.jrRecs
  let base := new * setBytes4M
  let s1 := (s.jrErase base setBytes4M).jrPut base (setHeader gen false)
  let x := kept.foldl (fun (x : State × Nat) r =>
    let o := recordStart x.2
    (x.1.jrPut (base + o) (recordBytes r.seq r.type r.writer r.payload 0), o + 24 + 8 * ceilDiv r.payload.length 8)) (s1, 0x40)
  let s2 := (x.1.jrPut (base + 7) [0]).jrErase (old * setBytes4M) setBytes4M
  (({ s2 with jr := { s2.jr with gen := gen, wp := x.2 } }).fput f_jrStatus_active_set new).jrFill

/-- Compact when the write pointer has passed 75 % of the set. -/
def State.compactCheck (s : State) : State := if 0x300000 < s.jr.wp then s.compact else s

/-! Mounting and committing. -/

/-- Mount the journal (R606, R608). -/
def State.jrMount (s : State) : State :=
  match s.activeSet with
  | none =>
    let s1 := ((s.jrErase 0 (2 * setBytes4M)).jrPut 0 (setHeader 1 false)).jrPut 7 [0]
    let s2 := { s1 with jr := { s1.jr with gen := 1, wp := 0x40, seq := 1, writing := none } }
    (((s2.fput f_jrStatus_active_set 0).fput f_jrStatus_skipped 0).fput f_jrStatus_state 1).jrFill.jrServe
  | some (set, gen) =>
    let x := s.scanSet set
    let s1 := { s with jr := { s.jr with gen := gen, wp := x.wp, seq := x.next.getD 1, writing := none } }
    let s2 := ((s1.fput f_jrStatus_active_set set).fput f_jrStatus_skipped (min x.skipped 0xFFFF)).fput f_jrStatus_state 1
    let s3 := if x.skipped = 0 then s2 else s2.flag f_jrEvent_invalid_record
    s3.jrFill.compactCheck.jrServe

/-- The record in progress becomes durable: its append, and its sequence number. -/
def State.jrCommit (s : State) : Option (JrAppend × Nat × State) :=
  match s.jr.writing with
  | none => none
  | some (off, a) =>
    let seq := s.jr.seq
    let s1 := s.jrPut (s.jrSet * setBytes4M + off + 11) [0]
    let s2 := { s1 with jr := { s1.jr with wp := off + 24 + 8 * ceilDiv a.payload.length 8, seq := seq + 1, writing := none } }
    let s3 := match a.flushed with
      | some n => s2.fput64 (f_aocSed_value_lo 1) (max n (s2.fget64 (f_aocSed_value_lo 1)))
      | none => s2
    some (a, seq, (s3.fput f_jrStatus_state 1).jrFill.compactCheck)

/-! Flushes of the sediment record (R604). -/

def State.sedCount (s : State) : Nat := s.fget64 (f_aocSed_value_lo 0)

/-- The number after the last entry that is durable or on its way. -/
def State.sedPlanned (s : State) : Nat :=
  let ways := s.jr.queue ++ (match s.jr.writing with | some w => [w.2] | none => [])
  (ways.filterMap (·.flushed)).foldl max (s.fget64 (f_aocSed_value_lo 1))

/-- A SEDIMENT record's payload: entries `first` to `first + n - 1`; flag 0 power fail, flag 1 reset (R609). -/
def State.sedPayload (s : State) (first n flags : Nat) : List Byte :=
  leBytes 8 first ++ leBytes 2 n ++ leBytes 2 flags ++ zeros 4 ++
    (List.range n).flatMap fun i => leBytes 16 (mapGet (fun _ => (0 : BitVec 128)) s.sediment ((first + i) % 4096)).toNat

/-- Append records of at most 256 entries from entry `first` up to entry `upto`; `fuel` bounds their number. -/
def State.flushFrom (s : State) (flags upto : Nat) : Nat → Nat → State
  | 0, _ => s
  | fuel + 1, first =>
    if upto ≤ first then s
    else
      let n := min 256 (upto - first)
      (s.jrAppend ⟨0, false, 0x10, s.sedPayload first n flags, some (first + n)⟩).flushFrom flags upto fuel (first + n)

/-- Flush every unflushed entry: a trickle flush (flags 0) or a reset flush (flags 2). -/
def State.flushAll (s : State) (flags : Nat) : State := s.flushFrom flags s.sedCount 16 s.sedPlanned

/-- The power-fail flush: the newest 13 unflushed entries at most, in one record; a trickle or reset flush in progress is
abandoned (R604, R611). -/
def State.powerFlush (s : State) : State :=
  let s1 := match s.jr.writing with
    | some (off, a) =>
      if a.writer = 0 ∧ a.urgent = false then
        let e := off + 24 + 8 * ceilDiv a.payload.length 8
        ({ s with jr := { s.jr with writing := none, wp := ceilDiv e 256 * 256 } }).fput f_jrStatus_state 1
      else s
    | none => s
  let c := s1.sedCount
  let n := min 13 (c - s1.fget64 (f_aocSed_value_lo 1))
  if n = 0 then s1 else s1.jrAppend ⟨0, true, 0x10, s1.sedPayload (c - n) n 1, some c⟩

end Sys2Proof.Machine
end

