-- ==== Sys2Proof/Machine/Keys.lean ====
section
/-! DEFINITION. The security controller's keys: their derivation (R537), the key records of the journal and their replay
(R545, R546), the slots' marks (R543, R554), and zeroisation (R612). -/

namespace Sys2Proof.Machine

/-- The life-cycle fuse field as it stands (R527). -/
def State.lifeFuse (s : State) : Nat := (Config.lifeCycle ||| s.sc.lifeBlown) % 256

/-- The life-cycle state: 0 BLANK, 1 DEV, 2 PROD, 3 RMA, 4 SCRAPPED. -/
def State.lifeState (s : State) : Nat := lifeCode s.lifeFuse

/-- The anti-rollback counter as fused and blown (R536). -/
def State.fuseCount (s : State) : Nat := max (min Config.fuseCounter 64) s.sc.svBlown

/-- The UDS as the SC can read it (R527): no UDS is fused in BLANK, and it is retired in RMA and SCRAPPED. -/
def State.uds (s : State) : List Byte :=
  if s.sc.udsRetired ∨ s.lifeState = 0 ∨ 3 ≤ s.lifeState then zeros 48 else (List.range 48).map Config.deviceSecret

/-- CDI_L0 (R537). -/
def State.deriveCdi0 (s : State) : List Byte :=
  Config.hmac384 s.uds (Config.sha384 (Config.romDigest ++ leBytes 1 s.lifeFuse))

/-- A character string as bytes. -/
def text (l : List Nat) : List Byte := l.map (BitVec.ofNat 8)

/-- "DeviceID", "Alias", "journal-kek", "replace". -/
def txtDeviceId : List Byte := text [0x44, 0x65, 0x76, 0x69, 0x63, 0x65, 0x49, 0x44]
def txtAlias : List Byte := text [0x41, 0x6C, 0x69, 0x61, 0x73]
def txtKek : List Byte := text [0x6A, 0x6F, 0x75, 0x72, 0x6E, 0x61, 0x6C, 0x2D, 0x6B, 0x65, 0x6B]
def txtReplace : List Byte := text [0x72, 0x65, 0x70, 0x6C, 0x61, 0x63, 0x65]

/-- The private keys of the DeviceID and of the Alias (R537). -/
def State.deviceIdKey (s : State) : List Byte := Config.hmac384 s.sc.cdi0 txtDeviceId
def State.aliasKey (s : State) : List Byte := Config.hmac384 s.sc.cdi1 txtAlias

/-- The journal KEK (R537). -/
def State.kek (s : State) : List Byte := (Config.hmac384 s.sc.cdi0 (txtKek ++ leBytes 1 s.fuseCount)).take 32

/-- The flags byte of R537. -/
def State.flagsByte (s : State) : Nat :=
  b2n (s.fbit f_hiBoot_unattested) + 2 * b2n (s.fbit f_scStatus_debug_unlocked) + 4 * b2n (s.fbit f_mcCtrl_inline_ecc)

/-! Key records (R545, R546). -/

/-- Kind, index, op and generation of a KEY_PUT: the additional data of its wrapping. -/
def putAad (kind index op gen : Nat) : List Byte := leBytes 1 kind ++ leBytes 1 index ++ leBytes 1 op ++ leBytes 4 gen

/-- The payload of a KEY_PUT that sets a key, wrapped under the KEK. -/
def keyPut (kek : List Byte) (kind index gen : Nat) (nonce key : List Byte) : List Byte :=
  leBytes 1 kind ++ leBytes 1 index ++ leBytes 1 0 ++ zeros 1 ++ leBytes 4 gen ++ nonce ++
    Config.gcmSeal kek nonce (putAad kind index 0 gen) key

/-- The payload of a KEY_PUT that erases a key. -/
def keyErase (kind index gen : Nat) : List Byte :=
  leBytes 1 kind ++ leBytes 1 index ++ leBytes 1 1 ++ zeros 1 ++ leBytes 4 gen ++ zeros 60

/-- The payload of a KEY_COMMIT. -/
def keyCommit (seq kind index gen : Nat) : List Byte :=
  leBytes 8 seq ++ leBytes 1 kind ++ leBytes 1 index ++ zeros 2 ++ leBytes 4 gen

/-- The key a KEY_PUT carries: none where its tag fails, an empty list for an erase. -/
def State.putKey (s : State) (p : JrRec) : Option (List Byte) :=
  let d := p.payload
  if fieldAt d 2 1 = 1 then some []
  else Config.gcmOpen s.kek ((d.drop 8).take 12) (putAad (fieldAt d 0 1) (fieldAt d 1 1) 0 (fieldAt d 4 4)) ((d.drop 20).take 48)

/-- The winner of a kind and index (R546): its generation and key, empty for an erase. -/
def State.keyWinner (s : State) (kind index : Nat) : Option (Nat × List Byte) :=
  let l := s.jrRecs
  (l.filter fun p => p.type == 0x40 && fieldAt p.payload 0 1 == kind && fieldAt p.payload 1 1 == index && (commitOf l p).isSome).foldl
    (fun (o : Option (Nat × List Byte)) p => match s.putKey p with
      | none => o
      | some k =>
        let g := fieldAt p.payload 4 4
        match o with
        | some w => if w.1 < g then some (g, k) else some w
        | none => some (g, k)) none

/-- The marks of the slots (R543, R554). -/
def State.markSealed (s : State) : State :=
  (List.range 16).foldl (fun s i =>
    let p := (s.psk i).isSome && i != 0
    (s.fput (f_scSlot_psk_present i) (b2n p)).fput (f_scSlot_sealed i) (b2n (p && !s.keysLocked))) s

/-- Install a party key, or its erasure. -/
def State.installPsk (s : State) (slot gen : Nat) (key : List Byte) : State :=
  let v := if key.isEmpty then none else some (key, gen)
  ({ s with sc := { s.sc with psk := mapSet (fun _ => (none : Option (List Byte × Nat))) s.sc.psk slot v } }).markSealed

/-- Replay the key records (R546). The ring identifier has no place in a record: what identifier a replayed ring key has is
open (log entry 2). Locked keys are not read (R535). -/
def State.keyReplay (s : State) : State :=
  if s.keysLocked then s.markSealed
  else
    let s1 := ((List.range 15).map (· + 1)).foldl (fun s i => match s.keyWinner 1 i with
      | some w => s.installPsk i w.1 w.2
      | none => s.installPsk i 0 []) s
    let s2 := match s1.keyWinner 2 0 with
      | some w =>
        let p := s1.draw
        if w.2.isEmpty then { s1 with sc := { s1.sc with ringKey := none } }
        else { p.2 with sc := { p.2.sc with ringKey := some (w.2, leBytes 8 p.1, w.1) } }
      | none => { s1 with sc := { s1.sc with ringKey := none } }
    s2.fput f_scStatus_keys_replayed 1

/-! Slot keys. -/

/-- Fresh or cleared keys in every slot: whatever LPDDR held reads as unrelated data (R541, R639). -/
def State.newSlotKeys (s : State) : State :=
  { s with
    mc := { s.mc with era := s.mc.era + 1 },
    lineTag := s.lineTag.map fun p => (p.1, if p.2 = packageTag then packageTag + 1 else p.2) }

/-- A fresh key in one slot (R529, R544). -/
def State.renewSlotKey (s : State) (slot : Nat) : State :=
  { s with
    slotGen := mapSet (fun _ => 0) s.slotGen slot (mapGet (fun _ => 0) s.slotGen slot + 1),
    sc := { s.sc with counters := mapSet (fun _ => (none : Option Nat)) s.sc.counters slot none } }

/-- Key zeroisation (R612): every LPDDR key slot and every volatile key of the SC. -/
def State.zeroise (s : State) : State :=
  let s1 := s.newSlotKeys
  ({ s1 with
    sc := { s1.sc with psk := [], ringKey := none, cdi0 := [], cdi1 := [], challenge := [], sealedKey := [], sealedEnts := [], sessions := [],
                       updates := [], counters := [] },
    ring := { s1.ring with key := [], nextKey := none } }).fput f_scStatus_tamper_seen 1

/-! Updates (R545, R547). -/

/-- Whether a key request's conditions hold (R544). -/
def State.updateOk (s : State) (u : KeyUpdate) : Bool :=
  !s.keysLocked && (u.kind != 1 || (decide (1 ≤ u.index) && decide (u.index ≤ 15))) && (u.erase || u.key.length == 32) &&
    (if u.kind = 1 && !u.erase then
      match s.psk u.index with
      | some old => u.proof == Config.hmac384 old (txtReplace ++ leBytes 1 u.index ++ Config.sha384 u.key)
      | none => true
     else true)

/-- SPDM response codes (DSP0274; log entry 23). -/
def spdmError : Nat := 0x7F
def spdmVendor : Nat := 0x7E
def errUnexpected : List Byte := leBytes 1 0x04 ++ zeros 1

/-- Begin the first key request that waits: refused where its conditions fail, else its KEY_PUT is appended; `fuel` bounds
the requests refused. -/
def State.startUpdate (s : State) : Nat → State
  | 0 => s
  | fuel + 1 => match s.sc.updates with
    | [] => s
    | u :: rest =>
      if u.put.isSome then s
      else if !s.updateOk u then
        (({ s with sc := { s.sc with updates := rest } }).emit (.spdm spdmError errUnexpected)).startUpdate fuel
      else
        let gen := (match s.keyWinner u.kind u.index with | some w => w.1 | none => 0) + 1
        let nonce := (List.range 12).map fun i => Config.drbg (s.fresh + i)
        let p := if u.erase then keyErase u.kind u.index gen else keyPut s.kek u.kind u.index gen nonce u.key
        let s1 := { s with fresh := s.fresh + 12, sc := { s.sc with updates := { u with put := some (0, gen) } :: rest } }
        s1.jrAppend ⟨1, false, 0x40, p, none⟩

/-- What the SC does when a record of its own is durable (R545): after the KEY_PUT it appends the KEY_COMMIT; after that it
installs the new state and answers. -/
def State.keyDurable (s : State) (a : JrAppend) (seq : Nat) : State :=
  match s.sc.updates with
  | [] => s
  | u :: rest => match u.put with
    | none => s
    | some (_, gen) =>
      if a.type = 0x40 then
        let s1 := { s with sc := { s.sc with updates := { u with put := some (seq, gen) } :: rest } }
        s1.jrAppend ⟨1, false, 0x41, keyCommit seq u.kind u.index gen, none⟩
      else if a.type = 0x41 then
        let s1 := { s with sc := { s.sc with updates := rest } }
        let s2 := if u.kind = 1 then s1.installPsk u.index gen u.key
          else { s1 with sc := { s1.sc with ringKey := if u.erase then none else some (u.key, u.ringId, gen) } }
        (s2.emit (.spdm spdmVendor [])).startUpdate s2.sc.updates.length
      else s

/-- A key request arrives. -/
def State.keyRequest (s : State) (u : KeyUpdate) : State :=
  let s1 := { s with sc := { s.sc with updates := s.sc.updates ++ [u] } }
  if s.sc.updates.isEmpty then s1.startUpdate 1 else s1

end Sys2Proof.Machine
end

