-- ==== Sys2Proof/Machine/Mc.lean ====
section
/-! DEFINITION. The LPDDR5X memory controller (R438 to R473): port requests, refresh, self-refresh, targets and credits,
and the training helpers. -/

namespace Sys2Proof.Machine

def State.setMc (s : State) (m : McRt) : State := { s with mc := m }

/-- The controller serves: MC_STATUS.state in service, and its clock runs (R565, R567). -/
def State.mcUp (s : State) : Bool := s.fget f_mcStatus_state == 2 && !s.stopped 5

/-! Targets (R445 to R447), in tenths of a nanosecond. -/

/-- L_0 and t_w of a rate code (R445). -/
def mcIdle (rate : Nat) : Nat := match rate with | 0 => 1400 | 1 => 1100 | 2 => 1020 | _ => 950
def mcService (rate : Nat) : Nat := match rate with | 0 => 120 | 1 => 80 | 2 => 68 | _ => 60

/-- The sum of the ports' credits. -/
def State.mcCredits (s : State) : Nat := (List.range 10).foldl (fun a p => a + s.fget (f_mcPort_credits p)) 0

/-- U of R445. -/
def State.mcUrgent (s : State) : Nat :=
  mcService (s.fget f_mcStatus_rate) * (if s.fbit f_mcCtrl_inline_ecc then 2 else 1) * s.mcCredits

/-- L_0 + U. -/
def State.mcFloor (s : State) : Nat := mcIdle (s.fget f_mcStatus_rate) + s.mcUrgent

/-- T_p as MC_PORT sets it. -/
def State.mcTarget (s : State) (p : Nat) : Nat := 40 * s.fget (f_mcPort_target p)

/-- U in whole nanoseconds as MC_STATUS reports it; the spec does not say how a fraction is rounded (log entry 13). -/
def urgentNs (u : Nat) : Nat := u / 10 + if u % 10 = 0 then 0 else Config.freeValue u % 2

/-- target_raised reads 1 while some port's T* lies above its T. -/
def State.mcRaised (s : State) : State :=
  s.fput f_mcStatus_target_raised
    (b2n ((List.range 10).any fun p => s.mcTarget p < mapGet (fun _ => 0) s.mc.eff p))

/-! Requests (R443 to R445, R448). -/

/-- A port's accepted requests on a channel. -/
def State.mcOutstanding (s : State) (port chan : Nat) : Nat :=
  (s.mc.reqs.filter fun r => r.port == port && r.chan == chan).length

/-- Accept a request: a write is visible at once; its words not selected are merged (R444, R541). -/
def State.mcAccept (s : State) (r : McReq) : State :=
  let eff := mapGet (fun _ => 0) s.mc.eff r.port
  let r' := { r with deadline := 10 * (s.devTime.toNat : Int) + eff - mcIdle (s.fget f_mcStatus_rate) }
  let s1 := s.setMc { s.mc with reqs := s.mc.reqs ++ [r'], powerDown := setBits s.mc.powerDown r.chan r.chan 0 }
  if !r.write then s1
  else (List.range 8).foldl (fun s w =>
    if bit r.mask w then s.lpStoreLine (s.keyTag r.slot) (r.addr + 8 * w) ((r.data ++ zeros 64).drop (8 * w) |>.take 8) else s) s1

/-- Accept what waits at the ports, oldest first, where the port's credits on the channel allow (R445). -/
def State.mcPull (s : State) : State :=
  if !s.mcUp then s
  else s.mc.held.foldl (fun s r =>
    if s.mcOutstanding r.port r.chan < s.fget (f_mcPort_credits r.port) then
      (s.setMc { s.mc with held := s.mc.held.erase r }).mcAccept r
    else s) s

/-- MC_REQUEST (R445): a port asks for one line; beyond its credits, or out of service, the request waits at the port. -/
def execMcRequest (port : Fin 10) (addr : Nat) (slot : Fin 16) (write : Bool) (mask : BitVec 8) (data : List Byte) (s : State) :
    Host.Outcome State Fault Refusal :=
  let a := addr / 64 * 64
  if a < lpBase ∨ lpBase + s.lpCapacity ≤ a then .next (s.emit (.refusedAccess a))
  else
    let r : McReq := ⟨port.val, (s.lpPlace a).1, a, slot.val, write, mask.toNat, data, 0⟩
    .next (s.setMc { s.mc with held := s.mc.held ++ [r] }).mcPull

/-- The data of an accepted read, delivered at its port (R453, R454): `link` corrections of the link code, and whether an
error of the link could not be corrected. -/
def State.mcDeliver (s : State) (r : McReq) (link : Nat) (linkBad poison : Bool) : State :=
  let s1 := if link = 0 then s
    else ((s.flag f_mcEvent_link_corrected).fsat f_mcCorrCount_link link).report 5 r.chan 0x0001 link
  let s2 := if !linkBad then s1
    else
      let t := s1.flag f_mcEvent_uncorrectable
      let pl := t.lpPlace r.addr
      let t := if t.fbit f_mcErrLog_valid || r.write then t else
        let t := ((t.fput f_mcErrLog_channel pl.1).fput f_mcErrLog_bank pl.2.1).fput f_mcErrLog_row pl.2.2.1
        let t := ((t.fput f_mcErrLog_link 1).fput f_mcErrLog_valid 1).fput f_mcErrLog_port r.port
        ((t.fput f_mcErrLog_line (pl.2.2.2 / 64)).fput f_mcErrLog_word 0).fput f_mcErrLog_syndrome 0
      t.report 5 r.chan 0x0002 0
  if r.write then s2
  else
    let d := s2.lpRead r.slot r.addr 64 r.port
    d.2.2.setMc { d.2.2.mc with delivered := mapSet (fun _ => ([], false)) d.2.2.mc.delivered r.port (d.1, d.2.1 || linkBad || poison) }

/-- A channel without an accepted request issues every refresh it owes (R450). -/
def State.mcRefresh (s : State) (chan : Nat) : State :=
  let owed := mapGet (fun _ => 0) s.mc.owed chan
  let busy := s.mc.reqs.any fun r => r.chan == chan
  if busy && decide (owed < min 8 (s.fget f_mcRefresh_postpone)) then s
  else s.setMc { s.mc with owed := mapSet (fun _ => 0) s.mc.owed chan 0 }

/-- MC_REQUEST_COMPLETE (R448): the accepted request of index `idx` completes `lat` nanoseconds after its acceptance, in the
order its port issued requests to that line. -/
def execMcRequestComplete (idx lat link : Nat) (linkBad : Bool) (s : State) : Host.Outcome State Fault Refusal :=
  match s.mc.reqs[idx]? with
  | none => .next s
  | some r =>
    let earlier := (s.mc.reqs.take idx).any fun q => q.port == r.port && q.addr == r.addr
    if !s.mcUp || earlier then .next s
    else
      let s1 := s.setMc { s.mc with reqs := s.mc.reqs.eraseIdx idx }
      let s2 := s1.mcDeliver r link linkBad false
      let s3 := if r.write then s2
        else s2.fput (f_mcLatMax_max_ns r.port) (max (s2.fget (f_mcLatMax_max_ns r.port)) (min lat 0xFFFF))
      .next ((s3.mcRefresh r.chan).mcPull)

/-- REFRESH_DUE (R450). -/
def execRefreshDue (chan : Fin 24) (s : State) : Host.Outcome State Fault Refusal :=
  if !s.mcUp then .next s
  else
    let owed := mapGet (fun _ => 0) s.mc.owed chan.val + 1
    .next ((s.setMc { s.mc with owed := mapSet (fun _ => 0) s.mc.owed chan.val owed }).mcRefresh chan.val)

/-- MR4_POLL (R449): the refresh rate of every channel, 0 to 2. -/
def execMr4Poll (rates : List (Fin 3)) (s : State) : Host.Outcome State Fault Refusal :=
  if !s.mcUp then .next s
  else
    let m := (List.range 24).foldl (fun (m : Sparse Nat) c => mapSet (fun _ => 0) m c ((rates[c]?.map (·.val)).getD 0)) s.mc.mr4
    let hot := fun c => mapGet (fun _ => 0) m c == 2
    let s1 := (List.range 24).foldl (fun (s : State) c => s.limitEvent 8 c 977 (hot c)) (s.setMc { s.mc with mr4 := m })
    .next (if (List.range 24).any hot then s1.raise f_mcEvent_dram_hot else s1)

/-- OSCILLATOR_SAMPLE (R458): the drift of a channel against its baseline, and whether it passes the limit; the driver
hears of it as MEMORY_RETRAIN (R502). -/
def execOscillatorSample (chan : Fin 24) (drift : Int) (beyond : Bool) (s : State) : Host.Outcome State Fault Refusal :=
  if !s.mcUp then .next s
  else
    let s1 := s.setMc { s.mc with drift := mapSet (fun _ => 0) s.mc.drift chan.val drift, retrain := s.mc.retrain || beyond }
    .next (if beyond then (s1.raise f_mcEvent_drift_limit).event 0x60 0xFF (leBytes 4 (2 ^ chan.val)) else s1)

/-! Self-refresh (R455 to R457). -/

/-- Enter self-refresh for an actor: accepted requests complete, or in bypass the reads stay held; every owed refresh is
issued (R455, R456). A trigger during training, or before the channels are up, is ignored; one that finds self-refresh
joins it. -/
def State.srEnter (s : State) (actor : Nat) : State :=
  let st := s.fget f_mcStatus_state
  if st = 0 ∨ st = 1 then s
  else
    let s1 := if st = 3 then s
      else
        let done := s.mc.reqs.filter fun r => actor != 2 || r.write
        let s1 := s.setMc { s.mc with reqs := s.mc.reqs.filter (fun r => !(actor != 2 || r.write)), owed := [] }
        let s2 := done.foldl (fun s r => s.mcDeliver r 0 false false) s1
        let s3 := s2.fput f_mcStatus_state 3
        if actor = 2 then (s3.fput f_mcStatus_bypass 1).raise f_mcEvent_bypass_entry else s3
    s1.setMc { s1.mc with causes := if s1.mc.causes.contains actor then s1.mc.causes else s1.mc.causes ++ [actor] }

/-- An actor ends its own entry (R457); an AOC entry ends only at a reset. -/
def State.srExit (s : State) (actor : Nat) : State :=
  let rest := s.mc.causes.filter fun c => c != actor
  let s1 := s.setMc { s.mc with causes := rest }
  if s.fget f_mcStatus_state = 3 ∧ rest = [] ∧ s.mc.causes ≠ [] then
    ((s1.fput f_mcStatus_state 2).fput f_mcStatus_bypass 0).mcPull
  else s1

/-- The memory PLL does not relock: the held reads complete poisoned (R456). -/
def State.mcPoisonHeld (s : State) : State :=
  s.mc.reqs.foldl (fun s r => s.mcDeliver r 0 false true) (s.setMc { s.mc with reqs := [] })

/-- SELF_REFRESH_REQUEST (R455): by the firmware (0, through MC_CTRL.sr_req), the AOC (1) or the memory PLL (2). -/
def execSelfRefreshRequest (actor : Fin 3) (s : State) : Host.Outcome State Fault Refusal :=
  .next ((if actor.val = 0 then s.fput f_mcCtrl_sr_req 1 else s).srEnter actor.val)

/-- SELF_REFRESH_EXIT (R457). -/
def execSelfRefreshExit (actor : Fin 3) (s : State) : Host.Outcome State Fault Refusal :=
  if actor.val = 1 then .next s
  else .next ((if actor.val = 0 then s.fput f_mcCtrl_sr_req 0 else s).srExit actor.val)

/-- POWER_DOWN_IDLE (R457). -/
def execPowerDownIdle (chan : Fin 24) (s : State) : Host.Outcome State Fault Refusal :=
  if !s.mcUp || !s.fbit f_mcCtrl_pd_en || s.mc.reqs.any (fun r => r.chan == chan.val) then .next s
  else .next (s.setMc { s.mc with powerDown := s.mc.powerDown ||| 2 ^ chan.val })

/-! Configuration. -/

/-- A write of MC_CTRL (R461): inline_ecc only while enable is 0; the rise of enable applies R447 and puts the channels in
service; its fall returns them to training. -/
def State.mcCtrlWrite (s : State) (v : Word) : State :=
  let on := s.fbit f_mcCtrl_enable
  let want := bit v.toNat 0
  if want && !on && s.fget f_mcConfig_density == 0 then s.raise f_mcEvent_config_refused
  else
    let inl := if on then s.fget f_mcCtrl_inline_ecc else bits v.toNat 1 1
    let s1 := (s.writeReg f_mcCtrl_enable.off v).fput f_mcCtrl_inline_ecc inl
    let s2 :=
      if want && !on then
        let s2 := (s1.fput f_mcStatus_rate (s1.fget f_mcConfig_rate_target)).fput f_mcStatus_state 2
        let s2 := s2.setMc { s2.mc with
          retrain := false, drift := [], inlineNow := inl == 1,
          era := if s2.mc.inlineNow == (inl == 1) then s2.mc.era else s2.mc.era + 1,
          eff := (List.range 10).foldl (fun (m : Sparse Nat) p => mapSet (fun _ => 0) m p (max (s2.mcTarget p) s2.mcFloor)) [] }
        let s3 := (s2.fput f_mcStatus_u_ns (urgentNs s2.mcUrgent)).mcRaised
        if (List.range 10).any fun p => s3.mcTarget p < s3.mcFloor then s3.raise f_mcEvent_qos_refused else s3
      else if !want && on then s1.fput f_mcStatus_state 1
      else s1
    let s3 := if bit v.toNat 2 then (if s.fbit f_mcCtrl_sr_req then s2 else s2.srEnter 0)
      else if s.fbit f_mcCtrl_sr_req then s2.srExit 0 else s2
    -- stage 4 of R530 ends: the firmware, once trained memory is in service, reads ready (R481)
    let s4 := if want && !on && s3.fbit f_mpStatus_hart0_running && s3.fget f_hiFwStatus_state == 0 then s3.fput f_hiFwStatus_state 1 else s3
    s4.mcPull

/-- MC_ENABLE (R447): a write of MC_CTRL with enable set. -/
def execMcEnable (v : Word) (s : State) : Host.Outcome State Fault Refusal := .next (s.mcCtrlWrite (v ||| 1))

/-- Whether MC_CONFIG takes a set of density codes (R463). -/
def densityOk (d : Nat) : Bool :=
  let codes := (List.range 6).map fun j => bits d (3 * j + 2) (3 * j)
  let nz := codes.filter fun c => c != 0
  nz.isEmpty || (nz.length == 6 && nz.all (fun c => c ≤ 4) && nz.eraseDups.length ≤ 2)

/-- A write of MC_CONFIG (R463); the firmware's first write begins training (R459). -/
def State.mcConfigWrite (s : State) (v : Word) : State :=
  if !densityOk (bits v.toNat 17 0) then s.raise f_mcEvent_config_refused
  else
    let on := s.fbit f_mcCtrl_enable
    let s1 := s.fput f_mcConfig_rate_target (bits v.toNat 19 18)
    if on then s1
    else
      let s2 := s1.fput f_mcConfig_density (bits v.toNat 17 0)
      if s2.fget f_mcStatus_state = 0 then s2.fput f_mcStatus_state 1 else s2

/-- MC_CONFIG_WRITE (R463). -/
def execMcConfigWrite (v : Word) (s : State) : Host.Outcome State Fault Refusal := .next (s.mcConfigWrite v)

/-- A write of MC_PORT_p (R446, R447, R464). -/
def State.mcPortWrite (s : State) (p : Nat) (v : Word) : State :=
  let cr := bits v.toNat 16 12
  let s1 := s.writeReg (f_mcPort_target p).off v
  let on := s.fbit f_mcCtrl_enable
  if cr = 0 ∨ 16 < cr ∨ 64 < s1.mcCredits ∨ (on ∧ (List.range 10).any (fun q => s1.mcTarget q < s1.mcFloor)) then
    s.raise f_mcEvent_qos_refused
  else if !on then s1
  else
    let s2 := s1.setMc { s1.mc with eff := mapSet (fun _ => 0) s1.mc.eff p (s1.mcTarget p) }
    ((s2.fput f_mcStatus_u_ns (urgentNs s2.mcUrgent)).mcRaised).mcPull

/-- MC_PORT_WRITE (R446). -/
def execMcPortWrite (p : Fin 10) (v : Word) (s : State) : Host.Outcome State Fault Refusal := .next (s.mcPortWrite p.val v)

/-- Zero MC_CORR_COUNT and every MC_LAT_MAX (R466). -/
def State.mcCountsClear (s : State) : State :=
  (List.range 10).foldl (fun s p => s.wr (f_mcLatMax_max_ns p).off 0) (s.wr f_mcCorrCount_link.off 0)

/-- MC_COUNTS_CLEAR (R466). -/
def execMcCountsClear (s : State) : Host.Outcome State Fault Refusal := .next s.mcCountsClear

/-! Training (R459, R470). -/

/-- Whether the helpers act: out of service, or while the firmware may retrain and no job runs (R458, R459). -/
def State.trainAllowed (s : State) : Bool := !s.fbit f_mcCtrl_enable || (s.mc.retrain && s.jobCores == 0)

/-- A write of MC_TRAIN_CTRL (R470): mask and op are stored; start runs them, unless an operation runs. -/
def State.trainWrite (s : State) (mask op : Nat) (start : Bool) : State :=
  let s1 := (s.fput f_mcTrainCtrl_channel_mask mask).fput f_mcTrainCtrl_op op
  if !start || s.mc.run.isSome || !s.trainAllowed then s1
  else (s1.fput f_mcTrainCtrl_start 1).setMc { s1.mc with run := some (op, mask) }

/-- WRITE_PATTERN (R470). -/
def execWritePattern (mask : BitVec 24) (s : State) : Host.Outcome State Fault Refusal := .next (s.trainWrite mask.toNat 1 true)
/-- READ_AND_COMPARE (R470). -/
def execReadAndCompare (mask : BitVec 24) (s : State) : Host.Outcome State Fault Refusal := .next (s.trainWrite mask.toNat 2 true)
/-- COMMAND_BUS_COMPARE (R470). -/
def execCommandBusCompare (mask : BitVec 24) (s : State) : Host.Outcome State Fault Refusal := .next (s.trainWrite mask.toNat 3 true)
/-- READ_DQ_CALIBRATION (R470). -/
def execReadDqCalibration (mask : BitVec 24) (s : State) : Host.Outcome State Fault Refusal := .next (s.trainWrite mask.toNat 4 true)
/-- WCK2CK_LEVELING (R470). -/
def execWck2ckLeveling (mask : BitVec 24) (s : State) : Host.Outcome State Fault Refusal := .next (s.trainWrite mask.toNat 5 true)

/-- The lines of a channel's training area now hold the helper's pattern: what ports wrote there is gone (R459). -/
def State.layPattern (s : State) (chan lines : Nat) : State :=
  let inArea := fun (s : State) (line : Nat) =>
    let p := s.lpPlace (64 * line)
    let ca := p.2.2.1 * 2 ^ 15 + bits (p.2.1 ^^^ p.2.2.1 % 16) 3 0 * 2048 + p.2.2.2
    decide (lpBase ≤ 64 * line) && decide (64 * line < lpBase + s.lpCapacity) && p.1 == chan && decide (ca / 64 < lines)
  let entry := (s.fget f_mcTrainPattern_mode, s.rd f_mcTrainPattern_seed.off, lines)
  { s with
    lineTag := mapDrop (inArea s) s.lineTag, mem := mapDrop (fun a => inArea s (a / 64)) s.mem,
    ecc := mapDrop (fun w => inArea s (w / 8)) s.ecc,
    mc := { s.mc with pattern := mapSet (fun _ => (0, 0, 0)) s.mc.pattern chan entry } }

/-- TRAINING_OP_DONE (R470, R473): the mismatches of every lane, 20 for each channel from channel 0; of the selected
channels they go into MC_TRAIN_ERRORS, for op 5 the leveling sample in bit 0. -/
def execTrainingOpDone (errors : List Nat) (s : State) : Host.Outcome State Fault Refusal :=
  match s.mc.run with
  | none => .next s
  | some (op, mask) =>
    let chans := (List.range 24).filter fun c => bit mask c
    let s1 := (s.fput f_mcTrainCtrl_start 0).setMc { s.mc with run := none }
    if op = 1 then .next (chans.foldl (fun s c => s.layPattern c (s.fget f_mcTrainPattern_lines_m1 + 1)) s1)
    else if op = 0 ∨ 5 < op then .next s1
    else
      .next (chans.foldl (fun s c => (List.range 20).foldl (fun s l =>
        let e := errors.getD (20 * c + l) 0
        s.fput (f_mcTrainErrors_errors c l) (if op = 5 then e % 2 else min e 0xFFFF)) s) s1)

end Sys2Proof.Machine
end

