-- ==== Sys2Proof/Machine/JobRows.lean ====
section
/-! DEFINITION. A job's preparation and its boundaries: JOB_PREPARED and JOB_BOUNDARY (R26 to R30, R245, R257, R309, R498,
R512 to R515). -/

namespace Sys2Proof.Machine

/-! Preparation (R512). -/

/-- Whether a range of a host-area or host-window address can hold I/O blocks (R498). -/
def State.ioOk (s : State) (tier3 : Bool) (a n : Nat) : Bool :=
  a % blockBytes == 0 && (if tier3 then decide (hostBase ≤ a) && s.inArea a n
    else match s.host.area with | some (b, k) => decide (b ≤ a) && decide (a + n ≤ b + k) | none => false)

/-- The I/O entries of a job block, or none where one is out of range (R498). -/
def State.parseIo (s : State) (d : List Byte) : Option (List (Nat × List PoolBlock)) :=
  (chunks 16 d).foldl (fun (o : Option (List (Nat × List PoolBlock))) e => o.bind fun l =>
    let first := fieldAt e 0 2
    let n := fieldAt e 2 2
    let t3 := bit (fieldAt e 4 4) 0
    let a := fieldAt e 8 8
    if 255 < first ∨ n = 0 ∨ 256 < first + n ∨ !s.ioOk t3 a (n * blockBytes) then none
    else some (l ++ [(first, (List.range n).map fun i => ⟨if t3 then 3 else 2, a + i * blockBytes⟩)])) (some [])

/-- A sync window of a size below the shared band that no other job holds (R512), clear of the ring sync window. -/
def State.freeWindow (s : State) (n : Nat) : Option Nat :=
  let held := ((s.fw.jobs.filter (·.prepared)).map (·.window)) ++ [s.ringWindow]
  let starts := sortNat (0 :: held.map fun w => w.1 + w.2)
  starts.find? fun b => decide (b + n ≤ 0x7F00) && !held.any fun w => decide (0 < w.2) && decide (b < w.1 + w.2) && decide (w.1 < b + n)

/-- The size of the sync window the region and sync plans name (R131, R512, log entry 15). -/
def State.windowSize (s : State) : Nat :=
  (maskCores (jobMask s.pkgBytes)).foldl (fun m c => max m (fieldAt (s.regionPlan c) 512 4 % 2 ^ 16)) 0

/-- Allocate the class 3 blocks of R315: both generations of the state where it has none, and for an adaptation job the
activation store. -/
def State.adaptBlocks (s : State) (j : Job) (examples : Nat) : Option (List PoolBlock × State) :=
  match adaptSection s.pkgBytes with
  | none => some ([], s)
  | some x =>
    let d := x.data s.pkgBytes
    let gs := List.range (fieldAt d 0 2)
    let gen := gs.foldl (fun a g => a + fieldAt d (0x44 + 32 * g) 4 * (4 + 2 * if fieldAt d (0x42 + 32 * g) 1 = 0 then 4 else 2)) 0
    let n := ceilDiv (gen + fieldAt d 0x14 4) blockBytes
    let m := if j.flagAdapt then ceilDiv (examples * fieldAt d 0x10 4 + 4 * adaptElements d) blockBytes else 0
    let t2 := s.slotSealed j.party
    let need := fun (l : List PoolBlock) => n - l.length
    match s.fw.adapts.find? fun a => a.party == j.party && a.id == j.adapt with
    | none => some ([], s)
    | some a =>
      (s.allocBlocks t2 (need a.live)).bind fun p => (p.2.allocBlocks t2 (need a.work)).bind fun q =>
        (q.2.allocBlocks t2 m).map fun r =>
          let a' := { a with live := a.live ++ p.1, work := a.work ++ q.1 }
          (r.1, { r.2 with fw := { r.2.fw with adapts := r.2.fw.adapts.map fun b => if b.party = a.party ∧ b.id = a.id then a' else b } })

/-- What preparing a job comes to. -/
inductive Prep where
  | ready (s : State) (j : Job)
  | fails (s : State) (j : Job) (status : Nat)
  /-- It cannot be prepared yet (R512). -/
  | later (s : State) (j : Job)

/-- Copy up to `n` spilled frames of a job's sequences back (R262): the copies, what host memory has yet to answer. -/
def State.copiesBack (s : State) (host : List Byte) (hs : List Nat) (done : List KvCopy) : Nat → List KvCopy × State × List Byte
  | 0 => (done, s, host)
  | n + 1 =>
    match hs.findSome? fun h => s.copyBack host h done with
    | none => (done, s, host)
    | some x => x.2.1.copiesBack x.2.2 hs (done ++ [x.1]) n

/-- Give the sequences a job names their frames, and begin the copies of spilled ones (R241, R243, R245, R262, R263): the
copies, or none where a frame is missing. -/
def State.prepareKv (s : State) (j : Job) (x : JobInputs) (host : List Byte) : Option (List KvCopy × List Byte) × State :=
  let s1 := j.handles.foldl (fun s h => match s.seq h with | some q => s.setSeq { q with lastUse := j.number } | none => s) s
  let r := s1.recomputeAll j.handles j.handles
  let g := if r.1 then r.2.growAll j.appends j.handles else r
  if !g.1 then (none, g.2)
  else
    let c := g.2.copiesBack host j.handles [] x.copied
    (some (c.1, c.2.2), c.2.1)

/-- Tokenise the prompts (R384); none where one is too long or its buffer too small. -/
def State.tokenizeAll (s : State) (host : List Byte) (l : List (Nat × Nat × Nat × Nat)) : Option (State × List Byte) :=
  let tk := findSection s.pkgBytes 5 (isTokenizer s.pkgBytes)
  l.foldl (fun (o : Option (State × List Byte)) t => o.bind fun p =>
    let (a, n, out, room) := t
    if 65536 < n ∨ room < 4 * (n + 1) then none
    else
      let text := p.1.areaRead p.2 a n
      let ids := match tk with | some x => tokenize (x.data p.1.pkgBytes) text.1 | none => []
      some (p.1.areaWrite out (ids.flatMap (leBytes 4)), text.2)) (some (s, host))

/-- Whether the step record of an adaptation job gives an example count in its range, no more than the plan allows (R306,
R314). -/
def State.examplesOk (s : State) (record : List Byte) : Bool :=
  let n := fieldAt record 40 2
  record.length == 64 && decide (1 ≤ n) && match adaptSection s.pkgBytes with
    | some x => decide (n ≤ fieldAt (x.data s.pkgBytes) 2 2)
    | none => false

/-- The last of a job's preparations: its prompts, and for a sealed job its envelope first (R384, R548). -/
def State.prepareInputs (s : State) (j : Job) (x : JobInputs) (host block : List Byte) (useSeal : Bool) : Prep :=
  let env := fieldAt block 0x38 8
  let refuse := fun (s : State) (st : Nat) => Prep.fails (s.freeBlocks j.store) j st
  if !useSeal then
    match s.tokenizeAll host x.texts with
    | some t => .ready t.1 j
    | none => refuse s stInvalidField
  else
    let slotOk := fieldAt (s.areaRead host env 0x80).1 4 1 == j.party
    let u := s.unsealEnvelope host env block (j.io.map (·.2))
    if !s.inArea env 0x80 ∨ !slotOk ∨ !u.ok then refuse u.state stSealRejected
    else match u.state.tokenizeAll [] x.texts with
      | some t => .ready t.1 { j with sealedKey := u.key, sealedEnts := u.entries }
      | none => refuse u.state stInvalidField

/-- Prepare a job (R498, R512, R543, R548). The adaptation state of a job is reserved where its commands were not granted
(R18). -/
def State.prepare (s : State) (j : Job) (x : JobInputs) : Prep :=
  let blockAddr := j.taken.field 16 8
  let sealed := s.slotSealed j.party
  let useSeal := j.flagSealed && bit s.host.granted 1
  match s.deadCores with
  | some st => .fails s j st
  | none =>
  if sealed ∧ !useSeal ∨ sealed ∧ 1 < s.pkgRing ∧ !s.fbit f_ciStatus_encrypt_active then .fails s j stSealRejected
  else if !s.inArea blockAddr 256 then .fails s j stInvalidField
  else
    let blk := s.areaRead x.host blockAddr 256
    let b := blk.1
    let nIo := fieldAt b 0x20 2
    let nH := fieldAt b 0x22 2
    let adapt := if bit s.host.granted 3 then fieldAt b 0x24 4 else 0
    let ioA := fieldAt b 0x28 8
    let hA := fieldAt b 0x30 8
    if 256 < nIo ∨ 256 < nH ∨ (nIo ≠ 0 ∧ !s.inArea ioA (16 * nIo)) ∨ (nH ≠ 0 ∧ !s.inArea hA (4 * nH)) then .fails s j stInvalidField
    else
      let ioD := s.areaRead blk.2 ioA (16 * nIo)
      let hD := s.areaRead ioD.2 hA (4 * nH)
      let hs := (chunks 4 hD.1).map leNat
      let state := s.fw.adapts.find? fun a => a.party == j.party && a.id == adapt
      -- a sequence closed after the job was submitted is still open for it (R499)
      let own := hs.filter fun h => match s.seq h with
        | some q => q.party == j.party && (match q.closing with | some (_, _, no) => decide (j.number ≤ no) | none => true)
        | none => false
      let j0 := { j with
        known := true, grit := BitVec.ofNat 128 (fieldAt b 0 16), aug := BitVec.ofNat 128 (fieldAt b 0x10 16), augBase := x.augBase,
        handles := own.eraseDups, adapt := adapt, iters := x.iters }
      match s.parseIo ioD.1 with
      | none => .fails s j0 stInvalidField
      | some io =>
        if sealed ∧ io.any (fun e => e.2.any fun p => p.tier == 3) then .fails s j0 stSealRejected
        else if own.length ≠ hs.length ∨ hs.eraseDups.length ≠ hs.length then .fails s j0 stInvalidField
        else if (adapt ≠ 0 ∧ state.all (·.incomplete)) ∨ (j.flagAdapt ∧ (adapt = 0 ∨ !s.examplesOk x.record)) then .fails s j0 stInvalidField
        else if s.overLimit j0 then .fails s j0 stContextLimit
        else match s.freeWindow s.windowSize with
          | none => .later s j0
          | some base =>
            let j1 := { j0 with
              io := io, window := (base, s.windowSize), prepared := true, phase := if j.phase = .waiting then .pending else j.phase }
            match s.prepareKv j1 x hD.2 with
            | (none, s1) => .fails s1 j1 stPoolExhausted
            | (some c, s1) =>
              match (if adapt = 0 then some ([], s1) else s1.adaptBlocks j1 (fieldAt x.record 40 2)) with
              | none => .fails s1 j1 stPoolExhausted
              | some st => st.2.prepareInputs { j1 with store := st.1, copies := c.1 } x c.2 b useSeal

/-- Bring the running job to a boundary: credit 0 on every core, or the head's message on a ring (R345, R513). -/
def State.halt (s : State) : State :=
  if s.jobRing then (if s.fbit f_ciStatus_head then s.ringBoundary else s)
  else (maskCores s.jobCores).foldl (fun s c => s.fput (f_ncBoundaryCredit_credit c) 0) s

/-- Halt the running job where a pending job's ring has a higher priority (R514). -/
def State.preempt (s : State) : State :=
  match s.running, s.nextJob with
  | some j, some n => if s.priority j.ring < s.priority n.ring then s.halt else s
  | _, _ => s

/-- JOB_PREPARED (R512): the job of ring `q` at SQ index `index` joins the pending set, or completes with the status that
refuses it; it starts if no job runs. -/
def execJobPrepared (q : Fin 16) (index : Nat) (x : JobInputs) (s : State) : Host.Outcome State Fault Refusal :=
  match if s.mpStands then none else s.fw.jobs.find? fun j => j.ring == q.val && j.taken.index == index && !j.prepared with
  | none => .next s
  | some j =>
    match s.prepare j x with
    | .later s1 j1 => .next (s1.setJob j1)
    | .fails s1 j1 st => .next ((s1.endJob j1 st).startNext [])
    | .ready s1 j1 => .next (((s1.setJob j1).startNext []).preempt)

/-! Boundaries. -/

/-- The answer of a JOB_QUERY that waits for the running job's boundary (R28, R497): its state, 1 running or 3 done, and
NC_STEP of the job's lowest core. -/
def State.answerQuery (s : State) (state step : Nat) : State :=
  s.bgDone 0x1B { Done.of stSuccess with result0 := state, result1 := step }

/-! The turn of a descriptor. -/

def adminOps : List Nat := [0x01, 0x02, 0x10, 0x11, 0x12, 0x18, 0x19, 0x1A, 0x1B, 0x1C, 0x20, 0x21, 0x22, 0x28, 0x30]
def jobOps : List Nat := [0x40, 0x41, 0x42, 0x48, 0x49, 0x4A, 0x4B, 0x50, 0x51, 0x52]

/-- The capability bit a command needs (R504). -/
def opCap (op : Nat) : Option Nat :=
  if 0x48 ≤ op ∧ op ≤ 0x4B then some 3 else if 0x50 ≤ op ∧ op ≤ 0x52 then some 2
  else if 0x20 ≤ op ∧ op ≤ 0x22 then some 4 else if op = 0x30 then some 5 else none

/-- The status with which a descriptor is refused whatever its operands (R497, R501, R18). -/
def State.refusedOp (s : State) (q op : Nat) : Option Nat :=
  if !adminOps.contains op && !jobOps.contains op then some stUnsupported
  else if (q == 0) != adminOps.contains op then some stWrongRing
  else if !s.fw.opened && op != 0x01 then some stNotOpen
  else match opCap op with
    | some b => if bit s.host.granted b then none else some stUnsupported
    | none => none

/-- Complete every begun command of a ring with ABORTED. -/
def State.abortBegun (s : State) (q : Nat) : State :=
  ((s.pair q).taken.filter (·.begun)).foldl (fun s t => s.completeTaken q t (Done.of stAborted)) s

/-- Complete the refused descriptors whose turn it is on a ring; `fuel` bounds their number. -/
def State.settle (s : State) (q : Nat) : Nat → State
  | 0 => s
  | fuel + 1 =>
    match (s.pair q).taken.find? fun t => !t.begun with
    | none => s
    | some t => match s.refusedOp q t.opcode with
      | some st => (s.completeTaken q { t with start := s.devTime.toNat } (Done.of st)).settle q fuel
      | none => s

/-- The settling of every descriptor a ring has taken. -/
def State.settleRing (s : State) (q : Nat) : State := s.settle q ((s.pair q).taken.length)

/-- CLOSE ends (R497), every job having ended: sequences, sessions and transactions close, and the host area and the tier-3
pool are released. -/
def State.closeEnds (s : State) (t : Taken) : State :=
  let s1 := s.fw.jobs.foldl (fun s j => s.endJob j stAborted) s
  let rest := (s1.pair 0).taken.filter fun u => u.begun && u.index != t.index
  let s2 := (List.range 15).foldl (fun s q => s.abortBegun (q + 1)) (rest.foldl (fun s u => s.completeTaken 0 u (Done.of stAborted)) s1)
  let kv := s2.fw.kvBlocks.map (·.2)
  let vid := s2.fw.videos.flatMap (·.blocks)
  let table := s2.fw.kvTable
  let s3 := { s2 with fw := { s2.fw with
    seqs := [], kvBlocks := [], videos := [], side := none, loading := none, reclaims := [], imports := [], kvTable := [],
    t2 := s2.fw.t2.filter (!table.contains ·) } }
  let s4 := s3.freeBlocks (kv ++ vid)
  let host := match s4.host.area with
    | some (b, n) => (List.range (n / blockBytes)).map fun i => (b - lpBase) / blockBytes + i
    | none => []
  let s5 := { s4 with
    host := { s4.host with area := none, granted := 0 },
    fw := { s4.fw with opened := false, t2 := s4.fw.t2.filter (!host.contains ·), t3 := [], t3used := [], past := [], margins := [] } }
  let s6 := s5.completeTaken 0 t (Done.of stSuccess)
  ((List.range 16).foldl (fun s q => s.settleRing q) ((s6.wr f_vxLoad_encode_mpix.off 0).fput f_hiFwStatus_state 1)).markSlots

/-- What waits for the running job to have ended: a query that it outran, and CLOSE (R28, R497). -/
def State.afterJob (s : State) (step : Nat) : State :=
  if s.running.isSome then s
  else
    let s1 := s.answerQuery 3 step
    match s1.bgTaken 0x02 with
    | some t => s1.closeEnds t
    | none => s1.settleRing 0

/-- End the running job at a boundary, and start the next. -/
def State.finish (s : State) (j : Job) (status : Nat) (peers : List Nat) : State :=
  ((s.endJob j status).startNext peers).afterJob s.topStep

/-- Item 3 of R29: a stop, CLOSE among them, or a switch for a suspension or for a job of a ring with higher priority (R514,
R515). -/
def State.stopOrSwitch (s : State) (j : Job) (k : Nat) (peers : List Nat) : State :=
  if j.stop then s.finish j stStopped peers
  else if (s.bgTaken 0x02).isSome then s.finish j stAborted peers
  else
    let above := match s.nextJob with | some n => decide (s.priority j.ring < s.priority n.ring) | none => false
    if j.suspend || above then
      match s.switchOut j k (if j.suspend then .suspended else .pending) with
      | some s1 => s1.startNext peers
      | none => s.goOn j k
    else s.goOn j k

/-- The head tells every member of the fallback entry it takes (R524). -/
def State.tellEntry (s : State) (k : Nat) : State :=
  s.ring.table.foldl (fun s m => match m.address with
    | some a => if m.identity == Config.deviceId then s else s.sendFrame (s.fwMessage a 6 k)
    | none => s) s

/-- Items 2 and 3 of R29. -/
def State.monitorAndSwitch (s : State) (j : Job) (k : Nat) (peers : List Nat) : State :=
  let head := !s.jobRing || s.fbit f_ciStatus_head
  let told := s.jobRing && s.fw.ringEntry == some k && j.fallback.isNone
  let mine := head && s.monitor j k peers
  if mine || told then
    let s1 := if mine && s.jobRing then s.tellEntry k else s
    let x := s1.toFallback j k
    x.1.stopOrSwitch x.2 x.2.step peers
  else s.stopOrSwitch j k peers

/-- Every action due when the running job stands at boundary `k`, in order (R29, R245, R309, R514). Commands that wait for a
boundary take effect there (R28, R213). -/
def State.atBoundary (s : State) (j : Job) (k : Nat) (peers : List Nat) : State :=
  let j1 := { j with step := k, ended := some (k - 1), stepsRun := j.stepsRun + (k - j.step) }
  let s3 := ((s.setJob j1).settleNow).answerQuery 1 (((maskCores s.jobCores).head?.map fun c => s.fget (f_ncStep_step c)).getD 0)
  match s3.condStatus with
  | some st => s3.finish j1 st peers
  | none =>
    if j1.flagAdapt ∧ k = s3.updStep ∧ s3.nonfinite s3.jobCores then s3.finish j1 0x25 peers
    else if k = s3.pathEnd j1 then s3.finish j1 stSuccess peers
    else
      let x := s3.iterate j1 k
      if x.2.step = x.1.pathEnd x.2 then x.1.finish x.2 stSuccess peers
      else x.1.monitorAndSwitch x.2 x.2.step peers

/-- STEP_OVERRUN for each step that has ended later than its wait allowance (R30): pairs of a step and its excess in
nanoseconds; the completion carries the flag (R500). -/
def State.overran (s : State) (l : List (Nat × Nat)) : State :=
  match s.running with
  | none => s
  | some j =>
    let l := l.filter fun o => o.2 != 0 && decide (o.1 < s.topStep)
    let s1 := l.foldl (fun s o => s.event 0x10 j.ring (leBytes 4 j.ring ++ leBytes 4 j.taken.tag ++ leBytes 4 o.1 ++ leBytes 8 o.2)) s
    if l.isEmpty then s1 else s1.setJob { j with overrun := true }

/-- Whether a core of the job stands at a boundary: halted there, or waiting at its step's opening (R27). -/
def State.standsCore (s : State) (c : Nat) : Bool :=
  s.coreState c == 3 || (s.coreState c == 2 && match (s.core c).waiting with | some (_, _, _, o) => o | none => false)

/-- JOB_BOUNDARY (R26 to R30, R513): `overruns` are the steps that outlasted their wait allowances, with the excess, and
`peers` the array clocks that ring members report. A job ended at once completes when its cores have stopped, and one that a
condition ends once each has come to a boundary; otherwise halted cores behind the furthest boundary are started again. The
cores wait at their boundaries while the MP stands (R565). -/
def execJobBoundary (overruns : List (Nat × Nat)) (peers : List Nat) (s0 : State) : Host.Outcome State Fault Refusal :=
  let s := s0.overran overruns
  match if s.mpStands then none else s.running with
  | none => .next s
  | some j =>
    let cores := maskCores s.jobCores
    if s.abortNow then
      match s.condStatus, cores.all fun c => s.coreState c == 0 with
      | some st, true => .next (s.finish j st peers)
      | _, _ => .next s
    else if !cores.all s.standsCore then .next s
    else
      let k := s.topStep
      let behind := cores.filter fun c => decide (s.fget (f_ncStep_step c) < k)
      if s.condStatus.isSome || behind.isEmpty && decide (j.step < k) then .next (s.atBoundary j k peers)
      else if !behind.isEmpty then .next (behind.foldl (fun s c => s.startFilled c) s)
      else .next (((s.settleNow).answerQuery 1 k).stopOrSwitch j k peers)

end Sys2Proof.Machine
end

