-- ==== Sys2Proof/Machine/FwCmds.lean ====
section
/-! DEFINITION. The commands the firmware executes from the rings (R496 to R499, R503, R504), but for video. -/

namespace Sys2Proof.Machine

/-- Whether a ring's descriptors wait for one before them: the admin ring for a query of the running job, every ring for
CLOSE, and a ring for an import that waits for a boundary (R28, R213, R499). -/
def State.blocked (s : State) (q : Nat) : Bool :=
  (s.bgTaken 0x02).isSome || (q == 0 && (s.bgTaken 0x1B).isSome) || s.fw.imports.any fun x => x.1 == q

/-- The descriptor of an opcode whose turn it is on ring `q`: the first not begun (R499). The firmware takes none while it
stands (R567). -/
def State.turn (s : State) (q op : Nat) : Option Taken :=
  if s.blocked q || s.mpStands then none else match (s.pair q).taken.find? fun t => !t.begun with
  | some t => if t.opcode = op then some { t with start := s.devTime.toNat } else none
  | none => none

/-- Execute the command of an opcode whose turn it is on ring `q`. -/
def State.command (s : State) (q op : Nat) (f : Taken → State) : State :=
  match s.turn q op with
  | none => s
  | some t => ((f t).settleRing q).markSlots

/-- A descriptor's command goes on in the background, or as a job. -/
def State.begin_ (s : State) (q : Nat) (t : Taken) : State :=
  let x := s.pair q
  s.setPair q { x with taken := x.taken.map fun u => if u.index = t.index then { t with begun := true } else u }

/-! OPEN and CLOSE. -/

/-- The reply block of OPEN (R503). -/
def State.openReply (s : State) (granted base bytes : Nat) : List Byte :=
  leBytes 1 2 ++ leBytes 1 2 ++ leBytes 1 2 ++ leBytes 1 2 ++ leBytes 1 2 ++ leBytes 1 1 ++ leBytes 1 1 ++ leBytes 1 2 ++
    leBytes 8 granted ++ leBytes 8 0xFF ++ ((s.sc.manifest.drop 0x14) ++ zeros 4).take 4 ++
    leBytes 1 (b2n (s.fbit f_hiBoot_unattested) + 2 * b2n (s.fbit f_mcCtrl_inline_ecc)) ++ leBytes 1 (s.fget f_mcStatus_rate) ++ zeros 2 ++
    leBytes 8 s.lpCapacity ++ leBytes 8 base ++ leBytes 8 bytes ++ zeros 200

/-- OPEN (R17, R503). An invalid reply address is found before a missing common major, since the block there takes the
firmware's range (log entry 49). -/
def State.openCmd (s : State) (t : Taken) : State :=
  let reply := t.field 40 8
  let size := t.field 32 8
  if s.fw.opened then s.completeTaken 0 t (Done.of stBusy)
  else if reply % 64 ≠ 0 ∨ reply < bootArea.1 ∨ bootArea.1 + bootArea.2 < reply + 256 then s.completeTaken 0 t (Done.of stInvalidField)
  else if 2 < t.field 16 1 ∨ t.field 17 1 < 2 then
    let s1 := s.areaWrite (reply + 1) [2, 2]
    (s1.completeTaken 0 t (Done.of stVersionMismatch)).fput f_hiFwStatus_state 3
  else if size % blockBytes ≠ 0 ∨ 0x100000000 < size then s.completeTaken 0 t (Done.of stInvalidField)
  else match s.allocRun (size / blockBytes) with
    | none => s.completeTaken 0 t (Done.of stPoolExhausted)
    | some x =>
      let base := lpBase + x.1 * blockBytes
      let granted := t.field 24 8 % 64
      let s1 := { x.2 with
        host := { x.2.host with granted := granted, area := some (base, size) },
        fw := { x.2.fw with opened := true, margins := [] } }
      ((s1.areaWrite reply (s1.openReply granted base size)).completeTaken 0 t (Done.of stSuccess)).fput f_hiFwStatus_state 2

/-- OPEN. -/
def execFwOpen (s : State) : Host.Outcome State Fault Refusal := .next (s.command 0 0x01 fun t => s.openCmd t)

/-- CLOSE (R497): the jobs that do not run end at once, the running job at its next boundary (R28), and CLOSE with it. -/
def State.closeCmd (s : State) (t : Taken) : State :=
  let s1 := (s.fput f_hiFwStatus_state 4).begin_ 0 t
  match s1.running with
  | none => s1.closeEnds { t with begun := true }
  | some _ => ((s1.fw.jobs.filter fun j => j.phase != .running).foldl (fun s j => s.endJob j stAborted) s1).halt

/-- CLOSE. -/
def execFwClose (s : State) : Host.Outcome State Fault Refusal := .next (s.command 0 0x02 fun t => s.closeCmd t)

/-! The package (R20 to R22, R40, R342). -/

/-- Whether a placement names members of the ring that are no spares, each once (R342). -/
def State.placeOk (s : State) (place : List Nat) : Bool :=
  let named := place.filter (· != 0xFF)
  named.eraseDups.length == named.length && named.all fun a => s.ring.table.any fun m => m.address == some a && !m.spare

/-- LOAD_PACKAGE (R497): the header's checks; the rest in the background. -/
def State.loadCmd (s : State) (host : List Byte) (t : Taken) : State :=
  let a := t.field 16 8
  let len := t.field 24 8
  let n := if bit s.host.granted 4 then t.field 32 1 else 1
  let place := (List.range n).map fun p => t.field (48 + p) 1
  let no := fun (st : Nat) => s.completeTaken 0 t (Done.of st)
  if s.fw.loading.isSome then no stBusy
  else if n < 1 ∨ 16 < n ∨ len < 128 ∨ !s.inArea a len ∨ place.any (fun a => 15 < a ∧ a ≠ 0xFF) then no stInvalidField
  else
    let b := (s.areaRead host a len).1
    if !headerMagic b then no stPackageInvalid
    else if !contractOk b then no stContractMismatch
    else if !headerOk b len then no stPackageInvalid
    else if !bit (pkRings b) (n - 1) ∨ (1 < n ∧ !s.placeOk place) then no stInvalidField
    else if s.fget f_mcStatus_state < 2 then no stPoolExhausted
    else
      let s1 := s.begin_ 0 t
      { s1 with fw := { s1.fw with loading := some (t.index, ⟨b, n, place, [], []⟩, 0) } }

/-- LOAD_PACKAGE. -/
def execLoadPackage (host : List Byte) (s : State) : Host.Outcome State Fault Refusal :=
  .next (s.command 0 0x10 fun t => s.loadCmd host t)

/-- A load ends with a status and a value. -/
def State.loadEnds (s : State) (st v : Nat) : State := (s.bgDone 0x10 { Done.of st with result0 := v }).settleRing 0

/-- The blocks a load was given, `n` of them for the tier-2 data and the others for a ring member's copy, or none, and what
it then comes to. -/
def State.loadPlaced (s : State) (r : Resident) (n : Nat) : Option (List PoolBlock × State) → State
  | none => s.loadEnds stPoolExhausted 0
  | some x => (x.2.makeResident { r with blocks := x.1.take n, copy := x.1.drop n }).loadEnds stSuccess (pkBytes r.bytes)

/-- PACKAGE_LOAD_COMPLETE (R22): a load finishes while no job is on the device. -/
def execPackageLoadComplete (s : State) : Host.Outcome State Fault Refusal :=
  match s.fw.loading with
  | none => .next s
  | some (_, r, _) =>
    if !s.fw.jobs.isEmpty || s.mpStands then .next s
    else
      let s1 := { s with fw := { s.fw with loading := none } }
      if !packageOk r.bytes then .next (s1.loadEnds stPackageInvalid 0)
      else
        let pos := if r.ring ≤ 1 then some 0 else r.place.findIdx? (· == s.ringAddr)
        let ld := (loadedSections r.bytes r.ring pos).map (sectionAt r.bytes)
        let total := (ld.filter fun x => x.kind == 5).foldl (fun a x => a + 64 * ceilDiv x.length 64) 0
        let n := ceilDiv total blockBytes
        .next (s1.loadPlaced r n (s1.allocBlocks true (n + if r.ring ≤ 1 then 0 else ceilDiv r.bytes.length blockBytes)))

/-! Pools. -/

/-- POOL_GRANT (R213, R497). -/
def execPoolGrant (s : State) : Host.Outcome State Fault Refusal :=
  .next (s.command 0 0x11 fun t =>
    let first := t.field 16 2
    let n := t.field 18 2
    let es := (List.range n).map (first + ·)
    if !s.fw.reclaims.isEmpty then s.completeTaken 0 t (Done.of stBusy)
    else if 4096 < first + n ∨ es.any (fun i => !s.fbit (f_hiHostwin_valid i) || !s.fbit (f_hiHostwin_write_en i)) then
      s.completeTaken 0 t (Done.of stInvalidField)
    else ({ s with fw := { s.fw with t3 := s.fw.t3 ++ es.filter (!s.fw.t3.contains ·) } }).completeTaken 0 t (Done.of stSuccess))

/-- POOL_RECLAIM (R497). -/
def execPoolReclaim (s : State) : Host.Outcome State Fault Refusal :=
  .next (s.command 0 0x12 fun t =>
    let first := t.field 16 2
    let n := t.field 18 2
    if !s.fw.reclaims.isEmpty then s.completeTaken 0 t (Done.of stBusy)
    else if 4096 < first + n then s.completeTaken 0 t (Done.of stInvalidField)
    else
      let es := (List.range n).map (first + ·)
      let s1 := s.begin_ 0 t
      ({ s1 with fw := { s1.fw with t3 := s1.fw.t3.filter (!es.contains ·), reclaims := [(t.index, first, n)] } }).reclaimCheck)

/-! Job control (R515). -/

/-- The job a control command names, whether it is done, or neither. -/
def State.namedJob (s : State) (t : Taken) : Option Job :=
  s.fw.jobs.find? fun j => j.ring == t.field 16 1 && j.taken.tag == t.field 20 4
def State.namedPast (s : State) (t : Taken) : Option (Nat × Nat × Nat) :=
  s.fw.past.find? fun p => p.1 == t.field 16 1 && p.2.1 == t.field 20 4

/-- A control command: its effect on the job it names, then SUCCESS; on a completed job it has none. -/
def State.control_ (s : State) (op : Nat) (f : Job → State) : State :=
  s.command 0 op fun t => match s.namedJob t with
    | some j => (f j).completeTaken 0 t (Done.of stSuccess)
    | none => s.completeTaken 0 t (Done.of (if (s.namedPast t).isSome then stSuccess else stInvalidField))

/-- JOB_STOP (R515). -/
def execJobStop (s : State) : Host.Outcome State Fault Refusal :=
  .next (s.control_ 0x18 fun j =>
    if j.phase = .running then (s.setJob { j with stop := true }).halt else s.endJob j stStopped)

/-- JOB_SUSPEND (R515). -/
def execJobSuspend (s : State) : Host.Outcome State Fault Refusal :=
  .next (s.control_ 0x19 fun j =>
    if j.phase = .running then (s.setJob { j with suspend := true }).halt else s.setJob { j with phase := .suspended })

/-- JOB_RESUME (R515). -/
def execJobResume (s : State) : Host.Outcome State Fault Refusal :=
  .next (s.control_ 0x1A fun j =>
    if j.phase = .suspended then ((s.setJob { j with phase := if j.prepared then .pending else .waiting }).startNext []).preempt
    else s)

/-- JOB_QUERY (R497): of a job in the midst of a step, at its next boundary (R28). -/
def execJobQuery (s : State) : Host.Outcome State Fault Refusal :=
  .next (s.command 0 0x1B fun t =>
    let ok := fun (x y : Nat) => s.completeTaken 0 t { Done.of stSuccess with result0 := x, result1 := y }
    match s.namedJob t with
    | some j => match j.phase with
      | .running => if (maskCores s.jobCores).all s.standsCore then ok 1 (((maskCores s.jobCores).head?.map fun c => s.fget (f_ncStep_step c)).getD 0)
          else (s.begin_ 0 t).halt
      | .suspended => ok 2 j.step
      | _ => ok 0 j.step
    | none => match s.namedPast t with
      | some p => ok 3 p.2.2
      | none => s.completeTaken 0 t (Done.of stInvalidField))

/-- STREAM_MARGIN (R523). -/
def execStreamMargin (s : State) : Host.Outcome State Fault Refusal :=
  .next (s.command 0 0x1C fun t =>
    if 31 < t.field 16 1 then s.completeTaken 0 t (Done.of stInvalidField)
    else ({ s with fw := { s.fw with margins := mapSet (fun _ => 0) s.fw.margins (t.field 16 1) (t.field 24 8) } }).completeTaken 0 t (Done.of stSuccess))

/-! The ring. -/

/-- RING_ENUMERATE (R331). -/
def execRingEnumerate (s : State) : Host.Outcome State Fault Refusal :=
  .next (s.command 0 0x20 fun t =>
    if s.ring.head ≠ .none then s.completeTaken 0 t (Done.of stBusy)
    else if !s.inArea (t.field 16 8) 1024 then s.completeTaken 0 t (Done.of stInvalidField)
    else (s.begin_ 0 t).enumStart)

/-- The driver's member table in physical order: each device of the last enumeration with what the table says of it, a
device it does not name being excluded (R332, log entry 10). -/
def State.memberTable (s : State) (d : List Byte) : List Member :=
  let t := (parseMembers d).1
  if s.ring.order.isEmpty then t
  else s.ring.order.map fun r =>
    let id := BitVec.ofNat 64 (leNat (r.take 8))
    (t.find? fun m => m.identity == id).getD ⟨id, none, false⟩

/-- RING_CONFIGURE (R332, R333). -/
def execRingConfigure (host : List Byte) (s : State) : Host.Outcome State Fault Refusal :=
  .next (s.command 0 0x21 fun t =>
    if s.ring.head ≠ .none then s.completeTaken 0 t (Done.of stBusy)
    -- a quarantined device commits no table before its readmission (R339; the status is log entry 66's)
    else if s.quarantined then s.completeTaken 0 t (Done.of 0x41)
    else if !s.inArea (t.field 16 8) 1024 then s.completeTaken 0 t (Done.of stInvalidField)
    else
      let tb := s.memberTable (s.areaRead host (t.field 16 8) 1024).1
      let as_ := tb.filterMap (·.address)
      let mine := tb.any fun m => m.identity == Config.deviceId && m.address.isSome
      if as_.any (15 < ·) ∨ as_.eraseDups.length ≠ as_.length ∨ !mine then s.completeTaken 0 t (Done.of stInvalidField)
      else (s.begin_ 0 t).headConfigure tb (s.fbit f_ciStatus_closed))

/-- RING_READMIT (R339). -/
def execRingReadmit (s : State) : Host.Outcome State Fault Refusal :=
  .next (s.command 0 0x22 fun t => s.ciReadmit.completeTaken 0 t (Done.of stSuccess))

/-! Time and side ports. -/

/-- TIME_SAMPLE (R373): the servo's rate, and its step while no group is enabled, are free values (log entry 2), the rate
within IA's clamp. -/
def execTimeSample (s : State) : Host.Outcome State Fault Refusal :=
  .next (s.command 0 0x28 fun t =>
    let src := t.field 40 1
    if src < 1 ∨ 3 < src then s.completeTaken 0 t (Done.of stInvalidField)
    else
      let p := s.draw
      let rate : Int := (p.1 % 111848107 : Nat) - 55924053
      let s1 := p.2.wr f_iaTimeRate_rate_adj.off (BitVec.ofInt 32 rate)
      let p2 := s1.draw
      let s2 := if s1.anyGroup then s1 else p2.2.timeStep (BitVec.ofNat 64 p2.1)
      s2.completeTaken 0 t (Done.of stSuccess))

/-- SIDEPORT (R369, R497): what the bus answers is the outside world's: an acknowledgement with the bytes read, or nothing
yet. -/
def execSideport (answer : Option (Bool × List Byte)) (host : List Byte) (s : State) : Host.Outcome State Fault Refusal :=
  .next (s.command 0 0x30 fun t =>
    let ctl := t.field 16 1 % 8
    let kind := t.field 16 1 / 8 % 4
    let op := t.field 17 1
    let w := t.field 20 2
    let r := t.field 22 2
    let a := t.field 24 8
    let spi := kind == 1
    let ranged := (if spi then decide (ctl < 4) else kind == 0 && decide (ctl < 6)) && decide (op ≤ 4) && decide (w ≤ 256) &&
      decide (r ≤ 256) && (op != 3 || spi && decide (w ≤ 4) && decide (r ≤ 48)) && (op != 4 || !spi) && s.inArea a (w + r)
    if !ranged then s.completeTaken 0 t (Done.of stInvalidField)
    else
      let wr := if op = 1 then [] else (s.areaRead host a w).1
      if op = 3 then
        ({ s with fw := { s.fw with spiStream := mapSet (fun _ => ([], 0)) s.fw.spiStream ctl (wr, r) } }).completeTaken 0 t (Done.of stSuccess)
      else
        let bus := ctl + 8 * kind
        let s1 := s.emit (.sidePort bus (leBytes 2 (t.field 18 2) ++ wr))
        match answer with
        | none => let s2 := s1.begin_ 0 t
                  { s2 with fw := { s2.fw with side := some (t.index, bus) } }
        | some (false, _) => s1.completeTaken 0 t (Done.of stSideportNak)
        | some (true, d) =>
          let rd := op == 1 || op == 2
          let s2 := if rd then s1.areaWrite (a + if op = 1 then 0 else w) ((d ++ zeros r).take r) else s1
          let dyn := (mapGet (fun _ => []) s2.fw.dynAddr ctl).filter (· != t.field 18 2) ++ [t.field 18 2]
          let s3 : State := if op = 4 then { s2 with fw := { s2.fw with dynAddr := mapSet (fun _ => []) s2.fw.dynAddr ctl dyn } } else s2
          s3.completeTaken 0 t { Done.of stSuccess with result0 := wr.length + if rd then r else 0 })

/-- SIDEPORT_TIMEOUT (R501). -/
def State.sideTimeout (s : State) : State :=
  match s.fw.side with
  | none => s
  | some _ => (({ s with fw := { s.fw with side := none } }).bgDone 0x30 (Done.of stSideportTimeout)).settleRing 0

def execSideportTimeout (s : State) : Host.Outcome State Fault Refusal :=
  .next (if s.stopped 8 then s else s.sideTimeout)

/-! Jobs, sequences, adaptation state. -/

/-- A JOB descriptor as the granted capabilities let it be read: the adaptation flag of one without bit 3 is reserved (R18). -/
def State.grantedJob (s : State) (t : Taken) : Taken :=
  if bit s.host.granted 3 then t else { t with desc := t.desc.set 33 (BitVec.ofNat 8 (t.field 33 1 % 4)) }

/-- JOB (R498, R499): the job waits for its preparation. -/
def execFwJob (q : Fin 16) (s : State) : Host.Outcome State Fault Refusal :=
  .next (s.command q.val 0x40 fun t =>
    let no := s.fw.jobNo + 1
    let j : Job :=
      { number := no, ring := q.val, taken := s.grantedJob t, party := s.ringParty q.val, phase := .waiting, known := false,
        prepared := false, stop := false, suspend := false, grit := 0, aug := 0, augBase := [], handles := [], adapt := 0,
        io := [], store := [], gen := [], copies := [], window := (0, 0), sealedKey := [], sealedEnts := [], iters := [],
        groups := [], inGroups := false, fallback := none, overrun := false, stepsRun := 0, step := 0, ended := none, area := [],
        saved := [], records := [], objects := [], out := false }
    let s1 := { s.begin_ q.val t with fw := { s.fw with jobNo := no, jobs := s.fw.jobs ++ [j] } }
    if s.fw.pkg.isNone then s1.endJob j stNoPackage
    else if 31 < j.stream ∨ (j.flagFallback ∧ pkFallback s.pkgBytes = 0) then s1.endJob j stInvalidField
    else s1)

/-- SEQ_OPEN (R238). -/
def execSeqOpen (q : Fin 16) (s : State) : Host.Outcome State Fault Refusal :=
  .next (s.command q.val 0x41 fun t =>
    let h := t.field 16 4
    if (s.seq h).isSome then s.completeTaken q.val t (Done.of stInvalidField)
    else match s.openSeq (s.ringParty q.val) h with
      | some s1 => s1.completeTaken q.val t (Done.of stSuccess)
      | none => s.completeTaken q.val t (Done.of stPoolExhausted))

/-- SEQ_CLOSE (R238). -/
def execSeqClose (q : Fin 16) (s : State) : Host.Outcome State Fault Refusal :=
  .next (s.command q.val 0x42 fun t =>
    match s.seq (t.field 16 4) with
    | none => s.completeTaken q.val t (Done.of stInvalidField)
    | some x =>
      if x.party ≠ s.ringParty q.val ∨ x.closing.isSome then s.completeTaken q.val t (Done.of stInvalidField)
      else ((s.begin_ q.val t).setSeq { x with closing := some (q.val, t.index, s.fw.jobNo) }).settleCloses)

/-- ADAPT_CREATE (R312). -/
def execAdaptCreate (q : Fin 16) (s : State) : Host.Outcome State Fault Refusal :=
  .next (s.command q.val 0x48 fun t =>
    if t.field 16 4 = 0 ∨ (s.adaptOf q.val t).isSome then s.completeTaken q.val t (Done.of stInvalidField)
    else
      let a : Adapt := ⟨s.ringParty q.val, t.field 16 4, 0, [], [], false, none⟩
      ({ s with fw := { s.fw with adapts := s.fw.adapts ++ [a] } }).completeTaken q.val t (Done.of stSuccess))

/-- The key of sealed adaptation state (R549): "adapt" and the state id under the party's key. -/
def adaptKey (psk : List Byte) (id : Nat) : List Byte :=
  (Config.hmac384 psk ([0x61, 0x64, 0x61, 0x70, 0x74] ++ leBytes 4 id)).take 32

/-- The header of an export (R549, log entry 18). -/
def exportHeader (slot id gen len : Nat) (sealed : Bool) (nonce : List Byte) : List Byte :=
  leBytes 4 Config.exportMagic ++ leBytes 1 slot ++ leBytes 1 (b2n sealed) ++ zeros 2 ++ leBytes 4 id ++ zeros 4 ++ leBytes 8 gen ++
    leBytes 8 len ++ nonce ++ zeros 20

/-- Bytes of a state's published generation. -/
def State.adaptBytes (s : State) (host : List Byte) (a : Adapt) : List Byte × List Byte :=
  a.live.foldl (fun (d : List Byte × List Byte) b =>
    let x := s.blockRead d.2 a.party b 0 blockBytes
    (d.1 ++ x.1, x.2)) ([], host)

/-- Twelve bytes of the DRBG. -/
def State.drbg (s : State) (n : Nat) : List Byte × State :=
  ((List.range n).map fun i => Config.drbg (s.fresh + i), { s with fresh := s.fresh + n })

/-- The export of a state: its bytes, or none where its slot's key cannot be used (R535, R549). -/
def State.exportState (s : State) (host : List Byte) (a : Adapt) : Option (List Byte × State) :=
  let d := (s.adaptBytes host a).1
  if s.slotSealed a.party then
    if s.keysLocked then none
    else (s.psk a.party).map fun k =>
      let n := s.drbg 12
      let h := exportHeader a.party a.id a.gen d.length true n.1
      (h ++ Config.gcmSeal (adaptKey k a.id) n.1 h d, n.2)
  else some (exportHeader a.party a.id a.gen d.length false (zeros 12) ++ d ++ Config.sha384 d, s)

/-- ADAPT_EXPORT (R549). -/
def execAdaptExport (q : Fin 16) (host : List Byte) (s : State) : Host.Outcome State Fault Refusal :=
  .next (s.command q.val 0x49 fun t =>
    let addr := t.field 24 8
    let room := t.field 32 8
    match s.adaptOf q.val t with
    | none => s.completeTaken q.val t (Done.of stInvalidField)
    | some a => match s.exportState host a with
      | none => s.completeTaken q.val t (Done.of stSealRejected)
      | some x =>
        if room < x.1.length ∨ !s.inArea addr x.1.length then s.completeTaken q.val t (Done.of stInvalidField)
        else (x.2.areaWrite addr x.1).completeTaken q.val t { Done.of stSuccess with result0 := x.1.length })

/-- The payload of an import that passes its checks (R549). -/
def State.importPayload (s : State) (a : Adapt) (d : List Byte) : Option (Nat × List Byte) :=
  let h := d.take 64
  let len := fieldAt h 24 8
  let sealed := s.slotSealed a.party
  if fieldAt h 0 4 ≠ Config.exportMagic ∨ fieldAt h 4 1 ≠ a.party ∨ fieldAt h 8 4 ≠ a.id ∨ fieldAt h 5 1 ≠ b2n sealed then none
  else if sealed then
    if s.keysLocked then none
    else (s.psk a.party).bind fun k => (Config.gcmOpen (adaptKey k a.id) ((h.drop 32).take 12) h ((d.drop 64).take (len + 16))).map fun p =>
      (fieldAt h 16 8, p)
  else
    let p := (d.drop 64).take len
    if Config.sha384 p = (d.drop (64 + len)).take 48 then some (fieldAt h 16 8, p) else none

/-- ADAPT_IMPORT (R549); while a job is in the midst of a step, its blocks are taken at the boundary (R213). -/
def execAdaptImport (q : Fin 16) (host : List Byte) (s : State) : Host.Outcome State Fault Refusal :=
  .next (s.command q.val 0x4A fun t =>
    let addr := t.field 24 8
    let n := t.field 32 8
    match s.adaptOf q.val t with
    | none => s.completeTaken q.val t (Done.of stInvalidField)
    | some a =>
      if !s.inArea addr n then s.completeTaken q.val t (Done.of stInvalidField)
      else match s.importPayload a (s.areaRead host addr n).1 with
        | none => s.completeTaken q.val t (Done.of stSealRejected)
        | some p =>
          if s.running.isNone then s.importEnds q.val t (s.importState a p.1 p.2)
          else
            let s1 := s.begin_ q.val t
            { s1 with fw := { s1.fw with imports := s1.fw.imports ++ [(q.val, t.index, p.1, p.2)] } })

/-- ADAPT_RELEASE (R497). -/
def execAdaptRelease (q : Fin 16) (s : State) : Host.Outcome State Fault Refusal :=
  .next (s.command q.val 0x4B fun t =>
    match s.adaptOf q.val t with
    | none => s.completeTaken q.val t (Done.of stInvalidField)
    | some a =>
      if a.releasing.isSome then s.completeTaken q.val t (Done.of stInvalidField)
      else ((s.begin_ q.val t).setAdapt { a with releasing := some (q.val, t.index, s.fw.jobNo) }).settleCloses)

/-- PCIE_LINK_RETRAIN (R510): the link's speed and width as HI_LINK reports them, width code 0 to 3 for 1, 2, 4 or 8 lanes;
B_3 of R215 is computed from them. -/
def execPcieLinkRetrain (speed : Fin 6) (width : Fin 4) (s : State) : Host.Outcome State Fault Refusal :=
  .next ((s.fput f_hiLink_speed speed.val).fput f_hiLink_width (2 ^ width.val))

end Sys2Proof.Machine
end

