-- ==== Sys2Proof/Machine/Pins.lean ====
section
/-! DEFINITION. The multiplexed pads (R632 to R634, R648 to R651). -/

namespace Sys2Proof.Machine

/-- The peripheral signal a pad offers at a function (R632), or none where the pad lacks the function. Signals: 100 + 2c
and 101 + 2c are SCL and SDA of I3C/I²C controller c, 200 + i is FSYNC i, 300 + i is CAMCLK i, 400 is the PPS input, and a
pad's own number stands for its SPI signal. -/
def padSignal (n func : Nat) : Option Nat :=
  if func = 1 then
    if n < 12 then some (100 + n) else if n < 36 then some n else if n < 44 then some (200 + n - 36)
    else if n < 52 then some (300 + n - 44) else if n = 52 then some 400 else if n < 57 then some (108 + n - 53) else none
  else if func = 2 then (if 44 ≤ n ∧ n < 52 then some (200 + n - 44) else none)
  else none

/-- The side-port bus that a pad carries at a function, as SIDEPORT names it. -/
def padBus (n func : Nat) : Option Nat :=
  if func ≠ 1 then none
  else if n < 12 then some (n / 2) else if n < 36 then some (8 + (n - 12) / 6) else if 53 ≤ n ∧ n < 57 then some (4 + (n - 53) / 2) else none

/-- The level of a pad at function 0, where its driver is on (R649). -/
def State.gpioLevel (s : State) (n : Nat) : Option Bool :=
  if bit (s.fget (f_pinGpio_oe (n / 32))) (n % 32) then some (bit (s.fget (f_pinGpio_out (n / 32))) (n % 32)) else none

/-- The level a pad's driver gives it: GPIO or frame sync; an open drain (R648) drives no high level, and what any other
peripheral drives is its bus's. -/
def State.padDriven (s : State) (n : Nat) : Option Bool :=
  let f := s.fget (f_pinMux_func n)
  let l := match padSignal n f with
    | none => s.gpioLevel n
    | some g => if 200 ≤ g ∧ g < 208 then some (bit s.cam.fsyncOn (g - 200) != bit ((s.fsyncWords (g - 200)).getD 0 0).toNat 1) else none
  if s.fget (f_pinMux_drive n) = 3 ∧ l = some true then none else l

/-- A pad's level (R650): the keeper's during a hold, the driver's where one is on, else what the board drives. -/
def State.padSense (s : State) (n : Nat) : Bool :=
  if s.fbit (f_pinMux_switching n) then mapGet (fun _ => 0) s.pads n == 2
  else (s.padDriven n).getD (Config.padLevel n (9375 * s.aonTicks + s.refCount))

/-- Drive a pad at function 0 that is not in a hold (R648, R649). -/
def State.driveGpio (s : State) (n : Nat) : State :=
  if s.fget (f_pinMux_func n) ≠ 0 ∨ s.fbit (f_pinMux_switching n) = true then s
  else match s.padDriven n with
    | some l => s.emit (.pin n l)
    | none => s

/-- A flag of PIN_EVENT, which reports to the MP. -/
def State.pinFlag (s : State) (f : Fld) (n : Nat) : State := (s.flag f).emit (.toMp mpPinEvent [f.lo, n])

/-- A write of PIN_MUX_n (R633, R634). -/
def State.pinMuxWrite (s : State) (n : Nat) (v : Word) : State :=
  let func := bits v.toNat 1 0
  let old := s.fget (f_pinMux_func n)
  let sig := padSignal n func
  let taken := sig.isSome && (List.range 64).any fun m => m != n && padSignal m (s.fget (f_pinMux_func m)) == sig
  if s.fbit (f_pinMux_switching n) then s.pinFlag f_pinEvent_busy n
  else if func = 3 ∨ (func ≠ 0 ∧ sig = none) then s.pinFlag f_pinEvent_refused n
  else if func ≠ old ∧ taken = true then s.pinFlag f_pinEvent_conflict n
  else
    let s1 := (s.fput (f_pinMux_drive n) (bits v.toNat 3 2)).fput (f_pinMux_pull n) (bits v.toNat 5 4)
    if func = old then s1
    else
      let s2 := (s1.fput (f_pinMux_func n) func).fput (f_pinMux_switching n) 1
      let s3 := { s2 with pads := mapSet (fun _ => 0) s2.pads n (1 + b2n (s.padSense n)) }
      -- a transaction whose controller loses the pad ends with SIDEPORT_TIMEOUT
      match s3.fw.side, padBus n old with
      | some x, some b => if x.2 = b then s3.sideTimeout else s3
      | _, _ => s3

/-- PIN_MUX_WRITE. -/
def execPinMuxWrite (n : Fin 64) (v : Word) (s : State) : Host.Outcome State Fault Refusal := .next (s.pinMuxWrite n.val v)

/-- PAD_SWITCH_DONE (R633): the new function drives and senses the pad. -/
def execPadSwitchDone (n : Fin 64) (s : State) : Host.Outcome State Fault Refusal :=
  if !s.fbit (f_pinMux_switching n.val) then .next s
  else
    let s1 := { s.fput (f_pinMux_switching n.val) 0 with pads := mapSet (fun _ => 0) s.pads n.val 0 }
    let func := s1.fget (f_pinMux_func n.val)
    match padSignal n.val func with
    | none => .next (s1.driveGpio n.val)
    | some g =>
      if 200 ≤ g ∧ g < 208 then
        .next (s1.emit (.pin n.val (bit s1.cam.fsyncOn (g - 200) != bit ((s1.fsyncWords (g - 200)).getD 0 0).toNat 1)))
      else .next s1

end Sys2Proof.Machine
end

