-- ==== Sys2Proof/Machine/Video.lean ====
section
/-! DEFINITION. The video engine: its sequencer's start and fault (R426, R427), sessions' admission and memory (R419 to R421,
R425), and their frames (R422, R423). What an encoder makes of a frame is a function of the session's parameters and its
frames in their order (R424) that the spec does not give: opaque constants of Config; what a decoder makes of an access unit
comes with its row (log entry 20). -/

namespace Sys2Proof.Machine

/-! Sessions. -/

def Video.encodes (v : Video) : Bool := decide (v.codec ≤ 1)

def State.video (s : State) (n : Nat) : Option Video := s.fw.videos.find? fun v => v.session == n

def State.setVideo (s : State) (v : Video) : State :=
  { s with fw := { s.fw with videos := s.fw.videos.map fun x => if x.session = v.session then v else x } }

/-- Pixels in 100 s of a session. -/
def Video.pixels (v : Video) : Nat := v.width * v.height * v.rate

/-- The luma sample rate of the highest level of a codec (R419, R420; the standards' own figures, log entry 19). -/
def levelRate (codec : Nat) : Nat :=
  match codec with
  | 0 => 534773760 | 1 => 534773760 | 2 => 530841600 | _ => 2139095040

/-- The largest picture of a codec (R419, R420). -/
def largestPicture (codec : Nat) : Nat × Nat := if codec ≤ 2 then (4096, 2304) else (8192, 4352)

/-- F of R425. -/
def Video.frameBytes (v : Video) : Nat := v.width * v.height * 3 / 2 * (if v.depth = 10 then 2 else 1)

/-- Whether a session may be admitted beside those that run (R421). -/
def State.videoFits (s : State) (v : Video) : Bool :=
  let all := v :: s.fw.videos
  let enc := all.filter (·.encodes)
  let dec := all.filter fun x => !x.encodes
  decide (s.fw.videos.length < 16) && decide (enc.length ≤ 8) &&
    decide (enc.foldl (fun (a : Nat) (x : Video) => a + x.pixels) 0 ≤ 100000000000) && decide (dec.foldl (fun (a : Nat) (x : Video) => a + x.pixels) 0 ≤ 200000000000) &&
    decide (v.pixels ≤ 100 * levelRate v.codec) && decide (enc.foldl (fun (a : Nat) (x : Video) => a + x.refs * x.width) 0 ≤ 16384)

/-- Megapixels a second of some sessions; where the figure is not whole its rounding is open (log entry 2). -/
def State.mpix (s : State) (l : List Video) : Nat × State :=
  let n := l.foldl (fun a x => a + x.pixels) 0
  if n % 100000000 = 0 then (n / 100000000, s) else
    let p := s.draw
    (n / 100000000 + p.1 % 2, p.2)

/-- VX_LOAD as the admitted sessions make it (R437). -/
def State.videoLoad (s : State) : State :=
  let e := s.mpix (s.fw.videos.filter (·.encodes))
  let d := e.2.mpix (s.fw.videos.filter fun x => !x.encodes)
  (d.2.fput f_vxLoad_encode_mpix e.1).fput f_vxLoad_decode_mpix d.1

/-- The session a VIDEO_OPEN asks for. -/
def videoOf (t : Taken) (session party ring : Nat) : Video :=
  { session := session, party := party, ring := ring, codec := t.field 16 1, depth := t.field 17 1, width := t.field 18 2,
    height := t.field 20 2, rate := t.field 22 2, refs := t.field 24 1, control := t.field 25 1,
    qps := (List.range 4).map fun i => t.field (26 + i) 1, rates := (List.range 4).map fun i => t.field (32 + 4 * i) 4,
    group := t.field 60 1, stream := t.field 61 1 % 128, bits := t.field 48 8, bitsLen := t.field 56 4, bitsPos := 0,
    blocks := [], queue := [], releases := 0, pictures := 0, coder := 0, skipTo := false, closing := none }

/-- What coding depends on beside the frames (R424): a session's parameters. -/
def Video.params (v : Video) : List Nat := [v.codec, v.depth, v.width, v.height, v.rate, v.refs, v.control] ++ v.qps ++ v.rates

/-- Whether a session's fields are in range (R419, R420, R497); a growth bit of the stream context refuses any session (R15). -/
def State.videoOk (s : State) (v : Video) : Bool :=
  let big := largestPicture v.codec
  decide (v.codec ≤ 4) && decide (v.stream < 32) && (v.depth == 8 || v.depth == 10 && v.codec != 2) && decide (1 ≤ v.width) && decide (1 ≤ v.height) &&
    decide (v.width ≤ big.1) && decide (v.height ≤ big.2) &&
    (if v.encodes then
      decide (128 ≤ v.width) && decide (128 ≤ v.height) && v.width % 8 == 0 && v.height % 8 == 0 && (v.refs == 1 || v.refs == 2) &&
        decide (v.control ≤ 2) && s.inArea v.bits v.bitsLen && (v.group == 0xFF || decide (v.group < 16))
    else v.group == 0xFF)

/-- The bytes of a session's memory (R425): the size of a decode stream's picture buffer and whether film grain applies are
known to no operand, and are free values (log entry 2). The bitstream ring lies where the driver names it. -/
def State.videoBytes (s : State) (v : Video) : Nat × State :=
  if v.encodes then ((v.refs + 1) * v.frameBytes + 8 * ceilDiv v.width 16 * ceilDiv v.height 16, s)
  else
    let p := s.draw
    let g := p.2.draw
    ((p.1 % 16 + 2) * v.frameBytes + (if v.codec = 4 ∧ g.1 % 2 = 1 then v.frameBytes else 0), g.2)

/-- VX may not run sessions (R426, R600). -/
def State.vxDown (s : State) : Bool := s.fw.vxRefused || s.fbit f_rasFailed_vx

/-- A session that was given its blocks, or none, is open, or refused. -/
def State.videoOpened (s : State) (q : Nat) (t : Taken) (n : Nat) (v : Video) : Option (List PoolBlock × State) → State
  | none => s.completeTaken q t (Done.of stPoolExhausted)
  | some x =>
    let rel := if v.group = 0xFF then 0 else (s.obj (s.fget (f_iaGroup_ready_obj v.group))).toNat
    let s1 := { x.2 with fw := { x.2.fw with videos := x.2.fw.videos ++ [{ v with blocks := x.1, releases := rel }] } }
    s1.videoLoad.completeTaken q t { Done.of stSuccess with result0 := n }

/-- VIDEO_OPEN (R421, R425, R497). -/
def execVideoOpen (q : Fin 16) (s : State) : Host.Outcome State Fault Refusal :=
  .next (s.command q.val 0x50 fun t =>
    let n := ((List.range 16).find? fun i => (s.video i).isNone).getD 16
    let v := videoOf t n (s.ringParty q.val) q.val
    let no := fun (st : Nat) => s.completeTaken q.val t (Done.of st)
    if !s.videoOk v then no stInvalidField
    else if s.vxDown then no stVideoFault
    else if !s.videoFits v then no stVideoCapacity
    else
      let b := s.videoBytes v
      s.videoOpened q.val t n v (b.2.allocSides true (ceilDiv b.1 blockBytes)))

/-- Remove a session, and complete its close with a status. -/
def State.endVideo (s : State) (v : Video) (status : Nat) : State :=
  let s1 := { s with fw := { s.fw with videos := s.fw.videos.filter fun x => x.session != v.session } }
  let s2 := (s1.freeBlocks v.blocks).videoLoad
  match v.closing with
  | some (q, i) => match (s2.pair q).taken.find? fun t => t.index == i with
    | some t => s2.completeTaken q t (Done.of status)
    | none => s2
  | none => s2

/-- Complete the descriptor that submitted a frame. -/
def State.frameStatus (s : State) (f : VideoFrame) (status : Nat) : State :=
  match f.cmd with
  | some (q, i) => match (s.pair q).taken.find? fun t => t.index == i with
    | some t => s.completeTaken q t (Done.of status)
    | none => s
  | none => s

/-- VIDEO_FRAME (R422, R497): the frame joins its session's queue. -/
def execVideoFrame (q : Fin 16) (s : State) : Host.Outcome State Fault Refusal :=
  .next (s.command q.val 0x51 fun t =>
    match s.video (t.field 16 1) with
    | none => s.completeTaken q.val t (Done.of stInvalidField)
    | some v =>
      let input := t.field 24 8
      let n := t.field 32 4
      let output := t.field 40 8
      if v.party ≠ s.ringParty q.val ∨ v.closing.isSome ∨ v.group ≠ 0xFF ∨ !s.inArea input n ∨
          (!v.encodes ∧ !s.inArea output v.frameBytes) then s.completeTaken q.val t (Done.of stInvalidField)
      else (s.begin_ q.val t).setVideo { v with queue := v.queue ++ [⟨input, n, output, t.field 48 8, some (q.val, t.index)⟩] })

/-- VIDEO_CLOSE (R497). -/
def execVideoClose (q : Fin 16) (s : State) : Host.Outcome State Fault Refusal :=
  .next (s.command q.val 0x52 fun t =>
    match s.video (t.field 16 1) with
    | none => s.completeTaken q.val t (Done.of stInvalidField)
    | some v =>
      if v.party ≠ s.ringParty q.val ∨ v.closing.isSome then s.completeTaken q.val t (Done.of stInvalidField)
      else
        let s1 := s.begin_ q.val t
        let v1 := { v with closing := some (q.val, t.index) }
        if v.queue.isEmpty then s1.endVideo v1 stSuccess else s1.setVideo v1)

/-! Frames. -/

/-- The device address of a line of a delivery target (R410). -/
def targetAddr (target line : Nat) : Nat := if target < 8 then spAddr target (64 * line) else hbAddr (64 * line)

/-- Where a stream's buffer lies (R366, R410). -/
def State.bufferAddr (s : State) (n b : Nat) : Nat :=
  if s.isPipe n then
    let c := s.fget (f_iaStream_pipe_ctx n)
    targetAddr (s.fget (f_ipCtx_out_target 0 c)) (s.fget (f_ipCtx_out_base_line 0 c) + b * s.fget (f_ipCtx_buffer_stride 0 c))
  else targetAddr (s.fget (f_iaStream_raw_target n)) (s.rawLine n b 0)

/-- VX stands: its clock is stopped, or its sequencer does not run (R426, R565). -/
def State.vxStands (s : State) : Bool := s.stopped 7 || s.fget f_vxSeqStatus_state != 2

/-- BOUND_ENCODE_FRAME (R422): the group's ready object has reached the session's next release; VX reads its record and
takes the stream's buffer where the record marks it present. -/
def execBoundEncodeFrame (n : Fin 16) (s : State) : Host.Outcome State Fault Refusal :=
  match if s.stopped 7 then none else s.video n.val with
  | none => .next s
  | some v =>
    let r := v.releases + 1
    if v.group = 0xFF ∨ !reached (s.obj (s.fget (f_iaGroup_ready_obj v.group))) (BitVec.ofNat 32 r) then .next s
    else
      let count := s.fget (f_iaGroup_records_m1 v.group) + 1
      let a := hbAddr (64 * (s.fget (f_iaGroup_record_base_line v.group) + 9 * ((r % 2 ^ 32 + count - 1) % count)))
      let e := s.bytes (a + 0x40 + 16 * v.stream) 16
      let stamp := (sext 64 (s.num (a + 0x10) 8) + sext 32 (fieldAt e 0 4) : Int)
      let f : VideoFrame := ⟨s.bufferAddr v.stream (fieldAt e 6 1), v.frameBytes, 0, toTwos 64 stamp, none⟩
      .next (s.setVideo { v with releases := r, queue := if bit (fieldAt e 7 1) 0 then v.queue ++ [f] else v.queue })

/-- The bytes of a picture that a pipe has delivered (R410, R419): the rows of its planes, one after another. -/
def State.pictureBytes (s : State) (v : Video) (n base : Nat) : List Byte :=
  let c := s.streamCtx n
  let e := if v.depth = 10 then 2 else 1
  let plane := fun (p w h : Nat) => (List.range h).flatMap fun r =>
    s.bytes (base + 64 * (p * s.fget (f_ipCtx_plane_stride 0 c) + r * s.fget (f_ipCtx_out_row_stride 0 c))) (w * e)
  plane 0 v.width v.height ++ plane 1 (v.width / 2) (v.height / 2) ++ plane 2 (v.width / 2) (v.height / 2)

/-- The bytes of a session's oldest frame, as VX reads them through port P9 (R422); `host` is what the host's memory answers. -/
def State.frameInput (s : State) (host : List Byte) (v : Video) (f : VideoFrame) : List Byte :=
  if f.cmd.isNone && s.isPipe v.stream then s.pictureBytes v v.stream f.input
  else if v.group ≠ 0xFF then s.bytes f.input f.bytes
  else (s.areaRead host f.input f.bytes).1

/-- Write into a session's bitstream ring from its position on. -/
def State.ringWrite (s : State) (v : Video) (d : List Byte) : State :=
  let room := v.bitsLen - v.bitsPos
  let s1 := s.areaWrite (v.bits + v.bitsPos) (d.take room)
  if room < d.length then s1.areaWrite v.bits ((d.drop room).take v.bitsLen) else s1

/-- A frame record (R425): skipped, VIDEO_STREAM_ERROR and key are flags 0 to 2. -/
def frameRecord (n picType qp stamp : Nat) (skipped error key : Bool) : List Byte :=
  leBytes 4 n ++ leBytes 1 picType ++ leBytes 1 qp ++ leBytes 2 (b2n skipped + 2 * b2n error + 4 * b2n key) ++ leBytes 8 stamp ++ zeros 16

/-- Type (0 for I, 1 for P), QP and skip of the next encoded picture (R423): the first is an I picture and never skipped, CQP
takes the type's QP, CBR and VBR stay between qp_min and qp_max, and a skipped picture is a P picture at qp_max. -/
def Video.coding (v : Video) (k : Nat) : Nat × Nat × Bool :=
  let type := if v.pictures = 0 then 0 else Config.videoType k % 2
  let lo := v.qps.getD 2 0
  let hi := v.qps.getD 3 0
  if v.control = 0 then (type, v.qps.getD type 0, false)
  else if v.pictures ≠ 0 ∧ Config.videoSkip k = true then (1, hi, true)
  else (type, lo + Config.videoQp k % (hi + 1 - lo), false)

/-- A frame of a session is done: its descriptor completes, the done object is signalled, and a close that waited for the last
frame ends the session (R422, R497). -/
def State.frameEnds (s : State) (v : Video) (f : VideoFrame) : State :=
  let s1 := ((s.setVideo v).signalObj (0x7F20 + v.session) 1).frameStatus f stSuccess
  if v.queue.isEmpty ∧ v.closing.isSome then s1.endVideo v stSuccess else s1

/-- VX codes a session's oldest frame (R422 to R425): the bitstream with its frame record goes into the ring. -/
def State.encodeFrame (s : State) (v : Video) (f : VideoFrame) (input : List Byte) : State :=
  let k := Config.videoNext v.params v.coder input
  let c := v.coding k
  let d := Config.videoBytes k
  let s1 := s.ringWrite v (d ++ frameRecord d.length c.1 c.2.1 f.stamp c.2.2 false (c.1 == 0))
  let s2 := if c.2.2 then s1.raise f_vxEvent_hrd_skip else s1
  s2.frameEnds { v with queue := v.queue.drop 1, pictures := v.pictures + 1, coder := k,
                        bitsPos := (v.bitsPos + d.length + 32) % max 1 v.bitsLen } f

/-- VX decodes a session's oldest access unit (R420, R425): its picture, unless it has an error or a key picture is awaited
after one; the frame record goes to a bitstream ring that the session names. -/
def State.decodeFrame (s : State) (v : Video) (f : VideoFrame) (picture : List Byte) (picType qp : Nat) (error key : Bool) : State :=
  let shows := !error && (!v.skipTo || key)
  let s1 := if shows then s.areaWrite f.output (picture.take v.frameBytes) else s
  let record := 32 ≤ v.bitsLen && s.inArea v.bits v.bitsLen
  let s2 := if record then
      s1.ringWrite v (frameRecord f.bytes picType qp f.stamp false error key) else s1
  let s3 := if error then s2.raise f_vxEvent_stream_error else s2
  s3.frameEnds { v with
    queue := v.queue.drop 1, pictures := v.pictures + 1, skipTo := !shows,
    bitsPos := if record then (v.bitsPos + 32) % v.bitsLen else v.bitsPos } f

/-- VIDEO_FRAME_DONE (R420, R422 to R425): VX finishes the session's oldest frame, or pauses while it stands. -/
def execVideoFrameDone (n : Fin 16) (host picture : List Byte) (picType : Fin 2) (qp : Fin 256) (error key : Bool) (s : State) :
    Host.Outcome State Fault Refusal :=
  match if s.vxStands then none else s.video n.val with
  | none => .next s
  | some v => match v.queue with
    | [] => .next s
    | f :: _ =>
      .next (if v.encodes then s.encodeFrame v f (s.frameInput host v f) else s.decodeFrame v f picture picType.val qp.val error key)

/-! The sequencer. -/

/-- Hold the sequencer, copy an image into its memory and check the CRC of each 4 KiB block (R426). -/
def State.vxHold (s : State) (image : List Byte) (crcs : List Nat) : State :=
  let d := image.take 0x40000
  let bad := (List.zip (chunks 4096 d) crcs).findIdx? fun b => crc32c b.1 != b.2
  let s1 := { s with fw := { s.fw with vxMem := d, vxRefused := bad.isSome } }
  let s2 := (s1.fput f_vxSeqCtrl_hold 1).fput f_vxSeqStatus_state (if bad.isSome then 3 else 1)
  match bad with
  | some b => s2.fput f_vxSeqStatus_bad_block b
  | none => s2

/-- Release the sequencer when every block has checked. -/
def State.vxRelease (s : State) : State :=
  if s.fget f_vxSeqStatus_state = 1 then (s.fput f_vxSeqCtrl_hold 0).fput f_vxSeqStatus_state 2 else s

/-- Reset VX and hold the sequencer (R434). -/
def State.vxReset (s : State) : State :=
  (((s.fput f_vxSeqCtrl_hold 1).fput f_vxSeqStatus_state 0).fput f_vxSeqStatus_heartbeat 0).fput f_vxSeqStatus_bad_block 0

/-- VX_SEQ_HOLD (R426): hold is written, the image is copied and its blocks are checked. -/
def execVxSeqHold (image : List Byte) (crcs : List Nat) (s : State) : Host.Outcome State Fault Refusal := .next (s.vxHold image crcs)

/-- VX_SEQ_RELEASE (R426). -/
def execVxSeqRelease (s : State) : Host.Outcome State Fault Refusal := .next s.vxRelease

/-- VX_SEQ_RESET (R434). -/
def execVxSeqReset (s : State) : Host.Outcome State Fault Refusal := .next s.vxReset

/-- End every session with VIDEO_FAULT, each done object signalled once (R427). -/
def State.failVideos (s : State) : State :=
  s.fw.videos.foldl (fun s v =>
    ((v.queue.foldl (fun s f => s.frameStatus f stVideoFault) s).signalObj (0x7F20 + v.session) 1).endVideo v stVideoFault) s

/-- VX_HEARTBEAT_TIMEOUT (R427). -/
def execVxHeartbeatTimeout (image : List Byte) (crcs : List Nat) (s : State) : Host.Outcome State Fault Refusal :=
  if s.fget f_vxSeqStatus_state ≠ 2 ∨ s.mpStands then .next s
  else
    let beat := s.fget f_vxSeqStatus_heartbeat
    let s1 := (s.vxReset.failVideos).flag f_vxEvent_seq_fault
    let s2 := (s1.report 9 0 0x0048 beat).event 0x50 0xFF []
    .next (s2.vxHold image crcs).vxRelease

end Sys2Proof.Machine
end

