-- ==== Sys2Proof/Machine/Resets.lean ====
section
/-! DEFINITION. Resets (R637 to R641, R653), the boot stages (R530 to R537), and the boot window (R481). -/

namespace Sys2Proof.Machine

/-! What a main-domain reset leaves (R639). -/

/-- Registers of the always-on domain: AOC and JR. -/
def alwaysOn (off : Nat) : Bool :=
  (decide (0x920000 ≤ off) && decide (off < 0x930000)) || (decide (0x960000 ≤ off) && decide (off < 0x970000))

/-- The main domains at their reset values; the sediment record, the AOC and JR registers, LPDDR's cells, the fuses and
what the flags "since power-on" say stay. -/
def State.resetMain (s : State) : State :=
  let seen := s.fget f_scStatus_tamper_seen
  let unlocked := s.fget f_scStatus_debug_unlocked
  let r : State :=
    { State.reset with
      pending := s.pending, mem := s.mem, lineTag := s.lineTag, ecc := s.ecc, regs := mapDrop (fun k => !alwaysOn k) s.regs,
      sediment := s.sediment, aonTicks := s.aonTicks, refCount := s.refCount, timeRuns := false, slotGen := s.slotGen,
      mc := { McRt.reset with era := s.mc.era, inlineNow := s.mc.inlineNow, pattern := s.mc.pattern },
      sc := { ScRt.reset with lifeBlown := s.sc.lifeBlown, svBlown := s.sc.svBlown, udsRetired := s.sc.udsRetired,
                              nextSession := s.sc.nextSession },
      jr := { s.jr with queue := s.jr.queue.filter fun a => a.writer == 0 },
      aoc := { s.aoc with owns := true, released := false, profiles := [] },
      fresh := s.fresh, out := s.out }
  ((r.fput f_aocWdog_arm 0).fput f_scStatus_tamper_seen seen).fput f_scStatus_debug_unlocked unlocked

/-- The hardware clears scratchpads, routine stores and horizon buffer while the main domains leave reset (R653). -/
def State.clearMemories (s : State) : State :=
  (List.range 8).foldl (fun s c => (s.clearRange (spAddr c 0) spBytes).clearRange (rsAddr c 0) 0x40000) (s.clearRange (hbAddr 0) hbBytes)

/-- Stage 1 of R530: the fuses, CDI_L0, the FAB and IO clocks (R562), and the wait for an image. -/
def State.stage1 (s : State) : State :=
  let s1 := { s with sc := { s.sc with cdi0 := s.deriveCdi0 } }
  let s2 := (s1.fput f_scStatus_life_cycle s.lifeState).fput f_scStatus_sv_counter s.fuseCount
  let s3 := [4, 8].foldl (fun s k =>
    let s := ((s.fput (f_cruPllCtrl_enable k) 1).fput (f_cruPllStatus_locked k) 1).fput (f_cruPllStatus_ready k) 1
    (s.fput (f_cruDomain_src k) 1).fput (f_cruDomain_src_now k) 1) s2
  s3.fput f_hiBoot_state 1

/-- The main domains leave reset, once nothing holds them (R640, R653). -/
def State.mainRelease (s : State) : State :=
  let a := s.aoc
  if a.perst || !a.powered || a.tripped || a.porst then s
  else ({ s.clearMemories with timeRuns := true }).stage1

/-- A warm reset begins (R604, R639, R640): WARM_RESET with its cause, LPDDR in self-refresh, the reset flush, main reset. -/
def State.warmBegin (s : State) (cause : Nat) : State :=
  let s1 := s.sediment' 0x10 0 0x0043 cause
  (((s1.srEnter 1).flushAll 2).resetMain).newSlotKeys

/-- A warm reset whose trigger has ended at once. -/
def State.warmReset (s : State) (cause : Nat) : State := if s.timeRuns then (s.warmBegin cause).mainRelease else s

/-- The release after a thermal trip (R576): a warm reset that arrives while every sensor is cool. -/
def State.tripRelease (s : State) : State :=
  let s1 := (List.range 4).foldl (fun s d => s.fput (f_cruDomain_src_now d) 0) { s with aoc := { s.aoc with tripped := false } }
  ((s1.sediment' 0x10 0 0x0043 5).flushAll 2).emit (.pin 64 true)

/-- PERST_ASSERT (R639, R640): `cool` says whether every sensor reads below 95 °C, which a trip's release asks. -/
def execPerstAssert (cool : Bool) (s : State) : Host.Outcome State Fault Refusal :=
  let hold := fun (s : State) => { s with aoc := { s.aoc with perst := true } }
  if s.aoc.tripped then .next (hold (if cool then s.tripRelease else s))
  else if s.timeRuns then .next (hold (s.warmBegin 0))
  else .next (hold s)

/-- PERST_DEASSERT (R637, R640). -/
def execPerstDeassert (s : State) : Host.Outcome State Fault Refusal :=
  let s1 := { s with aoc := { s.aoc with perst := false } }
  .next (if s.timeRuns then s1 else s1.mainRelease)

/-- FUNCTION_LEVEL_RESET (R474, R639). -/
def execFunctionLevelReset (s : State) : Host.Outcome State Fault Refusal := .next (s.warmReset 1)

/-- MAIN_PWRGD_RISE (R637 to R639): a power-on reset, or a slumber wake; a device whose TESTEN reads high stays in reset. -/
def execMainPwrgdRise (testen : Bool) (s : State) : Host.Outcome State Fault Refusal :=
  if s.aoc.porst then .next s
  else
    let wake := s.aoc.slumber
    let s1 := s.resetMain
    let s2 := if wake then s1
      else (((s1.newSlotKeys).fput f_aocWdog_expired 0).fput f_scStatus_tamper_seen 0).fput f_scStatus_debug_unlocked 0
    let s3 := if s.aoc.tripped then s2.emit (.pin 64 true) else s2
    let s4 := { s3 with aoc := { s3.aoc with powered := !testen, tripped := false, perst := false, slumber := false } }
    .next s4.mainRelease

/-- MAIN_PWRGD_FALL (R638): outside slumber the AOC acts as on a power failure. -/
def execMainPwrgdFall (s : State) : Host.Outcome State Fault Refusal :=
  if !s.aoc.powered then .next s
  else
    let s1 := if s.aoc.slumber then s else (s.sediment' 0x10 0 0x0042 0).powerFlush
    let s2 := s1.resetMain
    .next { s2 with aoc := { s2.aoc with powered := false } }

/-- AON_PORST_ASSERT (R639): the whole device at always-on power-on reset; the flash and the fuses keep what they hold, and
LPDDR's contents are lost. -/
def execAonPorstAssert (s : State) : Host.Outcome State Fault Refusal :=
  let s1 := s.newSlotKeys
  .next { State.reset with
    pending := s.pending, slotGen := s.slotGen, timeRuns := false,
    mc := { McRt.reset with era := s1.mc.era },
    sc := { ScRt.reset with lifeBlown := s.sc.lifeBlown, svBlown := s.sc.svBlown, udsRetired := s.sc.udsRetired },
    jr := { JrRt.reset with flash := s.jr.flash },
    aoc := { AocRt.reset with powered := false, porst := true },
    fresh := s.fresh, out := s.out }

/-- AON_PORST_RELEASE (R530, R637): the AOC starts and the journal is mounted. -/
def execAonPorstRelease (s : State) : Host.Outcome State Fault Refusal :=
  let s1 := { s with aoc := { s.aoc with porst := false } }
  .next (if s.fget f_jrStatus_state = 0 then s1.jrMount else s1)

/-! The boot window (R481). -/

/-- A host access that the endpoint refuses (R477, R481). -/
def State.refuseAccess (s : State) (off : Nat) : State := (s.emit (.refusedAccess off)).raise f_hiEvent_ur_access

/-- A write in the boot window: taken in ascending order; a write below the highest offset written, or while the SC checks
or has not started, is discarded. -/
def State.bootWrite (s : State) (off : Nat) (d : List Byte) : State :=
  let st := s.fget f_hiBoot_state
  if 0x80000 < off + d.length then s.refuseAccess off
  else
    let old := s.host.image.length
    if st = 0 ∨ 3 ≤ st ∨ off < old ∨ d.isEmpty then s
    else
      let image := s.host.image ++ zeros (off - old) ++ d
      let done := image.length / 4096 - (if off = old then old else off) / 4096
      let s1 := { s with host := { s.host with image := image } }
      (s1.fput f_hiBoot_blocks_checked (s.fget f_hiBoot_blocks_checked + done)).fput f_hiBoot_state 2

/-- BOOT_WINDOW_WRITE (R481); from the release on the window is closed. -/
def execBootWindowWrite (off : Nat) (data : List Byte) (s : State) : Host.Outcome State Fault Refusal :=
  .next (if s.fget f_hiBoot_state = 4 then s else s.bootWrite off data)

/-! The checks (R533, R534). -/

/-- The items of R534 that fail, as the mask of BOOT_CHECK (R602). -/
def State.bootChecks (s : State) (image : List Byte) : Nat :=
  let m := image.take 8192
  let blocks := fieldAt m 8 2
  let sv := fieldAt m 0x10 1
  let idx := fieldAt m 0x11 1
  let pub := (m.drop 0x40).take 96
  let sig := (m.drop 0xA0).take 96
  let hash := fun b => (m.drop (0x100 + 48 * b)).take 48
  let code := image.drop 8192
  let ok1 := fieldAt m 0 4 == 0x4D4B4C48 && fieldAt m 4 2 == 1 && decide (1 ≤ blocks) && decide (blocks ≤ 126) &&
    fieldAt m 0xC 4 % 4 == 0 && decide (fieldAt m 0xC 4 < 4096 * blocks) && decide (sv ≤ 64) && decide (idx ≤ 1)
  let ok2 := s.lifeState != 0 && Config.rootKeyDigest idx == some (Config.sha384 pub) && !Config.keyRevoked idx
  let ok3 := Config.ecdsaVerify pub (Config.sha384 (m.take 0xA0 ++ zeros 96 ++ m.drop 0x100)) sig
  let ok4 := (List.range (min blocks 126)).all fun b => Config.sha384 ((code.drop (4096 * b)).take 4096) == hash b
  let ok5 := s.fget f_hiBootLen_bytes == 8192 + 4096 * blocks
  let ok6 := decide (s.fuseCount ≤ sv)
  let ok7 := decide (1 ≤ s.lifeState) && decide (s.lifeState ≤ 3) && !s.fbit f_scStatus_debug_unlocked
  2 * b2n (!ok1) + 4 * b2n (!ok2) + 8 * b2n (!ok3) + 16 * b2n (!ok4) + 32 * b2n (!ok5) + 64 * b2n (!ok6) + 128 * b2n (!ok7)

/-- The Alias certificate's contents (R538): manifest digest, security version, flags and public key, signed with the
DeviceID key. Its X.509 form is the standard's (log entry 23). -/
def State.aliasCertificate (s : State) (manifest : List Byte) : List Byte :=
  let body := Config.sha384 manifest ++ leBytes 1 (fieldAt manifest 0x10 1) ++ leBytes 1 s.flagsByte ++ Config.publicKey s.aliasKey
  body ++ Config.ecdsaSign s.deviceIdKey body s.fresh

/-- The board's pad table in the journal (R632): the firmware record of type 0x21 with key 0x0001. -/
def State.padTable (s : State) : Option (List Byte) :=
  ((s.jrRecs.filter fun r => r.type == 0x21 && fieldAt r.payload 0 2 == 1).getLast?).map fun r => r.payload.drop 2

/-- Horlek applies the pad table at stage 4. -/
def State.applyPads (s : State) : State :=
  match s.padTable with
  | none => s
  | some d => (List.range 64).foldl (fun s n => s.pinMuxWrite n (BitVec.ofNat 32 (fieldAt d (4 * n) 1))) s

/-- The SC blows the anti-rollback fuses after an attested release whose manifest asks it (R536). -/
def State.blowFuses (s : State) (manifest : List Byte) : State :=
  if s.fbit f_scStatus_attested && bit (fieldAt manifest 6 2) 0 then
    let s1 := { s with sc := { s.sc with svBlown := max s.sc.svBlown (fieldAt manifest 0x10 1) } }
    s1.fput f_scStatus_sv_counter s1.fuseCount
  else s

/-- MP SRAM offset `off` (R6, R533): it is private to the MP and stands at no device address, so it is kept above them. -/
def mpSram (off : Nat) : Nat := 2 ^ 48 + off

/-- go (R530 stages 3 and 4, R531, R534 to R537): the final checks, CDI_L1 and the Alias key, the image in MP SRAM, the release of
both MP harts, the replay of key records, the pads, and the fuses. -/
def State.bootGo (s : State) : State :=
  let st := s.fget f_hiBoot_state
  if st ≠ 1 ∧ st ≠ 2 then s
  else
    let image := s.host.image ++ zeros (0x80000 - s.host.image.length)
    let m := image.take 8192
    let fails := s.bootChecks image
    let bad := decide (fails ≠ 0)
    let s1 := ((s.fput f_hiBoot_unattested (b2n bad)).fput f_scStatus_keys_locked (b2n bad)).fput f_scStatus_attested (b2n (!bad))
    let s2 := if bad then s1.sediment' 0x10 0 0x0047 fails else s1
    let cdi1 := Config.hmac384 s2.sc.cdi0
      (Config.sha384 m ++ leBytes 1 (fieldAt m 0x10 1) ++ leBytes 1 s2.fuseCount ++ leBytes 1 s2.flagsByte)
    let s3 := { s2 with sc := { s2.sc with cdi1 := cdi1, manifest := m } }
    let s4 := { s3 with sc := { s3.sc with aliasCert := s3.aliasCertificate m }, fresh := s3.fresh + 1, aoc := { s3.aoc with released := true } }
    let s5 := ((s4.fput f_hiBoot_state 4).fput f_hiBoot_go 0).fput f_mpStatus_hart0_running 1
    let n := 4096 * min 126 (fieldAt m 8 2)
    let s6 := s5.setBytes (mpSram 0) ((image.drop 8192).take n)
    ((s6.fput f_mpStatus_hart1_running 1).keyReplay.applyPads).blowFuses m

/-- BOOT_GO (R534). -/
def execBootGo (s : State) : Host.Outcome State Fault Refusal := .next s.bootGo

end Sys2Proof.Machine
end

