-- ==== Sys2Proof/Machine/Trust.lean ====
section
/-! DEFINITION. The security controller's services: the mailbox (R556), SPDM (R538 to R540), and the vendor-defined requests
(R527, R529, R544, R545, R550). The forms that the SPDM standard gives its messages are log entry 23's. -/

namespace Sys2Proof.Machine

/-! The mailbox (R556). Two arguments make an address, low word first; what each argument of an operation names is log entry
24's. -/

def State.mboxArg (s : State) (i : Nat) : Nat := s.fget (f_scMboxArg_arg i)
def State.mboxAddr (s : State) (i : Nat) : Nat := s.mboxArg i + 2 ^ 32 * s.mboxArg (i + 1)

/-- The mailbox's answer: 0 done, 1 SEAL_REJECTED cause, 2 keys locked, 3 bad argument. -/
def State.mboxDone (s : State) (op status : Nat) : State :=
  ((s.fput f_scMboxCmd_op op).fput f_scMboxCmd_go 0).fput f_scMboxCmd_status status

/-- Run an operation of the mailbox that needs the sealing keys. -/
def State.mboxKeyed (s : State) (op : Nat) (f : State) : State := if s.keysLocked then s.mboxDone op 2 else f

/-- I/O entries of a job block for the mailbox: its list's blocks. -/
def State.mboxIo (s : State) (block : List Byte) : Option (List (List PoolBlock)) :=
  let n := fieldAt block 0x20 2
  let a := fieldAt block 0x28 8
  if 256 < n ∨ !s.inArea a (16 * n) then none else (s.parseIo (s.areaRead [] a (16 * n)).1).map fun l => l.map (·.2)

/-- Operation 1: unseal the envelope at arguments 0, 1 for the job block at arguments 2, 3. -/
def State.mboxUnseal (s : State) : State :=
  s.mboxKeyed 1 <|
    let env := s.mboxAddr 0
    let blk := s.mboxAddr 2
    if !s.inArea env 0x80 ∨ !s.inArea blk 256 then s.mboxDone 1 3
    else
      let b := (s.areaRead [] blk 256).1
      match s.mboxIo b with
      | none => s.mboxDone 1 3
      | some io =>
        let u := s.unsealEnvelope [] env b io
        if u.ok then ({ u.state with sc := { u.state.sc with sealedKey := u.key, sealedEnts := u.entries } }).mboxDone 1 0
        else u.state.mboxDone 1 1

/-- Operation 2: seal the outputs of the envelope last unsealed, for the job block at arguments 2, 3 and the slot in
argument 4. -/
def State.mboxSeal (s : State) : State :=
  s.mboxKeyed 2 <|
    let blk := s.mboxAddr 2
    if !s.inArea blk 256 ∨ 15 < s.mboxArg 4 then s.mboxDone 2 3
    else match s.mboxIo (s.areaRead [] blk 256).1 with
      | none => s.mboxDone 2 3
      | some io =>
        let s1 := s.sealOutputs s.sc.sealedKey (s.mboxArg 4) io s.sc.sealedEnts
        ({ s1 with sc := { s1.sc with sealedKey := [], sealedEnts := [] } }).mboxDone 2 0

/-- The adaptation state that arguments 4 (slot) and 5 (id) name. -/
def State.mboxAdapt (s : State) : Option Adapt := s.fw.adapts.find? fun a => a.party == s.mboxArg 4 && a.id == s.mboxArg 5

/-- Operation 3: export the state to the address in arguments 0, 1. -/
def State.mboxExport (s : State) : State :=
  s.mboxKeyed 3 <| match s.mboxAdapt with
    | none => s.mboxDone 3 3
    | some a => match s.exportState [] a with
      | none => s.mboxDone 3 1
      | some x => if s.inArea (s.mboxAddr 0) x.1.length then (x.2.areaWrite (s.mboxAddr 0) x.1).mboxDone 3 0 else s.mboxDone 3 3

/-- An import of operation 4 ends. -/
def State.mboxImported (s : State) : Option State → State
  | none => s.mboxDone 4 1
  | some s1 => s1.mboxDone 4 0

/-- Operation 4: import the state from the address in arguments 0, 1, argument 2 bytes. -/
def State.mboxImport (s : State) : State :=
  s.mboxKeyed 4 <| match s.mboxAdapt with
    | none => s.mboxDone 4 3
    | some a =>
      if !s.inArea (s.mboxAddr 0) (s.mboxArg 2) then s.mboxDone 4 3
      else match s.importPayload a (s.areaRead [] (s.mboxAddr 0) (s.mboxArg 2)).1 with
        | none => s.mboxDone 4 1
        | some p => s.mboxImported (s.importState a p.1 p.2)

/-- Operation 5: measure the resident package: its body_digest (R21, R540). -/
def State.mboxMeasure (s : State) : State :=
  let d := if s.fw.pkg.isSome then (s.pkgBytes.drop 0x30).take 48 else zeros 48
  ({ s with sc := { s.sc with measured := d } }).mboxDone 5 0

/-- Operation 6: release the slot in argument 0 after SLOT_RENEW. -/
def State.mboxRelease (s : State) : State :=
  let slot := s.mboxArg 0
  if s.sc.renewed.contains slot then ({ s with sc := { s.sc with renewed := s.sc.renewed.filter (· != slot) } }).mboxDone 6 0
  else s.mboxDone 6 3

/-- The MP asks the SC through the mailbox; both pause while the IO clock stands stopped (R565). -/
def State.mbox (s f : State) : State := if s.stopped 8 then s else f

/-- UNSEAL_ENVELOPE. -/
def execUnsealEnvelope (s : State) : Host.Outcome State Fault Refusal := .next (s.mbox s.mboxUnseal)
/-- SEAL_OUTPUTS. -/
def execSealOutputs (s : State) : Host.Outcome State Fault Refusal := .next (s.mbox s.mboxSeal)
/-- EXPORT_STATE. -/
def execExportState (s : State) : Host.Outcome State Fault Refusal := .next (s.mbox s.mboxExport)
/-- IMPORT_STATE. -/
def execImportState (s : State) : Host.Outcome State Fault Refusal := .next (s.mbox s.mboxImport)
/-- MEASURE_PACKAGE. -/
def execMeasurePackage (s : State) : Host.Outcome State Fault Refusal := .next (s.mbox s.mboxMeasure)
/-- RELEASE_SLOT. -/
def execReleaseSlot (s : State) : Host.Outcome State Fault Refusal := .next (s.mbox s.mboxRelease)

/-- The operation that a write of SC_MBOX_CMD with go names; a reserved operation is a bad argument. -/
def State.mboxRun (s : State) (op : Nat) : State :=
  match op with
  | 1 => s.mboxUnseal | 2 => s.mboxSeal | 3 => s.mboxExport | 4 => s.mboxImport | 5 => s.mboxMeasure | 6 => s.mboxRelease
  | _ => s.mboxDone op 3

/-! SPDM (R538 to R540). -/

/-- The SC runs. -/
def State.scUp (s : State) : Bool := s.timeRuns && s.fget f_hiBoot_state != 0 && !s.stopped 8

/-- An SPDM response, where the responder's negotiation has come as far as `stage` (1 version, 2 capabilities, 3
algorithms); an ERROR with code UnexpectedRequest before. -/
def State.spdmAt (s : State) (stage : Nat) (f : State) : State :=
  if !s.scUp then s else if s.sc.spdm < stage then s.emit (.spdm spdmError errUnexpected) else f

/-- The certificate chain: the DeviceID certificate of the journal, and the Alias certificate. -/
def State.certChain (s : State) : List Byte :=
  (match (s.jrRecs.filter fun r => r.type == 0x43).getLast? with | some r => r.payload | none => []) ++ s.sc.aliasCert

/-- Sign with the Alias key; each signature draws anew. -/
def State.aliasSign (s : State) (d : List Byte) : List Byte × State :=
  (Config.ecdsaSign s.aliasKey d s.fresh, { s with fresh := s.fresh + 1 })

/-- The TAPs that are open (R528): boundary scan, processor debug, system memory, SC manufacturing, SC and AOC debug. -/
def State.tapsOpen (s : State) : Nat :=
  match s.lifeState with
  | 0 => 0x1F | 1 => 0x0F | 2 => if s.fbit f_scStatus_debug_unlocked then 0x07 else 0x01 | 3 => 0x0F | _ => 0

/-- The value of a measurement block, and whether it is raw (R540). -/
def State.measurement (s : State) (i : Nat) : Option (Bool × List Byte) :=
  match i with
  | 1 => some (false, Config.romDigest)
  | 2 => some (false, Config.sha384 s.sc.manifest)
  | 3 => some (true, leBytes 1 (fieldAt s.sc.manifest 0x10 1) ++ leBytes 1 s.fuseCount)
  | 4 => some (true, leBytes 1 s.lifeFuse ++ leBytes 1 s.flagsByte)
  | 5 => some (false, if s.fw.pkg.isSome then s.sc.measured else zeros 48)
  | 6 => some (false, Config.sha384 s.fw.vxMem)
  | 7 => some (true, leBytes 1 s.tapsOpen)
  | _ => none

/-- A measurement block in DMTF form. -/
def measurementBlock (i : Nat) (m : Bool × List Byte) : List Byte :=
  leBytes 1 i ++ leBytes 1 1 ++ leBytes 2 (3 + m.2.length) ++ leBytes 1 (i + 128 * b2n m.1) ++ leBytes 2 m.2.length ++ m.2

/-- The blocks a request names: one index, or 0xFF for all. -/
def State.measurements (s : State) (i : Nat) : List Byte :=
  (if i = 0xFF then (List.range 7).map (· + 1) else [i]).flatMap fun k => match s.measurement k with
    | some m => measurementBlock k m
    | none => []

/-- GET_VERSION: SPDM 1.2; the negotiation begins anew. -/
def execGetVersion (s : State) : Host.Outcome State Fault Refusal :=
  .next (s.spdmAt 0 (({ s with sc := { s.sc with spdm := 1 } }).emit (.spdm 0x04 (leBytes 1 1 ++ leBytes 2 0x1200))))

/-- GET_CAPABILITIES. -/
def execGetCapabilities (s : State) : Host.Outcome State Fault Refusal :=
  .next (s.spdmAt 1 (({ s with sc := { s.sc with spdm := max 2 s.sc.spdm } }).emit (.spdm 0x61 [])))

/-- NEGOTIATE_ALGORITHMS (R539): `common` says whether the requester offers ECDSA P-384, SHA-384, secp384r1 and AES-256-GCM,
the only algorithms supported. -/
def execNegotiateAlgorithms (common : Bool) (s : State) : Host.Outcome State Fault Refusal :=
  .next (s.spdmAt 2 (if common then ({ s with sc := { s.sc with spdm := 3 } }).emit (.spdm 0x63 [])
    else s.emit (.spdm spdmError (leBytes 1 0x01 ++ zeros 1))))

/-- GET_DIGESTS. -/
def execGetDigests (s : State) : Host.Outcome State Fault Refusal := .next (s.spdmAt 3 (s.emit (.spdm 0x01 (Config.sha384 s.certChain))))

/-- GET_CERTIFICATE (R538): part of the chain. -/
def execGetCertificate (off len : Nat) (s : State) : Host.Outcome State Fault Refusal :=
  .next (s.spdmAt 3 (s.emit (.spdm 0x02 ((s.certChain.drop off).take len))))

/-- CHALLENGE: the chain's digest, a nonce of the DRBG, and a signature over both nonces by the Alias key. -/
def execChallenge (nonce : List Byte) (s : State) : Host.Outcome State Fault Refusal :=
  let n := s.drbg 32
  let d := Config.sha384 s.certChain ++ n.1
  let g := n.2.aliasSign (nonce ++ d)
  .next (s.spdmAt 3 (g.2.emit (.spdm 0x03 (d ++ g.1))))

/-- GET_MEASUREMENTS (R540). -/
def execGetMeasurements (index : Fin 256) (nonce : List Byte) (s : State) : Host.Outcome State Fault Refusal :=
  let b := s.measurements index.val
  let n := s.drbg 32
  let g := n.2.aliasSign (nonce ++ b ++ n.1)
  .next (s.spdmAt 3 (if b.isEmpty then s.emit (.spdm spdmError (leBytes 1 0x01 ++ zeros 1)) else g.2.emit (.spdm 0x60 (b ++ n.1 ++ g.1))))

/-- KEY_EXCHANGE (R539): a session, of at most four at once. -/
def execKeyExchange (pub : List Byte) (s : State) : Host.Outcome State Fault Refusal :=
  let k := s.drbg 48
  let own := Config.publicKey k.1
  let g := k.2.aliasSign (pub ++ own)
  let id := s.sc.nextSession
  .next (s.spdmAt 3 (if 4 ≤ s.sc.sessions.length then s.emit (.spdm spdmError (leBytes 1 0x0A ++ zeros 1))
    else State.emit { g.2 with sc := { g.2.sc with sessions := s.sc.sessions ++ [SpdmSession.mk id false], nextSession := id + 1 } }
      (.spdm 0x64 (leBytes 2 id ++ own ++ g.1))))

/-- The session of an identifier. -/
def State.session (s : State) (id : Nat) : Option SpdmSession := s.sc.sessions.find? fun x => x.id == id

/-- A session ends. -/
def State.dropSession (s : State) (id : Nat) : State := { s with sc := { s.sc with sessions := s.sc.sessions.filter fun x => x.id != id } }

/-- FINISH has completed a session. -/
def State.openSession (s : State) (id : Nat) : State :=
  { s with sc := { s.sc with sessions := s.sc.sessions.map fun (y : SpdmSession) => if y.id = id then SpdmSession.mk id true else y } }

/-- FINISH (R539): `good` says whether the requester's verify data holds; else the session ends. -/
def execFinish (id : Nat) (good : Bool) (s : State) : Host.Outcome State Fault Refusal :=
  .next (s.spdmAt 3 (match s.session id with
    | none => s.emit (.spdm spdmError errUnexpected)
    | some x =>
      if x.open_ then s.emit (.spdm spdmError errUnexpected)
      else if !good then (s.dropSession id).emit (.spdm spdmError (leBytes 1 0x06 ++ zeros 1))
      else (s.openSession id).emit (.spdm 0x65 [])))

/-- Whether a session is open. -/
def State.inSession (s : State) (id : Nat) : Bool := match s.session id with | some x => x.open_ | none => false

/-- HEARTBEAT. -/
def execHeartbeat (id : Nat) (s : State) : Host.Outcome State Fault Refusal :=
  .next (s.spdmAt 3 (s.emit (if s.inSession id then .spdm 0x68 [] else .spdm spdmError errUnexpected)))

/-- END_SESSION. -/
def execEndSession (id : Nat) (s : State) : Host.Outcome State Fault Refusal :=
  .next (s.spdmAt 3 (if s.inSession id then (s.dropSession id).emit (.spdm 0x6C []) else s.emit (.spdm spdmError errUnexpected)))

/-! Vendor-defined requests (R544). -/

/-- A request that fails its conditions changes nothing. -/
def State.spdmRefuse (s : State) : State := s.emit (.spdm spdmError errUnexpected)

/-- PARTY_KEY_SET (R544, R545, R547). -/
def execPartyKeySet (id : Nat) (slot : Nat) (key proof : List Byte) (s : State) : Host.Outcome State Fault Refusal :=
  .next (s.spdmAt 3 (if s.inSession id then s.keyRequest ⟨1, slot, false, key, [], proof, none⟩ else s.spdmRefuse))

/-- PARTY_KEY_ERASE (R544). -/
def execPartyKeyErase (id : Nat) (slot : Nat) (s : State) : Host.Outcome State Fault Refusal :=
  .next (s.spdmAt 3 (if s.inSession id then s.keyRequest ⟨1, slot, true, [], [], [], none⟩ else s.spdmRefuse))

/-- RING_KEY_SET (R544, R550). -/
def execRingKeySet (id : Nat) (key ringId : List Byte) (s : State) : Host.Outcome State Fault Refusal :=
  .next (s.spdmAt 3 (if s.inSession id then s.keyRequest ⟨2, 0, false, key, (ringId ++ zeros 8).take 8, [], none⟩ else s.spdmRefuse))

/-- The MP closes a renewed slot's sequences and releases its adaptation state (R544). -/
def State.releaseParty (s : State) (p : Nat) : State :=
  let s1 := (s.fw.seqs.filter fun q => q.party == p).foldl (fun s q => s.closeSeq q.handle) s
  let gone := s1.fw.adapts.filter fun a => a.party == p
  ({ s1 with fw := { s1.fw with adapts := s1.fw.adapts.filter fun a => a.party != p } }).freeBlocks (gone.flatMap fun (a : Adapt) => a.live ++ a.work)

/-- SLOT_RENEW (R544): a fresh key in a slot that is not in use. -/
def execSlotRenew (slot : Nat) (s : State) : Host.Outcome State Fault Refusal :=
  .next (s.spdmAt 3 (
    if slot = 0 ∨ 15 < slot ∨ s.fbit (f_scSlot_in_use slot) = true then s.spdmRefuse
    else
      let s1 := s.renewSlotKey slot
      let s2 := (s1.fput (f_scSlot_renewals slot) ((s1.fget (f_scSlot_renewals slot) + 1) % 256)).releaseParty slot
      ({ s2 with sc := { s2.sc with renewed := s2.sc.renewed.filter (· != slot) ++ [slot] } }).emit (.spdm spdmVendor [])))

/-- Whether R527 lets a token move the life cycle to a fuse value. -/
def State.lifeMove (s : State) (target : Nat) : Bool := (target == 7 && s.lifeState == 2) || (target == 0xF && s.lifeState != 4)

/-- LIFECYCLE_SET (R527, R544, R612): RMA or SCRAPPED, after which keys are zeroised and the main domains reset. -/
def execLifecycleSet (target : BitVec 8) (token : List Byte) (s : State) : Host.Outcome State Fault Refusal :=
  .next (s.spdmAt 3 (
    let t := target.toNat
    if !s.lifeMove t ∨ !Config.ecdsaVerify Config.evlasKey (leBytes 8 Config.deviceId.toNat ++ leBytes 1 t) token then s.spdmRefuse
    else
      let s1 := (s.emit (.spdm spdmVendor [])).sediment' 0x10 0 0x0046 t
      let s2 := { s1 with sc := { s1.sc with lifeBlown := s1.sc.lifeBlown ||| t, udsRetired := true } }
      s2.zeroise.warmReset 4))

/-- A fresh debug challenge of 48 B. -/
def State.newChallenge (s : State) : State :=
  let n := s.drbg 48
  { n.2 with sc := { n.2.sc with challenge := n.1 } }

/-- DEBUG_CHALLENGE (R529), in PROD. -/
def execDebugChallenge (s : State) : Host.Outcome State Fault Refusal :=
  .next (s.spdmAt 3 (if s.lifeState ≠ 2 then s.spdmRefuse
    else
      let s1 := s.newChallenge
      s1.emit (.spdm spdmVendor s1.sc.challenge)))

/-- DEBUG_RESPONSE (R529): the signature over challenge, device identity and scope by the fused debug key unlocks debug and
zeroises slot keys 1 to 15; a wrong one is refused and draws a new challenge. -/
def execDebugResponse (pub sig : List Byte) (scope : BitVec 8) (s : State) : Host.Outcome State Fault Refusal :=
  .next (s.spdmAt 3 (
    if s.lifeState ≠ 2 ∨ s.sc.challenge.isEmpty then s.spdmRefuse
    else if Config.sha384 pub ≠ Config.debugKeyDigest ∨
        !Config.ecdsaVerify pub (s.sc.challenge ++ leBytes 8 Config.deviceId.toNat ++ [scope]) sig then s.newChallenge.spdmRefuse
    else
      let s1 := ((List.range 15).map (· + 1)).foldl (fun s i => s.renewSlotKey i) s
      let s2 := { s1 with sc := { s1.sc with challenge := [] } }
      ((s2.fput f_scStatus_debug_unlocked 1).markSealed).emit (.spdm spdmVendor [])))

end Sys2Proof.Machine
end

