-- ==== Sys2Proof/Machine/Clocks.lean ====
section
/-! DEFINITION. Clocks and PLLs (R557 to R567), the voltage loop (R568, R569), power states (R570 to R572), and the governor
with its limits (R573 to R578). Frequencies of the governor's terms stand in units of half a megahertz. -/

namespace Sys2Proof.Machine

/-! PLLs and domain sources. Domain `k` is fed by PLL `k`; domains 0 to 3 hold the arrays, 4 is FAB, 5 MEM, 7 VID, 8 IO. -/

/-- The source a domain uses: 0 REF, 1 its PLL, 2 OFF. -/
def State.srcNow (s : State) (d : Nat) : Nat := s.fget (f_cruDomain_src_now d)

/-- PG_DOMAIN_STATUS.mean_mhz of an array domain (R560, R585): 38 on REF, 0 while off, else f × (1 − d/2), its fraction cut. -/
def State.meanMhz (s : State) (k : Nat) : Nat :=
  match s.srcNow k with
  | 0 => 38
  | 1 =>
    let d := if s.fbit (f_cruPllCtrl_ss_en k) then min 20 (s.fget (f_cruPllCtrl_ss_depth k)) else 0
    s.fget (f_pgDomainStatus_set_mhz k) * (2000 - d) / 2000
  | _ => 0

/-- Report the means of the array domains anew. -/
def State.setMeans (s : State) : State := (List.range 4).foldl (fun s k => s.fput (f_pgDomainStatus_mean_mhz k) (s.meanMhz k)) s

/-- Stop a domain's clock (R564): the time, and the frequency at which its PLL lost lock. -/
def State.stopDomain (s : State) (k : Nat) : State :=
  let s1 := s.fput (f_cruDomain_stopped k) 1
  let f := if k < 4 then s.fget (f_pgDomainStatus_set_mhz k) else 0
  { s1 with clk := { s1.clk with
    stopAt := mapSet (fun _ => 0) s1.clk.stopAt k s.devTime.toNat, stopMhz := mapSet (fun _ => 0) s1.clk.stopMhz k f } }

/-- A PLL loses lock (R564, R566): its domain stops, or MEM moves to REF and self-refresh; the first relock attempt starts.
`noRef` says that the reference is lost: MEM then stops without self-refresh (R567). -/
def State.loseLock (s : State) (k : Nat) (noRef : Bool) : State :=
  if !s.fbit (f_cruPllStatus_locked k) then s
  else
    let s1 := (((s.fput (f_cruPllStatus_locked k) 0).fput (f_cruPllStatus_ready k) 0).fsat (f_cruPllStatus_losses k) 1).fput
      (f_cruPllStatus_attempts k) 1
    let s2 := ({ s1 with clk := { s1.clk with lost := s1.clk.lost ++ [k] } }).raise f_cruEvent_lock_lost
    if s2.srcNow k ≠ 1 then s2
    else if k = 5 ∧ noRef = false then (s2.fput (f_cruDomain_src_now 5) 0).srEnter 2
    else s2.stopDomain k

/-- PLL_LOCK_LOSS (R564). -/
def execPllLockLoss (k : Fin 9) (s : State) : Host.Outcome State Fault Refusal := .next (s.loseLock k.val false)

/-- Three attempts have failed (R567). -/
def State.failPll (s : State) (k : Nat) : State :=
  let s1 := (((s.fput (f_cruPllStatus_failed k) 1).flag f_cruEvent_pll_failed).sediment' 0x0A k 0x0031 0).limitOnce 7 k 0
  let s2 := { s1 with clk := { s1.clk with lost := s1.clk.lost.filter (· != k) } }
  if k < 4 then
    let fed := s2.fbit (f_cruDomain_stopped k)
    if !fed then s2
    else
      let s3 := if s2.jobCores / 4 ^ k % 4 ≠ 0 then s2.cond .clockFailed true else s2
      (s3.failCore (2 * k) 0x0A).failCore (2 * k + 1) 0x0A
  else if k = 5 then
    let fed := s.fbit (f_cruDomain_stopped 5) || s.mc.causes.contains 2
    if !fed then s2
    else
    let s3 := s2.mcPoisonHeld
    let s4 := if s.fbit (f_cruDomain_stopped 5) then s3.setMc { s3.mc with era := s3.mc.era + 1 } else s3
    if s4.jobCores = 0 then s4 else s4.cond .clockFailed true
  else if k = 7 ∧ s.fbit (f_cruDomain_stopped 7) = true then s2.failVideos
  else s2

/-- RELOCK_ATTEMPT_TIMEOUT (R566): the next of at most three attempts, or the PLL fails. -/
def execRelockAttemptTimeout (k : Fin 9) (s : State) : Host.Outcome State Fault Refusal :=
  if !s.clk.lost.contains k.val then .next s
  else
    let a := s.fget (f_cruPllStatus_attempts k.val)
    .next (if a < 3 then s.fput (f_cruPllStatus_attempts k.val) (a + 1) else s.failPll k.val)

/-- A frozen core adds the cycles of the stop to its freeze counter (R165, R566). -/
def State.addFreeze (s : State) (n cycles : Nat) : State :=
  if s.fbit (f_ncCtrl_count_en n) then
    s.fput64 (f_ncFreezeCycles_freeze_lo n) ((s.fget64 (f_ncFreezeCycles_freeze_lo n) + cycles) % 2 ^ 64)
  else s

/-- What waited for a domain's clock goes on (R558, R565): the movers of an array domain, everything on the fabric, and the
requests held at the memory controller. -/
def State.clockBack (s : State) (k : Nat) : State :=
  if k < 4 then (s.mvSettle (2 * k)).mvSettle (2 * k + 1)
  else if k = 4 then (((List.range 8).foldl (fun (s : State) n => s.mvSettle n) s.ringRestart).deliverHeld).pipesRun
  else if k = 5 then s.mcPull
  else s

/-- A domain whose PLL is ready again runs on it, unless the power-cap cut holds an array domain on REF (R566, R575). -/
def State.restartDomain (s : State) (k : Nat) : State :=
  let stopped := s.fbit (f_cruDomain_stopped k)
  let ns := s.devTime.toNat - mapGet (fun _ => 0) s.clk.stopAt k
  let cycles := ns * mapGet (fun _ => 0) s.clk.stopMhz k / 1000
  let s1 := s.fput (f_cruDomain_stopped k) 0
  let s2 := if stopped ∧ k < 4 then (s1.addFreeze (2 * k) cycles).addFreeze (2 * k + 1) cycles else s1
  let cut := decide (k < 4) && s.fbit f_pgPower_cut_active
  let s3 := if s.fget (f_cruDomain_src k) = 1 ∧ cut = false then s2.fput (f_cruDomain_src_now k) 1 else s2
  (if k = 5 then s3.srExit 2 else s3).clockBack k

/-- PLL_RELOCKED (R566). -/
def execPllRelocked (k : Fin 9) (s : State) : Host.Outcome State Fault Refusal :=
  if !s.clk.lost.contains k.val then .next s
  else
    let a := s.fget (f_cruPllStatus_attempts k.val)
    let s1 := (s.fput (f_cruPllStatus_locked k.val) 1).fput (f_cruPllStatus_ready k.val) 1
    let s2 := ({ s1 with clk := { s1.clk with lost := s1.clk.lost.filter (· != k.val) } }).restartDomain k.val
    .next (((s2.flag f_cruEvent_relocked).report 0x0A k.val 0x0030 a).limitOnce 6 k.val a).setMeans

/-- REF_LOST (R567): `count` edges of 38.4 MHz in the last period of the 32.768 kHz clock; within ±5 % of 1,171.875 the
reference is there. -/
def execRefLost (count : Nat) (s : State) : Host.Outcome State Fault Refusal :=
  if 35625 ≤ 32 * count ∧ 32 * count ≤ 39375 then .next s
  else
    let s1 := (s.flag f_cruEvent_ref_lost).sediment' 0x10 0 0x0032 count
    .next ((List.range 9).foldl (fun s k => s.loseLock k true) s1)

/-- The power-cap cut or a thermal trip holds an array domain. -/
def State.domainHeld (s : State) (d : Nat) : Bool := decide (d < 4) && (s.fbit f_pgPower_cut_active || s.aoc.tripped)

/-- A write of CRU_DOMAIN_d (R561, R582); a refused write is discarded whole. A domain that stands stopped keeps its source
until its PLL relocks (log entry 25). -/
def State.domainWrite (s : State) (d : Nat) (v : Word) : State :=
  let src := bits v.toNat 1 0
  let coresOff := !s.fbit (f_pgCorePwr_on (2 * d)) && !s.fbit (f_pgCorePwr_on (2 * d + 1))
  let bad := src == 3 || s.domainHeld d || (src == 1 && !s.fbit (f_cruPllStatus_ready d)) ||
    (src == 2 && (d == 4 || d == 5 || d == 8 || (decide (d < 4) && !coresOff)))
  if bad then s.raise f_cruEvent_switch_refused
  else
    let s1 := (s.fput (f_cruDomain_src d) src).fput (f_cruDomain_gate_disable d) (bits v.toNat 2 2)
    (if s.fbit (f_cruDomain_stopped d) then s1 else s1.fput (f_cruDomain_src_now d) src).setMeans

/-- DOMAIN_SOURCE_WRITE (R561). -/
def execDomainSourceWrite (d : Fin 9) (v : Word) (s : State) : Host.Outcome State Fault Refusal := .next (s.domainWrite d.val v)

/-- A write of CRU_PLL_CTRL_k (R561, R580): a disable of a PLL that its domain takes is refused whole. -/
def State.pllWrite (s : State) (k : Nat) (v : Word) : State :=
  let on := bit v.toNat 0
  if !on ∧ (s.srcNow k = 1 ∨ s.fget (f_cruDomain_src k) = 1) then s.raise f_cruEvent_switch_refused
  else
    let s1 := s.writeReg (f_cruPllCtrl_enable k).off v
    let s2 := if on then s1
      else
        let t := (s1.fput (f_cruPllStatus_locked k) 0).fput (f_cruPllStatus_ready k) 0
        { t with clk := { t.clk with lost := t.clk.lost.filter (· != k) } }
    s2.setMeans

/-- PLL_CTRL_WRITE (R580). -/
def execPllCtrlWrite (k : Fin 9) (v : Word) (s : State) : Host.Outcome State Fault Refusal := .next (s.pllWrite k.val v)

/-- PLL_READY (R561): an enabled PLL has held lock for 20 µs. -/
def execPllReady (k : Fin 9) (s : State) : Host.Outcome State Fault Refusal :=
  if !s.fbit (f_cruPllCtrl_enable k.val) || s.fbit (f_cruPllStatus_failed k.val) || s.clk.lost.contains k.val then .next s
  else .next ((s.fput (f_cruPllStatus_locked k.val) 1).fput (f_cruPllStatus_ready k.val) 1)

/-! The governor. -/

/-- 300 MHz. -/
def floorHalf : Nat := 600

/-- A ceiling of R574 moved down or up, between 300 and 800 MHz. -/
def moveDown (c n : Nat) : Nat := if c < floorHalf + n then floorHalf else c - n
def moveUp (c n : Nat) : Nat := min 1600 (c + n)

/-- The thermal and the voltage ceiling of an array domain; at reset neither holds it below 800 MHz. -/
def State.thermalCeil (s : State) (k : Nat) : Nat := mapGet (fun _ => 1600) s.clk.thermal k
def State.voltageCeil (s : State) (k : Nat) : Nat := mapGet (fun _ => 1600) s.clk.voltage k

/-- The five terms of an array domain, in R574's order. -/
def State.terms (s : State) (k : Nat) : List Nat :=
  [2 * max 300 (min 800 (s.fget (f_pgDomainReq_req_mhz k))), max floorHalf (2 * s.fget (f_pgLimitFmax_fmax_mhz k)), s.thermalCeil k,
   s.clk.power, s.voltageCeil k]

/-- The temperature of a sensor, in 1/16 °C. -/
def State.temp (s : State) (i : Nat) : Int := sext 12 (s.fget (f_pgTemp_temp i))

/-- Whether a core has stood at its V_max with slack below 8 % for 100 µs (R569). -/
def State.clipDue (s : State) (n : Nat) : Bool := decide (100 ≤ mapGet (fun _ => 0) s.clk.clipUs n)

/-- The thermal ceilings move (R574 term 3). -/
def State.moveThermal (s : State) : State :=
  let t : Int := 16 * s.fget f_pgLimitTemp_throttle_c
  let hot := fun i => decide (t ≤ s.temp i)
  let other := (List.range 8).any fun i => hot (16 + i)
  let down := fun k => other || (List.range 4).any fun i => hot (4 * k + i)
  let up := fun k => (List.range 4).all fun i => decide (s.temp (4 * k + i) ≤ t - 48)
  let m := (List.range 4).foldl (fun (m : Sparse Nat) k =>
    let c := s.thermalCeil k
    mapSet (fun _ => 1600) m k (if down k then moveDown c 50 else if up k then moveUp c 25 else c)) s.clk.thermal
  let s1 := { s with clk := { s.clk with thermal := m } }
  let s2 := if (List.range 4).any down then s1.raise f_pgEvent_throttled else s1
  (List.range 24).foldl (fun s i => s.limitEvent 1 i (toTwos 32 (s.temp i)) (hot i)) s2

/-- The power ceiling moves (R574 term 4). -/
def State.movePower (s : State) : State :=
  let p := 10 * s.fget f_pgLimitPower_psus_w
  let sec := s.fget f_pgPower_avg_1s
  let down := decide (p < sec)
  let up := decide (sec + 30 < p) && decide (s.fget f_pgPower_avg_1ms < p)
  let c := if down then moveDown s.clk.power 25 else if up then moveUp s.clk.power 25 else s.clk.power
  let s1 := { s with clk := { s.clk with power := c } }
  (if down then s1.raise f_pgEvent_power_clipped else s1).limitEvent 2 0 (100 * sec) down

/-- The voltage ceilings move (R569, R574 term 5). -/
def State.moveVoltage (s : State) : State :=
  let s1 := (List.range 8).foldl (fun s n =>
    s.limitEvent 4 n (s.fget (f_pgCoreV_v_mv n)) (s.clipDue n)) s
  (List.range 8).foldl (fun (s : State) n =>
    if !s.clipDue n then s
    else
      let k := n / 2
      ({ s with clk := { s.clk with voltage := mapSet (fun _ => 1600) s.clk.voltage k (moveDown (s.voltageCeil k) 25),
                                    clipUs := mapSet (fun _ => 0) s.clk.clipUs n 0 } }).raise f_pgEvent_voltage_clipped) s1

/-- Every domain's frequency is the least of its terms (R574, R585); a target in whole megahertz stays at or below them. -/
def State.setTargets (s : State) : State :=
  (List.range 4).foldl (fun s k =>
    let l := s.terms k
    let m := l.foldl min 1600
    (s.fput (f_pgDomainStatus_set_mhz k) (m / 2)).fput (f_pgDomainStatus_clip k) (l.findIdx (· == m) + 1)) s

/-- Whether every array domain stands at 300 MHz. -/
def State.allAtFloor (s : State) : Bool := (List.range 4).all fun k => s.fget (f_pgDomainStatus_set_mhz k) == 300

/-- A job that the governor ends (R577). -/
def State.jobLimit (s : State) (sensor data : Nat) : State :=
  if s.jobCores = 0 ∨ s.conds.contains .hardwareLimit = true then s
  else (s.sediment' 0x10 sensor 0x004C data).cond .hardwareLimit true

/-- GOVERNOR_UPDATE (R574, R577): 24 sensors in 1/16 °C and the two power averages in 0.1 W. -/
def execGovernorUpdate (temps : List Int) (avgMs avgSec : Nat) (s : State) : Host.Outcome State Fault Refusal :=
  if !s.timeRuns then .next s
  else
    let s1 := (List.range 24).foldl (fun s i => s.fput (f_pgTemp_temp i) (toTwos 12 (temps.getD i 0))) s
    let s2 := (s1.fput f_pgPower_avg_1ms (min avgMs 0xFFF)).fput f_pgPower_avg_1s (min avgSec 0xFFF)
    let t : Int := 16 * s2.fget f_pgLimitTemp_throttle_c
    let hot := fun i => decide (t ≤ s2.temp i)
    -- a term that calls for less while it stands at the floor
    let wants := fun k =>
      (s2.thermalCeil k == floorHalf && ((List.range 8).any (fun i => hot (16 + i)) || (List.range 4).any fun i => hot (4 * k + i))) ||
      (s2.clk.power == floorHalf && decide (10 * s2.fget f_pgLimitPower_psus_w < s2.fget f_pgPower_avg_1s)) ||
      (s2.voltageCeil k == floorHalf && (s2.clipDue (2 * k) || s2.clipDue (2 * k + 1)))
    let s3 := (((s2.moveThermal).movePower).moveVoltage).setTargets.setMeans
    let s4 := if s3.allAtFloor && (List.range 4).any wants then s3.raise f_pgEvent_floor_reached else s3
    let s5 := (List.range 4).foldl (fun s k => s.limitEvent 5 k 300 (s3.allAtFloor && wants k)) s4
    let sensors := (List.range 16).filter fun i => bit s5.jobCores (i / 2)
    .next (match s5.allAtFloor, sensors.find? fun i => decide ((1792 : Int) ≤ s5.temp i) with
      | true, some i => s5.jobLimit i 1
      | _, _ => s5)

/-- VOLTAGE_LOOP_UPDATE (R568, R569, R590, R595): the smallest slack of a core's monitors over the last microsecond in per
cent, and the energy its LDO delivered in it, in nJ. A core that is off or whose domain is stopped holds its output. -/
def execVoltageLoopUpdate (core : Fin 8) (slack : Fin 128) (energy : Nat) (s : State) : Host.Outcome State Fault Refusal :=
  let n := core.val
  if !s.timeRuns || !s.fbit (f_pgCorePwr_on n) || s.fbit (f_cruDomain_stopped (n / 2)) then .next s
  else
    let top := s.fget (f_pgLimitVmax_vmax_mv n)
    let v := s.fget (f_pgCoreV_v_mv n)
    let step := if slack.val < 8 then v + 5 else if 12 < slack.val then v - 5 else v
    let s1 := (s.fput (f_pgCoreV_v_mv n) (max 480 (min top step))).fput (f_pgCoreV_slack_pct n) slack.val
    let e := f_pgCoreEnergy_energy_lo n
    let s2 := s1.fput64 e ((s.fget64 e + energy) % 2 ^ 64)
    let us := if v = top ∧ slack.val < 8 then min 100 (mapGet (fun _ => 0) s.clk.clipUs n + 1) else 0
    .next { s2 with clk := { s2.clk with clipUs := mapSet (fun _ => 0) s2.clk.clipUs n us } }

/-! The power-cap cut (R575, R577). -/

/-- CAP_CUT: the 1 ms average in 0.1 W. -/
def execCapCut (avg : Nat) (s : State) : Host.Outcome State Fault Refusal :=
  if !s.timeRuns || s.fbit f_pgPower_cut_active then .next s
  else
    let s1 := (List.range 4).foldl (fun s d => if s.srcNow d = 2 then s else s.fput (f_cruDomain_src_now d) 0) s
    let s2 := (s1.fput f_pgPower_cut_active 1).fput f_pgPower_avg_1ms (min avg 0xFFF)
    let s3 := { s2 with clk := { s2.clk with power := max floorHalf (s2.clk.power - 200), cutAt := some s2.devTime.toNat } }
    .next ((((s3.flag f_pgEvent_cut).sediment' 0x10 0 0x0041 avg).limitOnce 3 0 (100 * avg)).setMeans)

/-- CAP_CUT_END: each domain returns to its PLL. -/
def execCapCutEnd (avg : Nat) (s : State) : Host.Outcome State Fault Refusal :=
  if !s.fbit f_pgPower_cut_active then .next s
  else
    let s1 := (s.fput f_pgPower_cut_active 0).fput f_pgPower_avg_1ms (min avg 0xFFF)
    let s2 := { s1 with clk := { s1.clk with cutAt := none } }
    .next ((List.range 4).foldl (fun s d =>
      if s.fget (f_cruDomain_src d) = 1 ∧ s.srcNow d = 0 ∧ s.fbit (f_cruPllStatus_ready d) = true then s.fput (f_cruDomain_src_now d) 1
      else s) s2).setMeans

/-- CAP_CUT_HELD (R577). -/
def execCapCutHeld (s : State) : Host.Outcome State Fault Refusal :=
  .next (if s.fbit f_pgPower_cut_active then s.jobLimit 0 0 else s)

/-! Thermal trip, limits and power states. -/

/-- THERMAL_TRIP (R576): a sensor and its temperature in 1/16 °C. -/
def execThermalTrip (sensor : Fin 24) (temp : Int) (s : State) : Host.Outcome State Fault Refusal :=
  if s.aoc.tripped || !s.aoc.powered then .next s
  else
    let s1 := (s.sediment' 0x10 sensor.val 0x0040 (toTwos 16 temp)).srEnter 1
    let s2 := (s1.resetMain).newSlotKeys
    let s3 := (List.range 4).foldl (fun s d => s.fput (f_cruDomain_src_now d) 2) s2
    .next (({ s3 with aoc := { s3.aoc with tripped := true } }).emit (.pin 64 false))

/-- The limits of the register at a PG offset (R573): each field with the lowest value firmware may set. -/
def limitFields (o : Nat) : List (Fld × Nat) :=
  if 0x20 ≤ o ∧ o < 0x30 ∧ o % 4 = 0 then [(f_pgLimitFmax_fmax_mhz ((o - 0x20) / 4), 300)]
  else if o = 0x30 then [(f_pgLimitPower_psus_w, 30)]
  else if o = 0x34 then [(f_pgLimitTemp_throttle_c, 70), (f_pgLimitTemp_trip_c, 100)]
  else if 0x40 ≤ o ∧ o < 0x60 ∧ o % 4 = 0 then [(f_pgLimitVmax_vmax_mv ((o - 0x40) / 4), 600)]
  else []

/-- A write of a limit register (R573): a raise is refused, a value below the bound is discarded; either discards the write. -/
def State.limitSet (s : State) (o : Nat) (v : Word) : State :=
  let l := limitFields o
  let val := fun (f : Fld) => bits v.toNat f.hi f.lo
  if l.any fun p => decide (s.fget p.1 < val p.1) then s.raise f_pgEvent_raise_refused
  else if l.any fun p => decide (val p.1 < p.2) then s
  else l.foldl (fun (s : State) p => s.fput p.1 (val p.1)) s

/-- LIMIT_WRITE (R573): a PG offset and the word written. -/
def execLimitWrite (off : Nat) (v : Word) (s : State) : Host.Outcome State Fault Refusal := .next (s.limitSet off v)

/-- A write of PG_CORE_PWR_n (R571, R591): discarded while the core is not idle. -/
def State.corePower (s : State) (n : Nat) (off : Bool) : State :=
  if s.coreState n ≠ 0 then s
  else if off then ((s.fput (f_pgCorePwr_off_req n) 1).fput (f_pgCorePwr_on n) 0).fput (f_pgCoreV_v_mv n) 0
  else s.fput (f_pgCorePwr_off_req n) 0

/-- CORE_POWER_OFF (R571). -/
def execCorePowerOff (core : Fin 8) (s : State) : Host.Outcome State Fault Refusal := .next (s.corePower core.val true)

/-- CORE_POWER_ON (R571). -/
def execCorePowerOn (core : Fin 8) (s : State) : Host.Outcome State Fault Refusal := .next (s.corePower core.val false)

/-- CORE_POWER_ON_DONE (R570, R591): powered, with the weight banks as after reset (R66). A job that waited
for the core starts (R571). -/
def execCorePowerOnDone (core : Fin 8) (s : State) : Host.Outcome State Fault Refusal :=
  let n := core.val
  if s.fbit (f_pgCorePwr_on n) || s.fbit (f_pgCorePwr_off_req n) then .next s
  else .next (((((s.maClear n 0).maCleared n 0).maClear n 1).maCleared n 1).fput (f_pgCorePwr_on n) 1 |>.startNext [])

/-- SLUMBER_ENTRY (R572). -/
def execSlumberEntry (s : State) : Host.Outcome State Fault Refusal :=
  if !s.timeRuns then .next s
  else
    let s1 := s.srEnter 1
    .next { s1 with aoc := { s1.aoc with slumber := true } }

end Sys2Proof.Machine
end

