-- ==== Sys2Proof/Machine/Faults.lean ====
section
/-! DEFINITION. The guaranteed operations of the always-on controller (R604, R612 to R614), the flushes and commits of the
journal (R604, R607), the registers of RAS and the AOC (R622, R625, R626), and the management interface (R615 to R618).
Completion codes and message fields that the standards give are log entry 26's. -/

namespace Sys2Proof.Machine

/-! Guaranteed operations. -/

/-- POWER_FAIL (R604, R612): POWER_FAIL is appended, and the newest entries are written in one record. -/
def execPowerFail (s : State) : Host.Outcome State Fault Refusal :=
  .next (if s.aoc.porst then s else (s.sediment' 0x10 0 0x0042 0).powerFlush)

/-- TAMPER (R612): its entry, key zeroisation, a warm reset; `cool` says whether every sensor reads below 95 °C, which the
release of a tripped device asks (R576). -/
def execTamper (cool : Bool) (s : State) : Host.Outcome State Fault Refusal :=
  if s.aoc.porst then .next s
  else
    let s1 := (s.sediment' 0x10 0 0x0045 0).zeroise
    .next (if s1.aoc.tripped then (if cool then s1.tripRelease.mainRelease else s1) else s1.warmReset 3)

/-- A write of AOC_WDOG (R614, R626): timeout_ms while arm is 0, then arm. A timeout outside 10 to 60,000 is no value the spec
gives the field: it takes one that is open (log entry 2). -/
def State.wdogWrite (s : State) (v : Word) : State :=
  let t := bits v.toNat 16 1
  let armed := s.fbit f_aocWdog_arm
  let s1 := if armed then s
    else if 10 ≤ t ∧ t ≤ 60000 then s.fput f_aocWdog_timeout_ms t
    else
      let p := s.draw
      p.2.fput f_aocWdog_timeout_ms (10 + p.1 % 59991)
  if bit v.toNat 0 && !armed then { s1.fput f_aocWdog_arm 1 with aoc := { s1.aoc with wdogAt := s1.aonTicks } } else s1

/-- WATCHDOG_ARM (R614): a write of AOC_WDOG with arm set. -/
def execWatchdogArm (v : Word) (s : State) : Host.Outcome State Fault Refusal := .next (s.wdogWrite (v ||| 1))

/-- Restart the timeout. -/
def State.wdogKick (s : State) : State := { s with aoc := { s.aoc with wdogAt := s.aonTicks } }

/-- WATCHDOG_KICK (R614). -/
def execWatchdogKick (s : State) : Host.Outcome State Fault Refusal := .next s.wdogKick

/-- WATCHDOG_EXPIRY (R614). -/
def execWatchdogExpiry (s : State) : Host.Outcome State Fault Refusal :=
  if !s.timeRuns || !s.fbit f_aocWdog_arm then .next s
  else .next (((s.sediment' 0x10 0 0x0044 (s.fget f_aocWdog_timeout_ms)).fput f_aocWdog_expired 1).warmReset 2)

/-- FENCED_WRITES_INTERVAL (R600): the open interval closes with its entry, under the lowest failed core. -/
def execFencedWritesInterval (s : State) : Host.Outcome State Fault Refusal :=
  match s.fenceOpen with
  | none => .next s
  | some n =>
    let core := ((List.range 8).find? fun c => s.coreFailed c).getD 0
    .next { s.sediment' 0x0B core 0x0012 n with fenceOpen := none }

/-! The journal. -/

/-- TRICKLE_FLUSH (R604). -/
def execTrickleFlush (s : State) : Host.Outcome State Fault Refusal := .next (if s.aoc.porst then s else s.flushAll 0)

/-- A program or erase failed (R628): the record is written once more at the next sector; a second failure gives it up
(log entry 27). -/
def State.jrFailed (s : State) : State :=
  match s.jr.writing with
  | none => s
  | some (off, a) =>
    let s1 := s.flag f_jrEvent_flash_error
    let sector := (off / 4096 + 1) * 4096
    if s.jr.retried then
      ({ s1 with jr := { s1.jr with writing := none, retried := false, wp := sector } }).fput f_jrStatus_state 1
    else
      let s2 := s1.jrPut (s1.jrSet * setBytes4M + sector) (recordBytes s1.jr.seq a.type a.writer a.payload 0xFF)
      { s2 with jr := { s2.jr with writing := some (sector, a), retried := true } }

/-- JOURNAL_RECORD_COMMIT (R607, R611): the record in progress becomes durable and the next waiting writer is served;
`failed` says that the flash reported a failure instead. -/
def execJournalRecordCommit (failed : Bool) (s : State) : Host.Outcome State Fault Refusal :=
  if failed then .next (let s1 := s.jrFailed; if s1.jr.writing.isSome then s1 else s1.jrServe)
  else match s.jrCommit with
    | none => .next s
    | some (a, seq, s1) =>
      let s2 := { s1 with jr := { s1.jr with retried := false } }
      .next (if a.writer = 1 then s2.keyDurable a seq else s2).jrServe

/-! Registers of RAS and the AOC. -/

/-- A write of RAS_CLASS_CFG_c (R622). -/
def State.classCfg (s : State) (c : Nat) (v : Word) : State :=
  let win := bits v.toNat 11 0
  let thr := bits v.toNat 19 12
  if c < 1 ∨ 11 < c ∨ win < 1 ∨ 3600 < win ∨ (thr = 0 ∧ c ≠ 11) then s
  else
    let s1 := s.fput (f_rasClassCfg_window_s (c - 1)) win
    if c = 11 then s1 else s1.fput (f_rasClassCfg_threshold (c - 1)) thr

/-- RAS_CLASS_CFG_WRITE (R622). -/
def execRasClassCfgWrite (c : Fin 12) (v : Word) (s : State) : Host.Outcome State Fault Refusal := .next (s.classCfg c.val v)

/-- A write of AOC_SED_READ latches a slot's entry (R625). -/
def State.sedRead (s : State) (v : Word) : State :=
  let slot := bits v.toNat 11 0
  let e := (mapGet (fun _ => (0 : BitVec 128)) s.sediment slot).toNat
  (List.range 4).foldl (fun s i => s.wr (f_aocSedData_data i).off (BitVec.ofNat 32 (e / 2 ^ (32 * i)))) (s.fput f_aocSedRead_slot slot)

/-- AOC_SED_READ (R625). -/
def execAocSedRead (v : Word) (s : State) : Host.Outcome State Fault Refusal := .next (s.sedRead v)

/-! The management port (R617). -/

/-- AOC_TAKEOVER: FIRMWARE_LOST, unless the MP was never released. -/
def execAocTakeover (s : State) : Host.Outcome State Fault Refusal :=
  if s.aoc.owns then .next s
  else
    let s1 := { s with aoc := { s.aoc with owns := true } }
    .next (if s.aoc.released then s1.sediment' 0x10 0 0x004A (s.fget f_hiFwStatus_heartbeat) else s1)

/-- MP_TAKEBACK: the MP's heartbeat advances. -/
def execMpTakeback (s : State) : Host.Outcome State Fault Refusal :=
  .next (if s.aoc.released && !s.mpStands then { s with aoc := { s.aoc with owns := false } } else s)

/-- The bits granted to an endpoint with an open profile (R616). -/
def State.profile (s : State) (eid : BitVec 8) : Option Nat :=
  (s.aoc.profiles.find? fun p => p.1 == eid.toNat).map (·.2)

/-- A management answer. -/
def State.answer (s : State) (eid : BitVec 8) (code : Nat) (d : List Byte) : State := s.emit (.mgmt eid.toNat code d)

/-- What a request asks before it is answered. -/
inductive MgmtNeed where
  /-- MCTP control and PROFILE_OPEN: nothing. -/
  | none
  /-- A PLDM request: an open profile, with a capability bit where one governs it. -/
  | pldm (cap : Option Nat)
  /-- A vendor-defined request other than PROFILE_OPEN. -/
  | vendor (cap : Nat)
  deriving DecidableEq, Repr

/-- Serve a request of an endpoint (R616, R617): the AOC, while it owns the port, serves what `aoc` says and no PCIe VDM;
before an open only MCTP control and PROFILE_OPEN are answered, every other PLDM request with ERROR_NOT_READY (0x04); a
request of a feature not granted is answered as unsupported (0x05). -/
def State.serve (s : State) (eid : BitVec 8) (vdm aoc : Bool) (need : MgmtNeed) (code : Nat) (d : List Byte) : State :=
  let granted := fun (g cap : Nat) => bit g cap && (!vdm || bit g 2)
  if s.aoc.porst ∨ (s.aoc.owns ∧ vdm) then s
  else if s.aoc.owns ∧ aoc = false then s.answer eid 0x04 []
  else match need, s.profile eid with
    | .none, _ => s.answer eid code d
    | .pldm _, none => s.answer eid 0x04 []
    | .vendor _, none => s
    | .pldm (some c), some g => if granted g c then s.answer eid code d else s.answer eid 0x05 []
    | .pldm none, some g => if vdm && !bit g 2 then s.answer eid 0x05 [] else s.answer eid code d
    | .vendor c, some g => if granted g c then s.answer eid code d else s.answer eid 0x05 []

/-- PROFILE_OPEN (R616). -/
def execProfileOpen (eid : BitVec 8) (vdm : Bool) (lo hi : BitVec 8) (caps : Word) (s : State) :
    Host.Outcome State Fault Refusal :=
  if s.aoc.porst || (s.aoc.owns && vdm) then .next s
  else if lo.toNat ≤ 1 ∧ 1 ≤ hi.toNat then
    let g := bits caps.toNat 3 0
    let s1 := { s with aoc := { s.aoc with profiles := (s.aoc.profiles.filter fun (p : Nat × Nat) => p.1 != eid.toNat) ++ [(eid.toNat, g)] } }
    .next (s1.answer eid 0 (leBytes 1 1 ++ leBytes 1 1 ++ leBytes 1 1 ++ leBytes 4 g))
  else
    let s1 := { s with aoc := { s.aoc with profiles := s.aoc.profiles.filter fun (p : Nat × Nat) => p.1 != eid.toNat } }
    .next ((s1.sediment' 0x10 0 0x004B hi.toNat).answer eid 0x02 (leBytes 1 1 ++ leBytes 1 1))

/-! Sensors (R618). -/

/-- Whether a unit is lasting in a class that is only reported (R598). -/
def State.lastingReported (s : State) : Bool :=
  [4, 5, 6, 7, 8, 10].any fun c => (List.range 16).any fun w => s.fget (f_rasLasting_lasting (c - 1) w) != 0

/-- Sensor 3. -/
def State.healthState (s : State) : Nat :=
  if s.aoc.owns ∧ s.aoc.released = true then 4
  else if s.fget f_rasFailed_cores ≠ 0 ∨ s.fbit f_rasFailed_vx = true ∨ (List.range 9).any (fun k => s.fbit (f_cruPllStatus_failed k)) = true then 3
  else if s.lastingReported then 2 else 1

/-- Sensor 4. -/
def State.powerState (s : State) : Nat :=
  if s.aoc.tripped then 4 else if s.aoc.slumber then 3
  else if (List.range 8).all (fun n => !s.fbit (f_pgCorePwr_on n)) then 2 else 1

/-- The reading of a sensor. -/
def State.sensor (s : State) (n : Nat) : Option Nat :=
  match n with
  | 0 => none
  | 1 => some (toTwos 32 ((List.range 24).foldl (fun (m : Int) i => max m (s.temp i)) (s.temp 0)))
  | 2 => some (s.fget f_pgPower_avg_1ms)
  | 3 => some s.healthState
  | 4 => some s.powerState
  | _ =>
    if n ≤ 28 then some (toTwos 32 (s.temp (n - 5)))
    else if n ≤ 36 then some (s.fget (f_pgCoreV_v_mv (n - 29)))
    else if n = 37 then some (s.fget f_pgPower_avg_1s)
    else if n = 38 then some (s.fget f_ciStatus_ring_state)
    else none

/-- A sensor's answer: its reading, or that the sensor is not there. -/
def sensorAnswer (r : Option Nat) : Nat × List Byte := match r with | some x => (0, leBytes 4 x) | none => (0x80, [])

/-- GET_SENSOR_READING (R618). -/
def execGetSensorReading (eid : BitVec 8) (vdm : Bool) (sensor : Nat) (s : State) : Host.Outcome State Fault Refusal :=
  let r := sensorAnswer (s.sensor sensor)
  .next (s.serve eid vdm (decide (1 ≤ sensor) && decide (sensor ≤ 4)) (.pldm (some 0)) r.1 r.2)

/-- GET_STATE_SENSOR_READINGS (R618): the sensors whose unit is a state set. -/
def execGetStateSensorReadings (eid : BitVec 8) (vdm : Bool) (sensor : Nat) (s : State) : Host.Outcome State Fault Refusal :=
  let r := sensorAnswer (if sensor = 3 ∨ sensor = 4 ∨ sensor = 38 then s.sensor sensor else none)
  .next (s.serve eid vdm false (.pldm (some 0)) r.1 r.2)

/-- SET_EVENT_RECEIVER (R618). -/
def execSetEventReceiver (eid : BitVec 8) (vdm : Bool) (receiver : BitVec 8) (s : State) : Host.Outcome State Fault Refusal :=
  let ok := !s.aoc.owns && !s.aoc.porst && (match s.profile eid with | some g => bit g 0 && (!vdm || bit g 2) | none => false)
  let s1 := s.serve eid vdm false (.pldm (some 0)) 0 []
  .next (if ok then { s1 with evReceiver := some receiver.toNat } else s1)

/-- GET_PDR_REPOSITORY_INFO (R615). -/
def execGetPdrRepositoryInfo (eid : BitVec 8) (vdm : Bool) (s : State) : Host.Outcome State Fault Refusal :=
  .next (s.serve eid vdm false (.pldm (some 0)) 0 ((List.range 40).map (Config.pdrByte 0)))

/-- GET_PDR (R615, R617): bytes of a record. -/
def execGetPdr (eid : BitVec 8) (vdm : Bool) (record len : Nat) (s : State) : Host.Outcome State Fault Refusal :=
  .next (s.serve eid vdm (decide (1 ≤ record) && decide (record ≤ 4)) (.pldm (some 0)) 0 ((List.range len).map (Config.pdrByte record)))

/-! Vendor-defined messages (R617). -/

/-- HEALTH: health state, RAS_FAILED, AOC_SED_COUNT, the life-cycle byte. -/
def execHealth (eid : BitVec 8) (vdm : Bool) (s : State) : Host.Outcome State Fault Refusal :=
  .next (s.serve eid vdm true (.vendor 3) 0
    (leBytes 1 s.healthState ++ leBytes 4 (s.rd f_rasFailed_cores.off).toNat ++ leBytes 8 s.sedCount ++ leBytes 1 s.lifeFuse))

/-- SEDIMENT_READ: the number of the first entry returned, and the entries still held. -/
def execSedimentRead (eid : BitVec 8) (vdm : Bool) (first count : Nat) (s : State) : Host.Outcome State Fault Refusal :=
  let start := max first (s.sedCount - 4096)
  let n := min count (s.sedCount - start)
  let d := leBytes 8 start ++ leBytes 1 n ++
    (List.range n).flatMap fun i => leBytes 16 (mapGet (fun _ => (0 : BitVec 128)) s.sediment ((start + i) % 4096)).toNat
  .next (if 1 ≤ count ∧ count ≤ 8 then s.serve eid vdm true (.vendor 1) 0 d else s.serve eid vdm true (.vendor 1) 0x02 [])

/-! MCTP control (R615). -/

/-- SET_ENDPOINT_ID: 0 and 0xFF are no endpoint IDs. -/
def execSetEndpointId (eid : BitVec 8) (vdm : Bool) (new : BitVec 8) (s : State) : Host.Outcome State Fault Refusal :=
  if s.aoc.porst || (s.aoc.owns && vdm) then .next s
  else if new = 0 ∨ new = 0xFF then .next (s.answer eid 0x02 [])
  else .next (({ s with aoc := { s.aoc with eid := new.toNat } }).answer eid 0 [0, new, 0])

/-- GET_ENDPOINT_ID. -/
def execGetEndpointId (eid : BitVec 8) (vdm : Bool) (s : State) : Host.Outcome State Fault Refusal :=
  .next (s.serve eid vdm true .none 0 (leBytes 1 s.aoc.eid ++ zeros 2))

/-- GET_ENDPOINT_UUID. -/
def execGetEndpointUuid (eid : BitVec 8) (vdm : Bool) (s : State) : Host.Outcome State Fault Refusal :=
  .next (s.serve eid vdm true .none 0 ((Config.endpointUuid ++ zeros 16).take 16))

/-- The MCTP message types the device serves: PLDM, SPDM, vendor-defined by PCI identifier. -/
def mctpTypes : List Nat := [0x01, 0x05, 0x7E]

/-- GET_MCTP_VERSION_SUPPORT: the base specification and control messages are 1.3; 0x80 for a type that is not served. -/
def execGetMctpVersionSupport (eid : BitVec 8) (vdm : Bool) (type : BitVec 8) (s : State) : Host.Outcome State Fault Refusal :=
  let t := type.toNat
  .next (
    if t = 0xFF ∨ t = 0 then s.serve eid vdm true .none 0 [1, 0xF1, 0xF3, 0xFF, 0]
    else if mctpTypes.contains t then s.serve eid vdm true .none 0 (1 :: (List.range 4).map (Config.mctpVersion t))
    else s.serve eid vdm true .none 0x80 [])

/-- GET_MESSAGE_TYPE_SUPPORT. -/
def execGetMessageTypeSupport (eid : BitVec 8) (vdm : Bool) (s : State) : Host.Outcome State Fault Refusal :=
  .next (s.serve eid vdm true .none 0 (leBytes 1 mctpTypes.length ++ mctpTypes.map (BitVec.ofNat 8)))

/-- GET_VENDOR_DEFINED_MESSAGE_SUPPORT: one set, the device's Vendor ID. -/
def execGetVendorDefinedMessageSupport (eid : BitVec 8) (vdm : Bool) (selector : BitVec 8) (s : State) :
    Host.Outcome State Fault Refusal :=
  .next (if selector = 0 then s.serve eid vdm true .none 0 (0xFF :: 0 :: beBytes 2 Config.vendorId) else s.serve eid vdm true .none 0x02 [])

/-! PLDM type 0 (R615). -/

/-- GET_TID: no terminus ID is ever assigned, since SetTID is not supported. -/
def execGetTid (eid : BitVec 8) (vdm : Bool) (s : State) : Host.Outcome State Fault Refusal :=
  .next (s.serve eid vdm true (.pldm none) 0 [0])

/-- GET_PLDM_VERSION; 0x83 for a type that is not supported. -/
def execGetPldmVersion (eid : BitVec 8) (vdm : Bool) (type : BitVec 8) (s : State) : Host.Outcome State Fault Refusal :=
  .next (if type = 0 ∨ type = 2 then s.serve eid vdm true (.pldm none) 0 ((List.range 4).map (Config.pldmVersion type.toNat))
    else s.serve eid vdm true (.pldm none) 0x83 [])

/-- GET_PLDM_TYPES: types 0 and 2. -/
def execGetPldmTypes (eid : BitVec 8) (vdm : Bool) (s : State) : Host.Outcome State Fault Refusal :=
  .next (s.serve eid vdm true (.pldm none) 0 (leBytes 8 5))

/-- The command codes of a PLDM type that R615 lists. -/
def pldmCommands (type : Nat) : List Nat := if type = 0 then [0x02, 0x03, 0x04, 0x05] else [0x04, 0x0A, 0x11, 0x21, 0x50, 0x51]

/-- GET_PLDM_COMMANDS. -/
def execGetPldmCommands (eid : BitVec 8) (vdm : Bool) (type : BitVec 8) (s : State) : Host.Outcome State Fault Refusal :=
  .next (if type = 0 ∨ type = 2 then
      s.serve eid vdm true (.pldm none) 0 (leBytes 32 ((pldmCommands type.toNat).foldl (fun a c => a + 2 ^ c) 0))
    else s.serve eid vdm true (.pldm none) 0x83 [])

end Sys2Proof.Machine
end

