-- ==== Sys2Proof/Machine/HostRows.lean ====
section
/-! DEFINITION. What the host does through BAR2 and BAR4 (R476, R477, R480, R486 to R489), and the taking of descriptors. -/

namespace Sys2Proof.Machine

/-! BAR2 (R476, R477). The host sets the size of the BAR (R474): a segment holds 2^(24 + size) bytes. -/

/-- What a BAR2 offset reaches. -/
inductive Bar2Target where
  | refused
  | sp (core off : Nat)
  | hb (off : Nat)
  | lp (slot addr : Nat)
  deriving DecidableEq, Repr

/-- The target of an access of `n` bytes. -/
def State.bar2Target (s : State) (off n : Nat) : Bar2Target :=
  let z := 2 ^ (24 + s.host.bar2)
  let g := off / z
  let slot := s.fget (f_hiBar2Seg_key_slot g)
  if 16 ≤ g ∨ !s.fbit (f_hiBar2Seg_enable g) ∨ s.slotSealed slot then .refused
  else
    let base := (s.fget (f_hiBar2Seg_base_hi g) * 2 ^ 32 + s.fget (f_hiBar2Seg_base_lo g) * 2 ^ 24) / z * z
    let a := base + off % z
    if a + n ≤ 0x8000000 ∧ a / 0x1000000 = (a + n - 1) / 0x1000000 then .sp (a / 0x1000000) (a % 0x1000000)
    else if hbAddr 0 ≤ a ∧ a + n ≤ hbAddr hbBytes then .hb (a - hbAddr 0)
    else if lpBase ≤ a ∧ a + n ≤ lpBase + s.lpCapacity then .lp slot a
    else .refused

/-- The endpoint answers a read. -/
def State.answerRead (s : State) (d : List Byte) (poisoned : Bool) : State :=
  let s1 := s.emit (.readData d)
  if poisoned then s1.raise f_hiEvent_poisoned_read else s1

/-- The host programs the Resizable BAR before an access (R7, R474): a size code of 0 to 9 for 256 MiB to 128 GiB. -/
def State.bar2Resize (s : State) : Option (Fin 10) → State
  | none => s
  | some z => { s with host := { s.host with bar2 := z.val } }

/-- An access to a memory that a scrub holds waits until the scrub ends (R183, R196). -/
def State.bar2Held (s : State) : Bar2Target → Bool
  | .sp c _ => (s.core c).scrubbing
  | .hb _ => s.fbit f_hbScrub_start
  | _ => false

/-- A read through BAR2 (R477); before the release of the firmware every read is refused (R481). -/
def State.bar2Read (s : State) (off len : Nat) : State :=
  if s.fget f_hiBoot_state ≠ 4 then s.refuseAccess off
  else
    let t := s.bar2Target off len
    if s.bar2Held t then s
    else match t with
      | .refused => s.refuseAccess off
      | .sp c o =>
        -- the unused 6 MiB of a core's window reads zero (R175)
        let k := min len (spBytes - o)
        let r := s.spBytesA c o k 17
        r.2.2.answerRead (r.1 ++ zeros (len - k)) r.2.1
      | .hb o =>
        let r := s.hbBytesP o len 9
        r.2.2.answerRead r.1 r.2.1
      | .lp slot a =>
        let r := s.lpRead slot a len 9
        r.2.2.answerRead r.1 r.2.1

/-- BAR2_READ. -/
def execBar2Read (resize : Option (Fin 10)) (off len : Nat) (s : State) : Host.Outcome State Fault Refusal :=
  .next ((s.bar2Resize resize).bar2Read off len)

/-- A write through BAR2 (R477), into the boot window before the release of the firmware (R481). -/
def State.bar2Write (s : State) (off : Nat) (data : List Byte) : State :=
  if s.fget f_hiBoot_state ≠ 4 then (if off < 0x80000 then s.bootWrite off data else s.refuseAccess off)
  else
    let t := s.bar2Target off data.length
    if s.bar2Held t then s
    else match t with
      | .refused => s.refuseAccess off
      | .sp c o => if spBytes ≤ o then s else s.spStoreA c o (data.take (spBytes - o))
      | .hb o => s.hbStore o data
      | .lp slot a => s.lpStore slot a data

/-- BAR2_WRITE. -/
def execBar2Write (resize : Option (Fin 10)) (off : Nat) (data : List Byte) (poisoned : Bool) (s : State) :
    Host.Outcome State Fault Refusal :=
  let s1 := s.bar2Resize resize
  .next (if poisoned then s1.raise f_hiEvent_poisoned_write else s1.bar2Write off data)

/-! BAR4 (R479, R480). -/

/-- A BAR4 access, refused before the release of the firmware (R481). -/
def State.bar4 (s : State) (off : Nat) (f : State → State) : State := if s.fget f_hiBoot_state = 4 then f s else s.refuseAccess off

/-- SIGNAL_WINDOW_WRITE (R480). -/
def execSignalWindowWrite (obj : Fin 32768) (inc : Word) (s : State) : Host.Outcome State Fault Refusal :=
  .next (s.bar4 (0x80000 + 4 * obj.val) fun s => s.signalObj obj.val inc)

/-- SET_WINDOW_WRITE (R480). -/
def execSetWindowWrite (obj : Fin 32768) (v : Word) (s : State) : Host.Outcome State Fault Refusal :=
  .next (s.bar4 (0xA0000 + 4 * obj.val) fun s => s.replaceObject obj.val v)

/-- The firmware serves the rings. -/
def State.fwServes (s : State) : Bool := s.fget f_hiFwStatus_state != 0

/-- A write of the SQ doorbell (R487): reserved on the event ring's page (R479). -/
def State.sqDoorbell (s : State) (q p : Nat) : State :=
  if q = 16 then s.raise f_hiEvent_doorbell_bad_access
  else if !s.fwServes then s
  else
    let x := s.pair q
    let h := s.fget (f_rpIndex_sq_head q)
    if (p + 2 ^ 32 - h) % 2 ^ 32 ≤ s.ringSize q ∧ (p + 2 ^ 32 - x.accepted) % 2 ^ 32 < 2 ^ 31 then s.setPair q { x with accepted := p }
    else s.ringError q 0 p

/-- SQ_DOORBELL. -/
def execSqDoorbell (q : Fin 17) (p : Word) (s : State) : Host.Outcome State Fault Refusal :=
  .next (s.bar4 (0x1000 * q.val + 0x20) fun s => s.sqDoorbell q.val p.toNat)

/-- A write of the CQ doorbell (R488): at most N entries lie between the consumer index and cq_tail (log entry 21). -/
def State.cqDoorbell (s : State) (q p : Nat) : State :=
  if !s.fwServes then s
  else
    let x := s.pair q
    let c := s.fget (f_rpIndex_cq_tail q)
    if (c + 2 ^ 32 - p) % 2 ^ 32 ≤ s.ringSize q ∧ (p + 2 ^ 32 - x.consumer) % 2 ^ 32 < 2 ^ 31 then s.setPair q { x with consumer := p }
    else s.ringError q 1 p

/-- CQ_DOORBELL. -/
def execCqDoorbell (q : Fin 17) (p : Word) (s : State) : Host.Outcome State Fault Refusal :=
  .next (s.bar4 (0x1000 * q.val + 0x24) fun s => s.cqDoorbell q.val p.toNat)

/-- Whether a queue lies wholly inside the bootstrap area or the host area (R486). -/
def State.queueOk (s : State) (base n : Nat) : Bool :=
  (decide (bootArea.1 ≤ base) && decide (base + n ≤ bootArea.1 + bootArea.2)) ||
    match s.host.area with | some (b, k) => decide (b ≤ base) && decide (base + n ≤ b + k) | none => false

/-- The firmware's checks when enable is set (R486). -/
def State.enableOk (s : State) (q : Nat) : Bool :=
  let n := 64 * s.ringSize q
  let party := s.fget (f_rpCfg_party q)
  s.queueOk (s.cqBase q) n &&
    (q == 16 || s.queueOk (s.sqBase q) n && s.fbit (f_rpCfg_enable 16) &&
      (if q = 0 then party == 0 else decide (1 ≤ party) && decide (party ≤ 15)))

/-- A write of RP_CFG (R14, R486, R492). -/
def State.pairConfig (s : State) (q : Nat) (v : Word) : State :=
  let off := (f_rpCfg_enable q).off
  if growthSet off v then s.growthOverflow off
  else
    let on := s.fbit (f_rpCfg_enable q)
    let s1 := if on then s
      else (s.fput (f_rpCfg_log2_n q) (bits v.toNat 4 1)).fput (f_rpCfg_party q) (bits v.toNat 10 5)
    let s2 := (s1.fput (f_rpCfg_priority q) (bits v.toNat 13 11)).fput (f_rpCfg_vector q) (bits v.toNat 19 14)
    let want := bit v.toNat 0
    if want && !on then
      if !s2.fwServes then s2
      else if s2.enableOk q then (s2.fput (f_rpCfg_enable q) 1).markSlots
      else s2.ringError q 2 v.toNat
    else if !want && on then
      let x := s2.pair q
      if x.taken.isEmpty then (s2.fput (f_rpCfg_enable q) 0).markSlots
      else s2.setPair q { x with disabling := true }
    else s2

/-- RING_PAIR_ENABLE (R486): RP_CFG is written with enable set. -/
def execRingPairEnable (q : Fin 17) (v : Word) (s : State) : Host.Outcome State Fault Refusal :=
  .next (s.bar4 (0x1000 * q.val + 0x10) fun s => s.pairConfig q.val (v ||| 1))

/-- RING_PAIR_DISABLE (R486): RP_CFG is written with enable clear. -/
def execRingPairDisable (q : Fin 17) (v : Word) (s : State) : Host.Outcome State Fault Refusal :=
  .next (s.bar4 (0x1000 * q.val + 0x10) fun s => s.pairConfig q.val (v &&& 0xFFFFFFFE))

/-- DESCRIPTOR_TAKE (R487, R488, R503): the next descriptor of an enabled pair, once a CQ entry can be reserved for it. -/
def execDescriptorTake (q : Fin 16) (s : State) : Host.Outcome State Fault Refusal :=
  let x := s.pair q.val
  let h := s.fget (f_rpIndex_sq_head q.val)
  let st := s.fget f_hiFwStatus_state
  if (st ≠ 1 ∧ st ≠ 2) ∨ s.mpStands ∨ !s.fbit (f_rpCfg_enable q.val) ∨ x.disabling ∨ h = x.accepted ∨
      s.ringSize q.val ≤ s.cqUsed q.val + x.taken.length then .next s
  else
    let d := s.lpBytes 0 (s.sqBase q.val + 64 * (h % s.ringSize q.val)) 64
    let t : Taken := ⟨h, d, s.devTime.toNat, false⟩
    .next (((s.setPair q.val { x with taken := x.taken ++ [t] }).fput (f_rpIndex_sq_head q.val) ((h + 1) % 2 ^ 32)).settleRing q.val)

/-- IRQ_COALESCE_TIMER (R489): the oldest completion without an interrupt has waited timer_us. -/
def execIrqCoalesceTimer (q : Fin 17) (s : State) : Host.Outcome State Fault Refusal :=
  .next (if !s.mpStands ∧ 0 < (s.pair q.val).unraised ∧ bit s.host.granted 0 = true ∧ s.fget (f_rpIrq_timer_us q.val) ≠ 0 then s.raiseRing q.val else s)

end Sys2Proof.Machine
end

