-- ==== Sys2Proof/Machine/RegOps.lean ====
section
/-! DEFINITION. Register accesses by the host and the management processor: who may write what (R475, R479), growth bits
(R14), the pairs with their latches and holds (R12), fields written while a core is halted (R156's chapter), and what the
write of each register starts. -/

namespace Sys2Proof.Machine

/-! Where an offset lies. BAR0 offsets stand below 0x400_0000; BAR4 offset o stands at 0x400_0000 + o. -/

/-- The base of BAR4 in the numbering of accesses. -/
def bar4Base : Nat := 0x4000000

/-- The offset at which a register is stored: IP1's contexts and tone curves are IP0's (R413). -/
def regStore (off : Nat) : Nat := if 0x8E1000 ≤ off ∧ off < 0x8EC000 then off - 0x10000 else off

/-- Which word of a pair the register at an offset is: 0 none, 1 low, 2 high (R12). -/
def pairKind (off : Nat) : Nat := match findRow off with | some r => r.pair | none => 0

/-- CP local memories and routine stores stand in register space as memory (R645). -/
def memWindow (off : Nat) : Bool :=
  decide (off < 0x800000) && decide (off % 4 = 0) && (off / 0x10000 % 16 == 9 || decide (12 ≤ off / 0x10000 % 16))

/-! Reads. -/

/-- MA_STATUS on the core's reference cycle (R49, R68): a pass is in flight while one of the instructions of its tag still
has slots to fire, a streamed one until it ends. -/
def State.maStatusView (s : State) (n a : Nat) : Word :=
  let t := (s.core n).ref
  let fl := (s.array n a).flights
  let runs := (s.array n a).streamed.isSome
  let live := (fl.filter fun u => decide (u.start ≤ t) && (decide (t ≤ u.fired) || (runs && u.last == u.start))).map (·.tag)
  let front := fl.find? fun u => u.load && decide (u.start ≤ t) && decide (t < u.start + 256)
  let pr := fl.any fun u => u.paired && decide (u.start ≤ t) && decide (t ≤ u.last)
  let w := (s.rd (f_maStatus_mode n a).off).toNat
  let w := setBits w 1 0 live.eraseDups.length
  let w := setBits w 3 3 (b2n front.isSome)
  let w := setBits w 11 4 (match front with | some u => t - u.start | none => 0)
  BitVec.ofNat 32 (setBits w 23 23 (b2n pr))

/-- NC_STATUS with the engines that hold work on the core's reference cycle (R157). A WAIT that waits is work of the core's
issue and none of the sync engine's, whose bit reads 0 (log entry 61). -/
def State.ncStatusView (s : State) (n : Nat) : Word :=
  let c := s.core n
  let t := c.ref
  let arr := fun a => decide (t < (s.array n a).idleAt) || (s.array n a).streamed.isSome
  let m := 2 * b2n (arr 0) + 4 * b2n (arr 1) + 8 * b2n (decide (t < c.ve.idleAt)) + 16 * b2n (!c.queue.isEmpty) +
    64 * b2n (decide (t < c.su.idleAt)) + 128 * b2n (decide (t < c.gr.idleAt))
  BitVec.ofNat 32 (setBits (s.rd (f_ncStatus_state n).off).toNat 19 12 m)

/-- NC_STREAM_POS (R158): the instruction that issues next; a WAIT that waits has issued. -/
def State.streamPosView (s : State) (n : Nat) : Word :=
  let p := s.fget (f_ncStreamPos_position n)
  BitVec.ofNat 32 (if (s.core n).waiting.isSome && (s.core n).calls.isEmpty then afterCall (s.core n) p else p)

/-- A word of TG_VALID (R172): bits at or above the region's slot count read 0. -/
def State.validView (s : State) (off : Nat) : Word :=
  let n := off / 0x100000
  let o := off % 0x10000 - 0x4000
  let room := s.slotCount n (o / 512) - 32 * (o % 512 / 4)
  BitVec.ofNat 32 ((s.rd off).toNat % 2 ^ min 32 room)

/-- A word of the CP memories and routine stores (R645); a routine store is read under SECDED (R652). -/
def State.windowWord (s : State) (off : Nat) : List Byte :=
  if 12 ≤ off / 0x10000 % 16 then ((s.readLine (0x10000000 + off / 64 * 64)).data.drop (off % 64)).take 4
  else s.bytes (0x10000000 + off) 4

/-- A word written there takes valid check bits (R652). -/
def State.windowWrite (s : State) (off : Nat) (v : Word) : State :=
  let s1 := s.setBytes (0x10000000 + off) (leBytes 4 v.toNat)
  if 12 ≤ off / 0x10000 % 16 then s1.setEcc (0x10000000 + off) 0 else s1

/-- What follows a read of a routine store's word that meets an error: its report (R596). -/
def State.windowRead (s : State) (off : Nat) : State :=
  if !memWindow off || off / 0x10000 % 16 < 12 then s
  else
    let r := s.readLine (0x10000000 + off / 64 * 64)
    let mine := fun (p : Nat × Nat) => p.1 == off % 64 / 8
    if r.bad.any mine then s.report 3 (off / 0x100000) 0x0002 0
    else if r.corrected.any mine then s.report 3 (off / 0x100000) 0x0001 1
    else s

/-- PIN_GPIO_IN_w (R650). -/
def State.gpioInView (s : State) (w : Nat) : Word :=
  BitVec.ofNat 32 (((List.range 32).map fun b => b2n (s.padSense (32 * w + b)) * 2 ^ b).sum)

/-- MV_STATUS (R209). -/
def State.mvStatusView (s : State) (n : Nat) : Word :=
  let q := (s.core n).queue
  BitVec.ofNat 32 (min q.length 64 + 2 ^ 7 * min (q.filter (·.active)).length 8)

/-- What a read of the register at an offset returns (R9, R13, R475). -/
def State.regRead (s : State) (rq : Requester) (off : Nat) : Word :=
  let n := off / 0x100000
  if rq = .host ∧ off / 0x10000 = 0x91 then 0
  else if memWindow off then BitVec.ofNat 32 (leNat (s.windowWord off))
  else if off = 0x970110 ∨ off = 0x970114 then s.gpioInView ((off - 0x970110) / 4)
  else if off = 0x8C0000 then BitVec.ofNat 32 s.devTime.toNat
  else if off = 0x8C0004 then BitVec.ofNat 32 (s.devTime.toNat / 2 ^ 32)
  else if n < 8 ∧ off % 0x100000 = 0x4 then s.ncStatusView n
  else if n < 8 ∧ off % 0x100000 = 0x8 then s.streamPosView n
  else if n < 8 ∧ 0x14000 ≤ off % 0x100000 ∧ off % 0x100000 < 0x1C000 then s.validView off
  else if n < 8 ∧ off % 0x100000 = 0x30000 then s.mvStatusView n
  else if n < 8 ∧ (off % 0x100000 = 0x40004 ∨ off % 0x100000 = 0x50004) then s.maStatusView n (off / 0x10000 % 16 - 4)
  else if bar4Base + 0x80000 ≤ off ∧ off < bar4Base + 0xC0000 then s.obj ((off - bar4Base - 0x80000) / 4 % 32768)
  else s.rd (regStore off)

/-! Writes. -/

/-- A write of a register whose every writable field is written while the core is halted. -/
def State.whileHalted (s : State) (n off : Nat) (v : Word) : State := if s.halted n then s.writeReg off v else s

/-- NC_CTRL (R156). -/
def State.ncCtrlWrite (s : State) (n : Nat) (v : Word) : State :=
  let s1 := s.fput (f_ncCtrl_count_en n) (bits v.toNat 2 2)
  let s2 := if bit v.toNat 3 then s1.ncCountReset n else s1
  let s3 := if bit v.toNat 1 ∧ s2.coreState n ≠ 5 then s2.abortCore n else s2
  if bit v.toNat 0 then s3.startCore n else s3

/-- NC_CP_CTRL (R532). -/
def State.cpCtrlWrite (s : State) (n : Nat) (v : Word) : State :=
  let s1 := if bit v.toNat 1 then s.cpHold n else s
  if bit v.toNat 0 then s1.cpRelease n else s1

/-- A write in block NC, TG, SP, MV, MA, VE, SU or GR of core `n`: block `k`, offset `o` in it. -/
def State.coreWrite (s : State) (n k o : Nat) (v : Word) : State :=
  let off := 0x100000 * n + 0x10000 * k + o
  match k with
  | 0 =>
    if o = 0 then s.ncCtrlWrite n v
    else if o = 0x8 ∨ o = 0xC ∨ o = 0x14 then s.whileHalted n off v
    else if o = 0x40 then s.cpCtrlWrite n v
    else s.writeReg off v
  | 1 =>
    if o = 0 then
      let s1 := s.writeReg off v
      if bit v.toNat 1 then s1.tgClear n else s1
    else if 0x1000 ≤ o ∧ o < 0x1200 then
      -- base_line is written while halted (R170); a change of the slot count judges the full mark anew (R171)
      if o % 8 = 0 ∧ s.halted n = false then s.fput (f_tgRegionCfg_slot_lines_m1 n ((o - 0x1000) / 8)) (bits v.toNat 23 18)
      else (s.writeReg off v).regionFull n ((o - 0x1000) / 8)
    else if 0x1200 ≤ o ∧ o < 0x1300 then
      if s.halted n then (s.writeReg off v).regionFull n ((o - 0x1200) / 4) else s
    else if 0x4000 ≤ o ∧ o < 0xC000 then
      let r := (o - 0x4000) / 512
      let room := s.slotCount n r - 32 * ((o - 0x4000) % 512 / 4)
      if s.halted n then (s.wr off (BitVec.ofNat 32 (v.toNat % 2 ^ min 32 room))).regionFull n r else s
    else s.writeReg off v
  | 2 =>
    if o = 0 then
      let s1 := s.writeReg off v
      let s2 := if bit v.toNat 16 then s1.wr (f_spCorrCount_corrected n).off 0 else s1
      let s3 := if bit v.toNat 2 then (s2.wr (f_spConflictLog_valid n).off 0).wr (f_spConflictLog_position n).off 0 else s2
      if s3.fbit (f_spEvent_corrected n) || s3.fbit (f_spEvent_uncorrectable n) || !(bit v.toNat 0 || bit v.toNat 1) then s3
      else (s3.wr (f_spErrLog_valid n).off 0).wr (f_spErrLog_syndrome n).off 0
    else if o = 0x18 then (if bit v.toNat 0 then s.spScrub n else s)
    else if o = 0x1C then s.wr off (BitVec.ofNat 32 (bits v.toNat 24 1 * 2 + max (s.fget (f_spInject_arm n)) (bits v.toNat 0 0)))
    else s.writeReg off v
  | 3 =>
    if o = 4 then
      let s1 := s.writeReg off v
      if bit v.toNat 16 then s1.mvCountReset n else s1
    else if 0x8000 ≤ o then s.whileHalted n off v
    else s.writeReg off v
  | 6 =>
    let s1 := s.writeReg off v
    if o = 0 ∧ bit v.toNat 16 = true then s1.wr (f_veSatCount_saturated n).off 0 else s1
  | 8 =>
    if o = 0 then
      let s1 := if bit v.toNat 0 then s.seedClear n else s
      if bit v.toNat 1 ∧ s1.halted n = true then s1.fput (f_grCtrl_self_test n) 1 else s1
    else if 0x10 ≤ o ∧ o < 0x20 then s.seedWrite n ((o - 0x10) / 4) v
    else s.writeReg off v
  | 9 => if s.halted n then s.windowWrite off v else s
  | 7 => s.writeReg off v
  | _ =>
    if k = 4 ∨ k = 5 then
      let a := k - 4
      if o = 0 then
        let s1 := s.fput (f_maCtrl_count_en n a) (bits v.toNat 1 1)
        let s2 := if bit v.toNat 2 then s1.maCountReset n a else s1
        if bit v.toNat 0 ∧ s2.fget (f_maCtrl_clear_banks n a) = 0 then s2.maClear n a else s2
      else if o = 0x40 then
        let s1 := s.writeReg off v
        let s2 := if bit v.toNat 0 then s1.wr (f_maResidueLog_valid n a).off 0 else s1
        if bit v.toNat 16 then s2.maCountsClear n a else s2
      else s.writeReg off v
    else if 12 ≤ k then (if s.halted n then s.windowWrite off v else s)
    else s

/-- HB (R196, R197). -/
def State.hbWrite (s : State) (o : Nat) (v : Word) : State :=
  if o = 0 then
    let s1 := s.writeReg 0x800000 v
    let s2 := if bit v.toNat 16 then s1.wr f_hbCorrCount_corrected.off 0 else s1
    if s2.fbit f_hbEvent_corrected || s2.fbit f_hbEvent_uncorrectable || !(bit v.toNat 0 || bit v.toNat 1) then s2
    else (s2.wr f_hbErrLog_valid.off 0).wr f_hbErrLog_syndrome.off 0
  else if o = 0x10 then
    (if bit v.toNat 0 then s.hbScrub else s)
  else s.writeReg (0x800000 + o) v

/-- MC (R461 to R473). -/
def State.mcWrite (s : State) (o : Nat) (v : Word) : State :=
  if o = 0 then s.mcCtrlWrite v
  else if o = 8 then s.mcConfigWrite v
  else if 0x10 ≤ o ∧ o < 0x38 then s.mcPortWrite ((o - 0x10) / 4) v
  else if o = 0x44 then
    let s1 := s.writeReg 0x810044 v
    let s2 := if bit v.toNat 16 then s1.mcCountsClear else s1
    if bit v.toNat 2 then (s2.wr f_mcErrLog_valid.off 0).wr f_mcErrLog_line.off 0 else s2
  else if o = 0x100 then s.trainWrite (bits v.toNat 23 0) (bits v.toNat 26 24) (bit v.toNat 27)
  else s.writeReg (0x810000 + o) v

/-- CI (R349 to R361). -/
def State.ciWrite (s : State) (o : Nat) (v : Word) : State :=
  if o = 0 then
    let port := fun (s : State) (p i : Nat) =>
      match bit v.toNat i, s.fbit (portEn p) with
      | true, false => s.portEnable p
      | false, true => s.portDisable p
      | _, _ => s
    let s1 := (port (port s 0 0) 1 1).fput f_ciCtrl_encrypt_req (bits v.toNat 3 3)
    if bit v.toNat 2 then s1.ciReadmit else s1
  else if o = 0x28 then
    let s1 := s.writeReg 0x830028 v
    if bit v.toNat 16 then s1.ciCountsClear else s1
  else if 0x100 ≤ o ∧ o < 0x140 then (if s.jobRing then s else s.writeReg (0x830000 + o) v)
  else s.writeReg (0x830000 + o) v

/-- CR_CFG_n (R385): while the receiver runs only its enable and the reference clock's fields are written; the enable of
width 3 is refused. -/
def State.crWrite (s : State) (n o : Nat) (v : Word) : State :=
  if o ≠ 0 then s
  else
    let on := s.fbit (f_crCfg_enable n)
    let off := (f_crCfg_enable n).off
    let s1 := if on then (s.fput (f_crCfg_refclk_div n) (bits v.toNat 12 5)).fput (f_crCfg_refclk_ss n) (bits v.toNat 13 13)
      else (s.writeReg off v).fput (f_crCfg_enable n) 0
    match bit v.toNat 0, on with
    | true, false =>
      if s1.fget (f_crCfg_width n) = 3 then s1.raise f_iaEvent_config_refused
      else (s1.fput (f_crCfg_enable n) 1).fput (f_crStatus_state n) 1
    | false, true => (s1.fput (f_crCfg_enable n) 0).fput (f_crStatus_state n) 0
    | _, _ => s1

/-- A word of IA_STREAM_n (R395): while the stream is enabled only its enable. -/
def State.streamWrite (s : State) (n w : Nat) (v : Word) : State :=
  let on := s.fbit (f_iaStream_enable n)
  let off := (f_iaStream_enable n).off + 4 * w
  if w = 0 then
    if bit v.toNat 0 then s.streamEnable n v
    else if on then s.streamDisable n
    else s.writeReg off v
  else if on then s else s.writeReg off v

/-- A word of IA_GROUP_g (R396): words 1 to 5 while the group is disabled. -/
def State.groupWrite (s : State) (g w : Nat) (v : Word) : State :=
  let on := s.fbit (f_iaGroup_enable g)
  let off := (f_iaGroup_enable g).off + 4 * w
  if w = 0 then
    if on then
      let s1 := (s.fput (f_iaGroup_min_members g) (bits v.toNat 6 1)).fput (f_iaGroup_records_m1 g) (bits v.toNat 14 7)
      if bit v.toNat 0 then s1 else s1.groupDisable g
    else if bit v.toNat 0 then s.groupEnable g v
    else s.writeReg off v
  else if on ∧ w ≤ 5 then s else s.writeReg off v

/-- IA (R387 to R397). -/
def State.iaWrite (s : State) (o : Nat) (v : Word) : State :=
  if o = 0x30 then
    let s1 := s.writeReg 0x8C0030 v
    if bit v.toNat 16 then s1.iaCountsClear else s1
  else if 0x100 ≤ o ∧ o < 0x180 ∧ o % 16 = 0 then s.fsyncCommit ((o - 0x100) / 16) v
  else if 0x1000 ≤ o ∧ o < 0x1400 then s.streamWrite ((o - 0x1000) / 32) ((o - 0x1000) % 32 / 4) v
  else if 0x2000 ≤ o ∧ o < 0x2200 then s.groupWrite ((o - 0x2000) / 32) ((o - 0x2000) % 32 / 4) v
  else if 0x3000 ≤ o ∧ o < 0x3200 then
    let g := (o - 0x3000) / 32
    let w := (o - 0x3000) % 32 / 4
    if w = 4 then s.augCommit g v
    else if w < 4 then
      let x := s.group g
      s.setGroup g { x with augSeed := BitVec.ofNat 128 (setBits x.augSeed.toNat (32 * w + 31) (32 * w) v.toNat) }
    else s
  else s.writeReg (0x8C0000 + o) v

/-- A word of a pipe context (R413, R432): colour fields at any time, into the pending copy; the others while unbound. -/
def State.ctxWrite (s : State) (c w : Nat) (v : Word) : State :=
  let bound := s.ctxBound c
  let off := 0x8D1000 + 128 * c + 4 * w
  if w = 0 then
    let s1 := if bound then
        ((s.fput (f_ipCtx_defect_en 0 c) (bits v.toNat 8 8)).fput (f_ipCtx_tone_en 0 c) (bits v.toNat 9 9)).fput
          (f_ipCtx_curve 0 c) (bits v.toNat 13 10)
      else s.writeReg off v
    if bit v.toNat 0 then s1.fput (f_ipCtx_commit 0 c) 1 else s1
  else if w ≤ 10 ∧ bound = true then s
  else s.writeReg off v

/-- IPp (R428 to R433); both pipes' blocks show the same contexts and curves. -/
def State.ipWrite (s : State) (p o : Nat) (v : Word) : State :=
  let off := 0x8D0000 + 0x10000 * p + o
  if o = 0 then
    (if (List.range 32).any fun n => s.fbit (f_iaStream_enable n) && s.isPipe n && s.fget (f_iaStream_pipe n) == p then s
      else s.writeReg off v)
  else if o = 8 then
    let s1 := s.writeReg off v
    if bit v.toNat 16 then s1.wr (f_ipSwitchCount_switches p).off 0 else s1
  else if 0x1000 ≤ o ∧ o < 0x2000 then s.ctxWrite ((o - 0x1000) / 128) ((o - 0x1000) % 128 / 4) v
  else if 0x4000 ≤ o ∧ o < 0xC000 then
    (if (o - 0x4000) % 2048 / 4 < 387 then s.curveWrite p ((o - 0x4000) / 2048) ((o - 0x4000) % 2048 / 4) v else s)
  else s.writeReg off v

/-- VX (R434 to R437). -/
def State.vxWrite (s : State) (o : Nat) (v : Word) : State :=
  if o = 0 then
    let s1 := if bit v.toNat 2 then s.vxReset else s
    let s2 := if bit v.toNat 0 then
        (if s1.fget f_vxSeqStatus_state = 2 then s1.fput f_vxSeqStatus_state 0 else s1).fput f_vxSeqCtrl_hold 1
      else s1
    if bit v.toNat 1 then s2.vxRelease else s2
  else s.writeReg (0x8F0000 + o) v

/-- SC (R553 to R556), written by the MP alone. -/
def State.scWrite (s : State) (o : Nat) (v : Word) : State :=
  if 0x200 ≤ o ∧ o < 0x220 then s.whileHalted ((o - 0x200) / 4) (0x910000 + o) v
  else if o = 0x400 then
    let s1 := s.fput f_scMboxCmd_op (bits v.toNat 7 0)
    if bit v.toNat 8 then s1.mboxRun (bits v.toNat 7 0) else s1
  else s.writeReg (0x910000 + o) v

/-- A GPIO output or enable word (R649): pads that stand at function 0 follow. -/
def State.gpioWrite (s : State) (o : Nat) (v : Word) : State :=
  let off := 0x970000 + o
  let old := s.rd off
  let w := (o - 0x100) / 4 % 2
  (List.range 32).foldl (fun s b => if bit old.toNat b != bit v.toNat b then s.driveGpio (32 * w + b) else s) (s.writeReg off v)

/-- A register write that a requester may make and that sets no growth bit. -/
def State.regAct (s : State) (off : Nat) (v : Word) : State :=
  let o := off % 0x10000
  let b := off / 0x10000
  if b < 0x80 then s.coreWrite (off / 0x100000) (b % 16) o v
  else match b with
    | 0x80 => s.hbWrite o v
    | 0x81 => s.mcWrite o v
    | 0x82 => if o = 0 then (if bit v.toNat 4 then s.bootGo else s) else s.writeReg off v
    | 0x83 => s.ciWrite o v
    | 0x8C => s.iaWrite o v
    | 0x8D => s.ipWrite 0 o v
    | 0x8E => s.ipWrite 1 o v
    | 0x8F => s.vxWrite o v
    | 0x91 => s.scWrite o v
    | 0x92 => if o = 0x10 then s.sedRead v else if o = 0x40 then s.wdogWrite v else if o = 0x44 then s.wdogKick else s.writeReg off v
    | 0x93 =>
      if 0x20 ≤ o ∧ o < 0x60 then s.limitSet o v
      else if 0x80 ≤ o ∧ o < 0xA0 then s.corePower ((o - 0x80) / 4) (bit v.toNat 0)
      else s.writeReg off v
    | 0x94 =>
      if o < 0x48 ∧ o % 8 = 0 then s.pllWrite (o / 8) v
      else if 0x100 ≤ o ∧ o < 0x124 then s.domainWrite ((o - 0x100) / 4) v
      else s.writeReg off v
    | 0x95 => if 0x104 ≤ o ∧ o < 0x130 then s.classCfg ((o - 0x100) / 4) v else s.writeReg off v
    | 0x97 =>
      if o < 0x100 then s.pinMuxWrite (o / 4) v else if 0x100 ≤ o ∧ o < 0x110 then s.gpioWrite o v else s.writeReg off v
    | _ => if 0x84 ≤ b ∧ b ≤ 0x8B then s.crWrite (b - 0x84) o v else s.writeReg off v

/-! Who may write (R475). -/

/-- The fields of HI that are host-writable stand at these offsets: HI_BOOT.go, HI_BOOT_LEN, the BAR2 segments and the host
window (R478, R482, R483, R506). -/
def hostHi (o : Nat) : Bool := o == 0 || o == 4 || (decide (0x100 ≤ o) && decide (o < 0x180)) || (decide (0x8000 ≤ o) && decide (o < 0x10000))

/-- Whether the host's write at a BAR0 offset reaches the register. -/
def hostMay (off : Nat) : Bool :=
  let b := off / 0x10000
  let o := off % 0x10000
  if b = 0x82 then hostHi o
  else if b = 0x8C then !(decide (o = 8) || decide (o = 0x10) || decide (o = 0x14) || (decide (0x3000 ≤ o) && decide (o < 0x3200)))
  else decide (0x84 ≤ b) && decide (b ≤ 0x8E)

/-- Whether a requester's write reaches the register; what the MP reports in HI_FW_STATUS and HI_JOB_COUNT it writes. -/
def mayWrite (rq : Requester) (off : Nat) : Bool :=
  match rq with
  | .host => hostMay off
  | .mp => !(off / 0x10000 == 0x82 && hostHi (off % 0x10000))

/-- A write that does not reach the register (R475). -/
def State.discardWrite (s : State) (rq : Requester) : State :=
  match rq with
  | .host => s.raise f_hiEvent_host_write_refused
  | .mp => s

/-- The MP's own report registers in HI (R484, R526): party 0's count always reads 0. -/
def State.mpReport (s : State) (off : Nat) (v : Word) : Option State :=
  if off = 0x820008 then some (s.wr off (v &&& 0xFFFF0007))
  else if 0x820200 ≤ off ∧ off < 0x820280 then some (if off < 0x820208 then s else s.wr off v)
  else none

/-- One word reaches its register (R14). -/
def State.regPut (s : State) (rq : Requester) (off : Nat) (v : Word) : State :=
  let a := regStore off
  if growthSet a v then s.growthOverflow a
  else match rq, s.mpReport off v with
    | .mp, some s1 => s1
    | _, _ => s.regAct off v

/-! Pairs (R12). -/

/-- The key of a pair and a requester. -/
def pairKey (rq : Requester) (low : Nat) : Nat := 2 * low + (match rq with | .host => 0 | .mp => 1)

/-- Store or release a write hold. -/
def State.setHold (s : State) (k : Nat) (x : Option Word) : State := { s with holds := mapSet (fun _ => (none : Option Word)) s.holds k x }

/-- Load a read latch or clear its mark. -/
def State.setLatch (s : State) (k : Nat) (x : Option Word) : State := { s with latches := mapSet (fun _ => (none : Option Word)) s.latches k x }

/-- Commit the high word of a pair, with the held low word if there is one; a growth bit in either discards both, with one
event for the pair (R14). -/
def State.pairCommit (s : State) (rq : Requester) (low : Nat) (lo : Option Word) (hi : Word) : State :=
  if growthSet (low + 4) hi || (match lo with | some l => growthSet low l | none => false) then s.growthOverflow low
  else if low = f_iaTimeStep_step_lo.off then s.timeStep (BitVec.ofNat 64 (hi.toNat * 2 ^ 32 + (lo.getD 0).toNat))
  else
    let s1 := match lo with | some l => s.regPut rq low l | none => s
    s1.regPut rq (low + 4) hi

/-- A write to a pair's low word is held; a write to its high word commits. -/
def State.pairWrite (s : State) (rq : Requester) (off : Nat) (v : Word) : State :=
  if pairKind off = 1 then s.setHold (pairKey rq off) (some v)
  else
    let k := pairKey rq (off - 4)
    let lo := mapGet (fun _ => (none : Option Word)) s.holds k
    (s.setHold k none).pairCommit rq (off - 4) lo v

/-! BAR4 (R479). -/

/-- Whether a BAR4 offset is reserved; the SQ fields of the event ring's page are. -/
def bar4Reserved (o : Nat) : Bool :=
  if o < 0x11000 then
    let p := o % 0x1000
    !(p == 0 || p == 4 || p == 8 || p == 0xC || p == 0x10 || p == 0x14 || p == 0x20 || p == 0x24 || p == 0x28 || p == 0x2C) ||
      (decide (0x10000 ≤ o) && (p == 0 || p == 4 || p == 0x20 || p == 0x28))
  else !((decide (0x80000 ≤ o) && decide (o < 0xC0000)) || (decide (0xF0000 ≤ o) && decide (o < 0xF0400)) ||
    (decide (0xF8000 ≤ o) && decide (o < 0xF8008)))

/-- A host write to the MSI-X table; a vector that is pending is sent when its mask falls. -/
def State.msixWrite (s : State) (o : Nat) (v : Word) : State :=
  let n := (o - 0xF0000) / 16
  let s1 := s.wr (bar4Base + o) v
  let pba := bar4Base + 0xF8000 + 4 * (n / 32)
  if o % 16 = 12 ∧ bit v.toNat 0 = false ∧ bit (s.rd pba).toNat (n % 32) = true then
    (s1.wr pba (BitVec.ofNat 32 (setBits (s.rd pba).toNat (n % 32) (n % 32) 0))).emit (.msix n)
  else s1

/-- A host write at a BAR4 offset (R479, R480, R486 to R493). -/
def State.bar4Write (s : State) (o : Nat) (v : Word) : State :=
  let q := o / 0x1000
  let p := o % 0x1000
  if o % 4 ≠ 0 ∨ bar4Reserved o then s.raise f_hiEvent_doorbell_bad_access
  else if o < 0x11000 then
    if p < 0x10 then
      let k := pairKey .host (bar4Base + o / 8 * 8)
      if o % 8 = 0 then s.setHold k (some v)
      else
        let lo := mapGet (fun _ => (none : Option Word)) s.holds k
        let s1 := s.setHold k none
        if s1.fbit (f_rpCfg_enable q) then s1
        else
          let s2 := match lo with | some l => s1.writeReg (bar4Base + o - 4) l | none => s1
          s2.writeReg (bar4Base + o) v
    else if p = 0x10 then s.pairConfig q v
    else if p = 0x14 then s.writeReg (bar4Base + o) v
    else if p = 0x20 then s.sqDoorbell q v.toNat
    else if p = 0x24 then s.cqDoorbell q v.toNat
    else s
  else if o < 0xA0000 then s.signalObj ((o - 0x80000) / 4) v
  else if o < 0xC0000 then s.replaceObject ((o - 0xA0000) / 4) v
  else if o < 0xF8000 then s.msixWrite o v
  else s

/-! Accesses. -/

/-- A write of one aligned word by a requester. -/
def State.access (s : State) (rq : Requester) (off : Nat) (v : Word) : State :=
  if bar4Base ≤ off then
    match rq with
    | .host => s.bar4 (off - bar4Base) fun s => s.bar4Write (off - bar4Base) v
    | .mp => s
  else if off % 4 ≠ 0 then s
  else if !mayWrite rq off then s.discardWrite rq
  else if pairKind off ≠ 0 then s.pairWrite rq off v
  else s.regPut rq off v

/-- A read of one aligned word by a requester: the answer, with the latch of a pair (R12). -/
def State.readWord (s : State) (rq : Requester) (off : Nat) : State :=
  let answer := fun (s : State) (v : Word) => s.emit (.readData (leBytes 4 v.toNat))
  let v := s.regRead rq off
  let hidden := decide (rq = .host) && off / 0x10000 == 0x91
  if bar4Base ≤ off ∧ rq = .host ∧ s.fget f_hiBoot_state ≠ 4 then s.refuseAccess (off - bar4Base)
  else if hidden then answer s 0
  else match pairKind off with
    | 1 => answer (s.setLatch (pairKey rq off) (some (s.regRead rq (off + 4)))) v
    | 2 =>
      let k := pairKey rq (off - 4)
      match mapGet (fun _ => (none : Option Word)) s.latches k with
      | some h => answer (s.setLatch k none) h
      | none => answer s v
    | _ => answer (if off < bar4Base then s.windowRead off else s) v

/-- REGISTER_WRITE (R9, R13, R14, R475). -/
def execRegisterWrite (rq : Requester) (off : Nat) (v : Word) (s : State) : Host.Outcome State Fault Refusal :=
  .next (s.access rq off v)

/-- PAIR_LOW_READ (R12). -/
def execPairLowRead (rq : Requester) (off : Nat) (s : State) : Host.Outcome State Fault Refusal := .next (s.readWord rq off)

/-- PAIR_HIGH_READ (R12). -/
def execPairHighRead (rq : Requester) (off : Nat) (s : State) : Host.Outcome State Fault Refusal := .next (s.readWord rq off)

/-- PAIR_LOW_WRITE (R12). -/
def execPairLowWrite (rq : Requester) (off : Nat) (v : Word) (s : State) : Host.Outcome State Fault Refusal :=
  .next (s.access rq off v)

/-- PAIR_HIGH_WRITE (R12, R14). -/
def execPairHighWrite (rq : Requester) (off : Nat) (v : Word) (s : State) : Host.Outcome State Fault Refusal :=
  .next (s.access rq off v)

end Sys2Proof.Machine
end

