-- ==== Sys2Proof/Machine/Sampling.lean ====
section
/-! DEFINITION. The sampling unit (R279 to R282): one token per logit vector under its parameter record. -/

namespace Sys2Proof.Machine

/-- A parameter record as the unit uses it (R280): temperature (none is greedy), top_p (none is off), whether only rank 0
is kept, top_k, sample index, draw, stream, and whether a field was replaced. -/
structure SuRecord where
  temp : Option FV
  topP : Option FV
  onlyTop : Bool
  topK : Nat
  sample : Nat
  draw : Nat
  stream : Nat
  clamped : Bool
  deriving DecidableEq, Repr

/-- Parse a parameter record (R280). -/
def parseSu (d : List Byte) (kcap : Nat) : SuRecord :=
  let t := dec32 (fieldAt d 0 4)
  let p := dec32 (fieldAt d 4 4)
  let k := fieldAt d 8 4
  let tBad := (match t with | .nan => true | _ => false) || fvNeg t
  let pBad := (match p with | .nan => true | _ => false) || fvNeg p || fvIsZero p
  { temp := if tBad || fvIsZero t then none else some t,
    topP := if pBad || !fvLt p (.fin 1 0) then none else some p,
    onlyTop := pBad,
    topK := if k = 0 then kcap else min k kcap,
    sample := fieldAt d 12 4, draw := fieldAt d 16 4, stream := fieldAt d 20 1, clamped := tBad || pBad }

/-- Insert a candidate into the ranks kept so far: by value descending, an equal value after the earlier indices (R281). -/
def rankInsert (x : Nat × FV) : List (Nat × FV) → List (Nat × FV)
  | [] => [x]
  | y :: t => if fvLt y.2 x.2 then x :: y :: t else y :: rankInsert x t

/-- The first `k` ranks of the candidates, in index order. -/
def rankTop (k : Nat) (l : List (Nat × FV)) : List (Nat × FV) := l.foldl (fun r x => (rankInsert x r).take k) []

/-- Running sums (R281). -/
def runningSums : FV → List FV → List FV
  | _, [] => []
  | c, e :: t => let s := (vAdd c e).1; s :: runningSums s t

/-- What a sample writes, and what it met. -/
structure SuOut where
  token : Nat
  prob : Nat
  noCand : Bool
  nanLogit : Bool
  deriving DecidableEq, Repr

/-- One sample (R281). `word` is the grit function of the draw's element counter. -/
def suSample (r : SuRecord) (kcap : Nat) (xs : List FV) (word : Nat → Nat) : SuOut :=
  let idx := List.zip (List.range xs.length) xs
  let cand := idx.filter fun p => match p.2 with | .fin _ _ => true | _ => false
  let bad := decide (cand.length < xs.length)
  match cand with
  | [] => ⟨0xFFFFFFFF, 0x7FC00000, true, bad⟩
  | _ =>
    let ys := match r.temp with
      | none => cand
      | some t => let inv := (vDiv (.fin 1 0) t).1; cand.map fun p => (p.1, (vMul p.2 inv).1)
    let k := min r.topK (min kcap cand.length)
    let ranks := rankTop k ys
    match ranks, r.temp with
    | [], _ => ⟨0xFFFFFFFF, 0x7FC00000, true, bad⟩
    | top :: _, none => ⟨top.1, 0x3F800000, false, bad⟩
    | top :: _, some _ =>
      let es := ranks.map fun p => (vExp (vAdd p.2 (fvNegate top.2)).1).1
      let total := canonTree (fun a b => (vAdd a b).1) FV.zero es
      let cs := runningSums .zero es
      let n :=
        if r.onlyTop then 1
        else match r.topP with
          | none => ranks.length
          | some p =>
            let lim := (vMul p total).1
            match cs.findIdx? fun c => !fvLt c lim with
            | some i => i + 1
            | none => ranks.length
      let cn := cs.getD (n - 1) .zero
      let w := word (2 * r.draw) + 65536 * word (2 * r.draw + 1)
      let t := (vMul (.fin ((w / 256 : Nat) : Int) (-24)) cn).1
      let pick := match (cs.take n).findIdx? fun c => fvLt t c with
        | some i => i
        | none => n - 1
      ⟨(ranks.getD pick top).1, enc32 (vDiv (es.getD pick .zero) cn).1, false, bad⟩

/-- One vector of a SAMPLE that starts on cycle `start` with `c` cycles per vector. -/
def State.suOne (s : State) (who : Who) (fmt v kcap : Nat) (xa xb xd : VOpd) (ha hb start c k : Nat) : State :=
  let n := who.core
  let base := start + 2 + k * c
  let a := s.vRead who xa ha k base 0 (List.range xa.lines) rankSu
  let b := a.2.2.vRead who xb hb k base 0 (List.range xb.lines) rankSu
  let s2 := b.2.2
  let r := parseSu b.1 kcap
  let key := (s2.core n).gritKey
  let xs := ((codesOf (fmtWidth fmt) a.1).take v).map (decodeFmt fmt)
  let o := suSample r kcap xs (gritWord key 1 r.stream r.sample)
  let s3 := if o.noCand then s2.raise (f_suEvent_no_candidate n) else s2
  let s4 := if o.nanLogit then s3.raise (f_suEvent_nan_logit n) else s3
  let s5 := if r.clamped then s4.raise (f_suEvent_param_clamped n) else s4
  s5.vWrite who xd k (base + c - 1 + 16) none
    ⟨leBytes 4 o.token ++ leBytes 4 o.prob, [], 0, .none⟩ rankSu

/-- SAMPLE (R279 to R282). -/
def execSample (core : Fin 8) (w : IWord) (s : State) : Host.Outcome State Fault Refusal :=
  let n := core.val
  let fmt := fld w 31 28
  let v := fld w 127 112 + 65536 * fld w 25 24 + 1
  let kcap := fld w 105 96 + 1
  let count := fld w 47 32 + 1
  match s.issue n w 6 0x01 with
  | .none => .next s
  | .fault s' => .next s'
  | .go cyc who s1 =>
    if fmt ≠ 8 ∧ fmt ≠ 9 ∧ fmt ≠ 0xA then .next (s.decodeFault n 6 0x04)
    else match s.vOpd n cyc (fld w 63 48) (eltLines fmt v) count false, s.vOpd n cyc (fld w 79 64) 1 count false,
        s.vOpd n cyc (fld w 95 80) 1 count true with
      | some xa, some xb, some xd =>
        let c := ceilDiv (v * (fmtWidth fmt / 8)) 256 + 4 * kcap + 64
        let last := 2 + count * c - 1 + 16
        let st := s1.engineStart who cyc (count * c) last
        let ha := st.2.vHead n (s1.issuedAt who cyc) xa
        let hb := st.2.vHead n (s1.issuedAt who cyc) xb
        let s3 := (List.range count).foldl (fun s k => s.suOne who fmt v kcap xa xb xd ha hb st.1 c k) st.2
        let rd := fun (x : VOpd) => (x, st.1 + 2 + (count - 1) * c + (x.lines - 1) / 4)
        .next ((s3.vDone who [rd xa, rd xb, (xd, 0)] (st.1 + last)).advance n)
      | _, _, _ => .next (s.decodeFault n 6 0x07)

end Sys2Proof.Machine
end

