-- ==== Sys2Proof/Machine/Dispatch.lean ====
section
/-! DEFINITION. One arm per command: each calls its meaning, or rejects by name. -/

namespace Sys2Proof.Machine

/-- The effect of a command on everything but the queue. -/
def exec (i : Instr) (s : State) : Host.Outcome State Fault Refusal :=
  match i with
  | .nop core w => Sys2Proof.Machine.execNop core w s
  | .stepEnd core w => Sys2Proof.Machine.execStepEnd core w s
  | .repeatBody core w => Sys2Proof.Machine.execRepeatBody core w s
  | .call core w => Sys2Proof.Machine.execCall core w s
  | .ret core w => Sys2Proof.Machine.execRet core w s
  | .setb core w => Sys2Proof.Machine.execSetb core w s
  | .addb core w => Sys2Proof.Machine.execAddb core w s
  | .regionSet core w => Sys2Proof.Machine.execRegionSet core w s
  | .aspLoad core w => Sys2Proof.Machine.execAspLoad core w s
  | .pass core w upsets => Sys2Proof.Machine.execPass core w upsets s
  | .profileLoad core w => Sys2Proof.Machine.execProfileLoad core w s
  | .tableLoad core w => Sys2Proof.Machine.execTableLoad core w s
  | .signal core w => Sys2Proof.Machine.execSignal core w s
  | .wait core w => Sys2Proof.Machine.execWait core w s
  | .setObj core w => Sys2Proof.Machine.execSetObj core w s
  | .move core w => Sys2Proof.Machine.execMove core w s
  | .veAdd core w => Sys2Proof.Machine.execVeAdd core w s
  | .veSub core w => Sys2Proof.Machine.execVeSub core w s
  | .veMul core w => Sys2Proof.Machine.execVeMul core w s
  | .veMac core w => Sys2Proof.Machine.execVeMac core w s
  | .veMax core w => Sys2Proof.Machine.execVeMax core w s
  | .veMin core w => Sys2Proof.Machine.execVeMin core w s
  | .veCvt core w => Sys2Proof.Machine.execVeCvt core w s
  | .veTable core w => Sys2Proof.Machine.execVeTable core w s
  | .veTableLoad core w => Sys2Proof.Machine.execVeTableLoad core w s
  | .veRsum core w => Sys2Proof.Machine.execVeRsum core w s
  | .veRmax core w => Sys2Proof.Machine.execVeRmax core w s
  | .veTree core w => Sys2Proof.Machine.execVeTree core w s
  | .veNorm core w => Sys2Proof.Machine.execVeNorm core w s
  | .veExp core w => Sys2Proof.Machine.execVeExp core w s
  | .veLn core w => Sys2Proof.Machine.execVeLn core w s
  | .veRecip core w => Sys2Proof.Machine.execVeRecip core w s
  | .veRsqrt core w => Sys2Proof.Machine.execVeRsqrt core w s
  | .veDiv core w => Sys2Proof.Machine.execVeDiv core w s
  | .vePatch core w => Sys2Proof.Machine.execVePatch core w s
  | .veToPixel core w => Sys2Proof.Machine.execVeToPixel core w s
  | .veToPlanar core w => Sys2Proof.Machine.execVeToPlanar core w s
  | .vePool core w => Sys2Proof.Machine.execVePool core w s
  | .veResample core w => Sys2Proof.Machine.execVeResample core w s
  | .sample core w => Sys2Proof.Machine.execSample core w s
  | .uniform16 core w => Sys2Proof.Machine.execUniform16 core w s
  | .uniform core w => Sys2Proof.Machine.execUniform core w s
  | .normalBm core w => Sys2Proof.Machine.execNormalBm core w s
  | .normalTab core w => Sys2Proof.Machine.execNormalTab core w s
  | .bernoulli core w => Sys2Proof.Machine.execBernoulli core w s
  | .waitSatisfied core cycles => Sys2Proof.Machine.execWaitSatisfied core cycles s
  | .streamedPassComplete core arr cycles dry backup => Sys2Proof.Machine.execStreamedPassComplete core arr cycles dry backup s
  | .streamAbandoned core arr cycles written dry backup poisoned => Sys2Proof.Machine.execStreamAbandoned core arr cycles written dry backup poisoned s
  | .waitTimeout core cycles => Sys2Proof.Machine.execWaitTimeout core cycles s
  | .transferComplete core idx data => Sys2Proof.Machine.execTransferComplete core idx data s
  | .transferFailed core idx cause runs data => Sys2Proof.Machine.execTransferFailed core idx cause runs data s
  | .spAsyncWriteback core line => Sys2Proof.Machine.execSpAsyncWriteback core line s
  | .ncStart core => Sys2Proof.Machine.execNcStart core s
  | .ncAbort core => Sys2Proof.Machine.execNcAbort core s
  | .ncAbortDone core => Sys2Proof.Machine.execNcAbortDone core s
  | .ncCountReset core => Sys2Proof.Machine.execNcCountReset core s
  | .cpRelease core => Sys2Proof.Machine.execCpRelease core s
  | .cpHold core => Sys2Proof.Machine.execCpHold core s
  | .maClearBanks core arr => Sys2Proof.Machine.execMaClearBanks core arr s
  | .maClearDone core arr => Sys2Proof.Machine.execMaClearDone core arr s
  | .maCountReset core arr => Sys2Proof.Machine.execMaCountReset core arr s
  | .maCountsClear core arr => Sys2Proof.Machine.execMaCountsClear core arr s
  | .tgLogClear core => Sys2Proof.Machine.execTgLogClear core s
  | .spScrubStart core => Sys2Proof.Machine.execSpScrubStart core s
  | .spScrubDone core => Sys2Proof.Machine.execSpScrubDone core s
  | .spCountsClear core => Sys2Proof.Machine.execSpCountsClear core s
  | .spInjectArm core v => Sys2Proof.Machine.execSpInjectArm core v s
  | .hbScrubStart => Sys2Proof.Machine.execHbScrubStart s
  | .hbScrubDone => Sys2Proof.Machine.execHbScrubDone s
  | .hbCountsClear => Sys2Proof.Machine.execHbCountsClear s
  | .mvCountReset core => Sys2Proof.Machine.execMvCountReset core s
  | .veCountsClear core => Sys2Proof.Machine.execVeCountsClear core s
  | .seedClear core => Sys2Proof.Machine.execSeedClear core s
  | .selfTest core pass => Sys2Proof.Machine.execSelfTest core pass s
  | .grSeedWrite core m v => Sys2Proof.Machine.execGrSeedWrite core m v s
  | .registerWrite rq off v => Sys2Proof.Machine.execRegisterWrite rq off v s
  | .pairLowRead rq off => Sys2Proof.Machine.execPairLowRead rq off s
  | .pairHighRead rq off => Sys2Proof.Machine.execPairHighRead rq off s
  | .pairLowWrite rq off v => Sys2Proof.Machine.execPairLowWrite rq off v s
  | .pairHighWrite rq off v => Sys2Proof.Machine.execPairHighWrite rq off v s
  | .mpSyncSignal obj inc => Sys2Proof.Machine.execMpSyncSignal obj inc s
  | .mpSyncSet obj v => Sys2Proof.Machine.execMpSyncSet obj v s
  | .portEnable port => Sys2Proof.Machine.execPortEnable port s
  | .portTrainingDone port reversed polarity => Sys2Proof.Machine.execPortTrainingDone port reversed polarity s
  | .portTrainingTimeout port => Sys2Proof.Machine.execPortTrainingTimeout port s
  | .linkHello rx => Sys2Proof.Machine.execLinkHello rx s
  | .idleLinkWord port => Sys2Proof.Machine.execIdleLinkWord port s
  | .linkAck port count => Sys2Proof.Machine.execLinkAck port count s
  | .replayRequest port => Sys2Proof.Machine.execReplayRequest port s
  | .creditReturn port classD lines => Sys2Proof.Machine.execCreditReturn port classD lines s
  | .portSilenceTimeout port => Sys2Proof.Machine.execPortSilenceTimeout port s
  | .frameData rx => Sys2Proof.Machine.execFrameData rx s
  | .dataLast rx => Sys2Proof.Machine.execDataLast rx s
  | .burstOpen rx => Sys2Proof.Machine.execBurstOpen rx s
  | .burstReply rx => Sys2Proof.Machine.execBurstReply rx s
  | .signalFrame rx => Sys2Proof.Machine.execSignalFrame rx s
  | .fence rx => Sys2Proof.Machine.execFence rx s
  | .enumOutbound rx => Sys2Proof.Machine.execEnumOutbound rx s
  | .enumReturn rx => Sys2Proof.Machine.execEnumReturn rx s
  | .enumClosedTimeout => Sys2Proof.Machine.execEnumClosedTimeout s
  | .membershipQuiesce rx => Sys2Proof.Machine.execMembershipQuiesce rx s
  | .membershipCommit rx => Sys2Proof.Machine.execMembershipCommit rx s
  | .memberReplyTimeout => Sys2Proof.Machine.execMemberReplyTimeout s
  | .fwMessage rx => Sys2Proof.Machine.execFwMessage rx s
  | .burstHoldExpiry idx => Sys2Proof.Machine.execBurstHoldExpiry idx s
  | .burstReplyTimeout idx => Sys2Proof.Machine.execBurstReplyTimeout idx s
  | .ciReadmit => Sys2Proof.Machine.execCiReadmit s
  | .ciCountsClear => Sys2Proof.Machine.execCiCountsClear s
  | .frameStart port vc number hdr => Sys2Proof.Machine.execFrameStart port vc number hdr s
  | .frameEnd port vc hdr => Sys2Proof.Machine.execFrameEnd port vc hdr s
  | .longPacket port vc dt data hdr crcOk fifoFull => Sys2Proof.Machine.execLongPacket port vc dt data hdr crcOk fifoFull s
  | .csiLaneError port => Sys2Proof.Machine.execCsiLaneError port s
  | .lineTimeout n => Sys2Proof.Machine.execLineTimeout n s
  | .sampleReady n => Sys2Proof.Machine.execSampleReady n s
  | .collectionDeadline g => Sys2Proof.Machine.execCollectionDeadline g s
  | .spiDataReady ctl data => Sys2Proof.Machine.execSpiDataReady ctl data s
  | .ppsEdge => Sys2Proof.Machine.execPpsEdge s
  | .ppsLost => Sys2Proof.Machine.execPpsLost s
  | .fsyncAssert n => Sys2Proof.Machine.execFsyncAssert n s
  | .fsyncDeassert n => Sys2Proof.Machine.execFsyncDeassert n s
  | .iaFsyncCommit n w0 => Sys2Proof.Machine.execIaFsyncCommit n w0 s
  | .iaTimeStep delta => Sys2Proof.Machine.execIaTimeStep delta s
  | .iaStreamEnable n w0 => Sys2Proof.Machine.execIaStreamEnable n w0 s
  | .iaStreamDisable n => Sys2Proof.Machine.execIaStreamDisable n s
  | .iaGroupEnable g w0 => Sys2Proof.Machine.execIaGroupEnable g w0 s
  | .iaGroupDisable g => Sys2Proof.Machine.execIaGroupDisable g s
  | .iaAugCommit g n0 => Sys2Proof.Machine.execIaAugCommit g n0 s
  | .iaCountsClear => Sys2Proof.Machine.execIaCountsClear s
  | .pipeTurn p => Sys2Proof.Machine.execPipeTurn p s
  | .contextCommit c => Sys2Proof.Machine.execContextCommit c s
  | .curveWrite p cset word v => Sys2Proof.Machine.execCurveWrite p cset word v s
  | .ipCountsClear p => Sys2Proof.Machine.execIpCountsClear p s
  | .vxSeqHold image crcs => Sys2Proof.Machine.execVxSeqHold image crcs s
  | .vxSeqRelease => Sys2Proof.Machine.execVxSeqRelease s
  | .vxSeqReset => Sys2Proof.Machine.execVxSeqReset s
  | .vxHeartbeatTimeout image crcs => Sys2Proof.Machine.execVxHeartbeatTimeout image crcs s
  | .boundEncodeFrame n => Sys2Proof.Machine.execBoundEncodeFrame n s
  | .videoFrameDone n host picture picType qp error key => Sys2Proof.Machine.execVideoFrameDone n host picture picType qp error key s
  | .mcRequest port addr slot write mask data => Sys2Proof.Machine.execMcRequest port addr slot write mask data s
  | .mcRequestComplete idx lat link linkBad => Sys2Proof.Machine.execMcRequestComplete idx lat link linkBad s
  | .refreshDue chan => Sys2Proof.Machine.execRefreshDue chan s
  | .mr4Poll rates => Sys2Proof.Machine.execMr4Poll rates s
  | .oscillatorSample chan drift beyond => Sys2Proof.Machine.execOscillatorSample chan drift beyond s
  | .selfRefreshRequest actor => Sys2Proof.Machine.execSelfRefreshRequest actor s
  | .selfRefreshExit actor => Sys2Proof.Machine.execSelfRefreshExit actor s
  | .powerDownIdle chan => Sys2Proof.Machine.execPowerDownIdle chan s
  | .mcEnable v => Sys2Proof.Machine.execMcEnable v s
  | .mcConfigWrite v => Sys2Proof.Machine.execMcConfigWrite v s
  | .mcPortWrite p v => Sys2Proof.Machine.execMcPortWrite p v s
  | .mcCountsClear => Sys2Proof.Machine.execMcCountsClear s
  | .writePattern mask => Sys2Proof.Machine.execWritePattern mask s
  | .readAndCompare mask => Sys2Proof.Machine.execReadAndCompare mask s
  | .commandBusCompare mask => Sys2Proof.Machine.execCommandBusCompare mask s
  | .readDqCalibration mask => Sys2Proof.Machine.execReadDqCalibration mask s
  | .wck2ckLeveling mask => Sys2Proof.Machine.execWck2ckLeveling mask s
  | .trainingOpDone errors => Sys2Proof.Machine.execTrainingOpDone errors s
  | .bar2Read resize off len => Sys2Proof.Machine.execBar2Read resize off len s
  | .bar2Write resize off data poisoned => Sys2Proof.Machine.execBar2Write resize off data poisoned s
  | .bootWindowWrite off data => Sys2Proof.Machine.execBootWindowWrite off data s
  | .bootGo => Sys2Proof.Machine.execBootGo s
  | .signalWindowWrite obj inc => Sys2Proof.Machine.execSignalWindowWrite obj inc s
  | .setWindowWrite obj v => Sys2Proof.Machine.execSetWindowWrite obj v s
  | .sqDoorbell q p => Sys2Proof.Machine.execSqDoorbell q p s
  | .cqDoorbell q p => Sys2Proof.Machine.execCqDoorbell q p s
  | .ringPairEnable q v => Sys2Proof.Machine.execRingPairEnable q v s
  | .ringPairDisable q v => Sys2Proof.Machine.execRingPairDisable q v s
  | .descriptorTake q => Sys2Proof.Machine.execDescriptorTake q s
  | .irqCoalesceTimer q => Sys2Proof.Machine.execIrqCoalesceTimer q s
  | .functionLevelReset => Sys2Proof.Machine.execFunctionLevelReset s
  | .perstAssert cool => Sys2Proof.Machine.execPerstAssert cool s
  | .perstDeassert => Sys2Proof.Machine.execPerstDeassert s
  | .fwOpen => Sys2Proof.Machine.execFwOpen s
  | .fwClose => Sys2Proof.Machine.execFwClose s
  | .loadPackage host => Sys2Proof.Machine.execLoadPackage host s
  | .poolGrant => Sys2Proof.Machine.execPoolGrant s
  | .poolReclaim => Sys2Proof.Machine.execPoolReclaim s
  | .jobStop => Sys2Proof.Machine.execJobStop s
  | .jobSuspend => Sys2Proof.Machine.execJobSuspend s
  | .jobResume => Sys2Proof.Machine.execJobResume s
  | .jobQuery => Sys2Proof.Machine.execJobQuery s
  | .streamMargin => Sys2Proof.Machine.execStreamMargin s
  | .ringEnumerate => Sys2Proof.Machine.execRingEnumerate s
  | .ringConfigure host => Sys2Proof.Machine.execRingConfigure host s
  | .ringReadmit => Sys2Proof.Machine.execRingReadmit s
  | .timeSample => Sys2Proof.Machine.execTimeSample s
  | .sideport answer host => Sys2Proof.Machine.execSideport answer host s
  | .fwJob q => Sys2Proof.Machine.execFwJob q s
  | .seqOpen q => Sys2Proof.Machine.execSeqOpen q s
  | .seqClose q => Sys2Proof.Machine.execSeqClose q s
  | .adaptCreate q => Sys2Proof.Machine.execAdaptCreate q s
  | .adaptExport q host => Sys2Proof.Machine.execAdaptExport q host s
  | .adaptImport q host => Sys2Proof.Machine.execAdaptImport q host s
  | .adaptRelease q => Sys2Proof.Machine.execAdaptRelease q s
  | .videoOpen q => Sys2Proof.Machine.execVideoOpen q s
  | .videoFrame q => Sys2Proof.Machine.execVideoFrame q s
  | .videoClose q => Sys2Proof.Machine.execVideoClose q s
  | .jobPrepared q index x => Sys2Proof.Machine.execJobPrepared q index x s
  | .jobBoundary overruns peers => Sys2Proof.Machine.execJobBoundary overruns peers s
  | .aonPorstRelease => Sys2Proof.Machine.execAonPorstRelease s
  | .mainPwrgdRise testen => Sys2Proof.Machine.execMainPwrgdRise testen s
  | .mainPwrgdFall => Sys2Proof.Machine.execMainPwrgdFall s
  | .unsealEnvelope => Sys2Proof.Machine.execUnsealEnvelope s
  | .sealOutputs => Sys2Proof.Machine.execSealOutputs s
  | .exportState => Sys2Proof.Machine.execExportState s
  | .importState => Sys2Proof.Machine.execImportState s
  | .measurePackage => Sys2Proof.Machine.execMeasurePackage s
  | .releaseSlot => Sys2Proof.Machine.execReleaseSlot s
  | .getVersion => Sys2Proof.Machine.execGetVersion s
  | .getCapabilities => Sys2Proof.Machine.execGetCapabilities s
  | .negotiateAlgorithms common => Sys2Proof.Machine.execNegotiateAlgorithms common s
  | .getDigests => Sys2Proof.Machine.execGetDigests s
  | .getCertificate off len => Sys2Proof.Machine.execGetCertificate off len s
  | .challenge nonce => Sys2Proof.Machine.execChallenge nonce s
  | .getMeasurements index nonce => Sys2Proof.Machine.execGetMeasurements index nonce s
  | .keyExchange pub => Sys2Proof.Machine.execKeyExchange pub s
  | .finish id good => Sys2Proof.Machine.execFinish id good s
  | .heartbeat id => Sys2Proof.Machine.execHeartbeat id s
  | .endSession id => Sys2Proof.Machine.execEndSession id s
  | .partyKeySet id slot key proof => Sys2Proof.Machine.execPartyKeySet id slot key proof s
  | .partyKeyErase id slot => Sys2Proof.Machine.execPartyKeyErase id slot s
  | .ringKeySet id key ringId => Sys2Proof.Machine.execRingKeySet id key ringId s
  | .slotRenew slot => Sys2Proof.Machine.execSlotRenew slot s
  | .lifecycleSet target token => Sys2Proof.Machine.execLifecycleSet target token s
  | .debugChallenge => Sys2Proof.Machine.execDebugChallenge s
  | .debugResponse pub sig scope => Sys2Proof.Machine.execDebugResponse pub sig scope s
  | .pllLockLoss k => Sys2Proof.Machine.execPllLockLoss k s
  | .relockAttemptTimeout k => Sys2Proof.Machine.execRelockAttemptTimeout k s
  | .pllRelocked k => Sys2Proof.Machine.execPllRelocked k s
  | .refLost count => Sys2Proof.Machine.execRefLost count s
  | .domainSourceWrite d v => Sys2Proof.Machine.execDomainSourceWrite d v s
  | .pllCtrlWrite k v => Sys2Proof.Machine.execPllCtrlWrite k v s
  | .governorUpdate temps avgMs avgSec => Sys2Proof.Machine.execGovernorUpdate temps avgMs avgSec s
  | .voltageLoopUpdate core slack energy => Sys2Proof.Machine.execVoltageLoopUpdate core slack energy s
  | .capCut avg => Sys2Proof.Machine.execCapCut avg s
  | .capCutEnd avg => Sys2Proof.Machine.execCapCutEnd avg s
  | .capCutHeld => Sys2Proof.Machine.execCapCutHeld s
  | .thermalTrip sensor temp => Sys2Proof.Machine.execThermalTrip sensor temp s
  | .limitWrite off v => Sys2Proof.Machine.execLimitWrite off v s
  | .corePowerOff core => Sys2Proof.Machine.execCorePowerOff core s
  | .corePowerOn core => Sys2Proof.Machine.execCorePowerOn core s
  | .corePowerOnDone core => Sys2Proof.Machine.execCorePowerOnDone core s
  | .slumberEntry => Sys2Proof.Machine.execSlumberEntry s
  | .powerFail => Sys2Proof.Machine.execPowerFail s
  | .tamper cool => Sys2Proof.Machine.execTamper cool s
  | .watchdogArm v => Sys2Proof.Machine.execWatchdogArm v s
  | .watchdogKick => Sys2Proof.Machine.execWatchdogKick s
  | .watchdogExpiry => Sys2Proof.Machine.execWatchdogExpiry s
  | .fencedWritesInterval => Sys2Proof.Machine.execFencedWritesInterval s
  | .trickleFlush => Sys2Proof.Machine.execTrickleFlush s
  | .journalRecordCommit failed => Sys2Proof.Machine.execJournalRecordCommit failed s
  | .rasClassCfgWrite c v => Sys2Proof.Machine.execRasClassCfgWrite c v s
  | .aocSedRead v => Sys2Proof.Machine.execAocSedRead v s
  | .aocTakeover => Sys2Proof.Machine.execAocTakeover s
  | .mpTakeback => Sys2Proof.Machine.execMpTakeback s
  | .profileOpen eid vdm lo hi caps => Sys2Proof.Machine.execProfileOpen eid vdm lo hi caps s
  | .health eid vdm => Sys2Proof.Machine.execHealth eid vdm s
  | .sedimentRead eid vdm first count => Sys2Proof.Machine.execSedimentRead eid vdm first count s
  | .setEndpointId eid vdm new => Sys2Proof.Machine.execSetEndpointId eid vdm new s
  | .getEndpointId eid vdm => Sys2Proof.Machine.execGetEndpointId eid vdm s
  | .getEndpointUuid eid vdm => Sys2Proof.Machine.execGetEndpointUuid eid vdm s
  | .getMctpVersionSupport eid vdm type => Sys2Proof.Machine.execGetMctpVersionSupport eid vdm type s
  | .getMessageTypeSupport eid vdm => Sys2Proof.Machine.execGetMessageTypeSupport eid vdm s
  | .getVendorDefinedMessageSupport eid vdm selector => Sys2Proof.Machine.execGetVendorDefinedMessageSupport eid vdm selector s
  | .getTid eid vdm => Sys2Proof.Machine.execGetTid eid vdm s
  | .getPldmVersion eid vdm type => Sys2Proof.Machine.execGetPldmVersion eid vdm type s
  | .getPldmTypes eid vdm => Sys2Proof.Machine.execGetPldmTypes eid vdm s
  | .getPldmCommands eid vdm type => Sys2Proof.Machine.execGetPldmCommands eid vdm type s
  | .getSensorReading eid vdm sensor => Sys2Proof.Machine.execGetSensorReading eid vdm sensor s
  | .getStateSensorReadings eid vdm sensor => Sys2Proof.Machine.execGetStateSensorReadings eid vdm sensor s
  | .getPdrRepositoryInfo eid vdm => Sys2Proof.Machine.execGetPdrRepositoryInfo eid vdm s
  | .getPdr eid vdm record len => Sys2Proof.Machine.execGetPdr eid vdm record len s
  | .setEventReceiver eid vdm receiver => Sys2Proof.Machine.execSetEventReceiver eid vdm receiver s
  | .pinMuxWrite n v => Sys2Proof.Machine.execPinMuxWrite n v s
  | .padSwitchDone n => Sys2Proof.Machine.execPadSwitchDone n s
  | .lanesReturnToStopState port => Sys2Proof.Machine.execLanesReturnToStopState port s
  | .aonPorstAssert => Sys2Proof.Machine.execAonPorstAssert s
  | .pllReady k => Sys2Proof.Machine.execPllReady k s
  | .pcieLinkRetrain speed width => Sys2Proof.Machine.execPcieLinkRetrain speed width s
  | .packageLoadComplete => Sys2Proof.Machine.execPackageLoadComplete s
  | .sideportTimeout => Sys2Proof.Machine.execSideportTimeout s

end Sys2Proof.Machine
end

