-- ==== Sys2Proof/Machine/Ticks.lean ====
section
/-! DEFINITION. What passes with time alone, one 38.4 MHz reference cycle at a time, while no command waits (log entry 1):
device time (R372), the always-on count (R601), the events of RAS that the firmware has not written (R502), and the flush
of eight unflushed sediment entries (R604). -/

namespace Sys2Proof.Machine

/-- The rate word as IA takes it: signed, clamped to 500 ppm (R372). -/
def rateClamped (w : Word) : Int := clampInt (-55924053) 55924053 w.toInt

/-- Device time and its fraction as one count of 2^-32 ns. -/
def State.timeUnits (s : State) : Nat := s.devTime.toNat * 2 ^ 32 + s.devFrac.toNat

/-- Device time advances by one reference cycle (R372). -/
def State.timeTick (s : State) : State :=
  if s.timeRuns then
    let step := (26 * 2 ^ 32 + 0x0AAAAAAB + rateClamped (s.rd f_iaTimeRate_rate_adj.off)).toNat
    let t := s.timeUnits + step
    { s with devTime := BitVec.ofNat 64 (t / 2 ^ 32), devFrac := BitVec.ofNat 32 t }
  else s

/-- The 32.768 kHz count advances once in 9,375 eighths of a reference cycle, outside always-on power-on reset (R601). -/
def State.aonTick (s : State) : State :=
  if s.aoc.porst then s
  else if s.refCount + 8 < 9375 then { s with refCount := s.refCount + 8 }
  else { s with refCount := s.refCount + 8 - 9375, aonTicks := s.aonTicks + 1 }

/-- Eight unflushed entries start a trickle flush (R604). -/
def State.flushTick (s : State) : State :=
  if !s.aoc.porst && decide (8 ≤ s.sedCount - s.sedPlanned) then s.flushAll 0 else s

/-- One reference cycle with no command. -/
def State.tick (s : State) : State := s.timeTick.aonTick.drainEvents.flushTick

end Sys2Proof.Machine
end

