-- ==== Sys2Proof/WellFormed.lean ====
section
/-! DEFINITION. What a command's operands must satisfy to be one that the outside world can bring: sizes and ranges the spec
gives to what crosses a port, a packet, a register offset or a record. Meanings are total without it. -/

namespace Sys2Proof

/-- A register offset: a 32-bit word of BAR0 or of BAR4 behind it (R12, R479). -/
def wfOffset (off : Nat) : Bool := off % 4 == 0 && decide (off < 0x8000000)

/-- A frame as the link delivers it: at most eight 64 B lines of payload, and an 8 B or a 16 B tag or none (R322, R346). -/
def wfFrame (f : RFrame) : Bool := decide (f.payload.length ≤ 512) && decide (f.tag.length ≤ 16)

/-- A sequencer image and its check values: one CRC per 4 KiB block (R426). -/
def wfVxImage (image : List Byte) (crcs : List Nat) : Bool :=
  decide (image.length ≤ 4096 * crcs.length) && crcs.all fun c => decide (c < 2 ^ 32)

/-- A command with operands in range. -/
def Instr.wf (i : Instr) : Bool :=
  match i with
  | .nop _ _ => true
  | .stepEnd _ _ => true
  | .repeatBody _ _ => true
  | .call _ _ => true
  | .ret _ _ => true
  | .setb _ _ => true
  | .addb _ _ => true
  | .regionSet _ _ => true
  | .aspLoad _ _ => true
  | .pass _ _ upsets => upsets.all fun u => u.vector < 65536 && u.lane < 2 && u.index < 256 && u.stage < 8 && u.piece < 4 && u.shadow < 4
  | .profileLoad _ _ => true
  | .tableLoad _ _ => true
  | .signal _ _ => true
  | .wait _ _ => true
  | .setObj _ _ => true
  | .move _ _ => true
  | .veAdd _ _ => true
  | .veSub _ _ => true
  | .veMul _ _ => true
  | .veMac _ _ => true
  | .veMax _ _ => true
  | .veMin _ _ => true
  | .veCvt _ _ => true
  | .veTable _ _ => true
  | .veTableLoad _ _ => true
  | .veRsum _ _ => true
  | .veRmax _ _ => true
  | .veTree _ _ => true
  | .veNorm _ _ => true
  | .veExp _ _ => true
  | .veLn _ _ => true
  | .veRecip _ _ => true
  | .veRsqrt _ _ => true
  | .veDiv _ _ => true
  | .vePatch _ _ => true
  | .veToPixel _ _ => true
  | .veToPlanar _ _ => true
  | .vePool _ _ => true
  | .veResample _ _ => true
  | .sample _ _ => true
  | .uniform16 _ _ => true
  | .uniform _ _ => true
  | .normalBm _ _ => true
  | .normalTab _ _ => true
  | .bernoulli _ _ => true
  | .waitSatisfied _ _ => true
  | .streamedPassComplete _ _ _ _ _ => true
  | .streamAbandoned _ _ _ _ _ _ _ => true
  | .waitTimeout _ _ => true
  | .transferComplete _ _ _ => true
  | .transferFailed _ _ _ runs _ => decide (runs < 2 ^ 32)
  | .spAsyncWriteback _ line => decide (line < 0x40000)
  | .ncStart _ => true
  | .ncAbort _ => true
  | .ncAbortDone _ => true
  | .ncCountReset _ => true
  | .cpRelease _ => true
  | .cpHold _ => true
  | .maClearBanks _ _ => true
  | .maClearDone _ _ => true
  | .maCountReset _ _ => true
  | .maCountsClear _ _ => true
  | .tgLogClear _ => true
  | .spScrubStart _ => true
  | .spScrubDone _ => true
  | .spCountsClear _ => true
  | .spInjectArm _ _ => true
  | .hbScrubStart => true
  | .hbScrubDone => true
  | .hbCountsClear => true
  | .mvCountReset _ => true
  | .veCountsClear _ => true
  | .seedClear _ => true
  | .selfTest _ _ => true
  | .grSeedWrite _ _ _ => true
  | .registerWrite _ off _ => wfOffset off
  | .pairLowRead _ off => wfOffset off
  | .pairHighRead _ off => wfOffset off
  | .pairLowWrite _ off _ => wfOffset off
  | .pairHighWrite _ off _ => wfOffset off
  | .mpSyncSignal _ _ => true
  | .mpSyncSet _ _ => true
  | .portEnable _ => true
  | .portTrainingDone _ _ _ => true
  | .portTrainingTimeout _ => true
  | .linkHello rx => wfFrame rx.frame
  | .idleLinkWord _ => true
  | .linkAck _ _ => true
  | .replayRequest _ => true
  | .creditReturn _ _ lines => decide (1 ≤ lines)
  | .portSilenceTimeout _ => true
  | .frameData rx => wfFrame rx.frame
  | .dataLast rx => wfFrame rx.frame
  | .burstOpen rx => wfFrame rx.frame
  | .burstReply rx => wfFrame rx.frame
  | .signalFrame rx => wfFrame rx.frame
  | .fence rx => wfFrame rx.frame
  | .enumOutbound rx => wfFrame rx.frame
  | .enumReturn rx => wfFrame rx.frame
  | .enumClosedTimeout => true
  | .membershipQuiesce rx => wfFrame rx.frame
  | .membershipCommit rx => wfFrame rx.frame
  | .memberReplyTimeout => true
  | .fwMessage rx => wfFrame rx.frame
  | .burstHoldExpiry _ => true
  | .burstReplyTimeout _ => true
  | .ciReadmit => true
  | .ciCountsClear => true
  | .frameStart _ _ _ _ => true
  | .frameEnd _ _ _ => true
  | .longPacket _ _ _ data _ _ _ => decide (data.length < 65536)
  | .csiLaneError _ => true
  | .lineTimeout _ => true
  | .sampleReady _ => true
  | .collectionDeadline _ => true
  | .spiDataReady _ data => decide (data.length ≤ 48)
  | .ppsEdge => true
  | .ppsLost => true
  | .fsyncAssert _ => true
  | .fsyncDeassert _ => true
  | .iaFsyncCommit _ _ => true
  | .iaTimeStep _ => true
  | .iaStreamEnable _ _ => true
  | .iaStreamDisable _ => true
  | .iaGroupEnable _ _ => true
  | .iaGroupDisable _ => true
  | .iaAugCommit _ _ => true
  | .iaCountsClear => true
  | .pipeTurn _ => true
  | .contextCommit _ => true
  | .curveWrite _ _ _ _ => true
  | .ipCountsClear _ => true
  | .vxSeqHold image crcs => wfVxImage image crcs
  | .vxSeqRelease => true
  | .vxSeqReset => true
  | .vxHeartbeatTimeout image crcs => wfVxImage image crcs
  | .boundEncodeFrame _ => true
  | .videoFrameDone _ _ _ _ _ _ _ => true
  | .mcRequest _ addr _ write _ data => addr % 64 == 0 && data.length == (if write then 64 else 0)
  | .mcRequestComplete _ _ _ _ => true
  | .refreshDue _ => true
  | .mr4Poll rates => decide (rates.length = 24)
  | .oscillatorSample _ _ _ => true
  | .selfRefreshRequest _ => true
  | .selfRefreshExit _ => true
  | .powerDownIdle _ => true
  | .mcEnable _ => true
  | .mcConfigWrite _ => true
  | .mcPortWrite _ _ => true
  | .mcCountsClear => true
  | .writePattern _ => true
  | .readAndCompare _ => true
  | .commandBusCompare _ => true
  | .readDqCalibration _ => true
  | .wck2ckLeveling _ => true
  | .trainingOpDone errors => decide (errors.length = 480)
  | .bar2Read _ off len => decide (1 ≤ len) && decide (off + len ≤ 2 ^ 37)
  | .bar2Write _ off data _ => decide (1 ≤ data.length) && decide (off + data.length ≤ 2 ^ 37)
  | .bootWindowWrite off data => decide (1 ≤ data.length) && decide (off + data.length ≤ 2 ^ 28)
  | .bootGo => true
  | .signalWindowWrite _ _ => true
  | .setWindowWrite _ _ => true
  | .sqDoorbell _ _ => true
  | .cqDoorbell _ _ => true
  | .ringPairEnable _ _ => true
  | .ringPairDisable _ _ => true
  | .descriptorTake _ => true
  | .irqCoalesceTimer _ => true
  | .functionLevelReset => true
  | .perstAssert _ => true
  | .perstDeassert => true
  | .fwOpen => true
  | .fwClose => true
  | .loadPackage _ => true
  | .poolGrant => true
  | .poolReclaim => true
  | .jobStop => true
  | .jobSuspend => true
  | .jobResume => true
  | .jobQuery => true
  | .streamMargin => true
  | .ringEnumerate => true
  | .ringConfigure _ => true
  | .ringReadmit => true
  | .timeSample => true
  | .sideport _ _ => true
  | .fwJob _ => true
  | .seqOpen _ => true
  | .seqClose _ => true
  | .adaptCreate _ => true
  | .adaptExport _ _ => true
  | .adaptImport _ _ => true
  | .adaptRelease _ => true
  | .videoOpen _ => true
  | .videoFrame _ => true
  | .videoClose _ => true
  | .jobPrepared _ _ _ => true
  | .jobBoundary _ _ => true
  | .aonPorstRelease => true
  | .mainPwrgdRise _ => true
  | .mainPwrgdFall => true
  | .unsealEnvelope => true
  | .sealOutputs => true
  | .exportState => true
  | .importState => true
  | .measurePackage => true
  | .releaseSlot => true
  | .getVersion => true
  | .getCapabilities => true
  | .negotiateAlgorithms _ => true
  | .getDigests => true
  | .getCertificate _ _ => true
  | .challenge nonce => decide (nonce.length = 32)
  | .getMeasurements _ nonce => decide (nonce.length = 32)
  | .keyExchange _ => true
  | .finish _ _ => true
  | .heartbeat _ => true
  | .endSession _ => true
  | .partyKeySet _ slot key _ => decide (slot < 16) && decide (key.length = 32)
  | .partyKeyErase _ slot => decide (slot < 16)
  | .ringKeySet _ key ringId => decide (key.length = 32) && decide (ringId.length = 8)
  | .slotRenew slot => decide (slot < 16)
  | .lifecycleSet _ _ => true
  | .debugChallenge => true
  | .debugResponse _ _ _ => true
  | .pllLockLoss _ => true
  | .relockAttemptTimeout _ => true
  | .pllRelocked _ => true
  | .refLost _ => true
  | .domainSourceWrite _ _ => true
  | .pllCtrlWrite _ _ => true
  | .governorUpdate temps _ _ => decide (temps.length = 24)
  | .voltageLoopUpdate _ _ _ => true
  | .capCut _ => true
  | .capCutEnd _ => true
  | .capCutHeld => true
  | .thermalTrip _ _ => true
  | .limitWrite off _ => off % 4 == 0 && decide (off < 0x10000)
  | .corePowerOff _ => true
  | .corePowerOn _ => true
  | .corePowerOnDone _ => true
  | .slumberEntry => true
  | .powerFail => true
  | .tamper _ => true
  | .watchdogArm _ => true
  | .watchdogKick => true
  | .watchdogExpiry => true
  | .fencedWritesInterval => true
  | .trickleFlush => true
  | .journalRecordCommit _ => true
  | .rasClassCfgWrite _ _ => true
  | .aocSedRead _ => true
  | .aocTakeover => true
  | .mpTakeback => true
  | .profileOpen _ _ _ _ _ => true
  | .health _ _ => true
  | .sedimentRead _ _ _ _ => true
  | .setEndpointId _ _ _ => true
  | .getEndpointId _ _ => true
  | .getEndpointUuid _ _ => true
  | .getMctpVersionSupport _ _ _ => true
  | .getMessageTypeSupport _ _ => true
  | .getVendorDefinedMessageSupport _ _ _ => true
  | .getTid _ _ => true
  | .getPldmVersion _ _ _ => true
  | .getPldmTypes _ _ => true
  | .getPldmCommands _ _ _ => true
  | .getSensorReading _ _ _ => true
  | .getStateSensorReadings _ _ _ => true
  | .getPdrRepositoryInfo _ _ => true
  | .getPdr _ _ _ _ => true
  | .setEventReceiver _ _ _ => true
  | .pinMuxWrite _ _ => true
  | .padSwitchDone _ => true
  | .lanesReturnToStopState _ => true
  | .aonPorstAssert => true
  | .pllReady _ => true
  | .pcieLinkRetrain _ _ => true
  | .packageLoadComplete => true
  | .sideportTimeout => true

end Sys2Proof
end

