-- ==== Sys2Proof/Safety.lean ====
section
/-! DEFINITION. The words that statements about runs are made of: what it is for a command to complete, for registers alone
to change, and what every state a run reaches satisfies. -/

namespace Sys2Proof.Machine

/-- The command completes from `s`, in a state that satisfies `P`. -/
def Answers (c : Instr) (s : State) (P : State → Prop) : Prop := ∃ t, exec c s = .next t ∧ P t

/-- Nothing but registers differs, and of these only those at the offsets of `l`. -/
def RegsOnly (s t : State) (l : List Nat) : Prop := t = { s with regs := t.regs } ∧ ∀ o, o ∉ l → t.rd o = s.rd o

/-- Memory, registers, sync objects and planted errors stand in canonical form, so that equal machines are equal data. -/
def State.Canonical (s : State) : Prop :=
  memWf s.mem = true ∧ mapWf regReset s.regs = true ∧ mapWf (fun _ => (0 : Word)) s.sync = true ∧
    mapWf (fun _ => (0 : BitVec 72)) s.ecc = true

/-- The fuses of a part stand at `life` and `count` or beyond: every life-cycle bit of `life` is blown, and the anti-rollback
counter has reached `count` (R527, R536). -/
def State.FusedTo (s : State) (life count : Nat) : Prop := life &&& s.sc.lifeBlown = life ∧ count ≤ s.sc.svBlown

/-- Every waiting command can come from outside. -/
def State.QueueWf (s : State) : Prop := ∀ c ∈ s.pending, c.wf = true

/-- A step goes on: it ends in a next state, never in a fault or a refusal. -/
def State.Safe (s : State) : Prop := ∃ t, step s = .next t

/-- The rows of the vector engine that share one shape, with their opcodes (R272). -/
def vectorRows : List (Nat × (Fin 8 → IWord → Instr)) :=
  [(0x01, .veAdd), (0x02, .veSub), (0x03, .veMul), (0x04, .veMac), (0x05, .veMax), (0x06, .veMin), (0x07, .veCvt),
   (0x08, .veTable), (0x10, .veRsum), (0x11, .veRmax), (0x12, .veTree), (0x13, .veNorm), (0x18, .veExp), (0x19, .veLn),
   (0x1A, .veRecip), (0x1B, .veRsqrt), (0x1C, .veDiv), (0x23, .vePool), (0x24, .veResample)]

/-- The state a vector instruction of that shape leaves: the engine is busy for one slot per vector under R273, each vector is
read, computed and written in order, and the core goes on. -/
def vectorEffect (s1 : State) (n cyc : Nat) (who : Who) (v : VInst) (xa : VOpd) (xb : Option VOpd) (xd : VOpd) : State :=
  let per := ceilDiv v.n v.timing.1
  let c := v.timing.2.1 * per
  let last := 2 + (v.count - 1) * c + c - 1 + v.timing.2.2
  let st := s1.engineStart who cyc (v.count * c) last
  let hb := match xb with | some x => st.2.vHead n (s1.issuedAt who cyc) x | none => 0
  let s3 := (List.range v.count).foldl
    (fun s k => s.vecOne who v xa xb xd (st.2.vHead n (s1.issuedAt who cyc) xa) hb st.1 c per v.timing.2.2 k) st.2
  let rd := st.1 + 2 + (v.count - 1) * c
  let s4 := s3.vDone who ((xa, rd + v.leafCycle (v.leaves - 1) per + (xa.lines - 1) / 4) :: (xd, 0) ::
    (match xb with | some x => [(x, rd + ((v.bLines x).length - 1) / 4)] | none => [])) (st.1 + last)
  let cr := s4.core n
  (if v.op = 8 then
    s4.setCore n { cr with veTabUse := (bits v.aux2 13 12, st.1 + last) :: cr.veTabUse.filter (fun u => st.1 ≤ u.2) }
   else s4).advance n

/-- The operands of a vector instruction: src_a, the second source where it reads one, and the destination. -/
def State.vecOpds (s : State) (n cyc : Nat) (w : IWord) : Option (VOpd × Option VOpd × VOpd) :=
  let v := parseVec w
  match s.vOpd n cyc (fld w 63 48) (vecLines v.fa v.n v.sa) (v.count * v.leaves) false,
    (match v.second with | some (l, k) => (s.vOpd n cyc (fld w 79 64) l k false).map some | none => some none),
    s.vOpd n cyc (fld w 95 80) (vecLines v.fd v.outs v.sd) v.count true with
  | some xa, some xb, some xd => some (xa, xb, xd)
  | _, _, _ => none

/-- A repeat body of `len` instructions after the core's position is longer than its stream or its store allows (R121,
R124). -/
def State.bodyTooLong (s : State) (n len : Nat) : Prop :=
  ((s.core n).calls = [] ∧ (64 < len ∨ ∃ l, (s.core n).streamLen = some l ∧ l < s.pos n + 1 + len)) ∨
    ∃ f rest, (s.core n).calls = f :: rest ∧ (4096 < len ∨ f.len < s.pos n + 1 + len)

/-- The state after a ring's command: the refused descriptors behind it complete, and the slots in use are marked (R497, R499,
R554). -/
def State.afterCommand (s : State) (q : Nat) : State := (s.settleRing q).markSlots

/-- A ring's descriptor is answered with a status, and nothing else comes of it but that. -/
def State.answered (s : State) (q : Nat) (t : Taken) (st : Nat) : State := (s.completeTaken q t (Done.of st)).afterCommand q

/-- The grit rows with their opcodes (R286). -/
def gritRows : List (Nat × (Fin 8 → IWord → Instr)) :=
  [(1, .uniform16), (2, .uniform), (3, .normalBm), (4, .normalTab), (5, .bernoulli)]

/-- The ring logic after the link layer has taken a good frame: acknowledged, its credits returned (R320, R321). -/
def State.afterLink (s : State) (rx : RingRx) : State :=
  ((s.setPort rx.port.val { s.port rx.port.val with discarding := false, good := (s.port rx.port.val).good + 1 }).emit
    (.linkWord rx.port.val [1, 1])).emit (.linkWord rx.port.val [3, b2n (frClassD rx.frame), frLines rx.frame])

/-- The rows of received frames: the type each takes, the phase field and value that tell the two rows of ENUM and of
MEMBERSHIP apart where the frame stands unprotected, and the row (R324, R331, R333). -/
def frameRows : List (Nat × Option (Nat × Nat) × (RingRx → Instr)) :=
  [(1, none, .frameData), (2, none, .dataLast), (8, none, .burstOpen), (9, none, .burstReply), (10, none, .signalFrame),
   (11, none, .fence), (12, some (71, 0), .enumOutbound), (12, some (71, 1), .enumReturn),
   (13, some (64, 0), .membershipQuiesce), (13, some (64, 1), .membershipCommit), (14, none, .linkHello), (15, none, .fwMessage)]

/-- A frame is of a row: of its type and phase, or of a type that no row defines, which every row drops. -/
def ofRow (kind : Nat) (phase : Option (Nat × Nat)) (f : RFrame) : Prop :=
  (frKind f = kind ∧ ∀ q, phase = some q → f.ext = none → frField f q.1 64 = q.2) ∨ (frKind f ≠ 1 ∧ frKind f ≠ 2 ∧ frKind f < 8)

/-- The rows whose frames go to the device that their header names, with their types (R325). -/
def ownRows : List (Nat × (RingRx → Instr)) :=
  [(1, .frameData), (2, .dataLast), (8, .burstOpen), (9, .burstReply), (10, .signalFrame), (15, .fwMessage)]

/-- A port takes a frame that arrives: it is up or faces an excluded device, or it trains and the frame is the greeting; and
nothing holds the frame in its receive buffer (R196, R319, R332, R565). -/
def State.hears (s : State) (rx : RingRx) : Prop :=
  (s.portState rx.port.val = 2 ∨ s.portState rx.port.val = 3 ∨ (s.portState rx.port.val = 1 ∧ frKind rx.frame = 14)) ∧
    s.rxHeld rx.frame = false

/-- The link layer takes a frame that a port hears: the port does not discard, or the frame is of the resend, and its CRC
holds (R320). -/
def State.linked (s : State) (rx : RingRx) : Prop :=
  s.hears rx ∧ ((s.port rx.port.val).discarding = true → rx.resend = true) ∧ rxGood rx = true

/-- A frame that a device accepts: linked, not malformed, passed by quarantine, and of the device's epoch (R320, R325, R336,
R338). -/
def State.accepts (s : State) (rx : RingRx) : Prop :=
  s.linked rx ∧ malformed rx.frame = false ∧ (s.quarantined = true → frKind rx.frame = 12 ∨ frKind rx.frame = 14) ∧
    (s.afterLink rx).epochOk rx.port.val rx.frame = true

/-- An accepted frame is for this device: its destination is the device's address, or it is link-local; and, while a new table
is committed, a firmware message whose destination is the address that the table gives the device (R323, R325, R333). -/
def State.forUs (s : State) (f : RFrame) : Prop :=
  if frKind f = 15 ∧ s.ring.quiesced = true then s.ring.claimed = some (frDst f)
  else frDst f = s.ringAddr ∨ (frField f 16 16 = 1 ∧ frClassD f = false)

/-- The reserved type fields of an opened frame read 0 (R324). -/
def typeFieldsOk (g : RFrame) : Prop := frClassD g = false → (frType g).land (2 ^ 64 - 1 - typeMask (frKind g)) = 0

end Sys2Proof.Machine
end

