-- ==== Sys2Proof/Certificates/Slice0/Obligations.lean ====
section
/-! DEFINITION. What the provers are asked to show of the model. Each statement names the rules of the spec it comes from; a
clause that is the model's own choice says so and names its log entry. -/

open Sys2Proof Sys2Proof.Machine

/-! The queue, time and reset. -/

/-- The block takes the command at the front of its queue and runs it on the machine with the queue's rest (log entry
1). -/
def Obligations.StepRunsFront : Prop :=
  ∀ (s : State) (c : Instr) (rest : List Instr), s.pending = c :: rest → step s = exec c { s with pending := rest }

/-- With no command waiting one 38.4 MHz reference cycle passes: device time advances by 26 ns and the trimmed
fraction (R372) while the main domains run, and stands otherwise; the trim is clamped to 500 ppm. That an empty queue
stands for one cycle is the model's choice (log entry 1). -/
def Obligations.IdleCycleAdvancesTime : Prop :=
  ∀ s : State, s.pending = [] →
    ∃ t, step s = .next t ∧
      (s.timeRuns = true → t.timeUnits =
        (s.timeUnits + (26 * 2 ^ 32 + 0x0AAAAAAB + clampInt (-55924053) 55924053 (s.rd 0x8C0008).toInt).toNat) % 2 ^ 96) ∧
      (s.timeRuns = false → t.timeUnits = s.timeUnits)

/-- Right after reset every register reads as its reset value, every sync object and byte of memory as zero, device
time as zero, no command waits, and every core reads idle. -/
def Obligations.ResetReads : Prop :=
  (∀ o, State.reset.rd o = regReset o) ∧ (∀ o, State.reset.obj o = 0) ∧ (∀ a, State.reset.byte a = 0) ∧
    State.reset.devTime = 0 ∧ State.reset.devFrac = 0 ∧ State.reset.pending = [] ∧ (∀ n : Fin 8, State.reset.coreState n.val = 0) ∧
    (∀ p : Fin 2, State.reset.portState p.val = 0) ∧ State.reset.fget f_scStatus_debug_unlocked = 0

/-- The canonical form, the fuses and the queue at reset. -/
def Obligations.InvariantAtReset : Prop :=
  State.reset.Canonical ∧ State.reset.FusedTo 0 0 ∧ State.reset.QueueWf

/-- Every step, from every state, ends in a next state: no command stops the block. -/
def Obligations.EveryStepGoesOn : Prop :=
  ∀ s : State, s.Safe

/-- What every step keeps, from every state that has it: memory, registers, sync objects and planted errors in
canonical form; fuses that were blown stay blown and the anti-rollback counter never falls (R527, R536); and the
waiting commands are those of before, less the one taken. -/
def Obligations.StepKeepsInvariant : Prop :=
  ∀ (s t : State) (life count : Nat), s.Canonical → s.FusedTo life count → step s = .next t →
    t.Canonical ∧ t.FusedTo life count ∧ t.pending = s.pending.tail

/-! Sync objects and the register accesses. -/

/-- A signal adds to its object modulo 2^32; a set stores its value, to which the signals that have issued and land later
are added (R141); from the MP by absolute number, and from the host through BAR4 once the firmware is released (R480);
every other object, and everything else, stays. A counter has reached a target exactly when it stands less than half
the range past it (R141). -/
def Obligations.SyncObjects : Prop :=
  (∀ (s : State) (o : Fin 32768) (v : Word),
     (Answers (.mpSyncSignal o v) s fun t => t.obj o = s.obj o + v ∧ (∀ p, p ≠ o.val → t.obj p = s.obj p) ∧ t = { s with sync := t.sync }) ∧
     (Answers (.mpSyncSet o v) s fun t => t.obj o = v + s.pendingSignals o ∧ (∀ p, p ≠ o.val → t.obj p = s.obj p) ∧
       t = { s with sync := t.sync }) ∧
     (s.fget f_hiBoot_state = 4 →
       (Answers (.signalWindowWrite o v) s fun t => t.obj o = s.obj o + v ∧ (∀ p, p ≠ o.val → t.obj p = s.obj p) ∧ t = { s with sync := t.sync }) ∧
       (Answers (.setWindowWrite o v) s fun t => t.obj o = v + s.pendingSignals o ∧ (∀ p, p ≠ o.val → t.obj p = s.obj p) ∧
         t = { s with sync := t.sync }))) ∧
  (∀ (s : State) (o : Nat), (∀ n : Fin 8, (s.core n.val).landings = []) → s.pendingSignals o = 0) ∧
  (∀ (target : Word) (k : Nat), k < 2 ^ 32 → (reached (target + BitVec.ofNat 32 k) target = true ↔ k < 2 ^ 31))

/-! Core instructions. `s.issue n w eng op = .go cyc who s1` says that the word issues on core `n` as the row of engine `eng`
and opcode `op`: on cycle `cyc`, by `who`, leaving `s1` (R113, R115, R116). -/

/-- An instruction whose engine code lies above 7, or whose opcode its engine does not define, is a decode fault of
its row's command, with codes 0x01 and 0x02 (R113, R120): here for every engine's rows, the instruction being fetched
from its main stream or its routine. -/
def Obligations.UndefinedOpcodeFaults : Prop :=
  ∀ (s : State) (n : Fin 8) (w : IWord) (eng op : Nat), s.coreState n.val = 1 → s.coreStopped n.val = false →
    (s.core n.val).paused = false → (s.core n.val).stepEndAt = none → (s.core n.val).half = none →
    (s.routineFetch n.val).1 = true →
    ((s.core n.val).calls = [] → (s.core n.val).badLines.contains (s.pos n.val / 4) = false) →
    (8 ≤ fld w 11 8 → s.issue n.val w eng op = .fault (s.decodeFault n.val (fld w 11 8) 0x01)) ∧
    (fld w 11 8 < 8 → engineDefines (fld w 11 8) (fld w 7 0) = false →
      s.issue n.val w eng op = .fault (s.decodeFault n.val (fld w 11 8) 0x02))

/-- An instruction that is its engine's and meets no conflict issues `delta` cycles after the reference cycle, which
moves to its cycle; neither memory, sync objects nor registers change at issue, away from the lines the core fetches
(R115). A core that does not run, or whose clock stands stopped, issues nothing (R32, R156). Going on from an
instruction that ends no repeat body moves the core one position on, in the main stream or in the routine, and changes
nothing but that position and the two depth fields of NC_STATUS. -/
def Obligations.IssueAndAdvance : Prop :=
  (∀ (s : State) (n : Fin 8) (w : IWord), s.coreState n.val = 1 → s.coreStopped n.val = false → (s.core n.val).paused = false →
     (s.core n.val).stepEndAt = none → (s.core n.val).half = none → s.routineFetch n.val = (true, s) →
     ((s.core n.val).calls = [] → (s.core n.val).badLines = [] ∧ s.pos n.val % 4 ≠ 0) →
     fld w 11 8 < 8 → engineDefines (fld w 11 8) (fld w 7 0) = true → 0 < fld w 23 12 →
     (s.core n.val).lastIssue ≤ (s.core n.val).ref →
     ∃ s1, s.issue n.val w (fld w 11 8) (fld w 7 0) =
         .go ((s.core n.val).ref + fld w 23 12) (s.who n.val (fld w 11 8)) s1 ∧
       (s1.core n.val).ref = (s.core n.val).ref + fld w 23 12 ∧ s1 = { s with cores := s1.cores } ∧
       (∀ m, m ≠ n.val → s1.core m = s.core m)) ∧
  (∀ (s : State) (n : Fin 8) (w : IWord) (eng op : Nat), s.coreState n.val ≠ 1 ∨ s.coreStopped n.val = true →
     s.issue n.val w eng op = .none) ∧
  (∀ (s : State) (n : Fin 8), (s.core n.val).reps = [] → s.pos n.val + 1 < 2 ^ 32 →
     (s.advance n.val).pos n.val = s.pos n.val + 1 ∧
     (∀ o, o ≠ 0x100000 * n.val + 0x4 → o ≠ 0x100000 * n.val + 0x8 → (s.advance n.val).rd o = s.rd o) ∧
     s.advance n.val = { s with regs := (s.advance n.val).regs, cores := (s.advance n.val).cores } ∧
     ((s.core n.val).calls = [] → ∀ m, (s.advance n.val).core m = s.core m))

/-- NOP issues and does nothing else; SETB and ADDB write a base register, ADDB by adding modulo 2^32, and go on to
the next instruction (R117, R122). A base register written on a cycle still shows its old value to reads on that cycle
and its new value to reads on every other, later cycle; no other base register changes (R117). -/
def Obligations.BaseRegisters : Prop :=
  (∀ (s : State) (n : Fin 8) (w : IWord) (cyc : Nat) (who : Who) (s1 : State),
     (s.issue n.val w 0 0x00 = .go cyc who s1 → exec (.nop n w) s = .next (s1.advance n.val)) ∧
     (s.issue n.val w 0 0x05 = .go cyc who s1 →
       exec (.setb n w) s =
         .next ((s1.setCore n.val (setBreg (s1.core n.val) cyc (fld w 27 24) (BitVec.ofNat 32 (fld w 59 28)))).advance n.val)) ∧
     (s.issue n.val w 0 0x06 = .go cyc who s1 →
       exec (.addb n w) s =
         .next ((s1.setCore n.val (setBreg (s1.core n.val) cyc (fld w 27 24)
           (BitVec.ofNat 32 (breg (s1.core n.val) cyc (fld w 27 24)) + BitVec.ofNat 32 (fld w 59 28)))).advance n.val))) ∧
  (∀ (c : CoreRt) (cyc r : Nat) (v : Word),
     (∀ q, breg (setBreg c cyc r v) cyc q = breg c cyc q) ∧
     (∀ k, k ≠ cyc → k ≠ c.bCycle → breg (setBreg c cyc r v) k r = v.toNat) ∧
     (∀ k q, k ≠ cyc → k ≠ c.bCycle → q ≠ r → breg (setBreg c cyc r v) k q = breg c k q))

/-- A repeat body whose last instruction has issued adds the strides it enables, goes back to its first instruction
while iterations are left, and falls through after the last; at every other position nothing changes (R124). A stride
adds to its base register modulo 2^32 (R124). REPEAT opens a body with its count and strides; nested more than four
deep, or longer than its stream allows, it is decode fault 0x08 (R121, R124). CALL saves B0 to B7, the open bodies and
the place to return to, and enters the routine at its first instruction, one level deeper; its growth bits are fault
0x03, a fifth level fault 0x08, an invalid routine fault 0x09 (R126), and a table entry the core cannot read halts it
(R596). RETURN restores B0 to B7, the bodies and the place; a measured cost other than the declared one is a schedule
fault; outside a routine it is fault 0x10 (R127). -/
def Obligations.RepeatsAndCalls : Prop :=
  (∀ (c : CoreRt) (r : RepFrame) (rest : List RepFrame) (f : Nat), c.reps = r :: rest →
     (∀ c1, c1 = (let a := if r.enA then addStride c r.regA r.strideA else c
                  if r.enB then addStride a r.regB r.strideB else a) →
       (1 < r.left → closeBodies c (f + 1) (r.start + r.len) =
         ({ c1 with reps := { r with left := r.left - 1, iter := r.iter + 1 } :: rest }, r.start)) ∧
       (r.left ≤ 1 → closeBodies c (f + 1) (r.start + r.len) = closeBodies { c1 with reps := rest } f (r.start + r.len))) ∧
     (∀ p, p ≠ r.start + r.len → closeBodies c (f + 1) p = (c, p))) ∧
  (∀ (c : CoreRt) (r : Nat) (d : Int), addStride c r d = { c with bregs := (addStride c r d).bregs, bOld := (addStride c r d).bOld } ∧
     ∀ q, mapGet (fun _ => (0 : Word)) (addStride c r d).bregs q =
       if q = r then mapGet (fun _ => (0 : Word)) c.bregs r + BitVec.ofInt 32 d else mapGet (fun _ => (0 : Word)) c.bregs q) ∧
  (∀ (s : State) (n : Fin 8) (w : IWord) (cyc : Nat) (who : Who) (s1 : State),
     (s.issue n.val w 0 0x02 = .go cyc who s1 →
       (4 ≤ (s.core n.val).reps.length ∨ s.bodyTooLong n.val (fld w 51 40 + 1) →
         exec (.repeatBody n w) s = .next (s.decodeFault n.val 0 0x08)) ∧
       ((s.core n.val).reps.length < 4 → ¬ s.bodyTooLong n.val (fld w 51 40 + 1) →
         exec (.repeatBody n w) s = .next ((s1.setCore n.val { s1.core n.val with reps :=
           ⟨s.pos n.val + 1, fld w 51 40 + 1, fld w 39 24 + 1, 1, fld w 55 52, bit w.toNat 56, sext 24 (fld w 80 57),
             fld w 84 81, bit w.toNat 85, sext 24 (fld w 109 86)⟩ :: (s1.core n.val).reps }).advance n.val))) ∧
     (s.issue n.val w 0 0x03 = .go cyc who s1 →
       (fld w 35 34 ≠ 0 → exec (.call n w) s = .next (s.decodeFault n.val 0 0x03)) ∧
       (fld w 35 34 = 0 → 4 ≤ (s.core n.val).calls.length → exec (.call n w) s = .next (s.decodeFault n.val 0 0x08)) ∧
       (fld w 35 34 = 0 → (s.core n.val).calls.length < 4 →
         (∀ s2, s1.routineRead n.val (16 * fld w 33 24) = (none, s2) → exec (.call n w) s = .next (s2.routineFault who)) ∧
         (∀ d s2, s1.routineRead n.val (16 * fld w 33 24) = (some d, s2) →
           ((routineEntry d).valid = false → exec (.call n w) s = .next (s.decodeFault n.val 0 0x09)) ∧
           ((routineEntry d).valid = true →
             Answers (.call n w) s fun t => ∃ f, (t.core n.val).calls = f :: (s2.core n.val).calls ∧ f.routine = fld w 33 24 ∧
               f.retPos = s.pos n.val + 1 ∧ f.callCycle = cyc ∧ f.reps = (s2.core n.val).reps ∧ f.stall = 0 ∧
               f.cost = (routineEntry d).cost ∧ f.len = (routineEntry d).length ∧ f.body = 4 * (routineEntry d).offset ∧
               f.saved = (List.range 8).map (fun r => mapGet (fun _ => (0 : Word)) (s2.core n.val).bregs r) ∧
               (t.core n.val).reps = [] ∧ t.pos n.val = 0 ∧ (∀ m, m ≠ n.val → t.core m = s2.core m) ∧
               t = { s2 with regs := t.regs, cores := t.cores })))) ∧
     (s.issue n.val w 0 0x04 = .go cyc who s1 →
       ((s.core n.val).calls = [] → exec (.ret n w) s = .next (s.decodeFault n.val 0 0x10)) ∧
       (∀ f rest, (s.core n.val).calls = f :: rest →
         exec (.ret n w) s =
           let s2 := if cyc - f.callCycle - f.stall ≠ f.cost then s1.tgFault who 0x06 0 0 false cyc else s1
           .next ((s2.setCore n.val { restoreLow (s2.core n.val) f.saved with calls := rest, reps := f.reps }).moveTo n.val f.retPos))))

/-- STEP_END of the step NC_STEP names, with no routine or body open and every engine idle, goes on to the boundary of
the step (R123, R158); with an engine busy it is a boundary-busy fault and the boundary comes when every engine is idle
(R123, R153): on the cycle from which the engines with known ends are, or, where the mover, a streamed pass or a
generator still works, after their ends; named otherwise it is decode fault 0x0D. What a boundary leaves: NC_STEP one
further, and with no credit left or a schedule fault pending the core at its boundary (state 3), with a credit the core
running on and one credit less (R123, R154). -/
def Obligations.StepBoundaries : Prop :=
  (∀ (s : State) (n : Fin 8) (w : IWord) (cyc : Nat) (who : Who) (s1 : State), s.issue n.val w 0 0x01 = .go cyc who s1 →
     ((s.core n.val).calls ≠ [] ∨ (s.core n.val).reps ≠ [] ∨ fld w 55 24 ≠ s.fget (f_ncStep_step n.val) →
       exec (.stepEnd n w) s = .next (s.decodeFault n.val 0 0x0D)) ∧
     ((s.core n.val).calls = [] → (s.core n.val).reps = [] → fld w 55 24 = s.fget (f_ncStep_step n.val) →
       ((s1.core n.val).queue = [] → (s1.array n.val 0).streamed = none → (s1.array n.val 1).streamed = none →
         (s1.core n.val).gens.any (fun g => g.2.bound) = false →
         (s1.idleCycle n.val ≤ cyc → exec (.stepEnd n w) s = .next ((s1.advance n.val).boundary n.val cyc)) ∧
         (cyc < s1.idleCycle n.val → exec (.stepEnd n w) s =
           .next (((s1.tgFault who 0x08 0 0 false cyc).advance n.val).boundary n.val (s1.idleCycle n.val)))) ∧
       ((s1.core n.val).queue ≠ [] ∨ (s1.array n.val 0).streamed ≠ none ∨ (s1.array n.val 1).streamed ≠ none ∨
           (s1.core n.val).gens.any (fun g => g.2.bound) = true →
         exec (.stepEnd n w) s = .next (((s1.tgFault who 0x08 0 0 false cyc).advance n.val).setCore n.val
           { ((s1.tgFault who 0x08 0 0 false cyc).advance n.val).core n.val with stepEndAt := some cyc })))) ∧
  (∀ (s : State) (n : Fin 8) (cyc : Nat),
     (s.boundary n.val cyc).fget (f_ncStep_step n.val) = (s.fget (f_ncStep_step n.val) + 1) % 2 ^ 32 ∧
     (s.fget (f_ncBoundaryCredit_credit n.val) = 0 ∨ (s.core n.val).tgPending = true →
       (s.boundary n.val cyc).coreState n.val = 3) ∧
     (s.fget (f_ncBoundaryCredit_credit n.val) ≠ 0 → (s.core n.val).tgPending = false →
       (s.boundary n.val cyc).coreState n.val = s.coreState n.val ∧
       (s.boundary n.val cyc).fget (f_ncBoundaryCredit_credit n.val) = s.fget (f_ncBoundaryCredit_credit n.val) - 1) ∧
     (s.boundary n.val cyc).mem = s.mem ∧ (s.boundary n.val cyc).sync = s.sync)

/-- REGION_SET of a region that fits the scratchpad applies its geometry, with head and tail 0 and no slot valid,
whether or not an unfinished instruction names the region; region 63 is fault 0x11, a region operand, a misaligned or
an overlong one fault 0x07 (R149, R153). ASP_LOAD of a generator that is free loads the descriptor its line holds; of a
bound one it is an engine-busy fault, and the generator holds the descriptor; a bad operand is fault 0x07, a bad
descriptor fault 0x0B (R148, R153). PROFILE_LOAD and TABLE_LOAD put the bytes they read into the profile and the table
slots they name; VTABLE_LOAD does so for the vector engine's slots; a bad operand is fault 0x07 (R99, R136, R273). -/
def Obligations.RegionsAndTables : Prop :=
  (∀ (s : State) (n : Fin 8) (w : IWord) (cyc : Nat) (who : Who) (s1 : State), s.issue n.val w 0 0x07 = .go cyc who s1 →
     (∀ r g k, operand (s.core n.val) cyc (fld w 45 30) = .region r g k →
       exec (.regionSet n w) s = .next (s.decodeFault n.val 0 0x07)) ∧
     (∀ off, operand (s.core n.val) cyc (fld w 45 30) = .addr off →
       (fld w 29 24 = 63 → exec (.regionSet n w) s = .next (s.decodeFault n.val 0 0x11)) ∧
       (fld w 29 24 ≠ 63 → (off % 64 ≠ 0 ∨ regionFits (off / 64) (fld w 51 46 + 1) (fld w 63 52 + 1) = false) →
         exec (.regionSet n w) s = .next (s.decodeFault n.val 0 0x07)) ∧
       (fld w 29 24 ≠ 63 → off % 64 = 0 → regionFits (off / 64) (fld w 51 46 + 1) (fld w 63 52 + 1) = true →
         Answers (.regionSet n w) s fun t =>
           t.fget (f_tgRegionCfg_base_line n.val (fld w 29 24)) = off / 64 ∧
           t.fget (f_tgRegionCfg_slot_lines_m1 n.val (fld w 29 24)) = fld w 51 46 ∧
           t.fget (f_tgRegionCfg_slot_count_m1 n.val (fld w 29 24)) = fld w 63 52 ∧
           t.head n.val (fld w 29 24) = 0 ∧ t.tail n.val (fld w 29 24) = 0 ∧
           (∀ k, k < 4096 → t.slotValid n.val (fld w 29 24) k = false) ∧ t.mem = s1.mem ∧ t.sync = s1.sync))) ∧
  (∀ (s : State) (n : Fin 8) (w : IWord) (cyc : Nat) (who : Who) (s1 : State),
     (s.issue n.val w 0 0x08 = .go cyc who s1 →
       (addrOnly (operand (s.core n.val) cyc (fld w 43 28)) 64 = none →
         exec (.aspLoad n w) s = .next (s.decodeFault n.val 0 0x07)) ∧
       (∀ off, addrOnly (operand (s.core n.val) cyc (fld w 43 28)) 64 = some off →
         mapGet (fun _ => none) (s1.core n.val).genLoads (fld w 27 24) = none →
         (getGen (s1.core n.val) (fld w 27 24)).handover ≤ cyc →
         (parseGen (s1.sRead who (cyc + 1) (off / 64) rankDesc).1 = none →
           exec (.aspLoad n w) s = .next (s.decodeFault n.val 0 0x0B)) ∧
         (∀ x, parseGen (s1.sRead who (cyc + 1) (off / 64) rankDesc).1 = some x →
           ((getGen (s1.core n.val) (fld w 27 24)).bound = false → (getGen (s1.core n.val) (fld w 27 24)).freed ≤ cyc →
             exec (.aspLoad n w) s = .next (((s1.sRead who (cyc + 1) (off / 64) rankDesc).2.genLoad who (fld w 27 24)
               { x with freed := cyc } (cyc + 1)).advance n.val)) ∧
           ((getGen (s1.core n.val) (fld w 27 24)).bound = false → cyc < (getGen (s1.core n.val) (fld w 27 24)).freed →
             exec (.aspLoad n w) s = .next ((((s1.sRead who (cyc + 1) (off / 64) rankDesc).2.tgFault who 0x04 0 0 false cyc).genLoad
               who (fld w 27 24) { x with freed := (getGen (s1.core n.val) (fld w 27 24)).freed, handover := (getGen (s1.core n.val)
                 (fld w 27 24)).freed } (getGen (s1.core n.val) (fld w 27 24)).freed).advance n.val)) ∧
           ((getGen (s1.core n.val) (fld w 27 24)).bound = true →
             exec (.aspLoad n w) s =
               let s2 := (s1.sRead who (cyc + 1) (off / 64) rankDesc).2.tgFault who 0x04 0 0 false cyc
               .next ((s2.setCore n.val { s2.core n.val with
                 genLoads := mapSet (fun _ => none) (s2.core n.val).genLoads (fld w 27 24) (some x) }).advance n.val))))) ∧
     (∀ a : Fin 2, fld w 11 8 = 1 + a.val →
       (s.issue n.val w (1 + a.val) 0x01 = .go cyc who s1 →
         (addrOnly (operand (s.core n.val) cyc (fld w 43 28)) 32 = none →
           exec (.profileLoad n w) s = .next (s.decodeFault n.val (1 + a.val) 0x07)) ∧
         (∀ off, addrOnly (operand (s.core n.val) cyc (fld w 43 28)) 32 = some off →
           Answers (.profileLoad n w) s fun t =>
             mapGet (fun _ => 0) (t.array n.val a.val).profiles (fld w 27 24) =
               BitVec.ofNat 256 (leNat ((s1.sRead who (cyc + 1) (off / 64) rankDesc).1.take 32)))) ∧
       (s.issue n.val w (1 + a.val) 0x02 = .go cyc who s1 →
         (addrOnly (operand (s.core n.val) cyc (fld w 43 28)) 2112 = none ∨ fld w 27 26 = 0 →
           exec (.tableLoad n w) s = .next (s.decodeFault n.val (1 + a.val) 0x07)) ∧
         (∀ off, addrOnly (operand (s.core n.val) cyc (fld w 43 28)) 2112 = some off → fld w 27 26 ≠ 0 →
           Answers (.tableLoad n w) s fun t => ∀ d : Fin 2, bit (fld w 27 26) d.val = true →
             mapGet (fun _ => []) (t.array n.val a.val).tables (fld w 25 24 + 4 * d.val) =
               (s1.sReads who (off / 64) rankDesc ((List.range 33).map fun i => cyc + 1 + i)).1))) ∧
     (s.issue n.val w 3 0x09 = .go cyc who s1 →
       (addrOnly (operand (s.core n.val) cyc (fld w 63 48)) 2112 = none →
         exec (.veTableLoad n w) s = .next (s.decodeFault n.val 3 0x07)) ∧
       (∀ off, addrOnly (operand (s.core n.val) cyc (fld w 63 48)) 2112 = some off → (s.core n.val).veTabUse = [] →
         Answers (.veTableLoad n w) s fun t =>
           mapGet (fun _ => []) (t.core n.val).veTables (fld w 125 124) =
             ((s1.engineStart who cyc 33 34).2.sReads who (off / 64) rankVe
               ((List.range 33).map fun i => (s1.engineStart who cyc 33 34).1 + 2 + i)).1)))

/-- PASS, alone on its cycle: the instruction its word describes launches three cycles after its issue or when the front
is free (R47, R52, R54), and behind a streamed instruction on its array it is held until that completes (R54). The
first half of a pair waits for its partner; the partner launches both, or is held with it; halves that name different
rows, vectors or transposition are decode fault 0x06 of the first (R63, R134). A word whose operands are bad is the
decode fault `parsePass` names. -/
def Obligations.PassCompletes : Prop :=
  ∀ (s : State) (n : Fin 8) (a : Fin 2) (w : IWord) (ups : List Upset) (cyc : Nat) (who : Who)
    (s1 s2 : State), fld w 11 8 = 1 + a.val → s.issue n.val w (1 + a.val) 0x00 = .go cyc who s1 →
    s2 = s1.earlyIssue n.val a.val cyc who →
    (∀ code, s.parsePass n.val a.val cyc w (s.pos n.val) ups = .error code →
      exec (.pass n w ups) s = .next (s.decodeFault n.val (1 + a.val) code)) ∧
    (∀ p, s.parsePass n.val a.val cyc w (s.pos n.val) ups = .ok p →
      ((s.core n.val).half = none →
        (p.paired = true → exec (.pass n w ups) s =
          .next ((s2.setCore n.val { s2.core n.val with half := some (a.val, p) }).advance n.val)) ∧
        (p.paired = false → ((s2.advance n.val).array n.val a.val).streamed = none →
          exec (.pass n w ups) s = .next ((s2.advance n.val).launch n.val a.val p
            (max (cyc + 3) ((s2.advance n.val).array n.val a.val).slotEnd))) ∧
        (p.paired = false → ((s2.advance n.val).array n.val a.val).streamed ≠ none →
          exec (.pass n w ups) s = .next (((s2.advance n.val).setCore n.val { (s2.advance n.val).core n.val with paused := true }).setArray
            n.val a.val { (s2.advance n.val).array n.val a.val with heldPass := some p }))) ∧
      (∀ b q, (s.core n.val).half = some (b, q) →
        (bits q.act 15 0 ≠ bits p.act 15 0 ∨ q.vectors ≠ p.vectors ∨ q.trans ≠ p.trans →
          exec (.pass n w ups) s = .next (s.faultAt (q.who n.val b) 0x06 .instructionFault)) ∧
        (bits q.act 15 0 = bits p.act 15 0 → q.vectors = p.vectors → q.trans = p.trans →
          ∀ s3, s3 = (s2.setCore n.val { s2.core n.val with half := none }).advance n.val →
            ((s.array n.val b).streamed = none → (s.array n.val a.val).streamed = none →
              exec (.pass n w ups) s = .next (s3.launchPair n.val b q p)) ∧
            ((s.array n.val b).streamed ≠ none ∨ (s.array n.val a.val).streamed ≠ none →
              Answers (.pass n w ups) s fun t => (t.core n.val).paused = true ∧ (t.array n.val a.val).heldPass = some p ∧
                (b ≠ a.val → (t.array n.val b).heldPass = some q) ∧ t.mem = s3.mem ∧ t.sync = s3.sync ∧ t.regs = s3.regs))))

/-- A local SIGNAL adds to the object its index names, a remote one goes to the slice position it names, a SET stores into
its object, and a WAIT whose target the counter has reached goes on from its own cycle, or holds the core waiting (state
2) until it is; the target may take a base register's value (R137, R141, R142). A growth bit is fault 0x03, an index
outside the core's window, or the remote form of SET and WAIT, fault 0x0A, a WAIT in a routine fault 0x0E. A waiting
core whose counter has reached its target on the cycle `cycles` after its WAIT issued runs on from that cycle, and
NC_WAIT_CYCLES counts the wait (R142); one inside a step whose limit is set and whose counter has not reached it halts
with the wait-timeout fault, code 0x00 (R144). -/
def Obligations.SyncInstructions : Prop :=
  (∀ (s : State) (n : Fin 8) (w : IWord) (cyc : Nat) (who : Who) (s1 : State),
     (s.issue n.val w 5 0x00 = .go cyc who s1 →
       (syncGrowth w = true → exec (.signal n w) s = .next (s.decodeFault n.val 5 0x03)) ∧
       (syncGrowth w = false → bit w.toNat 39 = true →
         (s1.coreFailed n.val = false → exec (.signal n w) s =
           .next ((s1.remoteSignal (fld w 43 40) (fld w 38 24) (BitVec.ofNat 32 (fld w 79 48))).advance n.val)) ∧
         (s1.coreFailed n.val = true → exec (.signal n w) s = .next ((s1.dropWrites 1).advance n.val))) ∧
       (syncGrowth w = false → bit w.toNat 39 = false →
         (s.syncIndex n.val (fld w 38 24) = none → exec (.signal n w) s = .next (s.decodeFault n.val 5 0x0A)) ∧
         (∀ o, s.syncIndex n.val (fld w 38 24) = some o → s1.coreFailed n.val = false →
           Answers (.signal n w) s fun t => t.obj o = s1.obj o + BitVec.ofNat 32 (fld w 79 48) ∧
             (∀ p, p ≠ o → t.obj p = s1.obj p) ∧ t.mem = s1.mem))) ∧
     (s.issue n.val w 5 0x02 = .go cyc who s1 →
       (syncGrowth w = true → exec (.setObj n w) s = .next (s.decodeFault n.val 5 0x03)) ∧
       (syncGrowth w = false → bit w.toNat 39 = true ∨ s.syncIndex n.val (fld w 38 24) = none →
         exec (.setObj n w) s = .next (s.decodeFault n.val 5 0x0A)) ∧
       (∀ o, syncGrowth w = false → bit w.toNat 39 = false → s.syncIndex n.val (fld w 38 24) = some o → s1.coreFailed n.val = false →
         Answers (.setObj n w) s fun t => t.obj o = BitVec.ofNat 32 (fld w 79 48) + s1.pendingSignals o ∧
           (∀ p, p ≠ o → t.obj p = s1.obj p) ∧ t.mem = s1.mem)) ∧
     (s.issue n.val w 5 0x01 = .go cyc who s1 →
       (syncGrowth w = true → exec (.wait n w) s = .next (s.decodeFault n.val 5 0x03)) ∧
       (syncGrowth w = false → bit w.toNat 39 = true → exec (.wait n w) s = .next (s.decodeFault n.val 5 0x0A)) ∧
       (syncGrowth w = false → bit w.toNat 39 = false →
         ((s.core n.val).calls ≠ [] → exec (.wait n w) s = .next (s.decodeFault n.val 5 0x0E)) ∧
         ((s.core n.val).calls = [] → s.syncIndex n.val (fld w 38 24) = none → exec (.wait n w) s = .next (s.decodeFault n.val 5 0x0A)) ∧
         (∀ o v, (s.core n.val).calls = [] → s.syncIndex n.val (fld w 38 24) = some o →
           v = BitVec.ofNat 32 (fld w 79 48 + if bit w.toNat 84 then breg (s.core n.val) cyc (fld w 83 80) else 0) →
           (reached (s1.objSeen n.val o cyc) v = true → exec (.wait n w) s = .next (s1.satisfy n.val cyc)) ∧
           (reached (s1.objSeen n.val o cyc) v = false →
             Answers (.wait n w) s fun t => t.coreState n.val = 2 ∧
               (t.core n.val).waiting = some (o, v, cyc, (s.core n.val).stepOpen) ∧
               t.mem = s1.mem ∧ t.sync = s1.sync))))) ∧
  (∀ (s : State) (n : Fin 8) (cycles o cyc : Nat) (target : Word) (opens : Bool),
     (s.core n.val).waiting = some (o, target, cyc, opens) → s.coreStopped n.val = false →
     (reached (s.objSeen n.val o (cyc + max 1 cycles)) target = true →
       exec (.waitSatisfied n cycles) s = .next (((s.waitCycles n.val (max 1 cycles - (s.core n.val).waitSkip)).fput
         (f_ncStatus_state n.val) 1).satisfy n.val (cyc + max 1 cycles))) ∧
     (reached (s.objSeen n.val o (cyc + max 1 cycles)) target = false → exec (.waitSatisfied n cycles) s = .next s) ∧
     (opens = false → s.fget (f_ncWaitLimit_limit_us n.val) ≠ 0 → reached (s.obj o) target = false →
       exec (.waitTimeout n cycles) s =
         .next ((s.waitCycles n.val (cycles - (s.core n.val).waitSkip)).faultAt (s.who n.val 5) 0x00 .waitTimeout)) ∧
     (opens = true → exec (.waitTimeout n cycles) s = .next s))

/-- MOVE with a free place in its mover's queue of 64 and a good descriptor joins the queue, in order, with the completion
its word names, or none; then the mover starts what may start. An increment of 0 or an operand that is no address is
fault 0x07, an object outside the core's window fault 0x0A, a full queue fault 0x0F, and a bad descriptor the fault
that the rules of descriptors name (R145, R201, R203). -/
def Obligations.MoveQueues : Prop :=
  ∀ (s : State) (n : Fin 8) (w : IWord) (cyc : Nat) (who : Who) (s1 : State), s.issue n.val w 4 0x00 = .go cyc who s1 →
    (bit w.toNat 63 = true → fld w 62 55 = 0 → exec (.move n w) s = .next (s.decodeFault n.val 4 0x07)) ∧
    (bit w.toNat 63 = true → fld w 62 55 ≠ 0 → s.syncIndex n.val (fld w 54 40) = none →
      exec (.move n w) s = .next (s.decodeFault n.val 4 0x0A)) ∧
    (∀ done : Option (Nat × Word),
      (bit w.toNat 63 = false ∧ done = none) ∨ (bit w.toNat 63 = true ∧ fld w 62 55 ≠ 0 ∧
        ∃ o, s.syncIndex n.val (fld w 54 40) = some o ∧ done = some (o, BitVec.ofNat 32 (fld w 62 55))) →
      (64 ≤ (s.core n.val).queue.length → exec (.move n w) s = .next (s.decodeFault n.val 4 0x0F)) ∧
      ((s.core n.val).queue.length < 64 →
        (addrOnly (operand (s.core n.val) cyc (fld w 39 24)) 64 = none →
          exec (.move n w) s = .next (s.decodeFault n.val 4 0x07)) ∧
        (∀ off s2, addrOnly (operand (s.core n.val) cyc (fld w 39 24)) 64 = some off →
          s2 = (s1.sRead who (cyc + 1) (off / 64) rankDesc).2 →
          (∀ code, s2.parseMove n.val cyc (s1.sRead who (cyc + 1) (off / 64) rankDesc).1 = .error code →
            exec (.move n w) s = .next (s2.faultAt who code .instructionFault)) ∧
          (∀ t, s2.parseMove n.val cyc (s1.sRead who (cyc + 1) (off / 64) rankDesc).1 = .ok t →
            exec (.move n w) s =
              .next (((s2.setCore n.val { s2.core n.val with
                queue := (s2.core n.val).queue ++ [{ t with done := done, serial := (s2.core n.val).nextSerial }],
                nextSerial := (s2.core n.val).nextSerial + 1 }).advance n.val).mvSettle n.val)))))

/-- Each such row whose formats are good and whose operands the engine can take has that effect; bad formats are fault
0x04 and bad operands fault 0x07: NORM takes an address operand as its second source, and RESAMPLE a generator as its
first (R272 to R278). -/
def Obligations.VectorRowsComplete : Prop :=
  ∀ r ∈ vectorRows, ∀ (s : State) (n : Fin 8) (w : IWord) (cyc : Nat) (who : Who) (s1 : State),
    s.issue n.val w 3 r.1 = .go cyc who s1 → (parseVec w).op = r.1 →
    ((parseVec w).fmtsOk = false → exec (r.2 n w) s = .next (s.decodeFault n.val 3 0x04)) ∧
    ((parseVec w).fmtsOk = true → s.vecOpds n.val cyc w = none → exec (r.2 n w) s = .next (s.decodeFault n.val 3 0x07)) ∧
    (∀ xa xb xd, (parseVec w).fmtsOk = true → s.vecOpds n.val cyc w = some (xa, xb, xd) →
      ((r.1 = 0x13 → ∃ f off l, xb = some ⟨f, .addr off, l⟩) → (r.1 = 0x24 → xa.generated = true) →
        exec (r.2 n w) s = .next (vectorEffect s1 n.val cyc who (parseVec w) xa xb xd)) ∧
      ((r.1 = 0x13 ∧ ∀ f off l, xb ≠ some ⟨f, .addr off, l⟩) ∨ (r.1 = 0x24 ∧ xa.generated = false) →
        exec (r.2 n w) s = .next (s.decodeFault n.val 3 0x07)))

/-- PATCH, TO_PIXEL and TO_PLANAR with good formats and operands build their vectors in order and go on; bad formats are
fault 0x04 and bad operands fault 0x07 (R271, R273, R277). -/
def Obligations.LayoutRowsComplete : Prop :=
  ∀ (s : State) (n : Fin 8) (w : IWord) (cyc : Nat) (who : Who) (s1 : State) (v : VInst), v = parseVec w →
    (s.issue n.val w 3 0x20 = .go cyc who s1 →
      (v.fmtsOk = false → exec (.vePatch n w) s = .next (s.decodeFault n.val 3 0x04)) ∧
      (v.fmtsOk = true → ∀ src ls xa, src = operand (s.core n.val) cyc (fld w 63 48) →
        ls = (match src with | .region r _ _ => s.slotLines n.val r | .addr _ => 0) → xa = (⟨fld w 63 48, src, ls⟩ : VOpd) →
        (s.vOpd n.val cyc (fld w 95 80) (vecLines v.fd 256 v.sd) v.count true = none ∨ xa.generated = false ∨
            readRegionOk src = false ∨ ls < vecLines v.fa (v.aux % 256 + 1) v.sa →
          exec (.vePatch n w) s = .next (s.decodeFault n.val 3 0x07)) ∧
        (∀ xd, s.vOpd n.val cyc (fld w 95 80) (vecLines v.fd 256 v.sd) v.count true = some xd → xa.generated = true →
          readRegionOk src = true → vecLines v.fa (v.aux % 256 + 1) v.sa ≤ ls →
          exec (.vePatch n w) s =
            let lines := 256 / (v.aux % 256 + 1) * ls
            let c := ceilDiv lines 4
            let last := 2 + v.count * c - 1 + 6
            let st := s1.engineStart who cyc (v.count * c) last
            .next ((((List.range v.count).foldl (fun s k => s.patchOne who v xa xd (st.2.vHead n.val (s1.issuedAt who cyc) xa) st.1 c k) st.2).vDone who
              [(xa, st.1 + 2 + (v.count - 1) * c + (lines - 1) / 4), (xd, 0)] (st.1 + last)).advance n.val)))) ∧
    (s.issue n.val w 3 0x21 = .go cyc who s1 →
      (v.fmtsOk = false → exec (.veToPixel n w) s = .next (s.decodeFault n.val 3 0x04)) ∧
      (v.fmtsOk = true → ∀ stride dst, stride = breg (s.core n.val) cyc (bits v.aux2 15 12) →
        dst = s.vOpd n.val cyc (fld w 95 80) (vecLines v.fd (v.aux + 1) v.sd) v.count true →
        (dst = none ∨ (∀ off, operand (s.core n.val) cyc (fld w 63 48) = .addr off →
            planesOk off stride v.fa v.count (v.aux + 1) = false) →
          exec (.veToPixel n w) s = .next (s.decodeFault n.val 3 0x07)) ∧
        (∀ off xd, operand (s.core n.val) cyc (fld w 63 48) = .addr off → dst = some xd →
          planesOk off stride v.fa v.count (v.aux + 1) = true →
          exec (.veToPixel n w) s =
            let c := layoutCycles v.fd (v.aux + 1)
            let last := 2 + v.count * c - 1 + 6
            let st := s1.engineStart who cyc (v.count * c) last
            let pl := planeLines off stride v.fa v.count (v.aux + 1)
            let d := st.2.planeReads who (st.1 + 2) c (List.zip pl (keyPlaces [] (pl.map (·.first))).1)
            let planes := (List.range (v.aux + 1)).map fun ch => vecValues v.fa v.count false (chanBytes d.1 ch)
            .next ((((List.range v.count).foldl (fun s k => s.pixelOne who v planes xd st.1 c k) d.2).vDone who
              [(xd, 0)] (st.1 + last)).advance n.val)))) ∧
    (s.issue n.val w 3 0x22 = .go cyc who s1 →
      (v.fmtsOk = false → exec (.veToPlanar n w) s = .next (s.decodeFault n.val 3 0x04)) ∧
      (v.fmtsOk = true → ∀ stride src, stride = breg (s.core n.val) cyc (bits v.aux2 15 12) →
        src = s.vOpd n.val cyc (fld w 63 48) (vecLines v.fa (v.aux + 1) v.sa) v.count false →
        (src = none ∨ (∀ off, operand (s.core n.val) cyc (fld w 95 80) = .addr off →
            planesOk off stride v.fd v.count (v.aux + 1) = false) →
          exec (.veToPlanar n w) s = .next (s.decodeFault n.val 3 0x07)) ∧
        (∀ off xa, operand (s.core n.val) cyc (fld w 95 80) = .addr off → src = some xa →
          planesOk off stride v.fd v.count (v.aux + 1) = true →
          exec (.veToPlanar n w) s =
            let c := layoutCycles v.fd (v.aux + 1)
            let last := 2 + v.count * c - 1 + 6
            let st := s1.engineStart who cyc (v.count * c) last
            let d := st.2.pixelReads who v xa (st.2.vHead n.val (s1.issuedAt who cyc) xa) st.1 c (List.range v.count)
            let outs := (List.range (v.aux + 1)).map fun ch =>
              (ch, vecStore v.fd false (fun _ => none) (d.1.map fun px => px.getD ch (vPure .zero)))
            let pl := planeLines off stride v.fd v.count (v.aux + 1)
            let ky := keyPlaces [] (pl.map (·.last))
            let s3 := d.2.planeWrites who (st.1 + 2 + c - 1 + 6) c ky.2 (List.zip pl ky.1) (outs.map fun p => (p.1, p.2.data))
            .next (((outs.foldl (fun s p => s.veEvents n.val p.2) s3).vDone who
              [(xa, st.1 + 2 + (v.count - 1) * c + (xa.lines - 1) / 4)] (st.1 + last)).advance n.val))))

/-- A grit row writes `count` elements of its stream and sample, drawn under the core's key, as one vector at its
destination (R283 to R288); SAMPLE runs its records, vector after vector, under the cost of R282; an operand the engine
cannot take is fault 0x07, a format SAMPLE does not take fault 0x04. -/
def Obligations.GritAndSampleComplete : Prop :=
  (∀ r ∈ gritRows, ∀ (s : State) (n : Fin 8) (w : IWord) (cyc : Nat) (who : Who) (s1 : State),
    s.issue n.val w 7 r.1 = .go cyc who s1 →
    (s.vOpd n.val cyc (fld w 95 80) (eltLines (grShape r.1).1 (fld w 47 32 + 1)) 1 true = none →
      exec (r.2 n w) s = .next (s.decodeFault n.val 7 0x07)) ∧
    (∀ xd, s.vOpd n.val cyc (fld w 95 80) (eltLines (grShape r.1).1 (fld w 47 32 + 1)) 1 true = some xd →
      exec (r.2 n w) s =
        let count := fld w 47 32 + 1
        let last := 2 + ceilDiv count (grShape r.1).2 - 1 + 24
        let st := s1.engineStart who cyc (ceilDiv count (grShape r.1).2) last
        let g := gritWord (st.2.core n.val).gritKey 0 (fld w 103 96) (breg (s.core n.val) cyc (fld w 115 112))
        let elts := (List.range count).map (grElement r.1 (breg (s.core n.val) cyc (fld w 27 24)) (fld w 79 64 + 65536 * fld w 28 28) g)
        .next (((st.2.vWrite who xd 0 (st.1 + last) none ⟨packCodes (fmtWidth (grShape r.1).1) elts, [], 0, .none⟩ rankGr).vDone who
          [(xd, 0)] (st.1 + last)).advance n.val))) ∧
  (∀ (s : State) (n : Fin 8) (w : IWord) (cyc : Nat) (who : Who) (s1 : State), s.issue n.val w 6 0x01 = .go cyc who s1 →
    (fld w 31 28 ≠ 8 → fld w 31 28 ≠ 9 → fld w 31 28 ≠ 0xA → exec (.sample n w) s = .next (s.decodeFault n.val 6 0x04)) ∧
    ((fld w 31 28 = 8 ∨ fld w 31 28 = 9 ∨ fld w 31 28 = 0xA) → ∀ v oa ob od, v = fld w 127 112 + 65536 * fld w 25 24 + 1 →
      oa = s.vOpd n.val cyc (fld w 63 48) (eltLines (fld w 31 28) v) (fld w 47 32 + 1) false →
      ob = s.vOpd n.val cyc (fld w 79 64) 1 (fld w 47 32 + 1) false →
      od = s.vOpd n.val cyc (fld w 95 80) 1 (fld w 47 32 + 1) true →
      (oa = none ∨ ob = none ∨ od = none → exec (.sample n w) s = .next (s.decodeFault n.val 6 0x07)) ∧
      (∀ xa xb xd, oa = some xa → ob = some xb → od = some xd →
        exec (.sample n w) s =
          let kcap := fld w 105 96 + 1
          let count := fld w 47 32 + 1
          let c := ceilDiv (v * (fmtWidth (fld w 31 28) / 8)) 256 + 4 * kcap + 64
          let last := 2 + count * c - 1 + 16
          let st := s1.engineStart who cyc (count * c) last
          let rd := st.1 + 2 + (count - 1) * c
          .next ((((List.range count).foldl (fun s k => s.suOne who (fld w 31 28) v kcap xa xb xd (st.2.vHead n.val (s1.issuedAt who cyc) xa)
            (st.2.vHead n.val (s1.issuedAt who cyc) xb) st.1 c k) st.2).vDone who
              [(xa, rd + (xa.lines - 1) / 4), (xb, rd + (xb.lines - 1) / 4), (xd, 0)] (st.1 + last)).advance n.val))))

/-! Core control, engines and their counters. -/

/-- A core at idle or at a boundary whose power is on starts: it runs, NC_CTRL.start reads 0, and no routine or body is
open; any other core is left. An abort has the core read aborting with nothing queued, half issued or waiting, and no
other core, memory byte or sync object changes; when its engines have unwound it reads idle (R156). The control
processor of a core is released and held by the MP (R532). -/
def Obligations.CoreControl : Prop :=
  (∀ (s : State) (n : Fin 8),
     (s.coreState n.val = 0 ∨ s.coreState n.val = 3 → s.fbit (f_pgCorePwr_on n.val) = true →
       Answers (.ncStart n) s fun t => t.coreState n.val = 1 ∧ t.fget (f_ncCtrl_start n.val) = 0 ∧
         (t.core n.val).calls = [] ∧ (t.core n.val).reps = [] ∧ (t.core n.val).stepOpen = true) ∧
     ((s.coreState n.val ≠ 0 ∧ s.coreState n.val ≠ 3) ∨ s.fbit (f_pgCorePwr_on n.val) = false → exec (.ncStart n) s = .next s) ∧
     (Answers (.ncAbort n) s fun t => t.coreState n.val = 5 ∧ (t.core n.val).queue = [] ∧ (t.core n.val).half = none ∧
       (t.core n.val).waiting = none ∧ (t.core n.val).stepEndAt = none ∧ t.mem = s.mem ∧ t.sync = s.sync ∧
       ∀ m, m ≠ n.val → t.core m = s.core m) ∧
     (s.coreState n.val = 5 → s.coreStopped n.val = false →
       Answers (.ncAbortDone n) s fun t => t.coreState n.val = 0 ∧ t.fget (f_ncCtrl_abort n.val) = 0 ∧
         (t.core n.val).calls = [] ∧ (t.core n.val).reps = [] ∧ (∀ g, (getGen (t.core n.val) g).bound = false) ∧
         (∀ a : Fin 2, (t.array n.val a.val).flights = [] ∧ (t.array n.val a.val).idleAt ≤ (t.core n.val).ref) ∧
         t.mem = s.mem ∧ t.sync = s.sync) ∧
     (s.coreState n.val ≠ 5 ∨ s.coreStopped n.val = true → exec (.ncAbortDone n) s = .next s)) ∧
  (∀ (s : State) (n : Fin 8),
     (Answers (.cpRelease n) s fun t => t.fget (f_ncCpCtrl_hold n.val) = 0 ∧ t.fget (f_ncCpCtrl_running n.val) = 1 ∧
       RegsOnly s t [0x100000 * n.val + 0x40]) ∧
     (Answers (.cpHold n) s fun t => t.fget (f_ncCpCtrl_hold n.val) = 1 ∧ t.fget (f_ncCpCtrl_running n.val) = 0 ∧
       RegsOnly s t [0x100000 * n.val + 0x40]))

/-- Every counter that a command zeroes reads zero after it, and no other register, nor anything else, changes: the
core's freeze and wait counters (R156), where the place from which a wait in progress counts moves; an array's four counters (R67), where its passes in flight no longer count; and its arithmetic counts (R108), the corrected
reads of the scratchpad (R184) and of the horizon buffer (R197), the mover's tier counters (R210), the vector engine's
clamped results (R293), the stale and recovery counts of the ring (R356) and a pipe's switches (R430). -/
def Obligations.CountersZeroed : Prop :=
  ∀ (s : State) (n : Fin 8) (a p : Fin 2),
    (Answers (.ncCountReset n) s fun t => t.fget64 (f_ncFreezeCycles_freeze_lo n.val) = 0 ∧
      t.fget64 (f_ncWaitCycles_wait_lo n.val) = 0 ∧
      (∀ o, o ∉ [0x100000 * n.val + 0x28, 0x100000 * n.val + 0x2C, 0x100000 * n.val + 0x30, 0x100000 * n.val + 0x34] →
        t.rd o = s.rd o) ∧ t.core n.val = { s.core n.val with waitSkip := (t.core n.val).waitSkip } ∧
      (∀ m, m ≠ n.val → t.core m = s.core m) ∧ t = { s with regs := t.regs, cores := t.cores, fresh := t.fresh }) ∧
    (Answers (.maCountReset n a) s fun t => t.fget64 (f_maPassCount_passes_lo n.val a.val) = 0 ∧
      t.fget64 (f_maHoldCycles_hold_lo n.val a.val) = 0 ∧ t.fget64 (f_maDryCycles_dry_lo n.val a.val) = 0 ∧
      t.fget64 (f_maBackupCycles_backup_lo n.val a.val) = 0 ∧
      (∀ o, o ∉ ((List.range 8).map fun i => 0x100000 * n.val + 0x40000 + 0x10000 * a.val + 0x10 + 4 * i) → t.rd o = s.rd o) ∧
      t.array n.val a.val = { s.array n.val a.val with flights := (t.array n.val a.val).flights } ∧
      (∀ (m : Fin 8) (b : Fin 2), (m, b) ≠ (n, a) → t.array m.val b.val = s.array m.val b.val) ∧
      t = { s with regs := t.regs, arrays := t.arrays }) ∧
    (Answers (.maCountsClear n a) s fun t => t.fget (f_maSatCount_sat n.val a.val) = 0 ∧
      t.fget (f_maInvalidCount_invalid n.val a.val) = 0 ∧
      RegsOnly s t [0x100000 * n.val + 0x40048 + 0x10000 * a.val, 0x100000 * n.val + 0x4004C + 0x10000 * a.val]) ∧
    (Answers (.spCountsClear n) s fun t => t.fget (f_spCorrCount_corrected n.val) = 0 ∧
      RegsOnly s t [(f_spCorrCount_corrected n.val).off]) ∧
    (Answers .hbCountsClear s fun t => t.fget f_hbCorrCount_corrected = 0 ∧ RegsOnly s t [f_hbCorrCount_corrected.off]) ∧
    (Answers (.mvCountReset n) s fun t => (∀ i : Fin 4, t.fget64 (f_mvTierBytes_bytes_lo n.val i.val) = 0) ∧
      RegsOnly s t ((List.range 8).map fun i => 0x100000 * n.val + 0x30010 + 4 * i)) ∧
    (Answers (.veCountsClear n) s fun t => t.fget (f_veSatCount_saturated n.val) = 0 ∧
      RegsOnly s t [(f_veSatCount_saturated n.val).off]) ∧
    (Answers .ciCountsClear s fun t => t.fget f_ciStaleCount_stale = 0 ∧ t.fget f_ciCounts_replay_n = 0 ∧
      t.fget f_ciCounts_replay_s = 0 ∧ t.fget f_ciCounts_abandoned = 0 ∧ t.fget f_ciCounts_restarted = 0 ∧
      RegsOnly s t [0x83002C, 0x830030, 0x830034]) ∧
    (Answers (.ipCountsClear p) s fun t => t.fget (f_ipSwitchCount_switches p.val) = 0 ∧
      RegsOnly s t [(f_ipSwitchCount_switches p.val).off])

/-- Clearing an idle array's banks starts and, when done, leaves the array in its reset state but for profiles and
tables; a busy array refuses with its flag (R66). Scrubs of a halted core's scratchpad and of the horizon buffer leave
every byte of them zero and every byte elsewhere as it was; a scratchpad scrub of a core that runs is refused with its
flag; a scrub that ends clears its start bit and lets what waited for it go on (R183, R196). None of the three ends
while the clock that drives it stands stopped (R565). -/
def Obligations.ClearsAndScrubs : Prop :=
  (∀ (s : State) (n : Fin 8) (a : Fin 2),
     (s.arrayBusy n.val a.val = false →
       Answers (.maClearBanks n a) s fun t => t.fget (f_maStatus_clearing n.val a.val) = 1 ∧
         t.fget (f_maCtrl_clear_banks n.val a.val) = 1 ∧
         RegsOnly s t [(f_maStatus_clearing n.val a.val).off, (f_maCtrl_clear_banks n.val a.val).off]) ∧
     (s.arrayBusy n.val a.val = true → Answers (.maClearBanks n a) s fun t => t.fbit (f_maEvent_clear_refused n.val a.val) = true) ∧
     (s.fbit (f_maStatus_clearing n.val a.val) = true → s.coreStopped n.val = false →
       Answers (.maClearDone n a) s fun t =>
         t.array n.val a.val = { ArrRt.reset with profiles := (s.array n.val a.val).profiles, tables := (s.array n.val a.val).tables } ∧
         t.fget (f_maStatus_clearing n.val a.val) = 0 ∧ t.fget (f_maCtrl_clear_banks n.val a.val) = 0 ∧
         t.mem = s.mem ∧ t.sync = s.sync ∧ ∀ m, t.core m = s.core m) ∧
     (s.fbit (f_maStatus_clearing n.val a.val) = false ∨ s.coreStopped n.val = true → exec (.maClearDone n a) s = .next s)) ∧
  (∀ (s : State) (n : Fin 8),
     (s.halted n.val = true → (s.core n.val).scrubbing = false →
       Answers (.spScrubStart n) s fun t => (∀ o, o < 0xA00000 → t.byte (spAddr n.val o) = 0) ∧
         (∀ a, a < spAddr n.val 0 ∨ spAddr n.val 0xA00000 ≤ a → t.byte a = s.byte a) ∧ (t.core n.val).scrubbing = true ∧
         t.fget (f_spScrub_start n.val) = 1) ∧
     (s.halted n.val = true → (s.core n.val).scrubbing = true → exec (.spScrubStart n) s = .next s) ∧
     (s.halted n.val = false → Answers (.spScrubStart n) s fun t => t.fbit (f_spEvent_scrub_refused n.val) = true ∧ t.mem = s.mem) ∧
     ((s.core n.val).scrubbing = true → s.coreStopped n.val = false →
       Answers (.spScrubDone n) s fun t => ∃ u : State, t = (u.mvSettle n.val).deliverHeld ∧
         (u.core n.val).scrubbing = false ∧ u.fget (f_spScrub_start n.val) = 0 ∧
         (∀ o, o ≠ (f_spScrub_start n.val).off → u.rd o = s.rd o) ∧ u = { s with regs := u.regs, cores := u.cores }) ∧
     ((s.core n.val).scrubbing = false ∨ s.coreStopped n.val = true → exec (.spScrubDone n) s = .next s) ∧
     (s.fbit f_hbScrub_start = false →
       Answers .hbScrubStart s fun t => (∀ o, o < 0x1000000 → t.byte (hbAddr o) = 0) ∧
         (∀ a, a < hbAddr 0 ∨ hbAddr 0x1000000 ≤ a → t.byte a = s.byte a) ∧ t.fget f_hbScrub_start = 1) ∧
     (s.fbit f_hbScrub_start = true → exec .hbScrubStart s = .next s) ∧
     (s.fbit f_hbScrub_start = true → s.stopped 4 = false →
       Answers .hbScrubDone s fun t => ∃ u : State, t = ((List.range 8).foldl (fun s n => s.mvSettle n) u).deliverHeld ∧
         u.fget f_hbScrub_start = 0 ∧ RegsOnly s u [f_hbScrub_start.off]) ∧
     (s.fbit f_hbScrub_start = false ∨ s.stopped 4 = true → exec .hbScrubDone s = .next s))

/-- Clearing the tilth guard's log empties its sixteen records and zeroes TG_STATUS (R167). An armed injection stands
in SP_INJECT (R189). The grit key: cleared to zero by SEED_CLEAR; each write of a word of it while the core is halted
replaces that word, and the key reads loaded once all four have been written since the last clear. A self-test reports
pass or fail (R296 to R298). -/
def Obligations.LogInjectAndGritKey : Prop :=
  (∀ (s : State) (n : Fin 8) (v : Word),
     (Answers (.tgLogClear n) s fun t => t.rd (f_tgStatus_records n.val).off = 0 ∧
       (∀ i : Fin 128, t.rd (f_tgLog_word n.val i.val).off = 0) ∧ t.core n.val = { s.core n.val with tgCycles := [] } ∧
       (∀ m, m ≠ n.val → t.core m = s.core m) ∧ t = { s with regs := t.regs, cores := t.cores }) ∧
     (Answers (.spInjectArm n v) s fun t => t.fget (f_spInject_arm n.val) = 1 ∧
       t.rd (f_spInject_arm n.val).off = (v ||| 1) &&& 0x01FFFFFF ∧ RegsOnly s t [(f_spInject_arm n.val).off])) ∧
  (∀ (s : State) (n : Fin 8) (m : Fin 4) (v : Word) (pass : Bool),
     (Answers (.seedClear n) s fun t => (t.core n.val).gritKey = 0 ∧ t.fget (f_grStatus_seed_loaded n.val) = 0 ∧
       (t.core n.val).gritSeen = 0 ∧ t.mem = s.mem ∧ t.sync = s.sync) ∧
     (s.halted n.val = true →
       (Answers (.grSeedWrite n m v) s fun t =>
         bits (t.core n.val).gritKey.toNat (32 * m.val + 31) (32 * m.val) = v.toNat ∧
         (∀ k : Fin 4, k ≠ m → bits (t.core n.val).gritKey.toNat (32 * k.val + 31) (32 * k.val) =
           bits (s.core n.val).gritKey.toNat (32 * k.val + 31) (32 * k.val)) ∧
         (t.fget (f_grStatus_seed_loaded n.val) = 1 ↔ (s.core n.val).gritSeen ||| 2 ^ m.val = 15)) ∧
       (Answers (.selfTest n true) s fun t => t.fget (f_grCtrl_self_test n.val) = 0 ∧
         t.fget (f_grStatus_self_test_pass n.val) = 1 ∧ t.fget (f_grStatus_self_test_fail n.val) = 0 ∧
         RegsOnly s t [(f_grCtrl_self_test n.val).off, (f_grStatus_self_test_pass n.val).off]) ∧
       exec (.selfTest n false) s = .next ((((s.fput (f_grCtrl_self_test n.val) 0).fput (f_grStatus_self_test_pass n.val) 0).fput
         (f_grStatus_self_test_fail n.val) 1).report 11 n.val 0x0013 0)) ∧
     (s.halted n.val = false → exec (.grSeedWrite n m v) s = .next s ∧ exec (.selfTest n pass) s = .next s))

/-- The mover's and the streamed passes' events: a transfer that completes retires with its signal, one that fails
flags its cause and signals all the same; the bytes that the host answers for a transfer into a peer window stand ready
for its bursts (R205, R206, R327). A streamed pass that completes, or is abandoned, ends with its completion, and one
whose data proves uncorrectable is abandoned there (R61, R62). A corrected line is written back (R181). An event that
names no transfer, pass or line changes nothing. A transfer that retires leaves its mover's queue and signals the
object its instruction names by the increment it names (R205), whatever it did. -/
def Obligations.AsynchronousEnds : Prop :=
  (∀ (s : State) (n : Fin 8),
     (∀ idx data runs (cause : Fin 3),
       (s.activeAt n.val idx = none → exec (.transferComplete n idx data) s = .next s ∧
         exec (.transferFailed n idx cause runs data) s = .next s) ∧
       (∀ t, s.activeAt n.val idx = some t → t.dst.isRing = true →
         exec (.transferComplete n idx data) s = .next ((s.ringFill n.val t data).mvSettle n.val) ∧
         exec (.transferFailed n idx cause runs data) s = .next ((s.failTransfer n.val t cause.val).mvSettle n.val)) ∧
       (∀ t, s.activeAt n.val idx = some t → t.dst.isRing = false →
         (∀ r, s.moveRuns n.val t data (List.range t.shape.runs) = (none, r) →
           exec (.transferComplete n idx data) s = .next ((r.retire n.val t).mvSettle n.val)) ∧
         (∀ r c, s.moveRuns n.val t data (List.range t.shape.runs) = (some c, r) →
           exec (.transferComplete n idx data) s = .next ((r.failTransfer n.val t c).mvSettle n.val)) ∧
         (∀ r c, s.moveRuns n.val t data (List.range (min runs (t.shape.runs - 1))) = (c, r) →
           exec (.transferFailed n idx cause runs data) s =
             .next ((r.failTransfer n.val t (c.getD cause.val)).mvSettle n.val)))) ∧
     (∀ (a : Fin 2) cycles dry backup,
       ((s.array n.val a.val).streamed = none → exec (.streamedPassComplete n a cycles dry backup) s = .next s ∧
         ∀ written poisoned, exec (.streamAbandoned n a cycles written dry backup poisoned) s = .next s) ∧
       (∀ p fin r b, (s.array n.val a.val).streamed = some p → s.coreStopped n.val = false → s.stopped 4 = false →
         fin = s.streamEnd n.val a.val cycles p.vectors p →
         s.streamRun (s.streamLane n.val a.val p) fin false (List.range p.vectors) = (b, r) →
         exec (.streamedPassComplete n a cycles dry backup) s =
           .next (((if b then r.abandonEvent n.val a.val true else r).endStream n.val a.val fin dry backup p).stepEndRetry n.val fin)) ∧
       (∀ p fin written poisoned r b, (s.array n.val a.val).streamed = some p → s.coreStopped n.val = false →
         fin = s.streamEnd n.val a.val cycles (min written (p.vectors - 1)) p →
         (poisoned = true ∨ s.streamStart n.val a.val + s.streamLimit n.val a.val ≤ fin) →
         s.streamRun (s.streamLane n.val a.val p) fin false (List.range (min written (p.vectors - 1))) = (b, r) →
         exec (.streamAbandoned n a cycles written dry backup poisoned) s =
           .next (((r.abandonEvent n.val a.val (poisoned || b)).endStream n.val a.val fin dry backup p).stepEndRetry n.val fin))) ∧
     (∀ line, (s.core n.val).writebacks.contains line = true → s.coreStopped n.val = false →
       Answers (.spAsyncWriteback n line) s fun t =>
         t.mem = (s.writeBack (spAddr n.val (64 * line)) (s.readLine (spAddr n.val (64 * line)))).mem ∧
         (t.core n.val).writebacks = (s.core n.val).writebacks.filter (· != line) ∧ t.regs = s.regs ∧ t.sync = s.sync) ∧
     (∀ line, (s.core n.val).writebacks.contains line = false → exec (.spAsyncWriteback n line) s = .next s)) ∧
  (∀ (s : State) (n : Fin 8) (t : Transfer) (o : Nat) (inc : Word), s.coreFailed n.val = false → t.done = some (o, inc) →
     (s.retire n.val t).obj o = s.obj o + inc ∧ (∀ p, p ≠ o → (s.retire n.val t).obj p = s.obj p) ∧
     (∀ x ∈ ((s.retire n.val t).core n.val).queue, x.serial ≠ t.serial) ∧ (s.retire n.val t).mem = s.mem)

/-- A line in which no word has more than one inverted bit reads as it was written, whatever was written (R181, R652).
SECDED: every single inverted bit of a stored word is corrected, whichever bit it is, and every two are reported
uncorrectable (R652). -/
def Obligations.SecdedCorrectsSingleErrors : Prop :=
  (∀ (s : State) (a : Nat), a % 64 = 0 →
     (∀ w : Fin 8, s.eccAt (a + 8 * w.val) = 0 ∨ ∃ i : Fin 72, s.eccAt (a + 8 * w.val) = BitVec.ofNat 72 (2 ^ i.val)) →
     (s.readLine a).data = s.bytes a 64 ∧ (s.readLine a).bad = []) ∧
  ((∀ i : Fin 72, ∃ b, eccMeaning (eccSyndrome (BitVec.ofNat 72 (2 ^ i.val))) = .corrected b ∧ (i.val < 64 → b = some i.val) ∧
     (64 ≤ i.val → b = none)) ∧
   (∀ i j : Fin 72, i < j → eccMeaning (eccSyndrome (BitVec.ofNat 72 (2 ^ i.val + 2 ^ j.val))) = .uncorrectable) ∧
   eccMeaning (eccSyndrome 0) = .clean)

/-! The ring. -/

/-- The frames of the ring that a device accepts do what their types say (R324, R327, R329, R338, R340, R345). A frame for
this device is opened where it is protected (R346): data goes to its burst, an open and a reply to the burst's two
sides, a signal to the ring's sync window, a message to the firmware; one that does not open is dropped with its flag
(R347), one whose reserved type fields are set is malformed. A frame for another device goes on along its route, or,
while a new table is committed, a firmware message straight on; without a route it ends here (R325). Fences,
enumerations, membership frames and greetings go to their own logic, whatever their destination (R319, R331, R333,
R338). A greeting that a trained port takes in training brings it up with its peer's identity and capabilities, fails
its version (state 5) or finds both ends the same port (state 6) (R319); any other is ignored. -/
def Obligations.GoodFramesAreTaken : Prop :=
  (∀ (s : State) (rx : RingRx), s.accepts rx → s.forUs rx.frame →
     (∀ g, (s.afterLink rx).unseal rx.frame = some g → typeFieldsOk g →
       (frKind rx.frame = 1 → exec (.frameData rx) s = .next ((s.afterLink rx).takeData rx.port.val g)) ∧
       (frKind rx.frame = 2 → exec (.dataLast rx) s = .next ((s.afterLink rx).takeData rx.port.val g)) ∧
       (frKind rx.frame = 8 → exec (.burstOpen rx) s = .next ((s.afterLink rx).takeOpen g)) ∧
       (frKind rx.frame = 9 → exec (.burstReply rx) s = .next ((s.afterLink rx).takeReply g)) ∧
       (frKind rx.frame = 10 → exec (.signalFrame rx) s =
         .next ((s.afterLink rx).ringSignal (frField g 78 64) (BitVec.ofNat 32 (frField g 111 80)))) ∧
       (frKind rx.frame = 15 → exec (.fwMessage rx) s = .next ((s.afterLink rx).takeFw g))) ∧
     (∀ r ∈ ownRows, frKind rx.frame = r.1 →
       ((s.afterLink rx).unseal rx.frame = none → exec (r.2 rx) s = .next ((s.afterLink rx).raise f_ciEvent_auth_failed)) ∧
       (∀ g, (s.afterLink rx).unseal rx.frame = some g → ¬ typeFieldsOk g →
         exec (r.2 rx) s = .next ((s.afterLink rx).dropMalformed rx.port.val)))) ∧
  (∀ (s : State) (rx : RingRx), s.accepts rx → ¬ s.forUs rx.frame → ∀ r ∈ ownRows, frKind rx.frame = r.1 →
     (frKind rx.frame = 15 → s.ring.quiesced = true →
       exec (r.2 rx) s = .next ((s.afterLink rx).queueFrame (1 - rx.port.val) rx.frame true)) ∧
     (frKind rx.frame ≠ 15 ∨ s.ring.quiesced = false →
       (s.fbit (f_ciRoute_valid (frDst rx.frame)) = true → exec (r.2 rx) s =
         .next ((s.afterLink rx).queueFrame (s.fget (f_ciRoute_port (frDst rx.frame))) rx.frame true)) ∧
       (s.fbit (f_ciRoute_valid (frDst rx.frame)) = false → exec (r.2 rx) s = .next (s.afterLink rx)))) ∧
  (∀ (s : State) (rx : RingRx), s.accepts rx →
     (frKind rx.frame = 11 → exec (.fence rx) s = .next ((s.afterLink rx).takeFence rx.frame)) ∧
     (frKind rx.frame = 12 → (rx.frame.ext = none → frField rx.frame 71 64 = 0) →
       exec (.enumOutbound rx) s = .next ((s.afterLink rx).takeEnum rx.port.val rx.frame)) ∧
     (frKind rx.frame = 12 → (rx.frame.ext = none → frField rx.frame 71 64 = 1) →
       exec (.enumReturn rx) s = .next ((s.afterLink rx).takeEnum rx.port.val rx.frame)) ∧
     (frKind rx.frame = 13 → (rx.frame.ext = none → frField rx.frame 64 64 = 0) →
       exec (.membershipQuiesce rx) s = .next ((s.afterLink rx).takeMembership rx.port.val rx.frame)) ∧
     (frKind rx.frame = 13 → (rx.frame.ext = none → frField rx.frame 64 64 = 1) →
       exec (.membershipCommit rx) s = .next ((s.afterLink rx).takeMembership rx.port.val rx.frame)) ∧
     (frKind rx.frame = 14 →
       (s.portState rx.port.val ≠ 1 ∨ (s.port rx.port.val).trained = false → exec (.linkHello rx) s = .next (s.afterLink rx)) ∧
       (s.portState rx.port.val = 1 → (s.port rx.port.val).trained = true →
         ∀ u, u = (s.afterLink rx).setPort rx.port.val { (s.afterLink rx).port rx.port.val with
             peer := some (BitVec.ofNat 64 (fieldAt rx.frame.payload 0 8)), caps := frField rx.frame 127 96 } →
           (1 < frField rx.frame 79 72 ∨ frField rx.frame 87 80 < 1 →
             exec (.linkHello rx) s = .next (u.setPortState rx.port.val 5)) ∧
           (frField rx.frame 79 72 ≤ 1 → 1 ≤ frField rx.frame 87 80 →
             (frField rx.frame 64 64 = rx.port.val → exec (.linkHello rx) s = .next (u.setPortState rx.port.val 6)) ∧
             (frField rx.frame 64 64 ≠ rx.port.val →
               exec (.linkHello rx) s = .next ((u.setPortState rx.port.val 2).portRun rx.port.val) ∧
               ((u.setPortState rx.port.val 2).portRun rx.port.val).portState rx.port.val = 2)))))

/-- Every row of a received frame goes through the link layer (R319, R320): a frame that no port hears, or that comes
while the port discards until the resend, changes nothing; one whose CRC fails is answered with a replay request, and
the port discards what follows it; a good one is acknowledged and its credits returned, and goes to the checks of every
frame. There a malformed frame is dropped, flagged and reported (R325), a quarantined device drops and counts all but
enumerations and greetings (R338), and a frame of another epoch is stale (R336, R337). Link words received: an
acknowledgement frees the oldest frames of the replay buffer, a credit return restores credits up to the buffer's size,
and both let waiting frames go; a replay request counts, reports and sends every unacknowledged frame again (R320,
R321), unless the port carries no traffic or its clock stands stopped (R17, R565). -/
def Obligations.LinkLayer : Prop :=
  (∀ r ∈ frameRows, ∀ (s : State) (rx : RingRx), ofRow r.1 r.2.1 rx.frame →
     (¬ s.hears rx → exec (r.2.2 rx) s = .next s) ∧
     (s.hears rx → (s.port rx.port.val).discarding = true → rx.resend = false → exec (r.2.2 rx) s = .next s) ∧
     (s.hears rx → ((s.port rx.port.val).discarding = true → rx.resend = true) → rxGood rx = false →
       Answers (r.2.2 rx) s fun t => (t.port rx.port.val).discarding = true ∧ t.out = s.out ++ [.linkWord rx.port.val [2]] ∧
         t = { s with ring := t.ring, out := t.out }) ∧
     (s.linked rx → exec (r.2.2 rx) s = .next ((s.afterLink rx).takeFrame rx.port.val rx.frame))) ∧
  (∀ (s : State) (p : Fin 2) (f : RFrame),
     (malformed f = true → s.takeFrame p f = s.dropMalformed p) ∧
     (malformed f = false → s.quarantined = true → frKind f ≠ 12 → frKind f ≠ 14 →
       s.takeFrame p f = (s.fsat f_ciStaleCount_stale 1).raise f_ciEvent_stale_dropped) ∧
     (malformed f = false → (s.quarantined = true → frKind f = 12 ∨ frKind f = 14) → s.epochOk p f = false →
       s.takeFrame p f = s.staleFrame p f)) ∧
  (∀ (s : State) (p : Fin 2) (k : Nat),
     exec (.linkAck p k) s = .next ((s.setPort p.val { s.port p.val with replay := (s.port p.val).replay.drop k }).portRun p.val) ∧
     exec (.creditReturn p true k) s =
       .next ((s.setPort p.val { s.port p.val with creditD := min 1024 ((s.port p.val).creditD + k) }).portRun p.val) ∧
     exec (.creditReturn p false k) s =
       .next ((s.setPort p.val { s.port p.val with creditC := min 128 ((s.port p.val).creditC + k) }).portRun p.val) ∧
     (s.portLive p.val = true → s.stopped 4 = false → exec (.replayRequest p) s =
       .next ((s.replayFrames p.val).foldl (fun s f => s.wire p.val f)
         ((s.fsat (if p.val = 0 then f_ciCounts_replay_n else f_ciCounts_replay_s) 1).report 7 p.val 0x0006 1))) ∧
     (s.portLive p.val = true → s.stopped 4 = false →
       Answers (.replayRequest p) s fun t => ∃ pre, t.out = pre ++ (s.replayFrames p.val).map fun f => .frame p.val f (frameCrc f)) ∧
     (s.portLive p.val = false ∨ s.stopped 4 = true → exec (.replayRequest p) s = .next s))

/-- A BURST_OPEN some line of whose range lies outside CI_RX_WINDOW is refused with nak reason 3 and writes nothing
(R330); one whose lines all lie inside opens its burst, writing nothing yet. A device that is not a member answers
reason 4 (R324). -/
def Obligations.BurstWindow : Prop :=
  ∀ (s : State) (f : RFrame),
    (s.ringState ≠ 1 → s.takeOpen f = s.burstReply (frSrc f) (frField f 79 64) 4 ∧ (s.takeOpen f).mem = s.mem) ∧
    (s.ringState = 1 →
      (frField f 113 96 < s.fget f_ciRxWindow_base_line ∨
          s.fget f_ciRxWindow_base_line + s.fget f_ciRxWindow_lines < frField f 113 96 + (frField f 95 80 + 1) →
        s.takeOpen f = (s.raise f_ciEvent_window_refused).burstReply (frSrc f) (frField f 79 64) 3 ∧ (s.takeOpen f).mem = s.mem) ∧
      (s.fget f_ciRxWindow_base_line ≤ frField f 113 96 →
          frField f 113 96 + (frField f 95 80 + 1) ≤ s.fget f_ciRxWindow_base_line + s.fget f_ciRxWindow_lines →
        (∃ b ∈ (s.takeOpen f).ring.recvs, b.id = frField f 79 64 ∧ b.src = frSrc f ∧ b.line = frField f 113 96 ∧
          b.lines = frField f 95 80 + 1 ∧ b.got = []) ∧ (s.takeOpen f).mem = s.mem ∧ (s.takeOpen f).regs = s.regs))

/-- Ports: enabling begins training, in a fresh port; training that ends sends the greeting, unless the device is
quarantined; a port that does not train in time fails, and one that hears nothing goes down; an idle port that carries
traffic sends idle words (R319, R320, R338). In every other state of the port these events change nothing. -/
def Obligations.PortEvents : Prop :=
  ∀ (s : State) (p : Fin 2) (rev : Bool) (pol : BitVec 8),
    (s.fbit (portEn p.val) = false →
      exec (.portEnable p) s = .next (((s.fput (portEn p.val) 1).setPort p.val .reset).setPortState p.val 1)) ∧
    (s.fbit (portEn p.val) = true → exec (.portEnable p) s = .next s) ∧
    (s.portState p.val = 1 → (s.port p.val).trained = false →
      (∀ s1 s2, s1 = (s.fput (f_ciPortStatus_lane_reversed p.val) (b2n rev)).fput (f_ciPortStatus_polarity p.val) pol.toNat →
        s2 = s1.setPort p.val { s1.port p.val with trained := true, offer := s1.offer } →
        (s2.quarantined = false → exec (.portTrainingDone p rev pol) s = .next (s2.putFrame p.val (s2.hello p.val))) ∧
        (s2.quarantined = true → exec (.portTrainingDone p rev pol) s = .next s2)) ∧
      exec (.portTrainingTimeout p) s = .next (s.setPortState p.val 4)) ∧
    (s.portState p.val ≠ 1 ∨ (s.port p.val).trained = true →
      exec (.portTrainingDone p rev pol) s = .next s ∧ exec (.portTrainingTimeout p) s = .next s) ∧
    (s.portState p.val = 2 ∨ s.portState p.val = 3 → exec (.portSilenceTimeout p) s = .next (s.setPortState p.val 0)) ∧
    (s.portState p.val ≠ 2 → s.portState p.val ≠ 3 → exec (.portSilenceTimeout p) s = .next s) ∧
    (s.portLive p.val = true → exec (.idleLinkWord p) s = .next (s.emit (.linkWord p.val [0]))) ∧
    (s.portLive p.val = false → exec (.idleLinkWord p) s = .next s)

/-- A remote signal lands in the ring's sync window at the index it names, and on no other object; one outside the
window changes no object (R340). Bursts and the head's work that time ends: an expired hold abandons its burst, counts
it and answers reason 1 (R328); a sender without a reply restarts its burst under a new identifier, at most three times,
and then fails it (R329); an enumeration that does not return in time is of an open ring (R331); a member that does not
answer ends the head's work with an event to the driver for each such member (R333), under a status that the spec does
not give and the model leaves free (log entry 2). These timers stand with the clocks that drive them (R565).
Readmission returns a quarantined device to unconfigured at epoch 0 (R339). -/
def Obligations.RingSignalsAndTimeouts : Prop :=
  (∀ (s : State) (i : Nat) (inc : Word),
     s.fget f_ciSyncWindow_base + s.fget f_ciSyncWindow_size ≤ 32768 →
     (i < s.fget f_ciSyncWindow_size → (s.ringSignal i inc).obj (s.fget f_ciSyncWindow_base + i) =
         s.obj (s.fget f_ciSyncWindow_base + i) + inc ∧
       (∀ o, o ≠ s.fget f_ciSyncWindow_base + i → (s.ringSignal i inc).obj o = s.obj o) ∧ (s.ringSignal i inc).regs = s.regs) ∧
     (s.fget f_ciSyncWindow_size ≤ i → (∀ o, (s.ringSignal i inc).obj o = s.obj o) ∧
       (s.ringSignal i inc).fbit f_ciEvent_sync_refused = true)) ∧
  (∀ (s : State) (b : SendBurst),
     (3 ≤ b.restarts → s.burstRestart b = s.burstFail b) ∧
     (b.restarts < 3 → s.burstRestart b =
       ((s.dropSend b.id).fsat f_ciCounts_restarted 1).openBurst b.core b.serial b.dst b.line (b.restarts + 1) b.data)) ∧
  (∀ (s : State),
     (∀ i b, s.stopped 4 = false → s.ring.recvs[i]? = some b →
       (exec (.burstHoldExpiry i) s = .next (((({ s with ring := { s.ring with recvs := s.ring.recvs.filter fun r => r != b } } :
         State).fsat f_ciCounts_abandoned 1).raise f_ciEvent_burst_abandoned).burstReply b.src b.id 1)) ∧
       Answers (.burstHoldExpiry i) s fun t => b ∉ t.ring.recvs ∧ t.mem = s.mem ∧ t.sync = s.sync) ∧
     (∀ i b, s.stopped 4 = false → s.ring.sends[i]? = some b → exec (.burstReplyTimeout i) s = .next (s.burstRestart b)) ∧
     (∀ i, (s.stopped 4 = true ∨ s.ring.recvs[i]? = none → exec (.burstHoldExpiry i) s = .next s) ∧
       (s.stopped 4 = true ∨ s.ring.sends[i]? = none → exec (.burstReplyTimeout i) s = .next s)) ∧
     (∀ rs late, s.mpStands = false → s.ring.head = .enumerate true rs late →
       Answers .enumClosedTimeout s fun t => t.fget f_ciStatus_closed = 0 ∧ t.ring = { s.ring with head := .enumerate true rs true } ∧
         (∀ o, o ≠ f_ciStatus_closed.off → t.rd o = s.rd o) ∧ t = { s with regs := t.regs, ring := t.ring }) ∧
     (s.mpStands = true ∨ (∀ rs late, s.ring.head ≠ .enumerate true rs late) → exec .enumClosedTimeout s = .next s) ∧
     (∀ w, s.mpStands = false → (∃ e t c, s.ring.head = .quiesce e t c w ∨ s.ring.head = .commit e t c w) ∨
         (∃ b, s.ring.head = .collect w b) →
       ∀ u, u = w.foldl (fun (s : State) d => s.event 0x31 0xFF (leBytes 8 d.toNat)) s →
         ∃ st, st < 65536 ∧ exec .memberReplyTimeout s =
           .next (({ u with ring := { u.ring with head := .none }, fresh := u.fresh + 1 } : State).bgDone 0x21 (Done.of st))) ∧
     (s.mpStands = true ∨ s.ring.head = .none → exec .memberReplyTimeout s = .next s) ∧
     (s.quarantined = true →
       Answers .ciReadmit s fun t => t.fget f_ciStatus_ring_state = 0 ∧ t.fget f_ciEpoch_epoch = 0 ∧ t.fget f_ciStatus_head = 0 ∧
         RegsOnly s t [f_ciStatus_ring_state.off, f_ciEpoch_epoch.off]) ∧
     (s.quarantined = false → exec .ciReadmit s = .next s))

/-! Cameras, time and image pipes. -/

/-- A packet whose header is good, or corrected and counted so, reaches the camera streams enabled for its port and
virtual channel: a Frame Start opens a frame in each, a Frame End closes it, a long packet gives its line to the stream
of its data type, a payload CRC error being counted and reported; one that no stream matches is counted unmatched, and
one whose header cannot be corrected is dropped and counted (R363, R364, R366, R380). A lane error puts a port that is
up into state lane_error and reports; when its lanes return to the stop state the port runs again; a port that is not up
takes nothing (R380). A frame that waits past its line timeout is truncated, or closed if every line came (R380). -/
def Obligations.CameraPackets : Prop :=
  (∀ (s : State) (p : Fin 8) (vc : Fin 32) (dt : Fin 64) (num : BitVec 16) (d : List Byte) (hdr : Fin 3) (ok full : Bool),
     (s.crUp p.val = true → hdr ≠ 2 → ∀ u, u = (if hdr = 1 then s.fsat (f_crStatus_hdr_corrected p.val) 1 else s) →
       (u.camStreams p.val vc.val ≠ [] →
         exec (.frameStart p vc num hdr) s =
           .next ((u.camStreams p.val vc.val).foldl (fun s n => s.openFrame n num.toNat) u).pipesRun ∧
         exec (.frameEnd p vc hdr) s = .next ((u.camStreams p.val vc.val).foldl (fun s n => s.closeFrame n) u).pipesRun) ∧
       (u.camStreams p.val vc.val = [] →
         exec (.frameStart p vc num hdr) s = .next (u.fsat (f_crStatus_unmatched p.val) 1) ∧
         exec (.frameEnd p vc hdr) s = .next (u.fsat (f_crStatus_unmatched p.val) 1)) ∧
       (∀ n, (u.camStreams p.val vc.val).find? (fun n => u.fget (f_iaStream_dt n) == dt.val) = some n →
         exec (.longPacket p vc dt d hdr true full) s = .next (u.takePacket n d true full).pipesRun ∧
         exec (.longPacket p vc dt d hdr false full) s =
           .next (((u.fsat (f_crStatus_crc_errors p.val) 1).inputError p.val).takePacket n d false full).pipesRun) ∧
       ((u.camStreams p.val vc.val).find? (fun n => u.fget (f_iaStream_dt n) == dt.val) = none →
         exec (.longPacket p vc dt d hdr ok full) s = .next (u.fsat (f_crStatus_unmatched p.val) 1))) ∧
     (s.crUp p.val = true →
       exec (.frameStart p vc num 2) s = .next (s.fsat (f_crStatus_hdr_dropped p.val) 1) ∧
       exec (.frameEnd p vc 2) s = .next (s.fsat (f_crStatus_hdr_dropped p.val) 1) ∧
       exec (.longPacket p vc dt d 2 ok full) s = .next (s.fsat (f_crStatus_hdr_dropped p.val) 1)) ∧
     (s.crUp p.val = false → exec (.frameStart p vc num hdr) s = .next s ∧ exec (.frameEnd p vc hdr) s = .next s ∧
       exec (.longPacket p vc dt d hdr ok full) s = .next s ∧ exec (.csiLaneError p) s = .next s)) ∧
  (∀ (s : State) (p : Fin 8) (n : Fin 32),
     (s.crUp p.val = true → exec (.csiLaneError p) s = .next ((s.fput (f_crStatus_state p.val) 3).inputError p.val)) ∧
     (s.fget (f_crStatus_state p.val) = 3 →
       Answers (.lanesReturnToStopState p) s fun t => t.fget (f_crStatus_state p.val) = 1 ∧
         RegsOnly s t [(f_crStatus_state p.val).off]) ∧
     (s.fget (f_crStatus_state p.val) ≠ 3 → exec (.lanesReturnToStopState p) s = .next s) ∧
     (∀ fr, s.fbit (f_iaStream_enable n.val) = true → s.fget (f_iaStream_line_timeout_us n.val) ≠ 0 →
       (s.stream n.val).cur = some fr →
       (s.maxLines n.val ≤ fr.lines → exec (.lineTimeout n) s = .next (s.closeFrame n.val).pipesRun) ∧
       (fr.lines < s.maxLines n.val → exec (.lineTimeout n) s = .next (s.truncate n.val false).pipesRun)) ∧
     (s.fbit (f_iaStream_enable n.val) = false ∨ s.fget (f_iaStream_line_timeout_us n.val) = 0 ∨ (s.stream n.val).cur = none →
       exec (.lineTimeout n) s = .next s))

/-- A sample that is ready joins its group's collection, which releases when it is full, and is discarded where the group
does not run or does not name its stream; a collection whose deadline falls due ends; both wait while the intake holds,
and a sample while lines of its stream wait (R367, R376, R377, R565). Streams and groups: an enable that no rule refuses
sets the enable with ordinal and releases 0; a refused one sets config_refused and leaves the enable 0; a growth bit is
an overflow (R14); an enable of what is enabled changes nothing; a disable clears the enable (R365, R395, R396). A
commit of n0 commits the augmentation key with it (R382). -/
def Obligations.StreamsAndGroups : Prop :=
  (∀ (s : State) (n : Fin 32) (g : Fin 16),
     (∀ fr rest, s.iaHeld = false → s.linesHeld n.val = false → (s.stream n.val).ready = fr :: rest →
       s.fget (f_iaStream_group n.val) = g.val → ∀ u, u = s.setStream n.val { s.stream n.val with ready := rest } →
       (s.fbit (f_iaGroup_enable g.val) = true → bit (s.fget (f_iaGroup_members g.val)) n.val = true →
         exec (.sampleReady n) s = .next ((u.place g.val n.val { fr with rows := [] } 4).releaseFull g.val)) ∧
       (s.fbit (f_iaGroup_enable g.val) = false ∨ bit (s.fget (f_iaGroup_members g.val)) n.val = false →
         exec (.sampleReady n) s = .next (u.dropBuf n.val fr.buffer))) ∧
     (s.iaHeld = true ∨ s.linesHeld n.val = true ∨ (s.stream n.val).ready = [] → exec (.sampleReady n) s = .next s) ∧
     (s.fbit (f_iaGroup_enable g.val) = true → s.iaHeld = false →
       exec (.collectionDeadline g) s = .next ((s.endCurrent g.val).releaseFull g.val)) ∧
     (s.fbit (f_iaGroup_enable g.val) = false ∨ s.iaHeld = true → exec (.collectionDeadline g) s = .next s)) ∧
  (∀ (s : State) (n : Fin 32) (g : Fin 16) (w : Word),
     (growthSet (f_iaStream_enable n.val).off w = true →
       exec (.iaStreamEnable n w) s = .next (s.growthOverflow (f_iaStream_enable n.val).off)) ∧
     (s.fbit (f_iaStream_enable n.val) = true → growthSet (f_iaStream_enable n.val).off w = false →
       exec (.iaStreamEnable n w) s = .next s) ∧
     (s.fbit (f_iaStream_enable n.val) = false → growthSet (f_iaStream_enable n.val).off w = false →
       ((s.writeReg (f_iaStream_enable n.val).off (w &&& 0xFFFFFFFE)).streamRefused n.val = false →
         Answers (.iaStreamEnable n w) s fun t => t.fbit (f_iaStream_enable n.val) = true ∧ t.fget (f_iaStream_ordinal n.val) = 0 ∧
           t.stream n.val = .reset) ∧
       ((s.writeReg (f_iaStream_enable n.val).off (w &&& 0xFFFFFFFE)).streamRefused n.val = true →
         Answers (.iaStreamEnable n w) s fun t => t.fbit f_iaEvent_config_refused = true ∧ t.fbit (f_iaStream_enable n.val) = false)) ∧
     (s.fbit (f_iaGroup_enable g.val) = true → exec (.iaGroupEnable g w) s = .next s) ∧
     (s.fbit (f_iaGroup_enable g.val) = false →
       ((s.writeReg (f_iaGroup_enable g.val).off (w &&& 0xFFFFFFFE)).groupRefused g.val = false →
         Answers (.iaGroupEnable g w) s fun t => t.fbit (f_iaGroup_enable g.val) = true ∧ t.fget (f_iaGroup_releases g.val) = 0 ∧
           (t.group g.val).current = none ∧ (t.group g.val).next = none) ∧
       ((s.writeReg (f_iaGroup_enable g.val).off (w &&& 0xFFFFFFFE)).groupRefused g.val = true →
         Answers (.iaGroupEnable g w) s fun t => t.fbit f_iaEvent_config_refused = true ∧ t.fbit (f_iaGroup_enable g.val) = false)) ∧
     (Answers (.iaGroupDisable g) s fun t => t.fbit (f_iaGroup_enable g.val) = false ∧ (t.group g.val).current = none ∧
       (t.group g.val).next = none ∧ t.mem = s.mem ∧ t.sync = s.sync) ∧
     (s.fbit (f_iaStream_enable n.val) = true → ∃ s1 : State, exec (.iaStreamDisable n) s = .next s1.pipesRun ∧
       s1.fbit (f_iaStream_enable n.val) = false ∧ s1.stream n.val = .reset) ∧
     (s.fbit (f_iaStream_enable n.val) = false → exec (.iaStreamDisable n) s = .next s) ∧
     (Answers (.iaAugCommit g w) s fun t => (t.group g.val).augCommit = some ((s.group g.val).augSeed, w) ∧
       t.rd (f_iaAug_n0 g.val).off = w ∧ (∀ o, o ≠ (f_iaAug_n0 g.val).off → t.rd o = s.rd o) ∧ t = { s with regs := t.regs, cam := t.cam }))

/-- Device time: a PPS edge on a pad that carries the input is captured with pps_en set and none captured in the 500 ms
before; its loss sets pps_lost and tells the driver (R374). A step moves device time by its value, or is refused with
its flag while any group is enabled (R372). Frame sync: a commit of word 0 puts all three words in force; an enabled
output asserts and deasserts, driving the pads that carry it, except that no pulse starts while the camera clock stands
stopped; clearing the counters zeroes IA's and every camera port's (R371, R392, R565). An SPI stream whose data-ready
pad is on writes a record of 64 B with the device time, a running number, and the bytes read (R368). An event that finds
nothing enabled changes nothing. -/
def Obligations.DeviceTimeAndFrameSync : Prop :=
  (∀ (s : State) (d : DWord),
     (s.fbit f_iaTimeCtrl_pps_en = true → s.padOn 52 = true → (∀ t, s.cam.ppsAt = some t → t + 500000000 ≤ s.devTime.toNat) →
       Answers .ppsEdge s fun t => t.cam.ppsAt = some s.devTime.toNat ∧ t.fget64 f_iaPpsCapture_capture_lo = s.devTime.toNat ∧
         t.devTime = s.devTime ∧ t.mem = s.mem) ∧
     (s.fbit f_iaTimeCtrl_pps_en = false ∨ s.padOn 52 = false ∨ (∃ t, s.cam.ppsAt = some t ∧ s.devTime.toNat < t + 500000000) →
       exec .ppsEdge s = .next s) ∧
     (s.fbit f_iaTimeCtrl_pps_en = true →
       exec .ppsLost s = .next ((s.raise f_iaEvent_pps_lost).event 0x41 0xFF [])) ∧
     (s.fbit f_iaTimeCtrl_pps_en = false → exec .ppsLost s = .next s) ∧
     (s.anyGroup = false → Answers (.iaTimeStep d) s fun t => t.devTime = s.devTime + d ∧ t = { s with devTime := t.devTime }) ∧
     (s.anyGroup = true → Answers (.iaTimeStep d) s fun t => t.fbit f_iaEvent_step_refused = true ∧ t.devTime = s.devTime)) ∧
  (∀ (s : State) (n : Fin 8) (w0 : Word),
     (Answers (.iaFsyncCommit n w0) s fun t =>
       t.fsyncWords n.val = [t.rd (f_iaFsync_enable n.val).off, s.rd (f_iaFsync_period_ns n.val).off, s.rd (f_iaFsync_phase_ns n.val).off]) ∧
     (bit ((s.fsyncWords n.val).getD 0 0).toNat 0 = true → (s.fsyncWords n.val).getD 1 0 ≠ 0 → s.stopped 6 = false →
       exec (.fsyncAssert n) s =
         .next (({ s with cam := { s.cam with fsyncOn := s.cam.fsyncOn ||| 2 ^ n.val } } : State).driveFsync n.val true) ∧
       Answers (.fsyncAssert n) s fun t => bit t.cam.fsyncOn n.val = true ∧ t.regs = s.regs ∧ t.mem = s.mem) ∧
     (bit ((s.fsyncWords n.val).getD 0 0).toNat 0 = false ∨ (s.fsyncWords n.val).getD 1 0 = 0 ∨ s.stopped 6 = true →
       exec (.fsyncAssert n) s = .next s) ∧
     (bit s.cam.fsyncOn n.val = true →
       exec (.fsyncDeassert n) s =
         .next (({ s with cam := { s.cam with fsyncOn := setBits s.cam.fsyncOn n.val n.val 0 } } : State).driveFsync n.val false) ∧
       Answers (.fsyncDeassert n) s fun t => bit t.cam.fsyncOn n.val = false ∧ t.regs = s.regs ∧ t.mem = s.mem) ∧
     (bit s.cam.fsyncOn n.val = false → exec (.fsyncDeassert n) s = .next s) ∧
     (∀ on level, level = (on != bit ((s.fsyncWords n.val).getD 0 0).toNat 1) →
       (s.padOn (36 + n.val) = true → .pin (36 + n.val) level ∈ (s.driveFsync n.val on).out) ∧
       (s.fget (f_pinMux_func (44 + n.val)) = 2 → s.fbit (f_pinMux_switching (44 + n.val)) = false →
         .pin (44 + n.val) level ∈ (s.driveFsync n.val on).out)) ∧
     (Answers .iaCountsClear s fun t => t.fget f_iaDropCount_truncated = 0 ∧ t.fget f_iaDropCount_late = 0 ∧
       (∀ p : Fin 8, t.fget (f_crStatus_unmatched p.val) = 0 ∧ t.fget (f_crStatus_hdr_corrected p.val) = 0) ∧
       t = { s with regs := t.regs }) ∧
     (∀ (ctl : Fin 4) (d : List Byte),
       (s.spiStream ctl.val = none → exec (.spiDataReady ctl d) s = .next s) ∧
       (∀ k x len, s.spiStream ctl.val = some k → x = s.stream k → len = min 48 (s.maxBytes k) →
         exec (.spiDataReady ctl d) s = .next ((s.setStream k { x with spiSeq := (x.spiSeq + 1) % 2 ^ 32 }).deliverTo
           (s.fget (f_iaStream_raw_target k))
           (s.fget (f_iaStream_raw_base_line k) + x.spiSeq % max 1 (s.fget (f_iaStream_stride_lines k)))
           (leBytes 8 s.devTime.toNat ++ leBytes 4 x.spiSeq ++ leBytes 1 len ++ zeros 3 ++ ((d.take len) ++ zeros 48).take 48)))))

/-- Pipes: a turn in stripe mode serves the rows of the next ready context, in frame mode the whole frame; with no context
ready, with a frame in service, or with the clock stopped, nothing changes; a context's commit is marked (R413, R416,
R565). White balance of a pixel is the smaller of 65,535 and its corrected value times its channel's gain times the
augmentation gain, rounded in units of 2^-20 (R404). -/
def Obligations.ImagePipes : Prop :=
  (∀ (s : State) (p : Fin 2) (c : Fin 32),
     (s.fbit (f_ipCtrl_mode p.val) = true → s.stopped 4 = false →
       (∀ x n r, (s.nextCtx p.val fun n => (s.readyStripe p.val n).isSome) = some (x, n) → s.readyStripe p.val n = some r →
         exec (.pipeTurn p) s = .next ((s.turnTo p.val x false).serveRows n r)) ∧
       ((s.nextCtx p.val fun n => (s.readyStripe p.val n).isSome) = none → exec (.pipeTurn p) s = .next s)) ∧
     (s.fbit (f_ipCtrl_mode p.val) = false → s.stopped 4 = false → (s.ipRt p.val).serving = false →
       (∀ x n, (s.nextCtx p.val fun n => s.hasLines n) = some (x, n) →
         exec (.pipeTurn p) s = .next ((s.turnTo p.val x true).pipeRun p.val)) ∧
       ((s.nextCtx p.val fun n => s.hasLines n) = none → exec (.pipeTurn p) s = .next s)) ∧
     (s.stopped 4 = true ∨ (s.fbit (f_ipCtrl_mode p.val) = false ∧ (s.ipRt p.val).serving = true) →
       exec (.pipeTurn p) s = .next s) ∧
     (Answers (.contextCommit c) s fun t => t.fget (f_ipCtx_commit 0 c.val) = 1 ∧ RegsOnly s t [(f_ipCtx_commit 0 c.val).off])) ∧
  (∀ (j : PipeJob) (i k : Nat), j.white i k =
     min 65535 ((j.defect i k * ((j.col (14 + j.site i k / 2) (16 * (j.site i k % 2) + 15) (16 * (j.site i k % 2)) : Nat) : Int) *
       (j.gain : Int) + 524288) / 1048576))

/-- A write to a tone-curve set that the active or pending copy of a context bound to an enabled stream names is
discarded, and IP_EVENT.curve_busy sets (R414); a write to a set that none names is stored. -/
def Obligations.ToneCurveWrites : Prop :=
  ∀ (s : State) (p : Fin 2) (set : Fin 16) (word : Fin 387) (v : Word),
    (s.curveNamed set.val = true → Answers (.curveWrite p set word v) s fun t =>
      t.fbit (f_ipEvent_curve_busy p.val) = true ∧ (∀ o, 0x8D4000 ≤ o → o < 0x8DC000 → t.rd o = s.rd o) ∧ t.mem = s.mem) ∧
    (s.curveNamed set.val = false →
      exec (.curveWrite p set word v) s = .next (s.writeReg (0x8D4000 + 2048 * set.val + 4 * word.val) v))

/-! Video. -/

/-- The sequencer: held with an image whose blocks all check, it stands loading; released then, it runs; a block that
fails its CRC is named and VX refused; a reset holds it with its state and heartbeat zero; a heartbeat that stops resets
it, fails its sessions and starts it again (R426, R427, R434). A bound session whose group has released once more takes
that release, queueing the stream's buffer with the record's time where the record says it is there (R422). The oldest
frame of a session of a running sequencer is coded, as a function of the session's parameters and its frames in their
order (R424), or decoded into what its row brings (log entry 20), leaves its session's queue and signals the session's done object (R422); while VX stands, or with
no frame, nothing changes. -/
def Obligations.VideoRows : Prop :=
  (∀ (s : State) (img : List Byte) (crcs : List Nat),
     ((List.zip (chunks 4096 (img.take 0x40000)) crcs).findIdx? (fun b => crc32c b.1 != b.2) = none →
       Answers (.vxSeqHold img crcs) s fun t => t.fget f_vxSeqCtrl_hold = 1 ∧ t.fget f_vxSeqStatus_state = 1 ∧
         t.fw.vxRefused = false ∧ t.mem = s.mem ∧ t.sync = s.sync) ∧
     (∀ b, (List.zip (chunks 4096 (img.take 0x40000)) crcs).findIdx? (fun b => crc32c b.1 != b.2) = some b →
       Answers (.vxSeqHold img crcs) s fun t => t.fget f_vxSeqStatus_state = 3 ∧ t.fget f_vxSeqStatus_bad_block = b % 64 ∧
         t.fw.vxRefused = true ∧ t.mem = s.mem) ∧
     (s.fget f_vxSeqStatus_state = 1 → Answers .vxSeqRelease s fun t => t.fget f_vxSeqStatus_state = 2 ∧ t.fget f_vxSeqCtrl_hold = 0 ∧
       RegsOnly s t [f_vxSeqCtrl_hold.off, f_vxSeqStatus_state.off]) ∧
     (s.fget f_vxSeqStatus_state ≠ 1 → exec .vxSeqRelease s = .next s) ∧
     (Answers .vxSeqReset s fun t => t.fget f_vxSeqCtrl_hold = 1 ∧ t.fget f_vxSeqStatus_state = 0 ∧ t.fget f_vxSeqStatus_heartbeat = 0 ∧
       RegsOnly s t [f_vxSeqCtrl_hold.off, f_vxSeqStatus_state.off]) ∧
     (s.fget f_vxSeqStatus_state = 2 → s.mpStands = false → exec (.vxHeartbeatTimeout img crcs) s =
       .next (((((s.vxReset.failVideos).flag f_vxEvent_seq_fault).report 9 0 0x0048 (s.fget f_vxSeqStatus_heartbeat)).event 0x50 0xFF
         []).vxHold img crcs).vxRelease) ∧
     (s.fget f_vxSeqStatus_state ≠ 2 ∨ s.mpStands = true → exec (.vxHeartbeatTimeout img crcs) s = .next s)) ∧
  (∀ (s : State) (n : Fin 16) (v : Video), s.video n.val = some v → s.stopped 7 = false →
     (∀ r count a e, v.group ≠ 0xFF → r = v.releases + 1 →
       reached (s.obj (s.fget (f_iaGroup_ready_obj v.group))) (BitVec.ofNat 32 r) = true →
       count = s.fget (f_iaGroup_records_m1 v.group) + 1 →
       a = hbAddr (64 * (s.fget (f_iaGroup_record_base_line v.group) + 9 * ((r % 2 ^ 32 + count - 1) % count))) →
       e = s.bytes (a + 0x40 + 16 * v.stream) 16 →
       (bit (fieldAt e 7 1) 0 = false → exec (.boundEncodeFrame n) s = .next (s.setVideo { v with releases := r })) ∧
       (bit (fieldAt e 7 1) 0 = true → exec (.boundEncodeFrame n) s = .next (s.setVideo { v with releases := r, queue := v.queue ++
         [⟨s.bufferAddr v.stream (fieldAt e 6 1), v.frameBytes, 0, toTwos 64 (sext 64 (s.num (a + 0x10) 8) + sext 32 (fieldAt e 0 4)),
           none⟩] }))) ∧
     (v.group = 0xFF ∨ reached (s.obj (s.fget (f_iaGroup_ready_obj v.group))) (BitVec.ofNat 32 (v.releases + 1)) = false →
       exec (.boundEncodeFrame n) s = .next s)) ∧
  (∀ (s : State) (n : Fin 16) (host pic : List Byte) (ty : Fin 2) (qp : Fin 256) (bad key : Bool),
     (s.video n.val = none ∨ s.stopped 7 = true → exec (.boundEncodeFrame n) s = .next s) ∧
     (s.vxStands = true ∨ s.video n.val = none ∨ (∃ v, s.video n.val = some v ∧ v.queue = []) →
       exec (.videoFrameDone n host pic ty qp bad key) s = .next s) ∧
     (∀ v f rest, s.vxStands = false → s.video n.val = some v → v.queue = f :: rest →
       (v.encodes = true → exec (.videoFrameDone n host pic ty qp bad key) s = .next (s.encodeFrame v f (s.frameInput host v f))) ∧
       (v.encodes = false → exec (.videoFrameDone n host pic ty qp bad key) s = .next (s.decodeFrame v f pic ty.val qp.val bad key)) ∧
       (v.session = n.val → Answers (.videoFrameDone n host pic ty qp bad key) s fun t =>
         t.obj (0x7F20 + n.val) = s.obj (0x7F20 + n.val) + 1 ∧ (∀ o, o ≠ 0x7F20 + n.val → t.obj o = s.obj o) ∧
         (v.closing = none ∨ rest ≠ [] → ∃ v', t.video n.val = some v' ∧ v'.queue = rest ∧ v'.pictures = v.pictures + 1 ∧
           v'.coder = (if v.encodes then Config.videoNext v.params v.coder (s.frameInput host v f) else v.coder)))))

/-! The memory controller. -/

/-- A request inside LPDDR waits at its port and is accepted as soon as the port's credits allow; outside, it is
answered as a bus error. A completed request leaves the controller, delivers its line, and takes its part in the
port's largest latency; none completes out of service, or before an earlier one of its port to its line (R445, R448,
R469). -/
def Obligations.MemoryRequests : Prop :=
  ∀ (s : State) (p : Fin 10) (a : Nat) (k : Fin 16) (wr : Bool) (m : BitVec 8) (d : List Byte),
    (a / 64 * 64 < lpBase ∨ lpBase + s.lpCapacity ≤ a / 64 * 64 →
      exec (.mcRequest p a k wr m d) s = .next (s.emit (.refusedAccess (a / 64 * 64)))) ∧
    (lpBase ≤ a / 64 * 64 → a / 64 * 64 < lpBase + s.lpCapacity →
      exec (.mcRequest p a k wr m d) s = .next (s.setMc { s.mc with held := s.mc.held ++
        [⟨p.val, (s.lpPlace (a / 64 * 64)).1, a / 64 * 64, k.val, wr, m.toNat, d, 0⟩] }).mcPull) ∧
    (∀ i lat link bad,
      (s.mc.reqs[i]? = none ∨ s.mcUp = false → exec (.mcRequestComplete i lat link bad) s = .next s) ∧
      (∀ r, s.mc.reqs[i]? = some r →
        (((s.mc.reqs.take i).any fun q => q.port == r.port && q.addr == r.addr) = true →
          exec (.mcRequestComplete i lat link bad) s = .next s) ∧
        (s.mcUp = true → ((s.mc.reqs.take i).any fun q => q.port == r.port && q.addr == r.addr) = false →
          ∀ s2, s2 = (s.setMc { s.mc with reqs := s.mc.reqs.eraseIdx i }).mcDeliver r link bad false →
            (r.write = true → exec (.mcRequestComplete i lat link bad) s = .next ((s2.mcRefresh r.chan).mcPull)) ∧
            (r.write = false → exec (.mcRequestComplete i lat link bad) s = .next (((s2.fput (f_mcLatMax_max_ns r.port)
              (max (s2.fget (f_mcLatMax_max_ns r.port)) (min lat 0xFFFF))).mcRefresh r.chan).mcPull)))))

/-- While the controller is up: a refresh that falls due is owed by its channel (R450); the rates of MR4 are taken for
every channel, and a channel too hot sets its flag (R449); an oscillator sample is the channel's drift, and one beyond
the limit asks for retraining and tells the driver (R458); an idle channel with power-down enabled powers down (R457);
out of service none of these changes anything. Self-refresh: a request from an actor while the channels are in service
puts them in it and names the actor, and one that finds it joins; before the channels are up it is ignored; the exit of
the last actor returns them to service, and of an earlier one does not; the actor AOC never ends its own (R455, R457). -/
def Obligations.MemoryUpkeep : Prop :=
  (∀ (s : State) (c : Fin 24) (drift : Int) (rates : List (Fin 3)),
     (s.mcUp = true →
       (exec (.refreshDue c) s = .next ((s.setMc { s.mc with
         owed := mapSet (fun _ => 0) s.mc.owed c.val (mapGet (fun _ => 0) s.mc.owed c.val + 1) }).mcRefresh c.val)) ∧
       (Answers (.oscillatorSample c drift false) s fun t => mapGet (fun _ => 0) t.mc.drift c.val = drift ∧
         t.mc.retrain = s.mc.retrain ∧ t = { s with mc := t.mc }) ∧
       (∀ u, u = s.setMc { s.mc with drift := mapSet (fun _ => 0) s.mc.drift c.val drift, retrain := true } →
         exec (.oscillatorSample c drift true) s =
           .next ((u.raise f_mcEvent_drift_limit).event 0x60 0xFF (leBytes 4 (2 ^ c.val)))) ∧
       (s.fbit f_mcCtrl_pd_en = true → (s.mc.reqs.any fun r => r.chan == c.val) = false →
         Answers (.powerDownIdle c) s fun t => bit t.mc.powerDown c.val = true ∧ t = { s with mc := t.mc }) ∧
       (Answers (.mr4Poll rates) s fun t =>
         (∀ k : Fin 24, mapGet (fun _ => 0) t.mc.mr4 k.val = (rates[k.val]?.map (·.val)).getD 0) ∧
         ((∃ k : Fin 24, rates[k.val]? = some 2) → t.fbit f_mcEvent_dram_hot = true))) ∧
     (s.fbit f_mcCtrl_pd_en = false ∨ (s.mc.reqs.any fun r => r.chan == c.val) = true → exec (.powerDownIdle c) s = .next s) ∧
     (s.mcUp = false → exec (.refreshDue c) s = .next s ∧ (∀ b, exec (.oscillatorSample c drift b) s = .next s) ∧
       exec (.powerDownIdle c) s = .next s ∧ exec (.mr4Poll rates) s = .next s)) ∧
  (∀ (s : State) (a : Fin 3),
     (2 ≤ s.fget f_mcStatus_state → Answers (.selfRefreshRequest a) s fun t => a.val ∈ t.mc.causes ∧
       (s.fget f_mcStatus_state = 2 → t.fget f_mcStatus_state = 3)) ∧
     (s.fget f_mcStatus_state < 2 → (a.val = 0 → exec (.selfRefreshRequest a) s = .next (s.fput f_mcCtrl_sr_req 1)) ∧
       (a.val ≠ 0 → exec (.selfRefreshRequest a) s = .next s)) ∧
     (a.val = 1 → exec (.selfRefreshExit a) s = .next s) ∧
     (a.val ≠ 1 → Answers (.selfRefreshExit a) s fun t => a.val ∉ t.mc.causes ∧
       (s.fget f_mcStatus_state = 3 → (∀ c ∈ s.mc.causes, c = a.val) → s.mc.causes ≠ [] →
         t.fget f_mcStatus_state = 2 ∧ t.fget f_mcStatus_bypass = 0 ∧ (s.mc.held = [] → t.mem = s.mem)) ∧
       ((∃ c ∈ s.mc.causes, c ≠ a.val) → t.fget f_mcStatus_state = s.fget f_mcStatus_state ∧ t.mem = s.mem)))

/-- The controller's configuration: a bad density is refused with its flag; a good one is recorded while service is
off, and in service the target rate alone; a port write whose credits, or targets in service, are out of range is
refused, and any other takes effect (R446, R447, R463). Enabling without a population is refused; with one, it puts the
channels in service, or with sr_req set in self-refresh (R455, R461). Counters clear to zero (R466). -/
def Obligations.MemoryConfiguration : Prop :=
  ∀ (s : State) (v : Word) (p : Fin 10),
    (densityOk (bits v.toNat 17 0) = false → Answers (.mcConfigWrite v) s fun t => t.fbit f_mcEvent_config_refused = true ∧
      t.fget f_mcConfig_density = s.fget f_mcConfig_density) ∧
    (densityOk (bits v.toNat 17 0) = true → s.fbit f_mcCtrl_enable = false →
      Answers (.mcConfigWrite v) s fun t => t.fget f_mcConfig_density = bits v.toNat 17 0 ∧
        t.fget f_mcConfig_rate_target = bits v.toNat 19 18 ∧
        t.fget f_mcStatus_state = (if s.fget f_mcStatus_state = 0 then 1 else s.fget f_mcStatus_state) ∧
        RegsOnly s t [f_mcConfig_density.off, f_mcStatus_state.off]) ∧
    (densityOk (bits v.toNat 17 0) = true → s.fbit f_mcCtrl_enable = true →
      Answers (.mcConfigWrite v) s fun t => t.fget f_mcConfig_density = s.fget f_mcConfig_density ∧
        t.fget f_mcConfig_rate_target = bits v.toNat 19 18 ∧ RegsOnly s t [f_mcConfig_density.off]) ∧
    (∀ s1, s1 = s.writeReg (f_mcPort_target p.val).off v →
      (bits v.toNat 16 12 = 0 ∨ 16 < bits v.toNat 16 12 ∨ 64 < s1.mcCredits ∨
          (s.fbit f_mcCtrl_enable = true ∧ ∃ q : Fin 10, s1.mcTarget q.val < s1.mcFloor) →
        Answers (.mcPortWrite p v) s fun t => t.fbit f_mcEvent_qos_refused = true ∧
          t.rd (f_mcPort_target p.val).off = s.rd (f_mcPort_target p.val).off) ∧
      (0 < bits v.toNat 16 12 → bits v.toNat 16 12 ≤ 16 → s1.mcCredits ≤ 64 →
        (s.fbit f_mcCtrl_enable = false → exec (.mcPortWrite p v) s = .next s1) ∧
        (s.fbit f_mcCtrl_enable = true → (∀ q : Fin 10, s1.mcFloor ≤ s1.mcTarget q.val) →
          ∀ s2, s2 = s1.setMc { s1.mc with eff := mapSet (fun _ => 0) s1.mc.eff p.val (s1.mcTarget p.val) } →
            exec (.mcPortWrite p v) s = .next ((s2.fput f_mcStatus_u_ns (urgentNs s2.mcUrgent)).mcRaised).mcPull))) ∧
    (s.fbit f_mcCtrl_enable = false → s.fget f_mcConfig_density = 0 →
      Answers (.mcEnable v) s fun t => t.fbit f_mcEvent_config_refused = true ∧ t.fbit f_mcCtrl_enable = false) ∧
    (s.fbit f_mcCtrl_enable = true → Answers (.mcEnable v) s fun t => t.fbit f_mcCtrl_enable = true) ∧
    (s.fbit f_mcCtrl_enable = false → s.fget f_mcConfig_density ≠ 0 →
      Answers (.mcEnable v) s fun t => t.fbit f_mcCtrl_enable = true ∧ (bit v.toNat 2 = false → t.fget f_mcStatus_state = 2) ∧
        (bit v.toNat 2 = true → s.fbit f_mcCtrl_sr_req = false → t.fget f_mcStatus_state = 3)) ∧
    (Answers .mcCountsClear s fun t => t.rd f_mcCorrCount_link.off = 0 ∧ (∀ q : Fin 10, t.fget (f_mcLatMax_max_ns q.val) = 0) ∧
      t = { s with regs := t.regs })

/-- The training helper runs one operation at a time on the channels it is given, and where training is not allowed, or
while one runs, only the mask and the operation are recorded (R459, R470). When it is done its mismatches stand in their
error counters, for the leveling the sample in bit 0, and after a pattern write the training areas hold the pattern
(R459, R470, R473). -/
def Obligations.TrainingHelper : Prop :=
  (∀ (s : State) (m : BitVec 24) (c : Instr) (op : Nat),
    ((c = .writePattern m ∧ op = 1) ∨ (c = .readAndCompare m ∧ op = 2) ∨ (c = .commandBusCompare m ∧ op = 3) ∨
      (c = .readDqCalibration m ∧ op = 4) ∨ (c = .wck2ckLeveling m ∧ op = 5)) →
    (s.mc.run = none → s.trainAllowed = true → Answers c s fun t => t.mc.run = some (op, m.toNat) ∧ t.fget f_mcTrainCtrl_start = 1 ∧
      t.fget f_mcTrainCtrl_op = op ∧ t.fget f_mcTrainCtrl_channel_mask = m.toNat ∧ t.mem = s.mem) ∧
    (s.mc.run ≠ none ∨ s.trainAllowed = false → Answers c s fun t => t.mc = s.mc ∧
      t.fget f_mcTrainCtrl_op = op ∧ t.fget f_mcTrainCtrl_channel_mask = m.toNat ∧ RegsOnly s t [f_mcTrainCtrl_start.off])) ∧
  (∀ (s : State) (m : BitVec 24) (op : Nat) (errs : List Nat),
    (s.mc.run = none → exec (.trainingOpDone errs) s = .next s) ∧
    (s.mc.run = some (op, m.toNat) → 2 ≤ op → op ≤ 5 →
      Answers (.trainingOpDone errs) s fun t => t.mc.run = none ∧ t.fget f_mcTrainCtrl_start = 0 ∧
        (∀ c : Fin 24, ∀ l : Fin 20, bit m.toNat c.val = true →
          t.fget (f_mcTrainErrors_errors c.val l.val) = if op = 5 then errs.getD (20 * c.val + l.val) 0 % 2
            else min (errs.getD (20 * c.val + l.val) 0) 0xFFFF) ∧ t.mem = s.mem) ∧
    (s.mc.run = some (1, m.toNat) → ∀ u, u = (s.fput f_mcTrainCtrl_start 0).setMc { s.mc with run := none } →
      exec (.trainingOpDone errs) s = .next (((List.range 24).filter fun c => bit m.toNat c).foldl
        (fun s c => s.layPattern c (s.fget f_mcTrainPattern_lines_m1 + 1)) u)))

/-! The host link and the firmware's commands. `s.turn q op = some t` says that the descriptor `t` of opcode `op` is the next
that the firmware runs from ring `q` (R487, R499); what a command does is followed by the ring's settling and the slots'
marks. -/

/-- BAR2, of the size the host has set: before the release of the firmware a read is refused as an Unsupported Request,
and a write goes to the boot window or is refused; afterwards a read answers the bytes of the place its segment maps,
the unused end of a scratchpad's window reading zero, and a write stores them there; an access to a memory that a scrub
holds waits, a disabled segment refuses, and a poisoned write stores nothing and sets its flag (R175, R183, R196, R474,
R477, R481). Doorbells of a released firmware that serves: an index within the ring's bounds is accepted, another is a
ring error (R487, R488); the event ring has no submission doorbell (R479). Every access of BAR4 before the release is
refused (R481). -/
def Obligations.HostAccesses : Prop :=
  (∀ (s : State), s.bar2Resize none = s ∧ (∀ z : Fin 10, s.bar2Resize (some z) = { s with host := { s.host with bar2 := z.val } })) ∧
  (∀ (s u : State) (z : Option (Fin 10)) (off n : Nat) (d : List Byte), u = s.bar2Resize z →
     (u.fget f_hiBoot_state ≠ 4 → exec (.bar2Read z off n) s = .next (u.refuseAccess off) ∧
       (off < 0x80000 → exec (.bar2Write z off d false) s = .next (u.bootWrite off d)) ∧
       (0x80000 ≤ off → exec (.bar2Write z off d false) s = .next (u.refuseAccess off))) ∧
     (u.fget f_hiBoot_state = 4 →
       (u.bar2Held (u.bar2Target off n) = true → exec (.bar2Read z off n) s = .next u) ∧
       (u.bar2Held (u.bar2Target off n) = false →
         (u.bar2Target off n = .refused → exec (.bar2Read z off n) s = .next (u.refuseAccess off)) ∧
         (∀ c o k, u.bar2Target off n = .sp c o → k = min n (spBytes - o) → exec (.bar2Read z off n) s =
           .next ((u.spBytesA c o k 17).2.2.answerRead ((u.spBytesA c o k 17).1 ++ zeros (n - k)) (u.spBytesA c o k 17).2.1)) ∧
         (∀ o, u.bar2Target off n = .hb o → exec (.bar2Read z off n) s =
           .next ((u.hbBytesP o n 9).2.2.answerRead (u.hbBytesP o n 9).1 (u.hbBytesP o n 9).2.1)) ∧
         (∀ k a, u.bar2Target off n = .lp k a → exec (.bar2Read z off n) s =
           .next ((u.lpRead k a n 9).2.2.answerRead (u.lpRead k a n 9).1 (u.lpRead k a n 9).2.1))) ∧
       (u.bar2Held (u.bar2Target off d.length) = true → exec (.bar2Write z off d false) s = .next u) ∧
       (u.bar2Held (u.bar2Target off d.length) = false →
         (u.bar2Target off d.length = .refused → exec (.bar2Write z off d false) s = .next (u.refuseAccess off)) ∧
         (∀ c o, u.bar2Target off d.length = .sp c o →
           (o < spBytes → exec (.bar2Write z off d false) s = .next (u.spStoreA c o (d.take (spBytes - o)))) ∧
           (spBytes ≤ o → exec (.bar2Write z off d false) s = .next u)) ∧
         (∀ o, u.bar2Target off d.length = .hb o → exec (.bar2Write z off d false) s = .next (u.hbStore o d)) ∧
         (∀ k a, u.bar2Target off d.length = .lp k a → exec (.bar2Write z off d false) s = .next (u.lpStore k a d)))) ∧
     (Answers (.bar2Write z off d true) s fun t => t.fbit f_hiEvent_poisoned_write = true ∧ t.mem = s.mem)) ∧
  (∀ (s : State) (q : Fin 17) (p : Word), s.fget f_hiBoot_state = 4 →
     (s.fwServes = true →
       (q.val < 16 →
         ((p.toNat + 2 ^ 32 - s.fget (f_rpIndex_sq_head q.val)) % 2 ^ 32 ≤ s.ringSize q.val →
           (p.toNat + 2 ^ 32 - (s.pair q.val).accepted) % 2 ^ 32 < 2 ^ 31 →
           exec (.sqDoorbell q p) s = .next (s.setPair q.val { s.pair q.val with accepted := p.toNat })) ∧
         (s.ringSize q.val < (p.toNat + 2 ^ 32 - s.fget (f_rpIndex_sq_head q.val)) % 2 ^ 32 ∨
             2 ^ 31 ≤ (p.toNat + 2 ^ 32 - (s.pair q.val).accepted) % 2 ^ 32 →
           exec (.sqDoorbell q p) s = .next (s.ringError q.val 0 p.toNat))) ∧
       ((s.fget (f_rpIndex_cq_tail q.val) + 2 ^ 32 - p.toNat) % 2 ^ 32 ≤ s.ringSize q.val →
         (p.toNat + 2 ^ 32 - (s.pair q.val).consumer) % 2 ^ 32 < 2 ^ 31 →
         exec (.cqDoorbell q p) s = .next (s.setPair q.val { s.pair q.val with consumer := p.toNat })) ∧
       (s.ringSize q.val < (s.fget (f_rpIndex_cq_tail q.val) + 2 ^ 32 - p.toNat) % 2 ^ 32 ∨
           2 ^ 31 ≤ (p.toNat + 2 ^ 32 - (s.pair q.val).consumer) % 2 ^ 32 →
         exec (.cqDoorbell q p) s = .next (s.ringError q.val 1 p.toNat))) ∧
     (q.val = 16 → exec (.sqDoorbell q p) s = .next (s.raise f_hiEvent_doorbell_bad_access)) ∧
     (s.fwServes = false → (q.val < 16 → exec (.sqDoorbell q p) s = .next s) ∧ exec (.cqDoorbell q p) s = .next s)) ∧
  (∀ (s : State) (q : Fin 17) (o : Fin 32768) (p : Word), s.fget f_hiBoot_state ≠ 4 →
     exec (.sqDoorbell q p) s = .next (s.refuseAccess (0x1000 * q.val + 0x20)) ∧
     exec (.cqDoorbell q p) s = .next (s.refuseAccess (0x1000 * q.val + 0x24)) ∧
     exec (.ringPairEnable q p) s = .next (s.refuseAccess (0x1000 * q.val + 0x10)) ∧
     exec (.ringPairDisable q p) s = .next (s.refuseAccess (0x1000 * q.val + 0x10)) ∧
     exec (.signalWindowWrite o p) s = .next (s.refuseAccess (0x80000 + 4 * o.val)) ∧
     exec (.setWindowWrite o p) s = .next (s.refuseAccess (0xA0000 + 4 * o.val)))

/-- Ring pairs: a write of RP_CFG takes its priority and vector, and of a pair that is off its size and party; an enable
that the placement and the party allow sets the enable, another is a ring error; a disable with nothing taken clears
it, and with descriptors taken waits for them (R486); a growth bit is an overflow (R14). A descriptor is taken, in
order, while the pair can reserve its completion (R488); the coalescing timer raises the ring's vector (R489). -/
def Obligations.RingPairs : Prop :=
  (∀ (s : State) (q : Fin 17) (v : Word), s.fget f_hiBoot_state = 4 →
    (growthSet (f_rpCfg_enable q.val).off (v ||| 1) = true →
      exec (.ringPairEnable q v) s = .next (s.growthOverflow (f_rpCfg_enable q.val).off)) ∧
    (growthSet (f_rpCfg_enable q.val).off (v &&& 0xFFFFFFFE) = true →
      exec (.ringPairDisable q v) s = .next (s.growthOverflow (f_rpCfg_enable q.val).off)) ∧
    (growthSet (f_rpCfg_enable q.val).off (v ||| 1) = false → s.fbit (f_rpCfg_enable q.val) = false →
      ∀ s2, s2 = ((((s.fput (f_rpCfg_log2_n q.val) (bits (v ||| 1).toNat 4 1)).fput (f_rpCfg_party q.val) (bits (v ||| 1).toNat 10 5)).fput
          (f_rpCfg_priority q.val) (bits (v ||| 1).toNat 13 11)).fput (f_rpCfg_vector q.val) (bits (v ||| 1).toNat 19 14)) →
        (s2.fwServes = true → s2.enableOk q.val = true →
          exec (.ringPairEnable q v) s = .next (s2.fput (f_rpCfg_enable q.val) 1).markSlots) ∧
        (s2.fwServes = true → s2.enableOk q.val = false →
          exec (.ringPairEnable q v) s = .next (s2.ringError q.val 2 (v ||| 1).toNat)) ∧
        (s2.fwServes = false → exec (.ringPairEnable q v) s = .next s2)) ∧
    (growthSet (f_rpCfg_enable q.val).off (v ||| 1) = false → s.fbit (f_rpCfg_enable q.val) = true →
      exec (.ringPairEnable q v) s = .next ((s.fput (f_rpCfg_priority q.val) (bits (v ||| 1).toNat 13 11)).fput
        (f_rpCfg_vector q.val) (bits (v ||| 1).toNat 19 14))) ∧
    (growthSet (f_rpCfg_enable q.val).off (v &&& 0xFFFFFFFE) = false → s.fbit (f_rpCfg_enable q.val) = true →
      ∀ s2, s2 = (s.fput (f_rpCfg_priority q.val) (bits (v &&& 0xFFFFFFFE).toNat 13 11)).fput
          (f_rpCfg_vector q.val) (bits (v &&& 0xFFFFFFFE).toNat 19 14) →
        ((s2.pair q.val).taken = [] → exec (.ringPairDisable q v) s = .next (s2.fput (f_rpCfg_enable q.val) 0).markSlots) ∧
        ((s2.pair q.val).taken ≠ [] → exec (.ringPairDisable q v) s =
          .next (s2.setPair q.val { s2.pair q.val with disabling := true })))) ∧
  (∀ (s : State) (q : Fin 16),
    (∀ h, s.fget f_hiFwStatus_state = 1 ∨ s.fget f_hiFwStatus_state = 2 → s.mpStands = false →
      s.fbit (f_rpCfg_enable q.val) = true → (s.pair q.val).disabling = false →
      h = s.fget (f_rpIndex_sq_head q.val) → h ≠ (s.pair q.val).accepted →
      s.cqUsed q.val + (s.pair q.val).taken.length < s.ringSize q.val →
      exec (.descriptorTake q) s = .next (((s.setPair q.val { s.pair q.val with taken := (s.pair q.val).taken ++
        [⟨h, s.lpBytes 0 (s.sqBase q.val + 64 * (h % s.ringSize q.val)) 64, s.devTime.toNat, false⟩] }).fput
          (f_rpIndex_sq_head q.val) ((h + 1) % 2 ^ 32)).settleRing q.val)) ∧
    ((s.fget f_hiFwStatus_state ≠ 1 ∧ s.fget f_hiFwStatus_state ≠ 2) ∨ s.mpStands = true ∨ s.fbit (f_rpCfg_enable q.val) = false ∨
        (s.pair q.val).disabling = true ∨ s.fget (f_rpIndex_sq_head q.val) = (s.pair q.val).accepted ∨
        s.ringSize q.val ≤ s.cqUsed q.val + (s.pair q.val).taken.length →
      exec (.descriptorTake q) s = .next s)) ∧
  (∀ (s : State) (q : Fin 17),
    (s.mpStands = false → 0 < (s.pair q.val).unraised → bit s.host.granted 0 = true → s.fget (f_rpIrq_timer_us q.val) ≠ 0 →
      exec (.irqCoalesceTimer q) s = .next (s.raiseRing q.val)) ∧
    (s.mpStands = true ∨ (s.pair q.val).unraised = 0 ∨ bit s.host.granted 0 = false ∨ s.fget (f_rpIrq_timer_us q.val) = 0 →
      exec (.irqCoalesceTimer q) s = .next s))

/-- The commands of ring 0. A row whose turn has not come changes nothing. One whose turn has come has its effect and
completes with SUCCESS, begins what completes it later, or completes with the status that refuses it, and nothing else
comes of it: OPEN (R17, R503), CLOSE, at once or at the running job's boundary (R28, R497), LOAD_PACKAGE (R20, R40,
R342, R497), the pool grants and reclaims (R213), STREAM_MARGIN (R523), and the ring's enumeration, configuration and
readmission (R331, R333, R339). The order of OPEN's checks is the model's (log entry 49), and so is the status of a
configuration on a quarantined head (log entry 66). -/
def Obligations.RingZeroCommands : Prop :=
  (∀ (s : State) (host : List Byte),
    (s.turn 0 0x01 = none → exec .fwOpen s = .next s) ∧ (s.turn 0 0x02 = none → exec .fwClose s = .next s) ∧
    (s.turn 0 0x10 = none → exec (.loadPackage host) s = .next s) ∧ (s.turn 0 0x11 = none → exec .poolGrant s = .next s) ∧
    (s.turn 0 0x12 = none → exec .poolReclaim s = .next s) ∧ (s.turn 0 0x1C = none → exec .streamMargin s = .next s) ∧
    (s.turn 0 0x20 = none → exec .ringEnumerate s = .next s) ∧ (s.turn 0 0x21 = none → exec (.ringConfigure host) s = .next s) ∧
    (s.turn 0 0x22 = none → exec .ringReadmit s = .next s)) ∧
  (∀ (s : State) (t : Taken), s.turn 0 0x01 = some t →
    (s.fw.opened = true → exec .fwOpen s = .next (s.answered 0 t stBusy)) ∧
    (s.fw.opened = false → ∀ reply size, reply = t.field 40 8 → size = t.field 32 8 →
      (reply % 64 ≠ 0 ∨ reply < bootArea.1 ∨ bootArea.1 + bootArea.2 < reply + 256 →
        exec .fwOpen s = .next (s.answered 0 t stInvalidField)) ∧
      (reply % 64 = 0 → bootArea.1 ≤ reply → reply + 256 ≤ bootArea.1 + bootArea.2 →
        (2 < t.field 16 1 ∨ t.field 17 1 < 2 → exec .fwOpen s = .next ((((s.areaWrite (reply + 1) [2, 2]).completeTaken 0 t
          (Done.of stVersionMismatch)).fput f_hiFwStatus_state 3).afterCommand 0)) ∧
        (t.field 16 1 ≤ 2 → 2 ≤ t.field 17 1 →
          (size % blockBytes ≠ 0 ∨ 0x100000000 < size → exec .fwOpen s = .next (s.answered 0 t stInvalidField)) ∧
          (size % blockBytes = 0 → size ≤ 0x100000000 → s.allocRun (size / blockBytes) = none →
            exec .fwOpen s = .next (s.answered 0 t stPoolExhausted)) ∧
          (∀ x g base s1, size % blockBytes = 0 → size ≤ 0x100000000 → s.allocRun (size / blockBytes) = some x →
            g = t.field 24 8 % 64 → base = lpBase + x.1 * blockBytes →
            s1 = { x.2 with host := { x.2.host with granted := g, area := some (base, size) },
                            fw := { x.2.fw with opened := true, margins := [] } } →
            exec .fwOpen s = .next ((((s1.areaWrite reply (s1.openReply g base size)).completeTaken 0 t
              (Done.of stSuccess)).fput f_hiFwStatus_state 2).afterCommand 0)))))) ∧
  (∀ (s : State) (t : Taken), s.turn 0 0x02 = some t → ∀ s1, s1 = (s.fput f_hiFwStatus_state 4).begin_ 0 t →
    (s.running = none → exec .fwClose s = .next ((s1.closeEnds { t with begun := true }).afterCommand 0)) ∧
    (s.running ≠ none → exec .fwClose s = .next (((s1.fw.jobs.filter fun j => j.phase != .running).foldl
      (fun s j => s.endJob j stAborted) s1).halt.afterCommand 0))) ∧
  (∀ (s : State) (t : Taken) (host : List Byte), s.turn 0 0x10 = some t → ∀ n place b len,
    n = (if bit s.host.granted 4 = true then t.field 32 1 else 1) → place = (List.range n).map (fun p => t.field (48 + p) 1) →
    len = t.field 24 8 → b = (s.areaRead host (t.field 16 8) len).1 →
    (s.fw.loading ≠ none → exec (.loadPackage host) s = .next (s.answered 0 t stBusy)) ∧
    (s.fw.loading = none →
      (n < 1 ∨ 16 < n ∨ len < 128 ∨ s.inArea (t.field 16 8) len = false ∨ (∃ a ∈ place, 15 < a ∧ a ≠ 0xFF) →
        exec (.loadPackage host) s = .next (s.answered 0 t stInvalidField)) ∧
      (1 ≤ n → n ≤ 16 → 128 ≤ len → s.inArea (t.field 16 8) len = true → (∀ a ∈ place, a ≤ 15 ∨ a = 0xFF) →
        (headerMagic b = false ∨ (contractOk b = true ∧ headerOk b len = false) →
          exec (.loadPackage host) s = .next (s.answered 0 t stPackageInvalid)) ∧
        (headerMagic b = true → contractOk b = false → exec (.loadPackage host) s = .next (s.answered 0 t stContractMismatch)) ∧
        (headerMagic b = true → contractOk b = true → headerOk b len = true →
          (bit (pkRings b) (n - 1) = false ∨ (1 < n ∧ s.placeOk place = false) →
            exec (.loadPackage host) s = .next (s.answered 0 t stInvalidField)) ∧
          (bit (pkRings b) (n - 1) = true → (1 < n → s.placeOk place = true) →
            (s.fget f_mcStatus_state < 2 → exec (.loadPackage host) s = .next (s.answered 0 t stPoolExhausted)) ∧
            (2 ≤ s.fget f_mcStatus_state → exec (.loadPackage host) s = .next (({ s.begin_ 0 t with
              fw := { (s.begin_ 0 t).fw with loading := some (t.index, ⟨b, n, place, [], []⟩, 0) } } : State).afterCommand 0))))))) ∧
  (∀ (s : State) (t : Taken), ∀ es, es = (List.range (t.field 18 2)).map (t.field 16 2 + ·) →
    (s.turn 0 0x11 = some t →
      (s.fw.reclaims ≠ [] → exec .poolGrant s = .next (s.answered 0 t stBusy)) ∧
      (s.fw.reclaims = [] →
        (4096 < t.field 16 2 + t.field 18 2 ∨ (∃ i ∈ es, s.fbit (f_hiHostwin_valid i) = false ∨ s.fbit (f_hiHostwin_write_en i) = false) →
          exec .poolGrant s = .next (s.answered 0 t stInvalidField)) ∧
        (t.field 16 2 + t.field 18 2 ≤ 4096 → (∀ i ∈ es, s.fbit (f_hiHostwin_valid i) = true ∧ s.fbit (f_hiHostwin_write_en i) = true) →
          exec .poolGrant s = .next (({ s with fw := { s.fw with
            t3 := s.fw.t3 ++ es.filter (!s.fw.t3.contains ·) } } : State).answered 0 t stSuccess)))) ∧
    (s.turn 0 0x12 = some t →
      (s.fw.reclaims ≠ [] → exec .poolReclaim s = .next (s.answered 0 t stBusy)) ∧
      (s.fw.reclaims = [] →
        (4096 < t.field 16 2 + t.field 18 2 → exec .poolReclaim s = .next (s.answered 0 t stInvalidField)) ∧
        (t.field 16 2 + t.field 18 2 ≤ 4096 → exec .poolReclaim s = .next ((({ s.begin_ 0 t with fw := { (s.begin_ 0 t).fw with
          t3 := (s.begin_ 0 t).fw.t3.filter (!es.contains ·),
          reclaims := [(t.index, t.field 16 2, t.field 18 2)] } } : State).reclaimCheck).afterCommand 0))))) ∧
  (∀ (s : State) (t : Taken), s.turn 0 0x1C = some t →
    (31 < t.field 16 1 → exec .streamMargin s = .next (s.answered 0 t stInvalidField)) ∧
    (t.field 16 1 ≤ 31 → exec .streamMargin s = .next (({ s with fw := { s.fw with
      margins := mapSet (fun _ => 0) s.fw.margins (t.field 16 1) (t.field 24 8) } } : State).answered 0 t stSuccess))) ∧
  (∀ (s : State) (t : Taken) (host : List Byte),
    (s.turn 0 0x20 = some t →
      (s.ring.head ≠ .none → exec .ringEnumerate s = .next (s.answered 0 t stBusy)) ∧
      (s.ring.head = .none →
        (s.inArea (t.field 16 8) 1024 = false → exec .ringEnumerate s = .next (s.answered 0 t stInvalidField)) ∧
        (s.inArea (t.field 16 8) 1024 = true → exec .ringEnumerate s = .next ((s.begin_ 0 t).enumStart.afterCommand 0)))) ∧
    (s.turn 0 0x21 = some t →
      (s.ring.head ≠ .none → exec (.ringConfigure host) s = .next (s.answered 0 t stBusy)) ∧
      (s.ring.head = .none → s.quarantined = true → exec (.ringConfigure host) s = .next (s.answered 0 t 0x41)) ∧
      (s.ring.head = .none → s.quarantined = false →
        ∀ tb as, tb = s.memberTable (s.areaRead host (t.field 16 8) 1024).1 → as = tb.filterMap (·.address) →
        (s.inArea (t.field 16 8) 1024 = false ∨ (∃ a ∈ as, 15 < a) ∨ as.eraseDups.length ≠ as.length ∨
            (∀ m ∈ tb, m.identity = Config.deviceId → m.address = none) →
          exec (.ringConfigure host) s = .next (s.answered 0 t stInvalidField)) ∧
        (s.inArea (t.field 16 8) 1024 = true → (∀ a ∈ as, a ≤ 15) → as.eraseDups.length = as.length →
            (∃ m ∈ tb, m.identity = Config.deviceId ∧ m.address ≠ none) →
          exec (.ringConfigure host) s = .next (((s.begin_ 0 t).headConfigure tb (s.fbit f_ciStatus_closed)).afterCommand 0)))) ∧
    (s.turn 0 0x22 = some t → exec .ringReadmit s = .next (s.ciReadmit.answered 0 t stSuccess)))

/-- The job controls of ring 0 (R515): a row whose turn has not come changes nothing; a control of a job that has ended
has no effect and succeeds, and one of a job that there is not is refused. A running job is marked to stop or to be
switched out at its next boundary; another stops or is suspended at once; a suspended one resumes where its preparation
stood, and a resume of one that is not suspended does nothing. JOB_QUERY answers a running job that stands at a
boundary with its lowest core's step, and one in the midst of a step at that boundary (R28, R497). TIME_SAMPLE of a
source it knows completes; its rate inside the clamp of R372, and its step where no group is enabled, are free values
(log entry 2). A side-port transfer in range: a stream setting is kept, an acknowledged transfer completes with its
bytes, a refused one with SIDEPORT_NAK, and one that is not answered waits for its timeout (R369, R501), which the
firmware cannot serve while its clock stands. -/
def Obligations.JobControlsAndSideports : Prop :=
  (∀ (s : State) (answer : Option (Bool × List Byte)) (host : List Byte),
    (s.turn 0 0x18 = none → exec .jobStop s = .next s) ∧ (s.turn 0 0x19 = none → exec .jobSuspend s = .next s) ∧
    (s.turn 0 0x1A = none → exec .jobResume s = .next s) ∧ (s.turn 0 0x1B = none → exec .jobQuery s = .next s) ∧
    (s.turn 0 0x28 = none → exec .timeSample s = .next s) ∧ (s.turn 0 0x30 = none → exec (.sideport answer host) s = .next s) ∧
    (s.stopped 8 = true → exec .sideportTimeout s = .next s) ∧
    (s.stopped 8 = false → exec .sideportTimeout s = .next s.sideTimeout)) ∧
  (∀ (s : State) (t : Taken), s.namedJob t = none →
    (∀ st, st = (if s.namedPast t = none then stInvalidField else stSuccess) →
      (s.turn 0 0x18 = some t → exec .jobStop s = .next (s.answered 0 t st)) ∧
      (s.turn 0 0x19 = some t → exec .jobSuspend s = .next (s.answered 0 t st)) ∧
      (s.turn 0 0x1A = some t → exec .jobResume s = .next (s.answered 0 t st))) ∧
    (s.turn 0 0x1B = some t → s.namedPast t = none → exec .jobQuery s = .next (s.answered 0 t stInvalidField)) ∧
    (∀ p, s.turn 0 0x1B = some t → s.namedPast t = some p → exec .jobQuery s =
      .next ((s.completeTaken 0 t { Done.of stSuccess with result0 := 3, result1 := p.2.2 }).afterCommand 0))) ∧
  (∀ (s : State) (t : Taken) (j : Job), s.namedJob t = some j →
    (s.turn 0 0x18 = some t →
      (j.phase = .running → exec .jobStop s = .next ((s.setJob { j with stop := true }).halt.answered 0 t stSuccess)) ∧
      (j.phase ≠ .running → exec .jobStop s = .next ((s.endJob j stStopped).answered 0 t stSuccess))) ∧
    (s.turn 0 0x19 = some t →
      (j.phase = .running → exec .jobSuspend s = .next ((s.setJob { j with suspend := true }).halt.answered 0 t stSuccess)) ∧
      (j.phase ≠ .running → exec .jobSuspend s = .next ((s.setJob { j with phase := .suspended }).answered 0 t stSuccess))) ∧
    (s.turn 0 0x1A = some t →
      (∀ ph : JobPhase, j.phase = .suspended → ph = (if j.prepared = true then .pending else .waiting) → exec .jobResume s =
        .next ((((s.setJob { j with phase := ph }).startNext []).preempt).answered 0 t stSuccess)) ∧
      (j.phase ≠ .suspended → exec .jobResume s = .next (s.answered 0 t stSuccess))) ∧
    (s.turn 0 0x1B = some t →
      (j.phase = .running → (∀ c ∈ maskCores s.jobCores, s.standsCore c = true) → ∀ c cs, maskCores s.jobCores = c :: cs →
        exec .jobQuery s = .next ((s.completeTaken 0 t
          { Done.of stSuccess with result0 := 1, result1 := s.fget (f_ncStep_step c) }).afterCommand 0)) ∧
      (j.phase = .running → (∃ c ∈ maskCores s.jobCores, s.standsCore c = false) →
        exec .jobQuery s = .next ((s.begin_ 0 t).halt.afterCommand 0)) ∧
      (∀ r, (j.phase = .suspended ∧ r = 2) ∨ (j.phase ≠ .running ∧ j.phase ≠ .suspended ∧ r = 0) →
        exec .jobQuery s = .next ((s.completeTaken 0 t { Done.of stSuccess with result0 := r, result1 := j.step }).afterCommand 0)))) ∧
  (∀ (s : State) (t : Taken), s.turn 0 0x28 = some t →
    (t.field 40 1 < 1 ∨ 3 < t.field 40 1 → exec .timeSample s = .next (s.answered 0 t stInvalidField)) ∧
    (1 ≤ t.field 40 1 → t.field 40 1 ≤ 3 → ∃ r : Int, -55924053 ≤ r ∧ r ≤ 55924053 ∧
      ∀ s1, s1 = ({ s with fresh := s.fresh + 1 } : State).wr f_iaTimeRate_rate_adj.off (BitVec.ofInt 32 r) →
      (s.anyGroup = true → exec .timeSample s = .next (s1.answered 0 t stSuccess)) ∧
      (s.anyGroup = false → ∃ d : DWord, exec .timeSample s =
        .next (({ s1 with fresh := s1.fresh + 1, devTime := s1.devTime + d } : State).answered 0 t stSuccess)))) ∧
  (∀ (s : State) (t : Taken) (host : List Byte), s.turn 0 0x30 = some t → ∀ ctl kind op w r a ranged,
    ctl = t.field 16 1 % 8 → kind = t.field 16 1 / 8 % 4 → op = t.field 17 1 → w = t.field 20 2 → r = t.field 22 2 → a = t.field 24 8 →
    (ranged ↔ ((kind = 0 ∧ ctl < 6 ∧ op ≠ 3) ∨ (kind = 1 ∧ ctl < 4 ∧ op ≠ 4 ∧ (op = 3 → w ≤ 4 ∧ r ≤ 48))) ∧ op ≤ 4 ∧ w ≤ 256 ∧
      r ≤ 256 ∧ s.inArea a (w + r) = true) →
    (¬ ranged → ∀ ans, exec (.sideport ans host) s = .next (s.answered 0 t stInvalidField)) ∧
    (ranged → op = 3 → ∀ ans, exec (.sideport ans host) s = .next (({ s with fw := { s.fw with
      spiStream := mapSet (fun _ => ([], 0)) s.fw.spiStream ctl ((s.areaRead host a w).1, r) } } : State).answered 0 t stSuccess)) ∧
    (ranged → op ≠ 3 → ∀ wr s1, wr = (if op = 1 then [] else (s.areaRead host a w).1) →
      s1 = s.emit (.sidePort (ctl + 8 * kind) (leBytes 2 (t.field 18 2) ++ wr)) →
      exec (.sideport none host) s = .next (({ s1.begin_ 0 t with
        fw := { (s1.begin_ 0 t).fw with side := some (t.index, ctl + 8 * kind) } } : State).afterCommand 0) ∧
      (∀ d, exec (.sideport (some (false, d)) host) s = .next (s1.answered 0 t stSideportNak)) ∧
      (∀ d, op = 0 → exec (.sideport (some (true, d)) host) s =
        .next ((s1.completeTaken 0 t { Done.of stSuccess with result0 := wr.length }).afterCommand 0)) ∧
      (∀ d, op = 1 ∨ op = 2 → exec (.sideport (some (true, d)) host) s =
        .next (((s1.areaWrite (if op = 1 then a else a + w) ((d ++ zeros r).take r)).completeTaken 0 t
          { Done.of stSuccess with result0 := wr.length + r }).afterCommand 0)) ∧
      (∀ d l, op = 4 → l = (mapGet (fun _ => []) s1.fw.dynAddr ctl).filter (· != t.field 18 2) ++ [t.field 18 2] →
        exec (.sideport (some (true, d)) host) s = .next ((({ s1 with fw := { s1.fw with
          dynAddr := mapSet (fun _ => []) s1.fw.dynAddr ctl l } } : State).completeTaken 0 t
            { Done.of stSuccess with result0 := wr.length }).afterCommand 0))))

/-- The commands of every ring: sequences, adaptation state, jobs and video sessions. A row whose turn has not come changes
nothing. SEQ_OPEN enters the sequence in the table, and SEQ_CLOSE and ADAPT_RELEASE wait for the jobs that were submitted
before them (R238, R497, R499); ADAPT_CREATE, ADAPT_EXPORT and ADAPT_IMPORT hold the party's state, an import taking its
blocks at once or at the running job's boundary (R213, R312, R549); JOB waits for its preparation, unless there is no
package or a field is out of range (R498, R499); VIDEO_OPEN is admitted or refused, VIDEO_FRAME queues a frame for its
session, and VIDEO_CLOSE ends a session that has no frame left (R421, R425, R497). Each that is refused completes with
the status that says why, and nothing else comes of it. -/
def Obligations.RingCommands : Prop :=
  (∀ (s : State) (q : Fin 16) (host : List Byte),
    (s.turn q.val 0x40 = none → exec (.fwJob q) s = .next s) ∧ (s.turn q.val 0x41 = none → exec (.seqOpen q) s = .next s) ∧
    (s.turn q.val 0x42 = none → exec (.seqClose q) s = .next s) ∧ (s.turn q.val 0x48 = none → exec (.adaptCreate q) s = .next s) ∧
    (s.turn q.val 0x49 = none → exec (.adaptExport q host) s = .next s) ∧
    (s.turn q.val 0x4A = none → exec (.adaptImport q host) s = .next s) ∧
    (s.turn q.val 0x4B = none → exec (.adaptRelease q) s = .next s) ∧ (s.turn q.val 0x50 = none → exec (.videoOpen q) s = .next s) ∧
    (s.turn q.val 0x51 = none → exec (.videoFrame q) s = .next s) ∧ (s.turn q.val 0x52 = none → exec (.videoClose q) s = .next s)) ∧
  (∀ (s : State) (q : Fin 16) (t : Taken),
    (s.turn q.val 0x41 = some t →
      (s.seq (t.field 16 4) ≠ none → exec (.seqOpen q) s = .next (s.answered q.val t stInvalidField)) ∧
      (s.seq (t.field 16 4) = none → s.openSeq (s.ringParty q.val) (t.field 16 4) = none →
        exec (.seqOpen q) s = .next (s.answered q.val t stPoolExhausted)) ∧
      (∀ s1, s.seq (t.field 16 4) = none → s.openSeq (s.ringParty q.val) (t.field 16 4) = some s1 →
        exec (.seqOpen q) s = .next (s1.answered q.val t stSuccess) ∧
          s1.fw.seqs = s.fw.seqs ++ [⟨s.ringParty q.val, t.field 16 4, 0, false, false, 0, [], [], s.freePlace, none⟩])) ∧
    (s.turn q.val 0x42 = some t →
      (s.seq (t.field 16 4) = none ∨ (∃ x, s.seq (t.field 16 4) = some x ∧ (x.party ≠ s.ringParty q.val ∨ x.closing ≠ none)) →
        exec (.seqClose q) s = .next (s.answered q.val t stInvalidField)) ∧
      (∀ x, s.seq (t.field 16 4) = some x → x.party = s.ringParty q.val → x.closing = none →
        exec (.seqClose q) s = .next ((((s.begin_ q.val t).setSeq { x with
          closing := some (q.val, t.index, s.fw.jobNo) }).settleCloses).afterCommand q.val))) ∧
    (s.turn q.val 0x48 = some t →
      (t.field 16 4 = 0 ∨ s.adaptOf q.val t ≠ none → exec (.adaptCreate q) s = .next (s.answered q.val t stInvalidField)) ∧
      (t.field 16 4 ≠ 0 → s.adaptOf q.val t = none → exec (.adaptCreate q) s = .next (({ s with fw := { s.fw with
        adapts := s.fw.adapts ++ [⟨s.ringParty q.val, t.field 16 4, 0, [], [], false, none⟩] } } : State).answered q.val t stSuccess))) ∧
    (s.turn q.val 0x4B = some t →
      (s.adaptOf q.val t = none ∨ (∃ a, s.adaptOf q.val t = some a ∧ a.releasing ≠ none) →
        exec (.adaptRelease q) s = .next (s.answered q.val t stInvalidField)) ∧
      (∀ a, s.adaptOf q.val t = some a → a.releasing = none →
        exec (.adaptRelease q) s = .next ((((s.begin_ q.val t).setAdapt { a with
          releasing := some (q.val, t.index, s.fw.jobNo) }).settleCloses).afterCommand q.val)))) ∧
  (∀ (s : State) (q : Fin 16) (t : Taken) (host : List Byte),
    (s.turn q.val 0x49 = some t →
      (s.adaptOf q.val t = none → exec (.adaptExport q host) s = .next (s.answered q.val t stInvalidField)) ∧
      (∀ a, s.adaptOf q.val t = some a → s.exportState host a = none →
        exec (.adaptExport q host) s = .next (s.answered q.val t stSealRejected)) ∧
      (∀ a b s1, s.adaptOf q.val t = some a → s.exportState host a = some (b, s1) →
        (t.field 32 8 < b.length ∨ s.inArea (t.field 24 8) b.length = false →
          exec (.adaptExport q host) s = .next (s.answered q.val t stInvalidField)) ∧
        (b.length ≤ t.field 32 8 → s.inArea (t.field 24 8) b.length = true →
          exec (.adaptExport q host) s = .next (((s1.areaWrite (t.field 24 8) b).completeTaken q.val t
            { Done.of stSuccess with result0 := b.length }).afterCommand q.val)))) ∧
    (s.turn q.val 0x4A = some t →
      (s.adaptOf q.val t = none ∨ s.inArea (t.field 24 8) (t.field 32 8) = false →
        exec (.adaptImport q host) s = .next (s.answered q.val t stInvalidField)) ∧
      (∀ a, s.adaptOf q.val t = some a → s.inArea (t.field 24 8) (t.field 32 8) = true →
        (s.importPayload a (s.areaRead host (t.field 24 8) (t.field 32 8)).1 = none →
          exec (.adaptImport q host) s = .next (s.answered q.val t stSealRejected)) ∧
        (∀ p, s.importPayload a (s.areaRead host (t.field 24 8) (t.field 32 8)).1 = some p →
          (s.running = none → s.importState a p.1 p.2 = none →
            exec (.adaptImport q host) s = .next (s.answered q.val t stPoolExhausted)) ∧
          (∀ s1, s.running = none → s.importState a p.1 p.2 = some s1 →
            exec (.adaptImport q host) s = .next (s1.answered q.val t stSuccess)) ∧
          (s.running ≠ none → exec (.adaptImport q host) s = .next (({ s.begin_ q.val t with fw := { (s.begin_ q.val t).fw with
            imports := (s.begin_ q.val t).fw.imports ++ [(q.val, t.index, p.1, p.2)] } } : State).afterCommand q.val)))))) ∧
  (∀ (s : State) (q : Fin 16) (t : Taken), s.turn q.val 0x40 = some t →
    ∃ j : Job, j.number = s.fw.jobNo + 1 ∧ j.taken = s.grantedJob t ∧ j.ring = q.val ∧ j.party = s.ringParty q.val ∧
      j.phase = .waiting ∧ j.known = false ∧ j.prepared = false ∧ j.stop = false ∧ j.suspend = false ∧ j.handles = [] ∧
      (bit s.host.granted 3 = true → j.taken = t) ∧
      ∀ s1, s1 = ({ s.begin_ q.val t with fw := { s.fw with jobNo := s.fw.jobNo + 1, jobs := s.fw.jobs ++ [j] } } : State) →
        (s.fw.pkg = none → exec (.fwJob q) s = .next ((s1.endJob j stNoPackage).afterCommand q.val)) ∧
        (s.fw.pkg ≠ none → 31 < t.field 32 1 ∨ (bit (t.field 33 1) 0 = true ∧ pkFallback s.pkgBytes = 0) →
          exec (.fwJob q) s = .next ((s1.endJob j stInvalidField).afterCommand q.val)) ∧
        (s.fw.pkg ≠ none → t.field 32 1 ≤ 31 → bit (t.field 33 1) 0 = false ∨ pkFallback s.pkgBytes ≠ 0 →
          exec (.fwJob q) s = .next (s1.afterCommand q.val))) ∧
  (∀ (s : State) (q : Fin 16) (t : Taken), s.turn q.val 0x50 = some t →
    ∀ n v, n = ((List.range 16).find? fun i => (s.video i).isNone).getD 16 → v = videoOf t n (s.ringParty q.val) q.val →
      (s.videoOk v = false → exec (.videoOpen q) s = .next (s.answered q.val t stInvalidField)) ∧
      (s.videoOk v = true → s.vxDown = true → exec (.videoOpen q) s = .next (s.answered q.val t stVideoFault)) ∧
      (s.videoOk v = true → s.vxDown = false → s.videoFits v = false →
        exec (.videoOpen q) s = .next (s.answered q.val t stVideoCapacity)) ∧
      (∀ b, s.videoOk v = true → s.vxDown = false → s.videoFits v = true → b = s.videoBytes v →
        (b.2.allocSides true (ceilDiv b.1 blockBytes) = none → exec (.videoOpen q) s = .next (s.answered q.val t stPoolExhausted)) ∧
        (∀ x r, b.2.allocSides true (ceilDiv b.1 blockBytes) = some x →
          r = (if v.group = 0xFF then 0 else (s.obj (s.fget (f_iaGroup_ready_obj v.group))).toNat) →
          exec (.videoOpen q) s = .next ((({ x.2 with fw := { x.2.fw with
            videos := x.2.fw.videos ++ [{ v with blocks := x.1, releases := r }] } } : State).videoLoad.completeTaken q.val t
              { Done.of stSuccess with result0 := n }).afterCommand q.val)))) ∧
  (∀ (s : State) (q : Fin 16) (t : Taken),
    (s.turn q.val 0x51 = some t →
      (s.video (t.field 16 1) = none → exec (.videoFrame q) s = .next (s.answered q.val t stInvalidField)) ∧
      (∀ v, s.video (t.field 16 1) = some v →
        (v.party ≠ s.ringParty q.val ∨ v.closing ≠ none ∨ v.group ≠ 0xFF ∨ s.inArea (t.field 24 8) (t.field 32 4) = false ∨
            (v.encodes = false ∧ s.inArea (t.field 40 8) v.frameBytes = false) →
          exec (.videoFrame q) s = .next (s.answered q.val t stInvalidField)) ∧
        (v.party = s.ringParty q.val → v.closing = none → v.group = 0xFF → s.inArea (t.field 24 8) (t.field 32 4) = true →
            v.encodes = true ∨ s.inArea (t.field 40 8) v.frameBytes = true →
          exec (.videoFrame q) s = .next (((s.begin_ q.val t).setVideo { v with queue := v.queue ++
            [⟨t.field 24 8, t.field 32 4, t.field 40 8, t.field 48 8, some (q.val, t.index)⟩] }).afterCommand q.val)))) ∧
    (s.turn q.val 0x52 = some t →
      (s.video (t.field 16 1) = none → exec (.videoClose q) s = .next (s.answered q.val t stInvalidField)) ∧
      (∀ v v1, s.video (t.field 16 1) = some v → v1 = { v with closing := some (q.val, t.index) } →
        (v.party ≠ s.ringParty q.val ∨ v.closing ≠ none → exec (.videoClose q) s = .next (s.answered q.val t stInvalidField)) ∧
        (v.party = s.ringParty q.val → v.closing = none →
          (v.queue ≠ [] → exec (.videoClose q) s = .next (((s.begin_ q.val t).setVideo v1).afterCommand q.val)) ∧
          (v.queue = [] → exec (.videoClose q) s = .next (((s.begin_ q.val t).endVideo v1 stSuccess).afterCommand q.val))))))

/-! Jobs, boot, resets and trust. -/

/-- A job whose preparation is ready joins the pending set and starts when the device is free; one whose preparation
fails ends with the status that names why, and one that cannot be prepared yet stays (R511, R512). The firmware counts
the steps that outlasted their allowances, and at a boundary of the running job, its cores all standing there, takes
that boundary's actions, starts the cores behind the furthest, or stops and switches; a job that is aborted ends when
its cores have stopped (R26 to R30, R513). A package that is loading, on a device with no job: its load completes with
PACKAGE_INVALID where its bytes do not check, with POOL_EXHAUSTED where the pools are short, and leaves the resident
package as it was; where they check and blocks are found, it becomes resident and completes with SUCCESS (R20, R22,
R40). The firmware does nothing while its clock or the fabric's stands. The trained link is what PCIe reports (R510). -/
def Obligations.JobsAndPackages : Prop :=
  (∀ (s : State) (q : Fin 16) (i : Nat) (x : JobInputs) (f : Option Job),
     f = (s.fw.jobs.find? fun j => j.ring == q.val && j.taken.index == i && !j.prepared) →
     (s.mpStands = true ∨ f = none → exec (.jobPrepared q i x) s = .next s) ∧
     (∀ j, s.mpStands = false → f = some j →
       (∀ s1 j1, s.prepare j x = .ready s1 j1 → exec (.jobPrepared q i x) s = .next (((s1.setJob j1).startNext []).preempt)) ∧
       (∀ s1 j1 st, s.prepare j x = .fails s1 j1 st → exec (.jobPrepared q i x) s = .next ((s1.endJob j1 st).startNext [])) ∧
       (∀ s1 j1, s.prepare j x = .later s1 j1 → exec (.jobPrepared q i x) s = .next (s1.setJob j1)))) ∧
  (∀ (s0 s : State) (ex : List (Nat × Nat)) (peers : List Nat), s = s0.overran ex →
     ((∀ o ∈ ex, o.2 = 0 ∨ s0.topStep ≤ o.1) → s = s0) ∧
     (s.mpStands = true ∨ s.running = none → exec (.jobBoundary ex peers) s0 = .next s) ∧
     (∀ j cores, s.mpStands = false → s.running = some j → cores = maskCores s.jobCores →
       (s.abortNow = true →
         (∀ st, s.condStatus = some st → (∀ c ∈ cores, s.coreState c = 0) → exec (.jobBoundary ex peers) s0 = .next (s.finish j st peers)) ∧
         (s.condStatus = none ∨ (∃ c ∈ cores, s.coreState c ≠ 0) → exec (.jobBoundary ex peers) s0 = .next s)) ∧
       (s.abortNow = false → (∃ c ∈ cores, s.standsCore c = false) → exec (.jobBoundary ex peers) s0 = .next s) ∧
       (s.abortNow = false → (∀ c ∈ cores, s.standsCore c = true) →
         (s.condStatus ≠ none ∨ ((∀ c ∈ cores, s.topStep ≤ s.fget (f_ncStep_step c)) ∧ j.step < s.topStep) →
           exec (.jobBoundary ex peers) s0 = .next (s.atBoundary j s.topStep peers)) ∧
         (∀ b, s.condStatus = none → b = (cores.filter fun c => decide (s.fget (f_ncStep_step c) < s.topStep)) → b ≠ [] →
           exec (.jobBoundary ex peers) s0 = .next (b.foldl (fun s c => s.startFilled c) s)) ∧
         (s.condStatus = none → (∀ c ∈ cores, s.topStep ≤ s.fget (f_ncStep_step c)) → s.topStep ≤ j.step →
           exec (.jobBoundary ex peers) s0 = .next (((s.settleNow).answerQuery 1 s.topStep).stopOrSwitch j s.topStep peers))))) ∧
  (∀ (s : State) (sp : Fin 6) (w : Fin 4),
     (s.fw.loading = none ∨ s.fw.jobs ≠ [] ∨ s.mpStands = true → exec .packageLoadComplete s = .next s) ∧
     (∀ i r m s1, s.fw.loading = some (i, r, m) → s.fw.jobs = [] → s.mpStands = false →
       s1 = ({ s with fw := { s.fw with loading := none } } : State) →
       (packageOk r.bytes = false → exec .packageLoadComplete s =
         .next ((s1.bgDone 0x10 (Done.of stPackageInvalid)).settleRing 0)) ∧
       (∀ pos n k, packageOk r.bytes = true → pos = (if r.ring ≤ 1 then some 0 else r.place.findIdx? (· == s.ringAddr)) →
         n = ceilDiv ((((loadedSections r.bytes r.ring pos).map (sectionAt r.bytes)).filter fun x => x.kind == 5).foldl
           (fun a x => a + 64 * ceilDiv x.length 64) 0) blockBytes →
         k = (if r.ring ≤ 1 then 0 else ceilDiv r.bytes.length blockBytes) →
         (s1.allocBlocks true (n + k) = none → exec .packageLoadComplete s =
           .next ((s1.bgDone 0x10 (Done.of stPoolExhausted)).settleRing 0)) ∧
         (∀ x, s1.allocBlocks true (n + k) = some x → exec .packageLoadComplete s =
           .next (((x.2.makeResident { r with blocks := x.1.take n, copy := x.1.drop n }).bgDone 0x10
             { Done.of stSuccess with result0 := pkBytes r.bytes }).settleRing 0)))) ∧
     (Answers (.pcieLinkRetrain sp w) s fun t => t.fget f_hiLink_speed = sp.val ∧ t.fget f_hiLink_width = 2 ^ w.val ∧
       RegsOnly s t [f_hiLink_speed.off]))

/-- The boot window takes the image's bytes in ascending order while the endpoint waits for them, a gap filled with zeros,
counting the 4 KiB blocks that have come; a write below the highest offset written, or while the SC checks, changes
nothing, one beyond the window is refused, and from the release on the window is closed (R477, R481). `go` releases the
MP, whatever the checks found, and what they found stands in unattested, keys_locked and attested; an attested image
that asks it blows the anti-rollback fuses (R531, R534 to R536). Without an image to check, `go` does nothing. -/
def Obligations.Boot : Prop :=
  ∀ (s : State) (off : Nat) (d image : List Byte), image = s.host.image ++ zeros (0x80000 - s.host.image.length) →
    (s.fget f_hiBoot_state = 1 ∨ s.fget f_hiBoot_state = 2 → d ≠ [] → off + d.length ≤ 0x80000 → s.host.image.length ≤ off →
      Answers (.bootWindowWrite off d) s fun t => t.host.image = s.host.image ++ zeros (off - s.host.image.length) ++ d ∧
        t.fget f_hiBoot_state = 2 ∧ t.fget f_hiBoot_blocks_checked =
          (s.fget f_hiBoot_blocks_checked + ((off + d.length) / 4096 - off / 4096)) % 256 ∧
        t.mem = s.mem ∧ t.sc = s.sc) ∧
    (s.fget f_hiBoot_state = 0 ∨ s.fget f_hiBoot_state = 3 ∨ off < s.host.image.length ∨ d = [] → off + d.length ≤ 0x80000 →
      exec (.bootWindowWrite off d) s = .next s) ∧
    (s.fget f_hiBoot_state ≠ 4 → 0x80000 < off + d.length → exec (.bootWindowWrite off d) s = .next (s.refuseAccess off)) ∧
    (s.fget f_hiBoot_state = 4 → exec (.bootWindowWrite off d) s = .next s) ∧
    (s.fget f_hiBoot_state ≠ 1 → s.fget f_hiBoot_state ≠ 2 → exec .bootGo s = .next s) ∧
    (s.fget f_hiBoot_state = 1 ∨ s.fget f_hiBoot_state = 2 →
      Answers .bootGo s fun t => t.aoc.released = true ∧ t.fget f_hiBoot_state = 4 ∧ t.sc.lifeBlown = s.sc.lifeBlown ∧
        t.sc.manifest = image.take 8192 ∧ t.fget f_hiBoot_unattested = b2n (s.bootChecks image != 0) ∧
        t.fget f_scStatus_keys_locked = b2n (s.bootChecks image != 0) ∧ t.fget f_scStatus_attested = b2n (s.bootChecks image == 0) ∧
        t.sc.svBlown = if s.bootChecks image = 0 ∧ bit (fieldAt image 6 2) 0 = true then max s.sc.svBlown (fieldAt image 0x10 1)
          else s.sc.svBlown)

/-- Warm resets: a Function Level Reset, PERST#, a watchdog expiry and a tamper event reset the main domains with
their own cause, and nothing resets main domains that are already held; one that ends a thermal trip asks that every
sensor be cool (R474, R576, R612, R614, R639). PERST# released lets the main domains go when no other cause holds them
(R637). Power: the always-on reset puts the whole device in reset, keeping only its fuses and its journal's flash; its
release mounts the journal; main power-good rising clears the slot keys, outside a slumber wake, and with TESTEN high
leaves the device in reset; falling resets the main domains, with a power-fail flush outside slumber (R530, R604, R637
to R639). Slumber entry puts LPDDR in self-refresh (R572). -/
def Obligations.WarmResetsAndPower : Prop :=
  (∀ (s : State) (cool : Bool),
     exec .functionLevelReset s = .next (s.warmReset 1) ∧
     (∀ k, (s.timeRuns = false → s.warmReset k = s) ∧ (s.timeRuns = true → s.warmReset k = (s.warmBegin k).mainRelease)) ∧
     (∀ s1, (s.aoc.tripped = true ∧ s1 = if cool = true then s.tripRelease else s) ∨
         (s.aoc.tripped = false ∧ s1 = if s.timeRuns = true then s.warmBegin 0 else s) →
       exec (.perstAssert cool) s = .next { s1 with aoc := { s1.aoc with perst := true } }) ∧
     (s.aoc.tripped = false → s.timeRuns = true → Answers (.perstAssert cool) s fun t => t.aoc.perst = true ∧ t.timeRuns = false) ∧
     (s.timeRuns = false → exec .perstDeassert s = .next (({ s with aoc := { s.aoc with perst := false } } : State).mainRelease)) ∧
     (s.timeRuns = true → exec .perstDeassert s = .next { s with aoc := { s.aoc with perst := false } }) ∧
     (s.timeRuns = true → s.fbit f_aocWdog_arm = true → exec .watchdogExpiry s =
       .next (((s.sediment' 0x10 0 0x0044 (s.fget f_aocWdog_timeout_ms)).fput f_aocWdog_expired 1).warmReset 2)) ∧
     (s.timeRuns = false ∨ s.fbit f_aocWdog_arm = false → exec .watchdogExpiry s = .next s) ∧
     (s.aoc.porst = true → exec (.tamper cool) s = .next s) ∧
     (∀ s1, s.aoc.porst = false → s1 = (s.sediment' 0x10 0 0x0045 0).zeroise →
       (s.aoc.tripped = false → exec (.tamper cool) s = .next (s1.warmReset 3)) ∧
       (s.aoc.tripped = true → exec (.tamper cool) s = .next (if cool = true then s1.tripRelease.mainRelease else s1)))) ∧
  (∀ (s : State) (testen : Bool),
     (Answers .aonPorstAssert s fun t => t.aoc.porst = true ∧ t.timeRuns = false ∧ t.regs = [] ∧ t.mem = [] ∧ t.sync = [] ∧
       t.jr.flash = s.jr.flash ∧ t.sc.lifeBlown = s.sc.lifeBlown ∧ t.sc.svBlown = s.sc.svBlown ∧ t.pending = s.pending) ∧
     (∀ s1, s1 = ({ s with aoc := { s.aoc with porst := false } } : State) →
       (s.fget f_jrStatus_state = 0 → exec .aonPorstRelease s = .next s1.jrMount) ∧
       (s.fget f_jrStatus_state ≠ 0 → exec .aonPorstRelease s = .next s1)) ∧
     (s.aoc.porst = true → exec (.mainPwrgdRise testen) s = .next s) ∧
     (∀ s1 s2, s.aoc.porst = false →
       s1 = (if s.aoc.slumber = true then s.resetMain
         else (((s.resetMain.newSlotKeys).fput f_aocWdog_expired 0).fput f_scStatus_tamper_seen 0).fput f_scStatus_debug_unlocked 0) →
       s2 = (if s.aoc.tripped = true then s1.emit (.pin 64 true) else s1) →
       exec (.mainPwrgdRise testen) s = .next (({ s2 with aoc := { s2.aoc with
         powered := !testen, tripped := false, perst := false, slumber := false } } : State).mainRelease)) ∧
     (s.aoc.powered = false → exec .mainPwrgdFall s = .next s) ∧
     (∀ s1, s.aoc.powered = true →
       s1 = (if s.aoc.slumber = true then s else (s.sediment' 0x10 0 0x0042 0).powerFlush) →
       exec .mainPwrgdFall s = .next { s1.resetMain with aoc := { s1.resetMain.aoc with powered := false } }) ∧
     (s.timeRuns = false → exec .slumberEntry s = .next s) ∧
     (s.timeRuns = true → Answers .slumberEntry s fun t => t = { s.srEnter 1 with aoc := { (s.srEnter 1).aoc with slumber := true } } ∧
       (2 ≤ s.fget f_mcStatus_state → 1 ∈ t.mc.causes)))

/-- What a reset of the main domains leaves: every register outside the always-on domain at its reset value, but for
the two SC_STATUS bits that survive; no job, session, sequence or key; the arrays, cores and engines as after reset;
memory, the journal, the fuses and the sediment record as they were (R639). -/
def Obligations.MainReset : Prop :=
  ∀ s : State, s.resetMain.mem = s.mem ∧ s.resetMain.sediment = s.sediment ∧ s.resetMain.jr.flash = s.jr.flash ∧
    s.resetMain.sc.lifeBlown = s.sc.lifeBlown ∧ s.resetMain.sc.svBlown = s.sc.svBlown ∧ s.resetMain.fw = .reset ∧
    s.resetMain.sc.psk = [] ∧ s.resetMain.cores = [] ∧ s.resetMain.arrays = [] ∧ s.resetMain.sync = [] ∧ s.resetMain.devTime = 0 ∧
    s.resetMain.pending = s.pending ∧
    (∀ o, alwaysOn o = false → o ≠ f_scStatus_tamper_seen.off → s.resetMain.rd o = regReset o) ∧
    (∀ o, alwaysOn o = true → o ≠ f_aocWdog_arm.off → o ≠ f_scStatus_tamper_seen.off → s.resetMain.rd o = s.rd o)

/-- The SC's mailbox: each operation ends with its number, `go` clear and a status in SC_MBOX_CMD, and changes no other
register in doing so: 0 done, 1 where the sealing is rejected, 2 where the keys are locked, 3 where an argument is bad.
Measuring the package keeps its body digest, or zeros with none resident; releasing a renewed slot takes it off the list
of those due; the four others seal, unseal, export and import (R548, R549, R556). The meaning of the arguments is the
model's (log entry 24). While the IO clock stands the mailbox does not answer (R565). -/
def Obligations.Mailbox : Prop :=
  (∀ s : State, s.stopped 8 = true → exec .unsealEnvelope s = .next s ∧ exec .sealOutputs s = .next s ∧ exec .exportState s = .next s ∧
     exec .importState s = .next s ∧ exec .measurePackage s = .next s ∧ exec .releaseSlot s = .next s) ∧
  (∀ (s : State) (op st : Nat), 1 ≤ op → op ≤ 6 → st ≤ 3 → (s.mboxDone op st).fget f_scMboxCmd_op = op ∧
     (s.mboxDone op st).fget f_scMboxCmd_go = 0 ∧ (s.mboxDone op st).fget f_scMboxCmd_status = st ∧
     RegsOnly s (s.mboxDone op st) [f_scMboxCmd_op.off]) ∧
  (∀ s : State, s.stopped 8 = false →
    (∀ d, d = (if s.fw.pkg = none then zeros 48 else (s.pkgBytes.drop 0x30).take 48) →
      exec .measurePackage s = .next (({ s with sc := { s.sc with measured := d } } : State).mboxDone 5 0)) ∧
    (s.mboxArg 0 ∈ s.sc.renewed → exec .releaseSlot s =
      .next (({ s with sc := { s.sc with renewed := s.sc.renewed.filter (· != s.mboxArg 0) } } : State).mboxDone 6 0)) ∧
    (s.mboxArg 0 ∉ s.sc.renewed → exec .releaseSlot s = .next (s.mboxDone 6 3)) ∧
    (s.keysLocked = true → exec .unsealEnvelope s = .next (s.mboxDone 1 2) ∧ exec .sealOutputs s = .next (s.mboxDone 2 2) ∧
      exec .exportState s = .next (s.mboxDone 3 2) ∧ exec .importState s = .next (s.mboxDone 4 2)) ∧
    (s.keysLocked = false → ∀ blk, blk = (s.areaRead [] (s.mboxAddr 2) 256).1 →
      (s.inArea (s.mboxAddr 0) 0x80 = false ∨ s.inArea (s.mboxAddr 2) 256 = false ∨ s.mboxIo blk = none →
        exec .unsealEnvelope s = .next (s.mboxDone 1 3)) ∧
      (∀ io u, s.inArea (s.mboxAddr 0) 0x80 = true → s.inArea (s.mboxAddr 2) 256 = true → s.mboxIo blk = some io →
        u = s.unsealEnvelope [] (s.mboxAddr 0) blk io →
        (u.ok = true → exec .unsealEnvelope s =
          .next (({ u.state with sc := { u.state.sc with sealedKey := u.key, sealedEnts := u.entries } } : State).mboxDone 1 0)) ∧
        (u.ok = false → exec .unsealEnvelope s = .next (u.state.mboxDone 1 1))) ∧
      (s.inArea (s.mboxAddr 2) 256 = false ∨ 15 < s.mboxArg 4 ∨ s.mboxIo blk = none →
        exec .sealOutputs s = .next (s.mboxDone 2 3)) ∧
      (∀ io s1, s.inArea (s.mboxAddr 2) 256 = true → s.mboxArg 4 ≤ 15 → s.mboxIo blk = some io →
        s1 = s.sealOutputs s.sc.sealedKey (s.mboxArg 4) io s.sc.sealedEnts →
        exec .sealOutputs s = .next (({ s1 with sc := { s1.sc with sealedKey := [], sealedEnts := [] } } : State).mboxDone 2 0)) ∧
      (s.mboxAdapt = none → exec .exportState s = .next (s.mboxDone 3 3) ∧ exec .importState s = .next (s.mboxDone 4 3)) ∧
      (∀ a, s.mboxAdapt = some a →
        (s.exportState [] a = none → exec .exportState s = .next (s.mboxDone 3 1)) ∧
        (∀ x, s.exportState [] a = some x →
          (s.inArea (s.mboxAddr 0) x.1.length = true → exec .exportState s = .next ((x.2.areaWrite (s.mboxAddr 0) x.1).mboxDone 3 0)) ∧
          (s.inArea (s.mboxAddr 0) x.1.length = false → exec .exportState s = .next (s.mboxDone 3 3))) ∧
        (s.inArea (s.mboxAddr 0) (s.mboxArg 2) = false → exec .importState s = .next (s.mboxDone 4 3)) ∧
        (∀ p, s.inArea (s.mboxAddr 0) (s.mboxArg 2) = true →
          p = s.importPayload a (s.areaRead [] (s.mboxAddr 0) (s.mboxArg 2)).1 →
          (p = none → exec .importState s = .next (s.mboxDone 4 1)) ∧
          (∀ g, p = some g → s.importState a g.1 g.2 = none → exec .importState s = .next (s.mboxDone 4 1)) ∧
          (∀ g s1, p = some g → s.importState a g.1 g.2 = some s1 → exec .importState s = .next (s1.mboxDone 4 0))))))

/-- SPDM in its order: version, capabilities and algorithms each advance the negotiation, and a row before its turn is
answered with an error; the rest answer once it is done, a session beyond the fourth or a bad verification being refused
(R538 to R540). Before the SC runs, or while its clock stands, none is answered. The message codes are those of DSP0274,
which the spec names (log entry 23). -/
def Obligations.SpdmAnswers : Prop :=
  (∀ (s : State), s.scUp = false →
    exec .getVersion s = .next s ∧ exec .getCapabilities s = .next s ∧ exec .getDigests s = .next s ∧
    (∀ b, exec (.negotiateAlgorithms b) s = .next s) ∧ (∀ o n, exec (.getCertificate o n) s = .next s) ∧
    (∀ d, exec (.challenge d) s = .next s ∧ exec (.keyExchange d) s = .next s) ∧ (∀ i d, exec (.getMeasurements i d) s = .next s) ∧
    (∀ id b, exec (.finish id b) s = .next s ∧ exec (.heartbeat id) s = .next s ∧ exec (.endSession id) s = .next s)) ∧
  (∀ (s : State), s.scUp = true →
    exec .getVersion s = .next (({ s with sc := { s.sc with spdm := 1 } } : State).emit (.spdm 0x04 (leBytes 1 1 ++ leBytes 2 0x1200))) ∧
    (s.sc.spdm < 1 → exec .getCapabilities s = .next s.spdmRefuse) ∧
    (1 ≤ s.sc.spdm → exec .getCapabilities s =
      .next (({ s with sc := { s.sc with spdm := max 2 s.sc.spdm } } : State).emit (.spdm 0x61 []))) ∧
    (s.sc.spdm < 2 → ∀ b, exec (.negotiateAlgorithms b) s = .next s.spdmRefuse) ∧
    (2 ≤ s.sc.spdm → exec (.negotiateAlgorithms true) s = .next (({ s with sc := { s.sc with spdm := 3 } } : State).emit (.spdm 0x63 [])) ∧
      exec (.negotiateAlgorithms false) s = .next (s.emit (.spdm spdmError [1, 0]))) ∧
    (s.sc.spdm < 3 →
      exec .getDigests s = .next s.spdmRefuse ∧ (∀ o n, exec (.getCertificate o n) s = .next s.spdmRefuse) ∧
      (∀ d, exec (.challenge d) s = .next s.spdmRefuse ∧ exec (.keyExchange d) s = .next s.spdmRefuse) ∧
      (∀ i d, exec (.getMeasurements i d) s = .next s.spdmRefuse) ∧
      (∀ id b, exec (.finish id b) s = .next s.spdmRefuse ∧ exec (.heartbeat id) s = .next s.spdmRefuse ∧
        exec (.endSession id) s = .next s.spdmRefuse)) ∧
    (3 ≤ s.sc.spdm →
      exec .getDigests s = .next (s.emit (.spdm 0x01 (Config.sha384 s.certChain))) ∧
      (∀ o n, exec (.getCertificate o n) s = .next (s.emit (.spdm 0x02 ((s.certChain.drop o).take n)))) ∧
      (∀ nonce d g, d = Config.sha384 s.certChain ++ (s.drbg 32).1 → g = (s.drbg 32).2.aliasSign (nonce ++ d) →
        exec (.challenge nonce) s = .next (g.2.emit (.spdm 0x03 (d ++ g.1)))) ∧
      (∀ (i : Fin 256) nonce b, b = s.measurements i.val →
        (b = [] → exec (.getMeasurements i nonce) s = .next (s.emit (.spdm spdmError [1, 0]))) ∧
        (∀ n g, b ≠ [] → n = (s.drbg 32).1 → g = (s.drbg 32).2.aliasSign (nonce ++ b ++ n) →
          exec (.getMeasurements i nonce) s = .next (g.2.emit (.spdm 0x60 (b ++ n ++ g.1))))) ∧
      (∀ pub,
        (4 ≤ s.sc.sessions.length → exec (.keyExchange pub) s = .next (s.emit (.spdm spdmError [0x0A, 0]))) ∧
        (s.sc.sessions.length < 4 → Answers (.keyExchange pub) s fun t =>
          t.sc.sessions = s.sc.sessions ++ [⟨s.sc.nextSession, false⟩] ∧ t.sc.nextSession = s.sc.nextSession + 1 ∧ t.regs = s.regs ∧
            t.mem = s.mem ∧ ∃ own sig, t.out = s.out ++ [.spdm 0x64 (leBytes 2 s.sc.nextSession ++ own ++ sig)])) ∧
      (∀ id,
        (s.session id = none ∨ s.inSession id = true → ∀ b, exec (.finish id b) s = .next s.spdmRefuse) ∧
        (s.session id ≠ none → s.inSession id = false →
          exec (.finish id true) s = .next ((s.openSession id).emit (.spdm 0x65 [])) ∧
          exec (.finish id false) s = .next ((s.dropSession id).emit (.spdm spdmError [6, 0]))) ∧
        (s.inSession id = true → exec (.heartbeat id) s = .next (s.emit (.spdm 0x68 [])) ∧
          exec (.endSession id) s = .next ((s.dropSession id).emit (.spdm 0x6C []))) ∧
        (s.inSession id = false → exec (.heartbeat id) s = .next s.spdmRefuse ∧ exec (.endSession id) s = .next s.spdmRefuse))))

/-- Keys: inside a secure session a party key or a ring key is requested, in the order of arrival; outside one it is
refused (R544, R550). A renewal gives an unused slot a fresh key and lists it for its release, and one of slot 0, of no
slot, or of a slot in use is refused (R544); a debug challenge answers fresh bytes in the life-cycle state that allows
it, and only there (R529). A life-cycle move that R527 allows, under a token that verifies, blows the target's fuse bits
and retires the device secret; a debug response that verifies against the challenge unlocks debug and gives every slot
from 1 up a fresh key, and a wrong one draws a new challenge; both are refused without their signatures (R527, R529).
Before the negotiation is done every one of these is refused, and before the SC runs none is answered. -/
def Obligations.KeysAndLifeCycle : Prop :=
  (∀ (s : State) (id slot : Nat) (key proof rid pub sig : List Byte) (target scope : BitVec 8),
     (∀ r, (s.scUp = false ∧ r = s) ∨ (s.scUp = true ∧ s.sc.spdm < 3 ∧ r = s.spdmRefuse) →
       exec (.partyKeySet id slot key proof) s = .next r ∧ exec (.partyKeyErase id slot) s = .next r ∧
       exec (.ringKeySet id key rid) s = .next r ∧ exec (.slotRenew slot) s = .next r ∧ exec .debugChallenge s = .next r ∧
       exec (.lifecycleSet target sig) s = .next r ∧ exec (.debugResponse pub sig scope) s = .next r)) ∧
  (∀ (s : State) (id slot : Nat) (key proof rid : List Byte), s.scUp = true → 3 ≤ s.sc.spdm →
     (s.inSession id = true →
       exec (.partyKeySet id slot key proof) s = .next (s.keyRequest ⟨1, slot, false, key, [], proof, none⟩) ∧
       exec (.partyKeyErase id slot) s = .next (s.keyRequest ⟨1, slot, true, [], [], [], none⟩) ∧
       exec (.ringKeySet id key rid) s = .next (s.keyRequest ⟨2, 0, false, key, (rid ++ zeros 8).take 8, [], none⟩)) ∧
     (s.inSession id = false → exec (.partyKeySet id slot key proof) s = .next s.spdmRefuse ∧
       exec (.partyKeyErase id slot) s = .next s.spdmRefuse ∧ exec (.ringKeySet id key rid) s = .next s.spdmRefuse) ∧
     (slot ≠ 0 → slot ≤ 15 → s.fbit (f_scSlot_in_use slot) = false → Answers (.slotRenew slot) s fun t => slot ∈ t.sc.renewed ∧
       t.out.getLast? = some (.spdm spdmVendor []) ∧ t.pending = s.pending) ∧
     (slot = 0 ∨ 15 < slot ∨ s.fbit (f_scSlot_in_use slot) = true → exec (.slotRenew slot) s = .next s.spdmRefuse) ∧
     (s.lifeState = 2 → exec .debugChallenge s = .next (s.newChallenge.emit (.spdm spdmVendor s.newChallenge.sc.challenge))) ∧
     (s.lifeState ≠ 2 → exec .debugChallenge s = .next s.spdmRefuse)) ∧
  (∀ (s : State) (target scope : BitVec 8) (token pub sig : List Byte), s.scUp = true → 3 ≤ s.sc.spdm →
     (∀ ok, ok = (s.lifeMove target.toNat &&
         Config.ecdsaVerify Config.evlasKey (leBytes 8 Config.deviceId.toNat ++ leBytes 1 target.toNat) token) →
       (ok = true → Answers (.lifecycleSet target token) s fun t => t.sc.lifeBlown = s.sc.lifeBlown ||| target.toNat ∧
         t.sc.udsRetired = true) ∧
       (ok = false → exec (.lifecycleSet target token) s = .next s.spdmRefuse)) ∧
     (s.lifeState ≠ 2 ∨ s.sc.challenge = [] → exec (.debugResponse pub sig scope) s = .next s.spdmRefuse) ∧
     (∀ ok, s.lifeState = 2 → s.sc.challenge ≠ [] → ok = (Config.sha384 pub == Config.debugKeyDigest &&
         Config.ecdsaVerify pub (s.sc.challenge ++ leBytes 8 Config.deviceId.toNat ++ [scope]) sig) →
       (ok = true → Answers (.debugResponse pub sig scope) s fun t => t.fget f_scStatus_debug_unlocked = 1 ∧ t.sc.challenge = [] ∧
         ∀ i : Fin 15, mapGet (fun _ => 0) t.slotGen (i.val + 1) = mapGet (fun _ => 0) s.slotGen (i.val + 1) + 1) ∧
       (ok = false → exec (.debugResponse pub sig scope) s = .next s.newChallenge.spdmRefuse)))

/-! Clocks, power and the governor. -/

/-- A PLL that loses lock reads neither locked nor ready, is at its first attempt, and stops the domain that takes it,
but for MEM, which moves to the reference (R564). After a lock loss: an attempt that times out begins the next of
three, and after the third the PLL has failed (R566, R567); one that locks makes the PLL ready, and its domain runs
(R566). A reference whose edges lie within 5 % of 1,171.875 in a period of the 32.768 kHz clock is there; otherwise it
is lost, and every locked PLL with it (R567). An enabled PLL that is ready reads so (R561), and one that is disabled, has
failed, or is relocking does not. -/
def Obligations.ClockLosses : Prop :=
  (∀ (s : State) (k : Fin 9),
     (s.fbit (f_cruPllStatus_locked k.val) = false → exec (.pllLockLoss k) s = .next s) ∧
     (s.fbit (f_cruPllStatus_locked k.val) = true → Answers (.pllLockLoss k) s fun t =>
       t.fbit (f_cruPllStatus_locked k.val) = false ∧ t.fbit (f_cruPllStatus_ready k.val) = false ∧
         t.fget (f_cruPllStatus_attempts k.val) = 1 ∧ k.val ∈ t.clk.lost ∧
         (k.val ≠ 5 → s.srcNow k.val = 1 → t.fbit (f_cruDomain_stopped k.val) = true) ∧
         (k.val = 5 → s.srcNow k.val = 1 → t.srcNow k.val = 0) ∧
         (s.srcNow k.val ≠ 1 → t.srcNow k.val = s.srcNow k.val ∧
           t.fbit (f_cruDomain_stopped k.val) = s.fbit (f_cruDomain_stopped k.val)))) ∧
  (∀ (s : State) (k : Fin 9) (count : Nat),
     (k.val ∈ s.clk.lost → s.fget (f_cruPllStatus_attempts k.val) < 3 → Answers (.relockAttemptTimeout k) s fun t =>
       t.fget (f_cruPllStatus_attempts k.val) = s.fget (f_cruPllStatus_attempts k.val) + 1 ∧
         RegsOnly s t [(f_cruPllStatus_attempts k.val).off]) ∧
     (k.val ∈ s.clk.lost → s.fget (f_cruPllStatus_attempts k.val) = 3 → exec (.relockAttemptTimeout k) s = .next (s.failPll k.val)) ∧
     (k.val ∉ s.clk.lost → exec (.relockAttemptTimeout k) s = .next s ∧ exec (.pllRelocked k) s = .next s) ∧
     (k.val ∈ s.clk.lost → exec (.pllRelocked k) s =
       let a := s.fget (f_cruPllStatus_attempts k.val)
       let s1 := (s.fput (f_cruPllStatus_locked k.val) 1).fput (f_cruPllStatus_ready k.val) 1
       let s2 := ({ s1 with clk := { s1.clk with lost := s1.clk.lost.filter (· != k.val) } } : State).restartDomain k.val
       .next (((s2.flag f_cruEvent_relocked).report 0x0A k.val 0x0030 a).limitOnce 6 k.val a).setMeans) ∧
     (35625 ≤ 32 * count → 32 * count ≤ 39375 → exec (.refLost count) s = .next s) ∧
     (32 * count < 35625 ∨ 39375 < 32 * count → exec (.refLost count) s =
       .next ((List.range 9).foldl (fun s k => s.loseLock k true) ((s.flag f_cruEvent_ref_lost).sediment' 0x10 0 0x0032 count))) ∧
     (s.fbit (f_cruPllCtrl_enable k.val) = true → s.fbit (f_cruPllStatus_failed k.val) = false → k.val ∉ s.clk.lost →
       Answers (.pllReady k) s fun t => t.fbit (f_cruPllStatus_locked k.val) = true ∧ t.fbit (f_cruPllStatus_ready k.val) = true ∧
         RegsOnly s t [(f_cruPllStatus_locked k.val).off]) ∧
     (s.fbit (f_cruPllCtrl_enable k.val) = false ∨ s.fbit (f_cruPllStatus_failed k.val) = true ∨ k.val ∈ s.clk.lost →
       exec (.pllReady k) s = .next s))

/-- A domain takes the source it is given where the spec allows the switch: REF always, its PLL when ready, OFF for
VID, or for an array domain whose cores are off; otherwise, or while the cut or a trip holds it, the write is
discarded with switch_refused. A domain that stands stopped takes the source once its PLL is back (log entry 25). A PLL
whose domain takes it is not disabled; another that is disabled reads neither locked nor ready, and relocks no more
(R561, R580, R582). -/
def Obligations.SourcesAndPlls : Prop :=
  ∀ (s : State) (d : Fin 9) (v : Word),
    (s.domainHeld d.val = false →
      (bits v.toNat 1 0 = 0 ∨ (bits v.toNat 1 0 = 1 ∧ s.fbit (f_cruPllStatus_ready d.val) = true) ∨
        (bits v.toNat 1 0 = 2 ∧ (d.val = 6 ∨ d.val = 7 ∨ (d.val < 4 ∧ s.fbit (f_pgCorePwr_on (2 * d.val)) = false ∧
          s.fbit (f_pgCorePwr_on (2 * d.val + 1)) = false)))) →
      Answers (.domainSourceWrite d v) s fun t =>
        t.srcNow d.val = (if s.fbit (f_cruDomain_stopped d.val) = true then s.srcNow d.val else bits v.toNat 1 0) ∧
        t.fget (f_cruDomain_src d.val) = bits v.toNat 1 0 ∧ t = { s with regs := t.regs } ∧
        ∀ e : Fin 9, e ≠ d → t.srcNow e.val = s.srcNow e.val) ∧
    (s.domainHeld d.val = true ∨ bits v.toNat 1 0 = 3 ∨ (bits v.toNat 1 0 = 1 ∧ s.fbit (f_cruPllStatus_ready d.val) = false) ∨
        (bits v.toNat 1 0 = 2 ∧ (d.val = 4 ∨ d.val = 5 ∨ d.val = 8 ∨ (d.val < 4 ∧ (s.fbit (f_pgCorePwr_on (2 * d.val)) = true ∨
          s.fbit (f_pgCorePwr_on (2 * d.val + 1)) = true)))) →
      exec (.domainSourceWrite d v) s = .next (s.raise f_cruEvent_switch_refused)) ∧
    (bit v.toNat 0 = false → s.srcNow d.val = 1 ∨ s.fget (f_cruDomain_src d.val) = 1 →
      exec (.pllCtrlWrite d v) s = .next (s.raise f_cruEvent_switch_refused)) ∧
    (bit v.toNat 0 = true →
      exec (.pllCtrlWrite d v) s = .next (s.writeReg (f_cruPllCtrl_enable d.val).off v).setMeans) ∧
    (bit v.toNat 0 = false → s.srcNow d.val ≠ 1 → s.fget (f_cruDomain_src d.val) ≠ 1 →
      Answers (.pllCtrlWrite d v) s fun t => t.fbit (f_cruPllCtrl_enable d.val) = false ∧ t.fbit (f_cruPllStatus_locked d.val) = false ∧
        t.fbit (f_cruPllStatus_ready d.val) = false ∧ t.clk.lost = s.clk.lost.filter (· != d.val) ∧
        t = { s with regs := t.regs, clk := t.clk } ∧ ∀ e : Fin 9, t.srcNow e.val = s.srcNow e.val)

/-- The governor sets each array domain to the least of its five terms, in whole megahertz, and shows the temperatures
and averages it was given (R574). The voltage loop moves a core's supply by one 5 mV step, up below 8 % slack, down
above 12 %, within 480 mV and V_max, and adds the energy delivered (R568, R595). The power-cap cut puts every array
domain that runs on the reference and takes 100 MHz off the power ceiling, down to its floor; its end returns the
domains whose PLL is ready to it; held a second too long, it ends the running job (R575, R577). A thermal trip turns
the array domains off, holds the device in reset and drives THERMTRIP_N (R576). Main domains in reset are not
governed, a core that is off or stopped keeps its supply, and a cut or a trip that already holds, or none, changes
nothing. -/
def Obligations.GovernorCutAndTrip : Prop :=
  (∀ (s : State), s.timeRuns = true →
     (∀ temps avgMs avgSec, Answers (.governorUpdate temps avgMs avgSec) s fun t =>
       (∀ k : Fin 4, t.fget (f_pgDomainStatus_set_mhz k.val) = (t.terms k.val).foldl min 1600 / 2) ∧
       (∀ i : Fin 24, t.fget (f_pgTemp_temp i.val) = toTwos 12 (temps.getD i.val 0)) ∧
       t.fget f_pgPower_avg_1ms = min avgMs 0xFFF ∧ t.fget f_pgPower_avg_1s = min avgSec 0xFFF) ∧
     (∀ (n : Fin 8) (slack : Fin 128) energy, s.fbit (f_pgCorePwr_on n.val) = true → s.fbit (f_cruDomain_stopped (n.val / 2)) = false →
       Answers (.voltageLoopUpdate n slack energy) s fun t =>
         t.fget (f_pgCoreV_slack_pct n.val) = slack.val ∧
         (∀ v, v = s.fget (f_pgCoreV_v_mv n.val) → 485 ≤ v → v + 5 ≤ s.fget (f_pgLimitVmax_vmax_mv n.val) →
           t.fget (f_pgCoreV_v_mv n.val) = if slack.val < 8 then v + 5 else if 12 < slack.val then v - 5 else v) ∧
         480 ≤ t.fget (f_pgCoreV_v_mv n.val) ∧
         t.fget64 (f_pgCoreEnergy_energy_lo n.val) = (s.fget64 (f_pgCoreEnergy_energy_lo n.val) + energy) % 2 ^ 64 ∧
         t = { s with regs := t.regs, clk := t.clk })) ∧
  (∀ (s : State) (temps : List Int) (avgMs avgSec : Nat) (n : Fin 8) (slack : Fin 128) (energy avg : Nat) (sensor : Fin 24) (temp : Int),
     (s.timeRuns = false → exec (.governorUpdate temps avgMs avgSec) s = .next s) ∧
     (s.timeRuns = false ∨ s.fbit (f_pgCorePwr_on n.val) = false ∨ s.fbit (f_cruDomain_stopped (n.val / 2)) = true →
       exec (.voltageLoopUpdate n slack energy) s = .next s) ∧
     (s.timeRuns = false ∨ s.fbit f_pgPower_cut_active = true → exec (.capCut avg) s = .next s) ∧
     (s.fbit f_pgPower_cut_active = false → exec (.capCutEnd avg) s = .next s) ∧
     (s.aoc.tripped = true ∨ s.aoc.powered = false → exec (.thermalTrip sensor temp) s = .next s)) ∧
  (∀ (s : State) (avg : Nat) (sensor : Fin 24) (temp : Int),
     (s.timeRuns = true → s.fbit f_pgPower_cut_active = false → Answers (.capCut avg) s fun t =>
       t.fbit f_pgPower_cut_active = true ∧ t.clk.power = max 600 (s.clk.power - 200) ∧ t.clk.cutAt = some s.devTime.toNat ∧
         ∀ d : Fin 4, t.srcNow d.val = if s.srcNow d.val = 2 then 2 else 0) ∧
     (s.fbit f_pgPower_cut_active = true → Answers (.capCutEnd avg) s fun t =>
       t.fbit f_pgPower_cut_active = false ∧ t.clk.cutAt = none ∧ t.mem = s.mem ∧
         ∀ d : Fin 4, t.srcNow d.val = if s.fget (f_cruDomain_src d.val) = 1 ∧ s.srcNow d.val = 0 ∧
           s.fbit (f_cruPllStatus_ready d.val) = true then 1 else s.srcNow d.val) ∧
     (s.fbit f_pgPower_cut_active = true → exec .capCutHeld s = .next (s.jobLimit 0 0)) ∧
     (s.fbit f_pgPower_cut_active = false → exec .capCutHeld s = .next s) ∧
     (s.aoc.tripped = false → s.aoc.powered = true → Answers (.thermalTrip sensor temp) s fun t =>
       t.aoc.tripped = true ∧ t.timeRuns = false ∧ t.out.getLast? = some (.pin 64 false) ∧ (∀ d : Fin 4, t.srcNow d.val = 2)))

/-- A limit register takes a value that raises none of its limits and stays at or above their bounds; a raise is
refused with its flag, and a value below its bound, or a write elsewhere, changes nothing (R573). A core at idle is
powered off, on request back on, and stands on with its arrays as after reset once its supply is up, when a job that
waited for it starts (R514, R571); a core that is not idle keeps its power (R570, R571, R591), and one that is on, or
not asked on, does not come on. -/
def Obligations.LimitsAndCorePower : Prop :=
  ∀ (s : State) (off : Nat) (v : Word) (n : Fin 8),
    (limitFields off ≠ [] → (∀ p ∈ limitFields off, p.2 ≤ bits v.toNat p.1.hi p.1.lo ∧ bits v.toNat p.1.hi p.1.lo ≤ s.fget p.1) →
      Answers (.limitWrite off v) s fun t => (∀ p ∈ limitFields off, t.fget p.1 = bits v.toNat p.1.hi p.1.lo) ∧
        RegsOnly s t ((limitFields off).map fun p => p.1.off)) ∧
    ((∃ p ∈ limitFields off, s.fget p.1 < bits v.toNat p.1.hi p.1.lo) →
      exec (.limitWrite off v) s = .next (s.raise f_pgEvent_raise_refused)) ∧
    ((∀ p ∈ limitFields off, bits v.toNat p.1.hi p.1.lo ≤ s.fget p.1) →
      limitFields off = [] ∨ (∃ p ∈ limitFields off, bits v.toNat p.1.hi p.1.lo < p.2) → exec (.limitWrite off v) s = .next s) ∧
    (s.coreState n.val = 0 →
      (Answers (.corePowerOff n) s fun t => t.fbit (f_pgCorePwr_off_req n.val) = true ∧ t.fbit (f_pgCorePwr_on n.val) = false ∧
        t.fget (f_pgCoreV_v_mv n.val) = 0 ∧ RegsOnly s t [(f_pgCorePwr_on n.val).off, (f_pgCoreV_v_mv n.val).off]) ∧
      (Answers (.corePowerOn n) s fun t => t.fbit (f_pgCorePwr_off_req n.val) = false ∧
        RegsOnly s t [(f_pgCorePwr_on n.val).off])) ∧
    (s.coreState n.val ≠ 0 → exec (.corePowerOff n) s = .next s ∧ exec (.corePowerOn n) s = .next s) ∧
    (s.fbit (f_pgCorePwr_on n.val) = true ∨ s.fbit (f_pgCorePwr_off_req n.val) = true → exec (.corePowerOnDone n) s = .next s) ∧
    (s.fbit (f_pgCorePwr_on n.val) = false → s.fbit (f_pgCorePwr_off_req n.val) = false →
      ∃ t : State, exec (.corePowerOnDone n) s = .next (t.startNext []) ∧ t.fbit (f_pgCorePwr_on n.val) = true ∧ t.mem = s.mem ∧
        t.sync = s.sync ∧ t.fw = s.fw ∧ ∀ a : Fin 2, t.array n.val a.val = { ArrRt.reset with
          profiles := (s.array n.val a.val).profiles, tables := (s.array n.val a.val).tables })

/-! The always-on controller, the journal and the management port. -/

/-- The watchdog: armed by a write with arm set, with its timeout, and then deaf to further writes; a timeout out of its
range is one in range that the spec leaves open (log entry 2); a kick restarts its count (R614, R626). The
fenced-writes interval that is open closes with its sediment entry (R600). A class is configured within its bounds, and a
write outside them is discarded (R622). AOC_SED_READ shows the slot's entry (R625). The journal: a power failure appends
its entry and flushes the newest; the trickle flush flushes whatever is unflushed; neither while the always-on domain is
in reset; a record that commits becomes durable and the next waiting writer is served; one that the flash refuses is
written once more at the next sector, and given up after that (R604, R607, R611, R612, R628, log entry 27). -/
def Obligations.WatchdogRasAndJournal : Prop :=
  (∀ (s : State) (v : Word) (c : Fin 12),
     (s.fbit f_aocWdog_arm = false → Answers (.watchdogArm v) s fun t => t.fbit f_aocWdog_arm = true ∧ t.aoc.wdogAt = s.aonTicks ∧
       10 ≤ t.fget f_aocWdog_timeout_ms ∧ t.fget f_aocWdog_timeout_ms ≤ 60000 ∧
       (10 ≤ bits v.toNat 16 1 → bits v.toNat 16 1 ≤ 60000 → t.fget f_aocWdog_timeout_ms = bits v.toNat 16 1 ∧ t.fresh = s.fresh) ∧
       t = { s with regs := t.regs, aoc := t.aoc, fresh := t.fresh } ∧ ∀ o, o ≠ f_aocWdog_arm.off → t.rd o = s.rd o) ∧
     (s.fbit f_aocWdog_arm = true → exec (.watchdogArm v) s = .next s) ∧
     (Answers .watchdogKick s fun t => t.aoc.wdogAt = s.aonTicks ∧ t = { s with aoc := { s.aoc with wdogAt := t.aoc.wdogAt } }) ∧
     (s.fenceOpen = none → exec .fencedWritesInterval s = .next s) ∧
     (∀ n, s.fenceOpen = some n → Answers .fencedWritesInterval s fun t => t.fenceOpen = none ∧
       t.sedCount = (s.sedCount + 1) % 2 ^ 64 ∧ t.mem = s.mem ∧ t.sync = s.sync) ∧
     (1 ≤ c.val → 1 ≤ bits v.toNat 11 0 → bits v.toNat 11 0 ≤ 3600 → (c.val ≠ 11 → bits v.toNat 19 12 ≠ 0) →
       Answers (.rasClassCfgWrite c v) s fun t => t.fget (f_rasClassCfg_window_s (c.val - 1)) = bits v.toNat 11 0 ∧
         (c.val ≠ 11 → t.fget (f_rasClassCfg_threshold (c.val - 1)) = bits v.toNat 19 12) ∧
         RegsOnly s t [(f_rasClassCfg_window_s (c.val - 1)).off]) ∧
     (c.val = 0 ∨ bits v.toNat 11 0 = 0 ∨ 3600 < bits v.toNat 11 0 ∨ (c.val ≠ 11 ∧ bits v.toNat 19 12 = 0) →
       exec (.rasClassCfgWrite c v) s = .next s) ∧
     (Answers (.aocSedRead v) s fun t => t.fget f_aocSedRead_slot = bits v.toNat 11 0 ∧
       (∀ i : Fin 4, (t.rd (f_aocSedData_data i.val).off).toNat =
         bits (mapGet (fun _ => (0 : BitVec 128)) s.sediment (bits v.toNat 11 0)).toNat (32 * i.val + 31) (32 * i.val)) ∧
       RegsOnly s t [f_aocSedRead_slot.off, 0x920014, 0x920018, 0x92001C, 0x920020])) ∧
  (∀ (s : State),
     (s.aoc.porst = false → exec .powerFail s = .next ((s.sediment' 0x10 0 0x0042 0).powerFlush) ∧
       exec .trickleFlush s = .next (s.flushAll 0)) ∧
     (s.aoc.porst = true → exec .powerFail s = .next s ∧ exec .trickleFlush s = .next s) ∧
     (s.jrCommit = none → exec (.journalRecordCommit false) s = .next s) ∧
     (∀ a seq s1 s2, s.jrCommit = some (a, seq, s1) → s2 = ({ s1 with jr := { s1.jr with retried := false } } : State) →
       (a.writer ≠ 1 → exec (.journalRecordCommit false) s = .next s2.jrServe) ∧
       (a.writer = 1 → exec (.journalRecordCommit false) s = .next (s2.keyDurable a seq).jrServe)) ∧
     (s.jr.writing = none → exec (.journalRecordCommit true) s = .next s.jrServe) ∧
     (∀ off a, s.jr.writing = some (off, a) →
       (s.jr.retried = false → Answers (.journalRecordCommit true) s fun t => t.fbit f_jrEvent_flash_error = true ∧
         t.jr.retried = true ∧ t.jr.writing = some ((off / 4096 + 1) * 4096, a)) ∧
       (∀ s1, s.jr.retried = true → s1 = s.flag f_jrEvent_flash_error → exec (.journalRecordCommit true) s =
         .next ((({ s1 with jr := { s1.jr with writing := none, retried := false, wp := (off / 4096 + 1) * 4096 } } : State).fput
           f_jrStatus_state 1).jrServe))))

/-- The management port: the AOC takes it over, with an entry where the MP had been released, and the MP takes it
back while its clock runs; a profile opens for an endpoint when the versions meet, and closes otherwise. A request is
served as R616 and R617 say: none in the always-on reset, and none over PCIe while the AOC owns the port; the AOC serves
what is marked here as its own, and answers another with ERROR_NOT_READY; before an open a PLDM request other than MCTP
control is answered ERROR_NOT_READY and a vendor-defined one not at all; a feature that is not granted, or PCIe without
its bit, is answered as unsupported. Each row's answer is the one given here (R615 to R618). The standards' codes are log
entry 26's. -/
def Obligations.ManagementPort : Prop :=
  (∀ (s : State) (eid : BitVec 8) (vdm : Bool) (lo hi : BitVec 8) (caps : Word) (x : BitVec 8),
    (s.aoc.owns = true → exec .aocTakeover s = .next s) ∧
    (s.aoc.owns = false → s.aoc.released = false → exec .aocTakeover s = .next { s with aoc := { s.aoc with owns := true } }) ∧
    (s.aoc.owns = false → s.aoc.released = true →
      Answers .aocTakeover s fun t => t.aoc.owns = true ∧ t.sedCount = (s.sedCount + 1) % 2 ^ 64 ∧ t.mem = s.mem) ∧
    (s.aoc.released = true → s.mpStands = false → exec .mpTakeback s = .next { s with aoc := { s.aoc with owns := false } }) ∧
    (s.aoc.released = false ∨ s.mpStands = true → exec .mpTakeback s = .next s) ∧
    (s.aoc.porst = true ∨ (s.aoc.owns = true ∧ vdm = true) → exec (.profileOpen eid vdm lo hi caps) s = .next s ∧
      exec (.setEndpointId eid vdm x) s = .next s) ∧
    (s.aoc.porst = false → s.aoc.owns = false ∨ vdm = false →
      (lo.toNat ≤ 1 → 1 ≤ hi.toNat → Answers (.profileOpen eid vdm lo hi caps) s fun t =>
        t.profile eid = some (bits caps.toNat 3 0) ∧ (∀ e, e ≠ eid → t.profile e = s.profile e) ∧ t.regs = s.regs ∧ t.mem = s.mem) ∧
      (1 < lo.toNat ∨ hi.toNat < 1 → Answers (.profileOpen eid vdm lo hi caps) s fun t =>
        t.profile eid = none ∧ (∀ e, e ≠ eid → t.profile e = s.profile e) ∧ t.sedCount = (s.sedCount + 1) % 2 ^ 64) ∧
      (x ≠ 0 → x ≠ 0xFF → exec (.setEndpointId eid vdm x) s =
        .next (({ s with aoc := { s.aoc with eid := x.toNat } } : State).answer eid 0 [0, x, 0])) ∧
      (x = 0 ∨ x = 0xFF → exec (.setEndpointId eid vdm x) s = .next (s.answer eid 0x02 [])))) ∧
  (∀ (s : State) (eid : BitVec 8) (vdm own : Bool) (need : MgmtNeed) (code : Nat) (d : List Byte),
    (s.aoc.porst = true ∨ (s.aoc.owns = true ∧ vdm = true) → s.serve eid vdm own need code d = s) ∧
    (s.aoc.porst = false → s.aoc.owns = true → vdm = false → own = false →
      s.serve eid vdm own need code d = s.answer eid 0x04 []) ∧
    (s.aoc.porst = false → s.aoc.owns = false ∨ (vdm = false ∧ own = true) →
      (need = .none → s.serve eid vdm own need code d = s.answer eid code d) ∧
      (∀ c, need = .pldm c → s.profile eid = none → s.serve eid vdm own need code d = s.answer eid 0x04 []) ∧
      (∀ c, need = .vendor c → s.profile eid = none → s.serve eid vdm own need code d = s) ∧
      (∀ c g, need = .pldm (some c) ∨ need = .vendor c → s.profile eid = some g →
        (bit g c = true → (vdm = true → bit g 2 = true) → s.serve eid vdm own need code d = s.answer eid code d) ∧
        (bit g c = false ∨ (vdm = true ∧ bit g 2 = false) → s.serve eid vdm own need code d = s.answer eid 0x05 [])) ∧
      (∀ g, need = .pldm none → s.profile eid = some g →
        ((vdm = true → bit g 2 = true) → s.serve eid vdm own need code d = s.answer eid code d) ∧
        (vdm = true → bit g 2 = false → s.serve eid vdm own need code d = s.answer eid 0x05 [])))) ∧
  (∀ (s : State) (eid : BitVec 8) (vdm : Bool) (x : BitVec 8) (n len first count : Nat),
    exec (.getEndpointId eid vdm) s = .next (s.serve eid vdm true .none 0 (leBytes 1 s.aoc.eid ++ [0, 0])) ∧
    exec (.getEndpointUuid eid vdm) s = .next (s.serve eid vdm true .none 0 ((Config.endpointUuid ++ zeros 16).take 16)) ∧
    (x = 0 ∨ x = 0xFF → exec (.getMctpVersionSupport eid vdm x) s = .next (s.serve eid vdm true .none 0 [1, 0xF1, 0xF3, 0xFF, 0])) ∧
    (x = 1 ∨ x = 5 ∨ x = 0x7E → exec (.getMctpVersionSupport eid vdm x) s =
      .next (s.serve eid vdm true .none 0 (1 :: (List.range 4).map (Config.mctpVersion x.toNat)))) ∧
    (x ≠ 0 → x ≠ 0xFF → x ≠ 1 → x ≠ 5 → x ≠ 0x7E →
      exec (.getMctpVersionSupport eid vdm x) s = .next (s.serve eid vdm true .none 0x80 [])) ∧
    exec (.getMessageTypeSupport eid vdm) s = .next (s.serve eid vdm true .none 0 [3, 0x01, 0x05, 0x7E]) ∧
    (x = 0 → exec (.getVendorDefinedMessageSupport eid vdm x) s =
      .next (s.serve eid vdm true .none 0 (0xFF :: 0 :: beBytes 2 Config.vendorId))) ∧
    (x ≠ 0 → exec (.getVendorDefinedMessageSupport eid vdm x) s = .next (s.serve eid vdm true .none 0x02 [])) ∧
    exec (.getTid eid vdm) s = .next (s.serve eid vdm true (.pldm none) 0 [0]) ∧
    (x = 0 ∨ x = 2 → exec (.getPldmVersion eid vdm x) s =
      .next (s.serve eid vdm true (.pldm none) 0 ((List.range 4).map (Config.pldmVersion x.toNat)))) ∧
    (x ≠ 0 → x ≠ 2 → exec (.getPldmVersion eid vdm x) s = .next (s.serve eid vdm true (.pldm none) 0x83 []) ∧
      exec (.getPldmCommands eid vdm x) s = .next (s.serve eid vdm true (.pldm none) 0x83 [])) ∧
    exec (.getPldmTypes eid vdm) s = .next (s.serve eid vdm true (.pldm none) 0 [5, 0, 0, 0, 0, 0, 0, 0]) ∧
    (x = 0 → exec (.getPldmCommands eid vdm x) s = .next (s.serve eid vdm true (.pldm none) 0 (leBytes 32 0x3C))) ∧
    (x = 2 → exec (.getPldmCommands eid vdm x) s =
      .next (s.serve eid vdm true (.pldm none) 0 (leBytes 32 (2 ^ 4 + 2 ^ 0x0A + 2 ^ 0x11 + 2 ^ 0x21 + 2 ^ 0x50 + 2 ^ 0x51)))) ∧
    (∀ own, own = (decide (1 ≤ n) && decide (n ≤ 4)) →
      (∀ r, s.sensor n = some r → exec (.getSensorReading eid vdm n) s = .next (s.serve eid vdm own (.pldm (some 0)) 0 (leBytes 4 r))) ∧
      (s.sensor n = none → exec (.getSensorReading eid vdm n) s = .next (s.serve eid vdm own (.pldm (some 0)) 0x80 [])) ∧
      exec (.getPdr eid vdm n len) s = .next (s.serve eid vdm own (.pldm (some 0)) 0 ((List.range len).map (Config.pdrByte n)))) ∧
    (∀ r, n = 3 ∨ n = 4 ∨ n = 38 → s.sensor n = some r →
      exec (.getStateSensorReadings eid vdm n) s = .next (s.serve eid vdm false (.pldm (some 0)) 0 (leBytes 4 r))) ∧
    (n ≠ 3 → n ≠ 4 → n ≠ 38 → exec (.getStateSensorReadings eid vdm n) s = .next (s.serve eid vdm false (.pldm (some 0)) 0x80 [])) ∧
    exec (.getPdrRepositoryInfo eid vdm) s = .next (s.serve eid vdm false (.pldm (some 0)) 0 ((List.range 40).map (Config.pdrByte 0))) ∧
    (∀ g, s.aoc.porst = false → s.aoc.owns = false → s.profile eid = some g → bit g 0 = true → (vdm = true → bit g 2 = true) →
      exec (.setEventReceiver eid vdm x) s = .next { s.answer eid 0 [] with evReceiver := some x.toNat }) ∧
    (s.aoc.porst = true ∨ s.aoc.owns = true ∨ (∀ g, s.profile eid = some g → bit g 0 = false ∨ (vdm = true ∧ bit g 2 = false)) →
      exec (.setEventReceiver eid vdm x) s = .next (s.serve eid vdm false (.pldm (some 0)) 0 [])) ∧
    exec (.health eid vdm) s = .next (s.serve eid vdm true (.vendor 3) 0 (leBytes 1 s.healthState ++
      leBytes 4 (s.rd f_rasFailed_cores.off).toNat ++ leBytes 8 s.sedCount ++ leBytes 1 s.lifeFuse)) ∧
    (count = 0 ∨ 8 < count → exec (.sedimentRead eid vdm first count) s = .next (s.serve eid vdm true (.vendor 1) 0x02 [])) ∧
    (∀ i k, 1 ≤ count → count ≤ 8 → i = max first (s.sedCount - 4096) → k = min count (s.sedCount - i) →
      exec (.sedimentRead eid vdm first count) s = .next (s.serve eid vdm true (.vendor 1) 0 (leBytes 8 i ++ leBytes 1 k ++
        (List.range k).flatMap fun j => leBytes 16 (mapGet (fun _ => (0 : BitVec 128)) s.sediment ((i + j) % 4096)).toNat))))

/-! Pads and registers. -/

/-- PIN_MUX: a function the pad lacks is refused, one that another pad carries is a conflict, and a pad in its hold is
busy, each with its flag and the pad as it was; otherwise the pad takes the function and its hold begins, which ends
with switching reading 0, and a side-port transfer that loses its pad ends with its timeout; a write that keeps the
function sets drive and pull alone (R632, R633, R648). A pad that is in no hold has none to end. -/
def Obligations.PinMux : Prop :=
  ∀ (s : State) (n : Fin 64) (v : Word),
    (s.fbit (f_pinMux_switching n.val) = true → Answers (.pinMuxWrite n v) s fun t =>
      t.fbit f_pinEvent_busy = true ∧ RegsOnly { s with out := t.out } t [f_pinEvent_busy.off]) ∧
    (s.fbit (f_pinMux_switching n.val) = false → bits v.toNat 1 0 = 3 ∨ (bits v.toNat 1 0 ≠ 0 ∧ padSignal n.val (bits v.toNat 1 0) = none) →
      Answers (.pinMuxWrite n v) s fun t => t.fbit f_pinEvent_refused = true ∧ RegsOnly { s with out := t.out } t [f_pinEvent_busy.off]) ∧
    (∀ g, s.fbit (f_pinMux_switching n.val) = false → bits v.toNat 1 0 ≠ s.fget (f_pinMux_func n.val) →
      padSignal n.val (bits v.toNat 1 0) = some g → (∃ m : Fin 64, m ≠ n ∧ padSignal m.val (s.fget (f_pinMux_func m.val)) = some g) →
      Answers (.pinMuxWrite n v) s fun t => t.fbit f_pinEvent_conflict = true ∧ RegsOnly { s with out := t.out } t [f_pinEvent_busy.off]) ∧
    (s.fbit (f_pinMux_switching n.val) = false → bits v.toNat 1 0 = s.fget (f_pinMux_func n.val) →
      bits v.toNat 1 0 = 0 ∨ padSignal n.val (bits v.toNat 1 0) ≠ none →
      Answers (.pinMuxWrite n v) s fun t => t.fget (f_pinMux_func n.val) = s.fget (f_pinMux_func n.val) ∧
        t.fget (f_pinMux_drive n.val) = bits v.toNat 3 2 ∧ t.fget (f_pinMux_pull n.val) = bits v.toNat 5 4 ∧
        t.fbit (f_pinMux_switching n.val) = false ∧ RegsOnly s t [(f_pinMux_func n.val).off]) ∧
    (∀ old, s.fbit (f_pinMux_switching n.val) = false → old = s.fget (f_pinMux_func n.val) → bits v.toNat 1 0 ≠ old →
      bits v.toNat 1 0 = 0 ∨ (∃ g, padSignal n.val (bits v.toNat 1 0) = some g ∧
        ∀ m : Fin 64, m ≠ n → padSignal m.val (s.fget (f_pinMux_func m.val)) ≠ some g) →
      ∃ t : State, t.fget (f_pinMux_func n.val) = bits v.toNat 1 0 ∧ t.fget (f_pinMux_drive n.val) = bits v.toNat 3 2 ∧
        t.fget (f_pinMux_pull n.val) = bits v.toNat 5 4 ∧ t.fbit (f_pinMux_switching n.val) = true ∧
        RegsOnly { s with pads := t.pads } t [(f_pinMux_func n.val).off] ∧
        ((∃ x b, s.fw.side = some x ∧ padBus n.val old = some b ∧ x.2 = b) → exec (.pinMuxWrite n v) s = .next t.sideTimeout) ∧
        ((∀ x b, s.fw.side = some x → padBus n.val old = some b → x.2 ≠ b) → exec (.pinMuxWrite n v) s = .next t)) ∧
    (s.fbit (f_pinMux_switching n.val) = false → exec (.padSwitchDone n) s = .next s) ∧
    (s.fbit (f_pinMux_switching n.val) = true → Answers (.padSwitchDone n) s fun t =>
      t.fbit (f_pinMux_switching n.val) = false ∧ RegsOnly { s with pads := t.pads, out := t.out } t [(f_pinMux_func n.val).off])

/-- A register write by a requester that may not write there changes nothing but the host's flag (R475); one that sets
a growth bit is discarded whole, with one GROWTH_OVERFLOW entry (R14); any other does what its register does; one that is
not aligned, or the MP's outside BAR0, does nothing. Pairs (R12): a read of the low word latches the high word for that
requester, and its next read of the high word returns the latch, or the register where there is none; a write of the low
word is held for that requester and a write of the high word commits both, or itself alone where none is held; a growth
bit in either half discards both with one event (R14); the device-time step takes effect as one 64-bit value (R372). SC
reads as zero to the host (R475). -/
def Obligations.RegisterAccesses : Prop :=
  (∀ (s : State) (rq : Requester) (off : Nat) (v : Word),
     (off < 0x4000000 → off % 4 ≠ 0 → exec (.registerWrite rq off v) s = .next s) ∧
     (bar4Base ≤ off → exec (.registerWrite .mp off v) s = .next s ∧ exec (.registerWrite .host off v) s =
       .next (s.bar4 (off - bar4Base) fun s => s.bar4Write (off - bar4Base) v))) ∧
  (∀ (s : State) (rq : Requester) (off : Nat) (v : Word), off < 0x4000000 → off % 4 = 0 → pairKind off = 0 →
     (mayWrite .mp off = false → exec (.registerWrite .mp off v) s = .next s) ∧
     (mayWrite .host off = false → exec (.registerWrite .host off v) s = .next (s.raise f_hiEvent_host_write_refused)) ∧
     (mayWrite rq off = true → growthSet (regStore off) v = true → Answers (.registerWrite rq off v) s fun t =>
       t.fbit f_rasEvent_growth_overflow = true ∧ t.sedCount = (s.sedCount + 1) % 2 ^ 64 ∧ t.mem = s.mem ∧ t.sync = s.sync ∧
         (off < 0x920000 → t.rd off = s.rd off)) ∧
     (mayWrite rq off = true → growthSet (regStore off) v = false →
       (rq = .host ∨ s.mpReport off v = none → exec (.registerWrite rq off v) s = .next (s.regAct off v)) ∧
       (∀ s1, rq = .mp → s.mpReport off v = some s1 → exec (.registerWrite rq off v) s = .next s1))) ∧
  ((∀ (s : State) (rq : Requester) (off : Nat) (v l : Word), off < 0x4000000 → off % 4 = 0 → pairKind off = 1 → pairKind (off + 4) = 2 →
       (¬ (rq = .host ∧ off / 0x10000 = 0x91) →
         (Answers (.pairLowRead rq off) s fun t => t.out = s.out ++ [.readData (leBytes 4 (s.regRead rq off).toNat)] ∧
           mapGet (fun _ => none) t.latches (pairKey rq off) = some (s.regRead rq (off + 4)) ∧ t.regs = s.regs ∧ t.mem = s.mem) ∧
         (mapGet (fun _ => (none : Option Word)) s.latches (pairKey rq off) = some l → Answers (.pairHighRead rq (off + 4)) s fun t =>
           t.out = s.out ++ [.readData (leBytes 4 l.toNat)] ∧ mapGet (fun _ => (none : Option Word)) t.latches (pairKey rq off) = none ∧
             t.regs = s.regs ∧ t.mem = s.mem) ∧
         (mapGet (fun _ => (none : Option Word)) s.latches (pairKey rq off) = none → exec (.pairHighRead rq (off + 4)) s =
           .next (s.emit (.readData (leBytes 4 (s.regRead rq (off + 4)).toNat))))) ∧
       (mayWrite rq off = true → Answers (.pairLowWrite rq off v) s fun t =>
         mapGet (fun _ => none) t.holds (pairKey rq off) = some v ∧ t = { s with holds := t.holds }) ∧
       (mayWrite rq off = false → exec (.pairLowWrite rq off v) s = .next (s.discardWrite rq)) ∧
       (mayWrite rq (off + 4) = false → exec (.pairHighWrite rq (off + 4) v) s = .next (s.discardWrite rq)) ∧
       (∀ h s1, mayWrite rq (off + 4) = true → h = mapGet (fun _ => (none : Option Word)) s.holds (pairKey rq off) →
         s1 = s.setHold (pairKey rq off) none →
         (growthSet (off + 4) v = true ∨ (∃ w, h = some w ∧ growthSet off w = true) →
           exec (.pairHighWrite rq (off + 4) v) s = .next (s1.growthOverflow off)) ∧
         (growthSet (off + 4) v = false → (∀ w, h = some w → growthSet off w = false) →
           (off = f_iaTimeStep_step_lo.off → exec (.pairHighWrite rq (off + 4) v) s =
             .next (s1.timeStep (BitVec.ofNat 64 (v.toNat * 2 ^ 32 + (h.getD 0).toNat)))) ∧
           (off ≠ f_iaTimeStep_step_lo.off → h = none → exec (.pairHighWrite rq (off + 4) v) s = .next (s1.regPut rq (off + 4) v)) ∧
           (∀ w, off ≠ f_iaTimeStep_step_lo.off → h = some w → exec (.pairHighWrite rq (off + 4) v) s =
             .next ((s1.regPut rq off w).regPut rq (off + 4) v))))) ∧
   (∀ (s : State) (off : Nat), off / 0x10000 = 0x91 → exec (.pairLowRead .host off) s = .next (s.emit (.readData [0, 0, 0, 0])) ∧
     exec (.pairHighRead .host off) s = .next (s.emit (.readData [0, 0, 0, 0]))))
end

