-- ==== Sys2Proof/Laws/Sparse.lean ====
section
/-! SUPPORT. What reading, writing and dropping do to the sparse maps: a read after a write, other keys, and the canonical
form. -/

namespace Sys2Proof.Machine

variable {α : Type}

theorem mapGet_erase_same (d : Nat → α) (l : Sparse α) (k : Nat) : mapGet d (mapErase l k) k = d k := by
  induction l with
  | nil => rfl
  | cons p t ih =>
    by_cases h : p.1 = k
    · simpa [mapErase, h] using ih
    · have h' : ¬ k = p.1 := fun e => h e.symm
      simpa [mapErase, h, mapGet, h'] using ih

theorem mapGet_erase_ne (d : Nat → α) (l : Sparse α) {k j : Nat} (h : j ≠ k) :
    mapGet d (mapErase l k) j = mapGet d l j := by
  induction l with
  | nil => rfl
  | cons p t ih =>
    by_cases hk : p.1 = k
    · have hj : ¬ j = p.1 := fun e => h (e.trans hk)
      have e : mapErase (p :: t) k = mapErase t k := by simp [mapErase, hk]
      rw [e, ih]; simp [mapGet, hj]
    · by_cases hj : j = p.1 <;> simp_all [mapErase, mapGet]

/-- What a key reads as after keys are dropped. -/
theorem mapGet_drop (d : Nat → α) (p : Nat → Bool) (l : Sparse α) (k : Nat) :
    mapGet d (mapDrop p l) k = if p k = true then d k else mapGet d l k := by
  induction l with
  | nil => simp [mapDrop, mapGet]
  | cons q t ih =>
    have e : mapDrop p (q :: t) = if p q.1 = true then mapDrop p t else q :: mapDrop p t := by
      by_cases h : p q.1 = true <;> simp [mapDrop, h]
    by_cases h : p q.1 = true
    · rw [e, if_pos h, ih]
      by_cases hk : k = q.1
      · simp [hk, h]
      · simp [mapGet, hk]
    · rw [e, if_neg h]
      by_cases hk : k = q.1
      · simp [mapGet, hk, h]
      · simp only [mapGet, hk, if_false, ih]

variable [DecidableEq α]

/-- A read of the key just written gives the value written. -/
@[simp] theorem mapGet_set_same (d : Nat → α) (l : Sparse α) (k : Nat) (v : α) : mapGet d (mapSet d l k v) k = v := by
  induction l with
  | nil => by_cases h : v = d k <;> simp [mapSet, mapGet, h]
  | cons p t ih =>
    obtain ⟨k', v'⟩ := p
    by_cases h1 : k < k'
    · by_cases h : v = d k
      · simp [mapSet, h1, h, mapGet_erase_same]
      · simp [mapSet, h1, h, mapGet]
    · by_cases h2 : k = k'
      · subst h2
        by_cases h : v = d k
        · simp [mapSet, h, mapGet_erase_same]
        · simp [mapSet, h, mapGet]
      · simp [mapSet, h1, h2, mapGet, ih]

/-- A write leaves every other key as it was. -/
theorem mapGet_set_ne (d : Nat → α) (l : Sparse α) {k j : Nat} (v : α) (h : j ≠ k) :
    mapGet d (mapSet d l k v) j = mapGet d l j := by
  induction l with
  | nil => by_cases hv : v = d k <;> simp [mapSet, mapGet, hv, h]
  | cons p t ih =>
    obtain ⟨k', v'⟩ := p
    by_cases h1 : k < k'
    · by_cases hv : v = d k
      · simp [mapSet, h1, hv, mapGet_erase_ne _ _ h]
      · simp [mapSet, h1, hv, mapGet, h]
    · by_cases h2 : k = k'
      · subst h2
        by_cases hv : v = d k
        · simp [mapSet, hv, mapGet, h, mapGet_erase_ne _ _ h]
        · simp [mapSet, hv, mapGet, h]
      · by_cases hj : j = k' <;> simp [mapSet, h1, h2, mapGet, hj, ih]

/-- What a key reads as after a write. -/
theorem mapGet_set (d : Nat → α) (l : Sparse α) (k j : Nat) (v : α) :
    mapGet d (mapSet d l k v) j = if j = k then v else mapGet d l j := by
  by_cases h : j = k
  · simp [h]
  · simp [h, mapGet_set_ne]

omit [DecidableEq α] in
theorem mapAbove_erase {k : Nat} {l : Sparse α} (h : mapAbove k l = true) (j : Nat) : mapAbove k (mapErase l j) = true := by
  simp only [mapAbove, mapErase, List.all_eq_true, List.mem_filter] at *
  exact fun x hx => h x hx.1

omit [DecidableEq α] in
theorem mapAbove_drop {k : Nat} {l : Sparse α} (h : mapAbove k l = true) (p : Nat → Bool) :
    mapAbove k (mapDrop p l) = true := by
  simp only [mapAbove, mapDrop, List.all_eq_true, List.mem_filter] at *
  exact fun x hx => h x hx.1

/-- Removing keys keeps the canonical form. -/
theorem mapWf_drop (d : Nat → α) {l : Sparse α} (h : mapWf d l = true) (p : Nat → Bool) : mapWf d (mapDrop p l) = true := by
  induction l with
  | nil => rfl
  | cons q t ih =>
    simp only [mapWf, Bool.and_eq_true] at h
    by_cases hp : p q.1 = true
    · simpa [mapDrop, hp] using ih h.2
    · have e : mapDrop p (q :: t) = q :: mapDrop p t := by simp [mapDrop, hp]
      rw [e]
      simp only [mapWf, Bool.and_eq_true]
      exact ⟨⟨h.1.1, mapAbove_drop h.1.2 p⟩, ih h.2⟩

theorem mapWf_erase (d : Nat → α) {l : Sparse α} (h : mapWf d l = true) (k : Nat) : mapWf d (mapErase l k) = true :=
  mapWf_drop d h fun j => j == k

omit [DecidableEq α] in
theorem mapAbove_trans {j k : Nat} {l : Sparse α} (hjk : j < k) (h : mapAbove k l = true) : mapAbove j l = true := by
  simp only [mapAbove, List.all_eq_true, decide_eq_true_eq] at *
  exact fun x hx => lt_trans hjk (h x hx)

theorem mapAbove_set (d : Nat → α) {l : Sparse α} {j k : Nat} (v : α) (hjk : j < k) (h : mapAbove j l = true) :
    mapAbove j (mapSet d l k v) = true := by
  induction l with
  | nil => by_cases hv : v = d k <;> simp [mapSet, mapAbove, hv, hjk]
  | cons p t ih =>
    obtain ⟨k', v'⟩ := p
    have ht : mapAbove j t = true := by simp [mapAbove] at h ⊢; exact h.2
    have hk' : j < k' := by simp [mapAbove] at h; exact h.1
    by_cases h1 : k < k'
    · by_cases hv : v = d k
      · simp only [mapSet, h1, hv, if_true]; exact mapAbove_erase h k
      · simp only [mapSet, h1, hv, if_true, if_false]
        simp [mapAbove] at h ⊢; exact ⟨hjk, h⟩
    · by_cases h2 : k = k'
      · by_cases hv : v = d k
        · simp only [mapSet, h2, lt_irrefl, if_false, if_true]
          rw [if_pos (h2 ▸ hv)]; exact mapAbove_erase ht k'
        · simp only [mapSet, h2, lt_irrefl, if_false, if_true]
          rw [if_neg (h2 ▸ hv)]
          simp [mapAbove] at ht ⊢; exact ⟨hk', ht⟩
      · simp only [mapSet, h1, h2, if_false]
        have := ih ht
        simp [mapAbove] at this ⊢; exact ⟨hk', this⟩

/-- A write keeps the canonical form. -/
theorem mapWf_set (d : Nat → α) {l : Sparse α} (h : mapWf d l = true) (k : Nat) (v : α) :
    mapWf d (mapSet d l k v) = true := by
  induction l with
  | nil => by_cases hv : v = d k <;> simp [mapSet, mapWf, mapAbove, hv]
  | cons p t ih =>
    obtain ⟨k', v'⟩ := p
    have h0 := h
    simp only [mapWf, Bool.and_eq_true, bne_iff_ne] at h
    by_cases h1 : k < k'
    · by_cases hv : v = d k
      · simp only [mapSet, h1, hv, if_true]; exact mapWf_erase d h0 _
      · simp only [mapSet, h1, hv, if_true, if_false, mapWf, Bool.and_eq_true, bne_iff_ne]
        refine ⟨⟨hv, ?_⟩, h⟩
        have := mapAbove_trans h1 h.1.2
        simp [mapAbove] at this ⊢; exact ⟨h1, this⟩
    · by_cases h2 : k = k'
      · by_cases hv : v = d k
        · simp only [mapSet, h1, hv, if_true, if_false, if_pos h2]; exact mapWf_erase d h.2 _
        · simp only [mapSet, h1, if_false, if_pos h2, hv, mapWf, Bool.and_eq_true, bne_iff_ne]
          exact ⟨⟨hv, by simpa [h2] using h.1.2⟩, h.2⟩
      · have h3 : k' < k := by omega
        simp only [mapSet, h1, h2, if_false, mapWf, Bool.and_eq_true, bne_iff_ne]
        exact ⟨⟨h.1.1, mapAbove_set d v h3 h.1.2⟩, ih h.2⟩

end Sys2Proof.Machine
end

