-- ==== Sys2Proof/Laws/State.lean ====
section
/-! SUPPORT. One lemma per field for each update of the state that changes one field, and what the named reads give after
the named writes. -/

namespace Sys2Proof.Machine

/-! wr changes regs alone. -/

@[simp] theorem State.wr_pending (s : State) (o : Nat) (v : Word) : (s.wr o v).pending = s.pending := rfl
@[simp] theorem State.wr_mem (s : State) (o : Nat) (v : Word) : (s.wr o v).mem = s.mem := rfl
@[simp] theorem State.wr_lineTag (s : State) (o : Nat) (v : Word) : (s.wr o v).lineTag = s.lineTag := rfl
@[simp] theorem State.wr_ecc (s : State) (o : Nat) (v : Word) : (s.wr o v).ecc = s.ecc := rfl
@[simp] theorem State.wr_latches (s : State) (o : Nat) (v : Word) : (s.wr o v).latches = s.latches := rfl
@[simp] theorem State.wr_holds (s : State) (o : Nat) (v : Word) : (s.wr o v).holds = s.holds := rfl
@[simp] theorem State.wr_sync (s : State) (o : Nat) (v : Word) : (s.wr o v).sync = s.sync := rfl
@[simp] theorem State.wr_cores (s : State) (o : Nat) (v : Word) : (s.wr o v).cores = s.cores := rfl
@[simp] theorem State.wr_arrays (s : State) (o : Nat) (v : Word) : (s.wr o v).arrays = s.arrays := rfl
@[simp] theorem State.wr_ras (s : State) (o : Nat) (v : Word) : (s.wr o v).ras = s.ras := rfl
@[simp] theorem State.wr_sediment (s : State) (o : Nat) (v : Word) : (s.wr o v).sediment = s.sediment := rfl
@[simp] theorem State.wr_devTime (s : State) (o : Nat) (v : Word) : (s.wr o v).devTime = s.devTime := rfl
@[simp] theorem State.wr_devFrac (s : State) (o : Nat) (v : Word) : (s.wr o v).devFrac = s.devFrac := rfl
@[simp] theorem State.wr_aonTicks (s : State) (o : Nat) (v : Word) : (s.wr o v).aonTicks = s.aonTicks := rfl
@[simp] theorem State.wr_refCount (s : State) (o : Nat) (v : Word) : (s.wr o v).refCount = s.refCount := rfl
@[simp] theorem State.wr_timeRuns (s : State) (o : Nat) (v : Word) : (s.wr o v).timeRuns = s.timeRuns := rfl
@[simp] theorem State.wr_conds (s : State) (o : Nat) (v : Word) : (s.wr o v).conds = s.conds := rfl
@[simp] theorem State.wr_abortNow (s : State) (o : Nat) (v : Word) : (s.wr o v).abortNow = s.abortNow := rfl
@[simp] theorem State.wr_jobCores (s : State) (o : Nat) (v : Word) : (s.wr o v).jobCores = s.jobCores := rfl
@[simp] theorem State.wr_slotGen (s : State) (o : Nat) (v : Word) : (s.wr o v).slotGen = s.slotGen := rfl
@[simp] theorem State.wr_ring (s : State) (o : Nat) (v : Word) : (s.wr o v).ring = s.ring := rfl
@[simp] theorem State.wr_host (s : State) (o : Nat) (v : Word) : (s.wr o v).host = s.host := rfl
@[simp] theorem State.wr_cam (s : State) (o : Nat) (v : Word) : (s.wr o v).cam = s.cam := rfl
@[simp] theorem State.wr_mc (s : State) (o : Nat) (v : Word) : (s.wr o v).mc = s.mc := rfl
@[simp] theorem State.wr_fw (s : State) (o : Nat) (v : Word) : (s.wr o v).fw = s.fw := rfl
@[simp] theorem State.wr_sc (s : State) (o : Nat) (v : Word) : (s.wr o v).sc = s.sc := rfl
@[simp] theorem State.wr_jr (s : State) (o : Nat) (v : Word) : (s.wr o v).jr = s.jr := rfl
@[simp] theorem State.wr_aoc (s : State) (o : Nat) (v : Word) : (s.wr o v).aoc = s.aoc := rfl
@[simp] theorem State.wr_clk (s : State) (o : Nat) (v : Word) : (s.wr o v).clk = s.clk := rfl
@[simp] theorem State.wr_pads (s : State) (o : Nat) (v : Word) : (s.wr o v).pads = s.pads := rfl
@[simp] theorem State.wr_jobRing (s : State) (o : Nat) (v : Word) : (s.wr o v).jobRing = s.jobRing := rfl
@[simp] theorem State.wr_evReceiver (s : State) (o : Nat) (v : Word) : (s.wr o v).evReceiver = s.evReceiver := rfl
@[simp] theorem State.wr_fenceOpen (s : State) (o : Nat) (v : Word) : (s.wr o v).fenceOpen = s.fenceOpen := rfl
@[simp] theorem State.wr_fresh (s : State) (o : Nat) (v : Word) : (s.wr o v).fresh = s.fresh := rfl
@[simp] theorem State.wr_out (s : State) (o : Nat) (v : Word) : (s.wr o v).out = s.out := rfl

/-! fput changes regs alone. -/

@[simp] theorem State.fput_pending (s : State) (f : Fld) (v : Nat) : (s.fput f v).pending = s.pending := rfl
@[simp] theorem State.fput_mem (s : State) (f : Fld) (v : Nat) : (s.fput f v).mem = s.mem := rfl
@[simp] theorem State.fput_lineTag (s : State) (f : Fld) (v : Nat) : (s.fput f v).lineTag = s.lineTag := rfl
@[simp] theorem State.fput_ecc (s : State) (f : Fld) (v : Nat) : (s.fput f v).ecc = s.ecc := rfl
@[simp] theorem State.fput_latches (s : State) (f : Fld) (v : Nat) : (s.fput f v).latches = s.latches := rfl
@[simp] theorem State.fput_holds (s : State) (f : Fld) (v : Nat) : (s.fput f v).holds = s.holds := rfl
@[simp] theorem State.fput_sync (s : State) (f : Fld) (v : Nat) : (s.fput f v).sync = s.sync := rfl
@[simp] theorem State.fput_cores (s : State) (f : Fld) (v : Nat) : (s.fput f v).cores = s.cores := rfl
@[simp] theorem State.fput_arrays (s : State) (f : Fld) (v : Nat) : (s.fput f v).arrays = s.arrays := rfl
@[simp] theorem State.fput_ras (s : State) (f : Fld) (v : Nat) : (s.fput f v).ras = s.ras := rfl
@[simp] theorem State.fput_sediment (s : State) (f : Fld) (v : Nat) : (s.fput f v).sediment = s.sediment := rfl
@[simp] theorem State.fput_devTime (s : State) (f : Fld) (v : Nat) : (s.fput f v).devTime = s.devTime := rfl
@[simp] theorem State.fput_devFrac (s : State) (f : Fld) (v : Nat) : (s.fput f v).devFrac = s.devFrac := rfl
@[simp] theorem State.fput_aonTicks (s : State) (f : Fld) (v : Nat) : (s.fput f v).aonTicks = s.aonTicks := rfl
@[simp] theorem State.fput_refCount (s : State) (f : Fld) (v : Nat) : (s.fput f v).refCount = s.refCount := rfl
@[simp] theorem State.fput_timeRuns (s : State) (f : Fld) (v : Nat) : (s.fput f v).timeRuns = s.timeRuns := rfl
@[simp] theorem State.fput_conds (s : State) (f : Fld) (v : Nat) : (s.fput f v).conds = s.conds := rfl
@[simp] theorem State.fput_abortNow (s : State) (f : Fld) (v : Nat) : (s.fput f v).abortNow = s.abortNow := rfl
@[simp] theorem State.fput_jobCores (s : State) (f : Fld) (v : Nat) : (s.fput f v).jobCores = s.jobCores := rfl
@[simp] theorem State.fput_slotGen (s : State) (f : Fld) (v : Nat) : (s.fput f v).slotGen = s.slotGen := rfl
@[simp] theorem State.fput_ring (s : State) (f : Fld) (v : Nat) : (s.fput f v).ring = s.ring := rfl
@[simp] theorem State.fput_host (s : State) (f : Fld) (v : Nat) : (s.fput f v).host = s.host := rfl
@[simp] theorem State.fput_cam (s : State) (f : Fld) (v : Nat) : (s.fput f v).cam = s.cam := rfl
@[simp] theorem State.fput_mc (s : State) (f : Fld) (v : Nat) : (s.fput f v).mc = s.mc := rfl
@[simp] theorem State.fput_fw (s : State) (f : Fld) (v : Nat) : (s.fput f v).fw = s.fw := rfl
@[simp] theorem State.fput_sc (s : State) (f : Fld) (v : Nat) : (s.fput f v).sc = s.sc := rfl
@[simp] theorem State.fput_jr (s : State) (f : Fld) (v : Nat) : (s.fput f v).jr = s.jr := rfl
@[simp] theorem State.fput_aoc (s : State) (f : Fld) (v : Nat) : (s.fput f v).aoc = s.aoc := rfl
@[simp] theorem State.fput_clk (s : State) (f : Fld) (v : Nat) : (s.fput f v).clk = s.clk := rfl
@[simp] theorem State.fput_pads (s : State) (f : Fld) (v : Nat) : (s.fput f v).pads = s.pads := rfl
@[simp] theorem State.fput_jobRing (s : State) (f : Fld) (v : Nat) : (s.fput f v).jobRing = s.jobRing := rfl
@[simp] theorem State.fput_evReceiver (s : State) (f : Fld) (v : Nat) : (s.fput f v).evReceiver = s.evReceiver := rfl
@[simp] theorem State.fput_fenceOpen (s : State) (f : Fld) (v : Nat) : (s.fput f v).fenceOpen = s.fenceOpen := rfl
@[simp] theorem State.fput_fresh (s : State) (f : Fld) (v : Nat) : (s.fput f v).fresh = s.fresh := rfl
@[simp] theorem State.fput_out (s : State) (f : Fld) (v : Nat) : (s.fput f v).out = s.out := rfl

/-! fput64 changes regs alone. -/

@[simp] theorem State.fput64_pending (s : State) (f : Fld) (v : Nat) : (s.fput64 f v).pending = s.pending := rfl
@[simp] theorem State.fput64_mem (s : State) (f : Fld) (v : Nat) : (s.fput64 f v).mem = s.mem := rfl
@[simp] theorem State.fput64_lineTag (s : State) (f : Fld) (v : Nat) : (s.fput64 f v).lineTag = s.lineTag := rfl
@[simp] theorem State.fput64_ecc (s : State) (f : Fld) (v : Nat) : (s.fput64 f v).ecc = s.ecc := rfl
@[simp] theorem State.fput64_latches (s : State) (f : Fld) (v : Nat) : (s.fput64 f v).latches = s.latches := rfl
@[simp] theorem State.fput64_holds (s : State) (f : Fld) (v : Nat) : (s.fput64 f v).holds = s.holds := rfl
@[simp] theorem State.fput64_sync (s : State) (f : Fld) (v : Nat) : (s.fput64 f v).sync = s.sync := rfl
@[simp] theorem State.fput64_cores (s : State) (f : Fld) (v : Nat) : (s.fput64 f v).cores = s.cores := rfl
@[simp] theorem State.fput64_arrays (s : State) (f : Fld) (v : Nat) : (s.fput64 f v).arrays = s.arrays := rfl
@[simp] theorem State.fput64_ras (s : State) (f : Fld) (v : Nat) : (s.fput64 f v).ras = s.ras := rfl
@[simp] theorem State.fput64_sediment (s : State) (f : Fld) (v : Nat) : (s.fput64 f v).sediment = s.sediment := rfl
@[simp] theorem State.fput64_devTime (s : State) (f : Fld) (v : Nat) : (s.fput64 f v).devTime = s.devTime := rfl
@[simp] theorem State.fput64_devFrac (s : State) (f : Fld) (v : Nat) : (s.fput64 f v).devFrac = s.devFrac := rfl
@[simp] theorem State.fput64_aonTicks (s : State) (f : Fld) (v : Nat) : (s.fput64 f v).aonTicks = s.aonTicks := rfl
@[simp] theorem State.fput64_refCount (s : State) (f : Fld) (v : Nat) : (s.fput64 f v).refCount = s.refCount := rfl
@[simp] theorem State.fput64_timeRuns (s : State) (f : Fld) (v : Nat) : (s.fput64 f v).timeRuns = s.timeRuns := rfl
@[simp] theorem State.fput64_conds (s : State) (f : Fld) (v : Nat) : (s.fput64 f v).conds = s.conds := rfl
@[simp] theorem State.fput64_abortNow (s : State) (f : Fld) (v : Nat) : (s.fput64 f v).abortNow = s.abortNow := rfl
@[simp] theorem State.fput64_jobCores (s : State) (f : Fld) (v : Nat) : (s.fput64 f v).jobCores = s.jobCores := rfl
@[simp] theorem State.fput64_slotGen (s : State) (f : Fld) (v : Nat) : (s.fput64 f v).slotGen = s.slotGen := rfl
@[simp] theorem State.fput64_ring (s : State) (f : Fld) (v : Nat) : (s.fput64 f v).ring = s.ring := rfl
@[simp] theorem State.fput64_host (s : State) (f : Fld) (v : Nat) : (s.fput64 f v).host = s.host := rfl
@[simp] theorem State.fput64_cam (s : State) (f : Fld) (v : Nat) : (s.fput64 f v).cam = s.cam := rfl
@[simp] theorem State.fput64_mc (s : State) (f : Fld) (v : Nat) : (s.fput64 f v).mc = s.mc := rfl
@[simp] theorem State.fput64_fw (s : State) (f : Fld) (v : Nat) : (s.fput64 f v).fw = s.fw := rfl
@[simp] theorem State.fput64_sc (s : State) (f : Fld) (v : Nat) : (s.fput64 f v).sc = s.sc := rfl
@[simp] theorem State.fput64_jr (s : State) (f : Fld) (v : Nat) : (s.fput64 f v).jr = s.jr := rfl
@[simp] theorem State.fput64_aoc (s : State) (f : Fld) (v : Nat) : (s.fput64 f v).aoc = s.aoc := rfl
@[simp] theorem State.fput64_clk (s : State) (f : Fld) (v : Nat) : (s.fput64 f v).clk = s.clk := rfl
@[simp] theorem State.fput64_pads (s : State) (f : Fld) (v : Nat) : (s.fput64 f v).pads = s.pads := rfl
@[simp] theorem State.fput64_jobRing (s : State) (f : Fld) (v : Nat) : (s.fput64 f v).jobRing = s.jobRing := rfl
@[simp] theorem State.fput64_evReceiver (s : State) (f : Fld) (v : Nat) : (s.fput64 f v).evReceiver = s.evReceiver := rfl
@[simp] theorem State.fput64_fenceOpen (s : State) (f : Fld) (v : Nat) : (s.fput64 f v).fenceOpen = s.fenceOpen := rfl
@[simp] theorem State.fput64_fresh (s : State) (f : Fld) (v : Nat) : (s.fput64 f v).fresh = s.fresh := rfl
@[simp] theorem State.fput64_out (s : State) (f : Fld) (v : Nat) : (s.fput64 f v).out = s.out := rfl

/-! fsat changes regs alone. -/

@[simp] theorem State.fsat_pending (s : State) (f : Fld) (n : Nat) : (s.fsat f n).pending = s.pending := rfl
@[simp] theorem State.fsat_mem (s : State) (f : Fld) (n : Nat) : (s.fsat f n).mem = s.mem := rfl
@[simp] theorem State.fsat_lineTag (s : State) (f : Fld) (n : Nat) : (s.fsat f n).lineTag = s.lineTag := rfl
@[simp] theorem State.fsat_ecc (s : State) (f : Fld) (n : Nat) : (s.fsat f n).ecc = s.ecc := rfl
@[simp] theorem State.fsat_latches (s : State) (f : Fld) (n : Nat) : (s.fsat f n).latches = s.latches := rfl
@[simp] theorem State.fsat_holds (s : State) (f : Fld) (n : Nat) : (s.fsat f n).holds = s.holds := rfl
@[simp] theorem State.fsat_sync (s : State) (f : Fld) (n : Nat) : (s.fsat f n).sync = s.sync := rfl
@[simp] theorem State.fsat_cores (s : State) (f : Fld) (n : Nat) : (s.fsat f n).cores = s.cores := rfl
@[simp] theorem State.fsat_arrays (s : State) (f : Fld) (n : Nat) : (s.fsat f n).arrays = s.arrays := rfl
@[simp] theorem State.fsat_ras (s : State) (f : Fld) (n : Nat) : (s.fsat f n).ras = s.ras := rfl
@[simp] theorem State.fsat_sediment (s : State) (f : Fld) (n : Nat) : (s.fsat f n).sediment = s.sediment := rfl
@[simp] theorem State.fsat_devTime (s : State) (f : Fld) (n : Nat) : (s.fsat f n).devTime = s.devTime := rfl
@[simp] theorem State.fsat_devFrac (s : State) (f : Fld) (n : Nat) : (s.fsat f n).devFrac = s.devFrac := rfl
@[simp] theorem State.fsat_aonTicks (s : State) (f : Fld) (n : Nat) : (s.fsat f n).aonTicks = s.aonTicks := rfl
@[simp] theorem State.fsat_refCount (s : State) (f : Fld) (n : Nat) : (s.fsat f n).refCount = s.refCount := rfl
@[simp] theorem State.fsat_timeRuns (s : State) (f : Fld) (n : Nat) : (s.fsat f n).timeRuns = s.timeRuns := rfl
@[simp] theorem State.fsat_conds (s : State) (f : Fld) (n : Nat) : (s.fsat f n).conds = s.conds := rfl
@[simp] theorem State.fsat_abortNow (s : State) (f : Fld) (n : Nat) : (s.fsat f n).abortNow = s.abortNow := rfl
@[simp] theorem State.fsat_jobCores (s : State) (f : Fld) (n : Nat) : (s.fsat f n).jobCores = s.jobCores := rfl
@[simp] theorem State.fsat_slotGen (s : State) (f : Fld) (n : Nat) : (s.fsat f n).slotGen = s.slotGen := rfl
@[simp] theorem State.fsat_ring (s : State) (f : Fld) (n : Nat) : (s.fsat f n).ring = s.ring := rfl
@[simp] theorem State.fsat_host (s : State) (f : Fld) (n : Nat) : (s.fsat f n).host = s.host := rfl
@[simp] theorem State.fsat_cam (s : State) (f : Fld) (n : Nat) : (s.fsat f n).cam = s.cam := rfl
@[simp] theorem State.fsat_mc (s : State) (f : Fld) (n : Nat) : (s.fsat f n).mc = s.mc := rfl
@[simp] theorem State.fsat_fw (s : State) (f : Fld) (n : Nat) : (s.fsat f n).fw = s.fw := rfl
@[simp] theorem State.fsat_sc (s : State) (f : Fld) (n : Nat) : (s.fsat f n).sc = s.sc := rfl
@[simp] theorem State.fsat_jr (s : State) (f : Fld) (n : Nat) : (s.fsat f n).jr = s.jr := rfl
@[simp] theorem State.fsat_aoc (s : State) (f : Fld) (n : Nat) : (s.fsat f n).aoc = s.aoc := rfl
@[simp] theorem State.fsat_clk (s : State) (f : Fld) (n : Nat) : (s.fsat f n).clk = s.clk := rfl
@[simp] theorem State.fsat_pads (s : State) (f : Fld) (n : Nat) : (s.fsat f n).pads = s.pads := rfl
@[simp] theorem State.fsat_jobRing (s : State) (f : Fld) (n : Nat) : (s.fsat f n).jobRing = s.jobRing := rfl
@[simp] theorem State.fsat_evReceiver (s : State) (f : Fld) (n : Nat) : (s.fsat f n).evReceiver = s.evReceiver := rfl
@[simp] theorem State.fsat_fenceOpen (s : State) (f : Fld) (n : Nat) : (s.fsat f n).fenceOpen = s.fenceOpen := rfl
@[simp] theorem State.fsat_fresh (s : State) (f : Fld) (n : Nat) : (s.fsat f n).fresh = s.fresh := rfl
@[simp] theorem State.fsat_out (s : State) (f : Fld) (n : Nat) : (s.fsat f n).out = s.out := rfl

/-! flag changes regs alone. -/

@[simp] theorem State.flag_pending (s : State) (f : Fld) : (s.flag f).pending = s.pending := rfl
@[simp] theorem State.flag_mem (s : State) (f : Fld) : (s.flag f).mem = s.mem := rfl
@[simp] theorem State.flag_lineTag (s : State) (f : Fld) : (s.flag f).lineTag = s.lineTag := rfl
@[simp] theorem State.flag_ecc (s : State) (f : Fld) : (s.flag f).ecc = s.ecc := rfl
@[simp] theorem State.flag_latches (s : State) (f : Fld) : (s.flag f).latches = s.latches := rfl
@[simp] theorem State.flag_holds (s : State) (f : Fld) : (s.flag f).holds = s.holds := rfl
@[simp] theorem State.flag_sync (s : State) (f : Fld) : (s.flag f).sync = s.sync := rfl
@[simp] theorem State.flag_cores (s : State) (f : Fld) : (s.flag f).cores = s.cores := rfl
@[simp] theorem State.flag_arrays (s : State) (f : Fld) : (s.flag f).arrays = s.arrays := rfl
@[simp] theorem State.flag_ras (s : State) (f : Fld) : (s.flag f).ras = s.ras := rfl
@[simp] theorem State.flag_sediment (s : State) (f : Fld) : (s.flag f).sediment = s.sediment := rfl
@[simp] theorem State.flag_devTime (s : State) (f : Fld) : (s.flag f).devTime = s.devTime := rfl
@[simp] theorem State.flag_devFrac (s : State) (f : Fld) : (s.flag f).devFrac = s.devFrac := rfl
@[simp] theorem State.flag_aonTicks (s : State) (f : Fld) : (s.flag f).aonTicks = s.aonTicks := rfl
@[simp] theorem State.flag_refCount (s : State) (f : Fld) : (s.flag f).refCount = s.refCount := rfl
@[simp] theorem State.flag_timeRuns (s : State) (f : Fld) : (s.flag f).timeRuns = s.timeRuns := rfl
@[simp] theorem State.flag_conds (s : State) (f : Fld) : (s.flag f).conds = s.conds := rfl
@[simp] theorem State.flag_abortNow (s : State) (f : Fld) : (s.flag f).abortNow = s.abortNow := rfl
@[simp] theorem State.flag_jobCores (s : State) (f : Fld) : (s.flag f).jobCores = s.jobCores := rfl
@[simp] theorem State.flag_slotGen (s : State) (f : Fld) : (s.flag f).slotGen = s.slotGen := rfl
@[simp] theorem State.flag_ring (s : State) (f : Fld) : (s.flag f).ring = s.ring := rfl
@[simp] theorem State.flag_host (s : State) (f : Fld) : (s.flag f).host = s.host := rfl
@[simp] theorem State.flag_cam (s : State) (f : Fld) : (s.flag f).cam = s.cam := rfl
@[simp] theorem State.flag_mc (s : State) (f : Fld) : (s.flag f).mc = s.mc := rfl
@[simp] theorem State.flag_fw (s : State) (f : Fld) : (s.flag f).fw = s.fw := rfl
@[simp] theorem State.flag_sc (s : State) (f : Fld) : (s.flag f).sc = s.sc := rfl
@[simp] theorem State.flag_jr (s : State) (f : Fld) : (s.flag f).jr = s.jr := rfl
@[simp] theorem State.flag_aoc (s : State) (f : Fld) : (s.flag f).aoc = s.aoc := rfl
@[simp] theorem State.flag_clk (s : State) (f : Fld) : (s.flag f).clk = s.clk := rfl
@[simp] theorem State.flag_pads (s : State) (f : Fld) : (s.flag f).pads = s.pads := rfl
@[simp] theorem State.flag_jobRing (s : State) (f : Fld) : (s.flag f).jobRing = s.jobRing := rfl
@[simp] theorem State.flag_evReceiver (s : State) (f : Fld) : (s.flag f).evReceiver = s.evReceiver := rfl
@[simp] theorem State.flag_fenceOpen (s : State) (f : Fld) : (s.flag f).fenceOpen = s.fenceOpen := rfl
@[simp] theorem State.flag_fresh (s : State) (f : Fld) : (s.flag f).fresh = s.fresh := rfl
@[simp] theorem State.flag_out (s : State) (f : Fld) : (s.flag f).out = s.out := rfl

/-! emit changes out alone. -/

@[simp] theorem State.emit_pending (s : State) (o : Output) : (s.emit o).pending = s.pending := rfl
@[simp] theorem State.emit_mem (s : State) (o : Output) : (s.emit o).mem = s.mem := rfl
@[simp] theorem State.emit_lineTag (s : State) (o : Output) : (s.emit o).lineTag = s.lineTag := rfl
@[simp] theorem State.emit_ecc (s : State) (o : Output) : (s.emit o).ecc = s.ecc := rfl
@[simp] theorem State.emit_regs (s : State) (o : Output) : (s.emit o).regs = s.regs := rfl
@[simp] theorem State.emit_latches (s : State) (o : Output) : (s.emit o).latches = s.latches := rfl
@[simp] theorem State.emit_holds (s : State) (o : Output) : (s.emit o).holds = s.holds := rfl
@[simp] theorem State.emit_sync (s : State) (o : Output) : (s.emit o).sync = s.sync := rfl
@[simp] theorem State.emit_cores (s : State) (o : Output) : (s.emit o).cores = s.cores := rfl
@[simp] theorem State.emit_arrays (s : State) (o : Output) : (s.emit o).arrays = s.arrays := rfl
@[simp] theorem State.emit_ras (s : State) (o : Output) : (s.emit o).ras = s.ras := rfl
@[simp] theorem State.emit_sediment (s : State) (o : Output) : (s.emit o).sediment = s.sediment := rfl
@[simp] theorem State.emit_devTime (s : State) (o : Output) : (s.emit o).devTime = s.devTime := rfl
@[simp] theorem State.emit_devFrac (s : State) (o : Output) : (s.emit o).devFrac = s.devFrac := rfl
@[simp] theorem State.emit_aonTicks (s : State) (o : Output) : (s.emit o).aonTicks = s.aonTicks := rfl
@[simp] theorem State.emit_refCount (s : State) (o : Output) : (s.emit o).refCount = s.refCount := rfl
@[simp] theorem State.emit_timeRuns (s : State) (o : Output) : (s.emit o).timeRuns = s.timeRuns := rfl
@[simp] theorem State.emit_conds (s : State) (o : Output) : (s.emit o).conds = s.conds := rfl
@[simp] theorem State.emit_abortNow (s : State) (o : Output) : (s.emit o).abortNow = s.abortNow := rfl
@[simp] theorem State.emit_jobCores (s : State) (o : Output) : (s.emit o).jobCores = s.jobCores := rfl
@[simp] theorem State.emit_slotGen (s : State) (o : Output) : (s.emit o).slotGen = s.slotGen := rfl
@[simp] theorem State.emit_ring (s : State) (o : Output) : (s.emit o).ring = s.ring := rfl
@[simp] theorem State.emit_host (s : State) (o : Output) : (s.emit o).host = s.host := rfl
@[simp] theorem State.emit_cam (s : State) (o : Output) : (s.emit o).cam = s.cam := rfl
@[simp] theorem State.emit_mc (s : State) (o : Output) : (s.emit o).mc = s.mc := rfl
@[simp] theorem State.emit_fw (s : State) (o : Output) : (s.emit o).fw = s.fw := rfl
@[simp] theorem State.emit_sc (s : State) (o : Output) : (s.emit o).sc = s.sc := rfl
@[simp] theorem State.emit_jr (s : State) (o : Output) : (s.emit o).jr = s.jr := rfl
@[simp] theorem State.emit_aoc (s : State) (o : Output) : (s.emit o).aoc = s.aoc := rfl
@[simp] theorem State.emit_clk (s : State) (o : Output) : (s.emit o).clk = s.clk := rfl
@[simp] theorem State.emit_pads (s : State) (o : Output) : (s.emit o).pads = s.pads := rfl
@[simp] theorem State.emit_jobRing (s : State) (o : Output) : (s.emit o).jobRing = s.jobRing := rfl
@[simp] theorem State.emit_evReceiver (s : State) (o : Output) : (s.emit o).evReceiver = s.evReceiver := rfl
@[simp] theorem State.emit_fenceOpen (s : State) (o : Output) : (s.emit o).fenceOpen = s.fenceOpen := rfl
@[simp] theorem State.emit_fresh (s : State) (o : Output) : (s.emit o).fresh = s.fresh := rfl

/-! setCore changes cores alone. -/

@[simp] theorem State.setCore_pending (s : State) (n : Nat) (c : CoreRt) : (s.setCore n c).pending = s.pending := rfl
@[simp] theorem State.setCore_mem (s : State) (n : Nat) (c : CoreRt) : (s.setCore n c).mem = s.mem := rfl
@[simp] theorem State.setCore_lineTag (s : State) (n : Nat) (c : CoreRt) : (s.setCore n c).lineTag = s.lineTag := rfl
@[simp] theorem State.setCore_ecc (s : State) (n : Nat) (c : CoreRt) : (s.setCore n c).ecc = s.ecc := rfl
@[simp] theorem State.setCore_regs (s : State) (n : Nat) (c : CoreRt) : (s.setCore n c).regs = s.regs := rfl
@[simp] theorem State.setCore_latches (s : State) (n : Nat) (c : CoreRt) : (s.setCore n c).latches = s.latches := rfl
@[simp] theorem State.setCore_holds (s : State) (n : Nat) (c : CoreRt) : (s.setCore n c).holds = s.holds := rfl
@[simp] theorem State.setCore_sync (s : State) (n : Nat) (c : CoreRt) : (s.setCore n c).sync = s.sync := rfl
@[simp] theorem State.setCore_arrays (s : State) (n : Nat) (c : CoreRt) : (s.setCore n c).arrays = s.arrays := rfl
@[simp] theorem State.setCore_ras (s : State) (n : Nat) (c : CoreRt) : (s.setCore n c).ras = s.ras := rfl
@[simp] theorem State.setCore_sediment (s : State) (n : Nat) (c : CoreRt) : (s.setCore n c).sediment = s.sediment := rfl
@[simp] theorem State.setCore_devTime (s : State) (n : Nat) (c : CoreRt) : (s.setCore n c).devTime = s.devTime := rfl
@[simp] theorem State.setCore_devFrac (s : State) (n : Nat) (c : CoreRt) : (s.setCore n c).devFrac = s.devFrac := rfl
@[simp] theorem State.setCore_aonTicks (s : State) (n : Nat) (c : CoreRt) : (s.setCore n c).aonTicks = s.aonTicks := rfl
@[simp] theorem State.setCore_refCount (s : State) (n : Nat) (c : CoreRt) : (s.setCore n c).refCount = s.refCount := rfl
@[simp] theorem State.setCore_timeRuns (s : State) (n : Nat) (c : CoreRt) : (s.setCore n c).timeRuns = s.timeRuns := rfl
@[simp] theorem State.setCore_conds (s : State) (n : Nat) (c : CoreRt) : (s.setCore n c).conds = s.conds := rfl
@[simp] theorem State.setCore_abortNow (s : State) (n : Nat) (c : CoreRt) : (s.setCore n c).abortNow = s.abortNow := rfl
@[simp] theorem State.setCore_jobCores (s : State) (n : Nat) (c : CoreRt) : (s.setCore n c).jobCores = s.jobCores := rfl
@[simp] theorem State.setCore_slotGen (s : State) (n : Nat) (c : CoreRt) : (s.setCore n c).slotGen = s.slotGen := rfl
@[simp] theorem State.setCore_ring (s : State) (n : Nat) (c : CoreRt) : (s.setCore n c).ring = s.ring := rfl
@[simp] theorem State.setCore_host (s : State) (n : Nat) (c : CoreRt) : (s.setCore n c).host = s.host := rfl
@[simp] theorem State.setCore_cam (s : State) (n : Nat) (c : CoreRt) : (s.setCore n c).cam = s.cam := rfl
@[simp] theorem State.setCore_mc (s : State) (n : Nat) (c : CoreRt) : (s.setCore n c).mc = s.mc := rfl
@[simp] theorem State.setCore_fw (s : State) (n : Nat) (c : CoreRt) : (s.setCore n c).fw = s.fw := rfl
@[simp] theorem State.setCore_sc (s : State) (n : Nat) (c : CoreRt) : (s.setCore n c).sc = s.sc := rfl
@[simp] theorem State.setCore_jr (s : State) (n : Nat) (c : CoreRt) : (s.setCore n c).jr = s.jr := rfl
@[simp] theorem State.setCore_aoc (s : State) (n : Nat) (c : CoreRt) : (s.setCore n c).aoc = s.aoc := rfl
@[simp] theorem State.setCore_clk (s : State) (n : Nat) (c : CoreRt) : (s.setCore n c).clk = s.clk := rfl
@[simp] theorem State.setCore_pads (s : State) (n : Nat) (c : CoreRt) : (s.setCore n c).pads = s.pads := rfl
@[simp] theorem State.setCore_jobRing (s : State) (n : Nat) (c : CoreRt) : (s.setCore n c).jobRing = s.jobRing := rfl
@[simp] theorem State.setCore_evReceiver (s : State) (n : Nat) (c : CoreRt) : (s.setCore n c).evReceiver = s.evReceiver := rfl
@[simp] theorem State.setCore_fenceOpen (s : State) (n : Nat) (c : CoreRt) : (s.setCore n c).fenceOpen = s.fenceOpen := rfl
@[simp] theorem State.setCore_fresh (s : State) (n : Nat) (c : CoreRt) : (s.setCore n c).fresh = s.fresh := rfl
@[simp] theorem State.setCore_out (s : State) (n : Nat) (c : CoreRt) : (s.setCore n c).out = s.out := rfl

/-! setArray changes arrays alone. -/

@[simp] theorem State.setArray_pending (s : State) (n a : Nat) (r : ArrRt) : (s.setArray n a r).pending = s.pending := rfl
@[simp] theorem State.setArray_mem (s : State) (n a : Nat) (r : ArrRt) : (s.setArray n a r).mem = s.mem := rfl
@[simp] theorem State.setArray_lineTag (s : State) (n a : Nat) (r : ArrRt) : (s.setArray n a r).lineTag = s.lineTag := rfl
@[simp] theorem State.setArray_ecc (s : State) (n a : Nat) (r : ArrRt) : (s.setArray n a r).ecc = s.ecc := rfl
@[simp] theorem State.setArray_regs (s : State) (n a : Nat) (r : ArrRt) : (s.setArray n a r).regs = s.regs := rfl
@[simp] theorem State.setArray_latches (s : State) (n a : Nat) (r : ArrRt) : (s.setArray n a r).latches = s.latches := rfl
@[simp] theorem State.setArray_holds (s : State) (n a : Nat) (r : ArrRt) : (s.setArray n a r).holds = s.holds := rfl
@[simp] theorem State.setArray_sync (s : State) (n a : Nat) (r : ArrRt) : (s.setArray n a r).sync = s.sync := rfl
@[simp] theorem State.setArray_cores (s : State) (n a : Nat) (r : ArrRt) : (s.setArray n a r).cores = s.cores := rfl
@[simp] theorem State.setArray_ras (s : State) (n a : Nat) (r : ArrRt) : (s.setArray n a r).ras = s.ras := rfl
@[simp] theorem State.setArray_sediment (s : State) (n a : Nat) (r : ArrRt) : (s.setArray n a r).sediment = s.sediment := rfl
@[simp] theorem State.setArray_devTime (s : State) (n a : Nat) (r : ArrRt) : (s.setArray n a r).devTime = s.devTime := rfl
@[simp] theorem State.setArray_devFrac (s : State) (n a : Nat) (r : ArrRt) : (s.setArray n a r).devFrac = s.devFrac := rfl
@[simp] theorem State.setArray_aonTicks (s : State) (n a : Nat) (r : ArrRt) : (s.setArray n a r).aonTicks = s.aonTicks := rfl
@[simp] theorem State.setArray_refCount (s : State) (n a : Nat) (r : ArrRt) : (s.setArray n a r).refCount = s.refCount := rfl
@[simp] theorem State.setArray_timeRuns (s : State) (n a : Nat) (r : ArrRt) : (s.setArray n a r).timeRuns = s.timeRuns := rfl
@[simp] theorem State.setArray_conds (s : State) (n a : Nat) (r : ArrRt) : (s.setArray n a r).conds = s.conds := rfl
@[simp] theorem State.setArray_abortNow (s : State) (n a : Nat) (r : ArrRt) : (s.setArray n a r).abortNow = s.abortNow := rfl
@[simp] theorem State.setArray_jobCores (s : State) (n a : Nat) (r : ArrRt) : (s.setArray n a r).jobCores = s.jobCores := rfl
@[simp] theorem State.setArray_slotGen (s : State) (n a : Nat) (r : ArrRt) : (s.setArray n a r).slotGen = s.slotGen := rfl
@[simp] theorem State.setArray_ring (s : State) (n a : Nat) (r : ArrRt) : (s.setArray n a r).ring = s.ring := rfl
@[simp] theorem State.setArray_host (s : State) (n a : Nat) (r : ArrRt) : (s.setArray n a r).host = s.host := rfl
@[simp] theorem State.setArray_cam (s : State) (n a : Nat) (r : ArrRt) : (s.setArray n a r).cam = s.cam := rfl
@[simp] theorem State.setArray_mc (s : State) (n a : Nat) (r : ArrRt) : (s.setArray n a r).mc = s.mc := rfl
@[simp] theorem State.setArray_fw (s : State) (n a : Nat) (r : ArrRt) : (s.setArray n a r).fw = s.fw := rfl
@[simp] theorem State.setArray_sc (s : State) (n a : Nat) (r : ArrRt) : (s.setArray n a r).sc = s.sc := rfl
@[simp] theorem State.setArray_jr (s : State) (n a : Nat) (r : ArrRt) : (s.setArray n a r).jr = s.jr := rfl
@[simp] theorem State.setArray_aoc (s : State) (n a : Nat) (r : ArrRt) : (s.setArray n a r).aoc = s.aoc := rfl
@[simp] theorem State.setArray_clk (s : State) (n a : Nat) (r : ArrRt) : (s.setArray n a r).clk = s.clk := rfl
@[simp] theorem State.setArray_pads (s : State) (n a : Nat) (r : ArrRt) : (s.setArray n a r).pads = s.pads := rfl
@[simp] theorem State.setArray_jobRing (s : State) (n a : Nat) (r : ArrRt) : (s.setArray n a r).jobRing = s.jobRing := rfl
@[simp] theorem State.setArray_evReceiver (s : State) (n a : Nat) (r : ArrRt) : (s.setArray n a r).evReceiver = s.evReceiver := rfl
@[simp] theorem State.setArray_fenceOpen (s : State) (n a : Nat) (r : ArrRt) : (s.setArray n a r).fenceOpen = s.fenceOpen := rfl
@[simp] theorem State.setArray_fresh (s : State) (n a : Nat) (r : ArrRt) : (s.setArray n a r).fresh = s.fresh := rfl
@[simp] theorem State.setArray_out (s : State) (n a : Nat) (r : ArrRt) : (s.setArray n a r).out = s.out := rfl

/-! setByte changes mem alone. -/

@[simp] theorem State.setByte_pending (s : State) (a : Nat) (b : Byte) : (s.setByte a b).pending = s.pending := rfl
@[simp] theorem State.setByte_lineTag (s : State) (a : Nat) (b : Byte) : (s.setByte a b).lineTag = s.lineTag := rfl
@[simp] theorem State.setByte_ecc (s : State) (a : Nat) (b : Byte) : (s.setByte a b).ecc = s.ecc := rfl
@[simp] theorem State.setByte_regs (s : State) (a : Nat) (b : Byte) : (s.setByte a b).regs = s.regs := rfl
@[simp] theorem State.setByte_latches (s : State) (a : Nat) (b : Byte) : (s.setByte a b).latches = s.latches := rfl
@[simp] theorem State.setByte_holds (s : State) (a : Nat) (b : Byte) : (s.setByte a b).holds = s.holds := rfl
@[simp] theorem State.setByte_sync (s : State) (a : Nat) (b : Byte) : (s.setByte a b).sync = s.sync := rfl
@[simp] theorem State.setByte_cores (s : State) (a : Nat) (b : Byte) : (s.setByte a b).cores = s.cores := rfl
@[simp] theorem State.setByte_arrays (s : State) (a : Nat) (b : Byte) : (s.setByte a b).arrays = s.arrays := rfl
@[simp] theorem State.setByte_ras (s : State) (a : Nat) (b : Byte) : (s.setByte a b).ras = s.ras := rfl
@[simp] theorem State.setByte_sediment (s : State) (a : Nat) (b : Byte) : (s.setByte a b).sediment = s.sediment := rfl
@[simp] theorem State.setByte_devTime (s : State) (a : Nat) (b : Byte) : (s.setByte a b).devTime = s.devTime := rfl
@[simp] theorem State.setByte_devFrac (s : State) (a : Nat) (b : Byte) : (s.setByte a b).devFrac = s.devFrac := rfl
@[simp] theorem State.setByte_aonTicks (s : State) (a : Nat) (b : Byte) : (s.setByte a b).aonTicks = s.aonTicks := rfl
@[simp] theorem State.setByte_refCount (s : State) (a : Nat) (b : Byte) : (s.setByte a b).refCount = s.refCount := rfl
@[simp] theorem State.setByte_timeRuns (s : State) (a : Nat) (b : Byte) : (s.setByte a b).timeRuns = s.timeRuns := rfl
@[simp] theorem State.setByte_conds (s : State) (a : Nat) (b : Byte) : (s.setByte a b).conds = s.conds := rfl
@[simp] theorem State.setByte_abortNow (s : State) (a : Nat) (b : Byte) : (s.setByte a b).abortNow = s.abortNow := rfl
@[simp] theorem State.setByte_jobCores (s : State) (a : Nat) (b : Byte) : (s.setByte a b).jobCores = s.jobCores := rfl
@[simp] theorem State.setByte_slotGen (s : State) (a : Nat) (b : Byte) : (s.setByte a b).slotGen = s.slotGen := rfl
@[simp] theorem State.setByte_ring (s : State) (a : Nat) (b : Byte) : (s.setByte a b).ring = s.ring := rfl
@[simp] theorem State.setByte_host (s : State) (a : Nat) (b : Byte) : (s.setByte a b).host = s.host := rfl
@[simp] theorem State.setByte_cam (s : State) (a : Nat) (b : Byte) : (s.setByte a b).cam = s.cam := rfl
@[simp] theorem State.setByte_mc (s : State) (a : Nat) (b : Byte) : (s.setByte a b).mc = s.mc := rfl
@[simp] theorem State.setByte_fw (s : State) (a : Nat) (b : Byte) : (s.setByte a b).fw = s.fw := rfl
@[simp] theorem State.setByte_sc (s : State) (a : Nat) (b : Byte) : (s.setByte a b).sc = s.sc := rfl
@[simp] theorem State.setByte_jr (s : State) (a : Nat) (b : Byte) : (s.setByte a b).jr = s.jr := rfl
@[simp] theorem State.setByte_aoc (s : State) (a : Nat) (b : Byte) : (s.setByte a b).aoc = s.aoc := rfl
@[simp] theorem State.setByte_clk (s : State) (a : Nat) (b : Byte) : (s.setByte a b).clk = s.clk := rfl
@[simp] theorem State.setByte_pads (s : State) (a : Nat) (b : Byte) : (s.setByte a b).pads = s.pads := rfl
@[simp] theorem State.setByte_jobRing (s : State) (a : Nat) (b : Byte) : (s.setByte a b).jobRing = s.jobRing := rfl
@[simp] theorem State.setByte_evReceiver (s : State) (a : Nat) (b : Byte) : (s.setByte a b).evReceiver = s.evReceiver := rfl
@[simp] theorem State.setByte_fenceOpen (s : State) (a : Nat) (b : Byte) : (s.setByte a b).fenceOpen = s.fenceOpen := rfl
@[simp] theorem State.setByte_fresh (s : State) (a : Nat) (b : Byte) : (s.setByte a b).fresh = s.fresh := rfl
@[simp] theorem State.setByte_out (s : State) (a : Nat) (b : Byte) : (s.setByte a b).out = s.out := rfl

/-! setEcc changes ecc alone. -/

@[simp] theorem State.setEcc_pending (s : State) (a : Nat) (m : BitVec 72) : (s.setEcc a m).pending = s.pending := rfl
@[simp] theorem State.setEcc_mem (s : State) (a : Nat) (m : BitVec 72) : (s.setEcc a m).mem = s.mem := rfl
@[simp] theorem State.setEcc_lineTag (s : State) (a : Nat) (m : BitVec 72) : (s.setEcc a m).lineTag = s.lineTag := rfl
@[simp] theorem State.setEcc_regs (s : State) (a : Nat) (m : BitVec 72) : (s.setEcc a m).regs = s.regs := rfl
@[simp] theorem State.setEcc_latches (s : State) (a : Nat) (m : BitVec 72) : (s.setEcc a m).latches = s.latches := rfl
@[simp] theorem State.setEcc_holds (s : State) (a : Nat) (m : BitVec 72) : (s.setEcc a m).holds = s.holds := rfl
@[simp] theorem State.setEcc_sync (s : State) (a : Nat) (m : BitVec 72) : (s.setEcc a m).sync = s.sync := rfl
@[simp] theorem State.setEcc_cores (s : State) (a : Nat) (m : BitVec 72) : (s.setEcc a m).cores = s.cores := rfl
@[simp] theorem State.setEcc_arrays (s : State) (a : Nat) (m : BitVec 72) : (s.setEcc a m).arrays = s.arrays := rfl
@[simp] theorem State.setEcc_ras (s : State) (a : Nat) (m : BitVec 72) : (s.setEcc a m).ras = s.ras := rfl
@[simp] theorem State.setEcc_sediment (s : State) (a : Nat) (m : BitVec 72) : (s.setEcc a m).sediment = s.sediment := rfl
@[simp] theorem State.setEcc_devTime (s : State) (a : Nat) (m : BitVec 72) : (s.setEcc a m).devTime = s.devTime := rfl
@[simp] theorem State.setEcc_devFrac (s : State) (a : Nat) (m : BitVec 72) : (s.setEcc a m).devFrac = s.devFrac := rfl
@[simp] theorem State.setEcc_aonTicks (s : State) (a : Nat) (m : BitVec 72) : (s.setEcc a m).aonTicks = s.aonTicks := rfl
@[simp] theorem State.setEcc_refCount (s : State) (a : Nat) (m : BitVec 72) : (s.setEcc a m).refCount = s.refCount := rfl
@[simp] theorem State.setEcc_timeRuns (s : State) (a : Nat) (m : BitVec 72) : (s.setEcc a m).timeRuns = s.timeRuns := rfl
@[simp] theorem State.setEcc_conds (s : State) (a : Nat) (m : BitVec 72) : (s.setEcc a m).conds = s.conds := rfl
@[simp] theorem State.setEcc_abortNow (s : State) (a : Nat) (m : BitVec 72) : (s.setEcc a m).abortNow = s.abortNow := rfl
@[simp] theorem State.setEcc_jobCores (s : State) (a : Nat) (m : BitVec 72) : (s.setEcc a m).jobCores = s.jobCores := rfl
@[simp] theorem State.setEcc_slotGen (s : State) (a : Nat) (m : BitVec 72) : (s.setEcc a m).slotGen = s.slotGen := rfl
@[simp] theorem State.setEcc_ring (s : State) (a : Nat) (m : BitVec 72) : (s.setEcc a m).ring = s.ring := rfl
@[simp] theorem State.setEcc_host (s : State) (a : Nat) (m : BitVec 72) : (s.setEcc a m).host = s.host := rfl
@[simp] theorem State.setEcc_cam (s : State) (a : Nat) (m : BitVec 72) : (s.setEcc a m).cam = s.cam := rfl
@[simp] theorem State.setEcc_mc (s : State) (a : Nat) (m : BitVec 72) : (s.setEcc a m).mc = s.mc := rfl
@[simp] theorem State.setEcc_fw (s : State) (a : Nat) (m : BitVec 72) : (s.setEcc a m).fw = s.fw := rfl
@[simp] theorem State.setEcc_sc (s : State) (a : Nat) (m : BitVec 72) : (s.setEcc a m).sc = s.sc := rfl
@[simp] theorem State.setEcc_jr (s : State) (a : Nat) (m : BitVec 72) : (s.setEcc a m).jr = s.jr := rfl
@[simp] theorem State.setEcc_aoc (s : State) (a : Nat) (m : BitVec 72) : (s.setEcc a m).aoc = s.aoc := rfl
@[simp] theorem State.setEcc_clk (s : State) (a : Nat) (m : BitVec 72) : (s.setEcc a m).clk = s.clk := rfl
@[simp] theorem State.setEcc_pads (s : State) (a : Nat) (m : BitVec 72) : (s.setEcc a m).pads = s.pads := rfl
@[simp] theorem State.setEcc_jobRing (s : State) (a : Nat) (m : BitVec 72) : (s.setEcc a m).jobRing = s.jobRing := rfl
@[simp] theorem State.setEcc_evReceiver (s : State) (a : Nat) (m : BitVec 72) : (s.setEcc a m).evReceiver = s.evReceiver := rfl
@[simp] theorem State.setEcc_fenceOpen (s : State) (a : Nat) (m : BitVec 72) : (s.setEcc a m).fenceOpen = s.fenceOpen := rfl
@[simp] theorem State.setEcc_fresh (s : State) (a : Nat) (m : BitVec 72) : (s.setEcc a m).fresh = s.fresh := rfl
@[simp] theorem State.setEcc_out (s : State) (a : Nat) (m : BitVec 72) : (s.setEcc a m).out = s.out := rfl

/-! setObject changes sync alone. -/

@[simp] theorem State.setObject_pending (s : State) (o : Nat) (v : Word) : (s.setObject o v).pending = s.pending := rfl
@[simp] theorem State.setObject_mem (s : State) (o : Nat) (v : Word) : (s.setObject o v).mem = s.mem := rfl
@[simp] theorem State.setObject_lineTag (s : State) (o : Nat) (v : Word) : (s.setObject o v).lineTag = s.lineTag := rfl
@[simp] theorem State.setObject_ecc (s : State) (o : Nat) (v : Word) : (s.setObject o v).ecc = s.ecc := rfl
@[simp] theorem State.setObject_regs (s : State) (o : Nat) (v : Word) : (s.setObject o v).regs = s.regs := rfl
@[simp] theorem State.setObject_latches (s : State) (o : Nat) (v : Word) : (s.setObject o v).latches = s.latches := rfl
@[simp] theorem State.setObject_holds (s : State) (o : Nat) (v : Word) : (s.setObject o v).holds = s.holds := rfl
@[simp] theorem State.setObject_cores (s : State) (o : Nat) (v : Word) : (s.setObject o v).cores = s.cores := rfl
@[simp] theorem State.setObject_arrays (s : State) (o : Nat) (v : Word) : (s.setObject o v).arrays = s.arrays := rfl
@[simp] theorem State.setObject_ras (s : State) (o : Nat) (v : Word) : (s.setObject o v).ras = s.ras := rfl
@[simp] theorem State.setObject_sediment (s : State) (o : Nat) (v : Word) : (s.setObject o v).sediment = s.sediment := rfl
@[simp] theorem State.setObject_devTime (s : State) (o : Nat) (v : Word) : (s.setObject o v).devTime = s.devTime := rfl
@[simp] theorem State.setObject_devFrac (s : State) (o : Nat) (v : Word) : (s.setObject o v).devFrac = s.devFrac := rfl
@[simp] theorem State.setObject_aonTicks (s : State) (o : Nat) (v : Word) : (s.setObject o v).aonTicks = s.aonTicks := rfl
@[simp] theorem State.setObject_refCount (s : State) (o : Nat) (v : Word) : (s.setObject o v).refCount = s.refCount := rfl
@[simp] theorem State.setObject_timeRuns (s : State) (o : Nat) (v : Word) : (s.setObject o v).timeRuns = s.timeRuns := rfl
@[simp] theorem State.setObject_conds (s : State) (o : Nat) (v : Word) : (s.setObject o v).conds = s.conds := rfl
@[simp] theorem State.setObject_abortNow (s : State) (o : Nat) (v : Word) : (s.setObject o v).abortNow = s.abortNow := rfl
@[simp] theorem State.setObject_jobCores (s : State) (o : Nat) (v : Word) : (s.setObject o v).jobCores = s.jobCores := rfl
@[simp] theorem State.setObject_slotGen (s : State) (o : Nat) (v : Word) : (s.setObject o v).slotGen = s.slotGen := rfl
@[simp] theorem State.setObject_ring (s : State) (o : Nat) (v : Word) : (s.setObject o v).ring = s.ring := rfl
@[simp] theorem State.setObject_host (s : State) (o : Nat) (v : Word) : (s.setObject o v).host = s.host := rfl
@[simp] theorem State.setObject_cam (s : State) (o : Nat) (v : Word) : (s.setObject o v).cam = s.cam := rfl
@[simp] theorem State.setObject_mc (s : State) (o : Nat) (v : Word) : (s.setObject o v).mc = s.mc := rfl
@[simp] theorem State.setObject_fw (s : State) (o : Nat) (v : Word) : (s.setObject o v).fw = s.fw := rfl
@[simp] theorem State.setObject_sc (s : State) (o : Nat) (v : Word) : (s.setObject o v).sc = s.sc := rfl
@[simp] theorem State.setObject_jr (s : State) (o : Nat) (v : Word) : (s.setObject o v).jr = s.jr := rfl
@[simp] theorem State.setObject_aoc (s : State) (o : Nat) (v : Word) : (s.setObject o v).aoc = s.aoc := rfl
@[simp] theorem State.setObject_clk (s : State) (o : Nat) (v : Word) : (s.setObject o v).clk = s.clk := rfl
@[simp] theorem State.setObject_pads (s : State) (o : Nat) (v : Word) : (s.setObject o v).pads = s.pads := rfl
@[simp] theorem State.setObject_jobRing (s : State) (o : Nat) (v : Word) : (s.setObject o v).jobRing = s.jobRing := rfl
@[simp] theorem State.setObject_evReceiver (s : State) (o : Nat) (v : Word) : (s.setObject o v).evReceiver = s.evReceiver := rfl
@[simp] theorem State.setObject_fenceOpen (s : State) (o : Nat) (v : Word) : (s.setObject o v).fenceOpen = s.fenceOpen := rfl
@[simp] theorem State.setObject_fresh (s : State) (o : Nat) (v : Word) : (s.setObject o v).fresh = s.fresh := rfl
@[simp] theorem State.setObject_out (s : State) (o : Nat) (v : Word) : (s.setObject o v).out = s.out := rfl

/-! signalObj changes sync alone. -/

@[simp] theorem State.signalObj_pending (s : State) (o : Nat) (v : Word) : (s.signalObj o v).pending = s.pending := rfl
@[simp] theorem State.signalObj_mem (s : State) (o : Nat) (v : Word) : (s.signalObj o v).mem = s.mem := rfl
@[simp] theorem State.signalObj_lineTag (s : State) (o : Nat) (v : Word) : (s.signalObj o v).lineTag = s.lineTag := rfl
@[simp] theorem State.signalObj_ecc (s : State) (o : Nat) (v : Word) : (s.signalObj o v).ecc = s.ecc := rfl
@[simp] theorem State.signalObj_regs (s : State) (o : Nat) (v : Word) : (s.signalObj o v).regs = s.regs := rfl
@[simp] theorem State.signalObj_latches (s : State) (o : Nat) (v : Word) : (s.signalObj o v).latches = s.latches := rfl
@[simp] theorem State.signalObj_holds (s : State) (o : Nat) (v : Word) : (s.signalObj o v).holds = s.holds := rfl
@[simp] theorem State.signalObj_cores (s : State) (o : Nat) (v : Word) : (s.signalObj o v).cores = s.cores := rfl
@[simp] theorem State.signalObj_arrays (s : State) (o : Nat) (v : Word) : (s.signalObj o v).arrays = s.arrays := rfl
@[simp] theorem State.signalObj_ras (s : State) (o : Nat) (v : Word) : (s.signalObj o v).ras = s.ras := rfl
@[simp] theorem State.signalObj_sediment (s : State) (o : Nat) (v : Word) : (s.signalObj o v).sediment = s.sediment := rfl
@[simp] theorem State.signalObj_devTime (s : State) (o : Nat) (v : Word) : (s.signalObj o v).devTime = s.devTime := rfl
@[simp] theorem State.signalObj_devFrac (s : State) (o : Nat) (v : Word) : (s.signalObj o v).devFrac = s.devFrac := rfl
@[simp] theorem State.signalObj_aonTicks (s : State) (o : Nat) (v : Word) : (s.signalObj o v).aonTicks = s.aonTicks := rfl
@[simp] theorem State.signalObj_refCount (s : State) (o : Nat) (v : Word) : (s.signalObj o v).refCount = s.refCount := rfl
@[simp] theorem State.signalObj_timeRuns (s : State) (o : Nat) (v : Word) : (s.signalObj o v).timeRuns = s.timeRuns := rfl
@[simp] theorem State.signalObj_conds (s : State) (o : Nat) (v : Word) : (s.signalObj o v).conds = s.conds := rfl
@[simp] theorem State.signalObj_abortNow (s : State) (o : Nat) (v : Word) : (s.signalObj o v).abortNow = s.abortNow := rfl
@[simp] theorem State.signalObj_jobCores (s : State) (o : Nat) (v : Word) : (s.signalObj o v).jobCores = s.jobCores := rfl
@[simp] theorem State.signalObj_slotGen (s : State) (o : Nat) (v : Word) : (s.signalObj o v).slotGen = s.slotGen := rfl
@[simp] theorem State.signalObj_ring (s : State) (o : Nat) (v : Word) : (s.signalObj o v).ring = s.ring := rfl
@[simp] theorem State.signalObj_host (s : State) (o : Nat) (v : Word) : (s.signalObj o v).host = s.host := rfl
@[simp] theorem State.signalObj_cam (s : State) (o : Nat) (v : Word) : (s.signalObj o v).cam = s.cam := rfl
@[simp] theorem State.signalObj_mc (s : State) (o : Nat) (v : Word) : (s.signalObj o v).mc = s.mc := rfl
@[simp] theorem State.signalObj_fw (s : State) (o : Nat) (v : Word) : (s.signalObj o v).fw = s.fw := rfl
@[simp] theorem State.signalObj_sc (s : State) (o : Nat) (v : Word) : (s.signalObj o v).sc = s.sc := rfl
@[simp] theorem State.signalObj_jr (s : State) (o : Nat) (v : Word) : (s.signalObj o v).jr = s.jr := rfl
@[simp] theorem State.signalObj_aoc (s : State) (o : Nat) (v : Word) : (s.signalObj o v).aoc = s.aoc := rfl
@[simp] theorem State.signalObj_clk (s : State) (o : Nat) (v : Word) : (s.signalObj o v).clk = s.clk := rfl
@[simp] theorem State.signalObj_pads (s : State) (o : Nat) (v : Word) : (s.signalObj o v).pads = s.pads := rfl
@[simp] theorem State.signalObj_jobRing (s : State) (o : Nat) (v : Word) : (s.signalObj o v).jobRing = s.jobRing := rfl
@[simp] theorem State.signalObj_evReceiver (s : State) (o : Nat) (v : Word) : (s.signalObj o v).evReceiver = s.evReceiver := rfl
@[simp] theorem State.signalObj_fenceOpen (s : State) (o : Nat) (v : Word) : (s.signalObj o v).fenceOpen = s.fenceOpen := rfl
@[simp] theorem State.signalObj_fresh (s : State) (o : Nat) (v : Word) : (s.signalObj o v).fresh = s.fresh := rfl
@[simp] theorem State.signalObj_out (s : State) (o : Nat) (v : Word) : (s.signalObj o v).out = s.out := rfl

/-! Bytes: every field but memory is left by a run of stores. -/

theorem State.setBytes_eq (s : State) (a : Nat) (d : List Byte) : s.setBytes a d = { s with mem := (s.setBytes a d).mem } := by
  induction d generalizing s a with
  | nil => rfl
  | cons b t ih =>
    simp only [State.setBytes]
    rw [ih]
    rfl

/-! Registers. -/

@[simp] theorem State.rd_wr_same (s : State) (o : Nat) (v : Word) : (s.wr o v).rd o = v := by
  simp [State.rd, State.wr]

theorem State.rd_wr_ne (s : State) {o p : Nat} (v : Word) (h : p ≠ o) : (s.wr o v).rd p = s.rd p := by
  simp [State.rd, State.wr, mapGet_set_ne _ _ _ h]

/-- A register write leaves the fields of every other register. -/
theorem State.fget_wr_ne (s : State) {o : Nat} (v : Word) {f : Fld} (h : f.off ≠ o) : (s.wr o v).fget f = s.fget f := by
  simp [State.fget, State.rd_wr_ne _ _ h]

theorem State.rd_fput_ne (s : State) {f : Fld} {p : Nat} (v : Nat) (h : p ≠ f.off) : (s.fput f v).rd p = s.rd p :=
  State.rd_wr_ne _ _ h

/-- A field write leaves the fields of every other register. -/
theorem State.fget_fput_off (s : State) {f g : Fld} (v : Nat) (h : g.off ≠ f.off) : (s.fput f v).fget g = s.fget g :=
  State.fget_wr_ne _ _ h

/-! Bit fields. -/

theorem bits_lt (x hi lo : Nat) : bits x hi lo < 2 ^ (hi + 1 - lo) := Nat.mod_lt _ (by positivity)

/-- A number as the part above a field, the field, and the part below. -/
theorem split_bits (x : Nat) {hi lo : Nat} (h : lo ≤ hi) :
    x = x / 2 ^ (hi + 1) * 2 ^ (hi + 1) + bits x hi lo * 2 ^ lo + x % 2 ^ lo := by
  have e : 2 ^ (hi + 1) = 2 ^ lo * 2 ^ (hi + 1 - lo) := by rw [← pow_add]; congr 1; omega
  have h1 := Nat.div_add_mod x (2 ^ lo)
  have h2 := Nat.div_add_mod (x / 2 ^ lo) (2 ^ (hi + 1 - lo))
  rw [Nat.div_div_eq_div_mul, ← e] at h2
  have h3 : x / 2 ^ (hi + 1) * 2 ^ (hi + 1) = 2 ^ lo * (2 ^ (hi + 1 - lo) * (x / 2 ^ (hi + 1))) := by rw [e]; ring
  have h4 : bits x hi lo * 2 ^ lo = 2 ^ lo * (x / 2 ^ lo % 2 ^ (hi + 1 - lo)) := by simp [bits, Nat.mul_comm]
  rw [h3, h4, ← Nat.mul_add, h2, h1]

theorem setBits_eq (x v : Nat) {hi lo : Nat} (h : lo ≤ hi) :
    setBits x hi lo v = x / 2 ^ (hi + 1) * 2 ^ (hi + 1) + v % 2 ^ (hi + 1 - lo) * 2 ^ lo + x % 2 ^ lo := by
  have := split_bits x h
  simp only [setBits]
  omega

/-- A field just written reads as the value written, cut to the field. -/
theorem bits_setBits_same (x v : Nat) {hi lo : Nat} (h : lo ≤ hi) :
    bits (setBits x hi lo v) hi lo = v % 2 ^ (hi + 1 - lo) := by
  rw [setBits_eq x v h]
  have e : 2 ^ (hi + 1) = 2 ^ (hi + 1 - lo) * 2 ^ lo := by rw [← pow_add]; congr 1; omega
  have hlo : x % 2 ^ lo < 2 ^ lo := Nat.mod_lt _ (by positivity)
  have e2 : x / 2 ^ (hi + 1) * 2 ^ (hi + 1) + v % 2 ^ (hi + 1 - lo) * 2 ^ lo + x % 2 ^ lo =
      x % 2 ^ lo + 2 ^ lo * (v % 2 ^ (hi + 1 - lo) + 2 ^ (hi + 1 - lo) * (x / 2 ^ (hi + 1))) := by rw [e]; ring
  rw [e2, bits, Nat.add_mul_div_left _ _ (by positivity), Nat.div_eq_of_lt hlo, Nat.zero_add,
    Nat.add_mul_mod_self_left, Nat.mod_mod]

theorem setBits_lt (x v : Nat) {hi lo n : Nat} (h : lo ≤ hi) (hn : hi < n) (hx : x < 2 ^ n) : setBits x hi lo v < 2 ^ n := by
  rw [setBits_eq x v h]
  have e : 2 ^ n = 2 ^ (n - (hi + 1)) * 2 ^ (hi + 1) := by rw [← pow_add]; congr 1; omega
  have e1 : 2 ^ (hi + 1) = 2 ^ (hi + 1 - lo) * 2 ^ lo := by rw [← pow_add]; congr 1; omega
  have hlo : x % 2 ^ lo < 2 ^ lo := Nat.mod_lt _ (by positivity)
  have hv : v % 2 ^ (hi + 1 - lo) + 1 ≤ 2 ^ (hi + 1 - lo) := Nat.mod_lt _ (by positivity)
  have hd : x / 2 ^ (hi + 1) + 1 ≤ 2 ^ (n - (hi + 1)) := by
    have : x / 2 ^ (hi + 1) < 2 ^ (n - (hi + 1)) := Nat.div_lt_of_lt_mul (by rw [Nat.mul_comm, ← e]; exact hx)
    omega
  have m1 := Nat.mul_le_mul_right (2 ^ lo) hv
  have m2 := Nat.mul_le_mul_right (2 ^ (hi + 1)) hd
  rw [← e] at m2
  rw [← e1] at m1
  nlinarith

/-- A field of a register just written reads as the value written, cut to the field. -/
theorem State.fget_fput_same (s : State) (f : Fld) (v : Nat) (h : f.lo ≤ f.hi) (h31 : f.hi < 32) :
    (s.fput f v).fget f = v % 2 ^ (f.hi + 1 - f.lo) := by
  simp only [State.fget, State.fput, State.rd_wr_same, BitVec.toNat_ofNat]
  rw [Nat.mod_eq_of_lt (setBits_lt _ _ h h31 (s.rd f.off).isLt), bits_setBits_same _ _ h]

/-- A field write leaves the other fields of its register. -/
theorem bits_setBits_above (x v : Nat) {hi lo hi' lo' : Nat} (h : lo ≤ hi) (h2 : hi < lo') :
    bits (setBits x hi lo v) hi' lo' = bits x hi' lo' := by
  have key : setBits x hi lo v / 2 ^ (hi + 1) = x / 2 ^ (hi + 1) := by
    rw [setBits_eq x v h]
    have e1 : 2 ^ (hi + 1) = 2 ^ (hi + 1 - lo) * 2 ^ lo := by rw [← pow_add]; congr 1; omega
    have hlo : x % 2 ^ lo < 2 ^ lo := Nat.mod_lt _ (by positivity)
    have hv : v % 2 ^ (hi + 1 - lo) + 1 ≤ 2 ^ (hi + 1 - lo) := Nat.mod_lt _ (by positivity)
    have m1 := Nat.mul_le_mul_right (2 ^ lo) hv
    rw [← e1] at m1
    have hs : v % 2 ^ (hi + 1 - lo) * 2 ^ lo + x % 2 ^ lo < 2 ^ (hi + 1) := by nlinarith
    rw [Nat.add_assoc, Nat.add_comm, Nat.add_mul_div_right _ _ (by positivity), Nat.div_eq_of_lt hs, Nat.zero_add]
  have e : 2 ^ lo' = 2 ^ (hi + 1) * 2 ^ (lo' - (hi + 1)) := by rw [← pow_add]; congr 1; omega
  simp only [bits, e, ← Nat.div_div_eq_div_mul, key]

theorem bits_setBits_below (x v : Nat) {hi lo hi' lo' : Nat} (h : lo ≤ hi) (h1 : lo' ≤ hi') (h2 : hi' < lo) :
    bits (setBits x hi lo v) hi' lo' = bits x hi' lo' := by
  have key : setBits x hi lo v % 2 ^ lo = x % 2 ^ lo := by
    rw [setBits_eq x v h]
    have e1 : 2 ^ (hi + 1) = 2 ^ lo * 2 ^ (hi + 1 - lo) := by rw [← pow_add]; congr 1; omega
    have e2 : x / 2 ^ (hi + 1) * 2 ^ (hi + 1) + v % 2 ^ (hi + 1 - lo) * 2 ^ lo + x % 2 ^ lo =
        x % 2 ^ lo + 2 ^ lo * (x / 2 ^ (hi + 1) * 2 ^ (hi + 1 - lo) + v % 2 ^ (hi + 1 - lo)) := by rw [e1]; ring
    rw [e2, Nat.add_mul_mod_self_left, Nat.mod_mod]
  have red : ∀ y, bits y hi' lo' = bits (y % 2 ^ lo) hi' lo' := by
    intro y
    have e : 2 ^ lo = 2 ^ lo' * 2 ^ (lo - lo') := by rw [← pow_add]; congr 1; omega
    simp only [bits]
    rw [e, Nat.mod_mul_right_div_self, Nat.mod_mod_of_dvd]
    exact pow_dvd_pow 2 (by omega)
  rw [red, key, ← red]

/-- A field write leaves every other field: of another register, or above or below it in its own. -/
theorem State.fget_fput_ne (s : State) (f g : Fld) (v : Nat) (hf : f.lo ≤ f.hi) (h31 : f.hi < 32) (hg : g.lo ≤ g.hi)
    (h : g.off ≠ f.off ∨ f.hi < g.lo ∨ g.hi < f.lo) : (s.fput f v).fget g = s.fget g := by
  by_cases ho : g.off = f.off
  · simp only [State.fget, State.fput, ho, State.rd_wr_same, BitVec.toNat_ofNat]
    rw [Nat.mod_eq_of_lt (setBits_lt _ _ hf h31 (s.rd f.off).isLt)]
    rcases h with h | h | h
    · exact absurd ho h
    · exact bits_setBits_above _ _ hf h
    · exact bits_setBits_below _ _ hf hg h
  · exact State.fget_fput_off _ _ ho

/-! Memory, sync objects, cores, outputs. -/

@[simp] theorem State.byte_setByte_same (s : State) (a : Nat) (b : Byte) : (s.setByte a b).byte a = b := by
  simp [State.byte, State.setByte]

theorem State.byte_setByte_ne (s : State) {a c : Nat} (b : Byte) (h : c ≠ a) : (s.setByte a b).byte c = s.byte c := by
  simp [State.byte, State.setByte, mapGet_set_ne _ _ _ h]

/-- A run of stores leaves every byte outside it. -/
theorem State.byte_setBytes_out (s : State) (a c : Nat) (d : List Byte) (h : c < a ∨ a + d.length ≤ c) :
    (s.setBytes a d).byte c = s.byte c := by
  induction d generalizing s a with
  | nil => rfl
  | cons b t ih =>
    simp only [List.length_cons] at h
    rw [State.setBytes, ih _ _ (by omega), State.byte_setByte_ne _ _ (by omega)]

/-- A run of stores puts each byte where it belongs. -/
theorem State.byte_setBytes_in (s : State) (a i : Nat) (d : List Byte) (h : i < d.length) :
    (s.setBytes a d).byte (a + i) = d[i] := by
  induction d generalizing s a i with
  | nil => simp at h
  | cons b t ih =>
    cases i with
    | zero => rw [State.setBytes, State.byte_setBytes_out _ _ _ _ (by omega)]; simp
    | succ i =>
      have := ih (s.setByte a b) (a + 1) i (by simpa using h)
      rw [State.setBytes, show a + (i + 1) = a + 1 + i by omega, this]; rfl

@[simp] theorem State.obj_setObject_same (s : State) (o : Nat) (v : Word) : (s.setObject o v).obj o = v := by
  simp [State.obj, State.setObject]

theorem State.obj_setObject_ne (s : State) {o p : Nat} (v : Word) (h : p ≠ o) : (s.setObject o v).obj p = s.obj p := by
  simp [State.obj, State.setObject, mapGet_set_ne _ _ _ h]

@[simp] theorem State.core_setCore_same (s : State) (n : Nat) (c : CoreRt) : (s.setCore n c).core n = c := by
  simp [State.core, State.setCore]

theorem State.core_setCore_ne (s : State) {n m : Nat} (c : CoreRt) (h : m ≠ n) : (s.setCore n c).core m = s.core m := by
  simp [State.core, State.setCore, mapGet_set_ne _ _ _ h]

/-! The canonical form of memory. -/

theorem memWf_setByte (s : State) (a : Nat) (b : Byte) (h : memWf s.mem = true) : memWf (s.setByte a b).mem = true :=
  mapWf_set _ h a b

theorem memWf_setBytes (s : State) (a : Nat) (d : List Byte) (h : memWf s.mem = true) : memWf (s.setBytes a d).mem = true := by
  induction d generalizing s a with
  | nil => exact h
  | cons b t ih => exact ih _ _ (memWf_setByte s a b h)

theorem memWf_clearRange (s : State) (a n : Nat) (h : memWf s.mem = true) : memWf (s.clearRange a n).mem = true :=
  mapWf_drop _ h fun k => decide (a ≤ k) && decide (k < a + n)

end Sys2Proof.Machine
end

