-- ==== Sys2Proof/Laws/Keeps.lean ====
section
/-! SUPPORT. What every step keeps, operation by operation: the waiting commands, the canonical form, the fuses. -/

namespace Sys2Proof.Machine

/-- From `s` to `t` the queue is the same, the canonical form is kept, and no fuse is lost. -/
structure Keeps (s t : State) : Prop where
  pending : t.pending = s.pending
  canonical : s.Canonical → t.Canonical
  fused : ∀ life count, s.FusedTo life count → t.FusedTo life count

theorem Keeps.refl (s : State) : Keeps s s := ⟨rfl, id, fun _ _ => id⟩

theorem Keeps.trans {s t u : State} (h : Keeps s t) (h' : Keeps t u) : Keeps s u :=
  ⟨h'.pending.trans h.pending, fun c => h'.canonical (h.canonical c), fun l n c => h'.fused l n (h.fused l n c)⟩

/-- Fields other than these seven may change at will. -/
theorem Keeps.upd {s t : State} (h : Keeps s t) {lineTag : Sparse Nat} {latches : Sparse (Option Word)} {holds : Sparse (Option Word)} {cores : Sparse CoreRt} {arrays : Sparse ArrRt} {ras : Sparse RasUnit} {sediment : Sparse (BitVec 128)} {devTime : DWord} {devFrac : Word} {aonTicks : Nat} {refCount : Nat} {timeRuns : Bool} {conds : List JobCond} {abortNow : Bool} {jobCores : Nat} {slotGen : Sparse Nat} {ring : RingRt} {host : HostRt} {cam : CamRt} {mc : McRt} {fw : FwRt} {sc : ScRt} {jr : JrRt} {aoc : AocRt} {clk : ClkRt} {pads : Sparse Nat} {jobRing : Bool} {evReceiver : Option Nat} {fenceOpen : Option Nat} {fresh : Nat} {out : List Output}
    (hl : sc.lifeBlown = t.sc.lifeBlown) (hc : sc.svBlown = t.sc.svBlown) :
    Keeps s ⟨t.pending, t.mem, lineTag, t.ecc, t.regs, latches, holds, t.sync, cores, arrays, ras, sediment, devTime, devFrac, aonTicks, refCount, timeRuns, conds, abortNow, jobCores, slotGen, ring, host, cam, mc, fw, sc, jr, aoc, clk, pads, jobRing, evReceiver, fenceOpen, fresh, out⟩ :=
  ⟨h.pending, h.canonical, fun l n c => by
    have := h.fused l n c
    simp only [State.FusedTo] at this ⊢
    rw [hl, hc]; exact this⟩

theorem Keeps.ite {s t u : State} {c : Prop} [Decidable c] (ht : Keeps s t) (hu : Keeps s u) : Keeps s (if c then t else u) := by
  split <;> assumption

theorem Keeps.foldl {α : Type} {s t : State} {f : State → α → State} {l : List α} (h : Keeps s t)
    (hf : ∀ u x, Keeps s u → Keeps s (f u x)) : Keeps s (l.foldl f t) := by
  induction l generalizing t with
  | nil => exact h
  | cons x l ih => exact ih (hf t x h)

theorem Keeps.foldl_of {α β : Type} (pr : β → State) {s : State} {b : β} {f : β → α → β} {l : List α} (h : Keeps s (pr b))
    (hf : ∀ c x, Keeps s (pr c) → Keeps s (pr (f c x))) : Keeps s (pr (l.foldl f b)) := by
  induction l generalizing b with
  | nil => exact h
  | cons x l ih => exact ih (hf b x h)

theorem Keeps.foldl_fst {α β : Type} {s : State} {b : State × β} {f : State × β → α → State × β} {l : List α}
    (h : Keeps s b.1) (hf : ∀ c x, Keeps s c.1 → Keeps s (f c x).1) : Keeps s (l.foldl f b).1 :=
  Keeps.foldl_of Prod.fst h hf

theorem Keeps.foldl_snd {α β : Type} {s : State} {b : β × State} {f : β × State → α → β × State} {l : List α}
    (h : Keeps s b.2) (hf : ∀ c x, Keeps s c.2 → Keeps s (f c x).2) : Keeps s (l.foldl f b).2 :=
  Keeps.foldl_of Prod.snd h hf

theorem Keeps.foldl_third {α β γ : Type} {s : State} {b : β × γ × State} {f : β × γ × State → α → β × γ × State} {l : List α}
    (h : Keeps s b.2.2) (hf : ∀ c x, Keeps s c.2.2 → Keeps s (f c x).2.2) : Keeps s (l.foldl f b).2.2 :=
  Keeps.foldl_of (fun x : β × γ × State => x.2.2) h hf

/-- An outcome whose next state, if it is one, keeps all of it. -/
structure KeepsO (s : State) (o : Host.Outcome State Fault Refusal) : Prop where
  keeps : ∀ t, o = .next t → Keeps s t

theorem KeepsO.next {s t : State} (h : Keeps s t) : KeepsO s (.next t) := ⟨fun _ e => by cases e; exact h⟩

theorem KeepsO.ite {s : State} {c : Prop} [Decidable c] {o p : Host.Outcome State Fault Refusal} (ho : KeepsO s o)
    (hp : KeepsO s p) : KeepsO s (if c then o else p) := by
  split <;> assumption

/-- An answer that may be absent: where it is there, its state keeps all of it. -/
structure KeepsSome {α : Type} (f : α → State) (s : State) (o : Option α) : Prop where
  keeps : ∀ a, o = some a → Keeps s (f a)

theorem KeepsSome.none {α : Type} {f : α → State} {s : State} : KeepsSome f s none := ⟨fun _ e => by cases e⟩

theorem KeepsSome.some {α : Type} {f : α → State} {s : State} {a : α} (h : Keeps s (f a)) : KeepsSome f s (some a) :=
  ⟨fun _ e => by cases e; exact h⟩

theorem KeepsSome.ite {α : Type} {f : α → State} {s : State} {c : Prop} [Decidable c] {o p : Option α} (ho : KeepsSome f s o)
    (hp : KeepsSome f s p) : KeepsSome f s (if c then o else p) := by
  split <;> assumption

theorem KeepsSome.bind {α β : Type} {f : α → State} {g : β → State} {s : State} {o : Option β} {k : β → Option α}
    (ho : KeepsSome g s o) (hk : ∀ b, Keeps s (g b) → KeepsSome f s (k b)) : KeepsSome f s (o.bind k) := by
  refine ⟨fun a e => ?_⟩
  cases o with
  | none => cases e
  | some b => exact (hk b (ho.keeps b rfl)).keeps a e

theorem KeepsSome.map {α β : Type} {f : α → State} {g : β → State} {s : State} {o : Option β} {k : β → α}
    (ho : KeepsSome g s o) (hk : ∀ b, Keeps s (g b) → Keeps s (f (k b))) : KeepsSome f s (o.map k) := by
  refine ⟨fun a e => ?_⟩
  cases o with
  | none => cases e
  | some b => cases e; exact hk b (ho.keeps b rfl)

theorem KeepsSome.foldl {α β : Type} {f : α → State} {s : State} {o : Option α} {k : Option α → β → Option α} {l : List β}
    (ho : KeepsSome f s o) (hk : ∀ p x, KeepsSome f s p → KeepsSome f s (k p x)) : KeepsSome f s (l.foldl k o) := by
  induction l generalizing o with
  | nil => exact ho
  | cons x l ih => exact ih (hk o x ho)

/-! The five places that change what is kept. -/

theorem State.wr_keeps {s t : State} (h : Keeps s t) (o : Nat) (v : Word) : Keeps s (t.wr o v) :=
  ⟨h.pending, fun c => let d := h.canonical c; ⟨d.1, mapWf_set _ d.2.1 _ _, d.2.2⟩, h.fused⟩

theorem State.setByte_keeps {s t : State} (h : Keeps s t) (a : Nat) (b : Byte) : Keeps s (t.setByte a b) :=
  ⟨h.pending, fun c => let d := h.canonical c; ⟨mapWf_set _ d.1 _ _, d.2⟩, h.fused⟩

theorem State.setEcc_keeps {s t : State} (h : Keeps s t) (a : Nat) (m : BitVec 72) : Keeps s (t.setEcc a m) :=
  ⟨h.pending, fun c => let d := h.canonical c; ⟨d.1, d.2.1, d.2.2.1, mapWf_set _ d.2.2.2 _ _⟩, h.fused⟩

theorem State.setObject_keeps {s t : State} (h : Keeps s t) (o : Nat) (v : Word) : Keeps s (t.setObject o v) :=
  ⟨h.pending, fun c => let d := h.canonical c; ⟨d.1, d.2.1, mapWf_set _ d.2.2.1 _ _, d.2.2.2⟩, h.fused⟩

theorem State.clearRange_keeps {s t : State} (h : Keeps s t) (a n : Nat) : Keeps s (t.clearRange a n) :=
  ⟨h.pending, fun c => let d := h.canonical c; ⟨mapWf_drop _ d.1 (fun k => a ≤ k && k < a + n), d.2.1, d.2.2.1,
    mapWf_drop _ d.2.2.2 (fun k => a ≤ 8 * k && 8 * k < a + n)⟩, h.fused⟩

theorem State.setBytes_keeps {s t : State} (h : Keeps s t) (a : Nat) (d : List Byte) : Keeps s (t.setBytes a d) := by
  induction d generalizing t a with
  | nil => exact h
  | cons b d ih => exact ih (State.setByte_keeps h a b) (a + 1)

theorem Keeps.dropEcc {s t : State} (h : Keeps s t) (p : Nat → Bool) : Keeps s { t with ecc := mapDrop p t.ecc } :=
  ⟨h.pending, fun c => let d := h.canonical c; ⟨d.1, d.2.1, d.2.2.1, mapWf_drop _ d.2.2.2 p⟩, h.fused⟩

theorem Keeps.dropRegs {s t : State} (h : Keeps s t) (p : Nat → Bool) : Keeps s { t with regs := mapDrop p t.regs } :=
  ⟨h.pending, fun c => let d := h.canonical c; ⟨d.1, mapWf_drop _ d.2.1 p, d.2.2⟩, h.fused⟩

theorem Keeps.dropSync {s t : State} (h : Keeps s t) (p : Nat → Bool) : Keeps s { t with sync := mapDrop p t.sync } :=
  ⟨h.pending, fun c => let d := h.canonical c; ⟨d.1, d.2.1, mapWf_drop _ d.2.2.1 p, d.2.2.2⟩, h.fused⟩

theorem Keeps.dropMem {s t : State} (h : Keeps s t) (p : Nat → Bool) : Keeps s { t with mem := mapDrop p t.mem } :=
  ⟨h.pending, fun c => let d := h.canonical c; ⟨mapWf_drop _ d.1 p, d.2⟩, h.fused⟩

end Sys2Proof.Machine
end

