-- ==== Sys2Proof/Laws/KeepsOps.lean ====
section
/-! SUPPORT. What every step keeps: the operations and commands of registers, memories, the ring link, and the issue of instructions. -/

namespace Sys2Proof.Machine

theorem State.fput_keeps {s t : State} (hk : Keeps s t) (f : Fld) (v : Nat) : Keeps s (t.fput f v) := by
  refine hk.trans ?_
  unfold State.fput
  try extract_lets
  with_reducible repeat' first
    | extract_lets | intro _ | exact Keeps.refl _ | assumption | apply State.wr_keeps

theorem State.fsat_keeps {s t : State} (hk : Keeps s t) (f : Fld) (n : Nat) : Keeps s (t.fsat f n) := by
  refine hk.trans ?_
  unfold State.fsat
  try extract_lets
  with_reducible repeat' first
    | extract_lets | intro _ | exact Keeps.refl _ | assumption | apply State.fput_keeps

theorem State.fput64_keeps {s t : State} (hk : Keeps s t) (lo : Fld) (v : Nat) : Keeps s (t.fput64 lo v) := by
  refine hk.trans ?_
  unfold State.fput64
  try extract_lets
  with_reducible repeat' first
    | extract_lets | intro _ | exact Keeps.refl _ | assumption | apply State.wr_keeps

theorem State.emit_keeps {s t : State} (hk : Keeps s t) (o : Output) : Keeps s (t.emit o) := by
  refine hk.trans ?_
  unfold State.emit
  try extract_lets
  with_reducible repeat' first
    | extract_lets | intro _ | exact Keeps.refl _ | assumption | apply Keeps.ite | apply Keeps.foldl
    | fail_if_no_progress (refine Keeps.upd ?_ rfl rfl)

theorem State.draw_keeps {s t : State} (hk : Keeps s t)  : Keeps s t.draw.2 := by
  refine hk.trans ?_
  unfold State.draw
  try extract_lets
  with_reducible repeat' first
    | extract_lets | intro _ | exact Keeps.refl _ | assumption | apply Keeps.ite | apply Keeps.foldl
    | fail_if_no_progress (refine Keeps.upd ?_ rfl rfl)

theorem State.setCore_keeps {s t : State} (hk : Keeps s t) (n : Nat) (c : CoreRt) : Keeps s (t.setCore n c) := by
  refine hk.trans ?_
  unfold State.setCore
  try extract_lets
  with_reducible repeat' first
    | extract_lets | intro _ | exact Keeps.refl _ | assumption | apply Keeps.ite | apply Keeps.foldl
    | fail_if_no_progress (refine Keeps.upd ?_ rfl rfl)

theorem State.setArray_keeps {s t : State} (hk : Keeps s t) (n a : Nat) (r : ArrRt) : Keeps s (t.setArray n a r) := by
  refine hk.trans ?_
  unfold State.setArray
  try extract_lets
  with_reducible repeat' first
    | extract_lets | intro _ | exact Keeps.refl _ | assumption | apply Keeps.ite | apply Keeps.foldl
    | fail_if_no_progress (refine Keeps.upd ?_ rfl rfl)

theorem State.waitCycles_keeps {s t : State} (hk : Keeps s t) (n k : Nat) : Keeps s (t.waitCycles n k) := by
  refine hk.trans ?_
  unfold State.waitCycles
  try extract_lets
  repeat' first
    | (with_reducible first
      | extract_lets | intro _ | exact Keeps.refl _ | assumption | apply State.fput64_keeps | apply Keeps.ite)

theorem State.waitedSoFar_keeps {s t : State} (hk : Keeps s t) (n : Nat) : Keeps s (t.waitedSoFar n).2 := by
  refine hk.trans ?_
  unfold State.waitedSoFar
  try extract_lets
  repeat' first
    | (with_reducible first
      | extract_lets | intro _ | exact Keeps.refl _ | assumption | apply State.draw_keeps | apply Keeps.ite
      | apply Keeps.foldl | fail_if_no_progress (refine Keeps.upd ?_ rfl rfl))
    | split

theorem State.abortCore_keeps {s t : State} (hk : Keeps s t) (n : Nat) : Keeps s (t.abortCore n) := by
  refine hk.trans ?_
  unfold State.abortCore
  try extract_lets
  repeat' first
    | (with_reducible first
      | extract_lets | intro _ | exact Keeps.refl _ | assumption | apply State.waitedSoFar_keeps
      | apply State.waitCycles_keeps | apply State.setArray_keeps | apply State.setCore_keeps
      | apply State.fput_keeps | apply Keeps.ite | apply Keeps.foldl
      | fail_if_no_progress (refine Keeps.upd ?_ rfl rfl))

theorem State.abortCores_keeps {s t : State} (hk : Keeps s t) (mask : Nat) : Keeps s (t.abortCores mask) := by
  refine hk.trans ?_
  unfold State.abortCores
  try extract_lets
  with_reducible repeat' first
    | extract_lets | intro _ | exact Keeps.refl _ | assumption | apply State.abortCore_keeps | apply Keeps.ite
    | apply Keeps.foldl

theorem State.sediment_keeps {s t : State} (hk : Keeps s t) (cls index code data : Nat) : Keeps s (t.sediment' cls
    index code data) := by
  refine hk.trans ?_
  unfold State.sediment'
  try extract_lets
  repeat' first
    | (with_reducible first
      | extract_lets | intro _ | exact Keeps.refl _ | assumption | apply State.fput64_keeps
      | apply State.fput_keeps | apply State.emit_keeps | apply Keeps.ite | apply Keeps.foldl
      | fail_if_no_progress (refine Keeps.upd ?_ rfl rfl))
    | split

theorem State.creditZero_keeps {s t : State} (hk : Keeps s t) : Keeps s t.creditZero := by
  refine hk.trans ?_
  unfold State.creditZero
  try extract_lets
  repeat' first
    | (with_reducible first
      | extract_lets | intro _ | exact Keeps.refl _ | assumption | apply State.fput_keeps | apply Keeps.ite
      | apply Keeps.foldl)

theorem State.cond_keeps {s t : State} (hk : Keeps s t) (c : JobCond) (atOnce : Bool) : Keeps s (t.cond c atOnce) :=
    by
  refine hk.trans ?_
  unfold State.cond
  try extract_lets
  repeat' first
    | (with_reducible first
      | extract_lets | intro _ | exact Keeps.refl _ | assumption | apply State.abortCores_keeps
      | apply State.creditZero_keeps | apply Keeps.ite | apply Keeps.foldl
      | fail_if_no_progress (refine Keeps.upd ?_ rfl rfl))

theorem State.rasEvent_keeps {s t : State} (hk : Keeps s t) (cls idx code : Nat) : Keeps s (t.rasEvent cls idx code)
    := by
  refine hk.trans ?_
  unfold State.rasEvent
  try extract_lets
  with_reducible repeat' first
    | extract_lets | intro _ | exact Keeps.refl _ | assumption | apply Keeps.ite | apply Keeps.foldl
    | fail_if_no_progress (refine Keeps.upd ?_ rfl rfl)

theorem State.failCore_keeps {s t : State} (hk : Keeps s t) (n cls : Nat) : Keeps s (t.failCore n cls) := by
  refine hk.trans ?_
  unfold State.failCore
  try extract_lets
  with_reducible repeat' first
    | extract_lets | intro _ | exact Keeps.refl _ | assumption | apply State.fput_keeps
    | apply State.sediment_keeps | apply State.rasEvent_keeps | apply State.cond_keeps | apply Keeps.ite

theorem State.rasCount_keeps {s t : State} (hk : Keeps s t) (cls idx : Nat) : Keeps s (t.rasCount cls idx) := by
  refine hk.trans ?_
  unfold State.rasCount
  try extract_lets
  repeat' first
    | (with_reducible first
      | extract_lets | intro _ | exact Keeps.refl _ | assumption | apply State.fput_keeps
      | apply State.sediment_keeps | apply State.rasEvent_keeps | apply State.failCore_keeps | apply Keeps.ite
      | apply Keeps.foldl | fail_if_no_progress (refine Keeps.upd ?_ rfl rfl))
    | split

theorem State.report_keeps {s t : State} (hk : Keeps s t) (cls idx code data : Nat) : Keeps s (t.report cls idx code
    data) := by
  refine hk.trans ?_
  unfold State.report
  try extract_lets
  with_reducible repeat' first
    | extract_lets | intro _ | exact Keeps.refl _ | assumption | apply State.sediment_keeps
    | apply State.rasCount_keeps

theorem State.raise_keeps {s t : State} (hk : Keeps s t) (f : Fld) : Keeps s (t.raise f) := by
  refine hk.trans ?_
  unfold State.raise
  try extract_lets
  with_reducible repeat' first
    | extract_lets | intro _ | exact Keeps.refl _ | assumption | apply State.fput_keeps
    | apply State.sediment_keeps | apply Keeps.ite

theorem State.flag_keeps {s t : State} (hk : Keeps s t) (f : Fld) : Keeps s (t.flag f) := by
  refine hk.trans ?_
  unfold State.flag
  try extract_lets
  with_reducible repeat' first
    | extract_lets | intro _ | exact Keeps.refl _ | assumption | apply State.fput_keeps

theorem State.growthOverflow_keeps {s t : State} (hk : Keeps s t) (off : Nat) : Keeps s (t.growthOverflow off) := by
  refine hk.trans ?_
  unfold State.growthOverflow
  try extract_lets
  with_reducible repeat' first
    | extract_lets | intro _ | exact Keeps.refl _ | assumption | apply State.flag_keeps
    | apply State.sediment_keeps

theorem State.dropWrites_keeps {s t : State} (hk : Keeps s t) (k : Nat) : Keeps s (t.dropWrites k) := by
  refine hk.trans ?_
  unfold State.dropWrites
  try extract_lets
  with_reducible repeat' first
    | extract_lets | intro _ | exact Keeps.refl _ | assumption | apply State.fsat_keeps
    | apply State.flag_keeps | apply Keeps.ite | apply Keeps.foldl
    | fail_if_no_progress (refine Keeps.upd ?_ rfl rfl)

theorem State.writeBack_keeps {s t : State} (hk : Keeps s t) (a : Nat) (r : LineRead) : Keeps s (t.writeBack a r) :=
    by
  refine hk.trans ?_
  unfold State.writeBack
  try extract_lets
  with_reducible repeat' first
    | extract_lets | intro _ | exact Keeps.refl _ | assumption | apply State.setBytes_keeps
    | apply State.setEcc_keeps | apply Keeps.ite | apply Keeps.foldl

theorem State.signalObj_keeps {s t : State} (hk : Keeps s t) (o : Nat) (inc : Word) : Keeps s (t.signalObj o inc) :=
    by
  refine hk.trans ?_
  unfold State.signalObj
  try extract_lets
  with_reducible repeat' first
    | extract_lets | intro _ | exact Keeps.refl _ | assumption | apply State.setObject_keeps

theorem State.tgPut_keeps {s t : State} (hk : Keeps s t) (n i : Nat) (ws : List Nat) : Keeps s (t.tgPut n i ws) := by
  refine hk.trans ?_
  unfold State.tgPut
  try extract_lets
  repeat' first
    | (with_reducible first
      | extract_lets | intro _ | exact Keeps.refl _ | assumption | apply State.wr_keeps | apply Keeps.ite
      | apply Keeps.foldl)

theorem State.tgInsert_keeps {s t : State} (hk : Keeps s t) (n k : Nat) (ws : List Nat) : Keeps s (t.tgInsert n k
    ws) := by
  refine hk.trans ?_
  unfold State.tgInsert
  try extract_lets
  repeat' first
    | (with_reducible first
      | extract_lets | intro _ | exact Keeps.refl _ | assumption | apply State.tgPut_keeps | apply Keeps.ite
      | apply Keeps.foldl)

theorem State.tgPend_keeps {s t : State} (hk : Keeps s t) (n : Nat) : Keeps s (t.tgPend n) := by
  refine hk.trans ?_
  unfold State.tgPend
  try extract_lets
  repeat' first
    | (with_reducible first
      | extract_lets | intro _ | exact Keeps.refl _ | assumption | apply State.setCore_keeps
      | apply State.fput_keeps)

theorem State.tgFault_keeps {s t : State} (hk : Keeps s t) (who : Who) (kind region slot : Nat) (write : Bool) (cyc
    : Nat) : Keeps s (t.tgFault who kind region slot write cyc) := by
  refine hk.trans ?_
  unfold State.tgFault
  try extract_lets
  repeat' first
    | (with_reducible first
      | extract_lets | intro _ | exact Keeps.refl _ | assumption | apply State.tgPend_keeps
      | apply State.fsat_keeps | apply State.fput_keeps | apply State.tgInsert_keeps
      | apply State.setCore_keeps | apply Keeps.ite)

theorem State.staticConflict_keeps {s t : State} (hk : Keeps s t) (n cyc bank : Nat) (winner loser : SAcc) (again :
    Bool) : Keeps s (t.staticConflict n cyc bank winner loser again) := by
  refine hk.trans ?_
  unfold State.staticConflict
  try extract_lets
  repeat' first
    | (with_reducible first
      | extract_lets | intro _ | exact Keeps.refl _ | assumption | apply State.raise_keeps
      | apply State.tgPend_keeps | apply State.fsat_keeps | apply State.setCore_keeps | apply State.fput_keeps
      | apply Keeps.ite)

theorem State.note_keeps {s t : State} (hk : Keeps s t) (n cyc : Nat) (u : Undo) : Keeps s (t.note n cyc u) := by
  refine hk.trans ?_
  unfold State.note
  try extract_lets
  with_reducible repeat' first
    | extract_lets | intro _ | exact Keeps.refl _ | assumption | apply State.setCore_keeps

theorem State.undoWrite_keeps {s t : State} (hk : Keeps s t) (n cyc : Nat) (a : SAcc) : Keeps s (t.undoWrite n cyc
    a) := by
  refine hk.trans ?_
  unfold State.undoWrite
  try extract_lets
  repeat' first
    | (with_reducible first
      | extract_lets | intro _ | exact Keeps.refl _ | assumption | apply State.setEcc_keeps
      | apply State.setBytes_keeps | apply Keeps.ite | apply Keeps.foldl | apply Keeps.foldl_third
      | apply Keeps.foldl_snd | apply Keeps.foldl_fst | fail_if_no_progress (refine Keeps.upd ?_ rfl rfl))
    | split

theorem State.claimBank_keeps {s t : State} (hk : Keeps s t) (n cyc line rank : Nat) (write : Bool) (pos : Nat) :
    Keeps s (t.claimBank n cyc line rank write pos).2 := by
  refine hk.trans ?_
  unfold State.claimBank
  try extract_lets
  repeat' first
    | (with_reducible first
      | extract_lets | intro _ | exact Keeps.refl _ | assumption | apply State.setCore_keeps
      | apply State.staticConflict_keeps | apply State.undoWrite_keeps | apply Keeps.ite | apply Keeps.foldl
      | apply Keeps.foldl_third | apply Keeps.foldl_snd | apply Keeps.foldl_fst
      | fail_if_no_progress (refine Keeps.upd ?_ rfl rfl))
    | split

theorem State.spErrLog_keeps {s t : State} (hk : Keeps s t) (n line word syn req : Nat) (bad : Bool) : Keeps s
    (t.spErrLog n line word syn req bad) := by
  refine hk.trans ?_
  unfold State.spErrLog
  try extract_lets
  with_reducible repeat' first
    | extract_lets | intro _ | exact Keeps.refl _ | assumption | apply State.fput_keeps | apply Keeps.ite

theorem State.spEccEffects_keeps {s t : State} (hk : Keeps s t) (n line : Nat) (r : LineRead) (static replaced :
    Bool) (req : Nat) : Keeps s (t.spEccEffects n line r static replaced req) := by
  refine hk.trans ?_
  unfold State.spEccEffects
  try extract_lets
  repeat' first
    | (with_reducible first
      | extract_lets | intro _ | exact Keeps.refl _ | assumption | apply State.flag_keeps
      | apply State.fsat_keeps | apply State.spErrLog_keeps | apply State.report_keeps
      | apply State.writeBack_keeps | apply State.setCore_keeps | apply State.fput64_keeps
      | apply State.emit_keeps | apply State.cond_keeps | apply Keeps.ite | apply Keeps.foldl
      | fail_if_no_progress (refine Keeps.upd ?_ rfl rfl))
    | split | dsimp (zetaDelta := true) (zeta := false) only

theorem State.sRead_keeps {s t : State} (hk : Keeps s t) (who : Who) (cyc line rank : Nat) : Keeps s (t.sRead who
    cyc line rank).2 := by
  refine hk.trans ?_
  unfold State.sRead
  try extract_lets
  repeat' first
    | (with_reducible first
      | extract_lets | intro _ | exact Keeps.refl _ | assumption | apply State.claimBank_keeps
      | apply State.spEccEffects_keeps | apply Keeps.ite | apply Keeps.foldl
      | fail_if_no_progress (refine Keeps.upd ?_ rfl rfl))
    | split

theorem State.inject_keeps {s t : State} (hk : Keeps s t) (n line firstWord lastWord : Nat) : Keeps s (t.inject n
    line firstWord lastWord) := by
  refine hk.trans ?_
  unfold State.inject
  try extract_lets
  with_reducible repeat' first
    | extract_lets | intro _ | exact Keeps.refl _ | assumption | apply State.setEcc_keeps
    | apply State.fput_keeps | apply Keeps.ite

theorem State.spStore_keeps {s t : State} (hk : Keeps s t) (n line start : Nat) (d : List Byte) : Keeps s (t.spStore
    n line start d) := by
  refine hk.trans ?_
  unfold State.spStore
  try extract_lets
  repeat' first
    | (with_reducible first
      | extract_lets | intro _ | exact Keeps.refl _ | assumption | apply State.setBytes_keeps
      | apply State.setEcc_keeps | apply State.inject_keeps | apply Keeps.ite | apply Keeps.foldl
      | apply Keeps.foldl_third | apply Keeps.foldl_snd | apply Keeps.foldl_fst
      | fail_if_no_progress (refine Keeps.upd ?_ rfl rfl))
    | split

theorem State.sWrite_keeps {s t : State} (hk : Keeps s t) (who : Who) (cyc line start rank : Nat) (d : List Byte) :
    Keeps s (t.sWrite who cyc line start rank d) := by
  refine hk.trans ?_
  unfold State.sWrite
  try extract_lets
  repeat' first
    | (with_reducible first
      | extract_lets | intro _ | exact Keeps.refl _ | assumption | apply State.claimBank_keeps
      | apply State.note_keeps | apply State.setCore_keeps | apply State.spStore_keeps | apply Keeps.ite)

theorem State.sReads_keeps {s t : State} (h : Keeps s t) (who : Who) (line rank : Nat) (x0 : List Nat) : Keeps s
    (t.sReads who line rank x0).2 := by
  induction x0 generalizing t line with
  | nil => exact h
  | cons b l ih => exact ih (State.sRead_keeps h who b line rank) (line + 1)

theorem State.sWrites_keeps {s t : State} (h : Keeps s t) (who : Who) (line rank : Nat) (x0 : List (Nat × List Byte))
    : Keeps s (t.sWrites who line rank x0) := by
  induction x0 generalizing t line with
  | nil => exact h
  | cons b l ih => exact ih (State.sWrite_keeps h who b.1 line 0 rank b.2) (line + 1)

theorem State.asyncWriteBack_keeps {s t : State} (hk : Keeps s t) (n line : Nat) : Keeps s (t.asyncWriteBack n line)
    := by
  refine hk.trans ?_
  unfold State.asyncWriteBack
  try extract_lets
  repeat' first
    | (with_reducible first
      | extract_lets | intro _ | exact Keeps.refl _ | assumption | apply State.writeBack_keeps
      | apply State.setCore_keeps)

theorem State.bankWriteBacks_keeps {s t : State} (hk : Keeps s t) (n line : Nat) : Keeps s (t.bankWriteBacks n line)
    := by
  refine hk.trans ?_
  unfold State.bankWriteBacks
  try extract_lets
  repeat' first
    | (with_reducible first
      | extract_lets | intro _ | exact Keeps.refl _ | assumption | apply State.asyncWriteBack_keeps
      | apply Keeps.ite | apply Keeps.foldl)

theorem State.aRead_keeps {s t : State} (hk : Keeps s t) (n line req : Nat) : Keeps s (t.aRead n line req).2.2 := by
  refine hk.trans ?_
  unfold State.aRead
  try extract_lets
  repeat' first
    | (with_reducible first
      | extract_lets | intro _ | exact Keeps.refl _ | assumption | apply State.bankWriteBacks_keeps
      | apply State.spEccEffects_keeps | apply Keeps.ite | apply Keeps.foldl
      | fail_if_no_progress (refine Keeps.upd ?_ rfl rfl))
    | split

theorem State.hbRead_keeps {s t : State} (hk : Keeps s t) (line port : Nat) : Keeps s (t.hbRead line port).2.2 := by
  refine hk.trans ?_
  unfold State.hbRead
  try extract_lets
  repeat' first
    | (with_reducible first
      | extract_lets | intro _ | exact Keeps.refl _ | assumption | apply State.fput_keeps
      | apply State.flag_keeps | apply State.fsat_keeps | apply State.report_keeps
      | apply State.writeBack_keeps | apply Keeps.ite | apply Keeps.foldl
      | fail_if_no_progress (refine Keeps.upd ?_ rfl rfl))
    | split | dsimp (zetaDelta := true) (zeta := false) only

theorem State.hbStore_keeps {s t : State} (h : Keeps s t) (off : Nat) (d : List Byte) : Keeps s (t.hbStore off d) :=
  Keeps.dropEcc (State.setBytes_keeps h (hbAddr off) d) _

theorem State.regionFull_keeps {s t : State} (hk : Keeps s t) (n r : Nat) : Keeps s (t.regionFull n r) := by
  refine hk.trans ?_
  unfold State.regionFull
  try extract_lets
  with_reducible repeat' first
    | extract_lets | intro _ | exact Keeps.refl _ | assumption | apply State.fput_keeps

theorem State.claimSlot_keeps {s t : State} (hk : Keeps s t) (who : Who) (r cyc : Nat) : Keeps s (t.claimSlot who r
    cyc).2 := by
  refine hk.trans ?_
  unfold State.claimSlot
  try extract_lets
  with_reducible repeat' first
    | extract_lets | intro _ | exact Keeps.refl _ | assumption | apply State.tgFault_keeps
    | apply State.note_keeps | apply State.setCore_keeps | apply State.fput_keeps | apply Keeps.ite

theorem State.makeValid_keeps {s t : State} (hk : Keeps s t) (n r slot cyc : Nat) : Keeps s (t.makeValid n r slot
    cyc) := by
  refine hk.trans ?_
  unfold State.makeValid
  try extract_lets
  with_reducible repeat' first
    | extract_lets | intro _ | exact Keeps.refl _ | assumption | apply State.note_keeps
    | apply State.setCore_keeps | apply State.fput_keeps | apply State.regionFull_keeps

theorem State.releaseSlot_keeps {s t : State} (hk : Keeps s t) (n r slot cyc : Nat) : Keeps s (t.releaseSlot n r slot
    cyc) := by
  refine hk.trans ?_
  unfold State.releaseSlot
  try extract_lets
  with_reducible repeat' first
    | extract_lets | intro _ | exact Keeps.refl _ | assumption | apply State.note_keeps
    | apply State.fput_keeps | apply State.regionFull_keeps | apply Keeps.ite

theorem State.checkRead_keeps {s t : State} (hk : Keeps s t) (who : Who) (r slot cyc : Nat) : Keeps s (t.checkRead
    who r slot cyc) := by
  refine hk.trans ?_
  unfold State.checkRead
  try extract_lets
  with_reducible repeat' first
    | extract_lets | intro _ | exact Keeps.refl _ | assumption | apply State.tgFault_keeps | apply Keeps.ite

theorem State.genReadLine_keeps {s t : State} (hk : Keeps s t) (who : Who) (g : GenState) (line cyc : Nat) : Keeps s
    (t.genReadLine who g line cyc).2 := by
  refine hk.trans ?_
  unfold State.genReadLine
  try extract_lets
  repeat' first
    | (with_reducible first
      | extract_lets | intro _ | exact Keeps.refl _ | assumption | apply State.sRead_keeps)

theorem State.genFirstLines_keeps {s t : State} (hk : Keeps s t) (who : Who) (g : GenState) (cyc : Nat) : Keeps s
    (t.genFirstLines who g cyc).2 := by
  refine hk.trans ?_
  unfold State.genFirstLines
  try extract_lets
  repeat' first
    | (with_reducible first
      | extract_lets | intro _ | exact Keeps.refl _ | assumption | apply State.genReadLine_keeps
      | apply Keeps.ite | apply Keeps.foldl | fail_if_no_progress (refine Keeps.upd ?_ rfl rfl))
    | split

theorem State.genNext_keeps {s t : State} (hk : Keeps s t) (who : Who) (g region cyc : Nat) : Keeps s (t.genNext who
    g region cyc).2.2 := by
  refine hk.trans ?_
  unfold State.genNext
  try extract_lets
  repeat' first
    | (with_reducible first
      | extract_lets | intro _ | exact Keeps.refl _ | assumption | apply State.tgFault_keeps
      | apply State.genFirstLines_keeps | apply State.genReadLine_keeps | apply State.setCore_keeps
      | apply Keeps.ite | apply Keeps.foldl | fail_if_no_progress (refine Keeps.upd ?_ rfl rfl))
    | split | dsimp (zetaDelta := true) (zeta := false) only

theorem State.genFree_keeps {s t : State} (hk : Keeps s t) (who : Who) (o : Operand) (cyc : Nat) : Keeps s
    (t.genFree who o cyc) := by
  refine hk.trans ?_
  unfold State.genFree
  try extract_lets
  repeat' first
    | (with_reducible first
      | extract_lets | intro _ | exact Keeps.refl _ | assumption | apply State.setCore_keeps
      | apply State.genFirstLines_keeps | apply Keeps.ite | apply Keeps.foldl
      | fail_if_no_progress (refine Keeps.upd ?_ rfl rfl))
    | split

theorem State.faultAt_keeps {s t : State} (hk : Keeps s t) (who : Who) (code : Nat) (c : JobCond) : Keeps s
    (t.faultAt who code c) := by
  refine hk.trans ?_
  unfold State.faultAt
  try extract_lets
  with_reducible repeat' first
    | extract_lets | intro _ | exact Keeps.refl _ | assumption | apply State.fput_keeps
    | apply State.setCore_keeps | apply State.emit_keeps | apply State.sediment_keeps | apply State.cond_keeps

theorem State.decodeFault_keeps {s t : State} (hk : Keeps s t) (n eng code : Nat) : Keeps s (t.decodeFault n eng
    code) := by
  refine hk.trans ?_
  unfold State.decodeFault
  try extract_lets
  with_reducible repeat' first
    | extract_lets | intro _ | exact Keeps.refl _ | assumption | apply State.faultAt_keeps

theorem State.routineRead_keeps {s t : State} (hk : Keeps s t) (n off : Nat) : Keeps s (t.routineRead n off).2 := by
  refine hk.trans ?_
  unfold State.routineRead
  extract_lets
  split
  · exact State.report_keeps (Keeps.refl _) _ _ _ _
  · dsimp only
    split
    · exact Keeps.refl _
    · exact State.report_keeps (Keeps.refl _) _ _ _ _

theorem State.routineRead_eq_keeps {s t : State} (hk : Keeps s t) {n off : Nat} {o : Option (List Byte)} {u : State}
    (he : t.routineRead n off = (o, u)) : Keeps s u := by
  have := State.routineRead_keeps hk n off
  rw [he] at this
  exact this

theorem State.routineFault_keeps {s t : State} (hk : Keeps s t) (who : Who) : Keeps s (t.routineFault who) := by
  refine hk.trans ?_
  unfold State.routineFault
  try extract_lets
  repeat' first
    | (with_reducible first
      | extract_lets | intro _ | exact Keeps.refl _ | assumption | apply State.draw_keeps
      | apply State.fput_keeps | apply State.setCore_keeps | apply State.emit_keeps | apply State.cond_keeps)

theorem State.fetchLine_keeps {s t : State} (hk : Keeps s t) (n k cyc : Nat) : Keeps s (t.fetchLine n k cyc) := by
  refine hk.trans ?_
  unfold State.fetchLine
  try extract_lets
  with_reducible repeat' first
    | extract_lets | intro _ | exact Keeps.refl _ | assumption | apply State.checkRead_keeps
    | apply State.sRead_keeps | apply State.releaseSlot_keeps | apply State.setCore_keeps

theorem State.routineFetch_keeps {s t : State} (hk : Keeps s t) (n : Nat) : Keeps s (t.routineFetch n).2 := by
  refine hk.trans ?_
  unfold State.routineFetch
  try extract_lets
  repeat' first
    | (with_reducible first
      | extract_lets | intro _ | exact Keeps.refl _ | assumption | apply State.routineRead_keeps
      | apply Keeps.ite | apply Keeps.foldl | fail_if_no_progress (refine Keeps.upd ?_ rfl rfl))
    | split

/-- What an issue leaves keeps all of it. -/
def KeepsI (s : State) : Issue → Prop
  | .none => True
  | .fault t => Keeps s t
  | .go _ _ t => Keeps s t

theorem KeepsI.ite {s : State} {c : Prop} [Decidable c] {o p : Issue} (ho : KeepsI s o) (hp : KeepsI s p) :
    KeepsI s (if c then o else p) := by
  split <;> assumption

theorem State.issue_keeps (s : State) (n : Nat) (w : IWord) (eng op : Nat) : KeepsI s (s.issue n w eng op) := by
  unfold State.issue
  extract_lets c e line rf t0 same pair clash cyc who s1 c1 src c2 s2 k s3
  refine KeepsI.ite trivial (KeepsI.ite ?_ ?_)
  · split
    · exact State.faultAt_keeps (Keeps.refl _) _ _ _
    · trivial
  · have h0 : Keeps s rf.2 := State.routineFetch_keeps (Keeps.refl _) _
    refine KeepsI.ite (State.routineFault_keeps h0 _) (KeepsI.ite (State.decodeFault_keeps (Keeps.refl _) _ _ _)
      (KeepsI.ite (State.decodeFault_keeps (Keeps.refl _) _ _ _) (KeepsI.ite (State.decodeFault_keeps (Keeps.refl _) _ _ _)
        (KeepsI.ite trivial ?_))))
    split
    · exact State.faultAt_keeps (Keeps.refl _) _ _ _
    · show Keeps s _
      with_reducible repeat' first
        | exact h0 | apply State.fetchLine_keeps | apply State.setCore_keeps | apply State.tgFault_keeps | apply Keeps.ite

theorem State.issue_fault_keeps {s t : State} {n : Nat} {w : IWord} {eng op : Nat} (e : s.issue n w eng op = .fault
    t) :
    Keeps s t := by
  have := State.issue_keeps s n w eng op
  rw [e] at this
  exact this

theorem State.issue_go_keeps {s t : State} {n : Nat} {w : IWord} {eng op cyc : Nat} {who : Who}
    (e : s.issue n w eng op = .go cyc who t) : Keeps s t := by
  have := State.issue_keeps s n w eng op
  rw [e] at this
  exact this

theorem State.moveTo_keeps {s t : State} (hk : Keeps s t) (n p : Nat) : Keeps s (t.moveTo n p) := by
  refine hk.trans ?_
  unfold State.moveTo
  try extract_lets
  repeat' first
    | (with_reducible first
      | extract_lets | intro _ | exact Keeps.refl _ | assumption | apply State.setCore_keeps
      | apply State.fput_keeps | apply Keeps.ite | apply Keeps.foldl
      | fail_if_no_progress (refine Keeps.upd ?_ rfl rfl))
    | split | dsimp (zetaDelta := true) (zeta := false) only

theorem State.advance_keeps {s t : State} (hk : Keeps s t) (n : Nat) : Keeps s (t.advance n) := by
  refine hk.trans ?_
  unfold State.advance
  try extract_lets
  with_reducible repeat' first
    | extract_lets | intro _ | exact Keeps.refl _ | assumption | apply State.moveTo_keeps

theorem State.pause_keeps {s t : State} (hk : Keeps s t) (n h : Nat) : Keeps s (t.pause n h) := by
  refine hk.trans ?_
  unfold State.pause
  try extract_lets
  with_reducible repeat' first
    | extract_lets | intro _ | exact Keeps.refl _ | assumption | apply State.setCore_keeps

theorem State.engineStart_keeps {s t : State} (hk : Keeps s t) (who : Who) (cyc cost last : Nat) : Keeps s
    (t.engineStart who cyc cost last).2 := by
  refine hk.trans ?_
  unfold State.engineStart
  try extract_lets
  with_reducible repeat' first
    | extract_lets | intro _ | exact Keeps.refl _ | assumption | apply State.pause_keeps
    | apply State.tgFault_keeps | apply State.setCore_keeps | apply Keeps.ite

theorem State.useRegion_keeps {s t : State} (hk : Keeps s t) (n : Nat) (o : Operand) (until_ : Nat) : Keeps s
    (t.useRegion n o until_) := by
  refine hk.trans ?_
  unfold State.useRegion
  try extract_lets
  repeat' first
    | (with_reducible first
      | extract_lets | intro _ | exact Keeps.refl _ | assumption | apply State.setCore_keeps | apply Keeps.ite
      | apply Keeps.foldl | fail_if_no_progress (refine Keeps.upd ?_ rfl rfl))
    | split

theorem State.complete_keeps {s t : State} (h : Keeps s t) (n cyc : Nat) (x0 : Option (Nat × Word)) : Keeps s
    (t.complete n cyc x0) := by
  refine h.trans ?_
  unfold State.complete
  split
  · exact Keeps.refl _
  · split
    · exact State.dropWrites_keeps (Keeps.refl _) _
    · exact State.signalObj_keeps (State.setCore_keeps (Keeps.refl _) _ _) _ _

theorem State.replaceObject_keeps {s t : State} (hk : Keeps s t) (o : Nat) (v : Word) : Keeps s (t.replaceObject o
    v) := by
  refine hk.trans ?_
  unfold State.replaceObject
  try extract_lets
  repeat' first
    | (with_reducible first
      | extract_lets | intro _ | exact Keeps.refl _ | assumption | apply State.setObject_keeps)

theorem execNop_keeps {s : State} (core : Fin 8) (w : IWord) : KeepsO s (execNop core w s) := by
  unfold execNop
  try extract_lets
  repeat' first
    | (with_reducible first
      | extract_lets | apply KeepsO.ite | apply KeepsO.next | intro _ | exact Keeps.refl _ | assumption
      | apply State.advance_keeps | apply Keeps.ite | apply Keeps.foldl
      | fail_if_no_progress (refine Keeps.upd ?_ rfl rfl))
    | exact State.issue_fault_keeps (by assumption) | exact State.issue_go_keeps (by assumption) | split

theorem State.measureStep_keeps {s t : State} (hk : Keeps s t) (n step : Nat) : Keeps s (t.measureStep n step) := by
  refine hk.trans ?_
  unfold State.measureStep
  try extract_lets
  repeat' first
    | (with_reducible first
      | extract_lets | intro _ | exact Keeps.refl _ | assumption | apply Keeps.ite | apply Keeps.foldl
      | fail_if_no_progress (refine Keeps.upd ?_ rfl rfl))

theorem State.boundary_keeps {s t : State} (hk : Keeps s t) (n cyc : Nat) : Keeps s (t.boundary n cyc) := by
  refine hk.trans ?_
  unfold State.boundary
  try extract_lets
  repeat' first
    | (with_reducible first
      | extract_lets | intro _ | exact Keeps.refl _ | assumption | apply State.fput_keeps
      | apply State.measureStep_keeps | apply State.emit_keeps | apply State.setCore_keeps
      | apply State.cond_keeps | apply Keeps.ite)

theorem execStepEnd_keeps {s : State} (core : Fin 8) (w : IWord) : KeepsO s (execStepEnd core w s) := by
  unfold execStepEnd
  try extract_lets
  repeat' first
    | (with_reducible first
      | extract_lets | apply KeepsO.ite | apply KeepsO.next | intro _ | exact Keeps.refl _ | assumption
      | apply State.decodeFault_keeps | apply State.tgFault_keeps | apply State.advance_keeps
      | apply State.setCore_keeps | apply State.boundary_keeps | apply Keeps.ite | apply Keeps.foldl
      | fail_if_no_progress (refine Keeps.upd ?_ rfl rfl))
    | exact State.issue_fault_keeps (by assumption) | exact State.issue_go_keeps (by assumption) | split

theorem execRepeatBody_keeps {s : State} (core : Fin 8) (w : IWord) : KeepsO s (execRepeatBody core w s) := by
  unfold execRepeatBody
  try extract_lets
  repeat' first
    | (with_reducible first
      | extract_lets | apply KeepsO.ite | apply KeepsO.next | intro _ | exact Keeps.refl _ | assumption
      | apply State.decodeFault_keeps | apply State.setCore_keeps | apply State.advance_keeps | apply Keeps.ite
      | apply Keeps.foldl | fail_if_no_progress (refine Keeps.upd ?_ rfl rfl))
    | exact State.issue_fault_keeps (by assumption) | exact State.issue_go_keeps (by assumption) | split

theorem execCall_keeps {s : State} (core : Fin 8) (w : IWord) : KeepsO s (execCall core w s) := by
  unfold execCall
  try extract_lets
  repeat' first
    | (with_reducible first
      | extract_lets | apply KeepsO.ite | apply KeepsO.next | intro _ | exact Keeps.refl _ | assumption
      | apply State.decodeFault_keeps | apply State.routineFault_keeps | apply State.setCore_keeps
      | apply State.fput_keeps | apply State.moveTo_keeps | apply Keeps.ite)
    | exact State.issue_fault_keeps (by assumption) | exact State.issue_go_keeps (by assumption)
    | exact State.routineRead_eq_keeps (State.issue_go_keeps (by assumption)) (by assumption)
    | split

theorem execRet_keeps {s : State} (core : Fin 8) (w : IWord) : KeepsO s (execRet core w s) := by
  unfold execRet
  try extract_lets
  repeat' first
    | (with_reducible first
      | extract_lets | apply KeepsO.ite | apply KeepsO.next | intro _ | exact Keeps.refl _ | assumption
      | apply State.decodeFault_keeps | apply State.tgFault_keeps | apply State.setCore_keeps
      | apply State.moveTo_keeps | apply Keeps.ite | apply Keeps.foldl
      | fail_if_no_progress (refine Keeps.upd ?_ rfl rfl))
    | exact State.issue_fault_keeps (by assumption) | exact State.issue_go_keeps (by assumption) | split

theorem execSetb_keeps {s : State} (core : Fin 8) (w : IWord) : KeepsO s (execSetb core w s) := by
  unfold execSetb
  try extract_lets
  repeat' first
    | (with_reducible first
      | extract_lets | apply KeepsO.ite | apply KeepsO.next | intro _ | exact Keeps.refl _ | assumption
      | apply State.setCore_keeps | apply State.advance_keeps | apply Keeps.ite | apply Keeps.foldl
      | fail_if_no_progress (refine Keeps.upd ?_ rfl rfl))
    | exact State.issue_fault_keeps (by assumption) | exact State.issue_go_keeps (by assumption) | split

theorem execAddb_keeps {s : State} (core : Fin 8) (w : IWord) : KeepsO s (execAddb core w s) := by
  unfold execAddb
  try extract_lets
  repeat' first
    | (with_reducible first
      | extract_lets | apply KeepsO.ite | apply KeepsO.next | intro _ | exact Keeps.refl _ | assumption
      | apply State.setCore_keeps | apply State.advance_keeps | apply Keeps.ite | apply Keeps.foldl
      | fail_if_no_progress (refine Keeps.upd ?_ rfl rfl))
    | exact State.issue_fault_keeps (by assumption) | exact State.issue_go_keeps (by assumption) | split

theorem execRegionSet_keeps {s : State} (core : Fin 8) (w : IWord) : KeepsO s (execRegionSet core w s) := by
  unfold execRegionSet
  try extract_lets
  repeat' first
    | (with_reducible first
      | extract_lets | apply KeepsO.ite | apply KeepsO.next | intro _ | exact Keeps.refl _ | assumption
      | apply State.decodeFault_keeps | apply State.tgFault_keeps | apply State.fput_keeps
      | apply State.note_keeps | apply State.wr_keeps | apply State.advance_keeps | apply Keeps.ite
      | apply Keeps.foldl | apply Keeps.foldl_third | apply Keeps.foldl_snd | apply Keeps.foldl_fst
      | fail_if_no_progress (refine Keeps.upd ?_ rfl rfl))
    | exact State.issue_fault_keeps (by assumption) | exact State.issue_go_keeps (by assumption) | split

theorem State.genLoad_keeps {s t : State} (hk : Keeps s t) (who : Who) (g : Nat) (x : GenState) (cyc : Nat) : Keeps
    s (t.genLoad who g x cyc) := by
  refine hk.trans ?_
  unfold State.genLoad
  try extract_lets
  repeat' first
    | (with_reducible first
      | extract_lets | intro _ | exact Keeps.refl _ | assumption | apply State.genFirstLines_keeps
      | apply State.setCore_keeps)

theorem execAspLoad_keeps {s : State} (core : Fin 8) (w : IWord) : KeepsO s (execAspLoad core w s) := by
  unfold execAspLoad
  try extract_lets
  repeat' first
    | (with_reducible first
      | extract_lets | apply KeepsO.ite | apply KeepsO.next | intro _ | exact Keeps.refl _ | assumption
      | apply State.decodeFault_keeps | apply State.setCore_keeps | apply State.pause_keeps
      | apply State.sRead_keeps | apply State.tgFault_keeps | apply State.advance_keeps
      | apply State.genLoad_keeps | apply Keeps.ite | apply Keeps.foldl
      | fail_if_no_progress (refine Keeps.upd ?_ rfl rfl))
    | exact State.issue_fault_keeps (by assumption) | exact State.issue_go_keeps (by assumption) | split

theorem State.lpStoreLine_keeps {s t : State} (h : Keeps s t) (tag a : Nat) (d : List Byte) :
    Keeps s (t.lpStoreLine tag a d) := by
  refine h.trans ?_
  unfold State.lpStoreLine
  extract_lets line g s1 s2
  have h2 : Keeps t s2 := by
    refine Keeps.upd ?_ rfl rfl
    with_reducible apply Keeps.ite
    · exact Keeps.refl _
    · exact State.setBytes_keeps (Keeps.refl _) _ _
  have hb := State.setBytes_keeps h2 a d
  exact ⟨hb.pending, fun c => ⟨(hb.canonical c).1, (hb.canonical c).2.1, (hb.canonical c).2.2.1,
    mapWf_drop _ (h2.canonical c).2.2.2 (fun k => a ≤ 8 * k + 7 && 8 * k < a + d.length)⟩, hb.fused⟩

theorem State.lpStore_keeps {s t : State} (hk : Keeps s t) (slot a : Nat) (d : List Byte) : Keeps s (t.lpStore slot a
    d) := by
  refine hk.trans ?_
  unfold State.lpStore
  try extract_lets
  with_reducible repeat' first
    | extract_lets | intro _ | exact Keeps.refl _ | assumption | apply State.lpStoreLine_keeps
    | apply Keeps.ite | apply Keeps.foldl | apply Keeps.foldl_third | apply Keeps.foldl_snd
    | apply Keeps.foldl_fst

theorem State.mcEccEffects_keeps {s t : State} (hk : Keeps s t) (a port : Nat) (r : LineRead) : Keeps s
    (t.mcEccEffects a port r) := by
  refine hk.trans ?_
  unfold State.mcEccEffects
  try extract_lets
  repeat' first
    | (with_reducible first
      | extract_lets | intro _ | exact Keeps.refl _ | assumption | apply State.flag_keeps
      | apply State.fsat_keeps | apply State.report_keeps | apply State.writeBack_keeps
      | apply State.fput_keeps | apply Keeps.ite | apply Keeps.foldl
      | fail_if_no_progress (refine Keeps.upd ?_ rfl rfl))
    | split | dsimp (zetaDelta := true) (zeta := false) only

theorem State.lpRead_keeps {s t : State} (hk : Keeps s t) (slot a n port : Nat) : Keeps s (t.lpRead slot a n
    port).2.2 := by
  refine hk.trans ?_
  unfold State.lpRead
  try extract_lets
  repeat' first
    | (with_reducible first
      | extract_lets | intro _ | exact Keeps.refl _ | assumption | apply State.mcEccEffects_keeps
      | apply Keeps.ite | apply Keeps.foldl | apply Keeps.foldl_third | apply Keeps.foldl_snd
      | apply Keeps.foldl_fst | fail_if_no_progress (refine Keeps.upd ?_ rfl rfl))
    | split

theorem State.setPair_keeps {s t : State} (hk : Keeps s t) (q : Nat) (x : RpRt) : Keeps s (t.setPair q x) := by
  refine hk.trans ?_
  unfold State.setPair
  try extract_lets
  with_reducible repeat' first
    | extract_lets | intro _ | exact Keeps.refl _ | assumption | apply Keeps.ite | apply Keeps.foldl
    | fail_if_no_progress (refine Keeps.upd ?_ rfl rfl)

theorem State.msix_keeps {s t : State} (hk : Keeps s t) (v : Nat) : Keeps s (t.msix v) := by
  refine hk.trans ?_
  unfold State.msix
  try extract_lets
  with_reducible repeat' first
    | extract_lets | intro _ | exact Keeps.refl _ | assumption | apply State.wr_keeps | apply State.emit_keeps
    | apply Keeps.ite

theorem State.raiseRing_keeps {s t : State} (hk : Keeps s t) (q : Nat) : Keeps s (t.raiseRing q) := by
  refine hk.trans ?_
  unfold State.raiseRing
  try extract_lets
  with_reducible repeat' first
    | extract_lets | intro _ | exact Keeps.refl _ | assumption | apply State.setPair_keeps
    | apply State.msix_keeps

theorem State.cqWrite_keeps {s t : State} (hk : Keeps s t) (q : Nat) (d : List Byte) (force : Bool) : Keeps s
    (t.cqWrite q d force) := by
  refine hk.trans ?_
  unfold State.cqWrite
  try extract_lets
  with_reducible repeat' first
    | extract_lets | intro _ | exact Keeps.refl _ | assumption | apply State.lpStore_keeps
    | apply State.fput_keeps | apply State.setPair_keeps | apply State.raiseRing_keeps | apply Keeps.ite

theorem State.eventWrite_keeps {s t : State} (hk : Keeps s t) (type ring : Nat) (payload : List Byte) : Keeps s
    (t.eventWrite type ring payload) := by
  refine hk.trans ?_
  unfold State.eventWrite
  try extract_lets
  with_reducible repeat' first
    | extract_lets | intro _ | exact Keeps.refl _ | assumption | apply State.cqWrite_keeps | apply Keeps.ite
    | apply Keeps.foldl | fail_if_no_progress (refine Keeps.upd ?_ rfl rfl)

theorem State.eventOne_keeps {s t : State} (hk : Keeps s t) (type ring : Nat) (payload : List Byte) : Keeps s
    (t.eventOne type ring payload) := by
  refine hk.trans ?_
  unfold State.eventOne
  try extract_lets
  with_reducible repeat' first
    | extract_lets | intro _ | exact Keeps.refl _ | assumption | apply State.eventWrite_keeps
    | apply Keeps.ite | apply Keeps.foldl | fail_if_no_progress (refine Keeps.upd ?_ rfl rfl)

theorem State.drainEvents_keeps {s t : State} (hk : Keeps s t)  : Keeps s t.drainEvents := by
  refine hk.trans ?_
  unfold State.drainEvents
  try extract_lets
  with_reducible repeat' first
    | extract_lets | intro _ | exact Keeps.refl _ | assumption | apply State.eventOne_keeps | apply Keeps.ite
    | apply Keeps.foldl | apply Keeps.foldl_third | apply Keeps.foldl_snd | apply Keeps.foldl_fst
    | fail_if_no_progress (refine Keeps.upd ?_ rfl rfl)

theorem State.event_keeps {s t : State} (hk : Keeps s t) (type ring : Nat) (payload : List Byte) : Keeps s (t.event
    type ring payload) := by
  refine hk.trans ?_
  unfold State.event
  try extract_lets
  with_reducible repeat' first
    | extract_lets | intro _ | exact Keeps.refl _ | assumption | apply State.drainEvents_keeps
    | apply State.eventOne_keeps | apply Keeps.ite

theorem State.limitEvent_keeps {s t : State} (hk : Keeps s t) (kind unit value : Nat) (active : Bool) : Keeps s
    (t.limitEvent kind unit value active) := by
  refine hk.trans ?_
  unfold State.limitEvent
  try extract_lets
  with_reducible repeat' first
    | extract_lets | intro _ | exact Keeps.refl _ | assumption | apply State.event_keeps | apply Keeps.ite
    | apply Keeps.foldl | fail_if_no_progress (refine Keeps.upd ?_ rfl rfl)

theorem State.limitOnce_keeps {s t : State} (hk : Keeps s t) (kind unit value : Nat) : Keeps s (t.limitOnce kind unit
    value) := by
  refine hk.trans ?_
  unfold State.limitOnce
  try extract_lets
  with_reducible repeat' first
    | extract_lets | intro _ | exact Keeps.refl _ | assumption | apply State.limitEvent_keeps

theorem State.completeTaken_keeps {s u : State} (hk : Keeps s u) (q : Nat) (t : Taken) (d : Done) : Keeps s
    (u.completeTaken q t d) := by
  refine hk.trans ?_
  unfold State.completeTaken
  try extract_lets
  with_reducible repeat' first
    | extract_lets | intro _ | exact Keeps.refl _ | assumption | apply State.setPair_keeps
    | apply State.cqWrite_keeps | apply State.fput_keeps | apply Keeps.ite

theorem State.bgDone_keeps {s t : State} (hk : Keeps s t) (op : Nat) (d : Done) : Keeps s (t.bgDone op d) := by
  refine hk.trans ?_
  unfold State.bgDone
  try extract_lets
  repeat' first
    | (with_reducible first
      | extract_lets | intro _ | exact Keeps.refl _ | assumption | apply State.completeTaken_keeps
      | apply Keeps.ite | apply Keeps.foldl | fail_if_no_progress (refine Keeps.upd ?_ rfl rfl))
    | split

theorem State.areaWrite_keeps {s t : State} (hk : Keeps s t) (a : Nat) (d : List Byte) : Keeps s (t.areaWrite a d) :=
    by
  refine hk.trans ?_
  unfold State.areaWrite
  try extract_lets
  repeat' first
    | (with_reducible first
      | extract_lets | intro _ | exact Keeps.refl _ | assumption | apply State.emit_keeps
      | apply State.raise_keeps | apply State.lpStore_keeps | apply Keeps.ite | apply Keeps.foldl
      | fail_if_no_progress (refine Keeps.upd ?_ rfl rfl))
    | split

theorem State.ringError_keeps {s t : State} (hk : Keeps s t) (q kind value : Nat) : Keeps s (t.ringError q kind
    value) := by
  refine hk.trans ?_
  unfold State.ringError
  try extract_lets
  with_reducible repeat' first
    | extract_lets | intro _ | exact Keeps.refl _ | assumption | apply State.event_keeps

theorem State.setPort_keeps {s t : State} (hk : Keeps s t) (p : Nat) (x : PortRt) : Keeps s (t.setPort p x) := by
  refine hk.trans ?_
  unfold State.setPort
  try extract_lets
  with_reducible repeat' first
    | extract_lets | intro _ | exact Keeps.refl _ | assumption | apply Keeps.ite | apply Keeps.foldl
    | fail_if_no_progress (refine Keeps.upd ?_ rfl rfl)

theorem State.setPortState_keeps {s t : State} (hk : Keeps s t) (p v : Nat) : Keeps s (t.setPortState p v) := by
  refine hk.trans ?_
  unfold State.setPortState
  try extract_lets
  with_reducible repeat' first
    | extract_lets | intro _ | exact Keeps.refl _ | assumption | apply State.fput_keeps
    | apply State.raise_keeps | apply State.emit_keeps | apply State.event_keeps | apply Keeps.ite

theorem State.wire_keeps {s t : State} (hk : Keeps s t) (p : Nat) (f : RFrame) : Keeps s (t.wire p f) := by
  refine hk.trans ?_
  unfold State.wire
  try extract_lets
  repeat' first
    | (with_reducible first
      | extract_lets | intro _ | exact Keeps.refl _ | assumption | apply State.emit_keeps)

theorem State.putFrame_keeps {s t : State} (hk : Keeps s t) (p : Nat) (f : RFrame) : Keeps s (t.putFrame p f) := by
  refine hk.trans ?_
  unfold State.putFrame
  try extract_lets
  repeat' first
    | (with_reducible first
      | extract_lets | intro _ | exact Keeps.refl _ | assumption | apply State.setPort_keeps
      | apply State.wire_keeps)

theorem State.pump_keeps {s t : State} (h : Keeps s t) (p : Nat) (x0 : Nat) : Keeps s (t.pump p x0) := by
  induction x0 generalizing t with
  | zero => exact h
  | succ n ih =>
    unfold State.pump
    split
    · exact h
    · exact ih (State.putFrame_keeps (State.setPort_keeps h _ _) _ _)

theorem State.portRun_keeps {s t : State} (hk : Keeps s t) (p : Nat) : Keeps s (t.portRun p) := by
  refine hk.trans ?_
  unfold State.portRun
  try extract_lets
  repeat' first
    | (with_reducible first
      | extract_lets | intro _ | exact Keeps.refl _ | assumption | apply State.pump_keeps | apply Keeps.ite)

theorem State.queueFrame_keeps {s t : State} (hk : Keeps s t) (p : Nat) (f : RFrame) (transit : Bool) : Keeps s
    (t.queueFrame p f transit) := by
  refine hk.trans ?_
  unfold State.queueFrame
  try extract_lets
  with_reducible repeat' first
    | extract_lets | intro _ | exact Keeps.refl _ | assumption | apply State.setPort_keeps
    | apply State.portRun_keeps

theorem State.seal_keeps {s t : State} (h : Keeps s t) (f : RFrame) {r : RFrame × State} (e : t.seal f = some r) :
    Keeps s r.2 := by
  unfold State.seal at e
  split at e
  · cases e; exact h
  · dsimp only at e
    split at e
    · cases e
    · cases e; exact h.upd rfl rfl

theorem State.sendFrame_keeps {s t : State} (hk : Keeps s t) (f : RFrame) : Keeps s (t.sendFrame f) := by
  refine hk.trans ?_
  unfold State.sendFrame
  try extract_lets
  repeat' first
    | (with_reducible first
      | extract_lets | intro _ | exact Keeps.refl _ | assumption | apply State.sediment_keeps
      | apply State.queueFrame_keeps | refine State.seal_keeps ?_ _ (by assumption) | apply Keeps.ite
      | apply Keeps.foldl | fail_if_no_progress (refine Keeps.upd ?_ rfl rfl))
    | split

theorem State.ringSignal_keeps {s t : State} (hk : Keeps s t) (idx : Nat) (inc : Word) : Keeps s (t.ringSignal idx
    inc) := by
  refine hk.trans ?_
  unfold State.ringSignal
  try extract_lets
  with_reducible repeat' first
    | extract_lets | intro _ | exact Keeps.refl _ | assumption | apply State.signalObj_keeps
    | apply State.raise_keeps | apply State.cond_keeps | apply Keeps.ite

theorem State.remoteSignal_keeps {s t : State} (hk : Keeps s t) (pos idx : Nat) (inc : Word) : Keeps s
    (t.remoteSignal pos idx inc) := by
  refine hk.trans ?_
  unfold State.remoteSignal
  try extract_lets
  repeat' first
    | (with_reducible first
      | extract_lets | intro _ | exact Keeps.refl _ | assumption | apply State.cond_keeps
      | apply State.ringSignal_keeps | apply State.sendFrame_keeps | apply Keeps.ite | apply Keeps.foldl
      | fail_if_no_progress (refine Keeps.upd ?_ rfl rfl))

theorem State.ringRestart_keeps {s t : State} (hk : Keeps s t) : Keeps s t.ringRestart := by
  refine hk.trans ?_
  unfold State.ringRestart
  try extract_lets
  repeat' first
    | (with_reducible first
      | extract_lets | intro _ | exact Keeps.refl _ | assumption | apply State.ringSignal_keeps
      | apply State.portRun_keeps | apply Keeps.ite | apply Keeps.foldl | apply Keeps.foldl_third
      | apply Keeps.foldl_snd | apply Keeps.foldl_fst | fail_if_no_progress (refine Keeps.upd ?_ rfl rfl))

theorem State.sendBurst_keeps {s t : State} (hk : Keeps s t) (b : SendBurst) : Keeps s (t.sendBurst b) := by
  refine hk.trans ?_
  unfold State.sendBurst
  try extract_lets
  with_reducible repeat' first
    | extract_lets | intro _ | exact Keeps.refl _ | assumption | apply State.sendFrame_keeps | apply Keeps.ite
    | apply Keeps.foldl

theorem State.openBurst_keeps {s t : State} (hk : Keeps s t) (core serial dst line restarts : Nat) (data : List Byte)
    : Keeps s (t.openBurst core serial dst line restarts data) := by
  refine hk.trans ?_
  unfold State.openBurst
  try extract_lets
  with_reducible repeat' first
    | extract_lets | intro _ | exact Keeps.refl _ | assumption | apply State.sendBurst_keeps | apply Keeps.ite
    | apply Keeps.foldl | fail_if_no_progress (refine Keeps.upd ?_ rfl rfl)

theorem State.writeReg_keeps {s t : State} (hk : Keeps s t) (off : Nat) (v : Word) : Keeps s (t.writeReg off v) := by
  refine hk.trans ?_
  unfold State.writeReg
  try extract_lets
  repeat' first
    | (with_reducible first
      | extract_lets | intro _ | exact Keeps.refl _ | assumption | apply State.wr_keeps | apply Keeps.ite
      | apply Keeps.foldl | fail_if_no_progress (refine Keeps.upd ?_ rfl rfl))
    | split

end Sys2Proof.Machine
end

