-- ==== Sys2Proof/Laws/KeepsEngines.lean ====
section
/-! SUPPORT. What every step keeps: the operations and commands of the engines of a core. -/

namespace Sys2Proof.Machine

theorem State.maCount_keeps {s t : State} (hk : Keeps s t) (n a : Nat) (lo : Fld) (k : Nat) : Keeps s (t.maCount n a
    lo k) := by
  refine hk.trans ?_
  unfold State.maCount
  try extract_lets
  with_reducible repeat' first
    | extract_lets | intro _ | exact Keeps.refl _ | assumption | apply State.fput64_keeps
    | apply State.raise_keeps | apply Keeps.ite

theorem State.readWeights_keeps {s t : State} (h : Keeps s t) (who : Who) (base : Nat) (x0 : List (Nat × Nat)) :
    Keeps s (t.readWeights who base x0).2 := by
  induction x0 generalizing t with
  | nil => exact h
  | cons b l ih => exact ih (State.sRead_keeps h who b.1 (base + b.2) (rankWeights who.array))

theorem State.passEvents_keeps {s t : State} (hk : Keeps s t) (l : Lane) (v : Nat) (bad : Bool) (d : DrainOut) (res
    : List (Nat × Nat × Nat)) : Keeps s (t.passEvents l v bad d res) := by
  refine hk.trans ?_
  unfold State.passEvents
  try extract_lets
  repeat' first
    | (with_reducible first
      | extract_lets | intro _ | exact Keeps.refl _ | assumption | apply State.raise_keeps
      | apply State.fsat_keeps | apply State.flag_keeps | apply State.fput_keeps | apply Keeps.ite
      | apply Keeps.foldl | fail_if_no_progress (refine Keeps.upd ?_ rfl rfl))
    | split

theorem State.writeSlot_keeps {s t : State} (hk : Keeps s t) (who : Who) (r cyc rank : Nat) (d : List Byte) : Keeps s
    (t.writeSlot who r cyc rank d) := by
  refine hk.trans ?_
  unfold State.writeSlot
  try extract_lets
  with_reducible repeat' first
    | extract_lets | intro _ | exact Keeps.refl _ | assumption | apply State.claimSlot_keeps
    | apply State.sWrites_keeps | apply State.makeValid_keeps

theorem State.writeVector_keeps {s t : State} (hk : Keeps s t) (l : Lane) (v cyc : Nat) (act scales : List Byte) :
    Keeps s (t.writeVector l v cyc act scales).2 := by
  refine hk.trans ?_
  unfold State.writeVector
  try extract_lets
  with_reducible repeat' first
    | extract_lets | intro _ | exact Keeps.refl _ | assumption | apply State.dropWrites_keeps
    | apply State.hbStore_keeps | apply State.writeSlot_keeps | apply State.passEvents_keeps | apply Keeps.ite

theorem State.drainUpTo_keeps {s t : State} (h : Keeps s t) (l : Lane) (lim : Nat) (seen : Bool) (x0 : Queued) :
    Keeps s (t.drainUpTo l lim seen x0).2.2 := by
  induction x0 generalizing t seen with
  | nil => exact h
  | cons b q ih =>
    obtain ⟨v, act, sc⟩ := b
    unfold State.drainUpTo
    split
    · refine ih ?_ _
      split
      · exact State.cond_keeps (State.report_keeps (State.writeVector_keeps h _ _ _ _ _) _ _ _ _) _ _
      · exact State.writeVector_keeps h _ _ _ _ _
    · exact h

theorem State.readSlotOf_keeps {s t : State} (hk : Keeps s t) (who : Who) (f head k cyc : Nat) : Keeps s
    (t.readSlotOf who f head k cyc).2 := by
  refine hk.trans ?_
  unfold State.readSlotOf
  try extract_lets
  repeat' first
    | (with_reducible first
      | extract_lets | intro _ | exact Keeps.refl _ | assumption | apply State.genNext_keeps | apply Keeps.ite
      | apply Keeps.foldl | fail_if_no_progress (refine Keeps.upd ?_ rfl rfl))
    | split

theorem State.readSlot_keeps {s t : State} (hk : Keeps s t) (who : Who) (r slot cyc rank lines : Nat) (consume :
    Bool) : Keeps s (t.readSlot who r slot cyc rank lines consume).2 := by
  refine hk.trans ?_
  unfold State.readSlot
  try extract_lets
  with_reducible repeat' first
    | extract_lets | intro _ | exact Keeps.refl _ | assumption | apply State.checkRead_keeps
    | apply State.sReads_keeps | apply State.releaseSlot_keeps | apply Keeps.ite

theorem runVector_keeps {s : State} {x : PassRun} (hk : Keeps s x.s) (l : Lane) (m : Option Lane) (head v : Nat) :
    Keeps s (runVector l m head x v).s := by
  unfold runVector
  extract_lets cyc d0 d1 who r sl rank act sc
  have h0 : Keeps s d0.2.2 := State.drainUpTo_keeps hk _ _ _ _
  have h1 : Keeps s d1.2.2 := by
    dsimp only [d1]
    split
    · exact State.drainUpTo_keeps h0 _ _ _ _
    · exact h0
  have ha : Keeps s act.2 := State.readSlot_keeps (State.readSlotOf_keeps h1 _ _ _ _ _) _ _ _ _ _ _ _
  have hc : Keeps s sc.2 := by
    dsimp only [sc]
    split
    · exact State.readSlot_keeps ha _ _ _ _ _ _ _
    · exact ha
  split
  · exact hc
  · extract_lets sc1
    show Keeps s sc1.2
    dsimp only [sc1]
    split
    · exact State.readSlot_keeps hc _ _ _ _ _ _ _
    · exact hc

theorem State.startLane_keeps {s t : State} (hk : Keeps s t) (n a f hold : Nat) (p : PassInst) : Keeps s
    (t.startLane n a f hold p).2 := by
  refine hk.trans ?_
  unfold State.startLane
  try extract_lets
  repeat' first
    | (with_reducible first
      | extract_lets | intro _ | exact Keeps.refl _ | assumption | apply State.maCount_keeps
      | apply State.fput_keeps | apply State.readWeights_keeps | apply State.setArray_keeps
      | apply State.raise_keeps | apply Keeps.ite | apply Keeps.foldl
      | fail_if_no_progress (refine Keeps.upd ?_ rfl rfl))
    | exact State.issue_fault_keeps (by assumption) | exact State.issue_go_keeps (by assumption) | split

theorem State.finishLane_keeps {s t : State} (hk : Keeps s t) (l : Lane) : Keeps s (t.finishLane l) := by
  refine hk.trans ?_
  unfold State.finishLane
  try extract_lets
  repeat' first
    | (with_reducible first
      | extract_lets | intro _ | exact Keeps.refl _ | assumption | apply State.maCount_keeps
      | apply State.complete_keeps | apply State.setArray_keeps | apply State.useRegion_keeps | apply Keeps.ite)

theorem State.runLanes_keeps {s t : State} (hk : Keeps s t) (l : Lane) (m : Option Lane) : Keeps s (t.runLanes l m) := by
  refine hk.trans ?_
  unfold State.runLanes
  extract_lets far who head x d0 s1 s2
  have hx : Keeps t x.s := Keeps.foldl_of PassRun.s (Keeps.refl t) fun c v h => runVector_keeps h _ _ _ _
  have h1 : Keeps t s1 := State.finishLane_keeps (State.drainUpTo_keeps hx _ _ _ _) _
  have h2 : Keeps t s2 := by
    dsimp only [s2]
    split
    · exact State.finishLane_keeps (State.drainUpTo_keeps h1 _ _ _ _) _
    · exact h1
  exact State.genFree_keeps h2 _ _ _

theorem State.startStream_keeps {s t : State} (hk : Keeps s t) (n a : Nat) (p : PassInst) (f hold : Nat) : Keeps s
    (t.startStream n a p f hold) := by
  refine hk.trans ?_
  unfold State.startStream
  try extract_lets
  repeat' first
    | (with_reducible first
      | extract_lets | intro _ | exact Keeps.refl _ | assumption | apply State.startLane_keeps
      | apply State.fput_keeps | apply State.setArray_keeps | apply State.useRegion_keeps | apply Keeps.ite)

theorem State.launch_keeps {s t : State} (hk : Keeps s t) (n a : Nat) (p : PassInst) (base : Nat) : Keeps s (t.launch
    n a p base) := by
  refine hk.trans ?_
  unfold State.launch
  try extract_lets
  repeat' first
    | (with_reducible first
      | extract_lets | intro _ | exact Keeps.refl _ | assumption | apply State.faultAt_keeps
      | apply State.pause_keeps | apply State.startStream_keeps | apply State.startLane_keeps
      | apply State.runLanes_keeps | apply Keeps.ite | apply Keeps.foldl
      | fail_if_no_progress (refine Keeps.upd ?_ rfl rfl))
    | exact State.issue_fault_keeps (by assumption) | exact State.issue_go_keeps (by assumption) | split

theorem State.launchPair_keeps {s t : State} (hk : Keeps s t) (n a : Nat) (p q : PassInst) : Keeps s (t.launchPair n
    a p q) := by
  refine hk.trans ?_
  unfold State.launchPair
  try extract_lets
  repeat' first
    | (with_reducible first
      | extract_lets | intro _ | exact Keeps.refl _ | assumption | apply State.faultAt_keeps
      | apply State.pause_keeps | apply State.startLane_keeps | apply State.runLanes_keeps | apply Keeps.ite
      | apply Keeps.foldl | fail_if_no_progress (refine Keeps.upd ?_ rfl rfl))
    | exact State.issue_fault_keeps (by assumption) | exact State.issue_go_keeps (by assumption) | split

theorem State.earlyIssue_keeps {s t : State} (hk : Keeps s t) (n a cyc : Nat) (who : Who) : Keeps s (t.earlyIssue n a
    cyc who) := by
  refine hk.trans ?_
  unfold State.earlyIssue
  try extract_lets
  with_reducible repeat' first
    | extract_lets | intro _ | exact Keeps.refl _ | assumption | apply State.tgFault_keeps | apply Keeps.ite

theorem execPass_keeps {s : State} (core : Fin 8) (w : IWord) (upsets : List Upset) : KeepsO s (execPass core w
    upsets s) := by
  unfold execPass
  try extract_lets
  repeat' first
    | (with_reducible first
      | extract_lets | apply KeepsO.ite | apply KeepsO.next | intro _ | exact Keeps.refl _ | assumption
      | apply State.decodeFault_keeps | apply State.earlyIssue_keeps | apply State.faultAt_keeps
      | apply State.setCore_keeps | apply State.advance_keeps | apply State.setArray_keeps
      | apply State.launchPair_keeps | apply State.launch_keeps | apply Keeps.ite | apply Keeps.foldl
      | fail_if_no_progress (refine Keeps.upd ?_ rfl rfl))
    | exact State.issue_fault_keeps (by assumption) | exact State.issue_go_keeps (by assumption) | split

theorem execProfileLoad_keeps {s : State} (core : Fin 8) (w : IWord) : KeepsO s (execProfileLoad core w s) := by
  unfold execProfileLoad
  try extract_lets
  repeat' first
    | (with_reducible first
      | extract_lets | apply KeepsO.ite | apply KeepsO.next | intro _ | exact Keeps.refl _ | assumption
      | apply State.decodeFault_keeps | apply State.sRead_keeps | apply State.tgFault_keeps
      | apply State.setArray_keeps | apply State.advance_keeps | apply Keeps.ite | apply Keeps.foldl
      | fail_if_no_progress (refine Keeps.upd ?_ rfl rfl))
    | exact State.issue_fault_keeps (by assumption) | exact State.issue_go_keeps (by assumption) | split

theorem execTableLoad_keeps {s : State} (core : Fin 8) (w : IWord) : KeepsO s (execTableLoad core w s) := by
  unfold execTableLoad
  try extract_lets
  repeat' first
    | (with_reducible first
      | extract_lets | apply KeepsO.ite | apply KeepsO.next | intro _ | exact Keeps.refl _ | assumption
      | apply State.decodeFault_keeps | apply State.sReads_keeps | apply State.tgFault_keeps
      | apply State.raise_keeps | apply State.setArray_keeps | apply State.advance_keeps | apply Keeps.ite
      | apply Keeps.foldl | fail_if_no_progress (refine Keeps.upd ?_ rfl rfl))
    | exact State.issue_fault_keeps (by assumption) | exact State.issue_go_keeps (by assumption) | split

theorem State.streamVector_keeps {s t : State} (hk : Keeps s t) (l : Lane) (v cyc : Nat) : Keeps s (t.streamVector l
    v cyc).2.2 := by
  refine hk.trans ?_
  unfold State.streamVector
  try extract_lets
  repeat' first
    | (with_reducible first
      | extract_lets | intro _ | exact Keeps.refl _ | assumption | apply State.hbRead_keeps
      | apply State.readSlot_keeps | apply Keeps.ite | apply Keeps.foldl | apply Keeps.foldl_third
      | apply Keeps.foldl_snd | apply Keeps.foldl_fst | fail_if_no_progress (refine Keeps.upd ?_ rfl rfl))
    | split

theorem State.streamRun_keeps {s t : State} (h : Keeps s t) (l : Lane) (fin : Nat) (seen : Bool) (x0 : List Nat) :
    Keeps s (t.streamRun l fin seen x0).2 := by
  induction x0 generalizing t seen with
  | nil => exact h
  | cons v q ih =>
    unfold State.streamRun
    dsimp only
    split
    · exact State.streamVector_keeps h _ _ _
    · refine ih ?_ _
      have hw := State.writeVector_keeps (State.streamVector_keeps h l v (fin - 1 - q.length)) l v (fin - 1 - q.length)
        (t.streamVector l v (fin - 1 - q.length)).1.1 (t.streamVector l v (fin - 1 - q.length)).1.2
      split
      · exact State.cond_keeps (State.report_keeps hw _ _ _ _) _ _
      · exact hw

theorem State.afterStream_keeps {s t : State} (hk : Keeps s t) (n a cyc : Nat) : Keeps s (t.afterStream n a cyc) := by
  refine hk.trans ?_
  unfold State.afterStream
  try extract_lets
  repeat' first
    | (with_reducible first
      | extract_lets | intro _ | exact Keeps.refl _ | assumption | apply State.setCore_keeps
      | apply State.setArray_keeps | apply State.launchPair_keeps | apply State.launch_keeps | apply Keeps.ite
      | apply Keeps.foldl | fail_if_no_progress (refine Keeps.upd ?_ rfl rfl))
    | exact State.issue_fault_keeps (by assumption) | exact State.issue_go_keeps (by assumption) | split

theorem State.endStream_keeps {s t : State} (hk : Keeps s t) (n a cyc dry backup : Nat) (p : PassInst) : Keeps s
    (t.endStream n a cyc dry backup p) := by
  refine hk.trans ?_
  unfold State.endStream
  try extract_lets
  repeat' first
    | (with_reducible first
      | extract_lets | intro _ | exact Keeps.refl _ | assumption | apply State.setArray_keeps
      | apply State.setCore_keeps | apply State.fput_keeps | apply State.maCount_keeps
      | apply State.complete_keeps | apply State.afterStream_keeps)

theorem State.abandonEvent_keeps {s t : State} (hk : Keeps s t) (n a : Nat) (poisoned : Bool) : Keeps s
    (t.abandonEvent n a poisoned) := by
  refine hk.trans ?_
  unfold State.abandonEvent
  try extract_lets
  with_reducible repeat' first
    | extract_lets | intro _ | exact Keeps.refl _ | assumption | apply State.flag_keeps
    | apply State.sediment_keeps | apply State.cond_keeps | apply Keeps.ite

theorem State.stepEndRetry_keeps {s t : State} (hk : Keeps s t) (n cyc : Nat) : Keeps s (t.stepEndRetry n cyc) := by
  refine hk.trans ?_
  unfold State.stepEndRetry
  try extract_lets
  repeat' first
    | (with_reducible first
      | extract_lets | intro _ | exact Keeps.refl _ | assumption | apply State.boundary_keeps
      | apply Keeps.ite | apply Keeps.foldl | fail_if_no_progress (refine Keeps.upd ?_ rfl rfl))
    | split

theorem execStreamedPassComplete_keeps {s : State} (core : Fin 8) (arr : Fin 2) (cycles dry backup : Nat) : KeepsO s
    (execStreamedPassComplete core arr cycles dry backup s) := by
  unfold execStreamedPassComplete
  try extract_lets
  repeat' first
    | (with_reducible first
      | extract_lets | apply KeepsO.ite | apply KeepsO.next | intro _ | exact Keeps.refl _ | assumption
      | apply State.streamRun_keeps | apply State.abandonEvent_keeps | apply State.endStream_keeps
      | apply State.stepEndRetry_keeps | apply Keeps.ite | apply Keeps.foldl
      | fail_if_no_progress (refine Keeps.upd ?_ rfl rfl))
    | split

theorem execStreamAbandoned_keeps {s : State} (core : Fin 8) (arr : Fin 2) (cycles written dry backup : Nat)
    (poisoned : Bool) : KeepsO s (execStreamAbandoned core arr cycles written dry backup poisoned s) := by
  unfold execStreamAbandoned
  try extract_lets
  repeat' first
    | (with_reducible first
      | extract_lets | apply KeepsO.ite | apply KeepsO.next | intro _ | exact Keeps.refl _ | assumption
      | apply State.streamRun_keeps | apply State.abandonEvent_keeps | apply State.endStream_keeps
      | apply State.stepEndRetry_keeps | apply Keeps.ite | apply Keeps.foldl
      | fail_if_no_progress (refine Keeps.upd ?_ rfl rfl))
    | split

theorem State.maClear_keeps {s t : State} (hk : Keeps s t) (n a : Nat) : Keeps s (t.maClear n a) := by
  refine hk.trans ?_
  unfold State.maClear
  try extract_lets
  with_reducible repeat' first
    | extract_lets | intro _ | exact Keeps.refl _ | assumption | apply State.raise_keeps
    | apply State.fput_keeps | apply Keeps.ite

theorem State.maCleared_keeps {s t : State} (hk : Keeps s t) (n a : Nat) : Keeps s (t.maCleared n a) := by
  refine hk.trans ?_
  unfold State.maCleared
  try extract_lets
  with_reducible repeat' first
    | extract_lets | intro _ | exact Keeps.refl _ | assumption | apply State.setArray_keeps
    | apply State.fput_keeps

theorem State.maCountReset_keeps {s t : State} (hk : Keeps s t) (n a : Nat) : Keeps s (t.maCountReset n a) := by
  refine hk.trans ?_
  unfold State.maCountReset
  try extract_lets
  repeat' first
    | (with_reducible first
      | extract_lets | intro _ | exact Keeps.refl _ | assumption | apply State.setArray_keeps
      | apply State.fput64_keeps)

theorem State.maCountsClear_keeps {s t : State} (hk : Keeps s t) (n a : Nat) : Keeps s (t.maCountsClear n a) := by
  refine hk.trans ?_
  unfold State.maCountsClear
  try extract_lets
  with_reducible repeat' first
    | extract_lets | intro _ | exact Keeps.refl _ | assumption | apply State.wr_keeps

theorem execMaClearBanks_keeps {s : State} (core : Fin 8) (arr : Fin 2) : KeepsO s (execMaClearBanks core arr s) := by
  unfold execMaClearBanks
  try extract_lets
  with_reducible repeat' first
    | extract_lets | apply KeepsO.ite | apply KeepsO.next | intro _ | exact Keeps.refl _ | assumption
    | apply State.maClear_keeps

theorem execMaClearDone_keeps {s : State} (core : Fin 8) (arr : Fin 2) : KeepsO s (execMaClearDone core arr s) := by
  unfold execMaClearDone
  try extract_lets
  repeat' first
    | (with_reducible first
      | extract_lets | apply KeepsO.ite | apply KeepsO.next | intro _ | exact Keeps.refl _ | assumption
      | apply State.maCleared_keeps | apply Keeps.ite)

theorem execMaCountReset_keeps {s : State} (core : Fin 8) (arr : Fin 2) : KeepsO s (execMaCountReset core arr s) := by
  unfold execMaCountReset
  try extract_lets
  with_reducible repeat' first
    | extract_lets | apply KeepsO.ite | apply KeepsO.next | intro _ | exact Keeps.refl _ | assumption
    | apply State.maCountReset_keeps

theorem execMaCountsClear_keeps {s : State} (core : Fin 8) (arr : Fin 2) : KeepsO s (execMaCountsClear core arr s) :=
    by
  unfold execMaCountsClear
  try extract_lets
  with_reducible repeat' first
    | extract_lets | apply KeepsO.ite | apply KeepsO.next | intro _ | exact Keeps.refl _ | assumption
    | apply State.maCountsClear_keeps

theorem State.mvBytes_keeps {s t : State} (hk : Keeps s t) (n tier k : Nat) : Keeps s (t.mvBytes n tier k) := by
  refine hk.trans ?_
  unfold State.mvBytes
  try extract_lets
  with_reducible repeat' first
    | extract_lets | intro _ | exact Keeps.refl _ | assumption | apply State.fput64_keeps
    | apply State.raise_keeps | apply Keeps.ite

theorem State.spBytesA_keeps {s t : State} (hk : Keeps s t) (n off len req : Nat) : Keeps s (t.spBytesA n off len
    req).2.2 := by
  refine hk.trans ?_
  unfold State.spBytesA
  try extract_lets
  with_reducible repeat' first
    | extract_lets | intro _ | exact Keeps.refl _ | assumption | apply State.aRead_keeps | apply Keeps.ite
    | apply Keeps.foldl | apply Keeps.foldl_third

theorem State.spStoreA_keeps {s t : State} (hk : Keeps s t) (n off : Nat) (d : List Byte) : Keeps s (t.spStoreA n
    off d) := by
  refine hk.trans ?_
  unfold State.spStoreA
  try extract_lets
  repeat' first
    | (with_reducible first
      | extract_lets | intro _ | exact Keeps.refl _ | assumption | apply State.bankWriteBacks_keeps
      | apply State.spStore_keeps | apply Keeps.ite | apply Keeps.foldl | apply Keeps.foldl_third
      | apply Keeps.foldl_snd | apply Keeps.foldl_fst)

theorem State.hbBytesP_keeps {s t : State} (hk : Keeps s t) (off len port : Nat) : Keeps s (t.hbBytesP off len
    port).2.2 := by
  refine hk.trans ?_
  unfold State.hbBytesP
  try extract_lets
  with_reducible repeat' first
    | extract_lets | intro _ | exact Keeps.refl _ | assumption | apply State.hbRead_keeps | apply Keeps.ite
    | apply Keeps.foldl | apply Keeps.foldl_third

theorem State.readEnd_keeps {s t : State} (hk : Keeps s t) (n : Nat) (x : Transfer) (k : Nat) (off : Int) (len :
    Nat) (data : List Byte) (taken : Nat) : Keeps s (t.readEnd n x k off len data taken).2.2 := by
  refine hk.trans ?_
  unfold State.readEnd
  try extract_lets
  repeat' first
    | (with_reducible first
      | extract_lets | intro _ | exact Keeps.refl _ | assumption | apply State.mvBytes_keeps
      | apply State.spBytesA_keeps | apply State.hbBytesP_keeps | apply State.checkRead_keeps
      | apply State.releaseSlot_keeps | apply State.lpRead_keeps | apply State.raise_keeps | apply Keeps.ite
      | apply Keeps.foldl | fail_if_no_progress (refine Keeps.upd ?_ rfl rfl))
    | split

theorem State.writeEnd_keeps {s t : State} (hk : Keeps s t) (n : Nat) (x : Transfer) (off : Int) (d : List Byte) :
    Keeps s (t.writeEnd n x off d).2.2 := by
  refine hk.trans ?_
  unfold State.writeEnd
  try extract_lets
  repeat' first
    | (with_reducible first
      | extract_lets | intro _ | exact Keeps.refl _ | assumption | apply State.mvBytes_keeps
      | apply State.spStoreA_keeps | apply State.dropWrites_keeps | apply State.hbStore_keeps
      | apply State.claimSlot_keeps | apply State.makeValid_keeps | apply State.lpStore_keeps
      | apply State.emit_keeps | apply State.raise_keeps | apply Keeps.ite | apply Keeps.foldl
      | fail_if_no_progress (refine Keeps.upd ?_ rfl rfl))
    | split

theorem State.readRun_keeps {s t : State} (h : Keeps s t) (n : Nat) (x : Transfer) (k : Nat) (data : List Byte) :
    Keeps s (t.readRun n x k data).2.2 := by
  unfold State.readRun
  extract_lets
  split
  · refine Keeps.foldl_of (fun x : Option (List (List Byte)) × Cause × State => x.2.2) h fun b y hb => ?_
    try dsimp only
    split
    · exact hb
    · exact State.readEnd_keeps hb _ _ _ _ _ _ _
  · exact State.readEnd_keeps h _ _ _ _ _ _ _

theorem State.writeRun_keeps {s t : State} (h : Keeps s t) (n : Nat) (x : Transfer) (k : Nat) (d : List Byte) :
    Keeps s (t.writeRun n x k d).2.2 := by
  unfold State.writeRun
  split
  · refine Keeps.foldl_of (fun x : Bool × Cause × State => x.2.2) h fun b y hb => ?_
    try dsimp only
    split
    · exact hb
    · exact State.writeEnd_keeps hb _ _ _ _
  · exact State.writeEnd_keeps h _ _ _ _

theorem State.moveRuns_keeps {s t : State} (h : Keeps s t) (n : Nat) (x : Transfer) (data : List Byte) (x0 : List
    Nat) : Keeps s (t.moveRuns n x data x0).2 := by
  induction x0 generalizing t with
  | nil => exact h
  | cons k q ih =>
    unfold State.moveRuns
    dsimp only
    split
    · exact State.readRun_keeps h _ _ _ _
    · split
      · exact ih (State.writeRun_keeps (State.readRun_keeps h _ _ _ _) _ _ _ _)
      · exact State.writeRun_keeps (State.readRun_keeps h _ _ _ _) _ _ _ _

theorem State.startTransfers_keeps {s t : State} (hk : Keeps s t) (n : Nat) : Keeps s (t.startTransfers n) := by
  refine hk.trans ?_
  unfold State.startTransfers
  try extract_lets
  with_reducible repeat' first
    | extract_lets | intro _ | exact Keeps.refl _ | assumption | apply State.setCore_keeps

theorem State.landNow_keeps {s t : State} (h : Keeps s t) (n : Nat) (x0 : Option (Nat × Word)) : Keeps s (t.landNow n
    x0) := by
  unfold State.landNow
  split
  · exact h
  · split
    · exact State.dropWrites_keeps h _
    · exact State.signalObj_keeps h _ _

theorem State.retire_keeps {s u : State} (hk : Keeps s u) (n : Nat) (t : Transfer) : Keeps s (u.retire n t) := by
  refine hk.trans ?_
  unfold State.retire
  try extract_lets
  with_reducible repeat' first
    | extract_lets | intro _ | exact Keeps.refl _ | assumption | apply State.setCore_keeps
    | apply State.landNow_keeps | apply State.startTransfers_keeps

theorem State.failTransfer_keeps {s u : State} (hk : Keeps s u) (n : Nat) (t : Transfer) (cause : Cause) : Keeps s
    (u.failTransfer n t cause) := by
  refine hk.trans ?_
  unfold State.failTransfer
  try extract_lets
  with_reducible repeat' first
    | extract_lets | intro _ | exact Keeps.refl _ | assumption | apply State.raise_keeps
    | apply State.cond_keeps | apply State.flag_keeps | apply State.sediment_keeps | apply State.retire_keeps
    | apply Keeps.ite | apply Keeps.foldl | fail_if_no_progress (refine Keeps.upd ?_ rfl rfl)

theorem State.setTransfer_keeps {s t : State} (hk : Keeps s t) (n : Nat) (x : Transfer) : Keeps s (t.setTransfer n
    x) := by
  refine hk.trans ?_
  unfold State.setTransfer
  try extract_lets
  repeat' first
    | (with_reducible first
      | extract_lets | intro _ | exact Keeps.refl _ | assumption | apply State.setCore_keeps)

theorem State.ringRead_keeps {s t : State} (hk : Keeps s t) (n : Nat) (x : Transfer) (off : Nat) (data : List Byte)
    : Keeps s (t.ringRead n x off data).2 := by
  refine hk.trans ?_
  unfold State.ringRead
  try extract_lets
  repeat' first
    | (with_reducible first
      | extract_lets | intro _ | exact Keeps.refl _ | assumption | apply State.readRun_keeps
      | apply State.draw_keeps | apply Keeps.ite | apply Keeps.foldl
      | fail_if_no_progress (refine Keeps.upd ?_ rfl rfl))
    | split | dsimp (zetaDelta := true) (zeta := false) only

theorem State.ringOpen_keeps {s t : State} (hk : Keeps s t) (n : Nat) (x : Transfer) (addr : Nat) : Keeps s
    (t.ringOpen n x addr) := by
  refine hk.trans ?_
  unfold State.ringOpen
  try extract_lets
  repeat' first
    | (with_reducible first
      | extract_lets | intro _ | exact Keeps.refl _ | assumption | apply State.setTransfer_keeps
      | apply State.openBurst_keeps | apply Keeps.ite | apply Keeps.foldl
      | fail_if_no_progress (refine Keeps.upd ?_ rfl rfl))
    | split

theorem State.ringOwn_keeps {s t : State} (hk : Keeps s t) (n : Nat) (x : Transfer) (off : Nat) (data : List Byte) :
    Keeps s (t.ringOwn n x off data) := by
  refine hk.trans ?_
  unfold State.ringOwn
  try extract_lets
  repeat' first
    | (with_reducible first
      | extract_lets | intro _ | exact Keeps.refl _ | assumption | apply State.moveRuns_keeps
      | apply State.failTransfer_keeps | apply State.retire_keeps | apply Keeps.ite | apply Keeps.foldl
      | fail_if_no_progress (refine Keeps.upd ?_ rfl rfl))
    | split

theorem State.ringStep_keeps {s t : State} (hk : Keeps s t) (n : Nat) (x : Transfer) : Keeps s (t.ringStep n x) := by
  refine hk.trans ?_
  unfold State.ringStep
  try extract_lets
  repeat' first
    | (with_reducible first
      | extract_lets | intro _ | exact Keeps.refl _ | assumption | apply State.failTransfer_keeps
      | apply State.cond_keeps | apply State.dropWrites_keeps | apply State.ringOpen_keeps
      | apply State.ringOwn_keeps | apply State.ringRead_keeps | apply Keeps.ite | apply Keeps.foldl
      | fail_if_no_progress (refine Keeps.upd ?_ rfl rfl))
    | split

theorem State.ringFill_keeps {s t : State} (hk : Keeps s t) (n : Nat) (x : Transfer) (data : List Byte) : Keeps s
    (t.ringFill n x data) := by
  refine hk.trans ?_
  unfold State.ringFill
  try extract_lets
  repeat' first
    | (with_reducible first
      | extract_lets | intro _ | exact Keeps.refl _ | assumption | apply State.ringOwn_keeps
      | apply State.ringRead_keeps | apply State.failTransfer_keeps | apply State.setTransfer_keeps
      | apply Keeps.ite | apply Keeps.foldl | apply Keeps.foldl_third | apply Keeps.foldl_snd
      | apply Keeps.foldl_fst | fail_if_no_progress (refine Keeps.upd ?_ rfl rfl))
    | split

theorem State.ringKick_keeps {s t : State} (hk : Keeps s t) (n : Nat) : Keeps s (t.ringKick n) := by
  refine hk.trans ?_
  unfold State.ringKick
  try extract_lets
  repeat' first
    | (with_reducible first
      | extract_lets | intro _ | exact Keeps.refl _ | assumption | apply State.ringStep_keeps
      | apply Keeps.ite | apply Keeps.foldl | apply Keeps.foldl_third | apply Keeps.foldl_snd
      | apply Keeps.foldl_fst | fail_if_no_progress (refine Keeps.upd ?_ rfl rfl))
    | split

theorem State.mvSettle_keeps {s t : State} (hk : Keeps s t) (n : Nat) : Keeps s (t.mvSettle n) := by
  refine hk.trans ?_
  unfold State.mvSettle
  try extract_lets
  with_reducible repeat' first
    | extract_lets | intro _ | exact Keeps.refl _ | assumption | apply State.startTransfers_keeps
    | apply State.ringKick_keeps | apply State.stepEndRetry_keeps

theorem execMove_keeps {s : State} (core : Fin 8) (w : IWord) : KeepsO s (execMove core w s) := by
  unfold execMove
  try extract_lets
  repeat' first
    | (with_reducible first
      | extract_lets | apply KeepsO.ite | apply KeepsO.next | intro _ | exact Keeps.refl _ | assumption
      | apply State.decodeFault_keeps | apply State.sRead_keeps | apply State.faultAt_keeps
      | apply State.setCore_keeps | apply State.advance_keeps | apply State.mvSettle_keeps | apply Keeps.ite
      | apply Keeps.foldl | fail_if_no_progress (refine Keeps.upd ?_ rfl rfl))
    | exact State.issue_fault_keeps (by assumption) | exact State.issue_go_keeps (by assumption) | split

theorem execTransferComplete_keeps {s : State} (core : Fin 8) (idx : Nat) (data : List Byte) : KeepsO s
    (execTransferComplete core idx data s) := by
  unfold execTransferComplete
  try extract_lets
  repeat' first
    | (with_reducible first
      | extract_lets | apply KeepsO.ite | apply KeepsO.next | intro _ | exact Keeps.refl _ | assumption
      | apply State.ringFill_keeps | apply State.mvSettle_keeps | apply State.moveRuns_keeps
      | apply State.failTransfer_keeps | apply State.retire_keeps | apply Keeps.ite | apply Keeps.foldl
      | fail_if_no_progress (refine Keeps.upd ?_ rfl rfl))
    | split

theorem execTransferFailed_keeps {s : State} (core : Fin 8) (idx : Nat) (cause : Fin 3) (runs : Nat) (data : List
    Byte) : KeepsO s (execTransferFailed core idx cause runs data s) := by
  unfold execTransferFailed
  try extract_lets
  repeat' first
    | (with_reducible first
      | extract_lets | apply KeepsO.ite | apply KeepsO.next | intro _ | exact Keeps.refl _ | assumption
      | apply State.failTransfer_keeps | apply State.mvSettle_keeps | apply State.moveRuns_keeps
      | apply Keeps.ite | apply Keeps.foldl | fail_if_no_progress (refine Keeps.upd ?_ rfl rfl))
    | split

theorem State.deliverNow_keeps {s t : State} (hk : Keeps s t) (target line : Nat) (d : List Byte) : Keeps s
    (t.deliverNow target line d) := by
  refine hk.trans ?_
  unfold State.deliverNow
  try extract_lets
  repeat' first
    | (with_reducible first
      | extract_lets | intro _ | exact Keeps.refl _ | assumption | apply State.spStoreA_keeps
      | apply State.hbStore_keeps | apply Keeps.ite)

theorem State.deliverTo_keeps {s t : State} (hk : Keeps s t) (target line : Nat) (d : List Byte) : Keeps s
    (t.deliverTo target line d) := by
  refine hk.trans ?_
  unfold State.deliverTo
  try extract_lets
  repeat' first
    | (with_reducible first
      | extract_lets | intro _ | exact Keeps.refl _ | assumption | apply State.deliverNow_keeps
      | apply Keeps.ite | apply Keeps.foldl | fail_if_no_progress (refine Keeps.upd ?_ rfl rfl))

theorem State.deliverHeld_keeps {s t : State} (hk : Keeps s t) : Keeps s t.deliverHeld := by
  refine hk.trans ?_
  unfold State.deliverHeld
  try extract_lets
  repeat' first
    | (with_reducible first
      | extract_lets | intro _ | exact Keeps.refl _ | assumption | apply State.deliverTo_keeps
      | apply Keeps.ite | apply Keeps.foldl | apply Keeps.foldl_third | apply Keeps.foldl_snd
      | apply Keeps.foldl_fst | fail_if_no_progress (refine Keeps.upd ?_ rfl rfl))

theorem State.mvCountReset_keeps {s t : State} (hk : Keeps s t) (n : Nat) : Keeps s (t.mvCountReset n) := by
  refine hk.trans ?_
  unfold State.mvCountReset
  try extract_lets
  with_reducible repeat' first
    | extract_lets | intro _ | exact Keeps.refl _ | assumption | apply State.fput64_keeps | apply Keeps.ite
    | apply Keeps.foldl

theorem execMvCountReset_keeps {s : State} (core : Fin 8) : KeepsO s (execMvCountReset core s) := by
  unfold execMvCountReset
  try extract_lets
  with_reducible repeat' first
    | extract_lets | apply KeepsO.ite | apply KeepsO.next | intro _ | exact Keeps.refl _ | assumption
    | apply State.mvCountReset_keeps

theorem execSignal_keeps {s : State} (core : Fin 8) (w : IWord) : KeepsO s (execSignal core w s) := by
  unfold execSignal
  try extract_lets
  repeat' first
    | (with_reducible first
      | extract_lets | apply KeepsO.ite | apply KeepsO.next | intro _ | exact Keeps.refl _ | assumption
      | apply State.decodeFault_keeps | apply State.dropWrites_keeps | apply State.remoteSignal_keeps
      | apply State.advance_keeps | apply State.complete_keeps | apply Keeps.ite | apply Keeps.foldl
      | fail_if_no_progress (refine Keeps.upd ?_ rfl rfl))
    | exact State.issue_fault_keeps (by assumption) | exact State.issue_go_keeps (by assumption) | split

theorem State.satisfy_keeps {s t : State} (hk : Keeps s t) (n cyc : Nat) : Keeps s (t.satisfy n cyc) := by
  refine hk.trans ?_
  unfold State.satisfy
  try extract_lets
  with_reducible repeat' first
    | extract_lets | intro _ | exact Keeps.refl _ | assumption | apply State.setCore_keeps
    | apply State.advance_keeps

theorem execWait_keeps {s : State} (core : Fin 8) (w : IWord) : KeepsO s (execWait core w s) := by
  unfold execWait
  try extract_lets
  repeat' first
    | (with_reducible first
      | extract_lets | apply KeepsO.ite | apply KeepsO.next | intro _ | exact Keeps.refl _ | assumption
      | apply State.decodeFault_keeps | apply State.satisfy_keeps | apply State.setCore_keeps
      | apply State.fput_keeps | apply Keeps.ite | apply Keeps.foldl
      | fail_if_no_progress (refine Keeps.upd ?_ rfl rfl))
    | exact State.issue_fault_keeps (by assumption) | exact State.issue_go_keeps (by assumption) | split

theorem execSetObj_keeps {s : State} (core : Fin 8) (w : IWord) : KeepsO s (execSetObj core w s) := by
  unfold execSetObj
  try extract_lets
  repeat' first
    | (with_reducible first
      | extract_lets | apply KeepsO.ite | apply KeepsO.next | intro _ | exact Keeps.refl _ | assumption
      | apply State.decodeFault_keeps | apply State.dropWrites_keeps | apply State.replaceObject_keeps
      | apply State.advance_keeps | apply Keeps.ite | apply Keeps.foldl
      | fail_if_no_progress (refine Keeps.upd ?_ rfl rfl))
    | exact State.issue_fault_keeps (by assumption) | exact State.issue_go_keeps (by assumption) | split

theorem execWaitSatisfied_keeps {s : State} (core : Fin 8) (cycles : Nat) : KeepsO s (execWaitSatisfied core cycles
    s) := by
  unfold execWaitSatisfied
  try extract_lets
  repeat' first
    | (with_reducible first
      | extract_lets | apply KeepsO.ite | apply KeepsO.next | intro _ | exact Keeps.refl _ | assumption
      | apply State.waitCycles_keeps | apply State.fput_keeps | apply State.satisfy_keeps | apply Keeps.ite
      | apply Keeps.foldl | fail_if_no_progress (refine Keeps.upd ?_ rfl rfl))
    | split

theorem execWaitTimeout_keeps {s : State} (core : Fin 8) (cycles : Nat) : KeepsO s (execWaitTimeout core cycles s)
    := by
  unfold execWaitTimeout
  try extract_lets
  repeat' first
    | (with_reducible first
      | extract_lets | apply KeepsO.ite | apply KeepsO.next | intro _ | exact Keeps.refl _ | assumption
      | apply State.waitCycles_keeps | apply State.faultAt_keeps | apply Keeps.ite | apply Keeps.foldl
      | fail_if_no_progress (refine Keeps.upd ?_ rfl rfl))
    | split

theorem execMpSyncSignal_keeps {s : State} (obj : Fin 32768) (inc : Word) : KeepsO s (execMpSyncSignal obj inc s) :=
    by
  unfold execMpSyncSignal
  try extract_lets
  with_reducible repeat' first
    | extract_lets | apply KeepsO.ite | apply KeepsO.next | intro _ | exact Keeps.refl _ | assumption
    | apply State.signalObj_keeps

theorem execMpSyncSet_keeps {s : State} (obj : Fin 32768) (v : Word) : KeepsO s (execMpSyncSet obj v s) := by
  unfold execMpSyncSet
  try extract_lets
  repeat' first
    | (with_reducible first
      | extract_lets | apply KeepsO.ite | apply KeepsO.next | intro _ | exact Keeps.refl _ | assumption
      | apply State.replaceObject_keeps)

theorem State.startCore_keeps {s t : State} (hk : Keeps s t) (n : Nat) : Keeps s (t.startCore n) := by
  refine hk.trans ?_
  unfold State.startCore
  try extract_lets
  repeat' first
    | (with_reducible first
      | extract_lets | intro _ | exact Keeps.refl _ | assumption | apply State.setCore_keeps
      | apply State.fput_keeps | apply State.fetchLine_keeps | apply Keeps.ite)

theorem State.abortDone_keeps {s t : State} (hk : Keeps s t) (n : Nat) : Keeps s (t.abortDone n) := by
  refine hk.trans ?_
  unfold State.abortDone
  try extract_lets
  repeat' first
    | (with_reducible first
      | extract_lets | intro _ | exact Keeps.refl _ | assumption | apply State.setArray_keeps
      | apply State.setCore_keeps | apply State.fput_keeps)

theorem execNcStart_keeps {s : State} (core : Fin 8) : KeepsO s (execNcStart core s) := by
  unfold execNcStart
  try extract_lets
  with_reducible repeat' first
    | extract_lets | apply KeepsO.ite | apply KeepsO.next | intro _ | exact Keeps.refl _ | assumption
    | apply State.startCore_keeps

theorem execNcAbort_keeps {s : State} (core : Fin 8) : KeepsO s (execNcAbort core s) := by
  unfold execNcAbort
  try extract_lets
  with_reducible repeat' first
    | extract_lets | apply KeepsO.ite | apply KeepsO.next | intro _ | exact Keeps.refl _ | assumption
    | apply State.abortCore_keeps

theorem execNcAbortDone_keeps {s : State} (core : Fin 8) : KeepsO s (execNcAbortDone core s) := by
  unfold execNcAbortDone
  try extract_lets
  repeat' first
    | (with_reducible first
      | extract_lets | apply KeepsO.ite | apply KeepsO.next | intro _ | exact Keeps.refl _ | assumption
      | apply State.abortDone_keeps | apply Keeps.ite)

theorem State.ncCountReset_keeps {s t : State} (hk : Keeps s t) (n : Nat) : Keeps s (t.ncCountReset n) := by
  refine hk.trans ?_
  unfold State.ncCountReset
  try extract_lets
  repeat' first
    | (with_reducible first
      | extract_lets | intro _ | exact Keeps.refl _ | assumption | apply State.waitedSoFar_keeps
      | apply State.setCore_keeps | apply State.fput64_keeps)

theorem execNcCountReset_keeps {s : State} (core : Fin 8) : KeepsO s (execNcCountReset core s) := by
  unfold execNcCountReset
  try extract_lets
  with_reducible repeat' first
    | extract_lets | apply KeepsO.ite | apply KeepsO.next | intro _ | exact Keeps.refl _ | assumption
    | apply State.ncCountReset_keeps

theorem State.cpRelease_keeps {s t : State} (hk : Keeps s t) (n : Nat) : Keeps s (t.cpRelease n) := by
  refine hk.trans ?_
  unfold State.cpRelease
  try extract_lets
  with_reducible repeat' first
    | extract_lets | intro _ | exact Keeps.refl _ | assumption | apply State.fput_keeps

theorem State.cpHold_keeps {s t : State} (hk : Keeps s t) (n : Nat) : Keeps s (t.cpHold n) := by
  refine hk.trans ?_
  unfold State.cpHold
  try extract_lets
  with_reducible repeat' first
    | extract_lets | intro _ | exact Keeps.refl _ | assumption | apply State.fput_keeps

theorem execCpRelease_keeps {s : State} (core : Fin 8) : KeepsO s (execCpRelease core s) := by
  unfold execCpRelease
  try extract_lets
  with_reducible repeat' first
    | extract_lets | apply KeepsO.ite | apply KeepsO.next | intro _ | exact Keeps.refl _ | assumption
    | apply State.cpRelease_keeps

theorem execCpHold_keeps {s : State} (core : Fin 8) : KeepsO s (execCpHold core s) := by
  unfold execCpHold
  try extract_lets
  with_reducible repeat' first
    | extract_lets | apply KeepsO.ite | apply KeepsO.next | intro _ | exact Keeps.refl _ | assumption
    | apply State.cpHold_keeps

theorem State.tgClear_keeps {s t : State} (hk : Keeps s t) (n : Nat) : Keeps s (t.tgClear n) := by
  refine hk.trans ?_
  unfold State.tgClear
  try extract_lets
  repeat' first
    | (with_reducible first
      | extract_lets | intro _ | exact Keeps.refl _ | assumption | apply State.setCore_keeps
      | apply State.wr_keeps | apply Keeps.ite | apply Keeps.foldl)

theorem execTgLogClear_keeps {s : State} (core : Fin 8) : KeepsO s (execTgLogClear core s) := by
  unfold execTgLogClear
  try extract_lets
  with_reducible repeat' first
    | extract_lets | apply KeepsO.ite | apply KeepsO.next | intro _ | exact Keeps.refl _ | assumption
    | apply State.tgClear_keeps

theorem State.spScrub_keeps {s t : State} (hk : Keeps s t) (n : Nat) : Keeps s (t.spScrub n) := by
  refine hk.trans ?_
  unfold State.spScrub
  try extract_lets
  with_reducible repeat' first
    | extract_lets | intro _ | exact Keeps.refl _ | assumption | apply State.raise_keeps
    | apply State.clearRange_keeps | apply State.fput_keeps | apply State.setCore_keeps | apply Keeps.ite

theorem State.spScrubbed_keeps {s t : State} (hk : Keeps s t) (n : Nat) : Keeps s (t.spScrubbed n) := by
  refine hk.trans ?_
  unfold State.spScrubbed
  try extract_lets
  repeat' first
    | (with_reducible first
      | extract_lets | intro _ | exact Keeps.refl _ | assumption | apply State.fput_keeps
      | apply State.setCore_keeps | apply State.mvSettle_keeps | apply State.deliverHeld_keeps)

theorem execSpScrubStart_keeps {s : State} (core : Fin 8) : KeepsO s (execSpScrubStart core s) := by
  unfold execSpScrubStart
  try extract_lets
  with_reducible repeat' first
    | extract_lets | apply KeepsO.ite | apply KeepsO.next | intro _ | exact Keeps.refl _ | assumption
    | apply State.spScrub_keeps

theorem execSpScrubDone_keeps {s : State} (core : Fin 8) : KeepsO s (execSpScrubDone core s) := by
  unfold execSpScrubDone
  try extract_lets
  repeat' first
    | (with_reducible first
      | extract_lets | apply KeepsO.ite | apply KeepsO.next | intro _ | exact Keeps.refl _ | assumption
      | apply State.spScrubbed_keeps | apply Keeps.ite)

theorem execSpCountsClear_keeps {s : State} (core : Fin 8) : KeepsO s (execSpCountsClear core s) := by
  unfold execSpCountsClear
  try extract_lets
  with_reducible repeat' first
    | extract_lets | apply KeepsO.ite | apply KeepsO.next | intro _ | exact Keeps.refl _ | assumption
    | apply State.wr_keeps

theorem execSpInjectArm_keeps {s : State} (core : Fin 8) (v : Word) : KeepsO s (execSpInjectArm core v s) := by
  unfold execSpInjectArm
  try extract_lets
  with_reducible repeat' first
    | extract_lets | apply KeepsO.ite | apply KeepsO.next | intro _ | exact Keeps.refl _ | assumption
    | apply State.wr_keeps

theorem execSpAsyncWriteback_keeps {s : State} (core : Fin 8) (line : Nat) : KeepsO s (execSpAsyncWriteback core
    line s) := by
  unfold execSpAsyncWriteback
  try extract_lets
  repeat' first
    | (with_reducible first
      | extract_lets | apply KeepsO.ite | apply KeepsO.next | intro _ | exact Keeps.refl _ | assumption
      | apply State.asyncWriteBack_keeps | apply Keeps.ite)

theorem State.hbScrub_keeps {s t : State} (hk : Keeps s t) : Keeps s t.hbScrub := by
  refine hk.trans ?_
  unfold State.hbScrub
  try extract_lets
  repeat' first
    | (with_reducible first
      | extract_lets | intro _ | exact Keeps.refl _ | assumption | apply State.clearRange_keeps
      | apply State.fput_keeps | apply Keeps.ite)

theorem State.hbScrubbed_keeps {s t : State} (hk : Keeps s t) : Keeps s t.hbScrubbed := by
  refine hk.trans ?_
  unfold State.hbScrubbed
  try extract_lets
  repeat' first
    | (with_reducible first
      | extract_lets | intro _ | exact Keeps.refl _ | assumption | apply State.mvSettle_keeps
      | apply State.fput_keeps | apply State.deliverHeld_keeps | apply Keeps.ite | apply Keeps.foldl)

theorem execHbScrubStart_keeps {s : State} : KeepsO s (execHbScrubStart s) := by
  unfold execHbScrubStart
  try extract_lets
  repeat' first
    | (with_reducible first
      | extract_lets | apply KeepsO.ite | apply KeepsO.next | intro _ | exact Keeps.refl _ | assumption
      | apply State.hbScrub_keeps)

theorem execHbScrubDone_keeps {s : State} : KeepsO s (execHbScrubDone s) := by
  unfold execHbScrubDone
  try extract_lets
  repeat' first
    | (with_reducible first
      | extract_lets | apply KeepsO.ite | apply KeepsO.next | intro _ | exact Keeps.refl _ | assumption
      | apply State.hbScrubbed_keeps | apply Keeps.ite)

theorem execHbCountsClear_keeps {s : State}  : KeepsO s (execHbCountsClear  s) := by
  unfold execHbCountsClear
  try extract_lets
  with_reducible repeat' first
    | extract_lets | apply KeepsO.ite | apply KeepsO.next | intro _ | exact Keeps.refl _ | assumption
    | apply State.wr_keeps

theorem execVeCountsClear_keeps {s : State} (core : Fin 8) : KeepsO s (execVeCountsClear core s) := by
  unfold execVeCountsClear
  try extract_lets
  with_reducible repeat' first
    | extract_lets | apply KeepsO.ite | apply KeepsO.next | intro _ | exact Keeps.refl _ | assumption
    | apply State.wr_keeps

theorem State.vLines_keeps {s t : State} (h : Keeps s t) (who : Who) (rank base cyc : Nat) (x0 : List (Nat × Nat)) :
    Keeps s (t.vLines who rank base cyc x0).2 := by
  induction x0 generalizing t with
  | nil => exact h
  | cons b l ih => exact ih (State.sRead_keeps h who (cyc + b.1 / 4) (base + b.2) rank)

theorem State.vRead_keeps {s t : State} (hk : Keeps s t) (who : Who) (x : VOpd) (head k cyc q : Nat) (idx : List
    Nat) (rank : Nat) : Keeps s (t.vRead who x head k cyc q idx rank).2.2 := by
  refine hk.trans ?_
  unfold State.vRead
  try extract_lets
  repeat' first
    | (with_reducible first
      | extract_lets | intro _ | exact Keeps.refl _ | assumption | apply State.vLines_keeps
      | apply State.genNext_keeps | apply State.checkRead_keeps | apply State.releaseSlot_keeps
      | apply Keeps.ite | apply Keeps.foldl | fail_if_no_progress (refine Keeps.upd ?_ rfl rfl))
    | split | dsimp (zetaDelta := true) (zeta := false) only

theorem State.vWriteLines_keeps {s t : State} (h : Keeps s t) (who : Who) (rank base last lines : Nat) (x0 : List
    (Nat × List Byte)) : Keeps s (t.vWriteLines who rank base last lines x0) := by
  induction x0 generalizing t with
  | nil => exact h
  | cons b l ih => exact ih (State.sWrite_keeps h who (last - (ceilDiv lines 4 - 1) + b.1 / 4) (base + b.1) 0 rank b.2)

theorem State.vWrite_keeps {s t : State} (hk : Keeps s t) (who : Who) (x : VOpd) (k last : Nat) (slot : Option Nat)
    (o : VOut) (rank : Nat) : Keeps s (t.vWrite who x k last slot o rank) := by
  refine hk.trans ?_
  unfold State.vWrite
  try extract_lets
  repeat' first
    | (with_reducible first
      | extract_lets | intro _ | exact Keeps.refl _ | assumption | apply State.vWriteLines_keeps
      | apply State.claimSlot_keeps | apply State.makeValid_keeps | apply Keeps.ite | apply Keeps.foldl
      | fail_if_no_progress (refine Keeps.upd ?_ rfl rfl))
    | split | dsimp (zetaDelta := true) (zeta := false) only

theorem State.veEvents_keeps {s t : State} (hk : Keeps s t) (n : Nat) (o : VOut) : Keeps s (t.veEvents n o) := by
  refine hk.trans ?_
  unfold State.veEvents
  try extract_lets
  with_reducible repeat' first
    | extract_lets | intro _ | exact Keeps.refl _ | assumption | apply State.raise_keeps
    | apply State.fsat_keeps | apply Keeps.ite

theorem State.vLeaves_keeps {s t : State} (h : Keeps s t) (who : Who) (v : VInst) (x : VOpd) (head k base per : Nat)
    (x0 : List Nat) : Keeps s (t.vLeaves who v x head k base per x0).2 := by
  induction x0 generalizing t with
  | nil => exact h
  | cons b l ih => exact ih (State.vRead_keeps h who x head (k * v.leaves + b) (base + v.leafCycle b per) 0 (List.range x.lines) rankVe)

theorem State.vecOne_keeps {s t : State} (hk : Keeps s t) (who : Who) (v : VInst) (xa : VOpd) (xb : Option VOpd) (xd
    : VOpd) (ha hb start c per depth : Nat) (k : Nat) : Keeps s (t.vecOne who v xa xb xd ha hb start c per depth k)
    := by
  refine hk.trans ?_
  unfold State.vecOne
  try extract_lets
  repeat' first
    | (with_reducible first
      | extract_lets | intro _ | exact Keeps.refl _ | assumption | apply State.vLeaves_keeps
      | apply State.vRead_keeps | apply State.vLines_keeps | apply State.claimSlot_keeps
      | apply State.vWrite_keeps | apply State.veEvents_keeps | apply Keeps.ite | apply Keeps.foldl
      | fail_if_no_progress (refine Keeps.upd ?_ rfl rfl))
    | split | dsimp (zetaDelta := true) (zeta := false) only

theorem State.vDone_keeps {s t : State} (hk : Keeps s t) (who : Who) (ops : List (VOpd × Nat)) (last : Nat) : Keeps
    s (t.vDone who ops last) := by
  refine hk.trans ?_
  unfold State.vDone
  try extract_lets
  repeat' first
    | (with_reducible first
      | extract_lets | intro _ | exact Keeps.refl _ | assumption | apply State.genFree_keeps
      | apply State.useRegion_keeps | apply Keeps.ite | apply Keeps.foldl)

theorem State.vecInst_keeps {s t : State} (hk : Keeps s t) (n : Nat) (w : IWord) (op : Nat) : Keeps s (t.vecInst n w
    op) := by
  refine hk.trans ?_
  unfold State.vecInst
  try extract_lets
  repeat' first
    | (with_reducible first
      | extract_lets | intro _ | exact Keeps.refl _ | assumption | apply State.decodeFault_keeps
      | apply State.engineStart_keeps | apply State.vecOne_keeps | apply State.vDone_keeps
      | apply State.setCore_keeps | apply State.advance_keeps | apply Keeps.ite | apply Keeps.foldl
      | apply Keeps.foldl_third | apply Keeps.foldl_snd | apply Keeps.foldl_fst
      | fail_if_no_progress (refine Keeps.upd ?_ rfl rfl))
    | exact State.issue_fault_keeps (by assumption) | exact State.issue_go_keeps (by assumption) | split | dsimp (zetaDelta := true) (zeta := false) only

theorem execVeTableLoad_keeps {s : State} (core : Fin 8) (w : IWord) : KeepsO s (execVeTableLoad core w s) := by
  unfold execVeTableLoad
  try extract_lets
  repeat' first
    | (with_reducible first
      | extract_lets | apply KeepsO.ite | apply KeepsO.next | intro _ | exact Keeps.refl _ | assumption
      | apply State.decodeFault_keeps | apply State.engineStart_keeps | apply State.tgFault_keeps
      | apply State.sReads_keeps | apply State.setCore_keeps | apply State.advance_keeps | apply Keeps.ite
      | apply Keeps.foldl | apply Keeps.foldl_third | apply Keeps.foldl_snd | apply Keeps.foldl_fst
      | fail_if_no_progress (refine Keeps.upd ?_ rfl rfl))
    | exact State.issue_fault_keeps (by assumption) | exact State.issue_go_keeps (by assumption) | split

theorem State.patchReads_keeps {s t : State} (h : Keeps s t) (who : Who) (x : VOpd) (head k taps cyc : Nat) (x0 :
    List Nat) : Keeps s (t.patchReads who x head k taps cyc x0).2 := by
  induction x0 generalizing t with
  | nil => exact h
  | cons b l ih => exact ih (State.vRead_keeps h who x head (k * taps + b) cyc (b * x.lines) (List.range x.lines) rankVe)

theorem State.patchOne_keeps {s t : State} (hk : Keeps s t) (who : Who) (v : VInst) (xa xd : VOpd) (head start c k :
    Nat) : Keeps s (t.patchOne who v xa xd head start c k) := by
  refine hk.trans ?_
  unfold State.patchOne
  try extract_lets
  with_reducible repeat' first
    | extract_lets | intro _ | exact Keeps.refl _ | assumption | apply State.patchReads_keeps
    | apply State.vWrite_keeps | apply State.veEvents_keeps

theorem execVePatch_keeps {s : State} (core : Fin 8) (w : IWord) : KeepsO s (execVePatch core w s) := by
  unfold execVePatch
  try extract_lets
  repeat' first
    | (with_reducible first
      | extract_lets | apply KeepsO.ite | apply KeepsO.next | intro _ | exact Keeps.refl _ | assumption
      | apply State.decodeFault_keeps | apply State.engineStart_keeps | apply State.patchOne_keeps
      | apply State.vDone_keeps | apply State.advance_keeps | apply Keeps.ite | apply Keeps.foldl
      | apply Keeps.foldl_third | apply Keeps.foldl_snd | apply Keeps.foldl_fst
      | fail_if_no_progress (refine Keeps.upd ?_ rfl rfl))
    | exact State.issue_fault_keeps (by assumption) | exact State.issue_go_keeps (by assumption) | split | dsimp (zetaDelta := true) (zeta := false) only

theorem State.planeReads_keeps {s t : State} (h : Keeps s t) (who : Who) (base c : Nat) (x0 : List (PlaneLine × Nat)) :
    Keeps s (t.planeReads who base c x0).2 := by
  induction x0 generalizing t with
  | nil => exact h
  | cons b l ih => exact ih (State.sRead_keeps h _ _ _ _)

theorem State.planeWrites_keeps {s t : State} (h : Keeps s t) (who : Who) (base c : Nat) (m : Sparse Nat)
    (x0 : List (PlaneLine × Nat)) (x1 : List (Nat × List Byte)) : Keeps s (t.planeWrites who base c m x0 x1) := by
  induction x0 generalizing t x1 with
  | nil => exact h
  | cons b l ih =>
    cases x1 with
    | nil => exact h
    | cons a r => exact ih (State.sWrite_keeps h _ _ _ _ _ _) _

theorem State.pixelOne_keeps {s t : State} (hk : Keeps s t) (who : Who) (v : VInst) (planes : List (List VR)) (xd :
    VOpd) (start c k : Nat) : Keeps s (t.pixelOne who v planes xd start c k) := by
  refine hk.trans ?_
  unfold State.pixelOne
  try extract_lets
  with_reducible repeat' first
    | extract_lets | intro _ | exact Keeps.refl _ | assumption | apply State.vWrite_keeps
    | apply State.veEvents_keeps

theorem execVeToPixel_keeps {s : State} (core : Fin 8) (w : IWord) : KeepsO s (execVeToPixel core w s) := by
  unfold execVeToPixel
  try extract_lets
  repeat' first
    | (with_reducible first
      | extract_lets | apply KeepsO.ite | apply KeepsO.next | intro _ | exact Keeps.refl _ | assumption
      | apply State.decodeFault_keeps | apply State.engineStart_keeps | apply State.planeReads_keeps
      | apply State.pixelOne_keeps | apply State.vDone_keeps | apply State.advance_keeps | apply Keeps.ite
      | apply Keeps.foldl | apply Keeps.foldl_third | apply Keeps.foldl_snd | apply Keeps.foldl_fst
      | fail_if_no_progress (refine Keeps.upd ?_ rfl rfl))
    | exact State.issue_fault_keeps (by assumption) | exact State.issue_go_keeps (by assumption) | split

theorem State.pixelReads_keeps {s t : State} (h : Keeps s t) (who : Who) (v : VInst) (x : VOpd) (head start c : Nat)
    (x0 : List Nat) : Keeps s (t.pixelReads who v x head start c x0).2 := by
  induction x0 generalizing t with
  | nil => exact h
  | cons b l ih => exact ih (State.vRead_keeps h who x head b (start + 2 + b * c) 0 (List.range x.lines) rankVe)

theorem execVeToPlanar_keeps {s : State} (core : Fin 8) (w : IWord) : KeepsO s (execVeToPlanar core w s) := by
  unfold execVeToPlanar
  try extract_lets
  repeat' first
    | (with_reducible first
      | extract_lets | apply KeepsO.ite | apply KeepsO.next | intro _ | exact Keeps.refl _ | assumption
      | apply State.decodeFault_keeps | apply State.engineStart_keeps | apply State.pixelReads_keeps
      | apply State.planeWrites_keeps | apply State.veEvents_keeps | apply State.vDone_keeps
      | apply State.advance_keeps | apply Keeps.ite | apply Keeps.foldl | apply Keeps.foldl_third
      | apply Keeps.foldl_snd | apply Keeps.foldl_fst | fail_if_no_progress (refine Keeps.upd ?_ rfl rfl))
    | exact State.issue_fault_keeps (by assumption) | exact State.issue_go_keeps (by assumption) | split

theorem execVeAdd_keeps {s : State} (core : Fin 8) (w : IWord) : KeepsO s (execVeAdd core w s) := by
  unfold execVeAdd
  try extract_lets
  with_reducible repeat' first
    | extract_lets | apply KeepsO.ite | apply KeepsO.next | intro _ | exact Keeps.refl _ | assumption
    | apply State.vecInst_keeps

theorem execVeSub_keeps {s : State} (core : Fin 8) (w : IWord) : KeepsO s (execVeSub core w s) := by
  unfold execVeSub
  try extract_lets
  with_reducible repeat' first
    | extract_lets | apply KeepsO.ite | apply KeepsO.next | intro _ | exact Keeps.refl _ | assumption
    | apply State.vecInst_keeps

theorem execVeMul_keeps {s : State} (core : Fin 8) (w : IWord) : KeepsO s (execVeMul core w s) := by
  unfold execVeMul
  try extract_lets
  with_reducible repeat' first
    | extract_lets | apply KeepsO.ite | apply KeepsO.next | intro _ | exact Keeps.refl _ | assumption
    | apply State.vecInst_keeps

theorem execVeMac_keeps {s : State} (core : Fin 8) (w : IWord) : KeepsO s (execVeMac core w s) := by
  unfold execVeMac
  try extract_lets
  with_reducible repeat' first
    | extract_lets | apply KeepsO.ite | apply KeepsO.next | intro _ | exact Keeps.refl _ | assumption
    | apply State.vecInst_keeps

theorem execVeMax_keeps {s : State} (core : Fin 8) (w : IWord) : KeepsO s (execVeMax core w s) := by
  unfold execVeMax
  try extract_lets
  with_reducible repeat' first
    | extract_lets | apply KeepsO.ite | apply KeepsO.next | intro _ | exact Keeps.refl _ | assumption
    | apply State.vecInst_keeps

theorem execVeMin_keeps {s : State} (core : Fin 8) (w : IWord) : KeepsO s (execVeMin core w s) := by
  unfold execVeMin
  try extract_lets
  with_reducible repeat' first
    | extract_lets | apply KeepsO.ite | apply KeepsO.next | intro _ | exact Keeps.refl _ | assumption
    | apply State.vecInst_keeps

theorem execVeCvt_keeps {s : State} (core : Fin 8) (w : IWord) : KeepsO s (execVeCvt core w s) := by
  unfold execVeCvt
  try extract_lets
  with_reducible repeat' first
    | extract_lets | apply KeepsO.ite | apply KeepsO.next | intro _ | exact Keeps.refl _ | assumption
    | apply State.vecInst_keeps

theorem execVeTable_keeps {s : State} (core : Fin 8) (w : IWord) : KeepsO s (execVeTable core w s) := by
  unfold execVeTable
  try extract_lets
  with_reducible repeat' first
    | extract_lets | apply KeepsO.ite | apply KeepsO.next | intro _ | exact Keeps.refl _ | assumption
    | apply State.vecInst_keeps

theorem execVeRsum_keeps {s : State} (core : Fin 8) (w : IWord) : KeepsO s (execVeRsum core w s) := by
  unfold execVeRsum
  try extract_lets
  with_reducible repeat' first
    | extract_lets | apply KeepsO.ite | apply KeepsO.next | intro _ | exact Keeps.refl _ | assumption
    | apply State.vecInst_keeps

theorem execVeRmax_keeps {s : State} (core : Fin 8) (w : IWord) : KeepsO s (execVeRmax core w s) := by
  unfold execVeRmax
  try extract_lets
  with_reducible repeat' first
    | extract_lets | apply KeepsO.ite | apply KeepsO.next | intro _ | exact Keeps.refl _ | assumption
    | apply State.vecInst_keeps

theorem execVeTree_keeps {s : State} (core : Fin 8) (w : IWord) : KeepsO s (execVeTree core w s) := by
  unfold execVeTree
  try extract_lets
  with_reducible repeat' first
    | extract_lets | apply KeepsO.ite | apply KeepsO.next | intro _ | exact Keeps.refl _ | assumption
    | apply State.vecInst_keeps

theorem execVeNorm_keeps {s : State} (core : Fin 8) (w : IWord) : KeepsO s (execVeNorm core w s) := by
  unfold execVeNorm
  try extract_lets
  with_reducible repeat' first
    | extract_lets | apply KeepsO.ite | apply KeepsO.next | intro _ | exact Keeps.refl _ | assumption
    | apply State.vecInst_keeps

theorem execVeExp_keeps {s : State} (core : Fin 8) (w : IWord) : KeepsO s (execVeExp core w s) := by
  unfold execVeExp
  try extract_lets
  with_reducible repeat' first
    | extract_lets | apply KeepsO.ite | apply KeepsO.next | intro _ | exact Keeps.refl _ | assumption
    | apply State.vecInst_keeps

theorem execVeLn_keeps {s : State} (core : Fin 8) (w : IWord) : KeepsO s (execVeLn core w s) := by
  unfold execVeLn
  try extract_lets
  with_reducible repeat' first
    | extract_lets | apply KeepsO.ite | apply KeepsO.next | intro _ | exact Keeps.refl _ | assumption
    | apply State.vecInst_keeps

theorem execVeRecip_keeps {s : State} (core : Fin 8) (w : IWord) : KeepsO s (execVeRecip core w s) := by
  unfold execVeRecip
  try extract_lets
  with_reducible repeat' first
    | extract_lets | apply KeepsO.ite | apply KeepsO.next | intro _ | exact Keeps.refl _ | assumption
    | apply State.vecInst_keeps

theorem execVeRsqrt_keeps {s : State} (core : Fin 8) (w : IWord) : KeepsO s (execVeRsqrt core w s) := by
  unfold execVeRsqrt
  try extract_lets
  with_reducible repeat' first
    | extract_lets | apply KeepsO.ite | apply KeepsO.next | intro _ | exact Keeps.refl _ | assumption
    | apply State.vecInst_keeps

theorem execVeDiv_keeps {s : State} (core : Fin 8) (w : IWord) : KeepsO s (execVeDiv core w s) := by
  unfold execVeDiv
  try extract_lets
  with_reducible repeat' first
    | extract_lets | apply KeepsO.ite | apply KeepsO.next | intro _ | exact Keeps.refl _ | assumption
    | apply State.vecInst_keeps

theorem execVePool_keeps {s : State} (core : Fin 8) (w : IWord) : KeepsO s (execVePool core w s) := by
  unfold execVePool
  try extract_lets
  with_reducible repeat' first
    | extract_lets | apply KeepsO.ite | apply KeepsO.next | intro _ | exact Keeps.refl _ | assumption
    | apply State.vecInst_keeps

theorem execVeResample_keeps {s : State} (core : Fin 8) (w : IWord) : KeepsO s (execVeResample core w s) := by
  unfold execVeResample
  try extract_lets
  with_reducible repeat' first
    | extract_lets | apply KeepsO.ite | apply KeepsO.next | intro _ | exact Keeps.refl _ | assumption
    | apply State.vecInst_keeps

theorem State.gritInst_keeps {s t : State} (hk : Keeps s t) (n : Nat) (w : IWord) (op : Nat) : Keeps s (t.gritInst n
    w op) := by
  refine hk.trans ?_
  unfold State.gritInst
  try extract_lets
  repeat' first
    | (with_reducible first
      | extract_lets | intro _ | exact Keeps.refl _ | assumption | apply State.decodeFault_keeps
      | apply State.engineStart_keeps | apply State.vWrite_keeps | apply State.vDone_keeps
      | apply State.advance_keeps | apply Keeps.ite | apply Keeps.foldl
      | fail_if_no_progress (refine Keeps.upd ?_ rfl rfl))
    | exact State.issue_fault_keeps (by assumption) | exact State.issue_go_keeps (by assumption) | split

theorem execUniform16_keeps {s : State} (core : Fin 8) (w : IWord) : KeepsO s (execUniform16 core w s) := by
  unfold execUniform16
  try extract_lets
  with_reducible repeat' first
    | extract_lets | apply KeepsO.ite | apply KeepsO.next | intro _ | exact Keeps.refl _ | assumption
    | apply State.gritInst_keeps

theorem execUniform_keeps {s : State} (core : Fin 8) (w : IWord) : KeepsO s (execUniform core w s) := by
  unfold execUniform
  try extract_lets
  with_reducible repeat' first
    | extract_lets | apply KeepsO.ite | apply KeepsO.next | intro _ | exact Keeps.refl _ | assumption
    | apply State.gritInst_keeps

theorem execNormalBm_keeps {s : State} (core : Fin 8) (w : IWord) : KeepsO s (execNormalBm core w s) := by
  unfold execNormalBm
  try extract_lets
  with_reducible repeat' first
    | extract_lets | apply KeepsO.ite | apply KeepsO.next | intro _ | exact Keeps.refl _ | assumption
    | apply State.gritInst_keeps

theorem execNormalTab_keeps {s : State} (core : Fin 8) (w : IWord) : KeepsO s (execNormalTab core w s) := by
  unfold execNormalTab
  try extract_lets
  with_reducible repeat' first
    | extract_lets | apply KeepsO.ite | apply KeepsO.next | intro _ | exact Keeps.refl _ | assumption
    | apply State.gritInst_keeps

theorem execBernoulli_keeps {s : State} (core : Fin 8) (w : IWord) : KeepsO s (execBernoulli core w s) := by
  unfold execBernoulli
  try extract_lets
  with_reducible repeat' first
    | extract_lets | apply KeepsO.ite | apply KeepsO.next | intro _ | exact Keeps.refl _ | assumption
    | apply State.gritInst_keeps

theorem State.seedClear_keeps {s t : State} (hk : Keeps s t) (n : Nat) : Keeps s (t.seedClear n) := by
  refine hk.trans ?_
  unfold State.seedClear
  try extract_lets
  with_reducible repeat' first
    | extract_lets | intro _ | exact Keeps.refl _ | assumption | apply State.setCore_keeps
    | apply State.fput_keeps

theorem State.seedWrite_keeps {s t : State} (hk : Keeps s t) (n m : Nat) (v : Word) : Keeps s (t.seedWrite n m v) :=
    by
  refine hk.trans ?_
  unfold State.seedWrite
  try extract_lets
  with_reducible repeat' first
    | extract_lets | intro _ | exact Keeps.refl _ | assumption | apply State.setCore_keeps
    | apply State.fput_keeps | apply Keeps.ite

theorem State.selfTest_keeps {s t : State} (hk : Keeps s t) (n : Nat) (pass : Bool) : Keeps s (t.selfTest n pass) :=
    by
  refine hk.trans ?_
  unfold State.selfTest
  try extract_lets
  with_reducible repeat' first
    | extract_lets | intro _ | exact Keeps.refl _ | assumption | apply State.fput_keeps
    | apply State.report_keeps | apply Keeps.ite

theorem execSeedClear_keeps {s : State} (core : Fin 8) : KeepsO s (execSeedClear core s) := by
  unfold execSeedClear
  try extract_lets
  with_reducible repeat' first
    | extract_lets | apply KeepsO.ite | apply KeepsO.next | intro _ | exact Keeps.refl _ | assumption
    | apply State.seedClear_keeps

theorem execSelfTest_keeps {s : State} (core : Fin 8) (pass : Bool) : KeepsO s (execSelfTest core pass s) := by
  unfold execSelfTest
  try extract_lets
  with_reducible repeat' first
    | extract_lets | apply KeepsO.ite | apply KeepsO.next | intro _ | exact Keeps.refl _ | assumption
    | apply State.selfTest_keeps

theorem execGrSeedWrite_keeps {s : State} (core : Fin 8) (m : Fin 4) (v : Word) : KeepsO s (execGrSeedWrite core m v
    s) := by
  unfold execGrSeedWrite
  try extract_lets
  with_reducible repeat' first
    | extract_lets | apply KeepsO.ite | apply KeepsO.next | intro _ | exact Keeps.refl _ | assumption
    | apply State.seedWrite_keeps

theorem State.suOne_keeps {s t : State} (hk : Keeps s t) (who : Who) (fmt v kcap : Nat) (xa xb xd : VOpd) (ha hb
    start c k : Nat) : Keeps s (t.suOne who fmt v kcap xa xb xd ha hb start c k) := by
  refine hk.trans ?_
  unfold State.suOne
  try extract_lets
  repeat' first
    | (with_reducible first
      | extract_lets | intro _ | exact Keeps.refl _ | assumption | apply State.vRead_keeps
      | apply State.raise_keeps | apply State.vWrite_keeps | apply Keeps.ite)

theorem execSample_keeps {s : State} (core : Fin 8) (w : IWord) : KeepsO s (execSample core w s) := by
  unfold execSample
  try extract_lets
  repeat' first
    | (with_reducible first
      | extract_lets | apply KeepsO.ite | apply KeepsO.next | intro _ | exact Keeps.refl _ | assumption
      | apply State.decodeFault_keeps | apply State.engineStart_keeps | apply State.suOne_keeps
      | apply State.vDone_keeps | apply State.advance_keeps | apply Keeps.ite | apply Keeps.foldl
      | apply Keeps.foldl_third | apply Keeps.foldl_snd | apply Keeps.foldl_fst
      | fail_if_no_progress (refine Keeps.upd ?_ rfl rfl))
    | exact State.issue_fault_keeps (by assumption) | exact State.issue_go_keeps (by assumption) | split

end Sys2Proof.Machine
end

