-- ==== Sys2Proof/Laws/KeepsRing.lean ====
section
/-! SUPPORT. What every step keeps: the operations and commands of the cameras, the pipes, the memory controller, the pools and the ring. -/

namespace Sys2Proof.Machine

theorem State.setStream_keeps {s t : State} (hk : Keeps s t) (n : Nat) (x : StreamRt) : Keeps s (t.setStream n x) :=
    by
  refine hk.trans ?_
  unfold State.setStream
  try extract_lets
  with_reducible repeat' first
    | extract_lets | intro _ | exact Keeps.refl _ | assumption | apply Keeps.ite | apply Keeps.foldl
    | fail_if_no_progress (refine Keeps.upd ?_ rfl rfl)

theorem State.setGroup_keeps {s t : State} (hk : Keeps s t) (g : Nat) (x : GroupRt) : Keeps s (t.setGroup g x) := by
  refine hk.trans ?_
  unfold State.setGroup
  try extract_lets
  with_reducible repeat' first
    | extract_lets | intro _ | exact Keeps.refl _ | assumption | apply Keeps.ite | apply Keeps.foldl
    | fail_if_no_progress (refine Keeps.upd ?_ rfl rfl)

theorem State.dropBuf_keeps {s t : State} (hk : Keeps s t) (n b : Nat) : Keeps s (t.dropBuf n b) := by
  refine hk.trans ?_
  unfold State.dropBuf
  try extract_lets
  with_reducible repeat' first
    | extract_lets | intro _ | exact Keeps.refl _ | assumption | apply State.setStream_keeps

theorem State.frameOn_keeps {s t : State} (hk : Keeps s t) (n : Nat) (fr : CamFrame) : Keeps s (t.frameOn n fr) := by
  refine hk.trans ?_
  unfold State.frameOn
  try extract_lets
  with_reducible repeat' first
    | extract_lets | intro _ | exact Keeps.refl _ | assumption | apply State.setStream_keeps
    | apply State.dropBuf_keeps | apply State.deliverTo_keeps | apply Keeps.ite | apply Keeps.foldl

theorem State.countTruncated_keeps {s t : State} (hk : Keeps s t)  : Keeps s t.countTruncated := by
  refine hk.trans ?_
  unfold State.countTruncated
  try extract_lets
  with_reducible repeat' first
    | extract_lets | intro _ | exact Keeps.refl _ | assumption | apply State.fsat_keeps
    | apply State.raise_keeps

theorem State.truncate_keeps {s t : State} (hk : Keeps s t) (n : Nat) (overflow : Bool) : Keeps s (t.truncate n
    overflow) := by
  refine hk.trans ?_
  unfold State.truncate
  try extract_lets
  repeat' first
    | (with_reducible first
      | extract_lets | intro _ | exact Keeps.refl _ | assumption | apply State.countTruncated_keeps
      | apply State.frameOn_keeps | apply Keeps.ite | apply Keeps.foldl
      | fail_if_no_progress (refine Keeps.upd ?_ rfl rfl))
    | split

theorem State.closeFrame_keeps {s t : State} (hk : Keeps s t) (n : Nat) : Keeps s (t.closeFrame n) := by
  refine hk.trans ?_
  unfold State.closeFrame
  try extract_lets
  repeat' first
    | (with_reducible first
      | extract_lets | intro _ | exact Keeps.refl _ | assumption | apply State.setStream_keeps
      | apply State.truncate_keeps | apply State.countTruncated_keeps | apply State.frameOn_keeps
      | apply Keeps.ite | apply Keeps.foldl | fail_if_no_progress (refine Keeps.upd ?_ rfl rfl))
    | split

theorem State.latchColour_keeps {s t : State} (hk : Keeps s t) (c : Nat) : Keeps s (t.latchColour c) := by
  refine hk.trans ?_
  unfold State.latchColour
  try extract_lets
  with_reducible repeat' first
    | extract_lets | intro _ | exact Keeps.refl _ | assumption | apply State.fput_keeps | apply Keeps.ite
    | apply Keeps.foldl | fail_if_no_progress (refine Keeps.upd ?_ rfl rfl)

theorem State.latchAug_keeps {s t : State} (hk : Keeps s t) (g : Nat) : Keeps s (t.latchAug g) := by
  refine hk.trans ?_
  unfold State.latchAug
  try extract_lets
  repeat' first
    | (with_reducible first
      | extract_lets | intro _ | exact Keeps.refl _ | assumption | apply State.augCommit_keeps
      | apply State.setGroup_keeps | apply Keeps.ite | apply Keeps.foldl
      | fail_if_no_progress (refine Keeps.upd ?_ rfl rfl))
    | split

theorem State.openFrame_keeps {s t : State} (hk : Keeps s t) (n number : Nat) : Keeps s (t.openFrame n number) := by
  refine hk.trans ?_
  unfold State.openFrame
  try extract_lets
  repeat' first
    | (with_reducible first
      | extract_lets | intro _ | exact Keeps.refl _ | assumption | apply State.truncate_keeps
      | apply State.fsat_keeps | apply State.raise_keeps | apply State.setStream_keeps
      | apply State.fput_keeps | apply State.latchAug_keeps | apply State.latchColour_keeps | apply Keeps.ite
      | apply Keeps.foldl | fail_if_no_progress (refine Keeps.upd ?_ rfl rfl))
    | split

theorem State.crHeader_keeps {s t : State} (hk : Keeps s t) (port : Nat) (hdr : Fin 3) : Keeps s (t.crHeader port
    hdr) := by
  refine hk.trans ?_
  unfold State.crHeader
  try extract_lets
  with_reducible repeat' first
    | extract_lets | intro _ | exact Keeps.refl _ | assumption | apply State.fsat_keeps | apply Keeps.ite

theorem State.takeLine_keeps {s t : State} (hk : Keeps s t) (n : Nat) (fr : CamFrame) (d : List Byte) (crcOk : Bool)
    : Keeps s (t.takeLine n fr d crcOk) := by
  refine hk.trans ?_
  unfold State.takeLine
  try extract_lets
  with_reducible repeat' first
    | extract_lets | intro _ | exact Keeps.refl _ | assumption | apply State.setStream_keeps
    | apply State.deliverTo_keeps | apply State.raise_keeps | apply State.truncate_keeps | apply Keeps.ite

theorem State.takePacket_keeps {s t : State} (hk : Keeps s t) (n : Nat) (d : List Byte) (crcOk fifoFull : Bool) :
    Keeps s (t.takePacket n d crcOk fifoFull) := by
  refine hk.trans ?_
  unfold State.takePacket
  try extract_lets
  repeat' first
    | (with_reducible first
      | extract_lets | intro _ | exact Keeps.refl _ | assumption | apply State.raise_keeps
      | apply State.truncate_keeps | apply State.setStream_keeps | apply State.takeLine_keeps
      | apply Keeps.ite | apply Keeps.foldl | fail_if_no_progress (refine Keeps.upd ?_ rfl rfl))
    | split

theorem State.inputError_keeps {s t : State} (hk : Keeps s t) (port : Nat) : Keeps s (t.inputError port) := by
  refine hk.trans ?_
  unfold State.inputError
  try extract_lets
  with_reducible repeat' first
    | extract_lets | intro _ | exact Keeps.refl _ | assumption | apply State.report_keeps

theorem execCsiLaneError_keeps {s : State} (port : Fin 8) : KeepsO s (execCsiLaneError port s) := by
  unfold execCsiLaneError
  try extract_lets
  with_reducible repeat' first
    | extract_lets | apply KeepsO.ite | apply KeepsO.next | intro _ | exact Keeps.refl _ | assumption
    | apply State.fput_keeps | apply State.inputError_keeps

theorem execLanesReturnToStopState_keeps {s : State} (port : Fin 8) : KeepsO s (execLanesReturnToStopState port s) :=
    by
  unfold execLanesReturnToStopState
  try extract_lets
  with_reducible repeat' first
    | extract_lets | apply KeepsO.ite | apply KeepsO.next | intro _ | exact Keeps.refl _ | assumption
    | apply State.fput_keeps | apply Keeps.ite

theorem State.freeSamples_keeps {s t : State} (hk : Keeps s t) (c : Collection) : Keeps s (t.freeSamples c) := by
  refine hk.trans ?_
  unfold State.freeSamples
  try extract_lets
  with_reducible repeat' first
    | extract_lets | intro _ | exact Keeps.refl _ | assumption | apply State.dropBuf_keeps | apply Keeps.ite
    | apply Keeps.foldl

theorem State.notePresence_keeps {s t : State} (hk : Keeps s t) (n : Nat) (present : Bool) : Keeps s (t.notePresence
    n present) := by
  refine hk.trans ?_
  unfold State.notePresence
  try extract_lets
  with_reducible repeat' first
    | extract_lets | intro _ | exact Keeps.refl _ | assumption | apply State.setStream_keeps
    | apply State.raise_keeps | apply State.event_keeps | apply Keeps.ite

theorem State.release_keeps {s t : State} (hk : Keeps s t) (g : Nat) (c : Collection) : Keeps s (t.release g c) := by
  refine hk.trans ?_
  unfold State.release
  try extract_lets
  repeat' first
    | (with_reducible first
      | extract_lets | intro _ | exact Keeps.refl _ | assumption | apply State.freeSamples_keeps
      | apply State.fsat_keeps | apply State.raise_keeps | apply State.deliverTo_keeps | apply State.fput_keeps
      | apply State.setGroup_keeps | apply State.setStream_keeps | apply State.notePresence_keeps
      | apply State.signalObj_keeps | apply Keeps.ite | apply Keeps.foldl)

theorem State.endCollection_keeps {s t : State} (hk : Keeps s t) (g : Nat) (c : Collection) : Keeps s
    (t.endCollection g c) := by
  refine hk.trans ?_
  unfold State.endCollection
  try extract_lets
  with_reducible repeat' first
    | extract_lets | intro _ | exact Keeps.refl _ | assumption | apply State.release_keeps
    | apply State.freeSamples_keeps | apply Keeps.ite

theorem State.endCurrent_keeps {s t : State} (hk : Keeps s t) (g : Nat) : Keeps s (t.endCurrent g) := by
  refine hk.trans ?_
  unfold State.endCurrent
  try extract_lets
  repeat' first
    | (with_reducible first
      | extract_lets | intro _ | exact Keeps.refl _ | assumption | apply State.setGroup_keeps
      | apply State.endCollection_keeps | apply Keeps.ite | apply Keeps.foldl
      | fail_if_no_progress (refine Keeps.upd ?_ rfl rfl))
    | split

theorem State.joinTo_keeps {s t : State} (hk : Keeps s t) (n : Nat) (fr : CamFrame) (c : Collection) : Keeps s
    (t.joinTo n fr c).2 := by
  refine hk.trans ?_
  unfold State.joinTo
  try extract_lets
  repeat' first
    | (with_reducible first
      | extract_lets | intro _ | exact Keeps.refl _ | assumption | apply State.dropBuf_keeps | apply Keeps.ite
      | apply Keeps.foldl | fail_if_no_progress (refine Keeps.upd ?_ rfl rfl))
    | split

theorem State.place_keeps {s t : State} (h : Keeps s t) (g n : Nat) (fr : CamFrame) (x0 : Nat) : Keeps s (t.place g n
    fr x0) := by
  induction x0 generalizing t with
  | zero => exact h
  | succ fuel ih =>
    unfold State.place
    try extract_lets
    repeat' first
      | (with_reducible first
        | extract_lets | apply ih | intro _ | exact Keeps.refl _ | assumption | apply State.dropBuf_keeps
        | apply State.fsat_keeps | apply State.raise_keeps | apply State.setGroup_keeps
        | apply State.joinTo_keeps | apply State.endCurrent_keeps | apply Keeps.ite | apply Keeps.foldl
        | fail_if_no_progress (refine Keeps.upd ?_ rfl rfl))
      | split

theorem State.releaseFull_keeps {s t : State} (hk : Keeps s t) (g : Nat) : Keeps s (t.releaseFull g) := by
  refine hk.trans ?_
  unfold State.releaseFull
  try extract_lets
  repeat' first
    | (with_reducible first
      | extract_lets | intro _ | exact Keeps.refl _ | assumption | apply State.setGroup_keeps
      | apply State.release_keeps | apply Keeps.ite | apply Keeps.foldl
      | fail_if_no_progress (refine Keeps.upd ?_ rfl rfl))
    | split

theorem execSampleReady_keeps {s : State} (n : Fin 32) : KeepsO s (execSampleReady n s) := by
  unfold execSampleReady
  try extract_lets
  repeat' first
    | (with_reducible first
      | extract_lets | apply KeepsO.ite | apply KeepsO.next | intro _ | exact Keeps.refl _ | assumption
      | apply State.setStream_keeps | apply State.place_keeps | apply State.releaseFull_keeps
      | apply State.dropBuf_keeps | apply Keeps.ite | apply Keeps.foldl
      | fail_if_no_progress (refine Keeps.upd ?_ rfl rfl))
    | split

theorem execCollectionDeadline_keeps {s : State} (g : Fin 16) : KeepsO s (execCollectionDeadline g s) := by
  unfold execCollectionDeadline
  try extract_lets
  repeat' first
    | (with_reducible first
      | extract_lets | apply KeepsO.ite | apply KeepsO.next | intro _ | exact Keeps.refl _ | assumption
      | apply State.endCurrent_keeps | apply State.releaseFull_keeps | apply Keeps.ite)

theorem execSpiDataReady_keeps {s : State} (ctl : Fin 4) (data : List Byte) : KeepsO s (execSpiDataReady ctl data s)
    := by
  unfold execSpiDataReady
  try extract_lets
  repeat' first
    | (with_reducible first
      | extract_lets | apply KeepsO.ite | apply KeepsO.next | intro _ | exact Keeps.refl _ | assumption
      | apply State.setStream_keeps | apply State.deliverTo_keeps | apply Keeps.ite | apply Keeps.foldl
      | fail_if_no_progress (refine Keeps.upd ?_ rfl rfl))
    | split

theorem execPpsEdge_keeps {s : State} : KeepsO s (execPpsEdge s) := by
  unfold execPpsEdge
  try extract_lets
  repeat' first
    | (with_reducible first
      | extract_lets | apply KeepsO.ite | apply KeepsO.next | intro _ | exact Keeps.refl _ | assumption
      | apply State.fput64_keeps | apply Keeps.ite | apply Keeps.foldl
      | fail_if_no_progress (refine Keeps.upd ?_ rfl rfl))

theorem execPpsLost_keeps {s : State}  : KeepsO s (execPpsLost  s) := by
  unfold execPpsLost
  try extract_lets
  with_reducible repeat' first
    | extract_lets | apply KeepsO.ite | apply KeepsO.next | intro _ | exact Keeps.refl _ | assumption
    | apply State.raise_keeps | apply State.event_keeps | apply Keeps.ite

theorem State.driveFsync_keeps {s t : State} (hk : Keeps s t) (n : Nat) (on : Bool) : Keeps s (t.driveFsync n on) :=
    by
  refine hk.trans ?_
  unfold State.driveFsync
  try extract_lets
  repeat' first
    | (with_reducible first
      | extract_lets | intro _ | exact Keeps.refl _ | assumption | apply State.emit_keeps | apply Keeps.ite)

theorem execFsyncAssert_keeps {s : State} (n : Fin 8) : KeepsO s (execFsyncAssert n s) := by
  unfold execFsyncAssert
  try extract_lets
  repeat' first
    | (with_reducible first
      | extract_lets | apply KeepsO.ite | apply KeepsO.next | intro _ | exact Keeps.refl _ | assumption
      | apply State.driveFsync_keeps | apply Keeps.ite | apply Keeps.foldl
      | fail_if_no_progress (refine Keeps.upd ?_ rfl rfl))

theorem execFsyncDeassert_keeps {s : State} (n : Fin 8) : KeepsO s (execFsyncDeassert n s) := by
  unfold execFsyncDeassert
  try extract_lets
  with_reducible repeat' first
    | extract_lets | apply KeepsO.ite | apply KeepsO.next | intro _ | exact Keeps.refl _ | assumption
    | apply State.driveFsync_keeps | apply Keeps.ite | apply Keeps.foldl
    | fail_if_no_progress (refine Keeps.upd ?_ rfl rfl)

theorem State.fsyncCommit_keeps {s t : State} (hk : Keeps s t) (n : Nat) (w0 : Word) : Keeps s (t.fsyncCommit n w0)
    := by
  refine hk.trans ?_
  unfold State.fsyncCommit
  try extract_lets
  with_reducible repeat' first
    | extract_lets | intro _ | exact Keeps.refl _ | assumption | apply State.writeReg_keeps | apply Keeps.ite
    | apply Keeps.foldl | fail_if_no_progress (refine Keeps.upd ?_ rfl rfl)

theorem execIaFsyncCommit_keeps {s : State} (n : Fin 8) (w0 : Word) : KeepsO s (execIaFsyncCommit n w0 s) := by
  unfold execIaFsyncCommit
  try extract_lets
  with_reducible repeat' first
    | extract_lets | apply KeepsO.ite | apply KeepsO.next | intro _ | exact Keeps.refl _ | assumption
    | apply State.fsyncCommit_keeps

theorem State.timeStep_keeps {s t : State} (hk : Keeps s t) (step : DWord) : Keeps s (t.timeStep step) := by
  refine hk.trans ?_
  unfold State.timeStep
  try extract_lets
  with_reducible repeat' first
    | extract_lets | intro _ | exact Keeps.refl _ | assumption | apply State.raise_keeps | apply Keeps.ite
    | apply Keeps.foldl | fail_if_no_progress (refine Keeps.upd ?_ rfl rfl)

theorem execIaTimeStep_keeps {s : State} (step : DWord) : KeepsO s (execIaTimeStep step s) := by
  unfold execIaTimeStep
  try extract_lets
  with_reducible repeat' first
    | extract_lets | apply KeepsO.ite | apply KeepsO.next | intro _ | exact Keeps.refl _ | assumption
    | apply State.timeStep_keeps

theorem State.augCommit_keeps {s t : State} (hk : Keeps s t) (g : Nat) (n0 : Word) : Keeps s (t.augCommit g n0) := by
  refine hk.trans ?_
  unfold State.augCommit
  try extract_lets
  with_reducible repeat' first
    | extract_lets | intro _ | exact Keeps.refl _ | assumption | apply State.wr_keeps
    | apply State.setGroup_keeps

theorem execIaAugCommit_keeps {s : State} (g : Fin 16) (n0 : Word) : KeepsO s (execIaAugCommit g n0 s) := by
  unfold execIaAugCommit
  try extract_lets
  with_reducible repeat' first
    | extract_lets | apply KeepsO.ite | apply KeepsO.next | intro _ | exact Keeps.refl _ | assumption
    | apply State.augCommit_keeps

theorem State.iaCountsClear_keeps {s t : State} (hk : Keeps s t)  : Keeps s t.iaCountsClear := by
  refine hk.trans ?_
  unfold State.iaCountsClear
  try extract_lets
  with_reducible repeat' first
    | extract_lets | intro _ | exact Keeps.refl _ | assumption | apply State.fput_keeps | apply State.wr_keeps
    | apply Keeps.ite | apply Keeps.foldl

theorem execIaCountsClear_keeps {s : State}  : KeepsO s (execIaCountsClear  s) := by
  unfold execIaCountsClear
  try extract_lets
  with_reducible repeat' first
    | extract_lets | apply KeepsO.ite | apply KeepsO.next | intro _ | exact Keeps.refl _ | assumption
    | apply State.iaCountsClear_keeps

theorem State.writeOut_keeps {s t : State} (hk : Keeps s t) (c b : Nat) (j : PipeJob) (p r : Nat) (live : Bool) :
    Keeps s (t.writeOut c b j p r live) := by
  refine hk.trans ?_
  unfold State.writeOut
  try extract_lets
  with_reducible repeat' first
    | extract_lets | intro _ | exact Keeps.refl _ | assumption | apply State.deliverTo_keeps

theorem State.writeTap_keeps {s t : State} (hk : Keeps s t) (c b : Nat) (j : PipeJob) (p i : Nat) (live : Bool) :
    Keeps s (t.writeTap c b j p i live) := by
  refine hk.trans ?_
  unfold State.writeTap
  try extract_lets
  with_reducible repeat' first
    | extract_lets | intro _ | exact Keeps.refl _ | assumption | apply State.deliverTo_keeps

theorem State.writeRow_keeps {s t : State} (hk : Keeps s t) (c b : Nat) (j : PipeJob) (live r : Nat) : Keeps s
    (t.writeRow c b j live r) := by
  refine hk.trans ?_
  unfold State.writeRow
  try extract_lets
  with_reducible repeat' first
    | extract_lets | intro _ | exact Keeps.refl _ | assumption | apply State.writeOut_keeps
    | apply State.writeTap_keeps | apply Keeps.ite | apply Keeps.foldl

theorem State.serveRows_keeps {s t : State} (hk : Keeps s t) (n upto : Nat) : Keeps s (t.serveRows n upto) := by
  refine hk.trans ?_
  unfold State.serveRows
  try extract_lets
  repeat' first
    | (with_reducible first
      | extract_lets | intro _ | exact Keeps.refl _ | assumption | apply State.writeRow_keeps
      | apply State.setStream_keeps | apply Keeps.ite | apply Keeps.foldl | apply Keeps.foldl_third
      | apply Keeps.foldl_snd | apply Keeps.foldl_fst | fail_if_no_progress (refine Keeps.upd ?_ rfl rfl))
    | split

theorem State.setIp_keeps {s t : State} (hk : Keeps s t) (p : Nat) (x : IpRt) : Keeps s (t.setIp p x) := by
  refine hk.trans ?_
  unfold State.setIp
  try extract_lets
  with_reducible repeat' first
    | extract_lets | intro _ | exact Keeps.refl _ | assumption | apply Keeps.ite | apply Keeps.foldl
    | fail_if_no_progress (refine Keeps.upd ?_ rfl rfl)

theorem State.pipeRun_keeps {s t : State} (hk : Keeps s t) (p : Nat) : Keeps s (t.pipeRun p) := by
  refine hk.trans ?_
  unfold State.pipeRun
  try extract_lets
  repeat' first
    | (with_reducible first
      | extract_lets | intro _ | exact Keeps.refl _ | assumption | apply State.setIp_keeps
      | apply State.fput_keeps | apply State.serveRows_keeps | apply Keeps.ite | apply Keeps.foldl
      | fail_if_no_progress (refine Keeps.upd ?_ rfl rfl))
    | split

theorem State.turnTo_keeps {s t : State} (hk : Keeps s t) (p c : Nat) (serving : Bool) : Keeps s (t.turnTo p c
    serving) := by
  refine hk.trans ?_
  unfold State.turnTo
  try extract_lets
  repeat' first
    | (with_reducible first
      | extract_lets | intro _ | exact Keeps.refl _ | assumption | apply State.fsat_keeps
      | apply State.setIp_keeps | apply State.fput_keeps | apply Keeps.ite | apply Keeps.foldl
      | fail_if_no_progress (refine Keeps.upd ?_ rfl rfl))
    | split | dsimp (zetaDelta := true) (zeta := false) only

theorem execPipeTurn_keeps {s : State} (p : Fin 2) : KeepsO s (execPipeTurn p s) := by
  unfold execPipeTurn
  try extract_lets
  repeat' first
    | (with_reducible first
      | extract_lets | apply KeepsO.ite | apply KeepsO.next | intro _ | exact Keeps.refl _ | assumption
      | apply State.turnTo_keeps | apply State.serveRows_keeps | apply State.pipeRun_keeps | apply Keeps.ite
      | apply Keeps.foldl | fail_if_no_progress (refine Keeps.upd ?_ rfl rfl))
    | split

theorem State.lineMemoryReport_keeps {s t : State} (hk : Keeps s t)  : Keeps s t.lineMemoryReport := by
  refine hk.trans ?_
  unfold State.lineMemoryReport
  try extract_lets
  with_reducible repeat' first
    | extract_lets | intro _ | exact Keeps.refl _ | assumption | apply State.fput_keeps

theorem execContextCommit_keeps {s : State} (c : Fin 32) : KeepsO s (execContextCommit c s) := by
  unfold execContextCommit
  try extract_lets
  with_reducible repeat' first
    | extract_lets | apply KeepsO.ite | apply KeepsO.next | intro _ | exact Keeps.refl _ | assumption
    | apply State.fput_keeps

theorem State.curveWrite_keeps {s t : State} (hk : Keeps s t) (p set word : Nat) (v : Word) : Keeps s (t.curveWrite p
    set word v) := by
  refine hk.trans ?_
  unfold State.curveWrite
  try extract_lets
  with_reducible repeat' first
    | extract_lets | intro _ | exact Keeps.refl _ | assumption | apply State.raise_keeps
    | apply State.writeReg_keeps | apply Keeps.ite

theorem execCurveWrite_keeps {s : State} (p : Fin 2) (set : Fin 16) (word : Fin 387) (v : Word) : KeepsO s
    (execCurveWrite p set word v s) := by
  unfold execCurveWrite
  try extract_lets
  with_reducible repeat' first
    | extract_lets | apply KeepsO.ite | apply KeepsO.next | intro _ | exact Keeps.refl _ | assumption
    | apply State.curveWrite_keeps

theorem execIpCountsClear_keeps {s : State} (p : Fin 2) : KeepsO s (execIpCountsClear p s) := by
  unfold execIpCountsClear
  try extract_lets
  with_reducible repeat' first
    | extract_lets | apply KeepsO.ite | apply KeepsO.next | intro _ | exact Keeps.refl _ | assumption
    | apply State.wr_keeps

theorem State.pipesRun_keeps {s t : State} (hk : Keeps s t) : Keeps s t.pipesRun := by
  refine hk.trans ?_
  unfold State.pipesRun
  try extract_lets
  repeat' first
    | (with_reducible first
      | extract_lets | intro _ | exact Keeps.refl _ | assumption | apply State.pipeRun_keeps | apply Keeps.ite)

theorem execFrameStart_keeps {s : State} (port : Fin 8) (vc : Fin 32) (number : BitVec 16) (hdr : Fin 3) : KeepsO s
    (execFrameStart port vc number hdr s) := by
  unfold execFrameStart
  try extract_lets
  repeat' first
    | (with_reducible first
      | extract_lets | apply KeepsO.ite | apply KeepsO.next | intro _ | exact Keeps.refl _ | assumption
      | apply State.crHeader_keeps | apply State.fsat_keeps | apply State.openFrame_keeps
      | apply State.pipesRun_keeps | apply Keeps.ite | apply Keeps.foldl | apply Keeps.foldl_third
      | apply Keeps.foldl_snd | apply Keeps.foldl_fst | fail_if_no_progress (refine Keeps.upd ?_ rfl rfl))
    | split

theorem execFrameEnd_keeps {s : State} (port : Fin 8) (vc : Fin 32) (hdr : Fin 3) : KeepsO s (execFrameEnd port vc
    hdr s) := by
  unfold execFrameEnd
  try extract_lets
  repeat' first
    | (with_reducible first
      | extract_lets | apply KeepsO.ite | apply KeepsO.next | intro _ | exact Keeps.refl _ | assumption
      | apply State.crHeader_keeps | apply State.fsat_keeps | apply State.closeFrame_keeps
      | apply State.pipesRun_keeps | apply Keeps.ite | apply Keeps.foldl | apply Keeps.foldl_third
      | apply Keeps.foldl_snd | apply Keeps.foldl_fst | fail_if_no_progress (refine Keeps.upd ?_ rfl rfl))
    | split

theorem execLongPacket_keeps {s : State} (port : Fin 8) (vc : Fin 32) (dt : Fin 64) (data : List Byte) (hdr : Fin 3)
    (crcOk fifoFull : Bool) : KeepsO s (execLongPacket port vc dt data hdr crcOk fifoFull s) := by
  unfold execLongPacket
  try extract_lets
  repeat' first
    | (with_reducible first
      | extract_lets | apply KeepsO.ite | apply KeepsO.next | intro _ | exact Keeps.refl _ | assumption
      | apply State.crHeader_keeps | apply State.fsat_keeps | apply State.inputError_keeps
      | apply State.takePacket_keeps | apply State.pipesRun_keeps | apply Keeps.ite | apply Keeps.foldl
      | fail_if_no_progress (refine Keeps.upd ?_ rfl rfl))
    | split

theorem execLineTimeout_keeps {s : State} (n : Fin 32) : KeepsO s (execLineTimeout n s) := by
  unfold execLineTimeout
  try extract_lets
  repeat' first
    | (with_reducible first
      | extract_lets | apply KeepsO.ite | apply KeepsO.next | intro _ | exact Keeps.refl _ | assumption
      | apply State.closeFrame_keeps | apply State.truncate_keeps | apply State.pipesRun_keeps
      | apply Keeps.ite | apply Keeps.foldl | fail_if_no_progress (refine Keeps.upd ?_ rfl rfl))
    | split

theorem State.streamEnable_keeps {s t : State} (hk : Keeps s t) (n : Nat) (w0 : Word) : Keeps s (t.streamEnable n
    w0) := by
  refine hk.trans ?_
  unfold State.streamEnable
  try extract_lets
  repeat' first
    | (with_reducible first
      | extract_lets | intro _ | exact Keeps.refl _ | assumption | apply State.growthOverflow_keeps
      | apply State.writeReg_keeps | apply State.raise_keeps | apply State.fput_keeps
      | apply State.setStream_keeps | apply State.lineMemoryReport_keeps | apply Keeps.ite)

theorem execIaStreamEnable_keeps {s : State} (n : Fin 32) (w0 : Word) : KeepsO s (execIaStreamEnable n w0 s) := by
  unfold execIaStreamEnable
  try extract_lets
  with_reducible repeat' first
    | extract_lets | apply KeepsO.ite | apply KeepsO.next | intro _ | exact Keeps.refl _ | assumption
    | apply State.streamEnable_keeps

theorem State.streamDisable_keeps {s t : State} (hk : Keeps s t) (n : Nat) : Keeps s (t.streamDisable n) := by
  refine hk.trans ?_
  unfold State.streamDisable
  try extract_lets
  with_reducible repeat' first
    | extract_lets | intro _ | exact Keeps.refl _ | assumption | apply State.setGroup_keeps
    | apply State.setStream_keeps | apply State.fput_keeps | apply State.lineMemoryReport_keeps
    | apply State.pipesRun_keeps | apply Keeps.ite

theorem execIaStreamDisable_keeps {s : State} (n : Fin 32) : KeepsO s (execIaStreamDisable n s) := by
  unfold execIaStreamDisable
  try extract_lets
  with_reducible repeat' first
    | extract_lets | apply KeepsO.ite | apply KeepsO.next | intro _ | exact Keeps.refl _ | assumption
    | apply State.streamDisable_keeps

theorem State.groupEnable_keeps {s t : State} (hk : Keeps s t) (g : Nat) (w0 : Word) : Keeps s (t.groupEnable g w0)
    := by
  refine hk.trans ?_
  unfold State.groupEnable
  try extract_lets
  with_reducible repeat' first
    | extract_lets | intro _ | exact Keeps.refl _ | assumption | apply State.writeReg_keeps
    | apply State.raise_keeps | apply State.fput_keeps | apply State.setGroup_keeps | apply Keeps.ite

theorem execIaGroupEnable_keeps {s : State} (g : Fin 16) (w0 : Word) : KeepsO s (execIaGroupEnable g w0 s) := by
  unfold execIaGroupEnable
  try extract_lets
  with_reducible repeat' first
    | extract_lets | apply KeepsO.ite | apply KeepsO.next | intro _ | exact Keeps.refl _ | assumption
    | apply State.groupEnable_keeps

theorem State.groupDisable_keeps {s t : State} (hk : Keeps s t) (g : Nat) : Keeps s (t.groupDisable g) := by
  refine hk.trans ?_
  unfold State.groupDisable
  try extract_lets
  with_reducible repeat' first
    | extract_lets | intro _ | exact Keeps.refl _ | assumption | apply State.freeSamples_keeps
    | apply State.setGroup_keeps | apply State.fput_keeps | apply Keeps.ite | apply Keeps.foldl

theorem execIaGroupDisable_keeps {s : State} (g : Fin 16) : KeepsO s (execIaGroupDisable g s) := by
  unfold execIaGroupDisable
  try extract_lets
  with_reducible repeat' first
    | extract_lets | apply KeepsO.ite | apply KeepsO.next | intro _ | exact Keeps.refl _ | assumption
    | apply State.groupDisable_keeps

theorem State.setMc_keeps {s t : State} (hk : Keeps s t) (m : McRt) : Keeps s (t.setMc m) := by
  refine hk.trans ?_
  unfold State.setMc
  try extract_lets
  with_reducible repeat' first
    | extract_lets | intro _ | exact Keeps.refl _ | assumption | apply Keeps.ite | apply Keeps.foldl
    | fail_if_no_progress (refine Keeps.upd ?_ rfl rfl)

theorem State.mcRaised_keeps {s t : State} (hk : Keeps s t)  : Keeps s t.mcRaised := by
  refine hk.trans ?_
  unfold State.mcRaised
  try extract_lets
  with_reducible repeat' first
    | extract_lets | intro _ | exact Keeps.refl _ | assumption | apply State.fput_keeps

theorem State.mcAccept_keeps {s t : State} (hk : Keeps s t) (r : McReq) : Keeps s (t.mcAccept r) := by
  refine hk.trans ?_
  unfold State.mcAccept
  try extract_lets
  with_reducible repeat' first
    | extract_lets | intro _ | exact Keeps.refl _ | assumption | apply State.setMc_keeps
    | apply State.lpStoreLine_keeps | apply Keeps.ite | apply Keeps.foldl

theorem State.mcPull_keeps {s t : State} (hk : Keeps s t)  : Keeps s t.mcPull := by
  refine hk.trans ?_
  unfold State.mcPull
  try extract_lets
  with_reducible repeat' first
    | extract_lets | intro _ | exact Keeps.refl _ | assumption | apply State.setMc_keeps
    | apply State.mcAccept_keeps | apply Keeps.ite | apply Keeps.foldl

theorem execMcRequest_keeps {s : State} (port : Fin 10) (addr : Nat) (slot : Fin 16) (write : Bool) (mask : BitVec 8)
    (data : List Byte) : KeepsO s (execMcRequest port addr slot write mask data s) := by
  unfold execMcRequest
  try extract_lets
  with_reducible repeat' first
    | extract_lets | apply KeepsO.ite | apply KeepsO.next | intro _ | exact Keeps.refl _ | assumption
    | apply State.emit_keeps | apply State.setMc_keeps | apply State.mcPull_keeps

theorem State.mcDeliver_keeps {s t : State} (hk : Keeps s t) (r : McReq) (link : Nat) (linkBad poison : Bool) : Keeps
    s (t.mcDeliver r link linkBad poison) := by
  refine hk.trans ?_
  unfold State.mcDeliver
  try extract_lets
  with_reducible repeat' first
    | extract_lets | intro _ | exact Keeps.refl _ | assumption | apply State.flag_keeps
    | apply State.fsat_keeps | apply State.report_keeps | apply State.fput_keeps | apply State.lpRead_keeps
    | apply State.setMc_keeps | apply Keeps.ite

theorem State.mcRefresh_keeps {s t : State} (hk : Keeps s t) (chan : Nat) : Keeps s (t.mcRefresh chan) := by
  refine hk.trans ?_
  unfold State.mcRefresh
  try extract_lets
  with_reducible repeat' first
    | extract_lets | intro _ | exact Keeps.refl _ | assumption | apply State.setMc_keeps | apply Keeps.ite

theorem execMcRequestComplete_keeps {s : State} (idx lat link : Nat) (linkBad : Bool) : KeepsO s
    (execMcRequestComplete idx lat link linkBad s) := by
  unfold execMcRequestComplete
  try extract_lets
  repeat' first
    | (with_reducible first
      | extract_lets | apply KeepsO.ite | apply KeepsO.next | intro _ | exact Keeps.refl _ | assumption
      | apply State.setMc_keeps | apply State.mcDeliver_keeps | apply State.fput_keeps
      | apply State.mcRefresh_keeps | apply State.mcPull_keeps | apply Keeps.ite | apply Keeps.foldl
      | fail_if_no_progress (refine Keeps.upd ?_ rfl rfl))
    | split

theorem execRefreshDue_keeps {s : State} (chan : Fin 24) : KeepsO s (execRefreshDue chan s) := by
  unfold execRefreshDue
  try extract_lets
  with_reducible repeat' first
    | extract_lets | apply KeepsO.ite | apply KeepsO.next | intro _ | exact Keeps.refl _ | assumption
    | apply State.setMc_keeps | apply State.mcRefresh_keeps

theorem execMr4Poll_keeps {s : State} (rates : List (Fin 3)) : KeepsO s (execMr4Poll rates s) := by
  unfold execMr4Poll
  try extract_lets
  with_reducible repeat' first
    | extract_lets | apply KeepsO.ite | apply KeepsO.next | intro _ | exact Keeps.refl _ | assumption
    | apply State.limitEvent_keeps | apply State.setMc_keeps | apply State.raise_keeps | apply Keeps.ite
    | apply Keeps.foldl

theorem execOscillatorSample_keeps {s : State} (chan : Fin 24) (drift : Int) (beyond : Bool) : KeepsO s
    (execOscillatorSample chan drift beyond s) := by
  unfold execOscillatorSample
  try extract_lets
  with_reducible repeat' first
    | extract_lets | apply KeepsO.ite | apply KeepsO.next | intro _ | exact Keeps.refl _ | assumption
    | apply State.setMc_keeps | apply State.raise_keeps | apply State.event_keeps | apply Keeps.ite

theorem State.srEnter_keeps {s t : State} (hk : Keeps s t) (actor : Nat) : Keeps s (t.srEnter actor) := by
  refine hk.trans ?_
  unfold State.srEnter
  try extract_lets
  with_reducible repeat' first
    | extract_lets | intro _ | exact Keeps.refl _ | assumption | apply State.setMc_keeps
    | apply State.mcDeliver_keeps | apply State.fput_keeps | apply State.raise_keeps | apply Keeps.ite
    | apply Keeps.foldl

theorem State.srExit_keeps {s t : State} (hk : Keeps s t) (actor : Nat) : Keeps s (t.srExit actor) := by
  refine hk.trans ?_
  unfold State.srExit
  try extract_lets
  with_reducible repeat' first
    | extract_lets | intro _ | exact Keeps.refl _ | assumption | apply State.setMc_keeps
    | apply State.fput_keeps | apply State.mcPull_keeps | apply Keeps.ite

theorem State.mcPoisonHeld_keeps {s t : State} (hk : Keeps s t)  : Keeps s t.mcPoisonHeld := by
  refine hk.trans ?_
  unfold State.mcPoisonHeld
  try extract_lets
  with_reducible repeat' first
    | extract_lets | intro _ | exact Keeps.refl _ | assumption | apply State.mcDeliver_keeps
    | apply State.setMc_keeps | apply Keeps.ite | apply Keeps.foldl

theorem execSelfRefreshRequest_keeps {s : State} (actor : Fin 3) : KeepsO s (execSelfRefreshRequest actor s) := by
  unfold execSelfRefreshRequest
  try extract_lets
  with_reducible repeat' first
    | extract_lets | apply KeepsO.ite | apply KeepsO.next | intro _ | exact Keeps.refl _ | assumption
    | apply State.fput_keeps | apply State.srEnter_keeps | apply Keeps.ite

theorem execSelfRefreshExit_keeps {s : State} (actor : Fin 3) : KeepsO s (execSelfRefreshExit actor s) := by
  unfold execSelfRefreshExit
  try extract_lets
  with_reducible repeat' first
    | extract_lets | apply KeepsO.ite | apply KeepsO.next | intro _ | exact Keeps.refl _ | assumption
    | apply State.fput_keeps | apply State.srExit_keeps | apply Keeps.ite

theorem execPowerDownIdle_keeps {s : State} (chan : Fin 24) : KeepsO s (execPowerDownIdle chan s) := by
  unfold execPowerDownIdle
  try extract_lets
  with_reducible repeat' first
    | extract_lets | apply KeepsO.ite | apply KeepsO.next | intro _ | exact Keeps.refl _ | assumption
    | apply State.setMc_keeps

theorem State.mcCtrlWrite_keeps {s t : State} (hk : Keeps s t) (v : Word) : Keeps s (t.mcCtrlWrite v) := by
  refine hk.trans ?_
  unfold State.mcCtrlWrite
  try extract_lets
  with_reducible repeat' first
    | extract_lets | intro _ | exact Keeps.refl _ | assumption | apply State.raise_keeps
    | apply State.writeReg_keeps | apply State.fput_keeps | apply State.setMc_keeps
    | apply State.mcRaised_keeps | apply State.srEnter_keeps | apply State.srExit_keeps
    | apply State.mcPull_keeps | apply Keeps.ite

theorem execMcEnable_keeps {s : State} (v : Word) : KeepsO s (execMcEnable v s) := by
  unfold execMcEnable
  try extract_lets
  with_reducible repeat' first
    | extract_lets | apply KeepsO.ite | apply KeepsO.next | intro _ | exact Keeps.refl _ | assumption
    | apply State.mcCtrlWrite_keeps

theorem State.mcConfigWrite_keeps {s t : State} (hk : Keeps s t) (v : Word) : Keeps s (t.mcConfigWrite v) := by
  refine hk.trans ?_
  unfold State.mcConfigWrite
  try extract_lets
  with_reducible repeat' first
    | extract_lets | intro _ | exact Keeps.refl _ | assumption | apply State.raise_keeps
    | apply State.fput_keeps | apply Keeps.ite

theorem execMcConfigWrite_keeps {s : State} (v : Word) : KeepsO s (execMcConfigWrite v s) := by
  unfold execMcConfigWrite
  try extract_lets
  with_reducible repeat' first
    | extract_lets | apply KeepsO.ite | apply KeepsO.next | intro _ | exact Keeps.refl _ | assumption
    | apply State.mcConfigWrite_keeps

theorem State.mcPortWrite_keeps {s t : State} (hk : Keeps s t) (p : Nat) (v : Word) : Keeps s (t.mcPortWrite p v) :=
    by
  refine hk.trans ?_
  unfold State.mcPortWrite
  try extract_lets
  with_reducible repeat' first
    | extract_lets | intro _ | exact Keeps.refl _ | assumption | apply State.writeReg_keeps
    | apply State.raise_keeps | apply State.setMc_keeps | apply State.fput_keeps | apply State.mcRaised_keeps
    | apply State.mcPull_keeps | apply Keeps.ite

theorem execMcPortWrite_keeps {s : State} (p : Fin 10) (v : Word) : KeepsO s (execMcPortWrite p v s) := by
  unfold execMcPortWrite
  try extract_lets
  with_reducible repeat' first
    | extract_lets | apply KeepsO.ite | apply KeepsO.next | intro _ | exact Keeps.refl _ | assumption
    | apply State.mcPortWrite_keeps

theorem State.mcCountsClear_keeps {s t : State} (hk : Keeps s t)  : Keeps s t.mcCountsClear := by
  refine hk.trans ?_
  unfold State.mcCountsClear
  try extract_lets
  with_reducible repeat' first
    | extract_lets | intro _ | exact Keeps.refl _ | assumption | apply State.wr_keeps | apply Keeps.ite
    | apply Keeps.foldl

theorem execMcCountsClear_keeps {s : State}  : KeepsO s (execMcCountsClear  s) := by
  unfold execMcCountsClear
  try extract_lets
  with_reducible repeat' first
    | extract_lets | apply KeepsO.ite | apply KeepsO.next | intro _ | exact Keeps.refl _ | assumption
    | apply State.mcCountsClear_keeps

theorem State.trainWrite_keeps {s t : State} (hk : Keeps s t) (mask op : Nat) (start : Bool) : Keeps s (t.trainWrite
    mask op start) := by
  refine hk.trans ?_
  unfold State.trainWrite
  try extract_lets
  with_reducible repeat' first
    | extract_lets | intro _ | exact Keeps.refl _ | assumption | apply State.fput_keeps
    | apply State.setMc_keeps | apply Keeps.ite

theorem execWritePattern_keeps {s : State} (mask : BitVec 24) : KeepsO s (execWritePattern mask s) := by
  unfold execWritePattern
  try extract_lets
  with_reducible repeat' first
    | extract_lets | apply KeepsO.ite | apply KeepsO.next | intro _ | exact Keeps.refl _ | assumption
    | apply State.trainWrite_keeps

theorem execReadAndCompare_keeps {s : State} (mask : BitVec 24) : KeepsO s (execReadAndCompare mask s) := by
  unfold execReadAndCompare
  try extract_lets
  with_reducible repeat' first
    | extract_lets | apply KeepsO.ite | apply KeepsO.next | intro _ | exact Keeps.refl _ | assumption
    | apply State.trainWrite_keeps

theorem execCommandBusCompare_keeps {s : State} (mask : BitVec 24) : KeepsO s (execCommandBusCompare mask s) := by
  unfold execCommandBusCompare
  try extract_lets
  with_reducible repeat' first
    | extract_lets | apply KeepsO.ite | apply KeepsO.next | intro _ | exact Keeps.refl _ | assumption
    | apply State.trainWrite_keeps

theorem execReadDqCalibration_keeps {s : State} (mask : BitVec 24) : KeepsO s (execReadDqCalibration mask s) := by
  unfold execReadDqCalibration
  try extract_lets
  with_reducible repeat' first
    | extract_lets | apply KeepsO.ite | apply KeepsO.next | intro _ | exact Keeps.refl _ | assumption
    | apply State.trainWrite_keeps

theorem execWck2ckLeveling_keeps {s : State} (mask : BitVec 24) : KeepsO s (execWck2ckLeveling mask s) := by
  unfold execWck2ckLeveling
  try extract_lets
  with_reducible repeat' first
    | extract_lets | apply KeepsO.ite | apply KeepsO.next | intro _ | exact Keeps.refl _ | assumption
    | apply State.trainWrite_keeps

theorem State.layPattern_keeps {s t : State} (hk : Keeps s t) (chan lines : Nat) : Keeps s (t.layPattern chan lines)
    := by
  refine hk.trans ?_
  unfold State.layPattern
  extract_lets inArea entry
  exact ⟨rfl, fun c => ⟨mapWf_drop _ c.1 fun a => inArea t (a / 64), c.2.1, c.2.2.1,
    mapWf_drop _ c.2.2.2 fun w => inArea t (w / 8)⟩, fun _ _ h => h⟩

theorem execTrainingOpDone_keeps {s : State} (errors : List Nat) : KeepsO s (execTrainingOpDone errors s) := by
  unfold execTrainingOpDone
  try extract_lets
  repeat' first
    | (with_reducible first
      | extract_lets | apply KeepsO.ite | apply KeepsO.next | intro _ | exact Keeps.refl _ | assumption
      | apply State.fput_keeps | apply State.setMc_keeps | apply State.layPattern_keeps | apply Keeps.ite
      | apply Keeps.foldl | apply Keeps.foldl_third | apply Keeps.foldl_snd | apply Keeps.foldl_fst
      | fail_if_no_progress (refine Keeps.upd ?_ rfl rfl))
    | split

theorem State.takeT2_keeps {s t : State} (hk : Keeps s t) (i : Nat) : Keeps s (t.takeT2 i).2 := by
  refine hk.trans ?_
  unfold State.takeT2
  try extract_lets
  with_reducible repeat' first
    | extract_lets | intro _ | exact Keeps.refl _ | assumption | apply Keeps.ite | apply Keeps.foldl
    | fail_if_no_progress (refine Keeps.upd ?_ rfl rfl)

theorem State.allocTier_some (s : State) (tier : Nat) : KeepsSome Prod.snd s (s.allocTier tier) := by
  unfold State.allocTier State.takeT2
  refine KeepsSome.ite (KeepsSome.map (g := fun _ => s) ⟨fun _ _ => Keeps.refl _⟩ fun b hb => ?_)
    (KeepsSome.map (g := fun _ => s) ⟨fun _ _ => Keeps.refl _⟩ fun b hb => ?_)
  · exact (Keeps.refl _).upd rfl rfl
  · exact (Keeps.refl _).upd rfl rfl

theorem State.allocTier_keeps {s t : State} (hk : Keeps s t) (tier : Nat) {r : PoolBlock × State}
    (e : t.allocTier tier = some r) : Keeps s r.2 :=
  hk.trans ((State.allocTier_some t tier).keeps r e)

theorem State.allocBlock_some (s : State) (t2only : Bool) : KeepsSome Prod.snd s (s.allocBlock t2only) := by
  unfold State.allocBlock
  split
  · exact KeepsSome.some (State.allocTier_keeps (Keeps.refl _) _ ‹_›)
  · exact KeepsSome.ite KeepsSome.none (State.allocTier_some s 3)

theorem State.allocBlock_keeps {s t : State} (hk : Keeps s t) (t2only : Bool) {r : PoolBlock × State} (e :
    t.allocBlock t2only = some r) : Keeps s r.2 :=
  hk.trans ((State.allocBlock_some t t2only).keeps r e)

theorem State.allocSide_some (s : State) (t2only : Bool) : KeepsSome Prod.snd s (s.allocSide t2only) := by
  unfold State.allocSide State.takeT2
  split
  · exact KeepsSome.some ((Keeps.refl _).upd rfl rfl)
  · exact State.allocBlock_some s t2only

theorem State.allocSide_keeps {s t : State} (hk : Keeps s t) (t2only : Bool) {r : PoolBlock × State} (e : t.allocSide
    t2only = some r) : Keeps s r.2 :=
  hk.trans ((State.allocSide_some t t2only).keeps r e)

theorem State.allocMany_some {take : State → Option (PoolBlock × State)} (ht : ∀ s, KeepsSome Prod.snd s (take s)) (s
    : State)
    (n : Nat) : KeepsSome Prod.snd s (s.allocMany take n) := by
  induction n generalizing s with
  | zero => exact KeepsSome.some (Keeps.refl _)
  | succ n ih =>
    refine KeepsSome.bind (ht s) fun b hb => KeepsSome.map (g := Prod.snd) ⟨fun a e => hb.trans ((ih b.2).keeps a e)⟩ fun y hy => hy

theorem State.allocBlocks_some (s : State) (t2only : Bool) (n : Nat) : KeepsSome Prod.snd s (s.allocBlocks t2only n)
    := by
  exact State.allocMany_some (fun s => State.allocBlock_some s t2only) s n

theorem State.allocBlocks_keeps {s t : State} (hk : Keeps s t) (t2only : Bool) (n : Nat) {r : List PoolBlock × State}
    (e : t.allocBlocks t2only n = some r) : Keeps s r.2 :=
  hk.trans ((State.allocBlocks_some t t2only n).keeps r e)

theorem State.allocSides_some (s : State) (t2only : Bool) (n : Nat) : KeepsSome Prod.snd s (s.allocSides t2only n) :=
    by
  exact State.allocMany_some (fun s => State.allocSide_some s t2only) s n

theorem State.allocSides_keeps {s t : State} (hk : Keeps s t) (t2only : Bool) (n : Nat) {r : List PoolBlock × State}
    (e : t.allocSides t2only n = some r) : Keeps s r.2 :=
  hk.trans ((State.allocSides_some t t2only n).keeps r e)

theorem State.reclaimCheck_keeps {s t : State} (hk : Keeps s t)  : Keeps s t.reclaimCheck := by
  refine hk.trans ?_
  unfold State.reclaimCheck
  try extract_lets
  repeat' first
    | (with_reducible first
      | extract_lets | intro _ | exact Keeps.refl _ | assumption | apply State.completeTaken_keeps
      | apply Keeps.ite | apply Keeps.foldl | apply Keeps.foldl_third | apply Keeps.foldl_snd
      | apply Keeps.foldl_fst | fail_if_no_progress (refine Keeps.upd ?_ rfl rfl))
    | split

theorem State.freeBlocks_keeps {s t : State} (hk : Keeps s t) (l : List PoolBlock) : Keeps s (t.freeBlocks l) := by
  refine hk.trans ?_
  unfold State.freeBlocks
  try extract_lets
  with_reducible repeat' first
    | extract_lets | intro _ | exact Keeps.refl _ | assumption | apply State.reclaimCheck_keeps
    | apply Keeps.ite | apply Keeps.foldl | fail_if_no_progress (refine Keeps.upd ?_ rfl rfl)

theorem State.allocRun_some (s : State) (n : Nat) : KeepsSome Prod.snd s (s.allocRun n) := by
  unfold State.allocRun
  extract_lets
  exact KeepsSome.map (g := fun _ => s) ⟨fun _ _ => Keeps.refl _⟩ fun b hb => (Keeps.refl _).upd rfl rfl

theorem State.allocRun_keeps {s t : State} (hk : Keeps s t) (n : Nat) {r : Nat × State} (e : t.allocRun n = some r) :
    Keeps s r.2 :=
  hk.trans ((State.allocRun_some t n).keeps r e)

theorem State.blockWrite_keeps {s t : State} (hk : Keeps s t) (slot : Nat) (b : PoolBlock) (off : Nat) (d : List
    Byte) : Keeps s (t.blockWrite slot b off d) := by
  refine hk.trans ?_
  unfold State.blockWrite
  try extract_lets
  with_reducible repeat' first
    | extract_lets | intro _ | exact Keeps.refl _ | assumption | apply State.areaWrite_keeps
    | apply State.lpStore_keeps | apply Keeps.ite

theorem State.frameTake_some (s : State) (tier f : Nat) : KeepsSome (fun t : State => t) s (s.frameTake tier f) := by
  unfold State.frameTake
  refine KeepsSome.foldl (KeepsSome.some (Keeps.refl _)) fun p c hp => KeepsSome.bind hp fun t ht => ?_
  extract_lets
  refine KeepsSome.ite KeepsSome.none ?_
  split
  · exact KeepsSome.ite (KeepsSome.some ht) KeepsSome.none
  · exact KeepsSome.map (g := Prod.snd) ⟨fun a e => State.allocTier_keeps ht _ e⟩ fun x hx => hx.upd rfl rfl

theorem State.frameTake_keeps {s t : State} (hk : Keeps s t) (tier f : Nat) {r : State} (e : t.frameTake tier f =
    some r) : Keeps s r :=
  hk.trans ((State.frameTake_some t tier f).keeps r e)

theorem firstSome_some {α : Type} {f : α → State} {s : State} {g : Nat → Option α} (hg : ∀ n, KeepsSome f s (g n)) (k
    i : Nat) :
    KeepsSome f s (firstSome g k i) := by
  induction k generalizing i with
  | zero => exact KeepsSome.none
  | succ k ih =>
    unfold firstSome
    split
    · exact ⟨fun a e => by cases e; exact (hg _).keeps _ ‹_›⟩
    · exact ih _

theorem State.freeFrame_some (s : State) (tier : Nat) : KeepsSome Prod.snd s (s.freeFrame tier) := by
  unfold State.freeFrame
  refine firstSome_some (fun f => KeepsSome.ite KeepsSome.none ?_) _ _
  exact KeepsSome.map (g := fun t : State => t) ⟨fun a e => State.frameTake_keeps (Keeps.refl _) _ _ e⟩ fun t ht => ht

theorem State.freeFrame_keeps {s t : State} (hk : Keeps s t) (tier : Nat) {r : Nat × State} (e : t.freeFrame tier =
    some r) : Keeps s r.2 :=
  hk.trans ((State.freeFrame_some t tier).keeps r e)

theorem State.fillFrame_keeps {s t : State} (hk : Keeps s t) (party f : Nat) : Keeps s (t.fillFrame party f) := by
  refine hk.trans ?_
  unfold State.fillFrame
  try extract_lets
  repeat' first
    | (with_reducible first
      | extract_lets | intro _ | exact Keeps.refl _ | assumption | apply State.blockWrite_keeps
      | apply Keeps.ite | apply Keeps.foldl | apply Keeps.foldl_third | apply Keeps.foldl_snd
      | apply Keeps.foldl_fst | fail_if_no_progress (refine Keeps.upd ?_ rfl rfl))
    | split

theorem State.frameWrite_keeps {s t : State} (hk : Keeps s t) (party f : Nat) (d : List Byte) : Keeps s
    (t.frameWrite party f d) := by
  refine hk.trans ?_
  unfold State.frameWrite
  try extract_lets
  repeat' first
    | (with_reducible first
      | extract_lets | intro _ | exact Keeps.refl _ | assumption | apply State.blockWrite_keeps
      | apply Keeps.ite | apply Keeps.foldl | apply Keeps.foldl_third | apply Keeps.foldl_snd
      | apply Keeps.foldl_fst | fail_if_no_progress (refine Keeps.upd ?_ rfl rfl))
    | split

theorem State.putRecord_keeps {s t : State} (hk : Keeps s t) (q : Seq) : Keeps s (t.putRecord q) := by
  refine hk.trans ?_
  unfold State.putRecord
  try extract_lets
  repeat' first
    | (with_reducible first
      | extract_lets | intro _ | exact Keeps.refl _ | assumption | apply State.place_keeps
      | apply State.lpStore_keeps | apply Keeps.ite)

theorem State.setSeq_keeps {s t : State} (hk : Keeps s t) (q : Seq) : Keeps s (t.setSeq q) := by
  refine hk.trans ?_
  unfold State.setSeq
  try extract_lets
  repeat' first
    | (with_reducible first
      | extract_lets | intro _ | exact Keeps.refl _ | assumption | apply State.putRecord_keeps
      | apply Keeps.ite | apply Keeps.foldl | fail_if_no_progress (refine Keeps.upd ?_ rfl rfl))

theorem State.openSeq_some (s : State) (party h : Nat) : KeepsSome (fun t : State => t) s (s.openSeq party h) := by
  unfold State.openSeq
  extract_lets i q room
  refine KeepsSome.map (g := fun t : State => t) (KeepsSome.ite (KeepsSome.some (Keeps.refl _)) ?_) fun t ht => ?_
  · exact KeepsSome.map (g := Prod.snd) ⟨fun a e => State.allocRun_keeps (Keeps.refl _) _ e⟩ fun x hx => hx.upd rfl rfl
  · exact State.putRecord_keeps (ht.upd rfl rfl) _

theorem State.openSeq_keeps {s t : State} (hk : Keeps s t) (party h : Nat) {r : State} (e : t.openSeq party h = some r) :
    Keeps s r :=
  hk.trans ((State.openSeq_some t party h).keeps r e)

theorem State.dropSeq_keeps {s t : State} (hk : Keeps s t) (q : Seq) : Keeps s (t.dropSeq q) := by
  refine hk.trans ?_
  unfold State.dropSeq
  try extract_lets
  with_reducible repeat' first
    | extract_lets | intro _ | exact Keeps.refl _ | assumption | apply State.setSeq_keeps

theorem State.spillOne_some (s : State) (q : Seq) : KeepsSome (fun t : State => t) s (s.spillOne q) := by
  unfold State.spillOne
  split
  · exact KeepsSome.none
  · extract_lets
    refine KeepsSome.map (g := Prod.snd) ⟨fun a e => State.freeFrame_keeps (Keeps.refl _) _ e⟩ fun x hx => ?_
    exact State.setSeq_keeps (State.frameWrite_keeps hx _ _ _) _

theorem State.spillOne_keeps {s t : State} (hk : Keeps s t) (q : Seq) {r : State} (e : t.spillOne q = some r) : Keeps
    s r :=
  hk.trans ((State.spillOne_some t q).keeps r e)

theorem State.needFrame_keeps {s t : State} (hk : Keeps s t) (keep : List Nat) (x0 : Nat) :
    Keeps s (t.needFrame keep x0).2 := by
  induction x0 generalizing t with
  | zero => exact hk
  | succ fuel ih =>
    unfold State.needFrame
    split
    · exact State.freeFrame_keeps hk _ ‹_›
    · split
      · exact hk
      · split
        · exact ih (State.dropSeq_keeps hk _)
        · split
          · exact ih (State.spillOne_keeps hk _ ‹_›)
          · exact hk

theorem State.growSeq_keeps {s t : State} (hk : Keeps s t) (h n : Nat) (keep : List Nat) (x0 : Nat) :
    Keeps s (t.growSeq h n keep x0).2 := by
  induction x0 generalizing t with
  | zero => exact hk
  | succ fuel ih =>
    unfold State.growSeq
    split
    · exact hk
    · split
      · exact hk
      · have hn := State.needFrame_keeps hk keep t.pagesHeld
        split
        · rename_i e
          rw [e] at hn
          exact hn
        · rename_i e
          rw [e] at hn
          split
          · exact hn
          · exact ih (State.setSeq_keeps (State.fillFrame_keeps hn _ _) _)

theorem State.recompute_keeps {s t : State} (hk : Keeps s t) (h : Nat) (keep : List Nat) :
    Keeps s (t.recompute h keep).2 := by
  unfold State.recompute
  split
  · exact hk
  · rename_i q _
    split
    · exact hk
    · extract_lets n
      have hg := State.growSeq_keeps (State.setSeq_keeps hk { q with pages := [] }) h n keep n
      split
      · rename_i e
        rw [e] at hg
        dsimp only
        split
        · exact State.setSeq_keeps hg _
        · exact hg
      · rename_i e
        rw [e] at hg
        dsimp only
        split
        · exact hg
        · exact State.setSeq_keeps (Keeps.foldl hg fun u x hu => State.frameWrite_keeps hu _ _ _) _

theorem State.copyBack_some (s : State) (host : List Byte) (h : Nat) (done : List KvCopy) :
    KeepsSome (fun x : KvCopy × State × List Byte => x.2.1) s (s.copyBack host h done) := by
  unfold State.copyBack
  split
  · exact KeepsSome.none
  · split
    · exact KeepsSome.none
    · extract_lets src
      split
      · exact KeepsSome.none
      · exact KeepsSome.some (State.frameWrite_keeps (State.freeFrame_keeps (Keeps.refl _) _ ‹_›) _ _ _)

theorem State.copyBack_keeps {s t : State} (hk : Keeps s t) (host : List Byte) (h : Nat) (done : List KvCopy)
    {r : KvCopy × State × List Byte} (e : t.copyBack host h done = some r) : Keeps s r.2.1 :=
  hk.trans ((State.copyBack_some t host h done).keeps r e)

theorem State.takeCopies_keeps {s t : State} (hk : Keeps s t) (l : List KvCopy) : Keeps s (t.takeCopies l) := by
  refine hk.trans ?_
  unfold State.takeCopies
  try extract_lets
  repeat' first
    | (with_reducible first
      | extract_lets | intro _ | exact Keeps.refl _ | assumption | apply State.setSeq_keeps | apply Keeps.ite
      | apply Keeps.foldl | apply Keeps.foldl_third | apply Keeps.foldl_snd | apply Keeps.foldl_fst
      | fail_if_no_progress (refine Keeps.upd ?_ rfl rfl))
    | split

theorem State.trimKv_keeps {s t : State} (hk : Keeps s t) : Keeps s t.trimKv := by
  refine hk.trans ?_
  unfold State.trimKv
  try extract_lets
  repeat' first
    | (with_reducible first
      | extract_lets | intro _ | exact Keeps.refl _ | assumption | apply State.freeBlocks_keeps
      | apply Keeps.ite | apply Keeps.foldl | fail_if_no_progress (refine Keeps.upd ?_ rfl rfl))

theorem State.closeSeq_keeps {s t : State} (hk : Keeps s t) (h : Nat) : Keeps s (t.closeSeq h) := by
  refine hk.trans ?_
  unfold State.closeSeq
  try extract_lets
  with_reducible repeat' first
    | extract_lets | intro _ | exact Keeps.refl _ | assumption | apply State.trimKv_keeps | apply Keeps.ite
    | apply Keeps.foldl | fail_if_no_progress (refine Keeps.upd ?_ rfl rfl)

theorem State.storePackage_keeps {s t : State} (hk : Keeps s t) (bs : List PoolBlock) (d : List Byte) : Keeps s
    (t.storePackage bs d) := by
  refine hk.trans ?_
  unfold State.storePackage
  try extract_lets
  repeat' first
    | (with_reducible first
      | extract_lets | intro _ | exact Keeps.refl _ | assumption | apply State.lpStoreLine_keeps
      | apply Keeps.ite | apply Keeps.foldl)

theorem State.setResident_keeps {s t : State} (hk : Keeps s t) (f : Resident → Resident) : Keeps s (t.setResident f)
    := by
  refine hk.trans ?_
  unfold State.setResident
  try extract_lets
  repeat' first
    | (with_reducible first
      | extract_lets | intro _ | exact Keeps.refl _ | assumption | apply Keeps.ite | apply Keeps.foldl
      | fail_if_no_progress (refine Keeps.upd ?_ rfl rfl))

theorem State.loadPosition_keeps {s t : State} (hk : Keeps s t) (blocks : List PoolBlock) : Keeps s (t.loadPosition
    blocks) := by
  refine hk.trans ?_
  unfold State.loadPosition
  try extract_lets
  repeat' first
    | (with_reducible first
      | extract_lets | intro _ | exact Keeps.refl _ | assumption | apply State.setResident_keeps
      | apply State.storePackage_keeps | apply State.clearRange_keeps | apply State.setBytes_keeps
      | apply State.cpRelease_keeps | apply Keeps.ite | apply Keeps.foldl)

theorem State.makeResident_keeps {s t : State} (hk : Keeps s t) (r : Resident) : Keeps s (t.makeResident r) := by
  refine hk.trans ?_
  unfold State.makeResident
  try extract_lets
  repeat' first
    | (with_reducible first
      | extract_lets | intro _ | exact Keeps.refl _ | assumption | apply State.freeBlocks_keeps
      | apply State.blockWrite_keeps | apply State.loadPosition_keeps | apply State.place_keeps
      | apply State.fput_keeps | apply Keeps.ite | apply Keeps.foldl | apply Keeps.foldl_third
      | apply Keeps.foldl_snd | apply Keeps.foldl_fst | fail_if_no_progress (refine Keeps.upd ?_ rfl rfl))

theorem State.loadFound_keeps {s t : State} (hk : Keeps s t) {o : Option (List PoolBlock × State)}
    (ho : ∀ x, o = some x → Keeps s x.2) : Keeps s (t.loadFound o) := by
  cases o with
  | none =>
    rw [State.loadFound]
    exact State.loadPosition_keeps hk []
  | some x =>
    rw [State.loadFound]
    exact State.loadPosition_keeps (ho x rfl) x.1

theorem State.takePosition_keeps {s t : State} (hk : Keeps s t) : Keeps s t.takePosition := by
  unfold State.takePosition
  split
  · exact hk
  · extract_lets s1
    have h1 : Keeps s s1 := State.freeBlocks_keeps (State.setResident_keeps hk _) _
    exact State.loadFound_keeps h1 fun x e => State.allocBlocks_keeps h1 _ _ e

theorem State.seqMoved_keeps {s t : State} (hk : Keeps s t) (q : Seq) : Keeps s (t.seqMoved q) := by
  refine hk.trans ?_
  unfold State.seqMoved
  try extract_lets
  repeat' first
    | (with_reducible first
      | extract_lets | intro _ | exact Keeps.refl _ | assumption | apply State.closeSeq_keeps
      | apply State.event_keeps | apply State.completeTaken_keeps | apply Keeps.ite | apply Keeps.foldl
      | fail_if_no_progress (refine Keeps.upd ?_ rfl rfl))
    | split

theorem State.ringMoved_keeps {s t : State} (hk : Keeps s t) (members : Nat) (moved : List Nat) (mine : Bool) :
    Keeps s (t.ringMoved members moved mine) := by
  refine hk.trans ?_
  unfold State.ringMoved
  try extract_lets
  repeat' first
    | (with_reducible first
      | extract_lets | intro _ | exact Keeps.refl _ | assumption | apply State.seqMoved_keeps
      | apply State.takePosition_keeps | apply Keeps.ite | apply Keeps.foldl | apply Keeps.foldl_third
      | apply Keeps.foldl_snd | apply Keeps.foldl_fst | fail_if_no_progress (refine Keeps.upd ?_ rfl rfl))

theorem State.portEnable_keeps {s t : State} (hk : Keeps s t) (p : Nat) : Keeps s (t.portEnable p) := by
  refine hk.trans ?_
  unfold State.portEnable
  try extract_lets
  with_reducible repeat' first
    | extract_lets | intro _ | exact Keeps.refl _ | assumption | apply State.fput_keeps
    | apply State.setPort_keeps | apply State.setPortState_keeps

theorem State.portDisable_keeps {s t : State} (hk : Keeps s t) (p : Nat) : Keeps s (t.portDisable p) := by
  refine hk.trans ?_
  unfold State.portDisable
  try extract_lets
  with_reducible repeat' first
    | extract_lets | intro _ | exact Keeps.refl _ | assumption | apply State.fput_keeps
    | apply State.setPort_keeps | apply State.setPortState_keeps

theorem execPortEnable_keeps {s : State} (port : Fin 2) : KeepsO s (execPortEnable port s) := by
  unfold execPortEnable
  try extract_lets
  with_reducible repeat' first
    | extract_lets | apply KeepsO.ite | apply KeepsO.next | intro _ | exact Keeps.refl _ | assumption
    | apply State.portEnable_keeps | apply Keeps.ite

theorem execPortTrainingDone_keeps {s : State} (port : Fin 2) (reversed : Bool) (polarity : BitVec 8) : KeepsO s
    (execPortTrainingDone port reversed polarity s) := by
  unfold execPortTrainingDone
  try extract_lets
  repeat' first
    | (with_reducible first
      | extract_lets | apply KeepsO.ite | apply KeepsO.next | intro _ | exact Keeps.refl _ | assumption
      | apply State.fput_keeps | apply State.setPort_keeps | apply State.putFrame_keeps | apply Keeps.ite)

theorem execPortTrainingTimeout_keeps {s : State} (port : Fin 2) : KeepsO s (execPortTrainingTimeout port s) := by
  unfold execPortTrainingTimeout
  try extract_lets
  with_reducible repeat' first
    | extract_lets | apply KeepsO.ite | apply KeepsO.next | intro _ | exact Keeps.refl _ | assumption
    | apply State.setPortState_keeps | apply Keeps.ite

theorem execIdleLinkWord_keeps {s : State} (port : Fin 2) : KeepsO s (execIdleLinkWord port s) := by
  unfold execIdleLinkWord
  try extract_lets
  repeat' first
    | (with_reducible first
      | extract_lets | apply KeepsO.ite | apply KeepsO.next | intro _ | exact Keeps.refl _ | assumption
      | apply State.emit_keeps | apply Keeps.ite)

theorem execLinkAck_keeps {s : State} (port : Fin 2) (count : Nat) : KeepsO s (execLinkAck port count s) := by
  unfold execLinkAck
  try extract_lets
  with_reducible repeat' first
    | extract_lets | apply KeepsO.ite | apply KeepsO.next | intro _ | exact Keeps.refl _ | assumption
    | apply State.setPort_keeps | apply State.portRun_keeps

theorem execReplayRequest_keeps {s : State} (port : Fin 2) : KeepsO s (execReplayRequest port s) := by
  unfold execReplayRequest
  try extract_lets
  repeat' first
    | (with_reducible first
      | extract_lets | apply KeepsO.ite | apply KeepsO.next | intro _ | exact Keeps.refl _ | assumption
      | apply State.fsat_keeps | apply State.report_keeps | apply State.wire_keeps | apply Keeps.ite
      | apply Keeps.foldl)

theorem execCreditReturn_keeps {s : State} (port : Fin 2) (classD : Bool) (lines : Nat) : KeepsO s (execCreditReturn
    port classD lines s) := by
  unfold execCreditReturn
  try extract_lets
  with_reducible repeat' first
    | extract_lets | apply KeepsO.ite | apply KeepsO.next | intro _ | exact Keeps.refl _ | assumption
    | apply State.setPort_keeps | apply State.portRun_keeps

theorem execPortSilenceTimeout_keeps {s : State} (port : Fin 2) : KeepsO s (execPortSilenceTimeout port s) := by
  unfold execPortSilenceTimeout
  try extract_lets
  with_reducible repeat' first
    | extract_lets | apply KeepsO.ite | apply KeepsO.next | intro _ | exact Keeps.refl _ | assumption
    | apply State.setPortState_keeps | apply Keeps.ite

theorem State.dropMalformed_keeps {s t : State} (hk : Keeps s t) (p : Nat) : Keeps s (t.dropMalformed p) := by
  refine hk.trans ?_
  unfold State.dropMalformed
  try extract_lets
  with_reducible repeat' first
    | extract_lets | intro _ | exact Keeps.refl _ | assumption | apply State.flag_keeps
    | apply State.report_keeps

theorem State.staleFrame_keeps {s t : State} (hk : Keeps s t) (p : Nat) (f : RFrame) : Keeps s (t.staleFrame p f) :=
    by
  refine hk.trans ?_
  unfold State.staleFrame
  try extract_lets
  with_reducible repeat' first
    | extract_lets | intro _ | exact Keeps.refl _ | assumption | apply State.fsat_keeps
    | apply State.raise_keeps | apply State.setPort_keeps | apply State.queueFrame_keeps | apply Keeps.ite

theorem State.failSends_keeps {s t : State} (hk : Keeps s t)  : Keeps s t.failSends := by
  refine hk.trans ?_
  unfold State.failSends
  try extract_lets
  repeat' first
    | (with_reducible first
      | extract_lets | intro _ | exact Keeps.refl _ | assumption | apply State.failTransfer_keeps
      | apply State.mvSettle_keeps | apply Keeps.ite | apply Keeps.foldl | apply Keeps.foldl_third
      | apply Keeps.foldl_snd | apply Keeps.foldl_fst | fail_if_no_progress (refine Keeps.upd ?_ rfl rfl))
    | split

theorem State.quarantine_keeps {s t : State} (hk : Keeps s t) (epoch : Nat) : Keeps s (t.quarantine epoch) := by
  refine hk.trans ?_
  unfold State.quarantine
  try extract_lets
  with_reducible repeat' first
    | extract_lets | intro _ | exact Keeps.refl _ | assumption | apply State.fput_keeps
    | apply State.raise_keeps | apply State.setPort_keeps | apply State.failSends_keeps
    | apply State.sediment_keeps | apply State.cond_keeps | apply Keeps.ite | apply Keeps.foldl
    | fail_if_no_progress (refine Keeps.upd ?_ rfl rfl)

theorem State.burstReply_keeps {s t : State} (hk : Keeps s t) (dst id reason : Nat) : Keeps s (t.burstReply dst id
    reason) := by
  refine hk.trans ?_
  unfold State.burstReply
  try extract_lets
  with_reducible repeat' first
    | extract_lets | intro _ | exact Keeps.refl _ | assumption | apply State.sendFrame_keeps

theorem State.takeOpen_keeps {s t : State} (hk : Keeps s t) (f : RFrame) : Keeps s (t.takeOpen f) := by
  refine hk.trans ?_
  unfold State.takeOpen
  try extract_lets
  repeat' first
    | (with_reducible first
      | extract_lets | intro _ | exact Keeps.refl _ | assumption | apply State.burstReply_keeps
      | apply State.raise_keeps | apply Keeps.ite | apply Keeps.foldl
      | fail_if_no_progress (refine Keeps.upd ?_ rfl rfl))

theorem State.takeData_keeps {s t : State} (hk : Keeps s t) (p : Nat) (f : RFrame) : Keeps s (t.takeData p f) := by
  refine hk.trans ?_
  unfold State.takeData
  try extract_lets
  repeat' first
    | (with_reducible first
      | extract_lets | intro _ | exact Keeps.refl _ | assumption | apply State.staleFrame_keeps
      | apply State.burstReply_keeps | apply State.hbStore_keeps | apply Keeps.ite | apply Keeps.foldl
      | apply Keeps.foldl_third | apply Keeps.foldl_snd | apply Keeps.foldl_fst
      | fail_if_no_progress (refine Keeps.upd ?_ rfl rfl))
    | split

theorem execBurstHoldExpiry_keeps {s : State} (idx : Nat) : KeepsO s (execBurstHoldExpiry idx s) := by
  unfold execBurstHoldExpiry
  try extract_lets
  repeat' first
    | (with_reducible first
      | extract_lets | apply KeepsO.ite | apply KeepsO.next | intro _ | exact Keeps.refl _ | assumption
      | apply State.fsat_keeps | apply State.raise_keeps | apply State.burstReply_keeps | apply Keeps.ite
      | apply Keeps.foldl | fail_if_no_progress (refine Keeps.upd ?_ rfl rfl))
    | split

theorem State.dropSend_keeps {s t : State} (hk : Keeps s t) (id : Nat) : Keeps s (t.dropSend id) := by
  refine hk.trans ?_
  unfold State.dropSend
  try extract_lets
  with_reducible repeat' first
    | extract_lets | intro _ | exact Keeps.refl _ | assumption | apply Keeps.ite | apply Keeps.foldl
    | fail_if_no_progress (refine Keeps.upd ?_ rfl rfl)

theorem State.burstFail_keeps {s t : State} (hk : Keeps s t) (b : SendBurst) : Keeps s (t.burstFail b) := by
  refine hk.trans ?_
  unfold State.burstFail
  try extract_lets
  repeat' first
    | (with_reducible first
      | extract_lets | intro _ | exact Keeps.refl _ | assumption | apply State.dropSend_keeps
      | apply State.failTransfer_keeps | apply State.mvSettle_keeps | apply Keeps.ite | apply Keeps.foldl
      | fail_if_no_progress (refine Keeps.upd ?_ rfl rfl))
    | split

theorem State.burstRestart_keeps {s t : State} (hk : Keeps s t) (b : SendBurst) : Keeps s (t.burstRestart b) := by
  refine hk.trans ?_
  unfold State.burstRestart
  try extract_lets
  with_reducible repeat' first
    | extract_lets | intro _ | exact Keeps.refl _ | assumption | apply State.burstFail_keeps
    | apply State.dropSend_keeps | apply State.fsat_keeps | apply State.openBurst_keeps | apply Keeps.ite

theorem State.burstDone_keeps {s t : State} (hk : Keeps s t) (b : SendBurst) : Keeps s (t.burstDone b) := by
  refine hk.trans ?_
  unfold State.burstDone
  try extract_lets
  repeat' first
    | (with_reducible first
      | extract_lets | intro _ | exact Keeps.refl _ | assumption | apply State.dropSend_keeps
      | apply State.retire_keeps | apply State.mvSettle_keeps | apply Keeps.ite | apply Keeps.foldl
      | fail_if_no_progress (refine Keeps.upd ?_ rfl rfl))
    | split

theorem State.takeReply_keeps {s t : State} (hk : Keeps s t) (f : RFrame) : Keeps s (t.takeReply f) := by
  refine hk.trans ?_
  unfold State.takeReply
  try extract_lets
  repeat' first
    | (with_reducible first
      | extract_lets | intro _ | exact Keeps.refl _ | assumption | apply State.burstDone_keeps
      | apply State.burstRestart_keeps | apply State.burstFail_keeps | apply Keeps.ite | apply Keeps.foldl
      | fail_if_no_progress (refine Keeps.upd ?_ rfl rfl))
    | split

theorem execBurstReplyTimeout_keeps {s : State} (idx : Nat) : KeepsO s (execBurstReplyTimeout idx s) := by
  unfold execBurstReplyTimeout
  try extract_lets
  repeat' first
    | (with_reducible first
      | extract_lets | apply KeepsO.ite | apply KeepsO.next | intro _ | exact Keeps.refl _ | assumption
      | apply State.burstRestart_keeps | apply Keeps.ite | apply Keeps.foldl
      | fail_if_no_progress (refine Keeps.upd ?_ rfl rfl))
    | split

theorem State.enumEnd_keeps {s t : State} (hk : Keeps s t) (south north : List (List Byte)) (closed : Bool) : Keeps
    s (t.enumEnd south north closed) := by
  refine hk.trans ?_
  unfold State.enumEnd
  try extract_lets
  repeat' first
    | (with_reducible first
      | extract_lets | intro _ | exact Keeps.refl _ | assumption | apply State.fput_keeps
      | apply State.report_keeps | apply State.areaWrite_keeps | apply State.bgDone_keeps | apply Keeps.ite
      | apply Keeps.foldl | fail_if_no_progress (refine Keeps.upd ?_ rfl rfl))
    | split

theorem State.enumNorth_keeps {s t : State} (hk : Keeps s t) (south : List (List Byte)) : Keeps s (t.enumNorth
    south) := by
  refine hk.trans ?_
  unfold State.enumNorth
  try extract_lets
  repeat' first
    | (with_reducible first
      | extract_lets | intro _ | exact Keeps.refl _ | assumption | apply State.queueFrame_keeps
      | apply State.enumEnd_keeps | apply Keeps.ite | apply Keeps.foldl
      | fail_if_no_progress (refine Keeps.upd ?_ rfl rfl))

theorem State.enumStart_keeps {s t : State} (hk : Keeps s t) : Keeps s t.enumStart := by
  refine hk.trans ?_
  unfold State.enumStart
  try extract_lets
  repeat' first
    | (with_reducible first
      | extract_lets | intro _ | exact Keeps.refl _ | assumption | apply State.enumEnd_keeps
      | apply State.queueFrame_keeps | apply State.enumNorth_keeps | apply Keeps.ite | apply Keeps.foldl
      | fail_if_no_progress (refine Keeps.upd ?_ rfl rfl))

theorem State.takeEnum_keeps {s t : State} (hk : Keeps s t) (p : Nat) (f : RFrame) : Keeps s (t.takeEnum p f) := by
  refine hk.trans ?_
  unfold State.takeEnum
  try extract_lets
  repeat' first
    | (with_reducible first
      | extract_lets | intro _ | exact Keeps.refl _ | assumption | apply State.enumEnd_keeps
      | apply State.enumNorth_keeps | apply State.queueFrame_keeps | apply Keeps.ite | apply Keeps.foldl
      | fail_if_no_progress (refine Keeps.upd ?_ rfl rfl))
    | split

theorem execEnumClosedTimeout_keeps {s : State} : KeepsO s (execEnumClosedTimeout s) := by
  unfold execEnumClosedTimeout
  try extract_lets
  repeat' first
    | (with_reducible first
      | extract_lets | apply KeepsO.ite | apply KeepsO.next | intro _ | exact Keeps.refl _ | assumption
      | apply State.fput_keeps | apply Keeps.ite | apply Keeps.foldl
      | fail_if_no_progress (refine Keeps.upd ?_ rfl rfl))
    | split

theorem State.writeRoutes_keeps {s u : State} (hk : Keeps s u) (t : List Member) (closed : Bool) (i : Nat) : Keeps s
    (u.writeRoutes t closed i) := by
  refine hk.trans ?_
  unfold State.writeRoutes
  try extract_lets
  repeat' first
    | (with_reducible first
      | extract_lets | intro _ | exact Keeps.refl _ | assumption | apply State.wr_keeps
      | apply State.fput_keeps | apply Keeps.ite | apply Keeps.foldl | apply Keeps.foldl_third
      | apply Keeps.foldl_snd | apply Keeps.foldl_fst | fail_if_no_progress (refine Keeps.upd ?_ rfl rfl))
    | split

theorem State.loadLinkKey_keeps {s u : State} (hk : Keeps s u) (epoch : Nat) (t : List Member) : Keeps s
    (u.loadLinkKey epoch t) := by
  refine hk.trans ?_
  unfold State.loadLinkKey
  try extract_lets
  repeat' first
    | (with_reducible first
      | extract_lets | intro _ | exact Keeps.refl _ | assumption | apply Keeps.ite | apply Keeps.foldl
      | fail_if_no_progress (refine Keeps.upd ?_ rfl rfl))
    | split

theorem State.quiesceLocal_keeps {s t : State} (hk : Keeps s t) (epoch : Nat) (x : List Member) (sent : Nat) : Keeps
    s (t.quiesceLocal epoch x sent) := by
  refine hk.trans ?_
  unfold State.quiesceLocal
  try extract_lets
  repeat' first
    | (with_reducible first
      | extract_lets | intro _ | exact Keeps.refl _ | assumption | apply State.loadLinkKey_keeps
      | apply State.setPort_keeps | apply State.cond_keeps | apply Keeps.ite | apply Keeps.foldl
      | fail_if_no_progress (refine Keeps.upd ?_ rfl rfl))

theorem State.commitLocal_keeps {s t : State} (hk : Keeps s t) (epoch : Nat) (x : List Member) (closed head : Bool)
    : Keeps s (t.commitLocal epoch x closed head) := by
  refine hk.trans ?_
  unfold State.commitLocal
  try extract_lets
  repeat' first
    | (with_reducible first
      | extract_lets | intro _ | exact Keeps.refl _ | assumption | apply State.fput_keeps
      | apply State.writeRoutes_keeps | apply State.setPortState_keeps | apply State.burstRestart_keeps
      | apply State.ringMoved_keeps | apply Keeps.ite | apply Keeps.foldl | apply Keeps.foldl_third
      | apply Keeps.foldl_snd | apply Keeps.foldl_fst | fail_if_no_progress (refine Keeps.upd ?_ rfl rfl))
    | split

theorem State.queueSealed_keeps {s t : State} (hk : Keeps s t) (p : Nat) {o : Option (RFrame × State)}
    (ho : ∀ r, o = some r → Keeps s r.2) : Keeps s (t.queueSealed p o) := by
  cases o with
  | none => exact hk
  | some r => exact State.queueFrame_keeps (ho r rfl) _ _ _

theorem State.replyOn_keeps {s t : State} (hk : Keeps s t) (p dst kind epoch : Nat) : Keeps s (t.replyOn p dst kind
    epoch) := by
  unfold State.replyOn
  exact State.queueSealed_keeps hk _ fun r e => State.seal_keeps hk _ e

theorem State.sendMembership_keeps {s t : State} (hk : Keeps s t) (phase epoch : Nat) (x : List Member) (closed :
    Bool) : Keeps s (t.sendMembership phase epoch x closed) := by
  refine hk.trans ?_
  unfold State.sendMembership
  try extract_lets
  repeat' first
    | (with_reducible first
      | extract_lets | intro _ | exact Keeps.refl _ | assumption | apply State.queueSealed_keeps
      | refine State.seal_keeps ?_ _ (by assumption) | apply Keeps.ite | apply Keeps.foldl
      | apply Keeps.foldl_third | apply Keeps.foldl_snd | apply Keeps.foldl_fst
      | fail_if_no_progress (refine Keeps.upd ?_ rfl rfl))
    | split

theorem State.headCommit_keeps {s u : State} (hk : Keeps s u) (epoch : Nat) (t : List Member) (closed : Bool) : Keeps
    s (u.headCommit epoch t closed) := by
  refine hk.trans ?_
  unfold State.headCommit
  try extract_lets
  with_reducible repeat' first
    | extract_lets | intro _ | exact Keeps.refl _ | assumption | apply State.sendMembership_keeps
    | apply State.commitLocal_keeps | apply State.bgDone_keeps | apply Keeps.ite | apply Keeps.foldl
    | fail_if_no_progress (refine Keeps.upd ?_ rfl rfl)

theorem State.headConfigure_keeps {s t : State} (hk : Keeps s t) (x : List Member) (closed : Bool) : Keeps s
    (t.headConfigure x closed) := by
  refine hk.trans ?_
  unfold State.headConfigure
  try extract_lets
  repeat' first
    | (with_reducible first
      | extract_lets | intro _ | exact Keeps.refl _ | assumption | apply State.sendMembership_keeps
      | apply State.quiesceLocal_keeps | apply State.headCommit_keeps | apply Keeps.ite | apply Keeps.foldl
      | fail_if_no_progress (refine Keeps.upd ?_ rfl rfl))

theorem State.takeMembership_keeps {s t : State} (hk : Keeps s t) (p : Nat) (f : RFrame) : Keeps s (t.takeMembership
    p f) := by
  refine hk.trans ?_
  unfold State.takeMembership
  try extract_lets
  repeat' first
    | (with_reducible first
      | extract_lets | intro _ | exact Keeps.refl _ | assumption | apply State.queueFrame_keeps
      | apply State.raise_keeps | apply State.staleFrame_keeps | apply State.quiesceLocal_keeps
      | apply State.replyOn_keeps | apply State.commitLocal_keeps | apply Keeps.ite | apply Keeps.foldl
      | fail_if_no_progress (refine Keeps.upd ?_ rfl rfl))
    | split

theorem execMemberReplyTimeout_keeps {s : State} : KeepsO s (execMemberReplyTimeout s) := by
  unfold execMemberReplyTimeout
  try extract_lets
  repeat' first
    | (with_reducible first
      | extract_lets | apply KeepsO.ite | apply KeepsO.next | intro _ | exact Keeps.refl _ | assumption
      | apply State.event_keeps | apply State.draw_keeps | apply State.bgDone_keeps | apply Keeps.ite
      | apply Keeps.foldl | apply Keeps.foldl_third | apply Keeps.foldl_snd | apply Keeps.foldl_fst
      | fail_if_no_progress (refine Keeps.upd ?_ rfl rfl))
    | split

theorem State.creditTo_keeps {s t : State} (hk : Keeps s t) (k : Nat) : Keeps s (t.creditTo k) := by
  refine hk.trans ?_
  unfold State.creditTo
  try extract_lets
  repeat' first
    | (with_reducible first
      | extract_lets | intro _ | exact Keeps.refl _ | assumption | apply State.fput_keeps | apply Keeps.ite
      | apply Keeps.foldl)

theorem State.sendBoundary_keeps {s t : State} (hk : Keeps s t) (best : Nat) : Keeps s (t.sendBoundary best) := by
  refine hk.trans ?_
  unfold State.sendBoundary
  try extract_lets
  repeat' first
    | (with_reducible first
      | extract_lets | intro _ | exact Keeps.refl _ | assumption | apply State.sendFrame_keeps
      | apply State.creditTo_keeps | apply Keeps.ite | apply Keeps.foldl | apply Keeps.foldl_third
      | apply Keeps.foldl_snd | apply Keeps.foldl_fst | fail_if_no_progress (refine Keeps.upd ?_ rfl rfl))
    | split

theorem State.ringBoundary_keeps {s t : State} (hk : Keeps s t)  : Keeps s t.ringBoundary := by
  refine hk.trans ?_
  unfold State.ringBoundary
  try extract_lets
  repeat' first
    | (with_reducible first
      | extract_lets | intro _ | exact Keeps.refl _ | assumption | apply State.sendBoundary_keeps
      | apply State.sendFrame_keeps | apply Keeps.ite | apply Keeps.foldl | apply Keeps.foldl_third
      | apply Keeps.foldl_snd | apply Keeps.foldl_fst | fail_if_no_progress (refine Keeps.upd ?_ rfl rfl))
    | split

theorem State.takeFw_keeps {s t : State} (hk : Keeps s t) (f : RFrame) : Keeps s (t.takeFw f) := by
  refine hk.trans ?_
  unfold State.takeFw
  try extract_lets
  repeat' first
    | (with_reducible first
      | extract_lets | intro _ | exact Keeps.refl _ | assumption | apply State.headCommit_keeps
      | apply State.bgDone_keeps | apply State.sendFrame_keeps | apply State.sendBoundary_keeps
      | apply State.creditTo_keeps | apply Keeps.ite | apply Keeps.foldl
      | fail_if_no_progress (refine Keeps.upd ?_ rfl rfl))
    | split

theorem State.deliver_keeps {s t : State} (hk : Keeps s t) (p : Nat) (f : RFrame) : Keeps s (t.deliver p f) := by
  refine hk.trans ?_
  unfold State.deliver
  try extract_lets
  repeat' first
    | (with_reducible first
      | extract_lets | intro _ | exact Keeps.refl _ | assumption | apply State.raise_keeps
      | apply State.dropMalformed_keeps | apply State.takeData_keeps | apply State.takeOpen_keeps
      | apply State.takeReply_keeps | apply State.ringSignal_keeps | apply State.takeFw_keeps | apply Keeps.ite
      | apply Keeps.foldl | fail_if_no_progress (refine Keeps.upd ?_ rfl rfl))
    | split

theorem State.takeHello_keeps {s t : State} (hk : Keeps s t) (p : Nat) (f : RFrame) : Keeps s (t.takeHello p f) := by
  refine hk.trans ?_
  unfold State.takeHello
  try extract_lets
  with_reducible repeat' first
    | extract_lets | intro _ | exact Keeps.refl _ | assumption | apply State.setPort_keeps
    | apply State.setPortState_keeps | apply State.portRun_keeps | apply Keeps.ite

theorem State.takeFence_keeps {s t : State} (hk : Keeps s t) (f : RFrame) : Keeps s (t.takeFence f) := by
  refine hk.trans ?_
  unfold State.takeFence
  try extract_lets
  with_reducible repeat' first
    | extract_lets | intro _ | exact Keeps.refl _ | assumption | apply State.fsat_keeps
    | apply State.quarantine_keeps | apply Keeps.ite

theorem State.takeFrame_keeps {s t : State} (hk : Keeps s t) (p : Nat) (f : RFrame) : Keeps s (t.takeFrame p f) := by
  refine hk.trans ?_
  unfold State.takeFrame
  try extract_lets
  repeat' first
    | (with_reducible first
      | extract_lets | intro _ | exact Keeps.refl _ | assumption | apply State.dropMalformed_keeps
      | apply State.fsat_keeps | apply State.raise_keeps | apply State.staleFrame_keeps
      | apply State.takeFence_keeps | apply State.takeEnum_keeps | apply State.takeMembership_keeps
      | apply State.takeHello_keeps | apply State.deliver_keeps | apply State.queueFrame_keeps
      | apply Keeps.ite | apply Keeps.foldl | fail_if_no_progress (refine Keeps.upd ?_ rfl rfl))
    | split | dsimp (zetaDelta := true) (zeta := false) only

theorem State.receive_keeps {s t : State} (hk : Keeps s t) (rx : RingRx) : Keeps s (t.receive rx) := by
  refine hk.trans ?_
  unfold State.receive
  try extract_lets
  repeat' first
    | (with_reducible first
      | extract_lets | intro _ | exact Keeps.refl _ | assumption | apply State.setPort_keeps
      | apply State.emit_keeps | apply State.takeFrame_keeps | apply Keeps.ite)

theorem State.rowReceive_keeps {s t : State} (hk : Keeps s t) (rx : RingRx) (kind : Nat) : Keeps s (t.rowReceive rx
    kind) := by
  refine hk.trans ?_
  unfold State.rowReceive
  try extract_lets
  with_reducible repeat' first
    | extract_lets | intro _ | exact Keeps.refl _ | assumption | apply State.receive_keeps | apply Keeps.ite

theorem execFrameData_keeps {s : State} (rx : RingRx) : KeepsO s (execFrameData rx s) := by
  unfold execFrameData
  try extract_lets
  with_reducible repeat' first
    | extract_lets | apply KeepsO.ite | apply KeepsO.next | intro _ | exact Keeps.refl _ | assumption
    | apply State.rowReceive_keeps

theorem execDataLast_keeps {s : State} (rx : RingRx) : KeepsO s (execDataLast rx s) := by
  unfold execDataLast
  try extract_lets
  with_reducible repeat' first
    | extract_lets | apply KeepsO.ite | apply KeepsO.next | intro _ | exact Keeps.refl _ | assumption
    | apply State.rowReceive_keeps

theorem execBurstOpen_keeps {s : State} (rx : RingRx) : KeepsO s (execBurstOpen rx s) := by
  unfold execBurstOpen
  try extract_lets
  with_reducible repeat' first
    | extract_lets | apply KeepsO.ite | apply KeepsO.next | intro _ | exact Keeps.refl _ | assumption
    | apply State.rowReceive_keeps

theorem execBurstReply_keeps {s : State} (rx : RingRx) : KeepsO s (execBurstReply rx s) := by
  unfold execBurstReply
  try extract_lets
  with_reducible repeat' first
    | extract_lets | apply KeepsO.ite | apply KeepsO.next | intro _ | exact Keeps.refl _ | assumption
    | apply State.rowReceive_keeps

theorem execSignalFrame_keeps {s : State} (rx : RingRx) : KeepsO s (execSignalFrame rx s) := by
  unfold execSignalFrame
  try extract_lets
  with_reducible repeat' first
    | extract_lets | apply KeepsO.ite | apply KeepsO.next | intro _ | exact Keeps.refl _ | assumption
    | apply State.rowReceive_keeps

theorem execFence_keeps {s : State} (rx : RingRx) : KeepsO s (execFence rx s) := by
  unfold execFence
  try extract_lets
  with_reducible repeat' first
    | extract_lets | apply KeepsO.ite | apply KeepsO.next | intro _ | exact Keeps.refl _ | assumption
    | apply State.rowReceive_keeps

theorem execLinkHello_keeps {s : State} (rx : RingRx) : KeepsO s (execLinkHello rx s) := by
  unfold execLinkHello
  try extract_lets
  with_reducible repeat' first
    | extract_lets | apply KeepsO.ite | apply KeepsO.next | intro _ | exact Keeps.refl _ | assumption
    | apply State.rowReceive_keeps

theorem execFwMessage_keeps {s : State} (rx : RingRx) : KeepsO s (execFwMessage rx s) := by
  unfold execFwMessage
  try extract_lets
  with_reducible repeat' first
    | extract_lets | apply KeepsO.ite | apply KeepsO.next | intro _ | exact Keeps.refl _ | assumption
    | apply State.rowReceive_keeps

theorem State.phaseReceive_keeps {s t : State} (hk : Keeps s t) (rx : RingRx) (kind hi phase : Nat) : Keeps s
    (t.phaseReceive rx kind hi phase) := by
  refine hk.trans ?_
  unfold State.phaseReceive
  try extract_lets
  with_reducible repeat' first
    | extract_lets | intro _ | exact Keeps.refl _ | assumption | apply State.rowReceive_keeps
    | apply Keeps.ite

theorem execEnumOutbound_keeps {s : State} (rx : RingRx) : KeepsO s (execEnumOutbound rx s) := by
  unfold execEnumOutbound
  try extract_lets
  with_reducible repeat' first
    | extract_lets | apply KeepsO.ite | apply KeepsO.next | intro _ | exact Keeps.refl _ | assumption
    | apply State.phaseReceive_keeps

theorem execEnumReturn_keeps {s : State} (rx : RingRx) : KeepsO s (execEnumReturn rx s) := by
  unfold execEnumReturn
  try extract_lets
  with_reducible repeat' first
    | extract_lets | apply KeepsO.ite | apply KeepsO.next | intro _ | exact Keeps.refl _ | assumption
    | apply State.phaseReceive_keeps

theorem execMembershipQuiesce_keeps {s : State} (rx : RingRx) : KeepsO s (execMembershipQuiesce rx s) := by
  unfold execMembershipQuiesce
  try extract_lets
  with_reducible repeat' first
    | extract_lets | apply KeepsO.ite | apply KeepsO.next | intro _ | exact Keeps.refl _ | assumption
    | apply State.phaseReceive_keeps

theorem execMembershipCommit_keeps {s : State} (rx : RingRx) : KeepsO s (execMembershipCommit rx s) := by
  unfold execMembershipCommit
  try extract_lets
  with_reducible repeat' first
    | extract_lets | apply KeepsO.ite | apply KeepsO.next | intro _ | exact Keeps.refl _ | assumption
    | apply State.phaseReceive_keeps

theorem State.ciReadmit_keeps {s t : State} (hk : Keeps s t)  : Keeps s t.ciReadmit := by
  refine hk.trans ?_
  unfold State.ciReadmit
  try extract_lets
  with_reducible repeat' first
    | extract_lets | intro _ | exact Keeps.refl _ | assumption | apply State.fput_keeps | apply Keeps.ite

theorem execCiReadmit_keeps {s : State}  : KeepsO s (execCiReadmit  s) := by
  unfold execCiReadmit
  try extract_lets
  with_reducible repeat' first
    | extract_lets | apply KeepsO.ite | apply KeepsO.next | intro _ | exact Keeps.refl _ | assumption
    | apply State.ciReadmit_keeps

theorem State.ciCountsClear_keeps {s t : State} (hk : Keeps s t)  : Keeps s t.ciCountsClear := by
  refine hk.trans ?_
  unfold State.ciCountsClear
  try extract_lets
  with_reducible repeat' first
    | extract_lets | intro _ | exact Keeps.refl _ | assumption | apply State.wr_keeps

theorem execCiCountsClear_keeps {s : State}  : KeepsO s (execCiCountsClear  s) := by
  unfold execCiCountsClear
  try extract_lets
  with_reducible repeat' first
    | extract_lets | apply KeepsO.ite | apply KeepsO.next | intro _ | exact Keeps.refl _ | assumption
    | apply State.ciCountsClear_keeps

end Sys2Proof.Machine
end

