-- ==== Sys2Proof/Laws/KeepsFirmware.lean ====
section
/-! SUPPORT. What every step keeps: the operations and commands of the firmware and of video. -/

namespace Sys2Proof.Machine

theorem State.unsealEntry_some (s : State) (host key : List Byte) (slot : Nat) (io : List (List PoolBlock)) (e : List
    Byte) : KeepsSome Prod.fst s (s.unsealEntry host key slot io e) := by
  unfold State.unsealEntry
  refine KeepsSome.ite (KeepsSome.ite (KeepsSome.some (Keeps.refl _)) KeepsSome.none) ?_
  extract_lets
  refine KeepsSome.ite KeepsSome.none ?_
  extract_lets
  split
  · exact KeepsSome.some (Keeps.foldl (Keeps.refl _) fun u x hu => State.blockWrite_keeps hu _ _ _ _)
  · exact KeepsSome.none

theorem State.unsealEntry_keeps {s t : State} (hk : Keeps s t) (host key : List Byte) (slot : Nat) (io : List (List
    PoolBlock)) (e : List Byte) {r : State × List Byte} (he : t.unsealEntry host key slot io e = some r) : Keeps s
    r.1 :=
  hk.trans ((State.unsealEntry_some t host key slot io e).keeps r he)

theorem State.unsealEnvelope_keeps {s t : State} (hk : Keeps s t) (host : List Byte) (addr : Nat) (block : List Byte)
    (io : List (List PoolBlock)) : Keeps s (t.unsealEnvelope host addr block io).state := by
  unfold State.unsealEnvelope
  extract_lets h slot n bad es entries counter fresh src s1
  split
  · exact hk
  · split
    · exact hk
    · split
      · exact hk
      · extract_lets r
        split
        · exact hk
        · have hs : Keeps s s1 := hk.upd rfl rfl
          refine Keeps.foldl_of (fun x : Bool × State × List Byte => x.2.1) hs fun c x hc => ?_
          try dsimp only
          split
          · exact hc
          · split
            · exact State.unsealEntry_keeps hc _ _ _ _ _ ‹_›
            · exact hc

theorem State.sealOutputs_keeps {s t : State} (hk : Keeps s t) (key : List Byte) (slot : Nat) (io : List (List
    PoolBlock)) (entries : List (List Byte)) : Keeps s (t.sealOutputs key slot io entries) := by
  refine hk.trans ?_
  unfold State.sealOutputs
  try extract_lets
  repeat' first
    | (with_reducible first
      | extract_lets | intro _ | exact Keeps.refl _ | assumption | apply State.areaWrite_keeps
      | apply Keeps.ite | apply Keeps.foldl | apply Keeps.foldl_third | apply Keeps.foldl_snd
      | apply Keeps.foldl_fst | fail_if_no_progress (refine Keeps.upd ?_ rfl rfl))
    | split

theorem State.kvPut_keeps {s t : State} (hk : Keeps s t) (x : KvSite) (d : List Byte) : Keeps s (t.kvPut x d) := by
  refine hk.trans ?_
  unfold State.kvPut
  try extract_lets
  repeat' first
    | (with_reducible first
      | extract_lets | intro _ | exact Keeps.refl _ | assumption | apply State.spStoreA_keeps)

theorem State.stagePage_keeps {s t : State} (hk : Keeps s t) (c slot p j : Nat) (q : Seq) : Keeps s (t.stagePage c
    slot p j q) := by
  refine hk.trans ?_
  unfold State.stagePage
  try extract_lets
  repeat' first
    | (with_reducible first
      | extract_lets | intro _ | exact Keeps.refl _ | assumption | apply State.kvPut_keeps | apply Keeps.ite)

theorem State.appendPage_keeps {s t : State} (hk : Keeps s t) (c slot p j i n : Nat) (q : Seq) : Keeps s
    (t.appendPage c slot p j i n q) := by
  refine hk.trans ?_
  unfold State.appendPage
  try extract_lets
  repeat' first
    | (with_reducible first
      | extract_lets | intro _ | exact Keeps.refl _ | assumption | apply State.kvPut_keeps)

theorem State.appendTokens_keeps {s t : State} (hk : Keeps s t) (c slot p n : Nat) (q : Seq) : Keeps s
    (t.appendTokens c slot p n q) := by
  refine hk.trans ?_
  unfold State.appendTokens
  try extract_lets
  repeat' first
    | (with_reducible first
      | extract_lets | intro _ | exact Keeps.refl _ | assumption | apply State.appendPage_keeps
      | apply Keeps.ite | apply Keeps.foldl)

theorem State.kvSlot_keeps {s t : State} (hk : Keeps s t) (c bucket slot : Nat) (h : Option (Nat × Nat)) : Keeps s
    (t.kvSlot c bucket slot h) := by
  refine hk.trans ?_
  unfold State.kvSlot
  try extract_lets
  repeat' first
    | (with_reducible first
      | extract_lets | intro _ | exact Keeps.refl _ | assumption | apply State.kvPut_keeps
      | apply State.stagePage_keeps | apply State.appendTokens_keeps | apply Keeps.ite | apply Keeps.foldl
      | apply Keeps.foldl_third | apply Keeps.foldl_snd | apply Keeps.foldl_fst
      | fail_if_no_progress (refine Keeps.upd ?_ rfl rfl))
    | split

theorem State.kvKernel_keeps {s t : State} (hk : Keeps s t) (c bucket capacity : Nat) (slots : List (Nat × Nat)) :
    Keeps s (t.kvKernel c bucket capacity slots) := by
  refine hk.trans ?_
  unfold State.kvKernel
  try extract_lets
  repeat' first
    | (with_reducible first
      | extract_lets | intro _ | exact Keeps.refl _ | assumption | apply State.kvSlot_keeps | apply Keeps.ite
      | apply Keeps.foldl)

theorem State.kvRewrite_keeps {s t : State} (hk : Keeps s t) (bucket capacity : Nat) (slots : List (Nat × Nat)) :
    Keeps s (t.kvRewrite bucket capacity slots) := by
  refine hk.trans ?_
  unfold State.kvRewrite
  try extract_lets
  repeat' first
    | (with_reducible first
      | extract_lets | intro _ | exact Keeps.refl _ | assumption | apply State.kvKernel_keeps | apply Keeps.ite
      | apply Keeps.foldl)

theorem State.setJob_keeps {s t : State} (hk : Keeps s t) (j : Job) : Keeps s (t.setJob j) := by
  refine hk.trans ?_
  unfold State.setJob
  try extract_lets
  with_reducible repeat' first
    | extract_lets | intro _ | exact Keeps.refl _ | assumption | apply Keeps.ite | apply Keeps.foldl
    | fail_if_no_progress (refine Keeps.upd ?_ rfl rfl)

theorem State.fillStream_keeps {s t : State} (hk : Keeps s t) (c pos : Nat) : Keeps s (t.fillStream c pos) := by
  refine hk.trans ?_
  unfold State.fillStream
  try extract_lets
  repeat' first
    | (with_reducible first
      | extract_lets | intro _ | exact Keeps.refl _ | assumption | apply State.spStoreA_keeps
      | apply State.fput_keeps | apply State.regionFull_keeps | apply Keeps.ite | apply Keeps.foldl)

theorem State.startFilled_keeps {s t : State} (hk : Keeps s t) (c : Nat) : Keeps s (t.startFilled c) := by
  refine hk.trans ?_
  unfold State.startFilled
  try extract_lets
  repeat' first
    | (with_reducible first
      | extract_lets | intro _ | exact Keeps.refl _ | assumption | apply State.fillStream_keeps
      | apply State.startCore_keeps | apply Keeps.ite | apply Keeps.foldl
      | fail_if_no_progress (refine Keeps.upd ?_ rfl rfl))

theorem State.quietCore_keeps {s t : State} (hk : Keeps s t) (c : Nat) : Keeps s (t.quietCore c) := by
  refine hk.trans ?_
  unfold State.quietCore
  try extract_lets
  repeat' first
    | (with_reducible first
      | extract_lets | intro _ | exact Keeps.refl _ | assumption | apply State.abortCore_keeps
      | apply State.abortDone_keeps | apply Keeps.ite)

theorem State.standAt_keeps {s t : State} (hk : Keeps s t) (mask step : Nat) (pos : Nat → Nat) : Keeps s (t.standAt
    mask step pos) := by
  refine hk.trans ?_
  unfold State.standAt
  try extract_lets
  repeat' first
    | (with_reducible first
      | extract_lets | intro _ | exact Keeps.refl _ | assumption | apply State.wr_keeps
      | apply State.quietCore_keeps | apply State.fput_keeps | apply Keeps.ite | apply Keeps.foldl)

theorem State.goOn_keeps {s t : State} (hk : Keeps s t) (j : Job) (k : Nat) : Keeps s (t.goOn j k) := by
  refine hk.trans ?_
  unfold State.goOn
  try extract_lets
  repeat' first
    | (with_reducible first
      | extract_lets | intro _ | exact Keeps.refl _ | assumption | apply State.fput_keeps
      | apply State.startFilled_keeps | apply Keeps.ite | apply Keeps.foldl | apply Keeps.foldl_third
      | apply Keeps.foldl_snd | apply Keeps.foldl_fst | fail_if_no_progress (refine Keeps.upd ?_ rfl rfl))

theorem State.rewriteGroup_keeps {s t : State} (hk : Keeps s t) (j : Job) (n : List Nat) (r : GroupRun) : Keeps s
    (t.rewriteGroup j n r) := by
  refine hk.trans ?_
  unfold State.rewriteGroup
  try extract_lets
  repeat' first
    | (with_reducible first
      | extract_lets | intro _ | exact Keeps.refl _ | assumption | apply State.kvRewrite_keeps)

theorem State.rewriteFor_keeps {s t : State} (hk : Keeps s t) (j : Job) : Keeps s (t.rewriteFor j) := by
  refine hk.trans ?_
  unfold State.rewriteFor
  try extract_lets
  repeat' first
    | (with_reducible first
      | extract_lets | intro _ | exact Keeps.refl _ | assumption | apply State.rewriteGroup_keeps
      | apply Keeps.ite | apply Keeps.foldl | apply Keeps.foldl_third | apply Keeps.foldl_snd
      | apply Keeps.foldl_fst | fail_if_no_progress (refine Keeps.upd ?_ rfl rfl))
    | split

theorem State.advanceSeqs_keeps {s t : State} (hk : Keeps s t) (j : Job) (n : List Nat) : Keeps s (t.advanceSeqs j n)
    := by
  refine hk.trans ?_
  unfold State.advanceSeqs
  try extract_lets
  repeat' first
    | (with_reducible first
      | extract_lets | intro _ | exact Keeps.refl _ | assumption | apply State.setSeq_keeps | apply Keeps.ite
      | apply Keeps.foldl | apply Keeps.foldl_third | apply Keeps.foldl_snd | apply Keeps.foldl_fst
      | fail_if_no_progress (refine Keeps.upd ?_ rfl rfl))
    | split

theorem State.jumpTo_keeps {s t : State} (hk : Keeps s t) (j : Job) (k : Nat) : Keeps s (t.jumpTo j k).1 := by
  refine hk.trans ?_
  unfold State.jumpTo
  try extract_lets
  repeat' first
    | (with_reducible first
      | extract_lets | intro _ | exact Keeps.refl _ | assumption | apply State.standAt_keeps
      | apply State.setJob_keeps)

theorem State.enterGroup_keeps {s t : State} (hk : Keeps s t) (j : Job) (r : GroupRun) (k : Nat) : Keeps s
    (t.enterGroup j r k).1 := by
  refine hk.trans ?_
  unfold State.enterGroup
  try extract_lets
  repeat' first
    | (with_reducible first
      | extract_lets | intro _ | exact Keeps.refl _ | assumption | apply State.setJob_keeps
      | apply State.jumpTo_keeps | apply State.rewriteFor_keeps | apply Keeps.ite | apply Keeps.foldl
      | fail_if_no_progress (refine Keeps.upd ?_ rfl rfl))
    | split | dsimp (zetaDelta := true) (zeta := false) only

theorem State.nextIteration_keeps {s t : State} (hk : Keeps s t) (j : Job) (k : Nat) : Keeps s (t.nextIteration j
    k).1 := by
  refine hk.trans ?_
  unfold State.nextIteration
  try extract_lets
  repeat' first
    | (with_reducible first
      | extract_lets | intro _ | exact Keeps.refl _ | assumption | apply State.setJob_keeps
      | apply State.jumpTo_keeps | apply State.enterGroup_keeps | apply Keeps.ite | apply Keeps.foldl
      | fail_if_no_progress (refine Keeps.upd ?_ rfl rfl))
    | split | dsimp (zetaDelta := true) (zeta := false) only

theorem State.iterate_keeps {s t : State} (hk : Keeps s t) (j : Job) (k : Nat) : Keeps s (t.iterate j k).1 := by
  refine hk.trans ?_
  unfold State.iterate
  try extract_lets
  repeat' first
    | (with_reducible first
      | extract_lets | intro _ | exact Keeps.refl _ | assumption | apply State.nextIteration_keeps
      | apply State.enterGroup_keeps | apply State.advanceSeqs_keeps | apply Keeps.ite | apply Keeps.foldl
      | fail_if_no_progress (refine Keeps.upd ?_ rfl rfl))
    | split

theorem State.readChip_keeps {s t : State} (hk : Keeps s t) (x : Nat × Nat) : Keeps s (t.readChip x).2 := by
  refine hk.trans ?_
  unfold State.readChip
  try extract_lets
  repeat' first
    | (with_reducible first
      | extract_lets | intro _ | exact Keeps.refl _ | assumption | apply State.aRead_keeps
      | apply State.hbRead_keeps | apply Keeps.ite | apply Keeps.foldl
      | fail_if_no_progress (refine Keeps.upd ?_ rfl rfl))
    | split

theorem State.storeChip_keeps {s t : State} (hk : Keeps s t) (x : Nat × Nat) (d : List Byte) : Keeps s (t.storeChip
    x d) := by
  refine hk.trans ?_
  unfold State.storeChip
  try extract_lets
  repeat' first
    | (with_reducible first
      | extract_lets | intro _ | exact Keeps.refl _ | assumption | apply State.spStoreA_keeps
      | apply State.hbStore_keeps | apply Keeps.ite)

theorem State.saveLive_keeps {s t : State} (hk : Keeps s t) (o : Option Nat) : Keeps s (t.saveLive o).2 := by
  cases o with
  | none => exact hk
  | some i => exact Keeps.foldl_snd hk fun c x hc => State.readChip_keeps hc _

theorem State.regsClear_keeps {s t : State} (hk : Keeps s t) (lo n : Nat) : Keeps s (t.regsClear lo n) := by
  refine hk.trans ?_
  unfold State.regsClear
  try extract_lets
  with_reducible repeat' first
    | extract_lets | intro _ | exact Keeps.refl _ | assumption | refine Keeps.dropEcc ?_ _
    | refine Keeps.dropRegs ?_ _

theorem State.loadRecord_keeps {s t : State} (hk : Keeps s t) (c : Nat) (r : List Byte) : Keeps s (t.loadRecord c r)
    := by
  refine hk.trans ?_
  unfold State.loadRecord
  try extract_lets
  with_reducible repeat' first
    | extract_lets | intro _ | exact Keeps.refl _ | assumption | apply State.wr_keeps | apply Keeps.ite
    | apply Keeps.foldl

theorem State.areaStore_keeps {s t : State} (hk : Keeps s t) (slot : Nat) (bs : List PoolBlock) (off : Nat) (d : List
    Byte) : Keeps s (t.areaStore slot bs off d) := by
  refine hk.trans ?_
  unfold State.areaStore
  try extract_lets
  with_reducible repeat' first
    | extract_lets | intro _ | exact Keeps.refl _ | assumption | apply State.blockWrite_keeps
    | apply Keeps.ite | apply Keeps.foldl

theorem State.countTier_keeps {s t : State} (hk : Keeps s t) (c tier n : Nat) : Keeps s (t.countTier c tier n) := by
  refine hk.trans ?_
  unfold State.countTier
  try extract_lets
  repeat' first
    | (with_reducible first
      | extract_lets | intro _ | exact Keeps.refl _ | assumption | apply State.fput64_keeps)

theorem State.countSave_keeps {s t : State} (hk : Keeps s t) (cores : List Nat) (tier : Nat) (lines : List (Nat ×
    List Byte)) (objects : Nat) : Keeps s (t.countSave cores tier lines objects) := by
  refine hk.trans ?_
  unfold State.countSave
  try extract_lets
  repeat' first
    | (with_reducible first
      | extract_lets | intro _ | exact Keeps.refl _ | assumption | apply State.countTier_keeps
      | apply Keeps.ite | apply Keeps.foldl)

theorem State.switchOut_some (s : State) (j : Job) (k : Nat) (ph : JobPhase) : KeepsSome (fun t : State => t) s
    (s.switchOut j k ph) := by
  unfold State.switchOut
  extract_lets b cores live win
  refine KeepsSome.map (g := Prod.snd) ⟨fun a e => State.allocSides_keeps (Keeps.refl _) _ _ e⟩ fun x hx => ?_
  extract_lets s1 recs objs saved s2 s3 s4 s5 j'
  have h1 : Keeps s s1 := Keeps.foldl hx fun u c hu => State.quietCore_keeps hu _
  have h2 : Keeps s s2 := State.areaStore_keeps (State.saveLive_keeps h1 _) _ _ _ _
  have h3 : Keeps s s3 := Keeps.foldl h2 fun u c hu => State.areaStore_keeps hu _ _ _ _
  exact (State.setJob_keeps (State.countSave_keeps (State.areaStore_keeps h3 _ _ _ _) _ _ _ _) _).upd rfl rfl

theorem State.switchOut_keeps {s t : State} (hk : Keeps s t) (j : Job) (k : Nat) (ph : JobPhase) {r : State} (he :
    t.switchOut j k ph = some r) : Keeps s r :=
  hk.trans ((State.switchOut_some t j k ph).keeps r he)

theorem State.restore_keeps {s t : State} (hk : Keeps s t) (j : Job) : Keeps s (t.restore j) := by
  refine hk.trans ?_
  unfold State.restore
  try extract_lets
  repeat' first
    | (with_reducible first
      | extract_lets | intro _ | exact Keeps.refl _ | assumption | apply State.storeChip_keeps
      | apply State.setObject_keeps | apply State.countSave_keeps | apply State.freeBlocks_keeps
      | apply Keeps.ite | apply Keeps.foldl)

theorem State.partyScrub_keeps {s t : State} (hk : Keeps s t) (old : Nat) (win : Nat × Nat) : Keeps s (t.partyScrub
    old win) := by
  refine hk.trans ?_
  unfold State.partyScrub
  try extract_lets
  with_reducible repeat' first
    | extract_lets | intro _ | exact Keeps.refl _ | assumption | apply State.spScrub_keeps
    | apply State.spScrubbed_keeps | apply State.seedClear_keeps | apply State.maClear_keeps
    | apply State.maCleared_keeps | apply State.regsClear_keeps | apply State.clearRange_keeps
    | apply State.setGroup_keeps | apply State.augCommit_keeps | refine Keeps.dropEcc ?_ _
    | refine Keeps.dropRegs ?_ _ | refine Keeps.dropSync ?_ _ | refine Keeps.dropMem ?_ _ | apply Keeps.ite
    | apply Keeps.foldl

theorem State.loadImage_keeps {s t : State} (hk : Keeps s t) (mask : Nat) : Keeps s (t.loadImage mask) := by
  refine hk.trans ?_
  unfold State.loadImage
  try extract_lets
  repeat' first
    | (with_reducible first
      | extract_lets | intro _ | exact Keeps.refl _ | assumption | apply State.hbStore_keeps
      | apply State.spStoreA_keeps | apply Keeps.ite | apply Keeps.foldl)

theorem State.mapBlock_keeps {s t : State} (hk : Keeps s t) (c i cls : Nat) (b : PoolBlock) : Keeps s (t.mapBlock c i
    cls b) := by
  refine hk.trans ?_
  unfold State.mapBlock
  try extract_lets
  with_reducible repeat' first
    | extract_lets | intro _ | exact Keeps.refl _ | assumption | apply State.wr_keeps

theorem State.mapJob_keeps {s t : State} (hk : Keeps s t) (j : Job) : Keeps s (t.mapJob j) := by
  refine hk.trans ?_
  unfold State.mapJob
  try extract_lets
  repeat' first
    | (with_reducible first
      | extract_lets | intro _ | exact Keeps.refl _ | assumption | apply State.regsClear_keeps
      | apply State.mapBlock_keeps | apply Keeps.ite | apply Keeps.foldl)

theorem State.loadSeeds_keeps {s t : State} (hk : Keeps s t) (j : Job) : Keeps s (t.loadSeeds j) := by
  refine hk.trans ?_
  unfold State.loadSeeds
  try extract_lets
  repeat' first
    | (with_reducible first
      | extract_lets | intro _ | exact Keeps.refl _ | assumption | apply State.seedWrite_keeps
      | apply State.setGroup_keeps | apply State.augCommit_keeps | apply Keeps.ite | apply Keeps.foldl)

theorem State.initRegs_keeps {s t : State} (hk : Keeps s t) (j : Job) (mask : Nat) : Keeps s (t.initRegs j mask) := by
  refine hk.trans ?_
  unfold State.initRegs
  try extract_lets
  with_reducible repeat' first
    | extract_lets | intro _ | exact Keeps.refl _ | assumption | apply State.regsClear_keeps
    | apply State.writeReg_keeps | apply State.wr_keeps | apply Keeps.ite | apply Keeps.foldl

theorem State.clearArithFlags_keeps {s t : State} (hk : Keeps s t) (mask : Nat) : Keeps s (t.clearArithFlags mask)
    := by
  refine hk.trans ?_
  unfold State.clearArithFlags
  try extract_lets
  repeat' first
    | (with_reducible first
      | extract_lets | intro _ | exact Keeps.refl _ | assumption | apply State.wr_keeps
      | apply State.fput_keeps | apply Keeps.ite | apply Keeps.foldl)

theorem State.toFallback_keeps {s t : State} (hk : Keeps s t) (j : Job) (k : Nat) : Keeps s (t.toFallback j k).1 :=
    by
  refine hk.trans ?_
  unfold State.toFallback
  try extract_lets
  repeat' first
    | (with_reducible first
      | extract_lets | intro _ | exact Keeps.refl _ | assumption | apply State.standAt_keeps
      | apply State.setSeq_keeps | apply State.setJob_keeps | apply State.rewriteFor_keeps | apply Keeps.ite
      | apply Keeps.foldl | apply Keeps.foldl_third | apply Keeps.foldl_snd | apply Keeps.foldl_fst
      | fail_if_no_progress (refine Keeps.upd ?_ rfl rfl))
    | split

theorem State.knowStreams_keeps {s t : State} (hk : Keeps s t) (mask : Nat) (on : Bool) : Keeps s (t.knowStreams
    mask on) := by
  refine hk.trans ?_
  unfold State.knowStreams
  try extract_lets
  repeat' first
    | (with_reducible first
      | extract_lets | intro _ | exact Keeps.refl _ | assumption | apply State.setCore_keeps | apply Keeps.ite
      | apply Keeps.foldl)

theorem State.switchIn_keeps {s t : State} (hk : Keeps s t) (j : Job) (peers : List Nat) :
    Keeps s (t.switchIn j peers) := by
  refine hk.trans ?_
  unfold State.switchIn
  extract_lets mask s1 s2 s3 s4 s5 s6 ring s7 s8 j1 s9 win src s10 y fresh x
  have h1 : Keeps t s1 := by
    dsimp only [s1]
    split
    · exact Keeps.ite (Keeps.refl _) (State.partyScrub_keeps (Keeps.refl _) _ _)
    · exact Keeps.refl _
  have h2 : Keeps t s2 := State.loadImage_keeps h1 _
  have h3 : Keeps t s3 := Keeps.ite (State.restore_keeps h2 _) h2
  have h4 : Keeps t s4 := Keeps.foldl h3 fun u c hu => State.wr_keeps hu _ _
  have h5 : Keeps t s5 := Keeps.ite (Keeps.foldl h4 fun u r hu => State.loadRecord_keeps hu _ _)
    (State.standAt_keeps (State.initRegs_keeps h4 _ _) _ _ _)
  have h6 : Keeps t s6 := State.knowStreams_keeps (State.loadSeeds_keeps (State.mapJob_keeps h5 _) _) _ _
  have h7 : Keeps t s7 := by
    refine Keeps.ite ?_ h6
    split
    · exact State.fput_keeps (State.fput_keeps (State.fput_keeps (State.fput_keeps h6 _ _) _ _) _ _) _ _
    · exact h6
  have h8 : Keeps t s8 := Keeps.ite (State.clearArithFlags_keeps h7 _) h7
  have h10 : Keeps t s10 := (State.setJob_keeps h8 _).upd rfl rfl
  have hy : Keeps t y.1 := by
    dsimp only [y]
    split
    · exact State.rewriteFor_keeps h10 _
    · exact State.iterate_keeps h10 _ _
  have hx : Keeps t x.1 := by
    dsimp only [x]
    split
    · exact State.toFallback_keeps hy _ _
    · exact hy
  exact State.goOn_keeps hx _ _

theorem State.recomputeAll_keeps {s t : State} (hk : Keeps s t) (hs keep : List Nat) : Keeps s (t.recomputeAll hs
    keep).2 := by
  refine hk.trans ?_
  unfold State.recomputeAll
  try extract_lets
  repeat' first
    | (with_reducible first
      | extract_lets | intro _ | exact Keeps.refl _ | assumption | apply State.recompute_keeps
      | apply Keeps.ite | apply Keeps.foldl | apply Keeps.foldl_third | apply Keeps.foldl_snd
      | apply Keeps.foldl_fst | fail_if_no_progress (refine Keeps.upd ?_ rfl rfl))
    | split

theorem State.growAll_keeps {s t : State} (hk : Keeps s t) (n : List (Nat × Nat)) (keep : List Nat) : Keeps s
    (t.growAll n keep).2 := by
  refine hk.trans ?_
  unfold State.growAll
  try extract_lets
  repeat' first
    | (with_reducible first
      | extract_lets | intro _ | exact Keeps.refl _ | assumption | apply State.growSeq_keeps | apply Keeps.ite
      | apply Keeps.foldl | apply Keeps.foldl_third | apply Keeps.foldl_snd | apply Keeps.foldl_fst
      | fail_if_no_progress (refine Keeps.upd ?_ rfl rfl))
    | split

theorem State.takeGeneration_some (s : State) (j : Job) : KeepsSome Prod.fst s (s.takeGeneration j) := by
  unfold State.takeGeneration
  split
  · exact KeepsSome.some (Keeps.refl _)
  · refine KeepsSome.ite (KeepsSome.some (Keeps.refl _)) (KeepsSome.ite (KeepsSome.some (Keeps.refl _)) ?_)
    exact KeepsSome.map (g := Prod.snd) ⟨fun a e => State.allocBlocks_keeps (Keeps.refl _) _ _ e⟩ fun x hx => hx.upd rfl rfl

theorem State.takeGeneration_keeps {s t : State} (hk : Keeps s t) (j : Job) {r : State × Job}
    (he : t.takeGeneration j = some r) : Keeps s r.1 :=
  hk.trans ((State.takeGeneration_some t j).keeps r he)

theorem State.openJob_keeps {s t : State} (hk : Keeps s t) (j : Job) : Keeps s (t.openJob j).2.1 := by
  refine hk.trans ?_
  unfold State.openJob
  try extract_lets
  repeat' first
    | (with_reducible first
      | extract_lets | intro _ | exact Keeps.refl _ | assumption | apply State.takeCopies_keeps
      | apply State.recomputeAll_keeps | apply State.growAll_keeps
      | refine State.takeGeneration_keeps ?_ _ (by assumption) | apply Keeps.ite | apply Keeps.foldl
      | fail_if_no_progress (refine Keeps.upd ?_ rfl rfl))
    | split | dsimp (zetaDelta := true) (zeta := false) only

theorem State.heldDone_keeps {s t : State} (hk : Keeps s t) (r i st : Nat) : Keeps s (t.heldDone r i st) := by
  refine hk.trans ?_
  unfold State.heldDone
  try extract_lets
  repeat' first
    | (with_reducible first
      | extract_lets | intro _ | exact Keeps.refl _ | assumption | apply State.completeTaken_keeps
      | apply Keeps.ite | apply Keeps.foldl | fail_if_no_progress (refine Keeps.upd ?_ rfl rfl))
    | split

theorem State.settleSeqs_keeps {s t : State} (hk : Keeps s t) : Keeps s t.settleSeqs := by
  refine hk.trans ?_
  unfold State.settleSeqs
  try extract_lets
  repeat' first
    | (with_reducible first
      | extract_lets | intro _ | exact Keeps.refl _ | assumption | apply State.closeSeq_keeps
      | apply State.heldDone_keeps | apply Keeps.ite | apply Keeps.foldl | apply Keeps.foldl_third
      | apply Keeps.foldl_snd | apply Keeps.foldl_fst | fail_if_no_progress (refine Keeps.upd ?_ rfl rfl))
    | split

theorem State.settleReleases_keeps {s t : State} (hk : Keeps s t) : Keeps s t.settleReleases := by
  refine hk.trans ?_
  unfold State.settleReleases
  try extract_lets
  repeat' first
    | (with_reducible first
      | extract_lets | intro _ | exact Keeps.refl _ | assumption | apply State.freeBlocks_keeps
      | apply State.heldDone_keeps | apply Keeps.ite | apply Keeps.foldl | apply Keeps.foldl_third
      | apply Keeps.foldl_snd | apply Keeps.foldl_fst | fail_if_no_progress (refine Keeps.upd ?_ rfl rfl))
    | split

theorem State.setAdapt_keeps {s t : State} (hk : Keeps s t) (a : Adapt) : Keeps s (t.setAdapt a) := by
  refine hk.trans ?_
  unfold State.setAdapt
  try extract_lets
  repeat' first
    | (with_reducible first
      | extract_lets | intro _ | exact Keeps.refl _ | assumption | apply Keeps.ite | apply Keeps.foldl
      | fail_if_no_progress (refine Keeps.upd ?_ rfl rfl))

theorem State.importState_some (s : State) (a : Adapt) (gen : Nat) (p : List Byte) : KeepsSome (fun t : State => t) s
    (s.importState a gen p) := by
  unfold State.importState
  extract_lets kept old
  refine KeepsSome.map (g := Prod.snd) ⟨fun a e => State.allocBlocks_keeps (Keeps.refl _) _ _ e⟩ fun x hx => ?_
  extract_lets live s1
  refine State.setAdapt_keeps ?_ _
  exact Keeps.foldl hx fun u b hu => State.blockWrite_keeps hu _ _ _ _

theorem State.importState_keeps {s t : State} (hk : Keeps s t) (a : Adapt) (gen : Nat) (p : List Byte) {r : State}
    (he : t.importState a gen p = some r) : Keeps s r :=
  hk.trans ((State.importState_some t a gen p).keeps r he)

theorem State.importEnds_keeps {s t : State} (hk : Keeps s t) (q : Nat) (x : Taken) {o : Option State}
    (ho : ∀ u, o = some u → Keeps s u) : Keeps s (t.importEnds q x o) := by
  cases o with
  | none => exact State.completeTaken_keeps hk _ _ _
  | some u => exact State.completeTaken_keeps (ho u rfl) _ _ _

theorem State.settleImports_keeps {s t : State} (hk : Keeps s t) : Keeps s t.settleImports := by
  unfold State.settleImports
  extract_lets l
  refine Keeps.foldl (hk.upd rfl rfl) fun u x hu => ?_
  split
  · exact hu
  · split
    · exact State.completeTaken_keeps hu _ _ _
    · exact State.importEnds_keeps hu _ _ fun v e => State.importState_keeps hu _ _ _ e

theorem State.settleNow_keeps {s t : State} (hk : Keeps s t) : Keeps s t.settleNow := by
  refine hk.trans ?_
  unfold State.settleNow
  try extract_lets
  repeat' first
    | (with_reducible first
      | extract_lets | intro _ | exact Keeps.refl _ | assumption | apply State.settleSeqs_keeps
      | apply State.settleReleases_keeps | apply State.settleImports_keeps)

theorem State.settleCloses_keeps {s t : State} (hk : Keeps s t) : Keeps s t.settleCloses := by
  refine hk.trans ?_
  unfold State.settleCloses
  try extract_lets
  repeat' first
    | (with_reducible first
      | extract_lets | intro _ | exact Keeps.refl _ | assumption | apply State.settleNow_keeps
      | apply Keeps.ite)

theorem State.publish_keeps {s t : State} (hk : Keeps s t) (j : Job) : Keeps s (t.publish j) := by
  refine hk.trans ?_
  unfold State.publish
  try extract_lets
  with_reducible repeat' first
    | extract_lets | intro _ | exact Keeps.refl _ | assumption | apply Keeps.ite | apply Keeps.foldl
    | fail_if_no_progress (refine Keeps.upd ?_ rfl rfl)

theorem State.markSlots_keeps {s t : State} (hk : Keeps s t)  : Keeps s t.markSlots := by
  refine hk.trans ?_
  unfold State.markSlots
  try extract_lets
  with_reducible repeat' first
    | extract_lets | intro _ | exact Keeps.refl _ | assumption | apply State.fput_keeps | apply Keeps.ite
    | apply Keeps.foldl

theorem State.endJob_keeps {s t : State} (hk : Keeps s t) (j : Job) (status : Nat) : Keeps s (t.endJob j status) :=
    by
  refine hk.trans ?_
  unfold State.endJob
  try extract_lets
  repeat' first
    | (with_reducible first
      | extract_lets | intro _ | exact Keeps.refl _ | assumption | apply State.advanceSeqs_keeps
      | apply State.sealOutputs_keeps | apply State.publish_keeps | apply State.quietCore_keeps
      | apply State.knowStreams_keeps | apply State.wr_keeps | apply State.fput_keeps
      | apply State.freeBlocks_keeps | apply State.trimKv_keeps | apply State.fput64_keeps
      | apply State.completeTaken_keeps | apply State.settleCloses_keeps | apply State.markSlots_keeps
      | apply Keeps.ite | apply Keeps.foldl | apply Keeps.foldl_third | apply Keeps.foldl_snd
      | apply Keeps.foldl_fst | fail_if_no_progress (refine Keeps.upd ?_ rfl rfl))

theorem State.startFirst_keeps {s t : State} (hk : Keeps s t) (peers : List Nat) (x0 : Nat) :
    Keeps s (t.startFirst peers x0) := by
  induction x0 generalizing t with
  | zero => exact hk
  | succ fuel ih =>
    unfold State.startFirst
    split
    · exact hk
    · rename_i j _
      split
      · exact Keeps.foldl hk fun u c hu => State.fput_keeps hu _ _
      · have ho := State.openJob_keeps hk j
        split
        · rename_i e
          rw [e] at ho
          exact State.switchIn_keeps ho _ _
        · rename_i e
          rw [e] at ho
          exact ih (State.endJob_keeps ho _ _)

theorem State.startNext_keeps {s t : State} (hk : Keeps s t) (peers : List Nat) : Keeps s (t.startNext peers) := by
  refine hk.trans ?_
  unfold State.startNext
  try extract_lets
  repeat' first
    | (with_reducible first
      | extract_lets | intro _ | exact Keeps.refl _ | assumption | apply State.startFirst_keeps
      | apply State.endJob_keeps | apply Keeps.ite | apply Keeps.foldl | apply Keeps.foldl_third
      | apply Keeps.foldl_snd | apply Keeps.foldl_fst | fail_if_no_progress (refine Keeps.upd ?_ rfl rfl))
    | split

theorem State.adaptBlocks_some (s : State) (j : Job) (examples : Nat) : KeepsSome Prod.snd s (s.adaptBlocks j
    examples) := by
  unfold State.adaptBlocks
  split
  · exact KeepsSome.some (Keeps.refl _)
  · extract_lets
    split
    · exact KeepsSome.some (Keeps.refl _)
    · refine KeepsSome.bind ⟨fun a e => State.allocBlocks_keeps (Keeps.refl _) _ _ e⟩ fun p hp => ?_
      refine KeepsSome.bind ⟨fun a e => State.allocBlocks_keeps hp _ _ e⟩ fun q hq => ?_
      exact KeepsSome.map (g := Prod.snd) ⟨fun a e => State.allocBlocks_keeps hq _ _ e⟩ fun r hr => hr.upd rfl rfl

theorem State.adaptBlocks_keeps {s t : State} (hk : Keeps s t) (j : Job) (examples : Nat) {r : List PoolBlock ×
    State} (he : t.adaptBlocks j examples = some r) : Keeps s r.2 :=
  hk.trans ((State.adaptBlocks_some t j examples).keeps r he)

theorem State.copiesBack_keeps {s t : State} (hk : Keeps s t) (host : List Byte) (hs : List Nat) (done : List KvCopy)
    (x0 : Nat) : Keeps s (t.copiesBack host hs done x0).2.1 := by
  induction x0 generalizing t host done with
  | zero => exact hk
  | succ n ih =>
    unfold State.copiesBack
    split
    · exact hk
    · rename_i x e
      obtain ⟨h, _, hx⟩ := List.exists_of_findSome?_eq_some e
      exact ih (State.copyBack_keeps hk _ _ _ hx) _ _

theorem State.prepareKv_keeps {s t : State} (hk : Keeps s t) (j : Job) (x : JobInputs) (host : List Byte) :
    Keeps s (t.prepareKv j x host).2 := by
  unfold State.prepareKv
  extract_lets s1 r g
  have h1 : Keeps s s1 := by
    refine Keeps.foldl hk fun u h hu => ?_
    split
    · exact State.setSeq_keeps hu _
    · exact hu
  have hr : Keeps s r.2 := State.recomputeAll_keeps h1 _ _
  have hg : Keeps s g.2 := by
    dsimp only [g]
    split
    · exact State.growAll_keeps hr _ _
    · exact hr
  split
  · exact hg
  · exact State.copiesBack_keeps hg _ _ _ _

theorem State.tokenizeAll_some (s : State) (host : List Byte) (l : List (Nat × Nat × Nat × Nat)) : KeepsSome Prod.fst
    s (s.tokenizeAll host l) := by
  unfold State.tokenizeAll
  extract_lets
  refine KeepsSome.foldl (f := Prod.fst) (KeepsSome.some (Keeps.refl _)) fun p x hp => KeepsSome.bind hp fun t ht => ?_
  obtain ⟨a, n, out, room⟩ := x
  try dsimp only
  with_reducible refine KeepsSome.ite KeepsSome.none ?_
  extract_lets
  with_reducible apply KeepsSome.some
  with_reducible apply State.areaWrite_keeps
  exact ht

theorem State.tokenizeAll_keeps {s t : State} (hk : Keeps s t) (host : List Byte) (l : List (Nat × Nat × Nat × Nat))
    {r : State × List Byte} (he : t.tokenizeAll host l = some r) : Keeps s r.1 :=
  hk.trans ((State.tokenizeAll_some t host l).keeps r he)

/-- What a preparation leaves keeps all of it. -/
def KeepsP (s : State) : Prep → Prop
  | .ready t _ => Keeps s t
  | .fails t _ _ => Keeps s t
  | .later t _ => Keeps s t

theorem KeepsP.ite {s : State} {c : Prop} [Decidable c] {o p : Prep} (ho : KeepsP s o) (hp : KeepsP s p) :
    KeepsP s (if c then o else p) := by
  split <;> assumption

theorem State.prepareInputs_keeps {s t : State} (hk : Keeps s t) (j : Job) (x : JobInputs) (host block : List Byte)
    (useSeal : Bool) : KeepsP s (t.prepareInputs j x host block useSeal) := by
  unfold State.prepareInputs
  extract_lets env refuse slotOk u
  have hr : ∀ v st, Keeps s v → KeepsP s (refuse v st) := fun v _ hv => State.freeBlocks_keeps hv _
  have hu : Keeps s u.state := State.unsealEnvelope_keeps hk _ _ _ _
  with_reducible refine KeepsP.ite ?_ (KeepsP.ite (hr _ _ hu) ?_)
  · split
    · exact State.tokenizeAll_keeps hk _ _ ‹_›
    · exact hr _ _ hk
  · split
    · exact State.tokenizeAll_keeps hu _ _ ‹_›
    · exact hr _ _ hu

theorem State.prepare_keeps (s : State) (j : Job) (x : JobInputs) : KeepsP s (s.prepare j x) := by
  have fails : ∀ k st, KeepsP s (.fails s k st) := fun _ _ => Keeps.refl _
  unfold State.prepare
  extract_lets blockAddr sealed_ useSeal blk b nIo nH adapt ioA hA ioD hD
  split
  · exact fails _ _
  with_reducible refine KeepsP.ite (fails _ _) (KeepsP.ite (fails _ _) ?_)
  with_reducible refine KeepsP.ite (fails _ _) ?_
  split
  · exact fails _ _
  with_reducible refine KeepsP.ite (fails _ _) (KeepsP.ite (fails _ _) (KeepsP.ite (fails _ _) (KeepsP.ite (fails _ _) ?_)))
  split
  · exact Keeps.refl _
  extract_lets j1
  have h1 := State.prepareKv_keeps (Keeps.refl s) j1 x hD.2
  split
  · rename_i e
    rw [e] at h1
    exact h1
  · rename_i c s1 e
    rw [e] at h1
    split
    · exact h1
    · rename_i st e2
      have h2 : Keeps s st.2 := by
        split at e2
        · cases e2; exact h1
        · exact State.adaptBlocks_keeps h1 _ _ e2
      exact State.prepareInputs_keeps h2 _ _ _ _ _

theorem State.prepare_ready_keeps {s t : State} {j k : Job} {x : JobInputs} (e : s.prepare j x = .ready t k) : Keeps
    s t := by
  have := State.prepare_keeps s j x
  rw [e] at this
  exact this

theorem State.prepare_fails_keeps {s t : State} {j k : Job} {x : JobInputs} {st : Nat} (e : s.prepare j x = .fails t
    k st) : Keeps s t := by
  have := State.prepare_keeps s j x
  rw [e] at this
  exact this

theorem State.prepare_later_keeps {s t : State} {j k : Job} {x : JobInputs} (e : s.prepare j x = .later t k) : Keeps
    s t := by
  have := State.prepare_keeps s j x
  rw [e] at this
  exact this

theorem State.halt_keeps {s t : State} (hk : Keeps s t)  : Keeps s t.halt := by
  refine hk.trans ?_
  unfold State.halt
  try extract_lets
  with_reducible repeat' first
    | extract_lets | intro _ | exact Keeps.refl _ | assumption | apply State.ringBoundary_keeps
    | apply State.fput_keeps | apply Keeps.ite | apply Keeps.foldl

theorem State.preempt_keeps {s t : State} (hk : Keeps s t)  : Keeps s t.preempt := by
  refine hk.trans ?_
  unfold State.preempt
  try extract_lets
  repeat' first
    | (with_reducible first
      | extract_lets | intro _ | exact Keeps.refl _ | assumption | apply State.halt_keeps | apply Keeps.ite
      | apply Keeps.foldl | fail_if_no_progress (refine Keeps.upd ?_ rfl rfl))
    | split

theorem execJobPrepared_keeps {s : State} (q : Fin 16) (index : Nat) (x : JobInputs) :
    KeepsO s (execJobPrepared q index x s) := by
  unfold execJobPrepared
  split
  · exact KeepsO.next (Keeps.refl _)
  · split
    · exact KeepsO.next (State.setJob_keeps (State.prepare_later_keeps ‹_›) _)
    · exact KeepsO.next (State.startNext_keeps (State.endJob_keeps (State.prepare_fails_keeps ‹_›) _ _) _)
    · exact KeepsO.next (State.preempt_keeps (State.startNext_keeps (State.setJob_keeps (State.prepare_ready_keeps ‹_›) _) _))

theorem State.answerQuery_keeps {s t : State} (hk : Keeps s t) (state step : Nat) : Keeps s (t.answerQuery state
    step) := by
  refine hk.trans ?_
  unfold State.answerQuery
  try extract_lets
  repeat' first
    | (with_reducible first
      | extract_lets | intro _ | exact Keeps.refl _ | assumption | apply State.bgDone_keeps)

theorem State.abortBegun_keeps {s t : State} (hk : Keeps s t) (q : Nat) : Keeps s (t.abortBegun q) := by
  refine hk.trans ?_
  unfold State.abortBegun
  try extract_lets
  repeat' first
    | (with_reducible first
      | extract_lets | intro _ | exact Keeps.refl _ | assumption | apply State.completeTaken_keeps
      | apply Keeps.ite | apply Keeps.foldl)

theorem State.settle_keeps {s t : State} (h : Keeps s t) (q : Nat) (x0 : Nat) : Keeps s (t.settle q x0) := by
  induction x0 generalizing t with
  | zero => exact h
  | succ fuel ih =>
    unfold State.settle
    split
    · exact h
    · split
      · exact ih (State.completeTaken_keeps h _ _ _)
      · exact h

theorem State.settleRing_keeps {s t : State} (hk : Keeps s t) (q : Nat) : Keeps s (t.settleRing q) := by
  refine hk.trans ?_
  unfold State.settleRing
  try extract_lets
  repeat' first
    | (with_reducible first
      | extract_lets | intro _ | exact Keeps.refl _ | assumption | apply State.settle_keeps)

theorem State.closeEnds_keeps {s t : State} (hk : Keeps s t) (x : Taken) : Keeps s (t.closeEnds x) := by
  refine hk.trans ?_
  unfold State.closeEnds
  try extract_lets
  repeat' first
    | (with_reducible first
      | extract_lets | intro _ | exact Keeps.refl _ | assumption | apply State.endJob_keeps
      | apply State.abortBegun_keeps | apply State.completeTaken_keeps | apply State.freeBlocks_keeps
      | apply State.settleRing_keeps | apply State.wr_keeps | apply State.fput_keeps
      | apply State.markSlots_keeps | apply Keeps.ite | apply Keeps.foldl | apply Keeps.foldl_third
      | apply Keeps.foldl_snd | apply Keeps.foldl_fst | fail_if_no_progress (refine Keeps.upd ?_ rfl rfl))

theorem State.afterJob_keeps {s t : State} (hk : Keeps s t) (step : Nat) : Keeps s (t.afterJob step) := by
  refine hk.trans ?_
  unfold State.afterJob
  try extract_lets
  repeat' first
    | (with_reducible first
      | extract_lets | intro _ | exact Keeps.refl _ | assumption | apply State.answerQuery_keeps
      | apply State.closeEnds_keeps | apply State.settleRing_keeps | apply Keeps.ite | apply Keeps.foldl
      | fail_if_no_progress (refine Keeps.upd ?_ rfl rfl))
    | split

theorem State.finish_keeps {s t : State} (hk : Keeps s t) (j : Job) (status : Nat) (peers : List Nat) : Keeps s
    (t.finish j status peers) := by
  refine hk.trans ?_
  unfold State.finish
  try extract_lets
  repeat' first
    | (with_reducible first
      | extract_lets | intro _ | exact Keeps.refl _ | assumption | apply State.endJob_keeps
      | apply State.startNext_keeps | apply State.afterJob_keeps)

theorem State.stopOrSwitch_keeps {s t : State} (hk : Keeps s t) (j : Job) (k : Nat) (peers : List Nat) : Keeps s
    (t.stopOrSwitch j k peers) := by
  refine hk.trans ?_
  unfold State.stopOrSwitch
  try extract_lets
  repeat' first
    | (with_reducible first
      | extract_lets | intro _ | exact Keeps.refl _ | assumption | apply State.finish_keeps
      | refine State.switchOut_keeps ?_ _ _ _ (by assumption) | apply State.startNext_keeps
      | apply State.goOn_keeps | apply Keeps.ite | apply Keeps.foldl
      | fail_if_no_progress (refine Keeps.upd ?_ rfl rfl))
    | split

theorem State.tellEntry_keeps {s t : State} (hk : Keeps s t) (k : Nat) : Keeps s (t.tellEntry k) := by
  refine hk.trans ?_
  unfold State.tellEntry
  try extract_lets
  repeat' first
    | (with_reducible first
      | extract_lets | intro _ | exact Keeps.refl _ | assumption | apply State.sendFrame_keeps
      | apply Keeps.ite | apply Keeps.foldl | apply Keeps.foldl_third | apply Keeps.foldl_snd
      | apply Keeps.foldl_fst | fail_if_no_progress (refine Keeps.upd ?_ rfl rfl))
    | split

theorem State.monitorAndSwitch_keeps {s t : State} (hk : Keeps s t) (j : Job) (k : Nat) (peers : List Nat) : Keeps s
    (t.monitorAndSwitch j k peers) := by
  refine hk.trans ?_
  unfold State.monitorAndSwitch
  try extract_lets
  with_reducible repeat' first
    | extract_lets | intro _ | exact Keeps.refl _ | assumption | apply State.tellEntry_keeps
    | apply State.toFallback_keeps | apply State.stopOrSwitch_keeps | apply Keeps.ite

theorem State.atBoundary_keeps {s t : State} (hk : Keeps s t) (j : Job) (k : Nat) (peers : List Nat) : Keeps s
    (t.atBoundary j k peers) := by
  refine hk.trans ?_
  unfold State.atBoundary
  try extract_lets
  repeat' first
    | (with_reducible first
      | extract_lets | intro _ | exact Keeps.refl _ | assumption | apply State.setJob_keeps
      | apply State.settleNow_keeps | apply State.answerQuery_keeps | apply State.finish_keeps
      | apply State.iterate_keeps | apply State.monitorAndSwitch_keeps | apply Keeps.ite | apply Keeps.foldl
      | fail_if_no_progress (refine Keeps.upd ?_ rfl rfl))
    | split

theorem State.overran_keeps {s t : State} (hk : Keeps s t) (l : List (Nat × Nat)) : Keeps s (t.overran l) := by
  refine hk.trans ?_
  unfold State.overran
  try extract_lets
  repeat' first
    | (with_reducible first
      | extract_lets | intro _ | exact Keeps.refl _ | assumption | apply State.event_keeps
      | apply State.setJob_keeps | apply Keeps.ite | apply Keeps.foldl | apply Keeps.foldl_third
      | apply Keeps.foldl_snd | apply Keeps.foldl_fst | fail_if_no_progress (refine Keeps.upd ?_ rfl rfl))
    | split

theorem execJobBoundary_keeps {s : State} (overruns : List (Nat × Nat)) (peers : List Nat) : KeepsO s
    (execJobBoundary overruns peers s) := by
  unfold execJobBoundary
  try extract_lets
  repeat' first
    | (with_reducible first
      | extract_lets | apply KeepsO.ite | apply KeepsO.next | intro _ | exact Keeps.refl _ | assumption
      | apply State.overran_keeps | apply State.finish_keeps | apply State.atBoundary_keeps
      | apply State.startFilled_keeps | apply State.settleNow_keeps | apply State.answerQuery_keeps
      | apply State.stopOrSwitch_keeps | apply Keeps.ite | apply Keeps.foldl | apply Keeps.foldl_third
      | apply Keeps.foldl_snd | apply Keeps.foldl_fst | fail_if_no_progress (refine Keeps.upd ?_ rfl rfl))
    | split

theorem State.command_keeps {s t : State} (hk : Keeps s t) (q op : Nat) {f : Taken → State} (hf : ∀ x, Keeps s (f x))
    :
    Keeps s (t.command q op f) := by
  unfold State.command
  split
  · exact hk
  · exact State.markSlots_keeps (State.settleRing_keeps (hf _) _)

theorem State.begin_keeps {s u : State} (hk : Keeps s u) (q : Nat) (t : Taken) : Keeps s (u.begin_ q t) := by
  refine hk.trans ?_
  unfold State.begin_
  try extract_lets
  with_reducible repeat' first
    | extract_lets | intro _ | exact Keeps.refl _ | assumption | apply State.setPair_keeps

theorem State.openCmd_keeps {s u : State} (hk : Keeps s u) (t : Taken) : Keeps s (u.openCmd t) := by
  refine hk.trans ?_
  unfold State.openCmd
  try extract_lets
  repeat' first
    | (with_reducible first
      | extract_lets | intro _ | exact Keeps.refl _ | assumption | apply State.completeTaken_keeps
      | apply State.areaWrite_keeps | apply State.fput_keeps
      | refine State.allocRun_keeps ?_ _ (by assumption) | apply Keeps.ite | apply Keeps.foldl
      | fail_if_no_progress (refine Keeps.upd ?_ rfl rfl))
    | split

theorem execFwOpen_keeps {s : State}  : KeepsO s (execFwOpen  s) := by
  unfold execFwOpen
  try extract_lets
  with_reducible repeat' first
    | extract_lets | apply KeepsO.ite | apply KeepsO.next | intro _ | exact Keeps.refl _ | assumption
    | apply State.command_keeps | apply State.openCmd_keeps

theorem State.closeCmd_keeps {s t : State} (hk : Keeps s t) (x : Taken) : Keeps s (t.closeCmd x) := by
  refine hk.trans ?_
  unfold State.closeCmd
  try extract_lets
  repeat' first
    | (with_reducible first
      | extract_lets | intro _ | exact Keeps.refl _ | assumption | apply State.fput_keeps
      | apply State.begin_keeps | apply State.closeEnds_keeps | apply State.endJob_keeps
      | apply State.halt_keeps | apply Keeps.ite | apply Keeps.foldl | apply Keeps.foldl_third
      | apply Keeps.foldl_snd | apply Keeps.foldl_fst | fail_if_no_progress (refine Keeps.upd ?_ rfl rfl))
    | split

theorem execFwClose_keeps {s : State}  : KeepsO s (execFwClose  s) := by
  unfold execFwClose
  try extract_lets
  with_reducible repeat' first
    | extract_lets | apply KeepsO.ite | apply KeepsO.next | intro _ | exact Keeps.refl _ | assumption
    | apply State.command_keeps | apply State.closeCmd_keeps

theorem State.loadCmd_keeps {s t : State} (hk : Keeps s t) (host : List Byte) (x : Taken) : Keeps s (t.loadCmd host
    x) := by
  refine hk.trans ?_
  unfold State.loadCmd
  try extract_lets
  repeat' first
    | (with_reducible first
      | extract_lets | intro _ | exact Keeps.refl _ | assumption | apply State.place_keeps
      | apply State.completeTaken_keeps | apply State.begin_keeps | apply Keeps.ite | apply Keeps.foldl
      | fail_if_no_progress (refine Keeps.upd ?_ rfl rfl))

theorem execLoadPackage_keeps {s : State} (host : List Byte) : KeepsO s (execLoadPackage host s) := by
  unfold execLoadPackage
  try extract_lets
  with_reducible repeat' first
    | extract_lets | apply KeepsO.ite | apply KeepsO.next | intro _ | exact Keeps.refl _ | assumption
    | apply State.command_keeps | apply State.loadCmd_keeps

theorem State.loadEnds_keeps {s t : State} (hk : Keeps s t) (st v : Nat) : Keeps s (t.loadEnds st v) := by
  refine hk.trans ?_
  unfold State.loadEnds
  try extract_lets
  with_reducible repeat' first
    | extract_lets | intro _ | exact Keeps.refl _ | assumption | apply State.bgDone_keeps
    | apply State.settleRing_keeps

theorem State.loadPlaced_keeps {s t : State} (hk : Keeps s t) (r : Resident) (n : Nat) {o : Option (List PoolBlock × State)}
    (ho : ∀ x, o = some x → Keeps s x.2) : Keeps s (t.loadPlaced r n o) := by
  cases o with
  | none => exact State.loadEnds_keeps hk _ _
  | some x => exact State.loadEnds_keeps (State.makeResident_keeps (ho x rfl) _) _ _

theorem execPackageLoadComplete_keeps {s : State} : KeepsO s (execPackageLoadComplete s) := by
  unfold execPackageLoadComplete
  split
  · exact KeepsO.next (Keeps.refl _)
  · refine KeepsO.ite (KeepsO.next (Keeps.refl _)) ?_
    extract_lets src s1
    have h1 : Keeps s s1 := (Keeps.refl _).upd rfl rfl
    refine KeepsO.ite (KeepsO.next (State.loadEnds_keeps h1 _ _)) ?_
    extract_lets pos ld total n
    exact KeepsO.next (State.loadPlaced_keeps h1 _ _ fun x e => State.allocBlocks_keeps h1 _ _ e)

theorem execPoolGrant_keeps {s : State}  : KeepsO s (execPoolGrant  s) := by
  unfold execPoolGrant
  try extract_lets
  with_reducible repeat' first
    | extract_lets | apply KeepsO.ite | apply KeepsO.next | intro _ | exact Keeps.refl _ | assumption
    | apply State.command_keeps | apply State.completeTaken_keeps | apply Keeps.ite | apply Keeps.foldl
    | fail_if_no_progress (refine Keeps.upd ?_ rfl rfl)

theorem execPoolReclaim_keeps {s : State}  : KeepsO s (execPoolReclaim  s) := by
  unfold execPoolReclaim
  try extract_lets
  with_reducible repeat' first
    | extract_lets | apply KeepsO.ite | apply KeepsO.next | intro _ | exact Keeps.refl _ | assumption
    | apply State.command_keeps | apply State.completeTaken_keeps | apply State.begin_keeps
    | apply State.reclaimCheck_keeps | apply Keeps.ite | apply Keeps.foldl
    | fail_if_no_progress (refine Keeps.upd ?_ rfl rfl)

theorem State.control_keeps {s t : State} (hk : Keeps s t) (op : Nat) {f : Job → State} (hf : ∀ j, Keeps s (f j)) :
    Keeps s (t.control_ op f) := by
  unfold State.control_
  refine State.command_keeps hk _ _ fun x => ?_
  split
  · exact State.completeTaken_keeps (hf _) _ _ _
  · exact State.completeTaken_keeps hk _ _ _

theorem execJobStop_keeps {s : State}  : KeepsO s (execJobStop  s) := by
  unfold execJobStop
  try extract_lets
  with_reducible repeat' first
    | extract_lets | apply KeepsO.ite | apply KeepsO.next | intro _ | exact Keeps.refl _ | assumption
    | apply State.control_keeps | apply State.setJob_keeps | apply State.halt_keeps | apply State.endJob_keeps
    | apply Keeps.ite

theorem execJobSuspend_keeps {s : State}  : KeepsO s (execJobSuspend  s) := by
  unfold execJobSuspend
  try extract_lets
  with_reducible repeat' first
    | extract_lets | apply KeepsO.ite | apply KeepsO.next | intro _ | exact Keeps.refl _ | assumption
    | apply State.control_keeps | apply State.setJob_keeps | apply State.halt_keeps | apply Keeps.ite

theorem execJobResume_keeps {s : State}  : KeepsO s (execJobResume  s) := by
  unfold execJobResume
  try extract_lets
  with_reducible repeat' first
    | extract_lets | apply KeepsO.ite | apply KeepsO.next | intro _ | exact Keeps.refl _ | assumption
    | apply State.control_keeps | apply State.setJob_keeps | apply State.startNext_keeps
    | apply State.preempt_keeps | apply Keeps.ite

theorem execJobQuery_keeps {s : State} : KeepsO s (execJobQuery s) := by
  unfold execJobQuery
  try extract_lets
  repeat' first
    | (with_reducible first
      | extract_lets | apply KeepsO.ite | apply KeepsO.next | intro _ | exact Keeps.refl _ | assumption
      | apply State.command_keeps | apply State.completeTaken_keeps | apply State.begin_keeps
      | apply State.halt_keeps | apply Keeps.ite | apply Keeps.foldl
      | fail_if_no_progress (refine Keeps.upd ?_ rfl rfl))
    | split

theorem execStreamMargin_keeps {s : State}  : KeepsO s (execStreamMargin  s) := by
  unfold execStreamMargin
  try extract_lets
  with_reducible repeat' first
    | extract_lets | apply KeepsO.ite | apply KeepsO.next | intro _ | exact Keeps.refl _ | assumption
    | apply State.command_keeps | apply State.completeTaken_keeps | apply Keeps.ite | apply Keeps.foldl
    | fail_if_no_progress (refine Keeps.upd ?_ rfl rfl)

theorem execRingEnumerate_keeps {s : State}  : KeepsO s (execRingEnumerate  s) := by
  unfold execRingEnumerate
  try extract_lets
  with_reducible repeat' first
    | extract_lets | apply KeepsO.ite | apply KeepsO.next | intro _ | exact Keeps.refl _ | assumption
    | apply State.command_keeps | apply State.completeTaken_keeps | apply State.begin_keeps
    | apply State.enumStart_keeps | apply Keeps.ite

theorem execRingConfigure_keeps {s : State} (host : List Byte) : KeepsO s (execRingConfigure host s) := by
  unfold execRingConfigure
  try extract_lets
  repeat' first
    | (with_reducible first
      | extract_lets | apply KeepsO.ite | apply KeepsO.next | intro _ | exact Keeps.refl _ | assumption
      | apply State.command_keeps | apply State.completeTaken_keeps | apply State.begin_keeps
      | apply State.headConfigure_keeps | apply Keeps.ite)

theorem execRingReadmit_keeps {s : State}  : KeepsO s (execRingReadmit  s) := by
  unfold execRingReadmit
  try extract_lets
  with_reducible repeat' first
    | extract_lets | apply KeepsO.ite | apply KeepsO.next | intro _ | exact Keeps.refl _ | assumption
    | apply State.command_keeps | apply State.ciReadmit_keeps | apply State.completeTaken_keeps

theorem execTimeSample_keeps {s : State}  : KeepsO s (execTimeSample  s) := by
  unfold execTimeSample
  try extract_lets
  with_reducible repeat' first
    | extract_lets | apply KeepsO.ite | apply KeepsO.next | intro _ | exact Keeps.refl _ | assumption
    | apply State.command_keeps | apply State.completeTaken_keeps | apply State.draw_keeps
    | apply State.wr_keeps | apply State.timeStep_keeps | apply Keeps.ite

theorem execSideport_keeps {s : State} (answer : Option (Bool × List Byte)) (host : List Byte) : KeepsO s
    (execSideport answer host s) := by
  unfold execSideport
  try extract_lets
  repeat' first
    | (with_reducible first
      | extract_lets | apply KeepsO.ite | apply KeepsO.next | intro _ | exact Keeps.refl _ | assumption
      | apply State.command_keeps | apply State.completeTaken_keeps | apply State.emit_keeps
      | apply State.begin_keeps | apply State.areaWrite_keeps | apply Keeps.ite | apply Keeps.foldl
      | fail_if_no_progress (refine Keeps.upd ?_ rfl rfl))
    | split

theorem State.sideTimeout_keeps {s t : State} (hk : Keeps s t)  : Keeps s t.sideTimeout := by
  refine hk.trans ?_
  unfold State.sideTimeout
  try extract_lets
  repeat' first
    | (with_reducible first
      | extract_lets | intro _ | exact Keeps.refl _ | assumption | apply State.bgDone_keeps
      | apply State.settleRing_keeps | apply Keeps.ite | apply Keeps.foldl
      | fail_if_no_progress (refine Keeps.upd ?_ rfl rfl))
    | split

theorem execSideportTimeout_keeps {s : State} : KeepsO s (execSideportTimeout s) := by
  unfold execSideportTimeout
  try extract_lets
  repeat' first
    | (with_reducible first
      | extract_lets | apply KeepsO.ite | apply KeepsO.next | intro _ | exact Keeps.refl _ | assumption
      | apply State.sideTimeout_keeps | apply Keeps.ite)

theorem execFwJob_keeps {s : State} (q : Fin 16) : KeepsO s (execFwJob q s) := by
  unfold execFwJob
  try extract_lets
  repeat' first
    | (with_reducible first
      | extract_lets | apply KeepsO.ite | apply KeepsO.next | intro _ | exact Keeps.refl _ | assumption
      | apply State.command_keeps | apply State.begin_keeps | apply State.endJob_keeps | apply Keeps.ite
      | apply Keeps.foldl | fail_if_no_progress (refine Keeps.upd ?_ rfl rfl))

theorem execSeqOpen_keeps {s : State} (q : Fin 16) : KeepsO s (execSeqOpen q s) := by
  unfold execSeqOpen
  try extract_lets
  repeat' first
    | (with_reducible first
      | extract_lets | apply KeepsO.ite | apply KeepsO.next | intro _ | exact Keeps.refl _ | assumption
      | apply State.command_keeps | apply State.completeTaken_keeps
      | refine State.openSeq_keeps ?_ _ _ (by assumption) | apply Keeps.ite | apply Keeps.foldl
      | fail_if_no_progress (refine Keeps.upd ?_ rfl rfl))
    | split

theorem execSeqClose_keeps {s : State} (q : Fin 16) : KeepsO s (execSeqClose q s) := by
  unfold execSeqClose
  try extract_lets
  repeat' first
    | (with_reducible first
      | extract_lets | apply KeepsO.ite | apply KeepsO.next | intro _ | exact Keeps.refl _ | assumption
      | apply State.command_keeps | apply State.completeTaken_keeps | apply State.begin_keeps
      | apply State.setSeq_keeps | apply State.settleCloses_keeps | apply Keeps.ite | apply Keeps.foldl
      | fail_if_no_progress (refine Keeps.upd ?_ rfl rfl))
    | split

theorem execAdaptCreate_keeps {s : State} (q : Fin 16) : KeepsO s (execAdaptCreate q s) := by
  unfold execAdaptCreate
  try extract_lets
  with_reducible repeat' first
    | extract_lets | apply KeepsO.ite | apply KeepsO.next | intro _ | exact Keeps.refl _ | assumption
    | apply State.command_keeps | apply State.completeTaken_keeps | apply Keeps.ite | apply Keeps.foldl
    | fail_if_no_progress (refine Keeps.upd ?_ rfl rfl)

theorem State.drbg_keeps {s t : State} (hk : Keeps s t) (n : Nat) : Keeps s (t.drbg n).2 := by
  refine hk.trans ?_
  unfold State.drbg
  try extract_lets
  with_reducible repeat' first
    | extract_lets | intro _ | exact Keeps.refl _ | assumption | apply Keeps.ite | apply Keeps.foldl
    | fail_if_no_progress (refine Keeps.upd ?_ rfl rfl)

theorem State.exportState_some (s : State) (host : List Byte) (a : Adapt) : KeepsSome Prod.snd s (s.exportState host
    a) := by
  unfold State.exportState
  extract_lets d
  refine KeepsSome.ite (KeepsSome.ite KeepsSome.none ?_) (KeepsSome.some (Keeps.refl _))
  refine KeepsSome.map (g := fun _ => s) ⟨fun _ _ => Keeps.refl _⟩ fun k hk => ?_
  exact State.drbg_keeps (Keeps.refl _) _

theorem State.exportState_keeps {s t : State} (hk : Keeps s t) (host : List Byte) (a : Adapt) {r : List Byte × State}
    (he : t.exportState host a = some r) : Keeps s r.2 :=
  hk.trans ((State.exportState_some t host a).keeps r he)

theorem execAdaptExport_keeps {s : State} (q : Fin 16) (host : List Byte) : KeepsO s (execAdaptExport q host s) := by
  unfold execAdaptExport
  try extract_lets
  repeat' first
    | (with_reducible first
      | extract_lets | apply KeepsO.ite | apply KeepsO.next | intro _ | exact Keeps.refl _ | assumption
      | apply State.command_keeps | apply State.completeTaken_keeps | apply State.areaWrite_keeps
      | refine State.exportState_keeps ?_ _ _ (by assumption) | apply Keeps.ite | apply Keeps.foldl
      | fail_if_no_progress (refine Keeps.upd ?_ rfl rfl))
    | split

theorem execAdaptImport_keeps {s : State} (q : Fin 16) (host : List Byte) : KeepsO s (execAdaptImport q host s) := by
  unfold execAdaptImport
  refine KeepsO.next (State.command_keeps (Keeps.refl _) _ _ fun x => ?_)
  have hc : ∀ d, Keeps s (s.completeTaken q.val x d) := fun d => State.completeTaken_keeps (Keeps.refl _) _ _ _
  extract_lets addr n
  split
  · exact hc _
  · refine Keeps.ite (hc _) ?_
    split
    · exact hc _
    · refine Keeps.ite (State.importEnds_keeps (Keeps.refl _) _ _ fun u e => State.importState_keeps (Keeps.refl _) _ _ _ e) ?_
      exact (State.begin_keeps (Keeps.refl _) _ _).upd rfl rfl

theorem execAdaptRelease_keeps {s : State} (q : Fin 16) : KeepsO s (execAdaptRelease q s) := by
  unfold execAdaptRelease
  try extract_lets
  repeat' first
    | (with_reducible first
      | extract_lets | apply KeepsO.ite | apply KeepsO.next | intro _ | exact Keeps.refl _ | assumption
      | apply State.command_keeps | apply State.completeTaken_keeps | apply State.begin_keeps
      | apply State.setAdapt_keeps | apply State.settleCloses_keeps | apply Keeps.ite | apply Keeps.foldl
      | fail_if_no_progress (refine Keeps.upd ?_ rfl rfl))
    | split

theorem execPcieLinkRetrain_keeps {s : State} (speed : Fin 6) (width : Fin 4) : KeepsO s (execPcieLinkRetrain speed
    width s) := by
  unfold execPcieLinkRetrain
  try extract_lets
  with_reducible repeat' first
    | extract_lets | apply KeepsO.ite | apply KeepsO.next | intro _ | exact Keeps.refl _ | assumption
    | apply State.fput_keeps

theorem State.setVideo_keeps {s t : State} (hk : Keeps s t) (v : Video) : Keeps s (t.setVideo v) := by
  refine hk.trans ?_
  unfold State.setVideo
  try extract_lets
  with_reducible repeat' first
    | extract_lets | intro _ | exact Keeps.refl _ | assumption | apply Keeps.ite | apply Keeps.foldl
    | fail_if_no_progress (refine Keeps.upd ?_ rfl rfl)

theorem State.mpix_keeps {s t : State} (hk : Keeps s t) (l : List Video) : Keeps s (t.mpix l).2 := by
  refine hk.trans ?_
  unfold State.mpix
  try extract_lets
  repeat' first
    | (with_reducible first
      | extract_lets | intro _ | exact Keeps.refl _ | assumption | apply State.draw_keeps | apply Keeps.ite
      | apply Keeps.foldl | apply Keeps.foldl_third | apply Keeps.foldl_snd | apply Keeps.foldl_fst
      | fail_if_no_progress (refine Keeps.upd ?_ rfl rfl))
    | split

theorem State.videoLoad_keeps {s t : State} (hk : Keeps s t)  : Keeps s t.videoLoad := by
  refine hk.trans ?_
  unfold State.videoLoad
  try extract_lets
  with_reducible repeat' first
    | extract_lets | intro _ | exact Keeps.refl _ | assumption | apply State.mpix_keeps
    | apply State.fput_keeps

theorem State.videoBytes_keeps {s t : State} (hk : Keeps s t) (v : Video) : Keeps s (t.videoBytes v).2 := by
  refine hk.trans ?_
  unfold State.videoBytes
  try extract_lets
  repeat' first
    | (with_reducible first
      | extract_lets | intro _ | exact Keeps.refl _ | assumption | apply State.draw_keeps | apply Keeps.ite
      | apply Keeps.foldl | fail_if_no_progress (refine Keeps.upd ?_ rfl rfl))
    | split

theorem State.videoOpened_keeps {s t : State} (hk : Keeps s t) (q : Nat) (x : Taken) (n : Nat) (v : Video)
    {o : Option (List PoolBlock × State)} (ho : ∀ y, o = some y → Keeps s y.2) : Keeps s (t.videoOpened q x n v o) := by
  cases o with
  | none => exact State.completeTaken_keeps hk _ _ _
  | some y => exact State.completeTaken_keeps (State.videoLoad_keeps ((ho y rfl).upd rfl rfl)) _ _ _

theorem execVideoOpen_keeps {s : State} (q : Fin 16) : KeepsO s (execVideoOpen q s) := by
  unfold execVideoOpen
  refine KeepsO.next (State.command_keeps (Keeps.refl _) _ _ fun x => ?_)
  have hc : ∀ d, Keeps s (s.completeTaken q.val x d) := fun d => State.completeTaken_keeps (Keeps.refl _) _ _ _
  extract_lets n v no b
  refine Keeps.ite (hc _) (Keeps.ite (hc _) (Keeps.ite (hc _) ?_))
  exact State.videoOpened_keeps (Keeps.refl _) _ _ _ _ fun y e => State.allocSides_keeps (State.videoBytes_keeps (Keeps.refl _) _) _ _ e

theorem State.endVideo_keeps {s t : State} (hk : Keeps s t) (v : Video) (status : Nat) : Keeps s (t.endVideo v
    status) := by
  refine hk.trans ?_
  unfold State.endVideo
  try extract_lets
  repeat' first
    | (with_reducible first
      | extract_lets | intro _ | exact Keeps.refl _ | assumption | apply State.freeBlocks_keeps
      | apply State.videoLoad_keeps | apply State.completeTaken_keeps | apply Keeps.ite | apply Keeps.foldl
      | fail_if_no_progress (refine Keeps.upd ?_ rfl rfl))
    | split

theorem State.frameStatus_keeps {s t : State} (hk : Keeps s t) (f : VideoFrame) (status : Nat) : Keeps s
    (t.frameStatus f status) := by
  refine hk.trans ?_
  unfold State.frameStatus
  try extract_lets
  repeat' first
    | (with_reducible first
      | extract_lets | intro _ | exact Keeps.refl _ | assumption | apply State.completeTaken_keeps
      | apply Keeps.ite | apply Keeps.foldl | fail_if_no_progress (refine Keeps.upd ?_ rfl rfl))
    | split

theorem execVideoFrame_keeps {s : State} (q : Fin 16) : KeepsO s (execVideoFrame q s) := by
  unfold execVideoFrame
  try extract_lets
  repeat' first
    | (with_reducible first
      | extract_lets | apply KeepsO.ite | apply KeepsO.next | intro _ | exact Keeps.refl _ | assumption
      | apply State.command_keeps | apply State.completeTaken_keeps | apply State.begin_keeps
      | apply State.setVideo_keeps | apply Keeps.ite | apply Keeps.foldl
      | fail_if_no_progress (refine Keeps.upd ?_ rfl rfl))
    | split

theorem execVideoClose_keeps {s : State} (q : Fin 16) : KeepsO s (execVideoClose q s) := by
  unfold execVideoClose
  try extract_lets
  repeat' first
    | (with_reducible first
      | extract_lets | apply KeepsO.ite | apply KeepsO.next | intro _ | exact Keeps.refl _ | assumption
      | apply State.command_keeps | apply State.completeTaken_keeps | apply State.begin_keeps
      | apply State.endVideo_keeps | apply State.setVideo_keeps | apply Keeps.ite | apply Keeps.foldl
      | fail_if_no_progress (refine Keeps.upd ?_ rfl rfl))
    | split

theorem execBoundEncodeFrame_keeps {s : State} (n : Fin 16) : KeepsO s (execBoundEncodeFrame n s) := by
  unfold execBoundEncodeFrame
  try extract_lets
  repeat' first
    | (with_reducible first
      | extract_lets | apply KeepsO.ite | apply KeepsO.next | intro _ | exact Keeps.refl _ | assumption
      | apply State.setVideo_keeps | apply Keeps.ite | apply Keeps.foldl
      | fail_if_no_progress (refine Keeps.upd ?_ rfl rfl))
    | split

theorem State.ringWrite_keeps {s t : State} (hk : Keeps s t) (v : Video) (d : List Byte) : Keeps s (t.ringWrite v d)
    := by
  refine hk.trans ?_
  unfold State.ringWrite
  try extract_lets
  repeat' first
    | (with_reducible first
      | extract_lets | intro _ | exact Keeps.refl _ | assumption | apply State.areaWrite_keeps
      | apply Keeps.ite)

theorem State.frameEnds_keeps {s t : State} (hk : Keeps s t) (v : Video) (f : VideoFrame) : Keeps s (t.frameEnds v
    f) := by
  refine hk.trans ?_
  unfold State.frameEnds
  try extract_lets
  repeat' first
    | (with_reducible first
      | extract_lets | intro _ | exact Keeps.refl _ | assumption | apply State.setVideo_keeps
      | apply State.signalObj_keeps | apply State.frameStatus_keeps | apply State.endVideo_keeps
      | apply Keeps.ite)

theorem State.encodeFrame_keeps {s t : State} (hk : Keeps s t) (v : Video) (f : VideoFrame) (input : List Byte) :
    Keeps s (t.encodeFrame v f input) := by
  refine hk.trans ?_
  unfold State.encodeFrame
  try extract_lets
  repeat' first
    | (with_reducible first
      | extract_lets | intro _ | exact Keeps.refl _ | assumption | apply State.videoBytes_keeps
      | apply State.ringWrite_keeps | apply State.raise_keeps | apply State.frameEnds_keeps | apply Keeps.ite)

theorem State.decodeFrame_keeps {s t : State} (hk : Keeps s t) (v : Video) (f : VideoFrame) (picture : List Byte) (picType qp : Nat)
    (error key : Bool) : Keeps s (t.decodeFrame v f picture picType qp error key) := by
  refine hk.trans ?_
  unfold State.decodeFrame
  try extract_lets
  repeat' first
    | (with_reducible first
      | extract_lets | intro _ | exact Keeps.refl _ | assumption | apply State.areaWrite_keeps
      | apply State.videoBytes_keeps | apply State.ringWrite_keeps | apply State.raise_keeps
      | apply State.frameEnds_keeps | apply Keeps.ite)

theorem execVideoFrameDone_keeps {s : State} (n : Fin 16) (host picture : List Byte) (picType : Fin 2) (qp : Fin 256)
    (error key : Bool) : KeepsO s (execVideoFrameDone n host picture picType qp error key s) := by
  unfold execVideoFrameDone
  try extract_lets
  repeat' first
    | (with_reducible first
      | extract_lets | apply KeepsO.ite | apply KeepsO.next | intro _ | exact Keeps.refl _ | assumption
      | apply State.encodeFrame_keeps | apply State.decodeFrame_keeps | apply Keeps.ite | apply Keeps.foldl
      | fail_if_no_progress (refine Keeps.upd ?_ rfl rfl))
    | split

theorem State.vxHold_keeps {s t : State} (hk : Keeps s t) (image : List Byte) (crcs : List Nat) : Keeps s (t.vxHold
    image crcs) := by
  refine hk.trans ?_
  unfold State.vxHold
  try extract_lets
  repeat' first
    | (with_reducible first
      | extract_lets | intro _ | exact Keeps.refl _ | assumption | apply State.fput_keeps | apply Keeps.ite
      | apply Keeps.foldl | fail_if_no_progress (refine Keeps.upd ?_ rfl rfl))
    | split | dsimp (zetaDelta := true) (zeta := false) only

theorem State.vxRelease_keeps {s t : State} (hk : Keeps s t)  : Keeps s t.vxRelease := by
  refine hk.trans ?_
  unfold State.vxRelease
  try extract_lets
  with_reducible repeat' first
    | extract_lets | intro _ | exact Keeps.refl _ | assumption | apply State.fput_keeps | apply Keeps.ite

theorem State.vxReset_keeps {s t : State} (hk : Keeps s t)  : Keeps s t.vxReset := by
  refine hk.trans ?_
  unfold State.vxReset
  try extract_lets
  with_reducible repeat' first
    | extract_lets | intro _ | exact Keeps.refl _ | assumption | apply State.fput_keeps

theorem execVxSeqHold_keeps {s : State} (image : List Byte) (crcs : List Nat) : KeepsO s (execVxSeqHold image crcs s)
    := by
  unfold execVxSeqHold
  try extract_lets
  with_reducible repeat' first
    | extract_lets | apply KeepsO.ite | apply KeepsO.next | intro _ | exact Keeps.refl _ | assumption
    | apply State.vxHold_keeps

theorem execVxSeqRelease_keeps {s : State}  : KeepsO s (execVxSeqRelease  s) := by
  unfold execVxSeqRelease
  try extract_lets
  with_reducible repeat' first
    | extract_lets | apply KeepsO.ite | apply KeepsO.next | intro _ | exact Keeps.refl _ | assumption
    | apply State.vxRelease_keeps

theorem execVxSeqReset_keeps {s : State}  : KeepsO s (execVxSeqReset  s) := by
  unfold execVxSeqReset
  try extract_lets
  with_reducible repeat' first
    | extract_lets | apply KeepsO.ite | apply KeepsO.next | intro _ | exact Keeps.refl _ | assumption
    | apply State.vxReset_keeps

theorem State.failVideos_keeps {s t : State} (hk : Keeps s t)  : Keeps s t.failVideos := by
  refine hk.trans ?_
  unfold State.failVideos
  try extract_lets
  with_reducible repeat' first
    | extract_lets | intro _ | exact Keeps.refl _ | assumption | apply State.frameStatus_keeps
    | apply State.signalObj_keeps | apply State.endVideo_keeps | apply Keeps.ite | apply Keeps.foldl

theorem execVxHeartbeatTimeout_keeps {s : State} (image : List Byte) (crcs : List Nat) : KeepsO s
    (execVxHeartbeatTimeout image crcs s) := by
  unfold execVxHeartbeatTimeout
  try extract_lets
  repeat' first
    | (with_reducible first
      | extract_lets | apply KeepsO.ite | apply KeepsO.next | intro _ | exact Keeps.refl _ | assumption
      | apply State.vxReset_keeps | apply State.failVideos_keeps | apply State.flag_keeps
      | apply State.report_keeps | apply State.event_keeps | apply State.vxHold_keeps
      | apply State.vxRelease_keeps)

end Sys2Proof.Machine
end

