-- ==== Sys2Proof/Laws/KeepsDevice.lean ====
section
/-! SUPPORT. What every step keeps: the operations and commands of the journal, the keys, the pads, resets, the host and trust. -/

namespace Sys2Proof.Machine

theorem State.jrPut_keeps {s t : State} (h : Keeps s t) (a : Nat) (x0 : List Byte) : Keeps s (t.jrPut a x0) := by
  induction x0 generalizing t a with
  | nil => exact h
  | cons b l ih =>
    unfold State.jrPut
    try extract_lets
    with_reducible repeat' first
      | extract_lets | apply ih | intro _ | exact Keeps.refl _ | assumption | apply Keeps.ite
      | apply Keeps.foldl | fail_if_no_progress (refine Keeps.upd ?_ rfl rfl)

theorem State.jrErase_keeps {s t : State} (hk : Keeps s t) (a n : Nat) : Keeps s (t.jrErase a n) := by
  refine hk.trans ?_
  unfold State.jrErase
  try extract_lets
  with_reducible repeat' first
    | extract_lets | intro _ | exact Keeps.refl _ | assumption | refine Keeps.dropEcc ?_ _
    | refine Keeps.dropRegs ?_ _ | refine Keeps.dropSync ?_ _ | refine Keeps.dropMem ?_ _ | apply Keeps.ite
    | apply Keeps.foldl | fail_if_no_progress (refine Keeps.upd ?_ rfl rfl)

theorem State.jrFill_keeps {s t : State} (hk : Keeps s t)  : Keeps s t.jrFill := by
  refine hk.trans ?_
  unfold State.jrFill
  try extract_lets
  with_reducible repeat' first
    | extract_lets | intro _ | exact Keeps.refl _ | assumption | apply State.fput_keeps
    | apply State.draw_keeps | apply Keeps.ite

theorem State.jrServe_keeps {s t : State} (hk : Keeps s t) : Keeps s t.jrServe := by
  refine hk.trans ?_
  unfold State.jrServe
  try extract_lets
  repeat' first
    | (with_reducible first
      | extract_lets | intro _ | exact Keeps.refl _ | assumption | apply State.jrErase_keeps
      | apply State.jrPut_keeps | apply State.fput_keeps | apply Keeps.ite | apply Keeps.foldl
      | fail_if_no_progress (refine Keeps.upd ?_ rfl rfl))
    | split

theorem State.jrAppend_keeps {s t : State} (hk : Keeps s t) (a : JrAppend) : Keeps s (t.jrAppend a) := by
  refine hk.trans ?_
  unfold State.jrAppend
  try extract_lets
  with_reducible repeat' first
    | extract_lets | intro _ | exact Keeps.refl _ | assumption | apply State.flag_keeps
    | apply State.jrServe_keeps | apply Keeps.ite | apply Keeps.foldl
    | fail_if_no_progress (refine Keeps.upd ?_ rfl rfl)

theorem State.compact_keeps {s t : State} (hk : Keeps s t)  : Keeps s t.compact := by
  refine hk.trans ?_
  unfold State.compact
  try extract_lets
  with_reducible repeat' first
    | extract_lets | intro _ | exact Keeps.refl _ | assumption | apply State.jrErase_keeps
    | apply State.jrPut_keeps | apply State.fput_keeps | apply State.jrFill_keeps | apply Keeps.ite
    | apply Keeps.foldl | apply Keeps.foldl_third | apply Keeps.foldl_snd | apply Keeps.foldl_fst
    | fail_if_no_progress (refine Keeps.upd ?_ rfl rfl)

theorem State.compactCheck_keeps {s t : State} (hk : Keeps s t)  : Keeps s t.compactCheck := by
  refine hk.trans ?_
  unfold State.compactCheck
  try extract_lets
  with_reducible repeat' first
    | extract_lets | intro _ | exact Keeps.refl _ | assumption | apply State.compact_keeps | apply Keeps.ite

theorem State.jrMount_keeps {s t : State} (hk : Keeps s t)  : Keeps s t.jrMount := by
  refine hk.trans ?_
  unfold State.jrMount
  try extract_lets
  repeat' first
    | (with_reducible first
      | extract_lets | intro _ | exact Keeps.refl _ | assumption | apply State.jrErase_keeps
      | apply State.jrPut_keeps | apply State.fput_keeps | apply State.jrFill_keeps
      | apply State.jrServe_keeps | apply State.flag_keeps | apply State.compactCheck_keeps | apply Keeps.ite
      | apply Keeps.foldl | fail_if_no_progress (refine Keeps.upd ?_ rfl rfl))
    | split

theorem State.jrCommit_some (s : State)  : KeepsSome (fun x : JrAppend × Nat × State => x.2.2) s (s.jrCommit ) := by
  unfold State.jrCommit
  split
  · exact KeepsSome.none
  · extract_lets
    apply KeepsSome.some
    dsimp only
    repeat' first
      | (with_reducible first
        | extract_lets | intro _ | exact Keeps.refl _ | assumption | apply State.jrPut_keeps
        | apply State.fput64_keeps | apply State.fput_keeps | apply State.jrFill_keeps
        | apply State.compactCheck_keeps | apply Keeps.ite | apply Keeps.foldl
        | fail_if_no_progress (refine Keeps.upd ?_ rfl rfl))
      | split | dsimp (zetaDelta := true) (zeta := false) only

theorem State.jrCommit_keeps {s t : State} (hk : Keeps s t)  {r : JrAppend × Nat × State} (he : t.jrCommit  = some r)
    : Keeps s r.2.2 :=
  hk.trans ((State.jrCommit_some t ).keeps r he)

theorem State.flushFrom_keeps {s t : State} (h : Keeps s t) (flags upto : Nat) (x0 : Nat) (x1 : Nat) : Keeps s
    (t.flushFrom flags upto x0 x1) := by
  induction x0 generalizing t x1 with
  | zero => exact h
  | succ fuel ih =>
    unfold State.flushFrom
    try extract_lets
    with_reducible repeat' first
      | extract_lets | apply ih | intro _ | exact Keeps.refl _ | assumption | apply State.jrAppend_keeps
      | apply Keeps.ite

theorem State.flushAll_keeps {s t : State} (hk : Keeps s t) (flags : Nat) : Keeps s (t.flushAll flags) := by
  refine hk.trans ?_
  unfold State.flushAll
  try extract_lets
  with_reducible repeat' first
    | extract_lets | intro _ | exact Keeps.refl _ | assumption | apply State.flushFrom_keeps

theorem State.powerFlush_keeps {s t : State} (hk : Keeps s t)  : Keeps s t.powerFlush := by
  refine hk.trans ?_
  unfold State.powerFlush
  try extract_lets
  repeat' first
    | (with_reducible first
      | extract_lets | intro _ | exact Keeps.refl _ | assumption | apply State.fput_keeps
      | apply State.jrAppend_keeps | apply Keeps.ite | apply Keeps.foldl
      | fail_if_no_progress (refine Keeps.upd ?_ rfl rfl))
    | split | dsimp (zetaDelta := true) (zeta := false) only

theorem State.markSealed_keeps {s t : State} (hk : Keeps s t)  : Keeps s t.markSealed := by
  refine hk.trans ?_
  unfold State.markSealed
  try extract_lets
  with_reducible repeat' first
    | extract_lets | intro _ | exact Keeps.refl _ | assumption | apply State.fput_keeps | apply Keeps.ite
    | apply Keeps.foldl

theorem State.installPsk_keeps {s t : State} (hk : Keeps s t) (slot gen : Nat) (key : List Byte) : Keeps s
    (t.installPsk slot gen key) := by
  refine hk.trans ?_
  unfold State.installPsk
  try extract_lets
  with_reducible repeat' first
    | extract_lets | intro _ | exact Keeps.refl _ | assumption | apply State.markSealed_keeps
    | apply Keeps.ite | apply Keeps.foldl | fail_if_no_progress (refine Keeps.upd ?_ rfl rfl)

theorem State.keyReplay_keeps {s t : State} (hk : Keeps s t)  : Keeps s t.keyReplay := by
  refine hk.trans ?_
  unfold State.keyReplay
  try extract_lets
  repeat' first
    | (with_reducible first
      | extract_lets | intro _ | exact Keeps.refl _ | assumption | apply State.markSealed_keeps
      | apply State.installPsk_keeps | apply State.draw_keeps | apply State.fput_keeps | apply Keeps.ite
      | apply Keeps.foldl | apply Keeps.foldl_third | apply Keeps.foldl_snd | apply Keeps.foldl_fst
      | fail_if_no_progress (refine Keeps.upd ?_ rfl rfl))
    | split | dsimp (zetaDelta := true) (zeta := false) only

theorem State.newSlotKeys_keeps {s t : State} (hk : Keeps s t)  : Keeps s t.newSlotKeys := by
  refine hk.trans ?_
  unfold State.newSlotKeys
  try extract_lets
  with_reducible repeat' first
    | extract_lets | intro _ | exact Keeps.refl _ | assumption | apply Keeps.ite | apply Keeps.foldl
    | fail_if_no_progress (refine Keeps.upd ?_ rfl rfl)

theorem State.renewSlotKey_keeps {s t : State} (hk : Keeps s t) (slot : Nat) : Keeps s (t.renewSlotKey slot) := by
  refine hk.trans ?_
  unfold State.renewSlotKey
  try extract_lets
  with_reducible repeat' first
    | extract_lets | intro _ | exact Keeps.refl _ | assumption | apply Keeps.ite | apply Keeps.foldl
    | fail_if_no_progress (refine Keeps.upd ?_ rfl rfl)

theorem State.zeroise_keeps {s t : State} (hk : Keeps s t)  : Keeps s t.zeroise := by
  refine hk.trans ?_
  unfold State.zeroise
  try extract_lets
  with_reducible repeat' first
    | extract_lets | intro _ | exact Keeps.refl _ | assumption | apply State.newSlotKeys_keeps
    | apply State.fput_keeps | apply Keeps.ite | apply Keeps.foldl
    | fail_if_no_progress (refine Keeps.upd ?_ rfl rfl)

theorem State.startUpdate_keeps {s t : State} (h : Keeps s t) (x0 : Nat) : Keeps s (t.startUpdate x0) := by
  induction x0 generalizing t with
  | zero => exact h
  | succ fuel ih =>
    unfold State.startUpdate
    try extract_lets
    repeat' first
      | (with_reducible first
        | extract_lets | apply ih | intro _ | exact Keeps.refl _ | assumption | apply State.emit_keeps
        | apply State.drbg_keeps | apply State.jrAppend_keeps | apply Keeps.ite | apply Keeps.foldl
        | fail_if_no_progress (refine Keeps.upd ?_ rfl rfl))
      | split

theorem State.keyDurable_keeps {s t : State} (hk : Keeps s t) (a : JrAppend) (seq : Nat) : Keeps s (t.keyDurable a
    seq) := by
  refine hk.trans ?_
  unfold State.keyDurable
  try extract_lets
  repeat' first
    | (with_reducible first
      | extract_lets | intro _ | exact Keeps.refl _ | assumption | apply State.jrAppend_keeps
      | apply State.installPsk_keeps | apply State.emit_keeps | apply State.startUpdate_keeps
      | apply Keeps.ite | apply Keeps.foldl | fail_if_no_progress (refine Keeps.upd ?_ rfl rfl))
    | split

theorem State.keyRequest_keeps {s t : State} (hk : Keeps s t) (u : KeyUpdate) : Keeps s (t.keyRequest u) := by
  refine hk.trans ?_
  unfold State.keyRequest
  try extract_lets
  with_reducible repeat' first
    | extract_lets | intro _ | exact Keeps.refl _ | assumption | apply State.startUpdate_keeps
    | apply Keeps.ite | apply Keeps.foldl | fail_if_no_progress (refine Keeps.upd ?_ rfl rfl)

theorem State.driveGpio_keeps {s t : State} (hk : Keeps s t) (n : Nat) : Keeps s (t.driveGpio n) := by
  refine hk.trans ?_
  unfold State.driveGpio
  try extract_lets
  repeat' first
    | (with_reducible first
      | extract_lets | intro _ | exact Keeps.refl _ | assumption | apply State.emit_keeps | apply Keeps.ite
      | apply Keeps.foldl | fail_if_no_progress (refine Keeps.upd ?_ rfl rfl))
    | split

theorem State.pinFlag_keeps {s t : State} (hk : Keeps s t) (f : Fld) (n : Nat) : Keeps s (t.pinFlag f n) := by
  refine hk.trans ?_
  unfold State.pinFlag
  try extract_lets
  with_reducible repeat' first
    | extract_lets | intro _ | exact Keeps.refl _ | assumption | apply State.flag_keeps
    | apply State.emit_keeps

theorem State.pinMuxWrite_keeps {s t : State} (hk : Keeps s t) (n : Nat) (v : Word) : Keeps s (t.pinMuxWrite n v) :=
    by
  refine hk.trans ?_
  unfold State.pinMuxWrite
  try extract_lets
  repeat' first
    | (with_reducible first
      | extract_lets | intro _ | exact Keeps.refl _ | assumption | apply State.pinFlag_keeps
      | apply State.fput_keeps | apply State.sideTimeout_keeps | apply Keeps.ite | apply Keeps.foldl
      | fail_if_no_progress (refine Keeps.upd ?_ rfl rfl))
    | split

theorem execPinMuxWrite_keeps {s : State} (n : Fin 64) (v : Word) : KeepsO s (execPinMuxWrite n v s) := by
  unfold execPinMuxWrite
  try extract_lets
  with_reducible repeat' first
    | extract_lets | apply KeepsO.ite | apply KeepsO.next | intro _ | exact Keeps.refl _ | assumption
    | apply State.pinMuxWrite_keeps

theorem execPadSwitchDone_keeps {s : State} (n : Fin 64) : KeepsO s (execPadSwitchDone n s) := by
  unfold execPadSwitchDone
  try extract_lets
  repeat' first
    | (with_reducible first
      | extract_lets | apply KeepsO.ite | apply KeepsO.next | intro _ | exact Keeps.refl _ | assumption
      | apply State.fput_keeps | apply State.driveGpio_keeps | apply State.emit_keeps | apply Keeps.ite
      | apply Keeps.foldl | fail_if_no_progress (refine Keeps.upd ?_ rfl rfl))
    | split

theorem State.resetMain_keeps {s t : State} (hk : Keeps s t) : Keeps s t.resetMain := by
  refine hk.trans ?_
  unfold State.resetMain
  dsimp only
  refine State.fput_keeps (State.fput_keeps (State.fput_keeps ?_ _ _) _ _) _ _
  exact ⟨rfl, fun c => ⟨c.1, mapWf_drop _ c.2.1 (fun k => !alwaysOn k), rfl, c.2.2.2⟩, fun _ _ h => h⟩

theorem State.clearMemories_keeps {s t : State} (hk : Keeps s t)  : Keeps s t.clearMemories := by
  refine hk.trans ?_
  unfold State.clearMemories
  try extract_lets
  with_reducible repeat' first
    | extract_lets | intro _ | exact Keeps.refl _ | assumption | apply State.clearRange_keeps
    | apply Keeps.ite | apply Keeps.foldl

theorem State.stage1_keeps {s t : State} (hk : Keeps s t)  : Keeps s t.stage1 := by
  refine hk.trans ?_
  unfold State.stage1
  try extract_lets
  with_reducible repeat' first
    | extract_lets | intro _ | exact Keeps.refl _ | assumption | apply State.fput_keeps | apply Keeps.ite
    | apply Keeps.foldl | apply Keeps.foldl_third | apply Keeps.foldl_snd | apply Keeps.foldl_fst
    | fail_if_no_progress (refine Keeps.upd ?_ rfl rfl)

theorem State.mainRelease_keeps {s t : State} (hk : Keeps s t)  : Keeps s t.mainRelease := by
  refine hk.trans ?_
  unfold State.mainRelease
  try extract_lets
  with_reducible repeat' first
    | extract_lets | intro _ | exact Keeps.refl _ | assumption | apply State.clearMemories_keeps
    | apply State.stage1_keeps | apply Keeps.ite | apply Keeps.foldl
    | fail_if_no_progress (refine Keeps.upd ?_ rfl rfl)

theorem State.warmBegin_keeps {s t : State} (hk : Keeps s t) (cause : Nat) : Keeps s (t.warmBegin cause) := by
  refine hk.trans ?_
  unfold State.warmBegin
  try extract_lets
  with_reducible repeat' first
    | extract_lets | intro _ | exact Keeps.refl _ | assumption | apply State.sediment_keeps
    | apply State.srEnter_keeps | apply State.flushAll_keeps | apply State.resetMain_keeps
    | apply State.newSlotKeys_keeps

theorem State.warmReset_keeps {s t : State} (hk : Keeps s t) (cause : Nat) : Keeps s (t.warmReset cause) := by
  refine hk.trans ?_
  unfold State.warmReset
  try extract_lets
  with_reducible repeat' first
    | extract_lets | intro _ | exact Keeps.refl _ | assumption | apply State.warmBegin_keeps
    | apply State.mainRelease_keeps | apply Keeps.ite

theorem State.tripRelease_keeps {s t : State} (hk : Keeps s t)  : Keeps s t.tripRelease := by
  refine hk.trans ?_
  unfold State.tripRelease
  try extract_lets
  with_reducible repeat' first
    | extract_lets | intro _ | exact Keeps.refl _ | assumption | apply State.fput_keeps
    | apply State.sediment_keeps | apply State.flushAll_keeps | apply State.emit_keeps | apply Keeps.ite
    | apply Keeps.foldl | apply Keeps.foldl_third | apply Keeps.foldl_snd | apply Keeps.foldl_fst
    | fail_if_no_progress (refine Keeps.upd ?_ rfl rfl)

theorem execPerstAssert_keeps {s : State} (cool : Bool) : KeepsO s (execPerstAssert cool s) := by
  unfold execPerstAssert
  try extract_lets
  with_reducible repeat' first
    | extract_lets | apply KeepsO.ite | apply KeepsO.next | intro _ | exact Keeps.refl _ | assumption
    | apply State.tripRelease_keeps | apply State.warmBegin_keeps | apply Keeps.ite | apply Keeps.foldl
    | fail_if_no_progress (refine Keeps.upd ?_ rfl rfl)

theorem execPerstDeassert_keeps {s : State}  : KeepsO s (execPerstDeassert  s) := by
  unfold execPerstDeassert
  try extract_lets
  with_reducible repeat' first
    | extract_lets | apply KeepsO.ite | apply KeepsO.next | intro _ | exact Keeps.refl _ | assumption
    | apply State.mainRelease_keeps | apply Keeps.ite | apply Keeps.foldl
    | fail_if_no_progress (refine Keeps.upd ?_ rfl rfl)

theorem execFunctionLevelReset_keeps {s : State}  : KeepsO s (execFunctionLevelReset  s) := by
  unfold execFunctionLevelReset
  try extract_lets
  with_reducible repeat' first
    | extract_lets | apply KeepsO.ite | apply KeepsO.next | intro _ | exact Keeps.refl _ | assumption
    | apply State.warmReset_keeps

theorem execMainPwrgdRise_keeps {s : State} (testen : Bool) : KeepsO s (execMainPwrgdRise testen s) := by
  unfold execMainPwrgdRise
  try extract_lets
  with_reducible repeat' first
    | extract_lets | apply KeepsO.ite | apply KeepsO.next | intro _ | exact Keeps.refl _ | assumption
    | apply State.resetMain_keeps | apply State.newSlotKeys_keeps | apply State.fput_keeps
    | apply State.emit_keeps | apply State.mainRelease_keeps | apply Keeps.ite | apply Keeps.foldl
    | fail_if_no_progress (refine Keeps.upd ?_ rfl rfl)

theorem execMainPwrgdFall_keeps {s : State}  : KeepsO s (execMainPwrgdFall  s) := by
  unfold execMainPwrgdFall
  try extract_lets
  with_reducible repeat' first
    | extract_lets | apply KeepsO.ite | apply KeepsO.next | intro _ | exact Keeps.refl _ | assumption
    | apply State.sediment_keeps | apply State.powerFlush_keeps | apply State.resetMain_keeps
    | apply Keeps.ite | apply Keeps.foldl | fail_if_no_progress (refine Keeps.upd ?_ rfl rfl)

theorem execAonPorstAssert_keeps {s : State} : KeepsO s (execAonPorstAssert s) :=
  KeepsO.next ⟨rfl, fun _ => ⟨rfl, rfl, rfl, rfl⟩, fun _ _ h => h⟩

theorem execAonPorstRelease_keeps {s : State}  : KeepsO s (execAonPorstRelease  s) := by
  unfold execAonPorstRelease
  try extract_lets
  with_reducible repeat' first
    | extract_lets | apply KeepsO.ite | apply KeepsO.next | intro _ | exact Keeps.refl _ | assumption
    | apply State.jrMount_keeps | apply Keeps.ite | apply Keeps.foldl
    | fail_if_no_progress (refine Keeps.upd ?_ rfl rfl)

theorem State.refuseAccess_keeps {s t : State} (hk : Keeps s t) (off : Nat) : Keeps s (t.refuseAccess off) := by
  refine hk.trans ?_
  unfold State.refuseAccess
  try extract_lets
  with_reducible repeat' first
    | extract_lets | intro _ | exact Keeps.refl _ | assumption | apply State.emit_keeps
    | apply State.raise_keeps

theorem State.bootWrite_keeps {s t : State} (hk : Keeps s t) (off : Nat) (d : List Byte) : Keeps s (t.bootWrite off
    d) := by
  refine hk.trans ?_
  unfold State.bootWrite
  try extract_lets
  with_reducible repeat' first
    | extract_lets | intro _ | exact Keeps.refl _ | assumption | apply State.refuseAccess_keeps
    | apply State.fput_keeps | apply Keeps.ite | apply Keeps.foldl
    | fail_if_no_progress (refine Keeps.upd ?_ rfl rfl)

theorem execBootWindowWrite_keeps {s : State} (off : Nat) (data : List Byte) : KeepsO s (execBootWindowWrite off data
    s) := by
  unfold execBootWindowWrite
  try extract_lets
  with_reducible repeat' first
    | extract_lets | apply KeepsO.ite | apply KeepsO.next | intro _ | exact Keeps.refl _ | assumption
    | apply State.bootWrite_keeps | apply Keeps.ite

theorem State.applyPads_keeps {s t : State} (hk : Keeps s t)  : Keeps s t.applyPads := by
  refine hk.trans ?_
  unfold State.applyPads
  try extract_lets
  repeat' first
    | (with_reducible first
      | extract_lets | intro _ | exact Keeps.refl _ | assumption | apply State.pinMuxWrite_keeps
      | apply Keeps.ite | apply Keeps.foldl | apply Keeps.foldl_third | apply Keeps.foldl_snd
      | apply Keeps.foldl_fst | fail_if_no_progress (refine Keeps.upd ?_ rfl rfl))
    | split

theorem State.blowSv_keeps {s t : State} (hk : Keeps s t) (n : Nat) :
    Keeps s { t with sc := { t.sc with svBlown := max t.sc.svBlown n } } :=
  hk.trans ⟨rfl, fun c => c, fun _ _ c => ⟨c.1, c.2.trans (le_max_left t.sc.svBlown n)⟩⟩

theorem State.blowFuses_keeps {s t : State} (hk : Keeps s t) (manifest : List Byte) : Keeps s (t.blowFuses manifest)
    := by
  unfold State.blowFuses
  exact Keeps.ite (State.fput_keeps (State.blowSv_keeps hk _) _ _) hk

theorem State.bootGo_keeps {s t : State} (hk : Keeps s t) : Keeps s t.bootGo := by
  refine hk.trans ?_
  unfold State.bootGo
  try extract_lets
  repeat' first
    | (with_reducible first
      | extract_lets | intro _ | exact Keeps.refl _ | assumption | apply State.fput_keeps
      | apply State.sediment_keeps | apply State.setBytes_keeps | apply State.keyReplay_keeps
      | apply State.applyPads_keeps | apply State.blowFuses_keeps | apply Keeps.ite | apply Keeps.foldl
      | fail_if_no_progress (refine Keeps.upd ?_ rfl rfl))

theorem execBootGo_keeps {s : State}  : KeepsO s (execBootGo  s) := by
  unfold execBootGo
  try extract_lets
  with_reducible repeat' first
    | extract_lets | apply KeepsO.ite | apply KeepsO.next | intro _ | exact Keeps.refl _ | assumption
    | apply State.bootGo_keeps

theorem State.mboxDone_keeps {s t : State} (hk : Keeps s t) (op status : Nat) : Keeps s (t.mboxDone op status) := by
  refine hk.trans ?_
  unfold State.mboxDone
  try extract_lets
  with_reducible repeat' first
    | extract_lets | intro _ | exact Keeps.refl _ | assumption | apply State.fput_keeps

theorem State.mboxKeyed_keeps {s t : State} (hk : Keeps s t) (op : Nat) {f : State} (hf : Keeps s f) :
    Keeps s (t.mboxKeyed op f) := by
  unfold State.mboxKeyed
  exact Keeps.ite (State.mboxDone_keeps hk _ _) hf

theorem State.mboxUnseal_keeps {s t : State} (hk : Keeps s t)  : Keeps s t.mboxUnseal := by
  refine hk.trans ?_
  unfold State.mboxUnseal
  try extract_lets
  repeat' first
    | (with_reducible first
      | extract_lets | intro _ | exact Keeps.refl _ | assumption | apply State.mboxKeyed_keeps
      | apply State.mboxDone_keeps | apply State.unsealEnvelope_keeps | apply Keeps.ite | apply Keeps.foldl
      | fail_if_no_progress (refine Keeps.upd ?_ rfl rfl))
    | split

theorem State.mboxSeal_keeps {s t : State} (hk : Keeps s t)  : Keeps s t.mboxSeal := by
  refine hk.trans ?_
  unfold State.mboxSeal
  try extract_lets
  repeat' first
    | (with_reducible first
      | extract_lets | intro _ | exact Keeps.refl _ | assumption | apply State.mboxKeyed_keeps
      | apply State.mboxDone_keeps | apply State.sealOutputs_keeps | apply Keeps.ite | apply Keeps.foldl
      | fail_if_no_progress (refine Keeps.upd ?_ rfl rfl))
    | split

theorem State.mboxExport_keeps {s t : State} (hk : Keeps s t)  : Keeps s t.mboxExport := by
  refine hk.trans ?_
  unfold State.mboxExport
  try extract_lets
  repeat' first
    | (with_reducible first
      | extract_lets | intro _ | exact Keeps.refl _ | assumption | apply State.mboxKeyed_keeps
      | apply State.mboxDone_keeps | apply State.areaWrite_keeps
      | refine State.exportState_keeps ?_ _ _ (by assumption) | apply Keeps.ite | apply Keeps.foldl
      | fail_if_no_progress (refine Keeps.upd ?_ rfl rfl))
    | split

theorem State.mboxImported_keeps {s t : State} (hk : Keeps s t) {o : Option State} (ho : ∀ u, o = some u → Keeps s u)
    :
    Keeps s (t.mboxImported o) := by
  cases o with
  | none => exact State.mboxDone_keeps hk _ _
  | some u => exact State.mboxDone_keeps (ho u rfl) _ _

theorem State.mboxImport_keeps {s t : State} (hk : Keeps s t) : Keeps s t.mboxImport := by
  unfold State.mboxImport
  refine State.mboxKeyed_keeps hk _ ?_
  have hd : ∀ n, Keeps s (t.mboxDone 4 n) := fun n => State.mboxDone_keeps hk _ _
  split
  · exact hd _
  · refine Keeps.ite (hd _) ?_
    split
    · exact hd _
    · exact State.mboxImported_keeps hk fun u e => State.importState_keeps hk _ _ _ e

theorem State.mboxMeasure_keeps {s t : State} (hk : Keeps s t)  : Keeps s t.mboxMeasure := by
  refine hk.trans ?_
  unfold State.mboxMeasure
  try extract_lets
  with_reducible repeat' first
    | extract_lets | intro _ | exact Keeps.refl _ | assumption | apply State.mboxDone_keeps | apply Keeps.ite
    | apply Keeps.foldl | fail_if_no_progress (refine Keeps.upd ?_ rfl rfl)

theorem State.mboxRelease_keeps {s t : State} (hk : Keeps s t)  : Keeps s t.mboxRelease := by
  refine hk.trans ?_
  unfold State.mboxRelease
  try extract_lets
  with_reducible repeat' first
    | extract_lets | intro _ | exact Keeps.refl _ | assumption | apply State.mboxDone_keeps | apply Keeps.ite
    | apply Keeps.foldl | fail_if_no_progress (refine Keeps.upd ?_ rfl rfl)

theorem State.mbox_keeps {s t : State} (hk : Keeps s t) {f : State} (hf : Keeps s f) : Keeps s (t.mbox f) := Keeps.ite hk hf

theorem execUnsealEnvelope_keeps {s : State} : KeepsO s (execUnsealEnvelope s) :=
  KeepsO.next (State.mbox_keeps (Keeps.refl _) (State.mboxUnseal_keeps (Keeps.refl _)))

theorem execSealOutputs_keeps {s : State} : KeepsO s (execSealOutputs s) :=
  KeepsO.next (State.mbox_keeps (Keeps.refl _) (State.mboxSeal_keeps (Keeps.refl _)))

theorem execExportState_keeps {s : State} : KeepsO s (execExportState s) :=
  KeepsO.next (State.mbox_keeps (Keeps.refl _) (State.mboxExport_keeps (Keeps.refl _)))

theorem execImportState_keeps {s : State} : KeepsO s (execImportState s) :=
  KeepsO.next (State.mbox_keeps (Keeps.refl _) (State.mboxImport_keeps (Keeps.refl _)))

theorem execMeasurePackage_keeps {s : State} : KeepsO s (execMeasurePackage s) :=
  KeepsO.next (State.mbox_keeps (Keeps.refl _) (State.mboxMeasure_keeps (Keeps.refl _)))

theorem execReleaseSlot_keeps {s : State} : KeepsO s (execReleaseSlot s) :=
  KeepsO.next (State.mbox_keeps (Keeps.refl _) (State.mboxRelease_keeps (Keeps.refl _)))

theorem State.mboxRun_keeps {s t : State} (hk : Keeps s t) (op : Nat) : Keeps s (t.mboxRun op) := by
  refine hk.trans ?_
  unfold State.mboxRun
  try extract_lets
  repeat' first
    | (with_reducible first
      | extract_lets | intro _ | exact Keeps.refl _ | assumption | apply State.mboxUnseal_keeps
      | apply State.mboxSeal_keeps | apply State.mboxExport_keeps | apply State.mboxImport_keeps
      | apply State.mboxMeasure_keeps | apply State.mboxRelease_keeps | apply State.mboxDone_keeps
      | apply Keeps.ite | apply Keeps.foldl | fail_if_no_progress (refine Keeps.upd ?_ rfl rfl))
    | split

theorem State.spdmAt_keeps {s t : State} (hk : Keeps s t) (stage : Nat) {f : State} (hf : Keeps s f) :
    Keeps s (t.spdmAt stage f) := by
  unfold State.spdmAt
  exact Keeps.ite hk (Keeps.ite (State.emit_keeps hk _) hf)

theorem State.aliasSign_keeps {s t : State} (hk : Keeps s t) (d : List Byte) : Keeps s (t.aliasSign d).2 := by
  refine hk.trans ?_
  unfold State.aliasSign
  try extract_lets
  with_reducible repeat' first
    | extract_lets | intro _ | exact Keeps.refl _ | assumption | apply Keeps.ite | apply Keeps.foldl
    | fail_if_no_progress (refine Keeps.upd ?_ rfl rfl)

theorem execGetVersion_keeps {s : State}  : KeepsO s (execGetVersion  s) := by
  unfold execGetVersion
  try extract_lets
  with_reducible repeat' first
    | extract_lets | apply KeepsO.ite | apply KeepsO.next | intro _ | exact Keeps.refl _ | assumption
    | apply State.spdmAt_keeps | apply State.emit_keeps | apply Keeps.ite | apply Keeps.foldl
    | fail_if_no_progress (refine Keeps.upd ?_ rfl rfl)

theorem execGetCapabilities_keeps {s : State}  : KeepsO s (execGetCapabilities  s) := by
  unfold execGetCapabilities
  try extract_lets
  with_reducible repeat' first
    | extract_lets | apply KeepsO.ite | apply KeepsO.next | intro _ | exact Keeps.refl _ | assumption
    | apply State.spdmAt_keeps | apply State.emit_keeps | apply Keeps.ite | apply Keeps.foldl
    | fail_if_no_progress (refine Keeps.upd ?_ rfl rfl)

theorem execNegotiateAlgorithms_keeps {s : State} (common : Bool) : KeepsO s (execNegotiateAlgorithms common s) := by
  unfold execNegotiateAlgorithms
  try extract_lets
  with_reducible repeat' first
    | extract_lets | apply KeepsO.ite | apply KeepsO.next | intro _ | exact Keeps.refl _ | assumption
    | apply State.spdmAt_keeps | apply State.emit_keeps | apply Keeps.ite | apply Keeps.foldl
    | fail_if_no_progress (refine Keeps.upd ?_ rfl rfl)

theorem execGetDigests_keeps {s : State}  : KeepsO s (execGetDigests  s) := by
  unfold execGetDigests
  try extract_lets
  with_reducible repeat' first
    | extract_lets | apply KeepsO.ite | apply KeepsO.next | intro _ | exact Keeps.refl _ | assumption
    | apply State.spdmAt_keeps | apply State.emit_keeps

theorem execGetCertificate_keeps {s : State} (off len : Nat) : KeepsO s (execGetCertificate off len s) := by
  unfold execGetCertificate
  try extract_lets
  with_reducible repeat' first
    | extract_lets | apply KeepsO.ite | apply KeepsO.next | intro _ | exact Keeps.refl _ | assumption
    | apply State.spdmAt_keeps | apply State.emit_keeps

theorem execChallenge_keeps {s : State} (nonce : List Byte) : KeepsO s (execChallenge nonce s) := by
  unfold execChallenge
  try extract_lets
  with_reducible repeat' first
    | extract_lets | apply KeepsO.ite | apply KeepsO.next | intro _ | exact Keeps.refl _ | assumption
    | apply State.drbg_keeps | apply State.aliasSign_keeps | apply State.spdmAt_keeps | apply State.emit_keeps

theorem execGetMeasurements_keeps {s : State} (index : Fin 256) (nonce : List Byte) : KeepsO s (execGetMeasurements
    index nonce s) := by
  unfold execGetMeasurements
  try extract_lets
  with_reducible repeat' first
    | extract_lets | apply KeepsO.ite | apply KeepsO.next | intro _ | exact Keeps.refl _ | assumption
    | apply State.drbg_keeps | apply State.aliasSign_keeps | apply State.spdmAt_keeps | apply State.emit_keeps
    | apply Keeps.ite

theorem execKeyExchange_keeps {s : State} (pub : List Byte) : KeepsO s (execKeyExchange pub s) := by
  unfold execKeyExchange
  try extract_lets
  with_reducible repeat' first
    | extract_lets | apply KeepsO.ite | apply KeepsO.next | intro _ | exact Keeps.refl _ | assumption
    | apply State.drbg_keeps | apply State.aliasSign_keeps | apply State.spdmAt_keeps | apply State.emit_keeps
    | apply Keeps.ite | apply Keeps.foldl | fail_if_no_progress (refine Keeps.upd ?_ rfl rfl)

theorem State.dropSession_keeps {s t : State} (hk : Keeps s t) (id : Nat) : Keeps s (t.dropSession id) := by
  refine hk.trans ?_
  unfold State.dropSession
  try extract_lets
  with_reducible repeat' first
    | extract_lets | intro _ | exact Keeps.refl _ | assumption | apply Keeps.ite | apply Keeps.foldl
    | fail_if_no_progress (refine Keeps.upd ?_ rfl rfl)

theorem State.openSession_keeps {s t : State} (hk : Keeps s t) (id : Nat) : Keeps s (t.openSession id) := by
  refine hk.trans ?_
  unfold State.openSession
  try extract_lets
  with_reducible repeat' first
    | extract_lets | intro _ | exact Keeps.refl _ | assumption | apply Keeps.ite | apply Keeps.foldl
    | fail_if_no_progress (refine Keeps.upd ?_ rfl rfl)

theorem execFinish_keeps {s : State} (id : Nat) (good : Bool) : KeepsO s (execFinish id good s) := by
  unfold execFinish
  try extract_lets
  repeat' first
    | (with_reducible first
      | extract_lets | apply KeepsO.ite | apply KeepsO.next | intro _ | exact Keeps.refl _ | assumption
      | apply State.spdmAt_keeps | apply State.emit_keeps | apply State.dropSession_keeps
      | apply State.openSession_keeps | apply Keeps.ite | apply Keeps.foldl
      | fail_if_no_progress (refine Keeps.upd ?_ rfl rfl))
    | split

theorem execHeartbeat_keeps {s : State} (id : Nat) : KeepsO s (execHeartbeat id s) := by
  unfold execHeartbeat
  try extract_lets
  with_reducible repeat' first
    | extract_lets | apply KeepsO.ite | apply KeepsO.next | intro _ | exact Keeps.refl _ | assumption
    | apply State.spdmAt_keeps | apply State.emit_keeps

theorem execEndSession_keeps {s : State} (id : Nat) : KeepsO s (execEndSession id s) := by
  unfold execEndSession
  try extract_lets
  with_reducible repeat' first
    | extract_lets | apply KeepsO.ite | apply KeepsO.next | intro _ | exact Keeps.refl _ | assumption
    | apply State.spdmAt_keeps | apply State.dropSession_keeps | apply State.emit_keeps | apply Keeps.ite

theorem State.spdmRefuse_keeps {s t : State} (hk : Keeps s t)  : Keeps s t.spdmRefuse := by
  refine hk.trans ?_
  unfold State.spdmRefuse
  try extract_lets
  with_reducible repeat' first
    | extract_lets | intro _ | exact Keeps.refl _ | assumption | apply State.emit_keeps

theorem execPartyKeySet_keeps {s : State} (id : Nat) (slot : Nat) (key proof : List Byte) : KeepsO s (execPartyKeySet
    id slot key proof s) := by
  unfold execPartyKeySet
  try extract_lets
  with_reducible repeat' first
    | extract_lets | apply KeepsO.ite | apply KeepsO.next | intro _ | exact Keeps.refl _ | assumption
    | apply State.spdmAt_keeps | apply State.keyRequest_keeps | apply State.spdmRefuse_keeps | apply Keeps.ite

theorem execPartyKeyErase_keeps {s : State} (id : Nat) (slot : Nat) : KeepsO s (execPartyKeyErase id slot s) := by
  unfold execPartyKeyErase
  try extract_lets
  with_reducible repeat' first
    | extract_lets | apply KeepsO.ite | apply KeepsO.next | intro _ | exact Keeps.refl _ | assumption
    | apply State.spdmAt_keeps | apply State.keyRequest_keeps | apply State.spdmRefuse_keeps | apply Keeps.ite

theorem execRingKeySet_keeps {s : State} (id : Nat) (key ringId : List Byte) : KeepsO s (execRingKeySet id key ringId
    s) := by
  unfold execRingKeySet
  try extract_lets
  with_reducible repeat' first
    | extract_lets | apply KeepsO.ite | apply KeepsO.next | intro _ | exact Keeps.refl _ | assumption
    | apply State.spdmAt_keeps | apply State.keyRequest_keeps | apply State.spdmRefuse_keeps | apply Keeps.ite

theorem State.releaseParty_keeps {s t : State} (hk : Keeps s t) (p : Nat) : Keeps s (t.releaseParty p) := by
  refine hk.trans ?_
  unfold State.releaseParty
  try extract_lets
  with_reducible repeat' first
    | extract_lets | intro _ | exact Keeps.refl _ | assumption | apply State.closeSeq_keeps
    | apply State.freeBlocks_keeps | apply Keeps.ite | apply Keeps.foldl | apply Keeps.foldl_third
    | apply Keeps.foldl_snd | apply Keeps.foldl_fst | fail_if_no_progress (refine Keeps.upd ?_ rfl rfl)

theorem execSlotRenew_keeps {s : State} (slot : Nat) : KeepsO s (execSlotRenew slot s) := by
  unfold execSlotRenew
  try extract_lets
  with_reducible repeat' first
    | extract_lets | apply KeepsO.ite | apply KeepsO.next | intro _ | exact Keeps.refl _ | assumption
    | apply State.spdmAt_keeps | apply State.spdmRefuse_keeps | apply State.renewSlotKey_keeps
    | apply State.fput_keeps | apply State.releaseParty_keeps | apply State.emit_keeps | apply Keeps.ite
    | apply Keeps.foldl | fail_if_no_progress (refine Keeps.upd ?_ rfl rfl)

theorem State.blowLife_keeps {s t : State} (hk : Keeps s t) (n : Nat) :
    Keeps s { t with sc := { t.sc with lifeBlown := t.sc.lifeBlown ||| n, udsRetired := true } } := by
  refine hk.trans ⟨rfl, fun c => c, fun l k c => ⟨?_, c.2⟩⟩
  show l &&& (t.sc.lifeBlown ||| n) = l
  rw [Nat.and_or_distrib_left, c.1]
  exact Nat.eq_of_testBit_eq fun i => by simp; tauto

theorem execLifecycleSet_keeps {s : State} (target : BitVec 8) (token : List Byte) : KeepsO s (execLifecycleSet
    target token s) := by
  unfold execLifecycleSet
  refine KeepsO.next (State.spdmAt_keeps (Keeps.refl _) _ ?_)
  extract_lets t
  refine Keeps.ite (State.spdmRefuse_keeps (Keeps.refl _)) ?_
  extract_lets s1
  exact State.warmReset_keeps (State.zeroise_keeps (State.blowLife_keeps
    (State.sediment_keeps (State.emit_keeps (Keeps.refl _) _) _ _ _ _) _)) _

theorem State.newChallenge_keeps {s t : State} (hk : Keeps s t)  : Keeps s t.newChallenge := by
  refine hk.trans ?_
  unfold State.newChallenge
  try extract_lets
  with_reducible repeat' first
    | extract_lets | intro _ | exact Keeps.refl _ | assumption | apply State.drbg_keeps | apply Keeps.ite
    | apply Keeps.foldl | fail_if_no_progress (refine Keeps.upd ?_ rfl rfl)

theorem execDebugChallenge_keeps {s : State}  : KeepsO s (execDebugChallenge  s) := by
  unfold execDebugChallenge
  try extract_lets
  with_reducible repeat' first
    | extract_lets | apply KeepsO.ite | apply KeepsO.next | intro _ | exact Keeps.refl _ | assumption
    | apply State.spdmAt_keeps | apply State.spdmRefuse_keeps | apply State.newChallenge_keeps
    | apply State.emit_keeps | apply Keeps.ite

theorem execDebugResponse_keeps {s : State} (pub sig : List Byte) (scope : BitVec 8) : KeepsO s (execDebugResponse
    pub sig scope s) := by
  unfold execDebugResponse
  try extract_lets
  with_reducible repeat' first
    | extract_lets | apply KeepsO.ite | apply KeepsO.next | intro _ | exact Keeps.refl _ | assumption
    | apply State.spdmAt_keeps | apply State.spdmRefuse_keeps | apply State.newChallenge_keeps
    | apply State.renewSlotKey_keeps | apply State.fput_keeps | apply State.markSealed_keeps
    | apply State.emit_keeps | apply Keeps.ite | apply Keeps.foldl | apply Keeps.foldl_third
    | apply Keeps.foldl_snd | apply Keeps.foldl_fst | fail_if_no_progress (refine Keeps.upd ?_ rfl rfl)

theorem State.answerRead_keeps {s t : State} (hk : Keeps s t) (d : List Byte) (poisoned : Bool) : Keeps s
    (t.answerRead d poisoned) := by
  refine hk.trans ?_
  unfold State.answerRead
  try extract_lets
  with_reducible repeat' first
    | extract_lets | intro _ | exact Keeps.refl _ | assumption | apply State.emit_keeps
    | apply State.raise_keeps | apply Keeps.ite

theorem State.bar2Resize_keeps {s t : State} (hk : Keeps s t) (o : Option (Fin 10)) : Keeps s (t.bar2Resize o) := by
  cases o with
  | none => exact hk
  | some z => exact hk.upd rfl rfl

theorem State.bar2Read_keeps {s t : State} (hk : Keeps s t) (off len : Nat) : Keeps s (t.bar2Read off len) := by
  refine hk.trans ?_
  unfold State.bar2Read
  try extract_lets
  repeat' first
    | (with_reducible first
      | extract_lets | intro _ | exact Keeps.refl _ | assumption | apply State.refuseAccess_keeps
      | apply State.spBytesA_keeps | apply State.answerRead_keeps | apply State.hbBytesP_keeps
      | apply State.lpRead_keeps | apply Keeps.ite | apply Keeps.foldl
      | fail_if_no_progress (refine Keeps.upd ?_ rfl rfl))
    | split | dsimp (zetaDelta := true) (zeta := false) only

theorem execBar2Read_keeps {s : State} (resize : Option (Fin 10)) (off len : Nat) : KeepsO s (execBar2Read resize
    off len s) := by
  unfold execBar2Read
  try extract_lets
  repeat' first
    | (with_reducible first
      | extract_lets | apply KeepsO.ite | apply KeepsO.next | intro _ | exact Keeps.refl _ | assumption
      | apply State.bar2Resize_keeps | apply State.bar2Read_keeps)

theorem State.bar2Write_keeps {s t : State} (hk : Keeps s t) (off : Nat) (data : List Byte) : Keeps s (t.bar2Write
    off data) := by
  refine hk.trans ?_
  unfold State.bar2Write
  try extract_lets
  repeat' first
    | (with_reducible first
      | extract_lets | intro _ | exact Keeps.refl _ | assumption | apply State.bootWrite_keeps
      | apply State.refuseAccess_keeps | apply State.spStoreA_keeps | apply State.hbStore_keeps
      | apply State.lpStore_keeps | apply Keeps.ite | apply Keeps.foldl
      | fail_if_no_progress (refine Keeps.upd ?_ rfl rfl))
    | split | dsimp (zetaDelta := true) (zeta := false) only

theorem execBar2Write_keeps {s : State} (resize : Option (Fin 10)) (off : Nat) (data : List Byte) (poisoned : Bool)
    : KeepsO s (execBar2Write resize off data poisoned s) := by
  unfold execBar2Write
  try extract_lets
  repeat' first
    | (with_reducible first
      | extract_lets | apply KeepsO.ite | apply KeepsO.next | intro _ | exact Keeps.refl _ | assumption
      | apply State.bar2Resize_keeps | apply State.raise_keeps | apply State.bar2Write_keeps | apply Keeps.ite)

theorem State.bar4_keeps {s t : State} (hk : Keeps s t) (off : Nat) {f : State → State} (hf : Keeps s (f t)) :
    Keeps s (t.bar4 off f) := by
  unfold State.bar4
  exact Keeps.ite hf (State.refuseAccess_keeps hk _)

theorem execSignalWindowWrite_keeps {s : State} (obj : Fin 32768) (inc : Word) : KeepsO s (execSignalWindowWrite obj
    inc s) := by
  unfold execSignalWindowWrite
  try extract_lets
  with_reducible repeat' first
    | extract_lets | apply KeepsO.ite | apply KeepsO.next | intro _ | exact Keeps.refl _ | assumption
    | apply State.bar4_keeps | apply State.signalObj_keeps

theorem execSetWindowWrite_keeps {s : State} (obj : Fin 32768) (v : Word) : KeepsO s (execSetWindowWrite obj v s) :=
    by
  unfold execSetWindowWrite
  try extract_lets
  repeat' first
    | (with_reducible first
      | extract_lets | apply KeepsO.ite | apply KeepsO.next | intro _ | exact Keeps.refl _ | assumption
      | apply State.bar4_keeps | apply State.replaceObject_keeps)

theorem State.sqDoorbell_keeps {s t : State} (hk : Keeps s t) (q p : Nat) : Keeps s (t.sqDoorbell q p) := by
  refine hk.trans ?_
  unfold State.sqDoorbell
  try extract_lets
  with_reducible repeat' first
    | extract_lets | intro _ | exact Keeps.refl _ | assumption | apply State.raise_keeps
    | apply State.setPair_keeps | apply State.ringError_keeps | apply Keeps.ite

theorem execSqDoorbell_keeps {s : State} (q : Fin 17) (p : Word) : KeepsO s (execSqDoorbell q p s) := by
  unfold execSqDoorbell
  try extract_lets
  with_reducible repeat' first
    | extract_lets | apply KeepsO.ite | apply KeepsO.next | intro _ | exact Keeps.refl _ | assumption
    | apply State.bar4_keeps | apply State.sqDoorbell_keeps

theorem State.cqDoorbell_keeps {s t : State} (hk : Keeps s t) (q p : Nat) : Keeps s (t.cqDoorbell q p) := by
  refine hk.trans ?_
  unfold State.cqDoorbell
  try extract_lets
  with_reducible repeat' first
    | extract_lets | intro _ | exact Keeps.refl _ | assumption | apply State.setPair_keeps
    | apply State.ringError_keeps | apply Keeps.ite

theorem execCqDoorbell_keeps {s : State} (q : Fin 17) (p : Word) : KeepsO s (execCqDoorbell q p s) := by
  unfold execCqDoorbell
  try extract_lets
  with_reducible repeat' first
    | extract_lets | apply KeepsO.ite | apply KeepsO.next | intro _ | exact Keeps.refl _ | assumption
    | apply State.bar4_keeps | apply State.cqDoorbell_keeps

theorem State.pairConfig_keeps {s t : State} (hk : Keeps s t) (q : Nat) (v : Word) : Keeps s (t.pairConfig q v) := by
  refine hk.trans ?_
  unfold State.pairConfig
  try extract_lets
  with_reducible repeat' first
    | extract_lets | intro _ | exact Keeps.refl _ | assumption | apply State.growthOverflow_keeps
    | apply State.fput_keeps | apply State.markSlots_keeps | apply State.ringError_keeps
    | apply State.setPair_keeps | apply Keeps.ite

theorem execRingPairEnable_keeps {s : State} (q : Fin 17) (v : Word) : KeepsO s (execRingPairEnable q v s) := by
  unfold execRingPairEnable
  try extract_lets
  with_reducible repeat' first
    | extract_lets | apply KeepsO.ite | apply KeepsO.next | intro _ | exact Keeps.refl _ | assumption
    | apply State.bar4_keeps | apply State.pairConfig_keeps

theorem execRingPairDisable_keeps {s : State} (q : Fin 17) (v : Word) : KeepsO s (execRingPairDisable q v s) := by
  unfold execRingPairDisable
  try extract_lets
  with_reducible repeat' first
    | extract_lets | apply KeepsO.ite | apply KeepsO.next | intro _ | exact Keeps.refl _ | assumption
    | apply State.bar4_keeps | apply State.pairConfig_keeps

theorem execDescriptorTake_keeps {s : State} (q : Fin 16) : KeepsO s (execDescriptorTake q s) := by
  unfold execDescriptorTake
  try extract_lets
  repeat' first
    | (with_reducible first
      | extract_lets | apply KeepsO.ite | apply KeepsO.next | intro _ | exact Keeps.refl _ | assumption
      | apply State.setPair_keeps | apply State.fput_keeps | apply State.settleRing_keeps)

theorem execIrqCoalesceTimer_keeps {s : State} (q : Fin 17) : KeepsO s (execIrqCoalesceTimer q s) := by
  unfold execIrqCoalesceTimer
  try extract_lets
  repeat' first
    | (with_reducible first
      | extract_lets | apply KeepsO.ite | apply KeepsO.next | intro _ | exact Keeps.refl _ | assumption
      | apply State.raiseRing_keeps | apply Keeps.ite)

end Sys2Proof.Machine
end

