-- ==== Sys2Proof/Laws/KeepsControl.lean ====
section
/-! SUPPORT. What every step keeps: the operations and commands of clocks, faults, register accesses and time. -/

namespace Sys2Proof.Machine

theorem State.setMeans_keeps {s t : State} (hk : Keeps s t)  : Keeps s t.setMeans := by
  refine hk.trans ?_
  unfold State.setMeans
  try extract_lets
  with_reducible repeat' first
    | extract_lets | intro _ | exact Keeps.refl _ | assumption | apply State.fput_keeps | apply Keeps.ite
    | apply Keeps.foldl

theorem State.stopDomain_keeps {s t : State} (hk : Keeps s t) (k : Nat) : Keeps s (t.stopDomain k) := by
  refine hk.trans ?_
  unfold State.stopDomain
  try extract_lets
  with_reducible repeat' first
    | extract_lets | intro _ | exact Keeps.refl _ | assumption | apply State.fput_keeps | apply Keeps.ite
    | apply Keeps.foldl | fail_if_no_progress (refine Keeps.upd ?_ rfl rfl)

theorem State.loseLock_keeps {s t : State} (hk : Keeps s t) (k : Nat) (noRef : Bool) : Keeps s (t.loseLock k noRef)
    := by
  refine hk.trans ?_
  unfold State.loseLock
  try extract_lets
  with_reducible repeat' first
    | extract_lets | intro _ | exact Keeps.refl _ | assumption | apply State.fput_keeps
    | apply State.fsat_keeps | apply State.raise_keeps | apply State.srEnter_keeps
    | apply State.stopDomain_keeps | apply Keeps.ite | apply Keeps.foldl
    | fail_if_no_progress (refine Keeps.upd ?_ rfl rfl)

theorem execPllLockLoss_keeps {s : State} (k : Fin 9) : KeepsO s (execPllLockLoss k s) := by
  unfold execPllLockLoss
  try extract_lets
  with_reducible repeat' first
    | extract_lets | apply KeepsO.ite | apply KeepsO.next | intro _ | exact Keeps.refl _ | assumption
    | apply State.loseLock_keeps

theorem State.failPll_keeps {s t : State} (hk : Keeps s t) (k : Nat) : Keeps s (t.failPll k) := by
  refine hk.trans ?_
  unfold State.failPll
  try extract_lets
  repeat' first
    | (with_reducible first
      | extract_lets | intro _ | exact Keeps.refl _ | assumption | apply State.fput_keeps
      | apply State.flag_keeps | apply State.sediment_keeps | apply State.limitOnce_keeps
      | apply State.cond_keeps | apply State.failCore_keeps | apply State.mcPoisonHeld_keeps
      | apply State.setMc_keeps | apply State.failVideos_keeps | apply Keeps.ite | apply Keeps.foldl
      | fail_if_no_progress (refine Keeps.upd ?_ rfl rfl))

theorem execRelockAttemptTimeout_keeps {s : State} (k : Fin 9) : KeepsO s (execRelockAttemptTimeout k s) := by
  unfold execRelockAttemptTimeout
  try extract_lets
  with_reducible repeat' first
    | extract_lets | apply KeepsO.ite | apply KeepsO.next | intro _ | exact Keeps.refl _ | assumption
    | apply State.fput_keeps | apply State.failPll_keeps | apply Keeps.ite

theorem State.addFreeze_keeps {s t : State} (hk : Keeps s t) (n cycles : Nat) : Keeps s (t.addFreeze n cycles) := by
  refine hk.trans ?_
  unfold State.addFreeze
  try extract_lets
  with_reducible repeat' first
    | extract_lets | intro _ | exact Keeps.refl _ | assumption | apply State.fput64_keeps | apply Keeps.ite

theorem State.clockBack_keeps {s t : State} (hk : Keeps s t) (k : Nat) : Keeps s (t.clockBack k) := by
  refine hk.trans ?_
  unfold State.clockBack
  try extract_lets
  repeat' first
    | (with_reducible first
      | extract_lets | intro _ | exact Keeps.refl _ | assumption | apply State.mvSettle_keeps
      | apply State.ringRestart_keeps | apply State.deliverHeld_keeps | apply State.pipesRun_keeps
      | apply State.mcPull_keeps | apply Keeps.ite | apply Keeps.foldl)

theorem State.restartDomain_keeps {s t : State} (hk : Keeps s t) (k : Nat) : Keeps s (t.restartDomain k) := by
  refine hk.trans ?_
  unfold State.restartDomain
  try extract_lets
  repeat' first
    | (with_reducible first
      | extract_lets | intro _ | exact Keeps.refl _ | assumption | apply State.fput_keeps
      | apply State.addFreeze_keeps | apply State.srExit_keeps | apply State.clockBack_keeps | apply Keeps.ite)

theorem execPllRelocked_keeps {s : State} (k : Fin 9) : KeepsO s (execPllRelocked k s) := by
  unfold execPllRelocked
  try extract_lets
  with_reducible repeat' first
    | extract_lets | apply KeepsO.ite | apply KeepsO.next | intro _ | exact Keeps.refl _ | assumption
    | apply State.fput_keeps | apply State.restartDomain_keeps | apply State.flag_keeps
    | apply State.report_keeps | apply State.limitOnce_keeps | apply State.setMeans_keeps | apply Keeps.ite
    | apply Keeps.foldl | fail_if_no_progress (refine Keeps.upd ?_ rfl rfl)

theorem execRefLost_keeps {s : State} (count : Nat) : KeepsO s (execRefLost count s) := by
  unfold execRefLost
  try extract_lets
  with_reducible repeat' first
    | extract_lets | apply KeepsO.ite | apply KeepsO.next | intro _ | exact Keeps.refl _ | assumption
    | apply State.flag_keeps | apply State.sediment_keeps | apply State.loseLock_keeps | apply Keeps.ite
    | apply Keeps.foldl

theorem State.domainWrite_keeps {s t : State} (hk : Keeps s t) (d : Nat) (v : Word) : Keeps s (t.domainWrite d v) :=
    by
  refine hk.trans ?_
  unfold State.domainWrite
  try extract_lets
  with_reducible repeat' first
    | extract_lets | intro _ | exact Keeps.refl _ | assumption | apply State.raise_keeps
    | apply State.fput_keeps | apply State.setMeans_keeps | apply Keeps.ite

theorem execDomainSourceWrite_keeps {s : State} (d : Fin 9) (v : Word) : KeepsO s (execDomainSourceWrite d v s) := by
  unfold execDomainSourceWrite
  try extract_lets
  with_reducible repeat' first
    | extract_lets | apply KeepsO.ite | apply KeepsO.next | intro _ | exact Keeps.refl _ | assumption
    | apply State.domainWrite_keeps

theorem State.pllWrite_keeps {s t : State} (hk : Keeps s t) (k : Nat) (v : Word) : Keeps s (t.pllWrite k v) := by
  refine hk.trans ?_
  unfold State.pllWrite
  try extract_lets
  with_reducible repeat' first
    | extract_lets | intro _ | exact Keeps.refl _ | assumption | apply State.raise_keeps
    | apply State.writeReg_keeps | apply State.fput_keeps | apply State.setMeans_keeps | apply Keeps.ite
    | apply Keeps.foldl | fail_if_no_progress (refine Keeps.upd ?_ rfl rfl)

theorem execPllCtrlWrite_keeps {s : State} (k : Fin 9) (v : Word) : KeepsO s (execPllCtrlWrite k v s) := by
  unfold execPllCtrlWrite
  try extract_lets
  with_reducible repeat' first
    | extract_lets | apply KeepsO.ite | apply KeepsO.next | intro _ | exact Keeps.refl _ | assumption
    | apply State.pllWrite_keeps

theorem execPllReady_keeps {s : State} (k : Fin 9) : KeepsO s (execPllReady k s) := by
  unfold execPllReady
  try extract_lets
  with_reducible repeat' first
    | extract_lets | apply KeepsO.ite | apply KeepsO.next | intro _ | exact Keeps.refl _ | assumption
    | apply State.fput_keeps

theorem State.moveThermal_keeps {s t : State} (hk : Keeps s t)  : Keeps s t.moveThermal := by
  refine hk.trans ?_
  unfold State.moveThermal
  try extract_lets
  with_reducible repeat' first
    | extract_lets | intro _ | exact Keeps.refl _ | assumption | apply State.raise_keeps
    | apply State.limitEvent_keeps | apply Keeps.ite | apply Keeps.foldl | apply Keeps.foldl_third
    | apply Keeps.foldl_snd | apply Keeps.foldl_fst | fail_if_no_progress (refine Keeps.upd ?_ rfl rfl)

theorem State.movePower_keeps {s t : State} (hk : Keeps s t)  : Keeps s t.movePower := by
  refine hk.trans ?_
  unfold State.movePower
  try extract_lets
  with_reducible repeat' first
    | extract_lets | intro _ | exact Keeps.refl _ | assumption | apply State.raise_keeps
    | apply State.limitEvent_keeps | apply Keeps.ite | apply Keeps.foldl
    | fail_if_no_progress (refine Keeps.upd ?_ rfl rfl)

theorem State.moveVoltage_keeps {s t : State} (hk : Keeps s t)  : Keeps s t.moveVoltage := by
  refine hk.trans ?_
  unfold State.moveVoltage
  try extract_lets
  with_reducible repeat' first
    | extract_lets | intro _ | exact Keeps.refl _ | assumption | apply State.limitEvent_keeps
    | apply State.raise_keeps | apply Keeps.ite | apply Keeps.foldl | apply Keeps.foldl_third
    | apply Keeps.foldl_snd | apply Keeps.foldl_fst | fail_if_no_progress (refine Keeps.upd ?_ rfl rfl)

theorem State.setTargets_keeps {s t : State} (hk : Keeps s t)  : Keeps s t.setTargets := by
  refine hk.trans ?_
  unfold State.setTargets
  try extract_lets
  with_reducible repeat' first
    | extract_lets | intro _ | exact Keeps.refl _ | assumption | apply State.fput_keeps | apply Keeps.ite
    | apply Keeps.foldl

theorem State.jobLimit_keeps {s t : State} (hk : Keeps s t) (sensor data : Nat) : Keeps s (t.jobLimit sensor data) :=
    by
  refine hk.trans ?_
  unfold State.jobLimit
  try extract_lets
  with_reducible repeat' first
    | extract_lets | intro _ | exact Keeps.refl _ | assumption | apply State.sediment_keeps
    | apply State.cond_keeps | apply Keeps.ite

theorem execGovernorUpdate_keeps {s : State} (temps : List Int) (avgMs avgSec : Nat) : KeepsO s (execGovernorUpdate
    temps avgMs avgSec s) := by
  unfold execGovernorUpdate
  try extract_lets
  repeat' first
    | (with_reducible first
      | extract_lets | apply KeepsO.ite | apply KeepsO.next | intro _ | exact Keeps.refl _ | assumption
      | apply State.fput_keeps | apply State.moveThermal_keeps | apply State.movePower_keeps
      | apply State.moveVoltage_keeps | apply State.setTargets_keeps | apply State.setMeans_keeps
      | apply State.raise_keeps | apply State.limitEvent_keeps | apply State.jobLimit_keeps | apply Keeps.ite
      | apply Keeps.foldl | apply Keeps.foldl_third | apply Keeps.foldl_snd | apply Keeps.foldl_fst
      | fail_if_no_progress (refine Keeps.upd ?_ rfl rfl))
    | split

theorem execVoltageLoopUpdate_keeps {s : State} (core : Fin 8) (slack : Fin 128) (energy : Nat) : KeepsO s
    (execVoltageLoopUpdate core slack energy s) := by
  unfold execVoltageLoopUpdate
  try extract_lets
  with_reducible repeat' first
    | extract_lets | apply KeepsO.ite | apply KeepsO.next | intro _ | exact Keeps.refl _ | assumption
    | apply State.fput_keeps | apply State.fput64_keeps | apply Keeps.ite | apply Keeps.foldl
    | fail_if_no_progress (refine Keeps.upd ?_ rfl rfl)

theorem execCapCut_keeps {s : State} (avg : Nat) : KeepsO s (execCapCut avg s) := by
  unfold execCapCut
  try extract_lets
  with_reducible repeat' first
    | extract_lets | apply KeepsO.ite | apply KeepsO.next | intro _ | exact Keeps.refl _ | assumption
    | apply State.fput_keeps | apply State.flag_keeps | apply State.sediment_keeps
    | apply State.limitOnce_keeps | apply State.setMeans_keeps | apply Keeps.ite | apply Keeps.foldl
    | apply Keeps.foldl_third | apply Keeps.foldl_snd | apply Keeps.foldl_fst
    | fail_if_no_progress (refine Keeps.upd ?_ rfl rfl)

theorem execCapCutEnd_keeps {s : State} (avg : Nat) : KeepsO s (execCapCutEnd avg s) := by
  unfold execCapCutEnd
  try extract_lets
  with_reducible repeat' first
    | extract_lets | apply KeepsO.ite | apply KeepsO.next | intro _ | exact Keeps.refl _ | assumption
    | apply State.fput_keeps | apply State.setMeans_keeps | apply Keeps.ite | apply Keeps.foldl
    | apply Keeps.foldl_third | apply Keeps.foldl_snd | apply Keeps.foldl_fst
    | fail_if_no_progress (refine Keeps.upd ?_ rfl rfl)

theorem execCapCutHeld_keeps {s : State}  : KeepsO s (execCapCutHeld  s) := by
  unfold execCapCutHeld
  try extract_lets
  with_reducible repeat' first
    | extract_lets | apply KeepsO.ite | apply KeepsO.next | intro _ | exact Keeps.refl _ | assumption
    | apply State.jobLimit_keeps | apply Keeps.ite

theorem execThermalTrip_keeps {s : State} (sensor : Fin 24) (temp : Int) : KeepsO s (execThermalTrip sensor temp s)
    := by
  unfold execThermalTrip
  try extract_lets
  with_reducible repeat' first
    | extract_lets | apply KeepsO.ite | apply KeepsO.next | intro _ | exact Keeps.refl _ | assumption
    | apply State.sediment_keeps | apply State.srEnter_keeps | apply State.resetMain_keeps
    | apply State.newSlotKeys_keeps | apply State.fput_keeps | apply State.emit_keeps | apply Keeps.ite
    | apply Keeps.foldl | apply Keeps.foldl_third | apply Keeps.foldl_snd | apply Keeps.foldl_fst
    | fail_if_no_progress (refine Keeps.upd ?_ rfl rfl)

theorem State.limitSet_keeps {s t : State} (hk : Keeps s t) (o : Nat) (v : Word) : Keeps s (t.limitSet o v) := by
  refine hk.trans ?_
  unfold State.limitSet
  try extract_lets
  with_reducible repeat' first
    | extract_lets | intro _ | exact Keeps.refl _ | assumption | apply State.raise_keeps
    | apply State.fput_keeps | apply Keeps.ite | apply Keeps.foldl

theorem execLimitWrite_keeps {s : State} (off : Nat) (v : Word) : KeepsO s (execLimitWrite off v s) := by
  unfold execLimitWrite
  try extract_lets
  with_reducible repeat' first
    | extract_lets | apply KeepsO.ite | apply KeepsO.next | intro _ | exact Keeps.refl _ | assumption
    | apply State.limitSet_keeps

theorem State.corePower_keeps {s t : State} (hk : Keeps s t) (n : Nat) (off : Bool) : Keeps s (t.corePower n off) :=
    by
  refine hk.trans ?_
  unfold State.corePower
  try extract_lets
  with_reducible repeat' first
    | extract_lets | intro _ | exact Keeps.refl _ | assumption | apply State.fput_keeps | apply Keeps.ite

theorem execCorePowerOff_keeps {s : State} (core : Fin 8) : KeepsO s (execCorePowerOff core s) := by
  unfold execCorePowerOff
  try extract_lets
  with_reducible repeat' first
    | extract_lets | apply KeepsO.ite | apply KeepsO.next | intro _ | exact Keeps.refl _ | assumption
    | apply State.corePower_keeps

theorem execCorePowerOn_keeps {s : State} (core : Fin 8) : KeepsO s (execCorePowerOn core s) := by
  unfold execCorePowerOn
  try extract_lets
  with_reducible repeat' first
    | extract_lets | apply KeepsO.ite | apply KeepsO.next | intro _ | exact Keeps.refl _ | assumption
    | apply State.corePower_keeps

theorem execCorePowerOnDone_keeps {s : State} (core : Fin 8) : KeepsO s (execCorePowerOnDone core s) := by
  unfold execCorePowerOnDone
  try extract_lets
  repeat' first
    | (with_reducible first
      | extract_lets | apply KeepsO.ite | apply KeepsO.next | intro _ | exact Keeps.refl _ | assumption
      | apply State.maClear_keeps | apply State.maCleared_keeps | apply State.fput_keeps
      | apply State.startNext_keeps)

theorem execSlumberEntry_keeps {s : State}  : KeepsO s (execSlumberEntry  s) := by
  unfold execSlumberEntry
  try extract_lets
  with_reducible repeat' first
    | extract_lets | apply KeepsO.ite | apply KeepsO.next | intro _ | exact Keeps.refl _ | assumption
    | apply State.srEnter_keeps | apply Keeps.ite | apply Keeps.foldl
    | fail_if_no_progress (refine Keeps.upd ?_ rfl rfl)

theorem execPowerFail_keeps {s : State}  : KeepsO s (execPowerFail  s) := by
  unfold execPowerFail
  try extract_lets
  with_reducible repeat' first
    | extract_lets | apply KeepsO.ite | apply KeepsO.next | intro _ | exact Keeps.refl _ | assumption
    | apply State.sediment_keeps | apply State.powerFlush_keeps | apply Keeps.ite

theorem execTamper_keeps {s : State} (cool : Bool) : KeepsO s (execTamper cool s) := by
  unfold execTamper
  try extract_lets
  with_reducible repeat' first
    | extract_lets | apply KeepsO.ite | apply KeepsO.next | intro _ | exact Keeps.refl _ | assumption
    | apply State.sediment_keeps | apply State.zeroise_keeps | apply State.tripRelease_keeps
    | apply State.mainRelease_keeps | apply State.warmReset_keeps | apply Keeps.ite

theorem State.wdogWrite_keeps {s t : State} (hk : Keeps s t) (v : Word) : Keeps s (t.wdogWrite v) := by
  refine hk.trans ?_
  unfold State.wdogWrite
  try extract_lets
  with_reducible repeat' first
    | extract_lets | intro _ | exact Keeps.refl _ | assumption | apply State.fput_keeps
    | apply State.draw_keeps | apply Keeps.ite | apply Keeps.foldl
    | fail_if_no_progress (refine Keeps.upd ?_ rfl rfl)

theorem execWatchdogArm_keeps {s : State} (v : Word) : KeepsO s (execWatchdogArm v s) := by
  unfold execWatchdogArm
  try extract_lets
  with_reducible repeat' first
    | extract_lets | apply KeepsO.ite | apply KeepsO.next | intro _ | exact Keeps.refl _ | assumption
    | apply State.wdogWrite_keeps

theorem State.wdogKick_keeps {s t : State} (hk : Keeps s t)  : Keeps s t.wdogKick := by
  refine hk.trans ?_
  unfold State.wdogKick
  try extract_lets
  with_reducible repeat' first
    | extract_lets | intro _ | exact Keeps.refl _ | assumption | apply Keeps.ite | apply Keeps.foldl
    | fail_if_no_progress (refine Keeps.upd ?_ rfl rfl)

theorem execWatchdogKick_keeps {s : State}  : KeepsO s (execWatchdogKick  s) := by
  unfold execWatchdogKick
  try extract_lets
  with_reducible repeat' first
    | extract_lets | apply KeepsO.ite | apply KeepsO.next | intro _ | exact Keeps.refl _ | assumption
    | apply State.wdogKick_keeps

theorem execWatchdogExpiry_keeps {s : State}  : KeepsO s (execWatchdogExpiry  s) := by
  unfold execWatchdogExpiry
  try extract_lets
  with_reducible repeat' first
    | extract_lets | apply KeepsO.ite | apply KeepsO.next | intro _ | exact Keeps.refl _ | assumption
    | apply State.sediment_keeps | apply State.fput_keeps | apply State.warmReset_keeps

theorem execFencedWritesInterval_keeps {s : State}  : KeepsO s (execFencedWritesInterval  s) := by
  unfold execFencedWritesInterval
  try extract_lets
  repeat' first
    | (with_reducible first
      | extract_lets | apply KeepsO.ite | apply KeepsO.next | intro _ | exact Keeps.refl _ | assumption
      | apply State.sediment_keeps | apply Keeps.ite | apply Keeps.foldl
      | fail_if_no_progress (refine Keeps.upd ?_ rfl rfl))
    | split

theorem execTrickleFlush_keeps {s : State}  : KeepsO s (execTrickleFlush  s) := by
  unfold execTrickleFlush
  try extract_lets
  with_reducible repeat' first
    | extract_lets | apply KeepsO.ite | apply KeepsO.next | intro _ | exact Keeps.refl _ | assumption
    | apply State.flushAll_keeps | apply Keeps.ite

theorem State.jrFailed_keeps {s t : State} (hk : Keeps s t)  : Keeps s t.jrFailed := by
  refine hk.trans ?_
  unfold State.jrFailed
  try extract_lets
  repeat' first
    | (with_reducible first
      | extract_lets | intro _ | exact Keeps.refl _ | assumption | apply State.flag_keeps
      | apply State.fput_keeps | apply State.jrPut_keeps | apply Keeps.ite | apply Keeps.foldl
      | fail_if_no_progress (refine Keeps.upd ?_ rfl rfl))
    | split

theorem execJournalRecordCommit_keeps {s : State} (failed : Bool) : KeepsO s (execJournalRecordCommit failed s) := by
  unfold execJournalRecordCommit
  try extract_lets
  repeat' first
    | (with_reducible first
      | extract_lets | apply KeepsO.ite | apply KeepsO.next | intro _ | exact Keeps.refl _ | assumption
      | apply State.jrFailed_keeps | apply State.jrServe_keeps | apply State.keyDurable_keeps
      | refine State.jrCommit_keeps ?_  (by assumption) | apply Keeps.ite | apply Keeps.foldl
      | fail_if_no_progress (refine Keeps.upd ?_ rfl rfl))
    | split

theorem State.classCfg_keeps {s t : State} (hk : Keeps s t) (c : Nat) (v : Word) : Keeps s (t.classCfg c v) := by
  refine hk.trans ?_
  unfold State.classCfg
  try extract_lets
  with_reducible repeat' first
    | extract_lets | intro _ | exact Keeps.refl _ | assumption | apply State.fput_keeps | apply Keeps.ite

theorem execRasClassCfgWrite_keeps {s : State} (c : Fin 12) (v : Word) : KeepsO s (execRasClassCfgWrite c v s) := by
  unfold execRasClassCfgWrite
  try extract_lets
  with_reducible repeat' first
    | extract_lets | apply KeepsO.ite | apply KeepsO.next | intro _ | exact Keeps.refl _ | assumption
    | apply State.classCfg_keeps

theorem State.sedRead_keeps {s t : State} (hk : Keeps s t) (v : Word) : Keeps s (t.sedRead v) := by
  refine hk.trans ?_
  unfold State.sedRead
  try extract_lets
  with_reducible repeat' first
    | extract_lets | intro _ | exact Keeps.refl _ | assumption | apply State.wr_keeps | apply State.fput_keeps
    | apply Keeps.ite | apply Keeps.foldl

theorem execAocSedRead_keeps {s : State} (v : Word) : KeepsO s (execAocSedRead v s) := by
  unfold execAocSedRead
  try extract_lets
  with_reducible repeat' first
    | extract_lets | apply KeepsO.ite | apply KeepsO.next | intro _ | exact Keeps.refl _ | assumption
    | apply State.sedRead_keeps

theorem execAocTakeover_keeps {s : State}  : KeepsO s (execAocTakeover  s) := by
  unfold execAocTakeover
  try extract_lets
  with_reducible repeat' first
    | extract_lets | apply KeepsO.ite | apply KeepsO.next | intro _ | exact Keeps.refl _ | assumption
    | apply State.sediment_keeps | apply Keeps.ite | apply Keeps.foldl
    | fail_if_no_progress (refine Keeps.upd ?_ rfl rfl)

theorem execMpTakeback_keeps {s : State} : KeepsO s (execMpTakeback s) := by
  unfold execMpTakeback
  try extract_lets
  repeat' first
    | (with_reducible first
      | extract_lets | apply KeepsO.ite | apply KeepsO.next | intro _ | exact Keeps.refl _ | assumption
      | apply Keeps.ite | apply Keeps.foldl | fail_if_no_progress (refine Keeps.upd ?_ rfl rfl))

theorem State.answer_keeps {s t : State} (hk : Keeps s t) (eid : BitVec 8) (code : Nat) (d : List Byte) : Keeps s
    (t.answer eid code d) := by
  refine hk.trans ?_
  unfold State.answer
  try extract_lets
  with_reducible repeat' first
    | extract_lets | intro _ | exact Keeps.refl _ | assumption | apply State.emit_keeps

theorem State.serve_keeps {s t : State} (hk : Keeps s t) (eid : BitVec 8) (vdm aoc : Bool) (need : MgmtNeed) (code :
    Nat) (d : List Byte) : Keeps s (t.serve eid vdm aoc need code d) := by
  refine hk.trans ?_
  unfold State.serve
  try extract_lets
  repeat' first
    | (with_reducible first
      | extract_lets | intro _ | exact Keeps.refl _ | assumption | apply State.answer_keeps | apply Keeps.ite
      | apply Keeps.foldl | fail_if_no_progress (refine Keeps.upd ?_ rfl rfl))
    | split

theorem execProfileOpen_keeps {s : State} (eid : BitVec 8) (vdm : Bool) (lo hi : BitVec 8) (caps : Word) : KeepsO s
    (execProfileOpen eid vdm lo hi caps s) := by
  unfold execProfileOpen
  try extract_lets
  with_reducible repeat' first
    | extract_lets | apply KeepsO.ite | apply KeepsO.next | intro _ | exact Keeps.refl _ | assumption
    | apply State.answer_keeps | apply State.sediment_keeps | apply Keeps.ite | apply Keeps.foldl
    | fail_if_no_progress (refine Keeps.upd ?_ rfl rfl)

theorem execGetSensorReading_keeps {s : State} (eid : BitVec 8) (vdm : Bool) (sensor : Nat) : KeepsO s
    (execGetSensorReading eid vdm sensor s) := by
  unfold execGetSensorReading
  try extract_lets
  with_reducible repeat' first
    | extract_lets | apply KeepsO.ite | apply KeepsO.next | intro _ | exact Keeps.refl _ | assumption
    | apply State.serve_keeps

theorem execGetStateSensorReadings_keeps {s : State} (eid : BitVec 8) (vdm : Bool) (sensor : Nat) : KeepsO s
    (execGetStateSensorReadings eid vdm sensor s) := by
  unfold execGetStateSensorReadings
  try extract_lets
  with_reducible repeat' first
    | extract_lets | apply KeepsO.ite | apply KeepsO.next | intro _ | exact Keeps.refl _ | assumption
    | apply State.serve_keeps

theorem execSetEventReceiver_keeps {s : State} (eid : BitVec 8) (vdm : Bool) (receiver : BitVec 8) : KeepsO s
    (execSetEventReceiver eid vdm receiver s) := by
  unfold execSetEventReceiver
  try extract_lets
  with_reducible repeat' first
    | extract_lets | apply KeepsO.ite | apply KeepsO.next | intro _ | exact Keeps.refl _ | assumption
    | apply State.serve_keeps | apply Keeps.ite | apply Keeps.foldl
    | fail_if_no_progress (refine Keeps.upd ?_ rfl rfl)

theorem execGetPdrRepositoryInfo_keeps {s : State} (eid : BitVec 8) (vdm : Bool) : KeepsO s (execGetPdrRepositoryInfo
    eid vdm s) := by
  unfold execGetPdrRepositoryInfo
  try extract_lets
  with_reducible repeat' first
    | extract_lets | apply KeepsO.ite | apply KeepsO.next | intro _ | exact Keeps.refl _ | assumption
    | apply State.serve_keeps

theorem execGetPdr_keeps {s : State} (eid : BitVec 8) (vdm : Bool) (record len : Nat) : KeepsO s (execGetPdr eid vdm
    record len s) := by
  unfold execGetPdr
  try extract_lets
  with_reducible repeat' first
    | extract_lets | apply KeepsO.ite | apply KeepsO.next | intro _ | exact Keeps.refl _ | assumption
    | apply State.serve_keeps

theorem execHealth_keeps {s : State} (eid : BitVec 8) (vdm : Bool) : KeepsO s (execHealth eid vdm s) := by
  unfold execHealth
  try extract_lets
  with_reducible repeat' first
    | extract_lets | apply KeepsO.ite | apply KeepsO.next | intro _ | exact Keeps.refl _ | assumption
    | apply State.serve_keeps

theorem execSedimentRead_keeps {s : State} (eid : BitVec 8) (vdm : Bool) (first count : Nat) : KeepsO s
    (execSedimentRead eid vdm first count s) := by
  unfold execSedimentRead
  try extract_lets
  with_reducible repeat' first
    | extract_lets | apply KeepsO.ite | apply KeepsO.next | intro _ | exact Keeps.refl _ | assumption
    | apply State.serve_keeps | apply Keeps.ite

theorem execSetEndpointId_keeps {s : State} (eid : BitVec 8) (vdm : Bool) (new : BitVec 8) : KeepsO s
    (execSetEndpointId eid vdm new s) := by
  unfold execSetEndpointId
  try extract_lets
  with_reducible repeat' first
    | extract_lets | apply KeepsO.ite | apply KeepsO.next | intro _ | exact Keeps.refl _ | assumption
    | apply State.answer_keeps | apply Keeps.ite | apply Keeps.foldl
    | fail_if_no_progress (refine Keeps.upd ?_ rfl rfl)

theorem execGetEndpointId_keeps {s : State} (eid : BitVec 8) (vdm : Bool) : KeepsO s (execGetEndpointId eid vdm s) :=
    by
  unfold execGetEndpointId
  try extract_lets
  with_reducible repeat' first
    | extract_lets | apply KeepsO.ite | apply KeepsO.next | intro _ | exact Keeps.refl _ | assumption
    | apply State.serve_keeps

theorem execGetEndpointUuid_keeps {s : State} (eid : BitVec 8) (vdm : Bool) : KeepsO s (execGetEndpointUuid eid vdm
    s) := by
  unfold execGetEndpointUuid
  try extract_lets
  with_reducible repeat' first
    | extract_lets | apply KeepsO.ite | apply KeepsO.next | intro _ | exact Keeps.refl _ | assumption
    | apply State.serve_keeps

theorem execGetMctpVersionSupport_keeps {s : State} (eid : BitVec 8) (vdm : Bool) (type : BitVec 8) : KeepsO s
    (execGetMctpVersionSupport eid vdm type s) := by
  unfold execGetMctpVersionSupport
  try extract_lets
  with_reducible repeat' first
    | extract_lets | apply KeepsO.ite | apply KeepsO.next | intro _ | exact Keeps.refl _ | assumption
    | apply State.serve_keeps | apply Keeps.ite

theorem execGetMessageTypeSupport_keeps {s : State} (eid : BitVec 8) (vdm : Bool) : KeepsO s
    (execGetMessageTypeSupport eid vdm s) := by
  unfold execGetMessageTypeSupport
  try extract_lets
  with_reducible repeat' first
    | extract_lets | apply KeepsO.ite | apply KeepsO.next | intro _ | exact Keeps.refl _ | assumption
    | apply State.serve_keeps

theorem execGetVendorDefinedMessageSupport_keeps {s : State} (eid : BitVec 8) (vdm : Bool) (selector : BitVec 8) :
    KeepsO s (execGetVendorDefinedMessageSupport eid vdm selector s) := by
  unfold execGetVendorDefinedMessageSupport
  try extract_lets
  with_reducible repeat' first
    | extract_lets | apply KeepsO.ite | apply KeepsO.next | intro _ | exact Keeps.refl _ | assumption
    | apply State.serve_keeps | apply Keeps.ite

theorem execGetTid_keeps {s : State} (eid : BitVec 8) (vdm : Bool) : KeepsO s (execGetTid eid vdm s) := by
  unfold execGetTid
  try extract_lets
  with_reducible repeat' first
    | extract_lets | apply KeepsO.ite | apply KeepsO.next | intro _ | exact Keeps.refl _ | assumption
    | apply State.serve_keeps

theorem execGetPldmVersion_keeps {s : State} (eid : BitVec 8) (vdm : Bool) (type : BitVec 8) : KeepsO s
    (execGetPldmVersion eid vdm type s) := by
  unfold execGetPldmVersion
  try extract_lets
  with_reducible repeat' first
    | extract_lets | apply KeepsO.ite | apply KeepsO.next | intro _ | exact Keeps.refl _ | assumption
    | apply State.serve_keeps | apply Keeps.ite

theorem execGetPldmTypes_keeps {s : State} (eid : BitVec 8) (vdm : Bool) : KeepsO s (execGetPldmTypes eid vdm s) := by
  unfold execGetPldmTypes
  try extract_lets
  with_reducible repeat' first
    | extract_lets | apply KeepsO.ite | apply KeepsO.next | intro _ | exact Keeps.refl _ | assumption
    | apply State.serve_keeps

theorem execGetPldmCommands_keeps {s : State} (eid : BitVec 8) (vdm : Bool) (type : BitVec 8) : KeepsO s
    (execGetPldmCommands eid vdm type s) := by
  unfold execGetPldmCommands
  try extract_lets
  with_reducible repeat' first
    | extract_lets | apply KeepsO.ite | apply KeepsO.next | intro _ | exact Keeps.refl _ | assumption
    | apply State.serve_keeps | apply Keeps.ite

theorem State.windowWrite_keeps {s t : State} (hk : Keeps s t) (off : Nat) (v : Word) : Keeps s (t.windowWrite off
    v) := by
  refine hk.trans ?_
  unfold State.windowWrite
  try extract_lets
  repeat' first
    | (with_reducible first
      | extract_lets | intro _ | exact Keeps.refl _ | assumption | apply State.setBytes_keeps
      | apply State.setEcc_keeps | apply Keeps.ite)

theorem State.windowRead_keeps {s t : State} (hk : Keeps s t) (off : Nat) : Keeps s (t.windowRead off) := by
  refine hk.trans ?_
  unfold State.windowRead
  try extract_lets
  repeat' first
    | (with_reducible first
      | extract_lets | intro _ | exact Keeps.refl _ | assumption | apply State.report_keeps | apply Keeps.ite)

theorem State.whileHalted_keeps {s t : State} (hk : Keeps s t) (n off : Nat) (v : Word) : Keeps s (t.whileHalted n
    off v) := by
  refine hk.trans ?_
  unfold State.whileHalted
  try extract_lets
  with_reducible repeat' first
    | extract_lets | intro _ | exact Keeps.refl _ | assumption | apply State.writeReg_keeps | apply Keeps.ite

theorem State.ncCtrlWrite_keeps {s t : State} (hk : Keeps s t) (n : Nat) (v : Word) : Keeps s (t.ncCtrlWrite n v) :=
    by
  refine hk.trans ?_
  unfold State.ncCtrlWrite
  try extract_lets
  with_reducible repeat' first
    | extract_lets | intro _ | exact Keeps.refl _ | assumption | apply State.fput_keeps
    | apply State.ncCountReset_keeps | apply State.abortCore_keeps | apply State.startCore_keeps
    | apply Keeps.ite

theorem State.cpCtrlWrite_keeps {s t : State} (hk : Keeps s t) (n : Nat) (v : Word) : Keeps s (t.cpCtrlWrite n v) :=
    by
  refine hk.trans ?_
  unfold State.cpCtrlWrite
  try extract_lets
  with_reducible repeat' first
    | extract_lets | intro _ | exact Keeps.refl _ | assumption | apply State.cpHold_keeps
    | apply State.cpRelease_keeps | apply Keeps.ite

theorem State.coreWrite_keeps {s t : State} (hk : Keeps s t) (n k o : Nat) (v : Word) : Keeps s (t.coreWrite n k o
    v) := by
  refine hk.trans ?_
  unfold State.coreWrite
  try extract_lets
  repeat' first
    | (with_reducible first
      | extract_lets | intro _ | exact Keeps.refl _ | assumption | apply State.ncCtrlWrite_keeps
      | apply State.whileHalted_keeps | apply State.cpCtrlWrite_keeps | apply State.writeReg_keeps
      | apply State.tgClear_keeps | apply State.fput_keeps | apply State.regionFull_keeps
      | apply State.wr_keeps | apply State.spScrub_keeps | apply State.mvCountReset_keeps
      | apply State.seedClear_keeps | apply State.seedWrite_keeps | apply State.windowWrite_keeps
      | apply State.maCountReset_keeps | apply State.maClear_keeps | apply State.maCountsClear_keeps
      | apply Keeps.ite | apply Keeps.foldl | fail_if_no_progress (refine Keeps.upd ?_ rfl rfl))
    | split

theorem State.hbWrite_keeps {s t : State} (hk : Keeps s t) (o : Nat) (v : Word) : Keeps s (t.hbWrite o v) := by
  refine hk.trans ?_
  unfold State.hbWrite
  try extract_lets
  repeat' first
    | (with_reducible first
      | extract_lets | intro _ | exact Keeps.refl _ | assumption | apply State.writeReg_keeps
      | apply State.wr_keeps | apply State.hbScrub_keeps | apply Keeps.ite)

theorem State.mcWrite_keeps {s t : State} (hk : Keeps s t) (o : Nat) (v : Word) : Keeps s (t.mcWrite o v) := by
  refine hk.trans ?_
  unfold State.mcWrite
  try extract_lets
  with_reducible repeat' first
    | extract_lets | intro _ | exact Keeps.refl _ | assumption | apply State.mcCtrlWrite_keeps
    | apply State.mcConfigWrite_keeps | apply State.mcPortWrite_keeps | apply State.writeReg_keeps
    | apply State.mcCountsClear_keeps | apply State.wr_keeps | apply State.trainWrite_keeps | apply Keeps.ite

theorem State.ciWrite_keeps {s t : State} (hk : Keeps s t) (o : Nat) (v : Word) : Keeps s (t.ciWrite o v) := by
  refine hk.trans ?_
  unfold State.ciWrite
  try extract_lets
  repeat' first
    | (with_reducible first
      | extract_lets | intro _ | exact Keeps.refl _ | assumption | apply State.portEnable_keeps
      | apply State.portDisable_keeps | apply State.fput_keeps | apply State.ciReadmit_keeps
      | apply State.writeReg_keeps | apply State.ciCountsClear_keeps | apply Keeps.ite | apply Keeps.foldl
      | fail_if_no_progress (refine Keeps.upd ?_ rfl rfl))
    | split | dsimp (zetaDelta := true) (zeta := false) only

theorem State.crWrite_keeps {s t : State} (hk : Keeps s t) (n o : Nat) (v : Word) : Keeps s (t.crWrite n o v) := by
  refine hk.trans ?_
  unfold State.crWrite
  try extract_lets
  repeat' first
    | (with_reducible first
      | extract_lets | intro _ | exact Keeps.refl _ | assumption | apply State.fput_keeps
      | apply State.writeReg_keeps | apply State.raise_keeps | apply Keeps.ite | apply Keeps.foldl
      | fail_if_no_progress (refine Keeps.upd ?_ rfl rfl))
    | split

theorem State.streamWrite_keeps {s t : State} (hk : Keeps s t) (n w : Nat) (v : Word) : Keeps s (t.streamWrite n w v)
    := by
  refine hk.trans ?_
  unfold State.streamWrite
  try extract_lets
  with_reducible repeat' first
    | extract_lets | intro _ | exact Keeps.refl _ | assumption | apply State.streamEnable_keeps
    | apply State.streamDisable_keeps | apply State.writeReg_keeps | apply Keeps.ite

theorem State.groupWrite_keeps {s t : State} (hk : Keeps s t) (g w : Nat) (v : Word) : Keeps s (t.groupWrite g w v)
    := by
  refine hk.trans ?_
  unfold State.groupWrite
  try extract_lets
  with_reducible repeat' first
    | extract_lets | intro _ | exact Keeps.refl _ | assumption | apply State.fput_keeps
    | apply State.groupDisable_keeps | apply State.groupEnable_keeps | apply State.writeReg_keeps
    | apply Keeps.ite

theorem State.iaWrite_keeps {s t : State} (hk : Keeps s t) (o : Nat) (v : Word) : Keeps s (t.iaWrite o v) := by
  refine hk.trans ?_
  unfold State.iaWrite
  try extract_lets
  with_reducible repeat' first
    | extract_lets | intro _ | exact Keeps.refl _ | assumption | apply State.writeReg_keeps
    | apply State.iaCountsClear_keeps | apply State.fsyncCommit_keeps | apply State.streamWrite_keeps
    | apply State.groupWrite_keeps | apply State.augCommit_keeps | apply State.setGroup_keeps
    | apply Keeps.ite

theorem State.ctxWrite_keeps {s t : State} (hk : Keeps s t) (c w : Nat) (v : Word) : Keeps s (t.ctxWrite c w v) := by
  refine hk.trans ?_
  unfold State.ctxWrite
  try extract_lets
  with_reducible repeat' first
    | extract_lets | intro _ | exact Keeps.refl _ | assumption | apply State.fput_keeps
    | apply State.writeReg_keeps | apply Keeps.ite

theorem State.ipWrite_keeps {s t : State} (hk : Keeps s t) (p o : Nat) (v : Word) : Keeps s (t.ipWrite p o v) := by
  refine hk.trans ?_
  unfold State.ipWrite
  try extract_lets
  with_reducible repeat' first
    | extract_lets | intro _ | exact Keeps.refl _ | assumption | apply State.writeReg_keeps
    | apply State.wr_keeps | apply State.ctxWrite_keeps | apply State.curveWrite_keeps | apply Keeps.ite

theorem State.vxWrite_keeps {s t : State} (hk : Keeps s t) (o : Nat) (v : Word) : Keeps s (t.vxWrite o v) := by
  refine hk.trans ?_
  unfold State.vxWrite
  try extract_lets
  with_reducible repeat' first
    | extract_lets | intro _ | exact Keeps.refl _ | assumption | apply State.vxReset_keeps
    | apply State.fput_keeps | apply State.vxRelease_keeps | apply State.writeReg_keeps | apply Keeps.ite

theorem State.scWrite_keeps {s t : State} (hk : Keeps s t) (o : Nat) (v : Word) : Keeps s (t.scWrite o v) := by
  refine hk.trans ?_
  unfold State.scWrite
  try extract_lets
  with_reducible repeat' first
    | extract_lets | intro _ | exact Keeps.refl _ | assumption | apply State.whileHalted_keeps
    | apply State.fput_keeps | apply State.mboxRun_keeps | apply State.writeReg_keeps | apply Keeps.ite

theorem State.gpioWrite_keeps {s t : State} (hk : Keeps s t) (o : Nat) (v : Word) : Keeps s (t.gpioWrite o v) := by
  refine hk.trans ?_
  unfold State.gpioWrite
  try extract_lets
  with_reducible repeat' first
    | extract_lets | intro _ | exact Keeps.refl _ | assumption | apply State.driveGpio_keeps
    | apply State.writeReg_keeps | apply Keeps.ite | apply Keeps.foldl

theorem State.regAct_keeps {s t : State} (hk : Keeps s t) (off : Nat) (v : Word) : Keeps s (t.regAct off v) := by
  refine hk.trans ?_
  unfold State.regAct
  try extract_lets
  repeat' first
    | (with_reducible first
      | extract_lets | intro _ | exact Keeps.refl _ | assumption | apply State.coreWrite_keeps
      | apply State.hbWrite_keeps | apply State.mcWrite_keeps | apply State.bootGo_keeps
      | apply State.writeReg_keeps | apply State.ciWrite_keeps | apply State.iaWrite_keeps
      | apply State.ipWrite_keeps | apply State.vxWrite_keeps | apply State.scWrite_keeps
      | apply State.sedRead_keeps | apply State.wdogWrite_keeps | apply State.wdogKick_keeps
      | apply State.limitSet_keeps | apply State.corePower_keeps | apply State.pllWrite_keeps
      | apply State.domainWrite_keeps | apply State.classCfg_keeps | apply State.pinMuxWrite_keeps
      | apply State.gpioWrite_keeps | apply State.crWrite_keeps | apply Keeps.ite | apply Keeps.foldl
      | fail_if_no_progress (refine Keeps.upd ?_ rfl rfl))
    | split | dsimp (zetaDelta := true) (zeta := false) only

theorem State.discardWrite_keeps {s t : State} (hk : Keeps s t) (rq : Requester) : Keeps s (t.discardWrite rq) := by
  refine hk.trans ?_
  unfold State.discardWrite
  try extract_lets
  repeat' first
    | (with_reducible first
      | extract_lets | intro _ | exact Keeps.refl _ | assumption | apply State.raise_keeps | apply Keeps.ite
      | apply Keeps.foldl | fail_if_no_progress (refine Keeps.upd ?_ rfl rfl))
    | split

theorem State.mpReport_some (s : State) (off : Nat) (v : Word) : KeepsSome (fun t : State => t) s (s.mpReport off v)
    := by
  unfold State.mpReport
  refine KeepsSome.ite (KeepsSome.some (State.wr_keeps (Keeps.refl _) _ _)) (KeepsSome.ite (KeepsSome.some ?_) KeepsSome.none)
  exact Keeps.ite (Keeps.refl _) (State.wr_keeps (Keeps.refl _) _ _)

theorem State.mpReport_keeps {s t : State} (hk : Keeps s t) (off : Nat) (v : Word) {r : State} (he : t.mpReport off v
    = some r) : Keeps s r :=
  hk.trans ((State.mpReport_some t off v).keeps r he)

theorem State.regPut_keeps {s t : State} (hk : Keeps s t) (rq : Requester) (off : Nat) (v : Word) : Keeps s (t.regPut
    rq off v) := by
  refine hk.trans ?_
  unfold State.regPut
  try extract_lets
  repeat' first
    | (with_reducible first
      | extract_lets | intro _ | exact Keeps.refl _ | assumption | apply State.growthOverflow_keeps
      | apply State.regAct_keeps | refine State.mpReport_keeps ?_ _ _ (by assumption) | apply Keeps.ite
      | apply Keeps.foldl | fail_if_no_progress (refine Keeps.upd ?_ rfl rfl))
    | split

theorem State.setHold_keeps {s t : State} (hk : Keeps s t) (k : Nat) (x : Option Word) : Keeps s (t.setHold k x) := by
  refine hk.trans ?_
  unfold State.setHold
  try extract_lets
  with_reducible repeat' first
    | extract_lets | intro _ | exact Keeps.refl _ | assumption | apply Keeps.ite | apply Keeps.foldl
    | fail_if_no_progress (refine Keeps.upd ?_ rfl rfl)

theorem State.setLatch_keeps {s t : State} (hk : Keeps s t) (k : Nat) (x : Option Word) : Keeps s (t.setLatch k x) :=
    by
  refine hk.trans ?_
  unfold State.setLatch
  try extract_lets
  with_reducible repeat' first
    | extract_lets | intro _ | exact Keeps.refl _ | assumption | apply Keeps.ite | apply Keeps.foldl
    | fail_if_no_progress (refine Keeps.upd ?_ rfl rfl)

theorem State.pairCommit_keeps {s t : State} (hk : Keeps s t) (rq : Requester) (low : Nat) (lo : Option Word) (hi :
    Word) : Keeps s (t.pairCommit rq low lo hi) := by
  refine hk.trans ?_
  unfold State.pairCommit
  try extract_lets
  repeat' first
    | (with_reducible first
      | extract_lets | intro _ | exact Keeps.refl _ | assumption | apply State.growthOverflow_keeps
      | apply State.timeStep_keeps | apply State.regPut_keeps | apply Keeps.ite | apply Keeps.foldl
      | fail_if_no_progress (refine Keeps.upd ?_ rfl rfl))
    | split | dsimp (zetaDelta := true) (zeta := false) only

theorem State.pairWrite_keeps {s t : State} (hk : Keeps s t) (rq : Requester) (off : Nat) (v : Word) : Keeps s
    (t.pairWrite rq off v) := by
  refine hk.trans ?_
  unfold State.pairWrite
  try extract_lets
  with_reducible repeat' first
    | extract_lets | intro _ | exact Keeps.refl _ | assumption | apply State.setHold_keeps
    | apply State.pairCommit_keeps | apply Keeps.ite

theorem State.msixWrite_keeps {s t : State} (hk : Keeps s t) (o : Nat) (v : Word) : Keeps s (t.msixWrite o v) := by
  refine hk.trans ?_
  unfold State.msixWrite
  try extract_lets
  with_reducible repeat' first
    | extract_lets | intro _ | exact Keeps.refl _ | assumption | apply State.wr_keeps | apply State.emit_keeps
    | apply State.msix_keeps | apply Keeps.ite

theorem State.bar4Write_keeps {s t : State} (hk : Keeps s t) (o : Nat) (v : Word) : Keeps s (t.bar4Write o v) := by
  refine hk.trans ?_
  unfold State.bar4Write
  try extract_lets
  repeat' first
    | (with_reducible first
      | extract_lets | intro _ | exact Keeps.refl _ | assumption | apply State.raise_keeps
      | apply State.setHold_keeps | apply State.writeReg_keeps | apply State.pairConfig_keeps
      | apply State.sqDoorbell_keeps | apply State.cqDoorbell_keeps | apply State.signalObj_keeps
      | apply State.replaceObject_keeps | apply State.msixWrite_keeps | apply Keeps.ite | apply Keeps.foldl
      | fail_if_no_progress (refine Keeps.upd ?_ rfl rfl))
    | split | dsimp (zetaDelta := true) (zeta := false) only

theorem State.access_keeps {s t : State} (hk : Keeps s t) (rq : Requester) (off : Nat) (v : Word) : Keeps s (t.access
    rq off v) := by
  refine hk.trans ?_
  unfold State.access
  try extract_lets
  repeat' first
    | (with_reducible first
      | extract_lets | intro _ | exact Keeps.refl _ | assumption | apply State.bar4_keeps
      | apply State.bar4Write_keeps | apply State.discardWrite_keeps | apply State.pairWrite_keeps
      | apply State.regPut_keeps | apply Keeps.ite | apply Keeps.foldl
      | fail_if_no_progress (refine Keeps.upd ?_ rfl rfl))
    | split

theorem State.readWord_keeps {s t : State} (hk : Keeps s t) (rq : Requester) (off : Nat) : Keeps s (t.readWord rq
    off) := by
  refine hk.trans ?_
  unfold State.readWord
  try extract_lets
  repeat' first
    | (with_reducible first
      | extract_lets | intro _ | exact Keeps.refl _ | assumption | apply State.answer_keeps
      | apply State.emit_keeps | apply State.refuseAccess_keeps | apply State.setLatch_keeps
      | apply State.windowRead_keeps | apply Keeps.ite | apply Keeps.foldl
      | fail_if_no_progress (refine Keeps.upd ?_ rfl rfl))
    | split

theorem execRegisterWrite_keeps {s : State} (rq : Requester) (off : Nat) (v : Word) : KeepsO s (execRegisterWrite rq
    off v s) := by
  unfold execRegisterWrite
  try extract_lets
  with_reducible repeat' first
    | extract_lets | apply KeepsO.ite | apply KeepsO.next | intro _ | exact Keeps.refl _ | assumption
    | apply State.access_keeps

theorem execPairLowRead_keeps {s : State} (rq : Requester) (off : Nat) : KeepsO s (execPairLowRead rq off s) := by
  unfold execPairLowRead
  try extract_lets
  with_reducible repeat' first
    | extract_lets | apply KeepsO.ite | apply KeepsO.next | intro _ | exact Keeps.refl _ | assumption
    | apply State.readWord_keeps

theorem execPairHighRead_keeps {s : State} (rq : Requester) (off : Nat) : KeepsO s (execPairHighRead rq off s) := by
  unfold execPairHighRead
  try extract_lets
  with_reducible repeat' first
    | extract_lets | apply KeepsO.ite | apply KeepsO.next | intro _ | exact Keeps.refl _ | assumption
    | apply State.readWord_keeps

theorem execPairLowWrite_keeps {s : State} (rq : Requester) (off : Nat) (v : Word) : KeepsO s (execPairLowWrite rq
    off v s) := by
  unfold execPairLowWrite
  try extract_lets
  with_reducible repeat' first
    | extract_lets | apply KeepsO.ite | apply KeepsO.next | intro _ | exact Keeps.refl _ | assumption
    | apply State.access_keeps

theorem execPairHighWrite_keeps {s : State} (rq : Requester) (off : Nat) (v : Word) : KeepsO s (execPairHighWrite rq
    off v s) := by
  unfold execPairHighWrite
  try extract_lets
  with_reducible repeat' first
    | extract_lets | apply KeepsO.ite | apply KeepsO.next | intro _ | exact Keeps.refl _ | assumption
    | apply State.access_keeps

theorem State.timeTick_keeps {s t : State} (hk : Keeps s t)  : Keeps s t.timeTick := by
  refine hk.trans ?_
  unfold State.timeTick
  try extract_lets
  with_reducible repeat' first
    | extract_lets | intro _ | exact Keeps.refl _ | assumption | apply Keeps.ite | apply Keeps.foldl
    | fail_if_no_progress (refine Keeps.upd ?_ rfl rfl)

theorem State.aonTick_keeps {s t : State} (hk : Keeps s t)  : Keeps s t.aonTick := by
  refine hk.trans ?_
  unfold State.aonTick
  try extract_lets
  with_reducible repeat' first
    | extract_lets | intro _ | exact Keeps.refl _ | assumption | apply Keeps.ite | apply Keeps.foldl
    | fail_if_no_progress (refine Keeps.upd ?_ rfl rfl)

theorem State.flushTick_keeps {s t : State} (hk : Keeps s t)  : Keeps s t.flushTick := by
  refine hk.trans ?_
  unfold State.flushTick
  try extract_lets
  with_reducible repeat' first
    | extract_lets | intro _ | exact Keeps.refl _ | assumption | apply State.flushAll_keeps | apply Keeps.ite

theorem State.tick_keeps {s t : State} (hk : Keeps s t)  : Keeps s t.tick := by
  refine hk.trans ?_
  unfold State.tick
  try extract_lets
  with_reducible repeat' first
    | extract_lets | intro _ | exact Keeps.refl _ | assumption | apply State.timeTick_keeps
    | apply State.aonTick_keeps | apply State.drainEvents_keeps | apply State.flushTick_keeps

end Sys2Proof.Machine
end

