-- ==== Sys2Proof/Laws/Reads.lean ====
section
/-! SUPPORT. What each named read gives after an update of another field, after a write of its own, and after a report: what
an entry of the sediment record and an event flag change. -/

namespace Sys2Proof.Machine

/-! core reads cores. -/

@[simp] theorem State.core_wr (s : State) (o : Nat) (v : Word) (n : Nat) : (s.wr o v).core n = s.core n := rfl
@[simp] theorem State.core_fput (s : State) (f : Fld) (v : Nat) (n : Nat) : (s.fput f v).core n = s.core n := rfl
@[simp] theorem State.core_fput64 (s : State) (f : Fld) (v : Nat) (n : Nat) : (s.fput64 f v).core n = s.core n := rfl
@[simp] theorem State.core_fsat (s : State) (f : Fld) (v : Nat) (n : Nat) : (s.fsat f v).core n = s.core n := rfl
@[simp] theorem State.core_flag (s : State) (f : Fld) (n : Nat) : (s.flag f).core n = s.core n := rfl
@[simp] theorem State.core_emit (s : State) (x : Output) (n : Nat) : (s.emit x).core n = s.core n := rfl
@[simp] theorem State.core_setArray (s : State) (m b : Nat) (r : ArrRt) (n : Nat) : (s.setArray m b r).core n = s.core n := rfl
@[simp] theorem State.core_setByte (s : State) (p : Nat) (v : Byte) (n : Nat) : (s.setByte p v).core n = s.core n := rfl
@[simp] theorem State.core_setEcc (s : State) (p : Nat) (v : BitVec 72) (n : Nat) : (s.setEcc p v).core n = s.core n := rfl
@[simp] theorem State.core_setObject (s : State) (p : Nat) (v : Word) (n : Nat) : (s.setObject p v).core n = s.core n := rfl
@[simp] theorem State.core_signalObj (s : State) (p : Nat) (v : Word) (n : Nat) : (s.signalObj p v).core n = s.core n := rfl

/-! array reads arrays. -/

@[simp] theorem State.array_wr (s : State) (o : Nat) (v : Word) (n a : Nat) : (s.wr o v).array n a = s.array n a := rfl
@[simp] theorem State.array_fput (s : State) (f : Fld) (v : Nat) (n a : Nat) : (s.fput f v).array n a = s.array n a := rfl
@[simp] theorem State.array_fput64 (s : State) (f : Fld) (v : Nat) (n a : Nat) : (s.fput64 f v).array n a = s.array n a := rfl
@[simp] theorem State.array_fsat (s : State) (f : Fld) (v : Nat) (n a : Nat) : (s.fsat f v).array n a = s.array n a := rfl
@[simp] theorem State.array_flag (s : State) (f : Fld) (n a : Nat) : (s.flag f).array n a = s.array n a := rfl
@[simp] theorem State.array_emit (s : State) (x : Output) (n a : Nat) : (s.emit x).array n a = s.array n a := rfl
@[simp] theorem State.array_setCore (s : State) (m : Nat) (c : CoreRt) (n a : Nat) : (s.setCore m c).array n a = s.array n a := rfl
@[simp] theorem State.array_setByte (s : State) (p : Nat) (v : Byte) (n a : Nat) : (s.setByte p v).array n a = s.array n a := rfl
@[simp] theorem State.array_setEcc (s : State) (p : Nat) (v : BitVec 72) (n a : Nat) : (s.setEcc p v).array n a = s.array n a := rfl
@[simp] theorem State.array_setObject (s : State) (p : Nat) (v : Word) (n a : Nat) : (s.setObject p v).array n a = s.array n a := rfl
@[simp] theorem State.array_signalObj (s : State) (p : Nat) (v : Word) (n a : Nat) : (s.signalObj p v).array n a = s.array n a := rfl

/-! obj reads sync. -/

@[simp] theorem State.obj_wr (s : State) (o : Nat) (v : Word) (i : Nat) : (s.wr o v).obj i = s.obj i := rfl
@[simp] theorem State.obj_fput (s : State) (f : Fld) (v : Nat) (i : Nat) : (s.fput f v).obj i = s.obj i := rfl
@[simp] theorem State.obj_fput64 (s : State) (f : Fld) (v : Nat) (i : Nat) : (s.fput64 f v).obj i = s.obj i := rfl
@[simp] theorem State.obj_fsat (s : State) (f : Fld) (v : Nat) (i : Nat) : (s.fsat f v).obj i = s.obj i := rfl
@[simp] theorem State.obj_flag (s : State) (f : Fld) (i : Nat) : (s.flag f).obj i = s.obj i := rfl
@[simp] theorem State.obj_emit (s : State) (x : Output) (i : Nat) : (s.emit x).obj i = s.obj i := rfl
@[simp] theorem State.obj_setCore (s : State) (m : Nat) (c : CoreRt) (i : Nat) : (s.setCore m c).obj i = s.obj i := rfl
@[simp] theorem State.obj_setArray (s : State) (m b : Nat) (r : ArrRt) (i : Nat) : (s.setArray m b r).obj i = s.obj i := rfl
@[simp] theorem State.obj_setByte (s : State) (p : Nat) (v : Byte) (i : Nat) : (s.setByte p v).obj i = s.obj i := rfl
@[simp] theorem State.obj_setEcc (s : State) (p : Nat) (v : BitVec 72) (i : Nat) : (s.setEcc p v).obj i = s.obj i := rfl

/-! byte reads mem. -/

@[simp] theorem State.byte_wr (s : State) (o : Nat) (v : Word) (i : Nat) : (s.wr o v).byte i = s.byte i := rfl
@[simp] theorem State.byte_fput (s : State) (f : Fld) (v : Nat) (i : Nat) : (s.fput f v).byte i = s.byte i := rfl
@[simp] theorem State.byte_fput64 (s : State) (f : Fld) (v : Nat) (i : Nat) : (s.fput64 f v).byte i = s.byte i := rfl
@[simp] theorem State.byte_fsat (s : State) (f : Fld) (v : Nat) (i : Nat) : (s.fsat f v).byte i = s.byte i := rfl
@[simp] theorem State.byte_flag (s : State) (f : Fld) (i : Nat) : (s.flag f).byte i = s.byte i := rfl
@[simp] theorem State.byte_emit (s : State) (x : Output) (i : Nat) : (s.emit x).byte i = s.byte i := rfl
@[simp] theorem State.byte_setCore (s : State) (m : Nat) (c : CoreRt) (i : Nat) : (s.setCore m c).byte i = s.byte i := rfl
@[simp] theorem State.byte_setArray (s : State) (m b : Nat) (r : ArrRt) (i : Nat) : (s.setArray m b r).byte i = s.byte i := rfl
@[simp] theorem State.byte_setEcc (s : State) (p : Nat) (v : BitVec 72) (i : Nat) : (s.setEcc p v).byte i = s.byte i := rfl
@[simp] theorem State.byte_setObject (s : State) (p : Nat) (v : Word) (i : Nat) : (s.setObject p v).byte i = s.byte i := rfl
@[simp] theorem State.byte_signalObj (s : State) (p : Nat) (v : Word) (i : Nat) : (s.signalObj p v).byte i = s.byte i := rfl

/-! eccAt reads ecc. -/

@[simp] theorem State.eccAt_wr (s : State) (o : Nat) (v : Word) (i : Nat) : (s.wr o v).eccAt i = s.eccAt i := rfl
@[simp] theorem State.eccAt_fput (s : State) (f : Fld) (v : Nat) (i : Nat) : (s.fput f v).eccAt i = s.eccAt i := rfl
@[simp] theorem State.eccAt_fput64 (s : State) (f : Fld) (v : Nat) (i : Nat) : (s.fput64 f v).eccAt i = s.eccAt i := rfl
@[simp] theorem State.eccAt_fsat (s : State) (f : Fld) (v : Nat) (i : Nat) : (s.fsat f v).eccAt i = s.eccAt i := rfl
@[simp] theorem State.eccAt_flag (s : State) (f : Fld) (i : Nat) : (s.flag f).eccAt i = s.eccAt i := rfl
@[simp] theorem State.eccAt_emit (s : State) (x : Output) (i : Nat) : (s.emit x).eccAt i = s.eccAt i := rfl
@[simp] theorem State.eccAt_setCore (s : State) (m : Nat) (c : CoreRt) (i : Nat) : (s.setCore m c).eccAt i = s.eccAt i := rfl
@[simp] theorem State.eccAt_setArray (s : State) (m b : Nat) (r : ArrRt) (i : Nat) : (s.setArray m b r).eccAt i = s.eccAt i := rfl
@[simp] theorem State.eccAt_setByte (s : State) (p : Nat) (v : Byte) (i : Nat) : (s.setByte p v).eccAt i = s.eccAt i := rfl
@[simp] theorem State.eccAt_setObject (s : State) (p : Nat) (v : Word) (i : Nat) : (s.setObject p v).eccAt i = s.eccAt i := rfl
@[simp] theorem State.eccAt_signalObj (s : State) (p : Nat) (v : Word) (i : Nat) : (s.signalObj p v).eccAt i = s.eccAt i := rfl

/-! rd reads regs. -/

@[simp] theorem State.rd_emit (s : State) (x : Output) (i : Nat) : (s.emit x).rd i = s.rd i := rfl
@[simp] theorem State.rd_setCore (s : State) (m : Nat) (c : CoreRt) (i : Nat) : (s.setCore m c).rd i = s.rd i := rfl
@[simp] theorem State.rd_setArray (s : State) (m b : Nat) (r : ArrRt) (i : Nat) : (s.setArray m b r).rd i = s.rd i := rfl
@[simp] theorem State.rd_setByte (s : State) (p : Nat) (v : Byte) (i : Nat) : (s.setByte p v).rd i = s.rd i := rfl
@[simp] theorem State.rd_setEcc (s : State) (p : Nat) (v : BitVec 72) (i : Nat) : (s.setEcc p v).rd i = s.rd i := rfl
@[simp] theorem State.rd_setObject (s : State) (p : Nat) (v : Word) (i : Nat) : (s.setObject p v).rd i = s.rd i := rfl
@[simp] theorem State.rd_signalObj (s : State) (p : Nat) (v : Word) (i : Nat) : (s.signalObj p v).rd i = s.rd i := rfl

/-! fget reads regs. -/

@[simp] theorem State.fget_emit (s : State) (x : Output) (g : Fld) : (s.emit x).fget g = s.fget g := rfl
@[simp] theorem State.fget_setCore (s : State) (m : Nat) (c : CoreRt) (g : Fld) : (s.setCore m c).fget g = s.fget g := rfl
@[simp] theorem State.fget_setArray (s : State) (m b : Nat) (r : ArrRt) (g : Fld) : (s.setArray m b r).fget g = s.fget g := rfl
@[simp] theorem State.fget_setByte (s : State) (p : Nat) (v : Byte) (g : Fld) : (s.setByte p v).fget g = s.fget g := rfl
@[simp] theorem State.fget_setEcc (s : State) (p : Nat) (v : BitVec 72) (g : Fld) : (s.setEcc p v).fget g = s.fget g := rfl
@[simp] theorem State.fget_setObject (s : State) (p : Nat) (v : Word) (g : Fld) : (s.setObject p v).fget g = s.fget g := rfl
@[simp] theorem State.fget_signalObj (s : State) (p : Nat) (v : Word) (g : Fld) : (s.signalObj p v).fget g = s.fget g := rfl

/-! fbit reads regs. -/

@[simp] theorem State.fbit_emit (s : State) (x : Output) (g : Fld) : (s.emit x).fbit g = s.fbit g := rfl
@[simp] theorem State.fbit_setCore (s : State) (m : Nat) (c : CoreRt) (g : Fld) : (s.setCore m c).fbit g = s.fbit g := rfl
@[simp] theorem State.fbit_setArray (s : State) (m b : Nat) (r : ArrRt) (g : Fld) : (s.setArray m b r).fbit g = s.fbit g := rfl
@[simp] theorem State.fbit_setByte (s : State) (p : Nat) (v : Byte) (g : Fld) : (s.setByte p v).fbit g = s.fbit g := rfl
@[simp] theorem State.fbit_setEcc (s : State) (p : Nat) (v : BitVec 72) (g : Fld) : (s.setEcc p v).fbit g = s.fbit g := rfl
@[simp] theorem State.fbit_setObject (s : State) (p : Nat) (v : Word) (g : Fld) : (s.setObject p v).fbit g = s.fbit g := rfl
@[simp] theorem State.fbit_signalObj (s : State) (p : Nat) (v : Word) (g : Fld) : (s.signalObj p v).fbit g = s.fbit g := rfl

/-! fget64 reads regs. -/

@[simp] theorem State.fget64_emit (s : State) (x : Output) (g : Fld) : (s.emit x).fget64 g = s.fget64 g := rfl
@[simp] theorem State.fget64_setCore (s : State) (m : Nat) (c : CoreRt) (g : Fld) : (s.setCore m c).fget64 g = s.fget64 g := rfl
@[simp] theorem State.fget64_setArray (s : State) (m b : Nat) (r : ArrRt) (g : Fld) : (s.setArray m b r).fget64 g = s.fget64 g := rfl
@[simp] theorem State.fget64_setByte (s : State) (p : Nat) (v : Byte) (g : Fld) : (s.setByte p v).fget64 g = s.fget64 g := rfl
@[simp] theorem State.fget64_setEcc (s : State) (p : Nat) (v : BitVec 72) (g : Fld) : (s.setEcc p v).fget64 g = s.fget64 g := rfl
@[simp] theorem State.fget64_setObject (s : State) (p : Nat) (v : Word) (g : Fld) : (s.setObject p v).fget64 g = s.fget64 g := rfl
@[simp] theorem State.fget64_signalObj (s : State) (p : Nat) (v : Word) (g : Fld) : (s.signalObj p v).fget64 g = s.fget64 g := rfl

/-! coreState reads regs. -/

@[simp] theorem State.coreState_emit (s : State) (x : Output) (n : Nat) : (s.emit x).coreState n = s.coreState n := rfl
@[simp] theorem State.coreState_setCore (s : State) (m : Nat) (c : CoreRt) (n : Nat) : (s.setCore m c).coreState n = s.coreState n := rfl
@[simp] theorem State.coreState_setArray (s : State) (m b : Nat) (r : ArrRt) (n : Nat) : (s.setArray m b r).coreState n = s.coreState n := rfl
@[simp] theorem State.coreState_setByte (s : State) (p : Nat) (v : Byte) (n : Nat) : (s.setByte p v).coreState n = s.coreState n := rfl
@[simp] theorem State.coreState_setEcc (s : State) (p : Nat) (v : BitVec 72) (n : Nat) : (s.setEcc p v).coreState n = s.coreState n := rfl
@[simp] theorem State.coreState_setObject (s : State) (p : Nat) (v : Word) (n : Nat) : (s.setObject p v).coreState n = s.coreState n := rfl
@[simp] theorem State.coreState_signalObj (s : State) (p : Nat) (v : Word) (n : Nat) : (s.signalObj p v).coreState n = s.coreState n := rfl

/-! bytes reads mem. -/

@[simp] theorem State.bytes_wr (s : State) (o : Nat) (v : Word) (i k : Nat) : (s.wr o v).bytes i k = s.bytes i k := rfl
@[simp] theorem State.bytes_fput (s : State) (f : Fld) (v : Nat) (i k : Nat) : (s.fput f v).bytes i k = s.bytes i k := rfl
@[simp] theorem State.bytes_fput64 (s : State) (f : Fld) (v : Nat) (i k : Nat) : (s.fput64 f v).bytes i k = s.bytes i k := rfl
@[simp] theorem State.bytes_fsat (s : State) (f : Fld) (v : Nat) (i k : Nat) : (s.fsat f v).bytes i k = s.bytes i k := rfl
@[simp] theorem State.bytes_flag (s : State) (f : Fld) (i k : Nat) : (s.flag f).bytes i k = s.bytes i k := rfl
@[simp] theorem State.bytes_emit (s : State) (x : Output) (i k : Nat) : (s.emit x).bytes i k = s.bytes i k := rfl
@[simp] theorem State.bytes_setCore (s : State) (m : Nat) (c : CoreRt) (i k : Nat) : (s.setCore m c).bytes i k = s.bytes i k := rfl
@[simp] theorem State.bytes_setArray (s : State) (m b : Nat) (r : ArrRt) (i k : Nat) : (s.setArray m b r).bytes i k = s.bytes i k := rfl
@[simp] theorem State.bytes_setEcc (s : State) (p : Nat) (v : BitVec 72) (i k : Nat) : (s.setEcc p v).bytes i k = s.bytes i k := rfl
@[simp] theorem State.bytes_setObject (s : State) (p : Nat) (v : Word) (i k : Nat) : (s.setObject p v).bytes i k = s.bytes i k := rfl
@[simp] theorem State.bytes_signalObj (s : State) (p : Nat) (v : Word) (i k : Nat) : (s.signalObj p v).bytes i k = s.bytes i k := rfl

/-! Arrays, flags and 64-bit pairs. -/

@[simp] theorem State.array_setArray_same (s : State) (n a : Nat) (r : ArrRt) : (s.setArray n a r).array n a = r := by
  simp [State.array, State.setArray]

theorem State.array_setArray_ne (s : State) {n a m b : Nat} (r : ArrRt) (h : 2 * m + b ≠ 2 * n + a) :
    (s.setArray n a r).array m b = s.array m b := by
  simp [State.array, State.setArray, mapGet_set_ne _ _ _ h]

/-- Two states whose register of a field agree agree on the field. -/
theorem State.fget_congr {s t : State} {f : Fld} (h : t.rd f.off = s.rd f.off) : t.fget f = s.fget f := by simp [State.fget, h]

theorem State.fbit_congr {s t : State} {f : Fld} (h : t.rd f.off = s.rd f.off) : t.fbit f = s.fbit f := by
  simp [State.fbit, State.fget_congr h]

/-- A 64-bit pair just written reads as the value written. -/
theorem State.fget64_fput64_same (s : State) (f : Fld) (v : Nat) : (s.fput64 f v).fget64 f = v % 2 ^ 64 := by
  simp only [State.fget64, State.fput64, State.rd_wr_same, State.rd_wr_ne _ _ (Nat.ne_of_lt (Nat.lt_add_of_pos_right (n := f.off) (show 0 < 4 by decide))),
    BitVec.toNat_ofNat]
  omega

theorem State.rd_fput64_ne (s : State) {f : Fld} {p : Nat} (v : Nat) (h : p ≠ f.off) (h' : p ≠ f.off + 4) :
    (s.fput64 f v).rd p = s.rd p := by
  simp [State.fput64, State.rd_wr_ne _ _ h, State.rd_wr_ne _ _ h']

/-! Reports. -/

/-- The registers that an entry of the sediment record may change: its two counts and the loss flag. -/
def sedRegs : List Nat := [0x920000, 0x920004, 0x920008, 0x92000C, 0x960004]

/-- An entry of the sediment record leaves every register but those of `sedRegs`. -/
theorem State.rd_sediment (s : State) (a b c d : Nat) {o : Nat} (h : o ∉ sedRegs) : (s.sediment' a b c d).rd o = s.rd o := by
  simp only [sedRegs, List.mem_cons, List.not_mem_nil, or_false, not_or] at h
  obtain ⟨h1, h2, h3, h4, h5⟩ := h
  unfold State.sediment'
  simp only []
  split
  · split <;> split <;>
      simp [State.rd, State.emit, State.fput64, State.fput, State.wr, mapGet_set_ne, h1, h2, h3, h4, h5, f_aocSed_value_lo,
        f_jrEvent_entries_lost]
  · split <;>
      simp [State.rd, State.fput64, State.fput, State.wr, mapGet_set_ne, h1, h2, h3, h4, h5, f_aocSed_value_lo,
        f_jrEvent_entries_lost]

theorem State.fget_sediment (s : State) (a b c d : Nat) {f : Fld} (h : f.off ∉ sedRegs) :
    (s.sediment' a b c d).fget f = s.fget f := State.fget_congr (State.rd_sediment s a b c d h)

/-- `t` differs from `s` in the sediment record, the registers and what was sent at most. -/
def State.sedOnly (s t : State) : Prop := t = { s with sediment := t.sediment, regs := t.regs, out := t.out }

theorem State.sedOnly.wr {s t : State} (h : s.sedOnly t) (o : Nat) (v : Word) : s.sedOnly (t.wr o v) := by
  unfold State.sedOnly at h ⊢
  rw [h]
  rfl

theorem State.sedOnly.fput {s t : State} (h : s.sedOnly t) (f : Fld) (v : Nat) : s.sedOnly (t.fput f v) := h.wr _ _

theorem State.sedOnly.fput64 {s t : State} (h : s.sedOnly t) (f : Fld) (v : Nat) : s.sedOnly (t.fput64 f v) := (h.wr _ _).wr _ _

theorem State.sedOnly.emit {s t : State} (h : s.sedOnly t) (o : Output) : s.sedOnly (t.emit o) := by
  unfold State.sedOnly at h ⊢
  rw [h]
  rfl

/-- An entry of the sediment record changes the record, its registers and what was sent, and nothing else. -/
theorem State.sediment_eq (s : State) (a b c d : Nat) : s.sediment' a b c d =
    { s with sediment := (s.sediment' a b c d).sediment, regs := (s.sediment' a b c d).regs, out := (s.sediment' a b c d).out } := by
  change s.sedOnly (s.sediment' a b c d)
  unfold State.sediment'
  extract_lets n e s1 s2 fl s3
  have h1 : s.sedOnly s1 := rfl
  have h3 : s.sedOnly s3 := by
    have h2 : s.sedOnly s2 := h1.fput64 _ _
    show s.sedOnly (if _ then _ else _)
    split
    · exact (h2.fput64 _ _).fput _ _
    · exact h2
  clear_value s3
  split
  · split
    · exact h3.emit _
    · exact h3
  · exact h3

@[simp] theorem State.sediment_pending (s : State) (a b c d : Nat) : (s.sediment' a b c d).pending = s.pending := by rw [State.sediment_eq]
@[simp] theorem State.sediment_mem (s : State) (a b c d : Nat) : (s.sediment' a b c d).mem = s.mem := by rw [State.sediment_eq]
@[simp] theorem State.sediment_lineTag (s : State) (a b c d : Nat) : (s.sediment' a b c d).lineTag = s.lineTag := by rw [State.sediment_eq]
@[simp] theorem State.sediment_ecc (s : State) (a b c d : Nat) : (s.sediment' a b c d).ecc = s.ecc := by rw [State.sediment_eq]
@[simp] theorem State.sediment_latches (s : State) (a b c d : Nat) : (s.sediment' a b c d).latches = s.latches := by rw [State.sediment_eq]
@[simp] theorem State.sediment_holds (s : State) (a b c d : Nat) : (s.sediment' a b c d).holds = s.holds := by rw [State.sediment_eq]
@[simp] theorem State.sediment_sync (s : State) (a b c d : Nat) : (s.sediment' a b c d).sync = s.sync := by rw [State.sediment_eq]
@[simp] theorem State.sediment_cores (s : State) (a b c d : Nat) : (s.sediment' a b c d).cores = s.cores := by rw [State.sediment_eq]
@[simp] theorem State.sediment_arrays (s : State) (a b c d : Nat) : (s.sediment' a b c d).arrays = s.arrays := by rw [State.sediment_eq]
@[simp] theorem State.sediment_ras (s : State) (a b c d : Nat) : (s.sediment' a b c d).ras = s.ras := by rw [State.sediment_eq]
@[simp] theorem State.sediment_devTime (s : State) (a b c d : Nat) : (s.sediment' a b c d).devTime = s.devTime := by rw [State.sediment_eq]
@[simp] theorem State.sediment_devFrac (s : State) (a b c d : Nat) : (s.sediment' a b c d).devFrac = s.devFrac := by rw [State.sediment_eq]
@[simp] theorem State.sediment_aonTicks (s : State) (a b c d : Nat) : (s.sediment' a b c d).aonTicks = s.aonTicks := by rw [State.sediment_eq]
@[simp] theorem State.sediment_refCount (s : State) (a b c d : Nat) : (s.sediment' a b c d).refCount = s.refCount := by rw [State.sediment_eq]
@[simp] theorem State.sediment_timeRuns (s : State) (a b c d : Nat) : (s.sediment' a b c d).timeRuns = s.timeRuns := by rw [State.sediment_eq]
@[simp] theorem State.sediment_conds (s : State) (a b c d : Nat) : (s.sediment' a b c d).conds = s.conds := by rw [State.sediment_eq]
@[simp] theorem State.sediment_abortNow (s : State) (a b c d : Nat) : (s.sediment' a b c d).abortNow = s.abortNow := by rw [State.sediment_eq]
@[simp] theorem State.sediment_jobCores (s : State) (a b c d : Nat) : (s.sediment' a b c d).jobCores = s.jobCores := by rw [State.sediment_eq]
@[simp] theorem State.sediment_slotGen (s : State) (a b c d : Nat) : (s.sediment' a b c d).slotGen = s.slotGen := by rw [State.sediment_eq]
@[simp] theorem State.sediment_ring (s : State) (a b c d : Nat) : (s.sediment' a b c d).ring = s.ring := by rw [State.sediment_eq]
@[simp] theorem State.sediment_host (s : State) (a b c d : Nat) : (s.sediment' a b c d).host = s.host := by rw [State.sediment_eq]
@[simp] theorem State.sediment_cam (s : State) (a b c d : Nat) : (s.sediment' a b c d).cam = s.cam := by rw [State.sediment_eq]
@[simp] theorem State.sediment_mc (s : State) (a b c d : Nat) : (s.sediment' a b c d).mc = s.mc := by rw [State.sediment_eq]
@[simp] theorem State.sediment_fw (s : State) (a b c d : Nat) : (s.sediment' a b c d).fw = s.fw := by rw [State.sediment_eq]
@[simp] theorem State.sediment_sc (s : State) (a b c d : Nat) : (s.sediment' a b c d).sc = s.sc := by rw [State.sediment_eq]
@[simp] theorem State.sediment_jr (s : State) (a b c d : Nat) : (s.sediment' a b c d).jr = s.jr := by rw [State.sediment_eq]
@[simp] theorem State.sediment_aoc (s : State) (a b c d : Nat) : (s.sediment' a b c d).aoc = s.aoc := by rw [State.sediment_eq]
@[simp] theorem State.sediment_clk (s : State) (a b c d : Nat) : (s.sediment' a b c d).clk = s.clk := by rw [State.sediment_eq]
@[simp] theorem State.sediment_pads (s : State) (a b c d : Nat) : (s.sediment' a b c d).pads = s.pads := by rw [State.sediment_eq]
@[simp] theorem State.sediment_jobRing (s : State) (a b c d : Nat) : (s.sediment' a b c d).jobRing = s.jobRing := by rw [State.sediment_eq]
@[simp] theorem State.sediment_evReceiver (s : State) (a b c d : Nat) : (s.sediment' a b c d).evReceiver = s.evReceiver := by rw [State.sediment_eq]
@[simp] theorem State.sediment_fenceOpen (s : State) (a b c d : Nat) : (s.sediment' a b c d).fenceOpen = s.fenceOpen := by rw [State.sediment_eq]
@[simp] theorem State.sediment_fresh (s : State) (a b c d : Nat) : (s.sediment' a b c d).fresh = s.fresh := by rw [State.sediment_eq]

/-- An event flag that is raised stands. -/
theorem State.fbit_raise (s : State) (f : Fld) (h : f.lo = f.hi) (h31 : f.hi < 32) (hs : f.off ∉ sedRegs) :
    (s.raise f).fbit f = true := by
  unfold State.raise
  split
  · assumption
  · simp only [State.fbit]
    rw [State.fget_sediment _ _ _ _ _ hs, State.fget_fput_same _ _ _ (by omega) h31]
    simp [h]

/-- Raising a flag leaves every register but the flag's own and those of its entry. -/
theorem State.rd_raise (s : State) (f : Fld) {o : Nat} (hs : o ∉ sedRegs) (h : o ≠ f.off) : (s.raise f).rd o = s.rd o := by
  unfold State.raise
  split
  · rfl
  · rw [State.rd_sediment _ _ _ _ _ hs, State.rd_fput_ne _ _ h]

theorem State.raise_eq (s : State) (f : Fld) : s.raise f =
    { s with sediment := (s.raise f).sediment, regs := (s.raise f).regs, out := (s.raise f).out } := by
  unfold State.raise
  split
  · rfl
  · conv_lhs => rw [State.sediment_eq]
    rfl

@[simp] theorem State.raise_pending (s : State) (f : Fld) : (s.raise f).pending = s.pending := by rw [State.raise_eq]
@[simp] theorem State.raise_mem (s : State) (f : Fld) : (s.raise f).mem = s.mem := by rw [State.raise_eq]
@[simp] theorem State.raise_lineTag (s : State) (f : Fld) : (s.raise f).lineTag = s.lineTag := by rw [State.raise_eq]
@[simp] theorem State.raise_ecc (s : State) (f : Fld) : (s.raise f).ecc = s.ecc := by rw [State.raise_eq]
@[simp] theorem State.raise_latches (s : State) (f : Fld) : (s.raise f).latches = s.latches := by rw [State.raise_eq]
@[simp] theorem State.raise_holds (s : State) (f : Fld) : (s.raise f).holds = s.holds := by rw [State.raise_eq]
@[simp] theorem State.raise_sync (s : State) (f : Fld) : (s.raise f).sync = s.sync := by rw [State.raise_eq]
@[simp] theorem State.raise_cores (s : State) (f : Fld) : (s.raise f).cores = s.cores := by rw [State.raise_eq]
@[simp] theorem State.raise_arrays (s : State) (f : Fld) : (s.raise f).arrays = s.arrays := by rw [State.raise_eq]
@[simp] theorem State.raise_ras (s : State) (f : Fld) : (s.raise f).ras = s.ras := by rw [State.raise_eq]
@[simp] theorem State.raise_devTime (s : State) (f : Fld) : (s.raise f).devTime = s.devTime := by rw [State.raise_eq]
@[simp] theorem State.raise_devFrac (s : State) (f : Fld) : (s.raise f).devFrac = s.devFrac := by rw [State.raise_eq]
@[simp] theorem State.raise_aonTicks (s : State) (f : Fld) : (s.raise f).aonTicks = s.aonTicks := by rw [State.raise_eq]
@[simp] theorem State.raise_refCount (s : State) (f : Fld) : (s.raise f).refCount = s.refCount := by rw [State.raise_eq]
@[simp] theorem State.raise_timeRuns (s : State) (f : Fld) : (s.raise f).timeRuns = s.timeRuns := by rw [State.raise_eq]
@[simp] theorem State.raise_conds (s : State) (f : Fld) : (s.raise f).conds = s.conds := by rw [State.raise_eq]
@[simp] theorem State.raise_abortNow (s : State) (f : Fld) : (s.raise f).abortNow = s.abortNow := by rw [State.raise_eq]
@[simp] theorem State.raise_jobCores (s : State) (f : Fld) : (s.raise f).jobCores = s.jobCores := by rw [State.raise_eq]
@[simp] theorem State.raise_slotGen (s : State) (f : Fld) : (s.raise f).slotGen = s.slotGen := by rw [State.raise_eq]
@[simp] theorem State.raise_ring (s : State) (f : Fld) : (s.raise f).ring = s.ring := by rw [State.raise_eq]
@[simp] theorem State.raise_host (s : State) (f : Fld) : (s.raise f).host = s.host := by rw [State.raise_eq]
@[simp] theorem State.raise_cam (s : State) (f : Fld) : (s.raise f).cam = s.cam := by rw [State.raise_eq]
@[simp] theorem State.raise_mc (s : State) (f : Fld) : (s.raise f).mc = s.mc := by rw [State.raise_eq]
@[simp] theorem State.raise_fw (s : State) (f : Fld) : (s.raise f).fw = s.fw := by rw [State.raise_eq]
@[simp] theorem State.raise_sc (s : State) (f : Fld) : (s.raise f).sc = s.sc := by rw [State.raise_eq]
@[simp] theorem State.raise_jr (s : State) (f : Fld) : (s.raise f).jr = s.jr := by rw [State.raise_eq]
@[simp] theorem State.raise_aoc (s : State) (f : Fld) : (s.raise f).aoc = s.aoc := by rw [State.raise_eq]
@[simp] theorem State.raise_clk (s : State) (f : Fld) : (s.raise f).clk = s.clk := by rw [State.raise_eq]
@[simp] theorem State.raise_pads (s : State) (f : Fld) : (s.raise f).pads = s.pads := by rw [State.raise_eq]
@[simp] theorem State.raise_jobRing (s : State) (f : Fld) : (s.raise f).jobRing = s.jobRing := by rw [State.raise_eq]
@[simp] theorem State.raise_evReceiver (s : State) (f : Fld) : (s.raise f).evReceiver = s.evReceiver := by rw [State.raise_eq]
@[simp] theorem State.raise_fenceOpen (s : State) (f : Fld) : (s.raise f).fenceOpen = s.fenceOpen := by rw [State.raise_eq]
@[simp] theorem State.raise_fresh (s : State) (f : Fld) : (s.raise f).fresh = s.fresh := by rw [State.raise_eq]

/-- An entry of the sediment record counts. -/
theorem State.sedCount_sediment (s : State) (a b c d : Nat) :
    (s.sediment' a b c d).fget64 (f_aocSed_value_lo 0) = (s.fget64 (f_aocSed_value_lo 0) + 1) % 2 ^ 64 := by
  have key : ∀ t : State, t.rd 0x920000 = (s.fput64 (f_aocSed_value_lo 0) (s.fget64 (f_aocSed_value_lo 0) + 1)).rd 0x920000 →
      t.rd 0x920004 = (s.fput64 (f_aocSed_value_lo 0) (s.fget64 (f_aocSed_value_lo 0) + 1)).rd 0x920004 →
      t.fget64 (f_aocSed_value_lo 0) = (s.fget64 (f_aocSed_value_lo 0) + 1) % 2 ^ 64 := by
    intro t h1 h2
    rw [← State.fget64_fput64_same s (f_aocSed_value_lo 0)]
    simp only [State.fget64, f_aocSed_value_lo] at *
    rw [h1, h2]
  apply key <;>
  · unfold State.sediment'
    simp only []
    split
    · split <;> split <;>
        simp [State.rd, State.emit, State.fput64, State.fput, State.wr, mapGet_set, f_aocSed_value_lo, f_jrEvent_entries_lost]
    · split <;>
        simp [State.rd, State.fput64, State.fput, State.wr, mapGet_set, f_aocSed_value_lo, f_jrEvent_entries_lost]

/-! Ranges cleared. -/

/-- What a byte reads as after a range is cleared. -/
theorem State.byte_clearRange (s : State) (a n i : Nat) :
    (s.clearRange a n).byte i = if a ≤ i ∧ i < a + n then 0 else s.byte i := by
  simp [State.byte, State.clearRange, mapGet_drop]

end Sys2Proof.Machine
end

