-- ==== Sys2Proof/Tests/Slice0.lean ====
section
/-! SUPPORT. The model's own tests: what an ill-formed command looks like to each check, states that meet the hypotheses of each
statement of Obligations.lean, and a few results worked out by hand from the rules. -/

namespace Sys2Proof.Tests

open Sys2Proof.Machine

set_option Elab.async false

/-! Helpers. -/

/-- A word with some fields: place of the field's low bit, and its value. -/
def wd (l : List (Nat × Nat)) : IWord := BitVec.ofNat 128 (l.foldl (fun a p => a + p.2 * 2 ^ p.1) 0)

/-- Core 0 runs, its next instruction being the second of a stream line. -/
def live : State := (State.reset.fput (f_ncStatus_state 0) 1).fput (f_ncStreamPos_position 0) 1

/-- An issue whose cycle, issuer and state meet a condition. -/
def goes (i : Issue) (q : Nat → Who → State → Bool) : Bool :=
  match i with
  | .go cyc who s1 => q cyc who s1
  | _ => false

theorem goes_iff {i : Issue} {q : Nat → Who → State → Bool} (h : goes i q = true) :
    ∃ cyc who s1, i = .go cyc who s1 ∧ q cyc who s1 = true := by
  cases i with
  | go c w s => exact ⟨c, w, s, rfl, h⟩
  | none => cases h
  | fault s => cases h

theorem some_of_any {α : Type} {x : Option α} {q : α → Bool} (h : x.any q = true) : ∃ a, x = some a ∧ q a = true := by
  cases x with
  | none => cases h
  | some a => exact ⟨a, rfl, h⟩

def okAny {α ε : Type} (x : Except ε α) (q : α → Bool) : Bool :=
  match x with
  | .ok a => q a
  | .error _ => false

theorem ok_of_any {α ε : Type} {x : Except ε α} {q : α → Bool} (h : okAny x q = true) : ∃ a, x = .ok a ∧ q a = true := by
  cases x with
  | ok a => exact ⟨a, rfl, h⟩
  | error e => cases h

/-! The queue, time and reset. -/

theorem witness_StepRunsFront : ∃ (s : State) (c : Instr) (rest : List Instr), s.pending = c :: rest :=
  ⟨{ State.reset with pending := [.seedClear 0] }, .seedClear 0, [], rfl⟩

theorem witness_IdleCycleAdvancesTime :
    (∃ s : State, s.pending = [] ∧ s.timeRuns = true) ∧ ∃ s : State, s.pending = [] ∧ s.timeRuns = false :=
  ⟨⟨State.reset, rfl, rfl⟩, ⟨{ State.reset with timeRuns := false }, rfl, rfl⟩⟩

theorem witness_StepKeepsInvariant : State.reset.Canonical ∧ State.reset.FusedTo 0 0 ∧ ∃ t, step State.reset = .next t :=
  ⟨⟨by decide +kernel, by decide +kernel, by decide +kernel, by decide +kernel⟩, ⟨by decide, by decide⟩, State.reset.tick, rfl⟩

theorem witness_SyncObjects : (∃ s : State, s.fget f_hiBoot_state = 4) ∧ ∀ n : Fin 8, (State.reset.core n.val).landings = [] :=
  ⟨⟨State.reset.fput f_hiBoot_state 4, by decide +kernel⟩, by decide +kernel⟩

/-- The clock of core 0's domain stands stopped. -/
def stoppedCore : State := live.fput (f_cruDomain_stopped 0) 1

theorem witness_UndefinedOpcodeFaults : ∃ (s : State) (n : Fin 8) (w1 w2 : IWord), s.coreState n.val = 1 ∧
    s.coreStopped n.val = false ∧ (s.core n.val).paused = false ∧ (s.core n.val).stepEndAt = none ∧ (s.core n.val).half = none ∧
    (s.routineFetch n.val).1 = true ∧ (s.core n.val).calls = [] ∧
    (s.core n.val).badLines.contains (s.pos n.val / 4) = false ∧ 8 ≤ fld w1 11 8 ∧ fld w2 11 8 < 8 ∧
    engineDefines (fld w2 11 8) (fld w2 7 0) = false :=
  ⟨live, 0, wd [(8, 9)], wd [(0, 0x77)], by decide +kernel⟩

theorem witness_IssueAndAdvance : (∃ (s : State) (n : Fin 8) (w : IWord), (s.routineFetch n.val = (true, s)) ∧
    s.coreState n.val = 1 ∧ s.coreStopped n.val = false ∧
    (s.core n.val).paused = false ∧ (s.core n.val).stepEndAt = none ∧ (s.core n.val).half = none ∧ (s.core n.val).calls = [] ∧
    (s.core n.val).badLines = [] ∧ s.pos n.val % 4 ≠ 0 ∧ fld w 11 8 < 8 ∧ engineDefines (fld w 11 8) (fld w 7 0) = true ∧
    0 < fld w 23 12 ∧ (s.core n.val).lastIssue ≤ (s.core n.val).ref) ∧
    State.reset.coreState 0 ≠ 1 ∧ stoppedCore.coreStopped 0 = true ∧
    ∃ (s : State) (n : Fin 8), (s.core n.val).reps = [] ∧ s.pos n.val + 1 < 2 ^ 32 ∧ (s.core n.val).calls = [] :=
  ⟨⟨live, 0, wd [(12, 1)], rfl, by decide +kernel⟩, by decide +kernel, by decide +kernel, ⟨live, 0, by decide +kernel⟩⟩

/-- Whether a word issues on core 0 of a state as its engine's and opcode's row, with a condition. -/
def issues (s : State) (w : IWord) (eng op : Nat) (q : State → Bool := fun _ => true) : Bool :=
  goes (s.issue 0 w eng op) fun _ _ s1 => q s1

theorem witness_BaseRegisters : issues live (wd [(12, 1)]) 0 0x00 = true ∧ issues live (wd [(0, 5), (12, 1)]) 0 0x05 = true ∧
    issues live (wd [(0, 6), (12, 1)]) 0 0x06 = true ∧
    ∃ (c : CoreRt) (k q cyc r : Nat), k ≠ cyc ∧ k ≠ c.bCycle ∧ q ≠ r :=
  ⟨by decide +kernel, by decide +kernel, by decide +kernel, CoreRt.reset, 2, 0, 1, 1, by decide⟩

/-- A repeat body with some iterations left. -/
def body (left : Nat) : RepFrame := ⟨1, 1, left, 1, 0, false, 0, 0, false, 0⟩

/-- A call frame that returns to position 2, of a routine of 4 instructions. -/
def frame : CallFrame := ⟨3, [], 2, [], 0, 0, 0, 4, 0⟩

/-- `live` with another running state of core 0. -/
def liveWith (f : CoreRt → CoreRt) : State := live.setCore 0 (f (live.core 0))

/-- `live` with some bytes in memory. -/
def liveMem (a : Nat) (d : List Byte) : State := live.setBytes a d

theorem witness_RepeatBodies :
    (∃ (c : CoreRt) (r : RepFrame), c.reps = [r] ∧ r.enA = false ∧ r.enB = false ∧ 1 < r.left) ∧
    (∃ (c : CoreRt) (r : RepFrame), c.reps = [r] ∧ r.enA = false ∧ r.enB = false ∧ r.left ≤ 1) ∧
    (∃ s : State, issues s (wd [(0, 2), (12, 1)]) 0 0x02 = true ∧ 4 ≤ (s.core 0).reps.length) ∧
    (∃ s : State, issues s (wd [(0, 2), (12, 1)]) 0 0x02 = true ∧ (s.core 0).reps.length < 4 ∧
      ¬ s.bodyTooLong 0 (fld (wd [(0, 2), (12, 1)]) 51 40 + 1)) ∧
    (∃ s : State, issues s (wd [(0, 2), (12, 1), (40, 64)]) 0 0x02 = true ∧
      s.bodyTooLong 0 (fld (wd [(0, 2), (12, 1), (40, 64)]) 51 40 + 1)) ∧
    (∃ s : State, issues s (wd [(0, 2), (12, 1), (40, 1)]) 0 0x02 = true ∧
      s.bodyTooLong 0 (fld (wd [(0, 2), (12, 1), (40, 1)]) 51 40 + 1)) ∧
    ∃ s : State, issues s (wd [(0, 2), (12, 1), (40, 7)]) 0 0x02 = true ∧ (s.core 0).calls ≠ [] ∧
      s.bodyTooLong 0 (fld (wd [(0, 2), (12, 1), (40, 7)]) 51 40 + 1) := by
  refine ⟨⟨{ CoreRt.reset with reps := [body 2] }, body 2, by decide⟩, ⟨{ CoreRt.reset with reps := [body 1] }, body 1, by decide⟩,
   ⟨liveWith fun c => { c with reps := [body 1, body 1, body 1, body 1] }, by decide +kernel⟩,
   ⟨live, by decide +kernel, by decide +kernel, ?_⟩,
   ⟨live, by decide +kernel, .inl ⟨by decide +kernel, .inl (by decide +kernel)⟩⟩,
   ⟨liveWith fun c => { c with streamLen := some 3 }, by decide +kernel, .inl ⟨rfl, .inr ⟨3, rfl, by decide +kernel⟩⟩⟩,
   ⟨liveWith fun c => { c with calls := [frame] }, by decide +kernel, by decide +kernel, .inr ⟨frame, [], rfl, .inr (by decide +kernel)⟩⟩⟩
  rintro (⟨_, h | ⟨l, hl, _⟩⟩ | ⟨f, rest, h, _⟩)
  · revert h; decide +kernel
  · cases hl
  · cases h

/-- A core that calls routine 0 reads its table entry, with a condition on the entry. -/
def readsEntry (s : State) (q : RoutineEntry → Bool) : Bool :=
  goes (s.issue 0 (wd [(0, 3), (12, 1)]) 0 0x03) fun _ _ s1 => (s1.routineRead 0 0).1.any fun d => q (routineEntry d)

theorem witness_Calls :
    (∃ s : State, issues s (wd [(0, 3), (12, 1), (34, 1)]) 0 0x03 = true ∧ fld (wd [(0, 3), (12, 1), (34, 1)]) 35 34 ≠ 0) ∧
    (∃ s : State, issues s (wd [(0, 3), (12, 1)]) 0 0x03 = true ∧ 4 ≤ (s.core 0).calls.length) ∧
    (∃ s : State, readsEntry s (fun e => !e.valid) = true ∧ (s.core 0).calls.length < 4) ∧
    (∃ s : State, readsEntry s (fun e => e.valid) = true ∧ (s.core 0).calls.length < 4) ∧
    (∃ s : State, issues s (wd [(0, 3), (12, 1)]) 0 0x03 (fun s1 => (s1.routineRead 0 0).1.isNone) = true ∧
      (s.core 0).calls.length < 4) ∧
    (∃ s : State, issues s (wd [(0, 4), (12, 1)]) 0 0x04 = true ∧ (s.core 0).calls = []) ∧
    (∃ s : State, issues s (wd [(0, 4), (12, 1)]) 0 0x04 = true ∧ (s.core 0).calls = [frame]) :=
  ⟨⟨live, by decide +kernel⟩, ⟨liveWith fun c => { c with calls := [frame, frame, frame, frame] }, by decide +kernel⟩,
   ⟨live, by decide +kernel⟩, ⟨liveMem (rsAddr 0 0) [0, 0, 0, 0x80], by decide +kernel⟩,
   ⟨live.setEcc (rsAddr 0 0) 3, by decide +kernel⟩, ⟨live, by decide +kernel⟩,
   ⟨liveWith fun c => { c with calls := [frame] }, by decide +kernel⟩⟩

theorem witness_StepBoundaries :
    issues live (wd [(0, 1), (12, 1), (24, 5)]) 0 0x01 = true ∧ fld (wd [(0, 1), (12, 1), (24, 5)]) 55 24 ≠ live.fget (f_ncStep_step 0) ∧
    fld (wd [(0, 1), (12, 1)]) 55 24 = live.fget (f_ncStep_step 0) ∧ (live.core 0).calls = [] ∧ (live.core 0).reps = [] ∧
    goes (live.issue 0 (wd [(0, 1), (12, 1)]) 0 0x01) (fun cyc _ s1 => (s1.core 0).queue.isEmpty &&
      (s1.array 0 0).streamed.isNone && (s1.array 0 1).streamed.isNone && !(s1.core 0).gens.any (fun g => g.2.bound) &&
      s1.idleCycle 0 ≤ cyc) = true ∧
    goes ((liveWith fun c => { c with ve := ⟨9, 0, 9⟩ }).issue 0 (wd [(0, 1), (12, 1)]) 0 0x01) (fun cyc _ s1 =>
      (s1.core 0).queue.isEmpty && (s1.array 0 0).streamed.isNone && (s1.array 0 1).streamed.isNone &&
      !(s1.core 0).gens.any (fun g => g.2.bound) && cyc < s1.idleCycle 0) = true ∧
    issues (liveWith fun c => setGen c 1 { GenState.reset with bound := true }) (wd [(0, 1), (12, 1)]) 0 0x01
      (fun s1 => (s1.core 0).gens.any (fun g => g.2.bound)) = true ∧
    (live.core 0).tgPending = false ∧ live.fget (f_ncBoundaryCredit_credit 0) = 0 ∧
    (live.fput (f_ncBoundaryCredit_credit 0) 2).fget (f_ncBoundaryCredit_credit 0) ≠ 0 ∧
    ((live.fput (f_ncBoundaryCredit_credit 0) 2).core 0).tgPending = false ∧
    ((live.fput (f_ncBoundaryCredit_credit 0) 2).core 0).reps = [] := by decide +kernel

/-- REGION_SET: region, operand, slots less one, lines less one. -/
def regionWord (r : Nat) (f : Nat) (extra : List (Nat × Nat) := []) : IWord := wd ([(0, 7), (12, 1), (24, r), (30, f)] ++ extra)

theorem witness_RegionSet :
    (issues live (regionWord 1 0x40) 0 0x07 = true ∧ operand (live.core 0) 1 (fld (regionWord 1 0x40) 45 30) = .region 0 1 false) ∧
    (issues live (regionWord 63 0x8000) 0 0x07 = true ∧ operand (live.core 0) 1 (fld (regionWord 63 0x8000) 45 30) = .addr 0 ∧
      fld (regionWord 63 0x8000) 29 24 = 63) ∧
    (issues (liveWith fun c => setBreg c 0 0 8) (regionWord 1 0x8000) 0 0x07 = true ∧
      operand ((liveWith fun c => setBreg c 0 0 8).core 0) 1 (fld (regionWord 1 0x8000) 45 30) = .addr 8 ∧
      fld (regionWord 1 0x8000) 29 24 ≠ 63) ∧
    (issues live (regionWord 1 0x8000 [(46, 63), (52, 4095)]) 0 0x07 = true ∧ regionFits 0 64 4096 = false ∧
      fld (regionWord 1 0x8000 [(46, 63), (52, 4095)]) 51 46 + 1 = 64 ∧
      fld (regionWord 1 0x8000 [(46, 63), (52, 4095)]) 63 52 + 1 = 4096) ∧
    (issues live (regionWord 1 0x8000) 0 0x07 = true ∧
      operand (live.core 0) 1 (fld (regionWord 1 0x8000) 45 30) = .addr 0 ∧ regionFits 0 1 1 = true) := by decide +kernel

/-- Whether ASP_LOAD of generator 0 from the scratchpad's address 0 issues on core 0 with a condition on its issue cycle, the
state after it and what the descriptor's line holds. -/
def loadsGen (s : State) (q : Nat → State → Option GenState → Bool) : Bool :=
  goes (s.issue 0 (wd [(0, 8), (12, 1), (28, 0x8000)]) 0 0x08) fun cyc who s1 =>
    addrOnly (operand (s.core 0) cyc 0x8000) 64 == some 0 && q cyc s1 (parseGen (s1.sRead who (cyc + 1) 0 rankDesc).1)

/-- `live` with another state of generator 0. -/
def liveGen (f : GenState → GenState) : State := liveWith fun c => setGen c 0 (f GenState.reset)

theorem witness_AspLoad :
    (issues live (wd [(0, 8), (12, 1), (28, 0x40)]) 0 0x08 = true ∧ addrOnly (operand (live.core 0) 1 0x40) 64 = none) ∧
    loadsGen (liveMem (spAddr 0 0) [3]) (fun cyc s1 g => g.isNone && (getGen (s1.core 0) 0).handover ≤ cyc &&
      (s1.core 0).genLoads.isEmpty) = true ∧
    loadsGen live (fun cyc s1 g => g.isSome && (getGen (s1.core 0) 0).handover ≤ cyc && (s1.core 0).genLoads.isEmpty &&
      !(getGen (s1.core 0) 0).bound && (getGen (s1.core 0) 0).freed ≤ cyc) = true ∧
    loadsGen (liveGen fun x => { x with freed := 9 }) (fun cyc s1 g => g.isSome && (getGen (s1.core 0) 0).handover ≤ cyc &&
      (s1.core 0).genLoads.isEmpty && !(getGen (s1.core 0) 0).bound && cyc < (getGen (s1.core 0) 0).freed) = true ∧
    loadsGen (liveGen fun x => { x with bound := true }) (fun cyc s1 g => g.isSome && (getGen (s1.core 0) 0).handover ≤ cyc &&
      (s1.core 0).genLoads.isEmpty && (getGen (s1.core 0) 0).bound) = true := by decide +kernel

theorem witness_ProfilesAndTables :
    (∀ a : Fin 2, (goes (live.issue 0 (wd [(0, 1), (8, 1 + a.val), (12, 1), (28, 0x8000)]) (1 + a.val) 0x01) (fun cyc _ _ =>
        addrOnly (operand (live.core 0) cyc 0x8000) 32 == some 0) = true ∧
      goes (live.issue 0 (wd [(0, 1), (8, 1 + a.val), (12, 1), (28, 0x40)]) (1 + a.val) 0x01) (fun cyc _ _ =>
        addrOnly (operand (live.core 0) cyc 0x40) 32 == none) = true)) ∧
    (∀ a : Fin 2, (goes (live.issue 0 (wd [(0, 2), (8, 1 + a.val), (12, 1), (26, 3), (28, 0x8000)]) (1 + a.val) 0x02) (fun cyc _ _ =>
        addrOnly (operand (live.core 0) cyc 0x8000) 2112 == some 0) = true ∧
      issues live (wd [(0, 2), (8, 1 + a.val), (12, 1), (28, 0x8000)]) (1 + a.val) 0x02 = true ∧
      fld (wd [(0, 2), (8, 1 + a.val), (12, 1), (28, 0x8000)]) 27 26 = 0)) ∧
    goes (live.issue 0 (wd [(0, 9), (8, 3), (12, 1), (48, 0x8000)]) 3 0x09) (fun cyc _ _ =>
      addrOnly (operand (live.core 0) cyc 0x8000) 2112 == some 0 && (live.core 0).veTabUse.isEmpty) = true ∧
    goes (live.issue 0 (wd [(0, 9), (8, 3), (12, 1), (48, 0x40)]) 3 0x09) (fun cyc _ _ =>
      addrOnly (operand (live.core 0) cyc 0x40) 2112 == none) = true := by decide +kernel

/-- PASS on an array: weights from address 0, activations from region 0, outputs to region 1. -/
def passWord (a : Nat) (extra : List (Nat × Nat)) : IWord :=
  wd ([(8, 1 + a), (12, 1), (24, 1), (52, 0x8000), (84, 1)] ++ extra)

/-- The second half of a pair, on its partner's cycle. -/
def partnerWord (a : Nat) (extra : List (Nat × Nat) := []) : IWord :=
  wd ([(8, 1 + a), (24, 1), (26, 1), (48, 1 - a), (52, 0x8000), (84, 1)] ++ extra)

/-- A streamed pass of one vector from the horizon buffer. -/
def streamedPass : PassInst := ⟨false, false, false, some (0x7F00, 1), 0, 1, 0, 0x8000, 0, 1, 0, 0, 1, none, 0, 0, [], [], 0, []⟩

/-- The first half of a pair, as the word of its array parses. -/
def halfPass (a : Nat) : PassInst :=
  match live.parsePass 0 a 0 (partnerWord a) 0 [] with
  | .ok p => p
  | .error _ => streamedPass

/-- `live` with the first half of a pair issued on an array. -/
def liveHalf (a : Nat) : State := liveWith fun c => { c with half := some (a, halfPass a) }

/-- `live` with a streamed pass running on an array. -/
def liveStreamed (a : Nat) : State := live.setArray 0 a { ArrRt.reset with streamed := some streamedPass }

theorem witness_PassCompletes : ∀ a : Fin 2,
    fld (passWord a.val []) 11 8 = 1 + a.val ∧ (live.core 0).half = none ∧
    goes (live.issue 0 (passWord a.val []) (1 + a.val) 0x00) (fun cyc who s1 =>
      okAny (live.parsePass 0 a.val cyc (passWord a.val []) (live.pos 0) []) (fun p => !p.paired) &&
        (((s1.earlyIssue 0 a.val cyc who).advance 0).array 0 a.val).streamed.isNone) = true ∧
    goes ((liveStreamed a.val).issue 0 (passWord a.val []) (1 + a.val) 0x00) (fun cyc who s1 =>
      okAny ((liveStreamed a.val).parsePass 0 a.val cyc (passWord a.val []) (live.pos 0) []) (fun p => !p.paired) &&
        (((s1.earlyIssue 0 a.val cyc who).advance 0).array 0 a.val).streamed.isSome) = true ∧
    goes (live.issue 0 (passWord a.val [(26, 1), (48, 1 - a.val)]) (1 + a.val) 0x00) (fun cyc _ _ =>
      okAny (live.parsePass 0 a.val cyc (passWord a.val [(26, 1), (48, 1 - a.val)]) (live.pos 0) []) (fun p => p.paired)) = true ∧
    goes (live.issue 0 (passWord a.val [(49, 1)]) (1 + a.val) 0x00) (fun cyc _ _ =>
      !okAny (live.parsePass 0 a.val cyc (passWord a.val [(49, 1)]) (live.pos 0) []) (fun _ => true)) = true := by decide +kernel

theorem witness_PassCompletes_pairs : ∀ a : Fin 2,
    ((liveHalf (1 - a.val)).core 0).half = some (1 - a.val, halfPass (1 - a.val)) ∧
    goes ((liveHalf (1 - a.val)).issue 0 (partnerWord a.val) (1 + a.val) 0x00) (fun cyc _ _ =>
      okAny ((liveHalf (1 - a.val)).parsePass 0 a.val cyc (partnerWord a.val) (live.pos 0) []) (fun p =>
        bits (halfPass (1 - a.val)).act 15 0 == bits p.act 15 0 && (halfPass (1 - a.val)).vectors == p.vectors &&
          (halfPass (1 - a.val)).trans == p.trans)) = true ∧
    ((liveHalf (1 - a.val)).array 0 0).streamed = none ∧ ((liveHalf (1 - a.val)).array 0 1).streamed = none ∧
    goes ((liveHalf (1 - a.val)).issue 0 (partnerWord a.val [(32, 1)]) (1 + a.val) 0x00) (fun cyc _ _ =>
      okAny ((liveHalf (1 - a.val)).parsePass 0 a.val cyc (partnerWord a.val [(32, 1)]) (live.pos 0) []) (fun p =>
        (halfPass (1 - a.val)).vectors != p.vectors)) = true ∧
    goes (((liveHalf (1 - a.val)).setArray 0 0 { ArrRt.reset with streamed := some streamedPass }).issue 0 (partnerWord a.val)
      (1 + a.val) 0x00) (fun _ _ _ => true) = true := by decide +kernel

/-- A sync instruction on object index `i`. -/
def syncWord (op i : Nat) (extra : List (Nat × Nat)) : IWord := wd ([(0, op), (8, 5), (12, 1), (24, i)] ++ extra)

theorem witness_SyncInstructions :
    (∀ op : Fin 3, issues live (syncWord op.val 0 []) 5 op.val = true ∧ live.syncIndex 0 0 = none ∧
      issues live (syncWord op.val 0x7F00 []) 5 op.val (fun s1 => !s1.coreFailed 0) = true ∧
      live.syncIndex 0 0x7F00 = some 0x7F00 ∧ bit (syncWord op.val 0x7F00 []).toNat 39 = false ∧
      bit (syncWord op.val 0x7F00 []).toNat 84 = false ∧ syncGrowth (syncWord op.val 0x7F00 []) = false ∧
      issues live (syncWord op.val 0 [(44, 1)]) 5 op.val = true ∧ syncGrowth (syncWord op.val 0 [(44, 1)]) = true ∧
      issues live (syncWord op.val 0 [(39, 1)]) 5 op.val (fun s1 => !s1.coreFailed 0) = true ∧
      syncGrowth (syncWord op.val 0 [(39, 1)]) = false ∧ bit (syncWord op.val 0 [(39, 1)]).toNat 39 = true) ∧
    issues (live.fput f_rasFailed_cores 1) (syncWord 0 0 [(39, 1)]) 5 0 (fun s1 => s1.coreFailed 0) = true ∧
    issues (liveWith fun c => { c with calls := [frame] }) (syncWord 1 0x7F00 []) 5 1 = true ∧
    goes (live.issue 0 (syncWord 1 0x7F00 []) 5 1) (fun cyc _ s1 => reached (s1.objSeen 0 0x7F00 cyc) 0) = true ∧
    goes (live.issue 0 (syncWord 1 0x7F00 [(48, 1)]) 5 1) (fun cyc _ s1 => !reached (s1.objSeen 0 0x7F00 cyc) 1) = true ∧
    live.coreStopped 0 = false ∧
    (∃ s : State, (s.core 0).waiting = some (0x7F00, 0, 5, false) ∧ reached (s.objSeen 0 0x7F00 (5 + max 1 3)) 0 = true) ∧
    (∃ s : State, (s.core 0).waiting = some (0x7F00, 1, 5, false) ∧ s.fget (f_ncWaitLimit_limit_us 0) ≠ 0 ∧ reached (s.obj 0x7F00) 1 = false ∧
      reached (s.objSeen 0 0x7F00 (5 + max 1 3)) 1 = false) ∧
    ∃ s : State, (s.core 0).waiting = some (0x7F00, 1, 5, true) :=
  ⟨by decide +kernel, by decide +kernel, by decide +kernel, by decide +kernel, by decide +kernel, by decide +kernel,
   ⟨liveWith fun c => { c with waiting := some (0x7F00, 0, 5, false) }, by decide +kernel⟩,
   ⟨liveWith fun c => { c with waiting := some (0x7F00, 1, 5, false) }, by decide +kernel⟩,
   ⟨liveWith fun c => { c with waiting := some (0x7F00, 1, 5, true) }, by decide +kernel⟩⟩

/-- A mover descriptor of 64 B: from the scratchpad's address 0 to the horizon buffer's address 0. -/
def descriptor : List Byte :=
  (leBytes 2 0 ++ leBytes 2 0x8000 ++ zeros 12) ++ (leBytes 4 1 ++ leBytes 6 (hbAddr 0) ++ zeros 6) ++ leBytes 4 64 ++ zeros 28

/-- A transfer of 64 B from the scratchpad to the horizon buffer. -/
def transfer : Transfer := ⟨.sp 0, .hb 0, 64, 1, 1, 0, 0, 0, 0, 0, false, false, none, true, 0, [], 1, none, 0, 0⟩

/-- MOVE of the descriptor at the scratchpad's address 0. -/
def moveWord (extra : List (Nat × Nat)) : IWord := wd ([(8, 4), (12, 1), (24, 0x8000)] ++ extra)

theorem witness_MoveQueues :
    goes ((liveMem (spAddr 0 0) descriptor).issue 0 (moveWord []) 4 0x00) (fun cyc who s1 =>
      addrOnly (operand ((liveMem (spAddr 0 0) descriptor).core 0) cyc 0x8000) 64 == some 0 &&
      okAny ((s1.sRead who (cyc + 1) 0 rankDesc).2.parseMove 0 cyc (s1.sRead who (cyc + 1) 0 rankDesc).1) fun _ => true) = true ∧
    goes (live.issue 0 (moveWord []) 4 0x00) (fun cyc who s1 =>
      addrOnly (operand (live.core 0) cyc 0x8000) 64 == some 0 &&
      !okAny ((s1.sRead who (cyc + 1) 0 rankDesc).2.parseMove 0 cyc (s1.sRead who (cyc + 1) 0 rankDesc).1) fun _ => true) = true ∧
    (issues live (wd [(8, 4), (12, 1), (24, 0x40)]) 4 0x00 = true ∧ addrOnly (operand (live.core 0) 1 0x40) 64 = none) ∧
    (issues live (moveWord [(63, 1)]) 4 0x00 = true ∧ bit (moveWord [(63, 1)]).toNat 63 = true ∧ fld (moveWord [(63, 1)]) 62 55 = 0) ∧
    (issues live (moveWord [(63, 1), (55, 2)]) 4 0x00 = true ∧ fld (moveWord [(63, 1), (55, 2)]) 62 55 ≠ 0 ∧
      live.syncIndex 0 (fld (moveWord [(63, 1), (55, 2)]) 54 40) = none) ∧
    (issues live (moveWord [(63, 1), (55, 2), (40, 0x7F00)]) 4 0x00 = true ∧
      live.syncIndex 0 (fld (moveWord [(63, 1), (55, 2), (40, 0x7F00)]) 54 40) = some 0x7F00) ∧
    ∃ (s : State) (t : Transfer), issues s (moveWord []) 4 0x00 = true ∧ (s.core 0).queue = List.replicate 64 t ∧
      64 ≤ (s.core 0).queue.length :=
  ⟨by decide +kernel, by decide +kernel, by decide +kernel, by decide +kernel, by decide +kernel, by decide +kernel,
   liveWith (fun c => { c with queue := List.replicate 64 transfer }), transfer, by decide +kernel⟩

/-! The vector engine, the grit generator and the sampling unit. -/

/-- A vector instruction of one FP16 element a vector: sources at addresses 0 and 1024, destination at address 2048. -/
def vecWord (op : Nat) (extra : List (Nat × Nat)) : IWord :=
  wd ([(0, op), (8, 3), (12, 1), (48, 0x8000), (64, 0x8100), (80, 0x8200), (112, 0x888)] ++ extra)

/-- Whether a vector word issues on core 0 of a state with a condition on its operands and its issue cycle. -/
def vecGoes (s : State) (w : IWord) (q : Nat → VInst → Option (VOpd × Option VOpd × VOpd) → Bool) : Bool :=
  goes (s.issue 0 w 3 (fld w 7 0)) fun cyc _ _ => q cyc (parseVec w) (s.vecOpds 0 cyc w)

/-- Whether a second source is an address operand. -/
def addressB : VOpd × Option VOpd × VOpd → Bool
  | (_, some ⟨_, .addr _, _⟩, _) => true
  | _ => false

theorem witness_VectorRowsComplete :
    (vectorRows.all fun r => (parseVec (vecWord r.1 [])).op == r.1 && vecGoes live (vecWord r.1 []) fun _ v o =>
      v.fmtsOk && o.isSome) = true ∧
    (vectorRows.all fun r => let w := wd [(0, r.1), (8, 3), (12, 1)]
      issues live w 3 r.1 && (parseVec w).op == r.1 && !(parseVec w).fmtsOk) = true ∧
    (vectorRows.all fun r => let w := wd [(0, r.1), (8, 3), (12, 1), (48, 0x8000), (64, 0x8100), (80, 0x40), (112, 0x888)]
      (parseVec w).op == r.1 && vecGoes live w fun _ v o => v.fmtsOk && o.isNone) = true ∧
    vecGoes live (vecWord 0x13 []) (fun _ _ o => o.any addressB) = true ∧
    vecGoes (live.fput (f_tgRegionCfg_slot_lines_m1 0 0) 63)
      (wd [(0, 0x13), (8, 3), (12, 1), (48, 0x8000), (64, 0), (80, 0x8200), (112, 0x888)]) (fun _ v o =>
        v.fmtsOk && o.any fun p => !addressB p) = true ∧
    vecGoes live (wd [(0, 0x24), (8, 3), (12, 1), (48, 0x40), (64, 0x8100), (80, 0x8200), (112, 0x888)]) (fun _ v o =>
      v.fmtsOk && o.any (·.1.generated)) = true ∧
    vecGoes live (vecWord 0x24 []) (fun _ v o => v.fmtsOk && o.any (!·.1.generated)) = true := by decide +kernel

/-- PATCH, TO_PIXEL and TO_PLANAR of 8-bit words whose first operand field and destination field are as given. -/
def layoutWord (op src dst aux fmts : Nat) : IWord :=
  wd [(0, op), (8, 3), (12, 1), (48, src), (80, dst), (96, aux), (112, fmts)]

theorem witness_PatchRow :
    (let w := layoutWord 0x20 0x40 0x8200 7 0x888
     goes (live.issue 0 w 3 0x20) fun cyc _ _ => (parseVec w).fmtsOk && operand (live.core 0) cyc (fld w 63 48) == .region 0 1 false &&
       readRegionOk (.region 0 1 false) &&
       (live.vOpd 0 cyc (fld w 95 80) (vecLines (parseVec w).fd 256 (parseVec w).sd) (parseVec w).count true).isSome &&
       (⟨fld w 63 48, .region 0 1 false, live.slotLines 0 0⟩ : VOpd).generated &&
       decide (vecLines (parseVec w).fa ((parseVec w).aux % 256 + 1) (parseVec w).sa ≤ live.slotLines 0 0)) = true ∧
    (let w := layoutWord 0x20 0x8000 0x8200 7 0x888
     goes (live.issue 0 w 3 0x20) fun cyc _ _ => (parseVec w).fmtsOk && operand (live.core 0) cyc (fld w 63 48) == .addr 0 &&
       !(⟨fld w 63 48, .addr 0, 0⟩ : VOpd).generated) = true ∧
    (let w := layoutWord 0x20 0x40 0x8200 7 0
     issues live w 3 0x20 && !(parseVec w).fmtsOk) = true := by decide +kernel

theorem witness_LayoutRows :
    (let w := layoutWord 0x21 0x8000 0x8200 2 0x888
     goes (live.issue 0 w 3 0x21) fun cyc _ _ => (parseVec w).fmtsOk && operand (live.core 0) cyc (fld w 63 48) == .addr 0 &&
       (live.vOpd 0 cyc (fld w 95 80) (vecLines (parseVec w).fd ((parseVec w).aux + 1) (parseVec w).sd) (parseVec w).count true).isSome &&
       planesOk 0 (breg (live.core 0) cyc (bits (parseVec w).aux2 15 12)) (parseVec w).fa (parseVec w).count ((parseVec w).aux + 1)) = true ∧
    (let w := layoutWord 0x21 0x8000 0x40 2 0x888
     goes (live.issue 0 w 3 0x21) fun cyc _ _ => (parseVec w).fmtsOk &&
       (live.vOpd 0 cyc (fld w 95 80) (vecLines (parseVec w).fd ((parseVec w).aux + 1) (parseVec w).sd) (parseVec w).count true).isNone) = true ∧
    (let w := layoutWord 0x22 0x8000 0x8200 2 0x888
     goes (live.issue 0 w 3 0x22) fun cyc _ _ => (parseVec w).fmtsOk && operand (live.core 0) cyc (fld w 95 80) == .addr 0x800 &&
       (live.vOpd 0 cyc (fld w 63 48) (vecLines (parseVec w).fa ((parseVec w).aux + 1) (parseVec w).sa) (parseVec w).count false).isSome &&
       planesOk 0x800 (breg (live.core 0) cyc (bits (parseVec w).aux2 15 12)) (parseVec w).fd (parseVec w).count ((parseVec w).aux + 1)) = true ∧
    (let w := layoutWord 0x22 0x8000 0 2 0x888
     goes (live.issue 0 w 3 0x22) fun cyc _ _ => (parseVec w).fmtsOk && operand (live.core 0) cyc (fld w 95 80) == .region 0 0 false) = true ∧
    ([0x21, 0x22].all fun op => issues live (layoutWord op 0x8000 0x8200 2 0) 3 op && !(parseVec (layoutWord op 0x8000 0x8200 2 0)).fmtsOk) =
      true := by decide +kernel

/-- SAMPLE in a format, with its logits, parameters and records at the given operand fields. -/
def sampleWord (fmt a : Nat) : IWord :=
  wd [(0, 1), (8, 6), (12, 1), (28, fmt), (48, a), (64, 0x8100), (80, 0x8200), (112, 9)]

theorem witness_GritAndSampleComplete :
    (gritRows.all fun r => let w := wd [(0, r.1), (8, 7), (12, 1), (32, 9), (80, 0x8000)]
      goes (live.issue 0 w 7 r.1) fun cyc _ _ =>
        (live.vOpd 0 cyc (fld w 95 80) (eltLines (grShape r.1).1 (fld w 47 32 + 1)) 1 true).isSome) = true ∧
    (gritRows.all fun r => let w := wd [(0, r.1), (8, 7), (12, 1), (32, 9), (80, 0x40)]
      goes (live.issue 0 w 7 r.1) fun cyc _ _ =>
        (live.vOpd 0 cyc (fld w 95 80) (eltLines (grShape r.1).1 (fld w 47 32 + 1)) 1 true).isNone) = true ∧
    ([8, 9, 10].all fun k => let w := sampleWord k 0x8000
     goes (live.issue 0 w 6 0x01) fun cyc _ _ => fld w 31 28 == k &&
       (live.vOpd 0 cyc (fld w 63 48) (eltLines (fld w 31 28) (fld w 127 112 + 65536 * fld w 25 24 + 1)) (fld w 47 32 + 1) false).isSome &&
       (live.vOpd 0 cyc (fld w 79 64) 1 (fld w 47 32 + 1) false).isSome &&
       (live.vOpd 0 cyc (fld w 95 80) 1 (fld w 47 32 + 1) true).isSome) = true ∧
    (let w := sampleWord 8 0x63F
     goes (live.issue 0 w 6 0x01) fun cyc _ _ =>
       (live.vOpd 0 cyc (fld w 63 48) (eltLines (fld w 31 28) (fld w 127 112 + 65536 * fld w 25 24 + 1)) (fld w 47 32 + 1) false).isNone) = true ∧
    issues live (sampleWord 7 0x8000) 6 0x01 = true := by decide +kernel

/-! Core control, engines and their counters. -/

/-- A state with core 0 in a state of NC_STATUS. -/
def coreAt (k : Nat) : State := State.reset.fput (f_ncStatus_state 0) k

theorem witness_CoreControl : State.reset.coreState 0 = 0 ∧ (coreAt 3).coreState 0 = 3 ∧ (coreAt 1).coreState 0 ≠ 0 ∧
    (coreAt 1).coreState 0 ≠ 3 ∧ (coreAt 5).coreState 0 = 5 ∧ (coreAt 5).coreStopped 0 = false ∧ stoppedCore.coreStopped 0 = true ∧
    State.reset.fbit (f_pgCorePwr_on 0) = true ∧ (State.reset.fput (f_pgCorePwr_on 0) 0).fbit (f_pgCorePwr_on 0) = false ∧
    (State.reset.fput (f_pgCorePwr_on 0) 0).coreState 0 = 0 := by decide +kernel

theorem witness_ClearsAndScrubs : State.reset.arrayBusy 0 0 = false ∧
    ((coreAt 1).setArray 0 0 { ArrRt.reset with idleAt := 10 }).arrayBusy 0 0 = true ∧
    ((State.reset.fput (f_maStatus_clearing 0 0) 1).fbit (f_maStatus_clearing 0 0) = true ∧
      (State.reset.fput (f_maStatus_clearing 0 0) 1).coreStopped 0 = false) ∧
    (State.reset.halted 0 = true ∧ (State.reset.core 0).scrubbing = false) ∧ (coreAt 1).halted 0 = false ∧
    (∃ s : State, (s.core 0).scrubbing = true ∧ s.halted 0 = true ∧ s.coreStopped 0 = false) ∧ State.reset.fbit f_hbScrub_start = false ∧
    ((State.reset.fput f_hbScrub_start 1).fbit f_hbScrub_start = true ∧ (State.reset.fput f_hbScrub_start 1).stopped 4 = false) ∧
    (State.reset.fput (f_cruDomain_stopped 4) 1).stopped 4 = true := by
  refine ⟨by decide +kernel, by decide +kernel, by decide +kernel, by decide +kernel, by decide +kernel, ?_, by decide +kernel,
    by decide +kernel, by decide +kernel⟩
  exact ⟨State.reset.setCore 0 { CoreRt.reset with scrubbing := true }, by decide +kernel⟩

theorem witness_LogInjectAndGritKey : State.reset.halted 0 = true ∧ (coreAt 1).halted 0 = false := by decide +kernel

/-- A transfer of 64 B into a peer window. -/
def ringTransfer : Transfer := { transfer with dst := .ring 1 0 }

theorem witness_TransfersEnd :
    (∃ s : State, s.activeAt 0 0 = some transfer ∧ transfer.dst.isRing = false ∧
      (s.moveRuns 0 transfer (zeros 64) (List.range transfer.shape.runs)).1 = none ∧
      (s.moveRuns 0 transfer (zeros 64) (List.range (min 0 (transfer.shape.runs - 1)))).1 = none) ∧
    State.reset.activeAt 0 0 = none ∧ (∃ s : State, s.activeAt 0 0 = some ringTransfer ∧ ringTransfer.dst.isRing = true) ∧
    (∃ s : State, s.activeAt 0 0 = some transfer ∧ (s.moveRuns 0 transfer (zeros 64) (List.range transfer.shape.runs)).1.isSome = true) := by
  refine ⟨⟨liveWith fun c => { c with queue := [transfer] }, by decide +kernel⟩, by decide +kernel,
    ⟨liveWith fun c => { c with queue := [ringTransfer] }, by decide +kernel⟩,
    ⟨(liveWith fun c => { c with queue := [transfer] }).setEcc (spAddr 0 0) 3, by decide +kernel⟩⟩

theorem witness_AsynchronousEnds :
    (∃ (s : State) (p : PassInst), (s.array 0 0).streamed = some p ∧ s.coreStopped 0 = false ∧ s.stopped 4 = false ∧
      (s.streamRun (s.streamLane 0 0 p) (s.streamEnd 0 0 0 p.vectors p) false (List.range p.vectors)).1 = false ∧
      s.streamStart 0 0 + s.streamLimit 0 0 ≤ s.streamEnd 0 0 0x1000000 (min 0 (p.vectors - 1)) p ∧
      (s.streamRun (s.streamLane 0 0 p) (s.streamEnd 0 0 0x1000000 (min 0 (p.vectors - 1)) p) false
        (List.range (min 0 (p.vectors - 1)))).1 = false) ∧
    (State.reset.array 0 0).streamed = none ∧
    (∃ s : State, (s.core 0).writebacks.contains 7 = true ∧ s.coreStopped 0 = false) ∧
    (State.reset.core 0).writebacks.contains 7 = false ∧ (State.reset.coreFailed 0 = false) ∧
    ∃ (t : Transfer) (o : Nat) (inc : Word), t.done = some (o, inc) := by
  refine ⟨⟨liveStreamed 0, streamedPass, by decide +kernel⟩, by decide +kernel,
    ⟨State.reset.setCore 0 { CoreRt.reset with writebacks := [7] }, by decide +kernel⟩, by decide +kernel, by decide +kernel,
    { transfer with done := some (0x7F00, 1) }, 0x7F00, 1, rfl⟩

theorem witness_SecdedCorrectsSingleErrors :
    (0 % 64 = 0 ∧ ∀ w : Fin 8, State.reset.eccAt (0 + 8 * w.val) = 0 ∨ ∃ i : Fin 72,
      State.reset.eccAt (0 + 8 * w.val) = BitVec.ofNat 72 (2 ^ i.val)) ∧
    ∀ w : Fin 8, (State.reset.setEcc 8 (BitVec.ofNat 72 (2 ^ 70))).eccAt (0 + 8 * w.val) = 0 ∨ ∃ i : Fin 72,
      (State.reset.setEcc 8 (BitVec.ofNat 72 (2 ^ 70))).eccAt (0 + 8 * w.val) = BitVec.ofNat 72 (2 ^ i.val) := by decide +kernel

/-! The ring. -/

/-- A frame without payload. -/
def frameOf (l : List (Nat × Nat)) : RFrame := ⟨wd l, none, [], []⟩

/-- A good frame on port N. -/
def received (l : List (Nat × Nat)) : RingRx := ⟨0, BitVec.ofNat 32 (frameCrc (frameOf l)), false, frameOf l⟩

/-- Port N is up, and the device is a member of the ring (R333). -/
def onRing : State := (State.reset.setPortState 0 2).fput f_ciStatus_ring_state 1

/-- A device that takes part in the ring accepts a frame on a port that is up. -/
def takes (s : State) (rx : RingRx) : Bool :=
  s.portState rx.port.val == 2 && !s.rxHeld rx.frame && !(s.port rx.port.val).discarding && rxGood rx && !malformed rx.frame &&
    !s.quarantined && (s.afterLink rx).epochOk rx.port.val rx.frame

theorem takes_accepts {s : State} {rx : RingRx} (h : takes s rx = true) : s.accepts rx := by
  simp only [takes, Bool.and_eq_true, Bool.not_eq_eq_eq_not, Bool.not_true, beq_iff_eq] at h
  obtain ⟨⟨⟨⟨⟨⟨h1, h2⟩, h3⟩, h4⟩, h5⟩, h6⟩, h7⟩ := h
  refine ⟨⟨⟨.inl h1, h2⟩, ?_, h4⟩, h5, ?_, h7⟩
  · rw [h3]; nofun
  · rw [h6]; nofun

/-- A frame of a type for this device, which opens with good type fields. -/
theorem witness_GoodFramesAreTaken : ∀ k ∈ [1, 2, 8, 9, 10, 15], takes onRing (received [(0, k)]) = true ∧
    frKind (frameOf [(0, k)]) = k ∧ frDst (frameOf [(0, k)]) = onRing.ringAddr ∧ onRing.ring.quiesced = false ∧
    (((onRing.afterLink (received [(0, k)])).unseal (frameOf [(0, k)])).any fun g =>
      frClassD g || (frType g).land (2 ^ 64 - 1 - typeMask (frKind g)) == 0) = true := by decide +kernel

theorem witness_GoodFramesAreTaken_own : onRing.forUs (frameOf [(0, 8)]) ∧
    takes (onRing.fput f_ciStatus_encrypt_active 1) (received [(0, 8)]) = true ∧
    (((onRing.fput f_ciStatus_encrypt_active 1).afterLink (received [(0, 8)])).unseal (frameOf [(0, 8)])) = none :=
  ⟨.inl (by decide +kernel), by decide +kernel, by decide +kernel⟩

/-- A frame in transit: with a route, without one, and while a new table is committed. -/
theorem witness_GoodFramesAreTaken_transit : ¬ onRing.forUs (frameOf [(0, 8), (4, 5)]) ∧
    takes onRing (received [(0, 8), (4, 5)]) = true ∧ onRing.fbit (f_ciRoute_valid 5) = false ∧
    takes (onRing.fput (f_ciRoute_valid 5) 1) (received [(0, 8), (4, 5)]) = true ∧
    (onRing.fput (f_ciRoute_valid 5) 1).fbit (f_ciRoute_valid 5) = true ∧
    takes { onRing with ring := { onRing.ring with quiesced := true, claimed := some 1 } } (received [(0, 15), (4, 5)]) = true ∧
    (({ onRing with ring := { onRing.ring with quiesced := true, claimed := some 1 } } : State).ring.claimed ≠
      some (frDst (frameOf [(0, 15), (4, 5)]))) := by
  refine ⟨?_, by decide +kernel, by decide +kernel, by decide +kernel, by decide +kernel, by decide +kernel, by decide +kernel⟩
  unfold State.forUs
  decide +kernel

/-- Fences, enumerations, membership frames and greetings. -/
theorem witness_GoodFramesAreTaken_logic : takes onRing (received [(0, 11)]) = true ∧
    (∀ phase : Fin 2, takes onRing (received [(0, 12), (71, phase.val)]) = true ∧
      frField (frameOf [(0, 12), (71, phase.val)]) 71 64 = 128 * phase.val) ∧
    (∀ phase : Fin 2, takes onRing (received [(0, 12), (64, phase.val)]) = true ∧
      frField (frameOf [(0, 12), (64, phase.val)]) 71 64 = phase.val) ∧
    (∀ phase : Fin 2, takes onRing (received [(0, 13), (64, phase.val), (96, 1)]) = true ∧
      frField (frameOf [(0, 13), (64, phase.val), (96, 1)]) 64 64 = phase.val) ∧
    takes onRing (received [(0, 14)]) = true ∧ onRing.portState 0 ≠ 1 := by decide +kernel

/-- Port N in training, and trained. -/
def training (trained : Bool) : State :=
  (State.reset.setPort 0 { State.reset.port 0 with trained := trained }).setPortState 0 1

theorem witness_LinkHello : ∀ f ∈ [[(0, 14), (80, 1)], [(0, 14), (72, 2), (80, 1)], [(0, 14)], [(0, 14), (64, 1), (80, 1)]],
    (training true).portState 0 = 1 ∧ ((training true).port 0).trained = true ∧ ((training false).port 0).trained = false ∧
    (training true).rxHeld (frameOf f) = false ∧ ((training true).port 0).discarding = false ∧ rxGood (received f) = true ∧
    malformed (frameOf f) = false ∧ (training true).quarantined = false ∧
    ((training true).afterLink (received f)).epochOk 0 (frameOf f) = true := by decide +kernel

theorem witness_LinkHello_fields : (frField (frameOf [(0, 14), (80, 1)]) 79 72 ≤ 1 ∧ 1 ≤ frField (frameOf [(0, 14), (80, 1)]) 87 80 ∧
      frField (frameOf [(0, 14), (80, 1)]) 64 64 = 0) ∧ 1 < frField (frameOf [(0, 14), (72, 2), (80, 1)]) 79 72 ∧
    frField (frameOf [(0, 14)]) 87 80 < 1 ∧ frField (frameOf [(0, 14), (64, 1), (80, 1)]) 64 64 ≠ 0 := by decide +kernel

/-- Port N up, discarding. -/
def discarding : State := onRing.setPort 0 { onRing.port 0 with discarding := true }

theorem witness_LinkLayer : (∀ r ∈ frameRows, ∃ f : RFrame, ofRow r.1 r.2.1 f) ∧
    takes onRing (received [(0, 1)]) = true ∧ ¬ State.reset.hears (received [(0, 1)]) ∧ onRing.hears (received [(0, 1)]) ∧
    discarding.hears (received [(0, 1)]) ∧ (discarding.port 0).discarding = true ∧
    rxGood ⟨0, 0, false, frameOf [(0, 1)]⟩ = false ∧ malformed (frameOf [(0, 1), (8, 1)]) = true ∧
    (∃ s : State, s.quarantined = true ∧ malformed (frameOf [(0, 8)]) = false ∧ frKind (frameOf [(0, 8)]) = 8) ∧
    (onRing.epochOk 0 (frameOf [(0, 8), (32, 5)]) = false ∧ malformed (frameOf [(0, 8), (32, 5)]) = false) ∧
    (onRing.portLive 0 = true ∧ onRing.stopped 4 = false) ∧ State.reset.portLive 0 = false := by
  refine ⟨?_, by decide +kernel, ?_, ⟨.inl (by decide +kernel), by decide +kernel⟩, ⟨.inl (by decide +kernel), by decide +kernel⟩,
    by decide +kernel, by decide +kernel, by decide +kernel, ⟨onRing.fput f_ciStatus_ring_state 2, by decide +kernel⟩, by decide +kernel,
    by decide +kernel, by decide +kernel⟩
  · intro r _
    exact ⟨frameOf [(0, 0)], .inr (by decide +kernel)⟩
  · rintro ⟨h, _⟩
    revert h
    decide +kernel

theorem witness_BurstWindow : onRing.ringState = 1 ∧ State.reset.ringState ≠ 1 ∧
    onRing.fget f_ciRxWindow_base_line + onRing.fget f_ciRxWindow_lines < frField (frameOf [(0, 8)]) 113 96 + (frField (frameOf [(0, 8)]) 95 80 + 1) ∧
    (∃ s : State, s.ringState = 1 ∧ s.fget f_ciRxWindow_base_line ≤ frField (frameOf [(0, 8), (96, 4)]) 113 96 ∧
      frField (frameOf [(0, 8), (96, 4)]) 113 96 + (frField (frameOf [(0, 8), (96, 4)]) 95 80 + 1) ≤
        s.fget f_ciRxWindow_base_line + s.fget f_ciRxWindow_lines) ∧
    (∃ s : State, s.ringState = 1 ∧ frField (frameOf [(0, 8)]) 113 96 < s.fget f_ciRxWindow_base_line) := by
  refine ⟨by decide +kernel, by decide +kernel, by decide +kernel, ?_, ?_⟩
  · exact ⟨(onRing.fput f_ciRxWindow_base_line 4).fput f_ciRxWindow_lines 1, by decide +kernel⟩
  · exact ⟨(onRing.fput f_ciRxWindow_base_line 4).fput f_ciRxWindow_lines 1, by decide +kernel⟩

theorem witness_PortEvents : State.reset.fbit (portEn 0) = false ∧ (State.reset.fput (portEn 0) 1).fbit (portEn 0) = true ∧
    State.reset.portState 0 = 0 ∧ State.reset.portLive 0 = false ∧
    (training false).portState 0 = 1 ∧ ((training false).port 0).trained = false ∧ ((training true).port 0).trained = true ∧
    (training false).quarantined = false ∧ ((training false).fput f_ciStatus_ring_state 2).quarantined = true ∧
    onRing.portState 0 = 2 ∧ onRing.portLive 0 = true ∧ (State.reset.setPortState 0 3).portState 0 = 3 := by decide +kernel

/-- A burst open as receiver, and one open as sender. -/
def burstIn : RecvBurst := ⟨1, 2, false, 0, 1, [], false, 0⟩
def burstOut : SendBurst := ⟨1, 0, 0, 2, 0, [], 0⟩

/-- The device as head, in the midst of some work. -/
def headAt (w : HeadWork) : State := { State.reset with ring := { State.reset.ring with head := w } }

theorem witness_RingSignalsAndTimeouts :
    (State.reset.fget f_ciSyncWindow_base + State.reset.fget f_ciSyncWindow_size ≤ 32768 ∧ State.reset.fget f_ciSyncWindow_size ≤ 5) ∧
    (∃ s : State, s.fget f_ciSyncWindow_base + s.fget f_ciSyncWindow_size ≤ 32768 ∧ 5 < s.fget f_ciSyncWindow_size) ∧
    burstOut.restarts < 3 ∧ 3 ≤ ({ burstOut with restarts := 3 } : SendBurst).restarts ∧
    (∃ s : State, s.stopped 4 = false ∧ s.ring.recvs[0]? = some burstIn ∧ s.ring.sends[0]? = some burstOut) ∧
    (State.reset.ring.recvs[0]? = none ∧ State.reset.ring.sends[0]? = none) ∧ State.reset.mpStands = false ∧
    (headAt (.enumerate true [] false)).ring.head = .enumerate true [] false ∧
    (headAt (.quiesce 1 [] false [7])).ring.head = .quiesce 1 [] false [7] ∧ (headAt (.commit 1 [] false [7])).ring.head = .commit 1 [] false [7] ∧
    (headAt (.collect [1] 0)).ring.head = .collect [1] 0 ∧ (headAt (.collect [1] 0)).mpStands = false ∧ State.reset.ring.head = .none ∧
    (∃ s : State, s.quarantined = true) ∧ State.reset.quarantined = false := by
  refine ⟨by decide +kernel, ⟨State.reset.fput f_ciSyncWindow_size 8, by decide +kernel⟩, by decide, by decide,
   ⟨{ State.reset with ring := { State.reset.ring with recvs := [burstIn], sends := [burstOut] } }, by decide +kernel⟩,
   by decide +kernel, by decide +kernel, rfl, rfl, rfl, rfl, by decide +kernel, by decide +kernel,
   ⟨State.reset.fput f_ciStatus_ring_state 2, by decide +kernel⟩, by decide +kernel⟩

/-! Cameras, time and image pipes. -/

/-- Camera port 0 is up, and raw stream 0 of port 0, virtual channel 0 is enabled for data type 0x2A. -/
def camera : State :=
  (((State.reset.fput (f_crCfg_enable 0) 1).fput (f_iaStream_enable 0) 1).fput (f_iaStream_path 0) 1).fput (f_iaStream_dt 0) 0x2A

/-- A frame of 4 lines with one line of 16 B come. -/
def cameraFrame : CamFrame := ⟨0, 0, 0, 1, 1, false, false, false, false, 0, 0, 0, [], [zeros 16], 0⟩

/-- `camera` with stream 0 as given. -/
def cameraWith (f : StreamRt → StreamRt) : State := camera.setStream 0 (f (camera.stream 0))

theorem witness_CameraPackets : camera.crUp 0 = true ∧ camera.camStreams 0 0 ≠ [] ∧
    (camera.camStreams 0 0).find? (fun n => camera.fget (f_iaStream_dt n) == 0x2A) = some 0 ∧ camera.camStreams 0 1 = [] ∧
    (camera.camStreams 0 0).find? (fun n => camera.fget (f_iaStream_dt n) == 0x2B) = none ∧ State.reset.crUp 0 = false ∧
    (State.reset.fput (f_crStatus_state 0) 3).fget (f_crStatus_state 0) = 3 ∧ State.reset.fget (f_crStatus_state 0) ≠ 3 ∧
    State.reset.fbit (f_iaStream_enable 0) = false ∧
    (∃ s : State, s.fbit (f_iaStream_enable 0) = true ∧ s.fget (f_iaStream_line_timeout_us 0) ≠ 0 ∧ (s.stream 0).cur = some cameraFrame ∧
      s.maxLines 0 ≤ cameraFrame.lines) ∧
    ∃ s : State, s.fbit (f_iaStream_enable 0) = true ∧ s.fget (f_iaStream_line_timeout_us 0) ≠ 0 ∧ (s.stream 0).cur = some cameraFrame ∧
      cameraFrame.lines < s.maxLines 0 := by
  refine ⟨by decide +kernel, by decide +kernel, by decide +kernel, by decide +kernel, by decide +kernel, by decide +kernel, by decide +kernel,
    by decide +kernel, by decide +kernel, ?_, ?_⟩
  · exact ⟨(cameraWith fun x => { x with cur := some cameraFrame }).fput (f_iaStream_line_timeout_us 0) 9, by decide +kernel⟩
  · exact ⟨((cameraWith fun x => { x with cur := some cameraFrame }).fput (f_iaStream_line_timeout_us 0) 9).fput
      (f_iaStream_max_lines_m1 0) 4, by decide +kernel⟩

/-- `camera` with a sample ready, of group 0. -/
def sampled : State := cameraWith fun x => { x with ready := [cameraFrame] }

theorem witness_Samples : (sampled.stream 0).ready = [cameraFrame] ∧ sampled.fget (f_iaStream_group 0) = 0 ∧ sampled.iaHeld = false ∧
    sampled.linesHeld 0 = false ∧ sampled.fbit (f_iaGroup_enable 0) = false ∧
    (let s := (sampled.fput (f_iaGroup_enable 0) 1).fput (f_iaGroup_members 0) 1
     (s.stream 0).ready = [cameraFrame] ∧ s.iaHeld = false ∧ s.linesHeld 0 = false ∧ s.fbit (f_iaGroup_enable 0) = true ∧
       bit (s.fget (f_iaGroup_members 0)) 0 = true) ∧
    (State.reset.stream 0).ready = [] ∧ (State.reset.fput f_hbScrub_start 1).iaHeld = true := by decide +kernel

theorem witness_StreamsAndGroups :
    State.reset.fbit (f_iaGroup_enable 0) = false ∧ State.reset.fbit (f_iaStream_enable 0) = false ∧
    (∃ w : Word, growthSet (f_iaStream_enable 0).off w = false ∧
      (State.reset.writeReg (f_iaStream_enable 0).off (w &&& 0xFFFFFFFE)).streamRefused 0 = false) ∧
    (∃ w : Word, growthSet (f_iaStream_enable 0).off w = false ∧
      (State.reset.writeReg (f_iaStream_enable 0).off (w &&& 0xFFFFFFFE)).streamRefused 0 = true) ∧
    (∃ w : Word, growthSet (f_iaStream_enable 0).off w = true) ∧
    ((State.reset.fput (f_iaGroup_ready_obj 0) 0x7F00).fput (f_iaGroup_return_obj 0) 0x7F01).fbit (f_iaGroup_enable 0) = false ∧
    ((((State.reset.fput (f_iaGroup_ready_obj 0) 0x7F00).fput (f_iaGroup_return_obj 0) 0x7F01).writeReg (f_iaGroup_enable 0).off
      0).groupRefused 0) = false ∧
    (State.reset.writeReg (f_iaGroup_enable 0).off 0).groupRefused 0 = true ∧ camera.fbit (f_iaStream_enable 0) = true ∧
    (State.reset.fput (f_iaGroup_enable 0) 1).fbit (f_iaGroup_enable 0) = true := by
  refine ⟨by decide +kernel, by decide +kernel, ?_, ?_, ⟨BitVec.ofNat 32 (2 ^ 32 - 1), by decide +kernel⟩, by decide +kernel,
    by decide +kernel, by decide +kernel, by decide +kernel, by decide +kernel⟩
  · exact ⟨BitVec.ofNat 32 (setBits (setBits 0 (f_iaStream_path 0).hi (f_iaStream_path 0).lo 1) (f_iaStream_dt 0).hi (f_iaStream_dt 0).lo 0x2A),
      by decide +kernel⟩
  · exact ⟨BitVec.ofNat 32 (setBits 0 (f_iaStream_path 0).hi (f_iaStream_path 0).lo 3), by decide +kernel⟩

/-- The PPS input is on its pad, and captured. -/
def ppsReady : State := (State.reset.fput f_iaTimeCtrl_pps_en 1).fput (f_pinMux_func 52) 1

theorem witness_DeviceTime :
    (ppsReady.fbit f_iaTimeCtrl_pps_en = true ∧ ppsReady.padOn 52 = true ∧ ppsReady.cam.ppsAt = none) ∧
    (∃ s : State, s.fbit f_iaTimeCtrl_pps_en = true ∧ s.padOn 52 = true ∧ s.cam.ppsAt = some 0 ∧ 0 + 500000000 ≤ s.devTime.toNat) ∧
    (∃ s : State, s.fbit f_iaTimeCtrl_pps_en = true ∧ s.cam.ppsAt = some 0 ∧ s.devTime.toNat < 0 + 500000000) ∧
    State.reset.fbit f_iaTimeCtrl_pps_en = false ∧ State.reset.padOn 52 = false ∧
    State.reset.anyGroup = false ∧ (State.reset.fput (f_iaGroup_enable 0) 1).anyGroup = true := by
  refine ⟨by decide +kernel, ?_, ?_, by decide +kernel, by decide +kernel, by decide +kernel, by decide +kernel⟩
  · exact ⟨{ ppsReady with devTime := 500000000, cam := { ppsReady.cam with ppsAt := some 0 } }, by decide +kernel⟩
  · exact ⟨{ ppsReady with cam := { ppsReady.cam with ppsAt := some 0 } }, by decide +kernel⟩

/-- An SPI stream of controller 0 whose data-ready pad is on. -/
def spiCamera : State := (camera.fput (f_iaStream_path 0) 2).fput (f_pinMux_func 17) 1

theorem witness_FrameSync :
    (∃ s : State, bit ((s.fsyncWords 0).getD 0 0).toNat 0 = true ∧ (s.fsyncWords 0).getD 1 0 ≠ 0 ∧ s.stopped 6 = false) ∧
    (State.reset.fput (f_cruDomain_stopped 6) 1).stopped 6 = true ∧ bit ((State.reset.fsyncWords 0).getD 0 0).toNat 0 = false ∧
    (∃ s : State, bit s.cam.fsyncOn 0 = true) ∧ bit State.reset.cam.fsyncOn 0 = false ∧
    (State.reset.fput (f_pinMux_func 36) 1).padOn 36 = true ∧
    ((State.reset.fput (f_pinMux_func 44) 2).fget (f_pinMux_func 44) = 2 ∧
      (State.reset.fput (f_pinMux_func 44) 2).fbit (f_pinMux_switching 44) = false) ∧
    spiCamera.spiStream 0 = some 0 ∧ State.reset.spiStream 0 = none := by
  refine ⟨⟨{ State.reset with cam := { State.reset.cam with fsync := [(0, [1, 100, 0])] } }, by decide +kernel⟩, by decide +kernel,
    by decide +kernel, ⟨{ State.reset with cam := { State.reset.cam with fsyncOn := 1 } }, by decide +kernel⟩, by decide +kernel,
    by decide +kernel, by decide +kernel, by decide +kernel, by decide +kernel⟩

/-- Stream 0 on the pipe path, with a frame that has ended. -/
def piped : State := (cameraWith fun x => { x with piped := [cameraFrame] }).fput (f_iaStream_path 0) 0

theorem witness_ImagePipes :
    (∃ (s : State) (x n r : Nat), s.fbit (f_ipCtrl_mode 0) = true ∧ s.stopped 4 = false ∧
      s.nextCtx 0 (fun n => (s.readyStripe 0 n).isSome) = some (x, n) ∧ s.readyStripe 0 n = some r) ∧
    (∃ (s : State) (x n : Nat), s.fbit (f_ipCtrl_mode 0) = false ∧ s.stopped 4 = false ∧ (s.ipRt 0).serving = false ∧
      s.nextCtx 0 (fun n => s.hasLines n) = some (x, n)) ∧
    (State.reset.fbit (f_ipCtrl_mode 0) = false ∧ (State.reset.ipRt 0).serving = false ∧ State.reset.stopped 4 = false ∧
      State.reset.nextCtx 0 (fun n => State.reset.hasLines n) = none) ∧
    ((State.reset.fput (f_ipCtrl_mode 0) 1).fbit (f_ipCtrl_mode 0) = true ∧
      (State.reset.fput (f_ipCtrl_mode 0) 1).nextCtx 0 (fun n => ((State.reset.fput (f_ipCtrl_mode 0) 1).readyStripe 0 n).isSome) = none) ∧
    (State.reset.fput (f_cruDomain_stopped 4) 1).stopped 4 = true := by
  refine ⟨⟨piped.fput (f_ipCtrl_mode 0) 1, 0, 0, ((piped.fput (f_ipCtrl_mode 0) 1).readyStripe 0 0).getD 0, ?_⟩, ⟨piped, 0, 0, ?_⟩, ?_⟩ <;>
  decide +kernel

theorem witness_ToneCurveWrites : (camera.fput (f_iaStream_path 0) 0).curveNamed 0 = true ∧ State.reset.curveNamed 0 = false := by
  decide +kernel

/-! Video. -/

/-- An encoding session bound to group 0, with a fixed QP of 20. -/
def session : Video := ⟨0, 0, 0, 0, 8, 64, 64, 30, 1, 0, [20, 20, 0, 51], [0, 0, 0, 0], 0, 0, 0, 4096, 0, [], [], 0, 0, 0, false, none⟩

def videoFrame : VideoFrame := ⟨0, 64, 0, 7, none⟩

/-- Session 0 with two frames in its queue, the sequencer running. -/
def videoState (v : Video) : State :=
  ({ State.reset with fw := { State.reset.fw with videos := [{ v with queue := [videoFrame, videoFrame] }] } } : State).fput
    f_vxSeqStatus_state 2

theorem witness_VideoSequencer :
    (List.zip (chunks 4096 ((zeros 64).take 0x40000)) [crc32c (zeros 64)]).findIdx? (fun b => crc32c b.1 != b.2) = none ∧
    (List.zip (chunks 4096 ((zeros 64).take 0x40000)) [crc32c (zeros 64) + 1]).findIdx? (fun b => crc32c b.1 != b.2) = some 0 ∧
    (State.reset.fput f_vxSeqStatus_state 1).fget f_vxSeqStatus_state = 1 ∧ State.reset.fget f_vxSeqStatus_state ≠ 1 ∧
    ((State.reset.fput f_vxSeqStatus_state 2).fget f_vxSeqStatus_state = 2 ∧ (State.reset.fput f_vxSeqStatus_state 2).mpStands = false) ∧
    State.reset.fget f_vxSeqStatus_state ≠ 2 := by decide +kernel

/-- A release of group 0 whose record, at the group's first place, holds a presence byte for stream 0. -/
def videoRelease (there : Byte) : State :=
  ({ State.reset with fw := { State.reset.fw with videos := [session] }, sync := [(0, 1)] } : State).setBytes
    (hbAddr 0 + 0x40) [0, 0, 0, 0, 0, 0, 0, there]

theorem witness_VideoRows : (videoRelease 0).video 0 = some session ∧ session.group ≠ 0xFF ∧ (videoRelease 0).stopped 7 = false ∧
    (∀ b : Fin 2, reached ((videoRelease (BitVec.ofNat 8 b.val)).obj ((videoRelease (BitVec.ofNat 8 b.val)).fget
        (f_iaGroup_ready_obj session.group))) (BitVec.ofNat 32 (session.releases + 1)) = true ∧
      bit (fieldAt ((videoRelease (BitVec.ofNat 8 b.val)).bytes (hbAddr 0 + 0x40) 16) 7 1) 0 = (b.val == 1)) ∧
    (videoState session).video 1 = none ∧ (videoState session).stopped 7 = false ∧
    reached ((videoState session).obj ((videoState session).fget (f_iaGroup_ready_obj session.group)))
      (BitVec.ofNat 32 (session.releases + 1)) = false ∧
    (∀ k ∈ [0, 3], ∃ v : Video, (videoState { session with codec := k }).video 0 = some v ∧ v.session = 0 ∧ v.queue = [videoFrame, videoFrame] ∧
      (videoState { session with codec := k }).vxStands = false ∧ v.encodes = (k == 0) ∧ v.closing = none) ∧
    State.reset.vxStands = true := by
  refine ⟨by decide +kernel, by decide +kernel, by decide +kernel, by decide +kernel, by decide +kernel, by decide +kernel,
    by decide +kernel, ?_, by decide +kernel⟩
  intro k hk
  refine ⟨{ session with codec := k, queue := [videoFrame, videoFrame] }, ?_⟩
  revert k
  decide +kernel

/-! The memory controller. -/

/-- Six packages of the least density, in service. -/
def memory : State := (State.reset.fput f_mcConfig_density 0o111111).fput f_mcStatus_state 2

/-- A request of port 3. -/
def request (wr : Bool) : McReq := ⟨3, 0, lpBase, 0, wr, 255, zeros 64, 100⟩

def memoryWith (f : McRt → McRt) : State := memory.setMc (f memory.mc)

theorem witness_MemoryRequests : (0 / 64 * 64 < lpBase) ∧
    (lpBase ≤ lpBase / 64 * 64 ∧ lpBase / 64 * 64 < lpBase + memory.lpCapacity) ∧
    (lpBase + memory.lpCapacity ≤ (lpBase + memory.lpCapacity) / 64 * 64) ∧
    (memory.mc.reqs[0]? = none ∧ State.reset.mcUp = false) ∧
    (∀ wr : Bool, (memoryWith fun m => { m with reqs := [request wr] }).mc.reqs[0]? = some (request wr) ∧
      (memoryWith fun m => { m with reqs := [request wr] }).mcUp = true ∧ (request wr).write = wr) ∧
    ((memoryWith fun m => { m with reqs := [request true, request false] }).mc.reqs[1]? = some (request false) ∧
      (([request true].take 1).any fun q => q.port == (request false).port && q.addr == (request false).addr) = true) := by
  decide +kernel

theorem witness_MemoryUpkeep : memory.mcUp = true ∧ State.reset.mcUp = false ∧
    ((memory.fput f_mcCtrl_pd_en 1).fbit f_mcCtrl_pd_en = true ∧ (memory.fput f_mcCtrl_pd_en 1).mcUp = true ∧
      ((memory.fput f_mcCtrl_pd_en 1).mc.reqs.any fun r => r.chan == 0) = false) ∧ (memory.fput f_mcCtrl_pd_en 0).fbit f_mcCtrl_pd_en = false ∧
    memory.fget f_mcStatus_state = 2 ∧ State.reset.fget f_mcStatus_state < 2 ∧
    (∃ s : State, s.fget f_mcStatus_state = 3 ∧ s.mc.causes = [2] ∧ s.mc.held = []) ∧
    ∃ s : State, s.mc.causes = [0, 2] :=
  ⟨by decide +kernel, by decide +kernel, by decide +kernel, by decide +kernel, by decide +kernel, by decide +kernel,
   ⟨(memoryWith fun m => { m with causes := [2] }).fput f_mcStatus_state 3, by decide +kernel⟩,
   ⟨memoryWith fun m => { m with causes := [0, 2] }, rfl⟩⟩

theorem witness_MemoryConfiguration :
    densityOk (bits (1 : Word).toNat 17 0) = false ∧
    (densityOk (bits (BitVec.ofNat 32 0o111111).toNat 17 0) = true ∧ State.reset.fbit f_mcCtrl_enable = false ∧
      State.reset.fget f_mcStatus_state = 0) ∧ (State.reset.fput f_mcCtrl_enable 1).fbit f_mcCtrl_enable = true ∧
    bits (0 : Word).toNat 16 12 = 0 ∧
    (0 < bits (0x1000 : Word).toNat 16 12 ∧ bits (0x1000 : Word).toNat 16 12 ≤ 16 ∧
      (State.reset.writeReg (f_mcPort_target 0).off 0x1000).mcCredits ≤ 64) ∧
    (∃ v : Word, let s1 := (State.reset.fput f_mcCtrl_enable 1).writeReg (f_mcPort_target 9).off v
      0 < bits v.toNat 16 12 ∧ bits v.toNat 16 12 ≤ 16 ∧ s1.mcCredits ≤ 64 ∧ ∀ q : Fin 10, s1.mcFloor ≤ s1.mcTarget q.val) ∧
    State.reset.fget f_mcConfig_density = 0 ∧
    (memory.fbit f_mcCtrl_enable = false ∧ memory.fget f_mcConfig_density ≠ 0 ∧ memory.mc.held = [] ∧
      memory.fbit f_mcCtrl_sr_req = false ∧ bit (1 : Word).toNat 2 = false ∧ bit (5 : Word).toNat 2 = true) := by
  refine ⟨by decide +kernel, by decide +kernel, by decide +kernel, by decide +kernel, by decide +kernel,
    ⟨0x10C8, by decide +kernel⟩, by decide +kernel, by decide +kernel⟩

theorem witness_TrainingHelper : State.reset.mc.run = none ∧ State.reset.trainAllowed = true ∧
    (∀ op ∈ [1, 2, 3, 4, 5], (State.reset.setMc { State.reset.mc with run := some (op, 1) }).mc.run = some (op, (1 : BitVec 24).toNat) ∧
      bit (1 : BitVec 24).toNat 0 = true) ∧ (memory.fput f_mcCtrl_enable 1).trainAllowed = false := by decide +kernel

/-! The host link and the firmware's commands. -/

/-- The firmware is released and serves; the memory controller is in service. -/
def released : State := (memory.fput f_hiBoot_state 4).fput f_hiFwStatus_state 2

/-- `released` with segment 0 of BAR2, of 256 MiB, on the megabytes at an address. -/
def segment (base : Nat) : State :=
  let s := ((released.fput (f_hiBar2Seg_enable 0) 1).fput (f_hiBar2Seg_base_lo 0) (base / 2 ^ 24 % 256)).fput (f_hiBar2Seg_base_hi 0)
    (base / 2 ^ 32)
  { s with host := { s.host with bar2 := 0 } }

theorem witness_HostAccesses : State.reset.fget f_hiBoot_state ≠ 4 ∧ released.fget f_hiBoot_state = 4 ∧ released.fwServes = true ∧
    (((16 : Word).toNat + 2 ^ 32 - released.fget (f_rpIndex_sq_head 0)) % 2 ^ 32 ≤ released.ringSize 0 ∧
      ((16 : Word).toNat + 2 ^ 32 - (released.pair 0).accepted) % 2 ^ 32 < 2 ^ 31) ∧
    released.ringSize 0 < ((17 : Word).toNat + 2 ^ 32 - released.fget (f_rpIndex_sq_head 0)) % 2 ^ 32 ∧
    ((released.fget (f_rpIndex_cq_tail 0) + 2 ^ 32 - (0 : Word).toNat) % 2 ^ 32 ≤ released.ringSize 0 ∧
      ((0 : Word).toNat + 2 ^ 32 - (released.pair 0).consumer) % 2 ^ 32 < 2 ^ 31) ∧
    released.ringSize 0 < (released.fget (f_rpIndex_cq_tail 0) + 2 ^ 32 - (1 : Word).toNat) % 2 ^ 32 ∧
    ((released.fput f_hiFwStatus_state 0).fget f_hiBoot_state = 4 ∧ (released.fput f_hiFwStatus_state 0).fwServes = false) := by
  decide +kernel

/-- A segment off, on the horizon buffer, on LPDDR, on a scratchpad and on the unused end of its window; and held. -/
theorem witness_HostAccesses_targets : released.bar2Target 0 4 = .refused ∧ (segment (hbAddr 0)).bar2Target 64 4 = .hb 64 ∧
    (segment lpBase).bar2Target 64 4 = .lp 0 (lpBase + 64) ∧ (segment 0).bar2Target 64 4 = .sp 0 64 ∧
    (segment 0).bar2Target 0xC00000 4 = .sp 0 0xC00000 ∧
    (∀ a ∈ [0, hbAddr 0, lpBase], (segment a).fget f_hiBoot_state = 4 ∧ (segment a).bar2Held ((segment a).bar2Target 64 4) = false) ∧
    (let s := (segment (hbAddr 0)).fput f_hbScrub_start 1
     s.fget f_hiBoot_state = 4 ∧ s.bar2Held (s.bar2Target 64 4) = true) := by decide +kernel

/-- Queues of ring 0 and the event ring in the boot area, the event ring enabled. -/
def placed : State :=
  [(0, 0), (0, 1), (16, 1)].foldl (fun s p => (s.fput (f_rpBase_addr_lo p.1 p.2) (bootArea.1 % 2 ^ 32 / 64)).fput
    (f_rpBase_addr_hi p.1 p.2) (bootArea.1 / 2 ^ 32)) (released.fput (f_rpCfg_enable 16) 1)

/-- Ring 0 enabled, with one descriptor that has not been taken, and some that have. -/
def serving (l : List Taken) : State :=
  ({ placed with host := { placed.host with pairs := [(0, ⟨1, 0, l, 0, false⟩)] } } : State).fput (f_rpCfg_enable 0) 1

/-- RP_CFG of ring 0 of a state after a write of its other fields. -/
def configured (s : State) (v : Word) : State :=
  (((s.fput (f_rpCfg_log2_n 0) (bits (v ||| 1).toNat 4 1)).fput (f_rpCfg_party 0) (bits (v ||| 1).toNat 10 5)).fput
    (f_rpCfg_priority 0) (bits (v ||| 1).toNat 13 11)).fput (f_rpCfg_vector 0) (bits (v ||| 1).toNat 19 14)

theorem witness_RingPairs :
    (growthSet (f_rpCfg_enable 0).off ((8 : Word) ||| 1) = false ∧ placed.fbit (f_rpCfg_enable 0) = false ∧
      placed.fget f_hiBoot_state = 4 ∧ (configured placed 8).fwServes = true ∧ (configured placed 8).enableOk 0 = true) ∧
    (released.fbit (f_rpCfg_enable 0) = false ∧ (configured released 8).fwServes = true ∧ (configured released 8).enableOk 0 = false) ∧
    (configured (placed.fput f_hiFwStatus_state 0) 8).fwServes = false ∧
    growthSet (f_rpCfg_enable 0).off (BitVec.ofNat 32 (2 ^ 32 - 1)) = true ∧
    (growthSet (f_rpCfg_enable 0).off ((0 : Word) &&& 0xFFFFFFFE) = false ∧ (serving []).fbit (f_rpCfg_enable 0) = true ∧
      ((serving []).pair 0).taken = [] ∧ (serving []).fget f_hiBoot_state = 4) ∧
    ((serving [⟨0, zeros 64, 0, false⟩]).pair 0).taken ≠ [] ∧ State.reset.fbit (f_rpCfg_enable 0) = false := by decide +kernel

theorem witness_Descriptors :
    (∀ k ∈ [1, 2], let s := (serving []).fput f_hiFwStatus_state k
      s.fget f_hiFwStatus_state = k ∧ s.mpStands = false ∧ s.fbit (f_rpCfg_enable 0) = true ∧ (s.pair 0).disabling = false ∧
      s.fget (f_rpIndex_sq_head 0) ≠ (s.pair 0).accepted ∧ s.cqUsed 0 + (s.pair 0).taken.length < s.ringSize 0) ∧
    State.reset.fget (f_rpIndex_sq_head 0) = (State.reset.pair 0).accepted ∧
    (∃ s : State, s.mpStands = false ∧ 0 < (s.pair 0).unraised ∧ bit s.host.granted 0 = true ∧ s.fget (f_rpIrq_timer_us 0) ≠ 0) ∧
    (State.reset.pair 0).unraised = 0 := by
  refine ⟨by decide +kernel, by decide +kernel, ?_, by decide +kernel⟩
  exact ⟨({ released with host := { released.host with granted := 1, pairs := [(0, ⟨0, 0, [], 1, false⟩)] } } : State).fput
    (f_rpIrq_timer_us 0) 50, by decide +kernel⟩

/-- A descriptor with some fields: byte offset and value. -/
def desc (l : List (Nat × Nat)) : List Byte := leBytes 64 (l.foldl (fun a p => a + p.2 * 2 ^ (8 * p.1)) 0)

/-- A descriptor that has been taken and not begun. -/
def taken (l : List (Nat × Nat)) : Taken := ⟨0, desc l, 0, false⟩

/-- A state in which ring `q` runs a descriptor next. -/
def runs (s : State) (q : Nat) (l : List (Nat × Nat)) : State :=
  { s with host := { s.host with pairs := [(q, ⟨1, 0, [taken l], 0, false⟩)] } }

/-- A state in which a descriptor is the next of ring 0, with a condition on that state. -/
def asks (s : State) (op : Nat) (l : List (Nat × Nat)) (q : State → Taken → Bool) : Bool :=
  (runs s 0 ((0, op) :: l)).turn 0 op == some (taken ((0, op) :: l)) && q (runs s 0 ((0, op) :: l)) (taken ((0, op) :: l))

/-- `released`, with every capability granted, at the boot area. -/
def opened : State := { released with host := { released.host with granted := 0xFF } }

/-- `opened` with another state of the firmware. -/
def firmware (f : FwRt → FwRt) : State := { opened with fw := f opened.fw }

/-- A reply address of OPEN, its contract range and its host area. -/
def openDesc (lo hi size : Nat) : List (Nat × Nat) := [(16, lo), (17, hi), (32, size), (40, bootArea.1)]

theorem witness_Open :
    asks (firmware fun f => { f with opened := true }) 0x01 [] (fun s _ => s.fw.opened) = true ∧
    asks opened 0x01 [] (fun s t => !s.fw.opened && t.field 40 8 < bootArea.1) = true ∧
    (∀ x ∈ [(3, 3), (1, 1), (2, 2)], asks opened 0x01 (openDesc x.1 x.2 0) (fun s t => !s.fw.opened && t.field 40 8 % 64 == 0 &&
      bootArea.1 ≤ t.field 40 8 && t.field 40 8 + 256 ≤ bootArea.1 + bootArea.2 &&
      ((2 < t.field 16 1 || t.field 17 1 < 2) == (x != (2, 2)))) = true) ∧
    asks opened 0x01 (openDesc 2 2 64) (fun _ t => t.field 32 8 % blockBytes != 0) = true ∧
    asks (opened.fput f_mcConfig_density 0) 0x01 (openDesc 2 2 0x100000000) (fun s t => t.field 32 8 % blockBytes == 0 &&
      t.field 32 8 ≤ 0x100000000 && (s.allocRun (t.field 32 8 / blockBytes)).isNone) = true ∧
    asks opened 0x01 (openDesc 2 2 0) (fun s t => t.field 32 8 % blockBytes == 0 &&
      t.field 32 8 ≤ 0x100000000 && (s.allocRun (t.field 32 8 / blockBytes)).isSome) = true := by decide +kernel

/-- The first 192 B of a package of one section for a ring of one device, of a contract and a ring-size mask. -/
def header (contract ring : Nat) : List Byte :=
  leBytes 4 0x50584C49 ++ leBytes 2 128 ++ leBytes 2 (256 * contract) ++ leBytes 2 (256 * contract) ++ leBytes 2 1 ++ leBytes 4 128 ++
    zeros 8 ++ leBytes 8 1 ++ leBytes 4 ring ++ zeros 4 ++ leBytes 8 192 ++ zeros 144

theorem header_one : header 2 1 = leBytes 4 0x50584C49 ++ leBytes 2 128 ++ [0, 2, 0, 2] ++ leBytes 2 1 ++ leBytes 4 128 ++ zeros 8 ++
    leBytes 8 1 ++ leBytes 4 1 ++ zeros 4 ++ leBytes 8 192 ++ zeros 144 := by decide +kernel

/-- LOAD_PACKAGE of some bytes for a ring of `n` devices. -/
def loads (s : State) (d : List Byte) (n : Nat) (q : State → Taken → List Byte → Bool) : Bool :=
  asks (s.setBytes bootArea.1 d) 0x10 [(16, bootArea.1), (24, 192), (32, n)] fun s t =>
    q s t (s.areaRead [] (t.field 16 8) (t.field 24 8)).1 && s.inArea (t.field 16 8) (t.field 24 8)

theorem witness_LoadPackage :
    loads (firmware fun f => { f with loading := some (0, ⟨[], 1, [], [], []⟩, 0) }) (header 2 1) 1 (fun s _ _ => s.fw.loading.isSome) = true ∧
    loads opened (header 2 1) 0 (fun s t _ => s.fw.loading.isNone && t.field 32 1 == 0) = true ∧
    loads opened (zeros 192) 1 (fun _ _ b => !headerMagic b) = true ∧
    loads opened (header 3 1) 1 (fun _ _ b => headerMagic b && !contractOk b) = true ∧
    loads opened (header 2 1) 2 (fun _ _ b => headerMagic b && contractOk b && headerOk b 192 && !bit (pkRings b) 1) = true ∧
    loads opened (header 2 1) 1 (fun s t b => s.fw.loading.isNone && t.field 32 1 == 1 && bit s.host.granted 4 && headerMagic b &&
      contractOk b && headerOk b 192 && bit (pkRings b) 0 && 2 ≤ s.fget f_mcStatus_state) = true ∧
    loads (opened.fput f_mcStatus_state 0) (header 2 1) 1 (fun s _ _ => s.fget f_mcStatus_state < 2) = true := by decide +kernel

/-- Host-window entry `i` granted. -/
def windowed (i : Nat) : State := (opened.fput (f_hiHostwin_valid i) 1).fput (f_hiHostwin_write_en i) 1

theorem witness_PoolsAndMargins :
    asks (windowed 1) 0x11 [(16, 1), (18, 1)] (fun s t => s.fw.reclaims.isEmpty && t.field 16 2 + t.field 18 2 ≤ 4096 &&
      ((List.range (t.field 18 2)).map (t.field 16 2 + ·)).all fun i => s.fbit (f_hiHostwin_valid i) && s.fbit (f_hiHostwin_write_en i)) = true ∧
    asks opened 0x11 [(16, 1), (18, 1)] (fun s t => s.fw.reclaims.isEmpty && !s.fbit (f_hiHostwin_valid (t.field 16 2))) = true ∧
    (∀ op ∈ [0x11, 0x12], asks (firmware fun f => { f with reclaims := [(0, 0, 1)] }) op [] (fun s _ => !s.fw.reclaims.isEmpty) = true) ∧
    asks opened 0x12 [(16, 1), (18, 1)] (fun s t => s.fw.reclaims.isEmpty && t.field 16 2 + t.field 18 2 ≤ 4096) = true ∧
    asks opened 0x12 [(16, 4096), (18, 1)] (fun s t => s.fw.reclaims.isEmpty && 4096 < t.field 16 2 + t.field 18 2) = true ∧
    asks opened 0x1C [(16, 31)] (fun _ t => t.field 16 1 ≤ 31) = true ∧ asks opened 0x1C [(16, 32)] (fun _ t => 31 < t.field 16 1) = true := by
  decide +kernel

theorem witness_RingZeroCommands :
    ([0x01, 0x02, 0x10, 0x11, 0x12, 0x1C, 0x20, 0x21, 0x22].all fun op => (State.reset.turn 0 op).isNone) = true ∧
    asks opened 0x02 [] (fun s _ => s.running.isNone) = true ∧ asks opened 0x22 [] (fun _ _ => true) = true ∧
    (∀ op ∈ [0x20, 0x21], asks { opened with ring := { opened.ring with head := .collect [1] 0 } } op [] (fun s _ => s.ring.head != .none) = true) ∧
    asks opened 0x20 [(16, bootArea.1)] (fun s t => s.ring.head == .none && s.inArea (t.field 16 8) 1024) = true ∧
    (∀ op ∈ [0x20, 0x21], asks opened op [(16, hostBase)] (fun s t => s.ring.head == .none && !s.quarantined &&
      !s.inArea (t.field 16 8) 1024) = true) ∧
    asks (opened.fput f_ciStatus_ring_state 2) 0x21 [] (fun s _ => s.ring.head == .none && s.quarantined) = true := by decide +kernel

/-- A job of ring 0 in a phase. -/
def jobAt (ph : JobPhase) : Job :=
  { number := 1, ring := 0, taken := taken [(0, 0x40)], party := 1, phase := ph, known := true, prepared := true, stop := false,
    suspend := false, grit := 0, aug := 0, augBase := [], handles := [], adapt := 0, io := [], store := [], gen := [], copies := [],
    window := (0, 0), sealedKey := [], sealedEnts := [], iters := [], groups := [], inGroups := false, fallback := none, overrun := false,
    stepsRun := 0, step := 0, ended := none, area := [], saved := [], records := [], objects := [], out := false }

def withJob (s : State) (j : Job) : State := { s with fw := { s.fw with jobs := [j] } }

/-- A close while a job runs. -/
theorem witness_Close_running : asks (withJob opened (jobAt .running)) 0x02 [] (fun s _ => s.running.isSome) = true := by decide +kernel

theorem witness_JobControlsAndSideports :
    ([0x18, 0x19, 0x1A, 0x1B, 0x28, 0x30].all fun op => (State.reset.turn 0 op).isNone) = true ∧
    (∀ op ∈ [0x18, 0x19, 0x1A, 0x1B], ∀ ph ∈ [JobPhase.running, JobPhase.suspended, JobPhase.waiting],
      asks (withJob opened (jobAt ph)) op [] (fun s t => s.namedJob t == some (jobAt ph)) = true) ∧
    (∀ op ∈ [0x18, 0x19, 0x1A, 0x1B], asks opened op [] (fun s t => s.namedJob t == none && s.namedPast t == none) = true ∧
      asks (firmware fun f => { f with past := [(0, 0, 7)] }) op [] (fun s t => s.namedJob t == none && s.namedPast t == some (0, 0, 7)) = true) ∧
    (jobAt .running).phase = .running ∧ (jobAt .suspended).phase = .suspended ∧ (jobAt .waiting).phase ≠ .running ∧
    (∀ k ∈ [1, 3], let s : State := { withJob ((coreAt k).fput f_hiBoot_state 4) (jobAt .running) with jobCores := 1 }
      maskCores s.jobCores = [0] ∧ s.standsCore 0 = (k == 3)) := by decide +kernel

theorem witness_TimeAndSideports :
    asks (opened.fput (f_iaGroup_enable 0) 1) 0x28 [(40, 2)] (fun s t => 1 ≤ t.field 40 1 && t.field 40 1 ≤ 3 && s.anyGroup) = true ∧
    asks opened 0x28 [(40, 2)] (fun s t => 1 ≤ t.field 40 1 && t.field 40 1 ≤ 3 && !s.anyGroup) = true ∧
    asks opened 0x28 [] (fun _ t => t.field 40 1 < 1) = true ∧
    (∀ op ∈ [0, 1, 2, 4], asks opened 0x30 [(16, 2), (17, op), (24, bootArea.1)] (fun s t => t.field 16 1 == 2 && t.field 17 1 == op &&
      t.field 20 2 == 0 && t.field 22 2 == 0 && s.inArea (t.field 24 8) 0) = true) ∧
    asks opened 0x30 [(16, 9), (17, 3), (24, bootArea.1)] (fun s t => t.field 16 1 / 8 % 4 == 1 && t.field 16 1 % 8 == 1 &&
      t.field 17 1 == 3 && s.inArea (t.field 24 8) 0) = true ∧
    asks opened 0x30 [(16, 7)] (fun _ t => t.field 16 1 / 8 % 4 == 0 && t.field 16 1 % 8 == 7) = true ∧
    State.reset.stopped 8 = false ∧ (State.reset.fput (f_cruDomain_stopped 8) 1).stopped 8 = true := by decide +kernel

/-- A sequence, an adaptation state and a session of party 0. -/
def sequence : Sys2Proof.Machine.Seq := Sys2Proof.Machine.Seq.mk 0 5 0 false false 0 [] [] 0 none

def adaptation : Adapt := ⟨0, 5, 0, [], [], false, none⟩

theorem witness_SequencesAndStates :
    ([0x40, 0x41, 0x42, 0x48, 0x49, 0x4A, 0x4B, 0x50, 0x51, 0x52].all fun op => (State.reset.turn 0 op).isNone) = true ∧
    asks opened 0x41 [(16, 5)] (fun s t => s.seq (t.field 16 4) == none && (s.openSeq (s.ringParty 0) (t.field 16 4)).isSome) = true ∧
    asks (opened.fput f_mcConfig_density 0) 0x41 [(16, 5)] (fun s t => s.seq (t.field 16 4) == none &&
      (s.openSeq (s.ringParty 0) (t.field 16 4)).isNone) = true ∧
    asks (firmware fun f => { f with seqs := [sequence] }) 0x41 [(16, 5)] (fun s t => s.seq (t.field 16 4) != none) = true ∧
    asks (firmware fun f => { f with seqs := [sequence] }) 0x42 [(16, 5)] (fun s t => s.seq (t.field 16 4) == some sequence &&
      sequence.party == s.ringParty 0 && sequence.closing == none) = true ∧
    asks opened 0x42 [(16, 5)] (fun s t => s.seq (t.field 16 4) == none) = true ∧
    asks opened 0x48 [(16, 5)] (fun s t => t.field 16 4 != 0 && s.adaptOf 0 t == none) = true ∧
    asks opened 0x48 [] (fun _ t => t.field 16 4 == 0) = true ∧
    asks (firmware fun f => { f with adapts := [adaptation] }) 0x4B [(16, 5)] (fun s t => s.adaptOf 0 t == some adaptation &&
      adaptation.releasing == none) = true ∧
    (∀ op ∈ [0x49, 0x4A, 0x4B], asks opened op [(16, 5)] (fun s t => s.adaptOf 0 t == none) = true) ∧
    asks (firmware fun f => { f with adapts := [{ adaptation with releasing := some (0, 0, 0) }] }) 0x4B [(16, 5)] (fun s t =>
      (s.adaptOf 0 t).any fun a => a.releasing != none) = true := by decide +kernel

theorem witness_RingCommands_job :
    asks (firmware fun f => { f with pkg := some ⟨[], 1, [], [], []⟩ }) 0x40 [(32, 31)] (fun s t => s.fw.pkg.isSome && t.field 32 1 ≤ 31 &&
      !bit (t.field 33 1) 0 && bit s.host.granted 3) = true ∧
    asks (firmware fun f => { f with pkg := some ⟨[], 1, [], [], []⟩ }) 0x40 [(32, 32)] (fun s t => s.fw.pkg.isSome && 31 < t.field 32 1) = true ∧
    asks opened 0x40 [] (fun s _ => s.fw.pkg.isNone) = true := by decide +kernel

/-- The opening of an encoding session whose bitstream ring lies at an address. -/
def videoDesc (a : Nat) : List (Nat × Nat) := [(17, 8), (18, 128), (20, 128), (22, 3000), (24, 1), (48, a), (56, 4096), (60, 0xFF)]

theorem witness_VideoOpen :
    asks opened 0x50 (videoDesc bootArea.1) (fun s t =>
      let n := ((List.range 16).find? fun i => (s.video i).isNone).getD 16
      let v := videoOf t n (s.ringParty 0) 0
      s.videoOk v && !s.vxDown && s.videoFits v && v.group == 0xFF &&
        ((s.videoBytes v).2.allocSides true (ceilDiv (s.videoBytes v).1 blockBytes)).isSome) = true ∧
    asks opened 0x50 (videoDesc 0) (fun s t => !s.videoOk (videoOf t 0 (s.ringParty 0) 0)) = true ∧
    asks (firmware fun f => { f with vxRefused := true }) 0x50 (videoDesc bootArea.1) (fun s t =>
      s.videoOk (videoOf t 0 (s.ringParty 0) 0) && s.vxDown) = true ∧
    asks (opened.fput f_mcConfig_density 0) 0x50 (videoDesc bootArea.1) (fun s t =>
      let v := videoOf t 0 (s.ringParty 0) 0
      s.videoOk v && !s.vxDown && s.videoFits v &&
        ((s.videoBytes v).2.allocSides true (ceilDiv (s.videoBytes v).1 blockBytes)).isNone) = true := by decide +kernel

theorem witness_VideoFrames :
    (let v := { session with group := 0xFF }
     asks (firmware fun f => { f with videos := [v] }) 0x51 [(24, bootArea.1), (32, 64)] (fun s t => s.video (t.field 16 1) == some v &&
      v.party == s.ringParty 0 && v.closing == none && s.inArea (t.field 24 8) (t.field 32 4) && v.encodes)) = true ∧
    asks (firmware fun f => { f with videos := [session] }) 0x51 [] (fun s t => s.video (t.field 16 1) == some session &&
      session.group != 0xFF) = true ∧
    (∀ q ∈ [[], [videoFrame]], asks (firmware fun f => { f with videos := [{ session with queue := q }] }) 0x52 [] (fun s t =>
      s.video (t.field 16 1) == some { session with queue := q } && session.party == s.ringParty 0 && session.closing == none) = true) ∧
    (∀ op ∈ [0x51, 0x52], asks opened op [] (fun s t => s.video (t.field 16 1) == none) = true) ∧
    asks (firmware fun f => { f with videos := [{ session with closing := some (0, 0) }] }) 0x52 [] (fun s t =>
      (s.video (t.field 16 1)).any fun v => v.closing != none) = true := by decide +kernel

/-! Jobs, boot, resets and trust. -/

def noInputs : JobInputs := ⟨[], [], [], [], 0, []⟩

/-- How a preparation ends: 0 ready, 1 failed, 2 later. -/
def prepKind (p : Prep) : Nat :=
  match p with
  | .ready _ _ => 0
  | .fails _ _ _ => 1
  | .later _ _ => 2

/-- A job of ring 0 that has not been prepared, whose job block lies at an address. -/
def unprepared (block : Nat) : Job :=
  { jobAt .waiting with known := false, prepared := false, taken := taken [(0, 0x40), (16, block)] }

/-- Cores 0 and 1 at their boundaries, behind which core 1 lags. -/
def boundaries (k : Nat) : State :=
  (((coreAt 3).fput (f_ncStatus_state 1) 3).fput (f_ncStep_step 0) 2).fput (f_ncStep_step 1) k

/-- A job that runs on both, with the conditions that have come up. -/
def jobAtBoundary (k : Nat) (l : List JobCond) : State := { withJob (boundaries k) (jobAt .running) with jobCores := 3, conds := l }

theorem witness_JobPrepared :
    (∀ block ∈ [0, bootArea.1], (withJob opened (unprepared block)).fw.jobs.find? (fun j => j.ring == 0 && j.taken.index == 0 && !j.prepared) =
      some (unprepared block)) ∧ (withJob opened (unprepared 0)).mpStands = false ∧
    prepKind ((withJob opened (unprepared 0)).prepare (unprepared 0) noInputs) = 1 ∧
    prepKind ((withJob opened (unprepared bootArea.1)).prepare (unprepared bootArea.1) noInputs) = 0 ∧
    (State.reset.fw.jobs.find? fun j => j.ring == 0 && j.taken.index == 0 && !j.prepared) = none := by decide +kernel

theorem witness_JobBoundaries :
    (∀ k ∈ [1, 2], (jobAtBoundary k []).running = some (jobAt .running) ∧ (jobAtBoundary k []).mpStands = false ∧
      (jobAtBoundary k []).abortNow = false ∧ (jobAtBoundary k []).condStatus = none ∧
      (∀ c ∈ maskCores (jobAtBoundary k []).jobCores, (jobAtBoundary k []).standsCore c = true) ∧
      (((maskCores (jobAtBoundary k []).jobCores).filter fun c => decide ((jobAtBoundary k []).fget (f_ncStep_step c) < (jobAtBoundary k []).topStep)) =
        [] ↔ k = 2) ∧ (jobAt .running).step < (jobAtBoundary k []).topStep) ∧
    ((jobAtBoundary 2 [.ringFault]).condStatus ≠ none ∧ (jobAtBoundary 2 [.ringFault]).abortNow = false) ∧
    (let s : State := { jobAtBoundary 2 [.instructionFault] with abortNow := true }
     s.abortNow = true ∧ ∃ c ∈ maskCores s.jobCores, s.coreState c ≠ 0) ∧
    (let s : State := { withJob opened (jobAt .running) with jobCores := 3, conds := [.instructionFault], abortNow := true }
     s.abortNow = true ∧ s.condStatus.isSome = true ∧ ∀ c ∈ maskCores s.jobCores, s.coreState c = 0) ∧
    (let s : State := { withJob (coreAt 1) (jobAt .running) with jobCores := 1 }
     s.abortNow = false ∧ s.running = some (jobAt .running) ∧ s.standsCore 0 = false) ∧
    (let s : State := { withJob ((coreAt 3).fput (f_ncStep_step 0) 2) { jobAt .running with step := 2 } with jobCores := 1 }
     s.condStatus = none ∧ s.abortNow = false ∧ s.standsCore 0 = true ∧ s.topStep = 2 ∧ ∀ c ∈ maskCores s.jobCores, s.topStep ≤ s.fget (f_ncStep_step c)) ∧
    State.reset.running = none ∧ (∀ o ∈ [(5, 0), (7, 9)], o.2 = 0 ∨ State.reset.topStep ≤ o.1) := by decide +kernel

/-- A package of one section, an empty step table, whose digest is right. -/
def stepEntry : List Byte := [1, 0] ++ zeros 18 ++ leBytes 4 (crc32c []) ++ zeros 8

def emptyPackage : List Byte :=
  zeros 10 ++ [1, 0] ++ leBytes 4 128 ++ zeros 32 ++ Config.sha384 stepEntry ++ zeros 32 ++ stepEntry

theorem emptyPackage_ok : packageOk emptyPackage = true := by
  have h1 : ((sections emptyPackage).all (sectionOk emptyPackage emptyPackage.length)) = true := by decide +kernel
  have h2 : (Config.sha384 (emptyPackage.drop 0x80) == (emptyPackage.drop 0x30).take 48) = true := by
    have e : (emptyPackage.drop 0x30).take 48 = Config.sha384 stepEntry := rfl
    have d : emptyPackage.drop 0x80 = stepEntry := rfl
    rw [e, d]
    exact beq_self_eq_true _
  unfold packageOk
  rw [h1, h2]
  decide +kernel
/-- A package that loads, when no job is there. -/
def loading (b : List Byte) : State := { State.reset with fw := { State.reset.fw with loading := some (0, ⟨b, 1, [], [], []⟩, 0) } }

theorem witness_PackageLoads :
    ((loading (header 2 1)).fw.jobs = [] ∧ (loading (header 2 1)).mpStands = false ∧ packageOk (header 2 1) = false) ∧
    (∃ r : Resident, (loading emptyPackage).fw.loading = some (0, r, 0) ∧ (loading emptyPackage).fw.jobs = [] ∧ packageOk r.bytes = true ∧ r.ring ≤ 1) ∧
    ceilDiv ((((loadedSections emptyPackage 1 (some 0)).map (sectionAt emptyPackage)).filter fun x => x.kind == 5).foldl
      (fun a x => a + 64 * ceilDiv x.length 64) 0) blockBytes = 0 ∧
    (({ loading emptyPackage with fw := { State.reset.fw with loading := none } } : State).allocBlocks true (0 + 0)).isSome = true ∧
    State.reset.fw.loading = none :=
  ⟨by decide +kernel, ⟨⟨emptyPackage, 1, [], [], []⟩, rfl, rfl, emptyPackage_ok, Nat.le_refl 1⟩, by decide +kernel, by decide +kernel, rfl⟩

theorem witness_Boot : (∀ k ∈ [1, 2], (State.reset.fput f_hiBoot_state k).fget f_hiBoot_state = k) ∧ zeros 64 ≠ [] ∧
    0 + (zeros 64).length ≤ 0x80000 ∧ State.reset.host.image.length ≤ 0 ∧ 0x80000 < 0x80000 + (zeros 64).length ∧
    released.fget f_hiBoot_state = 4 ∧ State.reset.fget f_hiBoot_state = 0 ∧
    (State.reset.fput f_hiBoot_state 3).fget f_hiBoot_state = 3 ∧
    0 < ({ State.reset with host := { State.reset.host with image := zeros 64 } } : State).host.image.length := by
  refine ⟨by decide +kernel, by decide, by decide, by decide, by decide, by decide +kernel, by decide +kernel, by decide +kernel, by decide⟩

/-- The main domains held in reset, as PERST# holds them. -/
def heldReset : State := { State.reset with timeRuns := false, aoc := { State.reset.aoc with perst := true } }

def trippedState : State := { State.reset with timeRuns := false, aoc := { State.reset.aoc with tripped := true } }

theorem witness_WarmResetsAndPower : (State.reset.aoc.tripped = false ∧ State.reset.timeRuns = true ∧ State.reset.aoc.powered = true ∧
      State.reset.aoc.porst = false ∧ State.reset.aoc.slumber = false) ∧
    ((State.reset.fput f_aocWdog_arm 1).fbit f_aocWdog_arm = true ∧ (State.reset.fput f_aocWdog_arm 1).timeRuns = true) ∧
    State.reset.fbit f_aocWdog_arm = false ∧ State.reset.fget f_jrStatus_state = 0 ∧ (State.reset.fput f_jrStatus_state 1).fget f_jrStatus_state ≠ 0 ∧
    (heldReset.timeRuns = false ∧ heldReset.aoc.tripped = false) ∧ (trippedState.aoc.tripped = true ∧ trippedState.aoc.porst = false) ∧
    (({ State.reset with aoc := { State.reset.aoc with porst := true } } : State).aoc.porst = true) ∧
    (({ State.reset with aoc := { State.reset.aoc with powered := false } } : State).aoc.powered = false) ∧
    (∃ s : State, s.aoc.porst = false ∧ s.aoc.slumber = true ∧ s.aoc.powered = true) ∧ 2 ≤ memory.fget f_mcStatus_state ∧
    memory.timeRuns = true :=
  ⟨by decide +kernel, by decide +kernel, by decide +kernel, by decide +kernel, by decide +kernel, by decide +kernel, by decide +kernel,
   by decide +kernel, by decide +kernel, ⟨{ State.reset with aoc := { State.reset.aoc with slumber := true } }, by decide +kernel⟩,
   by decide +kernel, by decide +kernel⟩

/-- `alwaysOn` holds of some offsets and not of others. -/
theorem witness_MainReset : alwaysOn 0x8C0008 = false ∧ 0x8C0008 ≠ f_scStatus_tamper_seen.off ∧ alwaysOn f_aocSedRead_slot.off = true ∧
    f_aocSedRead_slot.off ≠ f_aocWdog_arm.off ∧ f_aocSedRead_slot.off ≠ f_scStatus_tamper_seen.off := by decide +kernel

/-- The SC's mailbox with its address arguments in the boot area, where a job block without entries lies, for adaptation state 5
of party 0. -/
def mailbox : State :=
  let o : State := { opened with regs := opened.regs ++ [(f_scStatus_keys_locked.off, 0)] }
  let a : State := { o with fw := { o.fw with adapts := [adaptation] } }
  [(0, bootArea.1 % 2 ^ 32), (1, bootArea.1 / 2 ^ 32), (2, bootArea.1 % 2 ^ 32), (3, bootArea.1 / 2 ^ 32), (5, 5)].foldl
    (fun s p => s.fput (f_scMboxArg_arg p.1) p.2) (a.setBytes (bootArea.1 + 0x28) (leBytes 8 bootArea.1))

theorem witness_Mailbox :
    (∃ s : State, s.mboxArg 0 ∈ s.sc.renewed) ∧ State.reset.mboxArg 0 ∉ State.reset.sc.renewed ∧ mailbox.stopped 8 = false ∧
    (mailbox.fput (f_cruDomain_stopped 8) 1).stopped 8 = true ∧ mailbox.keysLocked = false ∧ ({ State.reset with regs := [(f_scStatus_keys_locked.off, BitVec.ofNat 32 (2 ^ f_scStatus_keys_locked.lo))] } : State).keysLocked = true ∧
    (mailbox.inArea (mailbox.mboxAddr 0) 0x80 = true ∧ mailbox.inArea (mailbox.mboxAddr 2) 256 = true ∧ mailbox.mboxArg 4 ≤ 15 ∧
      mailbox.mboxIo (mailbox.areaRead [] (mailbox.mboxAddr 2) 256).1 = some []) ∧
    mailbox.mboxAdapt = some adaptation ∧
    (mailbox.exportState [] adaptation).any (fun x => mailbox.inArea (mailbox.mboxAddr 0) x.1.length) = true ∧
    ((mailbox.fput (f_scMboxArg_arg 3) 0).inArea ((mailbox.fput (f_scMboxArg_arg 3) 0).mboxAddr 2) 256 = false) ∧
    (mailbox.fput (f_scMboxArg_arg 5) 6).mboxAdapt = none := by
  refine ⟨⟨{ State.reset with sc := { State.reset.sc with renewed := [0] } }, by decide +kernel⟩, by decide +kernel, by decide +kernel,
    by decide +kernel, by decide +kernel, by decide +kernel, by decide +kernel, by decide +kernel, by decide +kernel, by decide +kernel,
    by decide +kernel⟩

/-- The SC answers, with a number of steps of the negotiation done and some sessions. -/
def responder (steps : Nat) (l : List SpdmSession) : State :=
  { released with sc := { released.sc with spdm := steps, sessions := l } }

theorem witness_SpdmAnswers : State.reset.scUp = false ∧ (∀ k ∈ [0, 1, 2, 3], (responder k []).scUp = true ∧ (responder k []).sc.spdm = k) ∧
    (responder 3 []).sc.sessions.length < 4 ∧ 4 ≤ (responder 3 (List.replicate 4 ⟨7, true⟩)).sc.sessions.length ∧
    ((responder 3 [⟨7, false⟩]).session 7 ≠ none ∧ (responder 3 [⟨7, false⟩]).inSession 7 = false) ∧ (responder 3 []).session 7 = none ∧
    (responder 3 [⟨7, true⟩]).inSession 7 = true ∧ (responder 3 []).inSession 7 = false ∧ (responder 3 []).measurements 200 = [] ∧
    (responder 3 []).measurements 1 ≠ [] := by decide +kernel

theorem witness_KeysAndLifeCycle :
    ((responder 3 [⟨7, true⟩]).scUp = true ∧ 3 ≤ (responder 3 [⟨7, true⟩]).sc.spdm ∧ (responder 3 [⟨7, true⟩]).inSession 7 = true ∧
      (responder 3 [⟨7, true⟩]).inSession 8 = false ∧ (responder 3 []).fbit (f_scSlot_in_use 15) = false) ∧
    State.reset.scUp = false ∧ ((responder 2 []).scUp = true ∧ (responder 2 []).sc.spdm < 3) ∧ (responder 3 []).sc.challenge = [] ∧
    (∃ s : State, s.scUp = true ∧ 3 ≤ s.sc.spdm ∧ s.fbit (f_scSlot_in_use 15) = true) :=
  ⟨by decide +kernel, by decide +kernel, by decide +kernel, by decide +kernel, ⟨(responder 3 []).fput (f_scSlot_in_use 15) 1, by decide +kernel⟩⟩

/-- In a part delivered with no life-cycle fuse blown, a state blown to `field` is in life-cycle state 2, from which it may be
retired; whether a token or a signature verifies is the standard's to say. -/
theorem witness_KeysAndLifeCycle_fused (h : Config.lifeCycle = 0) :
    (let s : State := { responder 3 [] with sc := { (responder 3 []).sc with lifeBlown := 3, challenge := [1] } }
     s.scUp = true ∧ 3 ≤ s.sc.spdm ∧ s.lifeState = 2 ∧ s.lifeMove 7 = true ∧ s.sc.challenge ≠ []) ∧
    (responder 3 []).lifeState ≠ 2 := by
  simp only [State.lifeMove, State.lifeState, State.lifeFuse, h]
  decide +kernel

/-! Clocks, power and the governor. -/

/-- PLL 0 locked and ready, and domain 0 on it. -/
def locked : State :=
  ((((State.reset.fput (f_cruPllCtrl_enable 0) 1).fput (f_cruPllStatus_locked 0) 1).fput (f_cruPllStatus_ready 0) 1).fput
    (f_cruDomain_src 0) 1).fput (f_cruDomain_src_now 0) 1

/-- PLL 0 lost, at one of its attempts. -/
def lost (attempt : Nat) : State :=
  ({ locked with clk := { locked.clk with lost := [0] } } : State).fput (f_cruPllStatus_attempts 0) attempt

theorem witness_ClockLosses : State.reset.fbit (f_cruPllStatus_locked 0) = false ∧ locked.fbit (f_cruPllStatus_locked 0) = true ∧
    locked.srcNow 0 = 1 ∧ (locked.fput (f_cruDomain_src_now 0) 0).srcNow 0 ≠ 1 ∧
    (0 ∈ (lost 2).clk.lost ∧ (lost 2).fget (f_cruPllStatus_attempts 0) < 3) ∧
    (0 ∈ (lost 3).clk.lost ∧ (lost 3).fget (f_cruPllStatus_attempts 0) = 3) ∧ 0 ∉ locked.clk.lost ∧
    (35625 ≤ 32 * 1171 ∧ 32 * 1171 ≤ 39375) ∧ 32 * 1113 < 35625 ∧ 39375 < 32 * 1231 ∧
    (locked.fbit (f_cruPllCtrl_enable 0) = true ∧ locked.fbit (f_cruPllStatus_failed 0) = false) ∧
    (State.reset.fput (f_cruPllCtrl_enable 0) 0).fbit (f_cruPllCtrl_enable 0) = false := by decide +kernel

theorem witness_ClockLosses_memory :
    (((locked.fput (f_cruPllStatus_locked 5) 1).fput (f_cruDomain_src_now 5) 1).fbit (f_cruPllStatus_locked 5) = true ∧
      ((locked.fput (f_cruPllStatus_locked 5) 1).fput (f_cruDomain_src_now 5) 1).srcNow 5 = 1) := by decide +kernel

theorem witness_SourcesAndPlls :
    (State.reset.domainHeld 0 = false ∧ State.reset.fbit (f_cruDomain_stopped 0) = false ∧ bits (0 : Word).toNat 1 0 = 0) ∧
    (locked.domainHeld 0 = false ∧ locked.fbit (f_cruDomain_stopped 0) = false ∧ bits (1 : Word).toNat 1 0 = 1 ∧
      locked.fbit (f_cruPllStatus_ready 0) = true) ∧
    (State.reset.domainHeld 6 = false ∧ State.reset.fbit (f_cruDomain_stopped 6) = false ∧ bits (2 : Word).toNat 1 0 = 2) ∧
    (let s := (State.reset.fput (f_pgCorePwr_on 0) 0).fput (f_pgCorePwr_on 1) 0
     s.domainHeld 0 = false ∧ s.fbit (f_cruDomain_stopped 0) = false ∧ s.fbit (f_pgCorePwr_on 0) = false ∧ s.fbit (f_pgCorePwr_on 1) = false) ∧
    (State.reset.fput f_pgPower_cut_active 1).domainHeld 3 = true ∧ bits (3 : Word).toNat 1 0 = 3 ∧
    State.reset.fbit (f_cruPllStatus_ready 0) = false ∧ ((State.reset.fput (f_pgCorePwr_on 0) 1).fbit (f_pgCorePwr_on 0) = true) ∧
    (bit (0 : Word).toNat 0 = false ∧ locked.fget (f_cruDomain_src 0) = 1) ∧ bit (1 : Word).toNat 0 = true ∧
    ((locked.fput (f_cruDomain_src 0) 0).fput (f_cruDomain_src_now 0) 0).srcNow 0 ≠ 1 := by decide +kernel

theorem witness_GovernorCutAndTrip : State.reset.timeRuns = true ∧ heldReset.timeRuns = false ∧
    (let s := ((locked.fput (f_pgCorePwr_on 0) 1).fput (f_pgCoreV_v_mv 0) 700).fput (f_pgLimitVmax_vmax_mv 0) 800
     s.timeRuns = true ∧ s.fbit (f_pgCorePwr_on 0) = true ∧ s.fbit (f_cruDomain_stopped 0) = false ∧ 485 ≤ s.fget (f_pgCoreV_v_mv 0) ∧
       s.fget (f_pgCoreV_v_mv 0) + 5 ≤ s.fget (f_pgLimitVmax_vmax_mv 0)) ∧ (State.reset.fput (f_pgCorePwr_on 0) 0).fbit (f_pgCorePwr_on 0) = false ∧
    State.reset.fbit f_pgPower_cut_active = false ∧ (State.reset.fput f_pgPower_cut_active 1).fbit f_pgPower_cut_active = true ∧
    (State.reset.aoc.tripped = false ∧ State.reset.aoc.powered = true) ∧ trippedState.aoc.tripped = true := by decide +kernel

theorem witness_LimitsAndCorePower :
    (∀ off ∈ [0x20, 0x2C, 0x30, 0x34, 0x40, 0x5C], limitFields off ≠ [] ∧ ∃ v ∈ [0x12C, 0x1E, 0x6446, 0x258],
      ∀ p ∈ limitFields off, p.2 ≤ bits v p.1.hi p.1.lo ∧ bits v p.1.hi p.1.lo ≤ State.reset.fget p.1) ∧
    (∃ p ∈ limitFields 0x20, State.reset.fget p.1 < bits (0xFFFFFFFF : Word).toNat p.1.hi p.1.lo) ∧
    State.reset.coreState 0 = 0 ∧ (coreAt 1).coreState 0 ≠ 0 ∧
    (let s := (State.reset.fput (f_pgCorePwr_on 0) 0).fput (f_pgCorePwr_off_req 0) 0
     s.fbit (f_pgCorePwr_on 0) = false ∧ s.fbit (f_pgCorePwr_off_req 0) = false) ∧ State.reset.fbit (f_pgCorePwr_on 0) = true ∧
    limitFields 0 = [] ∧ (∃ p ∈ limitFields 0x20, bits (0 : Word).toNat p.1.hi p.1.lo < p.2) := by decide +kernel

/-! The always-on controller, the journal and the management port. -/

/-- A record of the AOC being written. -/
def writing : State := { State.reset with jr := { State.reset.jr with writing := some (0x40, ⟨0, false, 1, zeros 8, none⟩) } }

/-- `writing`, whose record the flash has refused once. -/
def retried : State := { writing with jr := { writing.jr with retried := true } }

theorem witness_WatchdogRasAndJournal :
    (State.reset.fbit f_aocWdog_arm = false ∧ 10 ≤ bits (BitVec.ofNat 32 (2 * 10 + 1)).toNat 16 1 ∧
      bits (BitVec.ofNat 32 (2 * 60000 + 1)).toNat 16 1 ≤ 60000) ∧ (State.reset.fput f_aocWdog_arm 1).fbit f_aocWdog_arm = true ∧
    State.reset.fenceOpen = none ∧ (∃ s : State, s.fenceOpen = some 3) ∧
    (1 ≤ bits (BitVec.ofNat 32 (4096 + 3600)).toNat 11 0 ∧ bits (BitVec.ofNat 32 (4096 + 3600)).toNat 11 0 ≤ 3600 ∧
      bits (BitVec.ofNat 32 (4096 + 3600)).toNat 19 12 ≠ 0) ∧ bits (0 : Word).toNat 11 0 = 0 ∧
    3600 < bits (BitVec.ofNat 32 3601).toNat 11 0 ∧ State.reset.aoc.porst = false ∧ State.reset.jr.writing = none ∧
    (writing.jrCommit.any fun x => x.1.writer != 1) = true ∧ writing.jr.writing.isSome = true ∧ writing.jr.retried = false ∧
    retried.jr.writing.isSome = true ∧ retried.jr.retried = true ∧ State.reset.jrCommit.isNone = true ∧
    (∃ s : State, (s.jrCommit.any fun x => x.1.writer == 1) = true) :=
  ⟨by decide +kernel, by decide +kernel, by decide, ⟨{ State.reset with fenceOpen := some 3 }, rfl⟩, by decide +kernel, by decide +kernel,
   by decide +kernel, by decide, by decide, by decide +kernel, by decide, by decide, by decide, by decide, by decide +kernel,
   ⟨{ State.reset with jr := { State.reset.jr with writing := some (0x40, ⟨1, false, 1, zeros 8, none⟩) } }, by decide +kernel⟩⟩

/-- The MP owns the management port, and endpoint 9 has a profile of everything. -/
def managed : State := { State.reset with aoc := { State.reset.aoc with owns := false, released := true, profiles := [(9, 15)] } }

/-- Endpoint 9 with a profile of given bits. -/
def profiled (g : Nat) : State := { managed with aoc := { managed.aoc with profiles := [(9, g)] } }

theorem witness_ManagementPort : managed.aoc.owns = false ∧ managed.aoc.released = true ∧ managed.aoc.porst = false ∧
    managed.profile 9 = some 15 ∧ managed.profile 8 = none ∧ ((1 : BitVec 8).toNat ≤ 1 ∧ 1 ≤ (1 : BitVec 8).toNat) ∧
    1 < (2 : BitVec 8).toNat ∧ (0 : BitVec 8).toNat < 1 ∧ ((5 : BitVec 8) ≠ 0 ∧ (5 : BitVec 8) ≠ 0xFF) ∧
    (managed.sensor 2).isSome = true ∧ managed.sensor 0 = none ∧ (∀ n ∈ [3, 4, 38], (managed.sensor n).isSome = true) ∧
    managed.mpStands = false ∧ (managed.fput (f_cruDomain_stopped 8) 1).mpStands = true ∧
    (bit 15 0 = true ∧ bit 15 2 = true) ∧ ((profiled 3).profile 9 = some 3 ∧ bit 3 2 = false ∧ bit 3 0 = true) ∧
    ((profiled 8).profile 9 = some 8 ∧ bit 8 0 = false) ∧ (State.reset.aoc.owns = true ∧ State.reset.aoc.porst = false) ∧
    (let s := (managed.sediment' 0x10 0 0x0045 0); 0 < s.sedCount ∧ s.sedCount ≤ 0 + 4096) := by decide +kernel

/-! Pads and registers. -/

theorem witness_PinMux :
    ((State.reset.fput (f_pinMux_switching 50) 1).fbit (f_pinMux_switching 50) = true) ∧
    (State.reset.fbit (f_pinMux_switching 50) = false ∧ bits (3 : Word).toNat 1 0 = 3) ∧
    (State.reset.fbit (f_pinMux_switching 20) = false ∧ bits (2 : Word).toNat 1 0 ≠ 0 ∧ padSignal 20 (bits (2 : Word).toNat 1 0) = none) ∧
    (bits (2 : Word).toNat 1 0 ≠ State.reset.fget (f_pinMux_func 44) ∧ padSignal 44 (bits (2 : Word).toNat 1 0) = some 200) ∧
    (∃ s : State, s.fbit (f_pinMux_switching 44) = false ∧ bits (2 : Word).toNat 1 0 ≠ s.fget (f_pinMux_func 44) ∧
      ∃ m : Fin 64, m ≠ 44 ∧ padSignal m.val (s.fget (f_pinMux_func m.val)) = some 200) ∧
    (∃ s : State, s.fbit (f_pinMux_switching 44) = false ∧ bits (2 : Word).toNat 1 0 ≠ s.fget (f_pinMux_func 44) ∧
      (∀ m : Fin 64, m ≠ 44 → padSignal m.val (s.fget (f_pinMux_func m.val)) ≠ some 200) ∧ s.fw.side = none) ∧
    (∃ (s : State) (n : Fin 64) (b : Nat), s.fbit (f_pinMux_switching n.val) = false ∧ s.fget (f_pinMux_func n.val) = 1 ∧
      padBus n.val 1 = some b ∧ s.fw.side = some (0, b) ∧ bits (0 : Word).toNat 1 0 = 0) :=
  ⟨by decide +kernel, by decide +kernel, by decide +kernel, by decide +kernel,
   ⟨(State.reset.fput (f_pinMux_func 36) 1).fput (f_pinMux_func 44) 0, by decide +kernel⟩,
   ⟨(State.reset.fput (f_pinMux_func 36) 0).fput (f_pinMux_func 44) 0, by decide +kernel⟩,
   ⟨({ State.reset with fw := { State.reset.fw with side := some (0, 0) } } : State).fput (f_pinMux_func 0) 1, 0, 0, by decide +kernel⟩⟩

/-- A register of the MP's, one of the host's, one with growth bits, and two pairs. -/
theorem witness_RegisterAccesses :
    (6 < 0x4000000 ∧ 6 % 4 ≠ 0) ∧ bar4Base ≤ 0x8000000 ∧ (pairKind 0x820000 = 0 ∧ mayWrite .mp 0x8C0008 = true ∧ mayWrite .host 0x8C0008 = false ∧ pairKind 0x8C0008 = 0 ∧
      mayWrite .mp 0x820000 = false) ∧
    growthSet (regStore 0x8C0008) 0 = false ∧ State.reset.mpReport 0x8C0008 0 = none ∧
    (mayWrite .mp 0x830004 = true ∧ pairKind 0x830004 = 0 ∧ growthSet (regStore 0x830004) 0xFFFFFFFF = true) ∧ 0x910000 / 0x10000 = 0x91 ∧
    (∀ x ∈ [(Requester.host, 0x820100), (Requester.mp, 0x930200)], 
      let rq := x.1
      let pairLow := x.2
      pairKind pairLow = 1 ∧ pairKind (pairLow + 4) = 2 ∧ pairLow < 0x4000000 ∧ pairLow % 4 = 0 ∧ pairLow / 0x10000 ≠ 0x91 ∧
      pairLow ≠ f_iaTimeStep_step_lo.off ∧ mayWrite rq pairLow = true ∧ mayWrite rq (pairLow + 4) = true ∧
      growthSet 0x820100 0xFFFFFFFF = true ∧ growthSet pairLow 0 = false ∧ growthSet (pairLow + 4) 0 = false ∧
      mapGet (fun _ => (none : Option Word)) State.reset.latches (pairKey rq pairLow) = none ∧
      mapGet (fun _ => (none : Option Word)) State.reset.holds (pairKey rq pairLow) = none ∧
      mapGet (fun _ => (none : Option Word)) (State.reset.setHold (pairKey rq pairLow) (some 7)).holds (pairKey rq pairLow) = some 7 ∧
      mapGet (fun _ => (none : Option Word)) (State.reset.setLatch (pairKey rq pairLow) (some 7)).latches (pairKey rq pairLow) = some 7) := by
  decide +kernel

/-! Hypotheses that meet values of the part and of the standards. -/

theorem leNat_leBytes (k n : Nat) (h : n < 256 ^ k) : leNat (leBytes k n) = n := by
  induction k generalizing n with
  | zero => simp at h; simp [leNat, leBytes, h]
  | succ k ih =>
    have h1 : n / 256 < 256 ^ k := by
      rw [Nat.div_lt_iff_lt_mul (by decide)]
      rwa [Nat.pow_succ] at h
    simp only [leNat, leBytes, ih _ h1, BitVec.toNat_ofNat]
    omega

/-- An export of adaptation state 5 of party 0 that holds nothing. -/
def exported : List Byte := exportHeader 0 5 0 0 false (zeros 12) ++ Config.sha384 []

theorem exported_imports (s : State) (h : s.slotSealed 0 = false) : s.importPayload adaptation exported = some (0, []) := by
  have h0 : fieldAt (exported.take 64) 0 4 = Config.exportMagic := leNat_leBytes 4 _ Config.exportMagicWord.isLt
  have h1 : fieldAt (exported.take 64) 4 1 = 0 := rfl
  have h2 : fieldAt (exported.take 64) 8 4 = 5 := rfl
  have h3 : fieldAt (exported.take 64) 5 1 = 0 := rfl
  have h4 : fieldAt (exported.take 64) 24 8 = 0 := rfl
  have h5 : fieldAt (exported.take 64) 16 8 = 0 := rfl
  have h6 : (exported.drop (64 + 0)).take 48 = Config.sha384 [] := rfl
  have hp : adaptation.party = 0 := rfl
  have hi : adaptation.id = 5 := rfl
  unfold State.importPayload
  simp [hp, hi, h, h0, h1, h2, h3, h4, h5, b2n]
  simpa using h6.symm

/-- ADAPT_EXPORT and ADAPT_IMPORT of 112 B through the host window. -/
def exportDesc (op : Nat) : List (Nat × Nat) := [(0, op), (16, 5), (24, hostBase), (32, 112)]

def adapting (op : Nat) : State :=
  let o := runs (windowed 0) 0 (exportDesc op)
  { o with fw := { o.fw with adapts := [adaptation] } }

theorem witness_RingCommands_adaptation :
    ((adapting 0x49).turn 0 0x49 = some (taken (exportDesc 0x49)) ∧ (adapting 0x49).adaptOf 0 (taken (exportDesc 0x49)) = some adaptation ∧
      ((adapting 0x49).exportState [] adaptation).any (fun x => decide (x.1.length ≤ (taken (exportDesc 0x49)).field 32 8) &&
        (adapting 0x49).inArea ((taken (exportDesc 0x49)).field 24 8) x.1.length) = true) ∧
    ((adapting 0x4A).turn 0 0x4A = some (taken (exportDesc 0x4A)) ∧ (adapting 0x4A).adaptOf 0 (taken (exportDesc 0x4A)) = some adaptation ∧
      (adapting 0x4A).inArea ((taken (exportDesc 0x4A)).field 24 8) ((taken (exportDesc 0x4A)).field 32 8) = true ∧
      ((adapting 0x4A).importState adaptation 0 []).isSome = true) ∧
    (adapting 0x4A).importPayload adaptation ((adapting 0x4A).areaRead exported hostBase 112).1 = some (0, []) := by
  refine ⟨by decide +kernel, by decide +kernel, ?_⟩
  have h : ((adapting 0x4A).areaRead exported hostBase 112).1 = exported := rfl
  rw [h]
  exact exported_imports _ (by decide +kernel)

/-- A member table that names this device alone, at address 0. -/
def memberData : List Byte := leBytes 8 Config.deviceId.toNat ++ zeros 8

theorem chunks_two (m : List Byte) (h : m.length = 16 := by rfl) :
    ∃ rest, chunks 16 (m ++ zeros 1008) = m :: zeros 16 :: rest := by
  match m, h with
  | [a, b, c, d, e, f, g, h, i, j, k, l, m, n, o, p], _ => exact ⟨_, rfl⟩

theorem members_alone (h : Config.deviceId.toNat ≠ 0) :
    (parseMembers (memberData ++ zeros 1008)).1 = [⟨Config.deviceId, some 0, false⟩] := by
  obtain ⟨rest, hc⟩ : ∃ rest, chunks 16 (memberData ++ zeros 1008) = memberData :: zeros 16 :: rest := chunks_two _
  have hi : leNat (memberData.take 8) = Config.deviceId.toNat := leNat_leBytes 8 _ Config.deviceId.isLt
  have hz : leNat ((zeros 16).take 8) = 0 := by decide
  have ha : fieldAt memberData 8 1 = 0 := rfl
  have hs : fieldAt memberData 9 1 = 0 := rfl
  have hr : enumRecords (memberData ++ zeros 1008) = [memberData] := by
    unfold enumRecords
    rw [hc]
    have hb : (Config.deviceId.toNat != 0) = true := by simpa using h
    simp only [List.takeWhile, hi, hz, hb]
    rfl
  unfold parseMembers
  simp only [hr, List.map, hi, ha, hs]
  simp

theorem memberTable_alone (s : State) (d : List Byte) (ho : s.ring.order.isEmpty = true) : s.memberTable d = (parseMembers d).1 := by
  unfold State.memberTable
  simp only [ho, if_true]

theorem areaRead_members (s : State) (h : s.areaRead memberData hostBase 1024 = ((memberData ++ zeros 1024).take 1024, [])) :
    (s.areaRead memberData hostBase 1024).1 = memberData ++ zeros 1008 := by
  have l : memberData.length = 16 := rfl
  rw [h, List.take_append, l, List.take_of_length_le (by rw [l]; decide)]
  exact congrArg (memberData ++ ·) (by unfold zeros; rw [List.take_replicate]; rfl)

/-- RING_CONFIGURE with its table in the host window, in a part whose identity is not zero. -/
theorem witness_RingZeroCommands_configure (h : Config.deviceId.toNat ≠ 0) :
    let d := [(0, 0x21), (16, hostBase)]
    let s := runs (windowed 0) 0 d
    s.turn 0 0x21 = some (taken d) ∧ s.ring.head = .none ∧ s.inArea ((taken d).field 16 8) 1024 = true ∧
      (taken d).field 16 8 = hostBase ∧ s.memberTable (s.areaRead memberData hostBase 1024).1 = [⟨Config.deviceId, some 0, false⟩] := by
  intro d s
  refine ⟨by decide +kernel, by decide +kernel, by decide +kernel, by decide +kernel, ?_⟩
  rw [memberTable_alone s _ (by decide +kernel), areaRead_members s rfl, members_alone h]

/-- Bytes at an address, as cells. -/
def cellsAt (a : Nat) (d : List Byte) : List Host.Cell := (List.range d.length).map fun i => (a + i, d.getD i 0)

/-- A job block without entries, and an envelope without entries for it. -/
def jobBlock : List Byte := zeros 0x28 ++ leBytes 8 bootArea.1 ++ zeros 208

def envelope : List Byte := leBytes 4 0x4C414553 ++ zeros 76 ++ Config.sha384 jobBlock

/-- The mailbox with that envelope at argument 0 and that job block at argument 2, and party 0's key. -/
def unsealing : State :=
  { [(0, bootArea.1 % 2 ^ 32), (1, bootArea.1 / 2 ^ 32), (2, bootArea.1 % 2 ^ 32 + 128), (3, bootArea.1 / 2 ^ 32)].foldl
      (fun s p => s.fput (f_scMboxArg_arg p.1) p.2) { opened with regs := opened.regs ++ [(f_scStatus_keys_locked.off, 0)] } with
    mem := cellsAt bootArea.1 envelope ++ cellsAt (bootArea.1 + 128) jobBlock,
    sc := { State.reset.sc with psk := [(0, some (zeros 32, 1))] } }

theorem unsealing_places : unsealing.keysLocked = false ∧ unsealing.inArea (unsealing.mboxAddr 0) 0x80 = true ∧
    unsealing.inArea (unsealing.mboxAddr 2) 256 = true ∧ unsealing.mboxAddr 0 = bootArea.1 ∧ unsealing.psk 0 = some (zeros 32) ∧
    (unsealing.areaRead [] (unsealing.mboxAddr 2) 256).1 = jobBlock ∧ unsealing.mboxIo jobBlock = some [] := by decide +kernel

set_option maxRecDepth 20000 in
theorem unsealing_envelope : unsealing.areaRead [] bootArea.1 0x80 = (envelope, []) := rfl

/-- Where the standard opens the envelope's data key, the envelope is good. -/
theorem witness_Mailbox_unseal (key : List Byte)
    (h : Config.gcmOpen (zeros 32) (zeros 12) (envelope.take 16) ((envelope.drop 0x1C).take 48) = some key) :
    (unsealing.unsealEnvelope [] (unsealing.mboxAddr 0) (unsealing.areaRead [] (unsealing.mboxAddr 2) 256).1 []).ok = true := by
  obtain ⟨hk, -, -, ha, hp, hb, -⟩ := unsealing_places
  rw [hb, ha]
  unfold State.unsealEnvelope
  have h1 : fieldAt envelope 4 1 = 0 := rfl
  have h2 : fieldAt envelope 5 1 = 0 := rfl
  have h3 : fieldAt envelope 0 4 = 0x4C414553 := rfl
  have h4 : (envelope.drop 0x10).take 12 = zeros 12 := rfl
  have h5 : (envelope.drop 0x50).take 48 = Config.sha384 jobBlock := rfl
  have h6 : mapGet (fun _ => (none : Option Nat)) unsealing.sc.counters 0 = none := rfl
  simp [unsealing_envelope, h1, h2, h3, h4, h5, h6, hp, hk, h]
  rfl

/-- The mailbox with an export of that state at argument 0. -/
def importing : State :=
  { (mailbox.fput (f_scMboxArg_arg 2) 112).fput (f_scMboxArg_arg 3) 0 with mem := cellsAt bootArea.1 exported }

set_option maxRecDepth 20000 in
theorem importing_read : (importing.areaRead [] bootArea.1 112).1 = exported := rfl

theorem witness_Mailbox_import : importing.keysLocked = false ∧ importing.mboxAdapt = some adaptation ∧
    importing.inArea (importing.mboxAddr 0) (importing.mboxArg 2) = true ∧ (importing.importState adaptation 0 []).isSome = true ∧
    importing.mboxAddr 0 = bootArea.1 ∧ importing.mboxArg 2 = 112 ∧
    importing.importPayload adaptation (importing.areaRead [] bootArea.1 112).1 = some (0, []) :=
  ⟨by decide +kernel, by decide +kernel, by decide +kernel, by decide +kernel, by decide +kernel, by decide +kernel,
   by rw [importing_read]; exact exported_imports _ (by decide +kernel)⟩

/-! What each check of WellFormed refuses. -/

/-- A frame whose payload or tag has one byte too many. -/
def badFrame (payload tag : Nat) : RingRx := ⟨0, 0, false, ⟨0, none, List.replicate payload 0, List.replicate tag 0⟩⟩

theorem test_wf_offset : wfOffset 2 = false ∧ wfOffset 0x8000000 = false ∧ wfOffset 0x7FFFFFC = true := by decide

theorem test_wf_frame : wfFrame (badFrame 513 0).frame = false ∧ wfFrame (badFrame 0 17).frame = false ∧
    wfFrame (badFrame 512 16).frame = true := by decide +kernel

theorem test_wf_vx_image : wfVxImage (List.replicate 4097 0) [0] = false ∧ wfVxImage [] [2 ^ 32] = false ∧
    wfVxImage [0] [2 ^ 32 - 1] = true := by decide +kernel

theorem test_wf_pass : ([(65536, 0, 0, 0, 0, 0), (0, 2, 0, 0, 0, 0), (0, 0, 256, 0, 0, 0), (0, 0, 0, 8, 0, 0), (0, 0, 0, 0, 4, 0),
      (0, 0, 0, 0, 0, 4)].all fun x => !(Instr.pass 0 0 [⟨x.1, x.2.1, x.2.2.1, x.2.2.2.1, x.2.2.2.2.1, 1, 0, x.2.2.2.2.2⟩]).wf) = true ∧
    (Instr.pass 0 0 [⟨65535, 1, 255, 7, 3, -1, 1, 3⟩]).wf = true := by decide

theorem test_wf_core_events : (Instr.transferFailed 0 0 0 (2 ^ 32) []).wf = false ∧ (Instr.spAsyncWriteback 0 0x40000).wf = false := by
  decide

theorem test_wf_registers : (Instr.registerWrite .host 1 0).wf = false ∧ (Instr.pairLowRead .mp 6).wf = false ∧
    (Instr.pairHighRead .mp 0x8000004).wf = false ∧ (Instr.pairLowWrite .host 3 0).wf = false ∧
    (Instr.pairHighWrite .host 0x8000004 0).wf = false ∧ (Instr.limitWrite 2 0).wf = false ∧ (Instr.limitWrite 0x10000 0).wf = false := by
  decide

theorem test_wf_ring_frames :
    ([Instr.linkHello, .frameData, .dataLast, .burstOpen, .burstReply, .signalFrame, .fence, .enumOutbound, .enumReturn,
      .membershipQuiesce, .membershipCommit, .fwMessage].all fun c => !(c (badFrame 513 0)).wf && !(c (badFrame 0 17)).wf &&
        (c (badFrame 512 16)).wf) = true ∧
    (Instr.creditReturn 0 false 0).wf = false := by decide +kernel

theorem test_wf_sensors : (Instr.longPacket 0 0 0 (List.replicate 65536 0) 0 true false).wf = false ∧
    (Instr.spiDataReady 0 (List.replicate 49 0)).wf = false := by decide +kernel

theorem test_wf_images : (Instr.vxSeqHold [0] []).wf = false ∧ (Instr.vxHeartbeatTimeout [0] []).wf = false := by decide

theorem test_wf_memory : (Instr.mcRequest 0 32 0 false 0 []).wf = false ∧ (Instr.mcRequest 0 64 0 false 0 [0]).wf = false ∧
    (Instr.mcRequest 0 64 0 true 0 []).wf = false ∧ (Instr.mr4Poll []).wf = false ∧ (Instr.trainingOpDone []).wf = false := by decide

theorem test_wf_windows : (Instr.bar2Read none 0 0).wf = false ∧ (Instr.bar2Read none (2 ^ 37 - 3) 4).wf = false ∧
    (Instr.bar2Write none 0 [] false).wf = false ∧ (Instr.bar2Write none (2 ^ 37) [0] false).wf = false ∧
    (Instr.bar2Read (some 9) (2 ^ 37 - 4) 4).wf = true ∧
    (Instr.bootWindowWrite 0 []).wf = false ∧ (Instr.bootWindowWrite (2 ^ 28) [0]).wf = false := by decide

theorem test_wf_trust : (Instr.challenge []).wf = false ∧ (Instr.getMeasurements 0 []).wf = false ∧
    (Instr.partyKeySet 0 16 (zeros 32) []).wf = false ∧ (Instr.partyKeySet 0 0 [] []).wf = false ∧ (Instr.partyKeyErase 0 16).wf = false ∧
    (Instr.ringKeySet 0 [] (zeros 8)).wf = false ∧ (Instr.ringKeySet 0 (zeros 32) []).wf = false ∧ (Instr.slotRenew 16).wf = false ∧
    (Instr.governorUpdate [] 0 0).wf = false := by decide

theorem test_wf_queue : ¬ State.QueueWf { State.reset with pending := [.bootGo, .slotRenew 16] } := by
  intro h
  exact absurd (h (.slotRenew 16) (by decide)) (by decide)

/-! Results worked out from the spec's own examples and from the standards it names. -/

/-- The check value of CRC-32C, over the nine digits (R7's polynomial). -/
theorem test_crc32c : crc32c ([0x31, 0x32, 0x33, 0x34, 0x35, 0x36, 0x37, 0x38, 0x39] : List Byte) = 0xE3069283 := by decide +kernel

/-- FIPS 197 Appendix C.1. -/
theorem test_aes128 : aesEncrypt (List.range 16) ((List.range 16).map (17 * ·)) =
    [0x69, 0xC4, 0xE0, 0xD8, 0x6A, 0x7B, 0x04, 0x30, 0xD8, 0xCD, 0xB7, 0x80, 0x70, 0xB4, 0xC5, 0x5A] := by decide +kernel

/-- The worked example of R80: scale byte 0x78, and the codes of 3.0, and of the binary32 values next to -0.7, 0.01, 0.0001. -/
theorem test_quantise : quantScale 6 false [.val 3 0] = 0x78 ∧ quantCode 6 (-7) (.val 3 0) = (0x7C, false) ∧
    quantCode 6 (-7) (.val (-11744051) (-24)) = (0xEB, false) ∧ quantCode 6 (-7) (.val 10737418 (-30)) = (0x3A, false) ∧
    quantCode 6 (-7) (.val 13743895 (-37)) = (0x07, false) := by decide +kernel

/-- The worked example of R97: 108 x 2^-13 under so = -10 is 14, or by stochastic rounding 13 below a grit value of 32768. -/
theorem test_requant : requant 2 0 false none 108 (-3) = (14, false) ∧ requant 2 0 false (some 32768) 108 (-3) = (14, false) ∧
    requant 2 0 false (some 32767) 108 (-3) = (13, false) := by decide +kernel

/-- The worked examples of R52: F3 = 656 from X_0 = 400; F_C = 1283 from X_0 = 1027. -/
theorem test_array_start :
    startFrom { ArrRt.reset with tag := true, x0 := some 400, x1 := some 650, y := some 400 } true 650 = 656 ∧
    startFrom { ArrRt.reset with tag := true, x0 := some 1027, x1 := some 1123, y := some 1027 } true 1123 = 1283 := by decide +kernel

/-- The worked example of R219: quadrant 0 of the 2:1 block. -/
theorem test_ffc_quadrant :
    leBytes 8 (ffcQuadrant [10, 12, 15, 20, 11, 13, 18, 25, 9, 14, 22, 30, 8, 16, 26, 40]) =
      [0x08, 0x43, 0x22, 0x24, 0x42, 0x34, 0x44, 0x04] := by decide +kernel

/-- The worked example of R281 with its large logits alone: token 77. -/
theorem test_sample :
    let r : SuRecord := ⟨some (dec32 0x3F000000), some (dec32 0x3F666666), false, 5, 0, 0, 0, false⟩
    let xs := (List.range 6).map fun i => FV.fin ([1, 3, 4, 2, 3, 1].getD i 0) 0
    (suSample r 64 xs fun e => if e = 1 then 0xD000 else 0).token = 1 := by decide +kernel

/-- The worked example of R441: channel 16, bank 4, row 65, byte 0x240. -/
theorem test_lpddr_place :
    (State.reset.fput f_mcConfig_density 0o222222).lpPlace 0x001003100040 = (16, 4, 65, 0x240) := by decide +kernel

/-- The table of R384's worked example: "do" 233, "dock" 4100, "or" 912, bos_id 1, byte_base 3. -/
def tkTable : List Byte :=
  let node := fun (first n tok : Nat) => leBytes 4 first ++ leBytes 2 n ++ zeros 2 ++ leBytes 4 tok ++ zeros 4
  let edge := fun (b child : Nat) => leBytes 1 b ++ zeros 3 ++ leBytes 4 child
  let none_ := 0xFFFFFFFF
  let nodes := node 0 2 none_ ++ node 2 1 none_ ++ node 3 1 none_ ++ node 4 1 233 ++ node 5 0 912 ++ node 5 1 none_ ++
    node 6 0 4100 ++ node 6 0 none_
  leBytes 4 0x314E4B54 ++ leBytes 4 8 ++ leBytes 4 6 ++ leBytes 4 64 ++ leBytes 4 192 ++ leBytes 4 0 ++ leBytes 4 3 ++ leBytes 4 1 ++
    zeros 32 ++ nodes ++ (edge 0x64 1 ++ edge 0x6F 2 ++ edge 0x6F 3 ++ edge 0x72 4 ++ edge 0x63 5 ++ edge 0x6B 6)

theorem test_tokenize : tokenize tkTable (["d", "o", "c", "k", "d", "o", "o", "r", "!"].map fun c => BitVec.ofNat 8 (c.front.toNat)) =
    [1, 4100, 233, 912, 36] := by decide +kernel

/-- The worked example of R412's chapter: code 600 at an R site gives 51,456. -/
theorem test_white_balance :
    let row : List Byte := (List.range 2).flatMap fun _ => [0x96, 0x96, 0x96, 0x96, 0]
    let colour : List Word := List.replicate 11 0 ++ [4096, 0, 0, 0x1800, 0]
    let j : PipeJob := ⟨0x2B, 8, 2, 0, 1, 0, 8, 2, 1, 0, colour, fun _ _ => 0, false, 256, [row, row]⟩
    j.mosaic 0 0 = 38400 ∧ j.black 0 0 = 34304 ∧ j.white 0 0 = 51456 := by decide +kernel

/-- The worked example of R646: a growth bit in CI_POSITION_MAP_2 is refused whole, and an ordinary write is kept. -/
theorem test_growth_write :
    (let t := State.reset.access .mp 0x830108 0x10
     t.rd 0x830108 = State.reset.rd 0x830108) ∧
    (State.reset.access .mp 0x830108 0x43).rd 0x830108 = 0x43 := by decide +kernel

/-- SIGNAL wraps modulo 2^32 and SET writes the value (R145, R480). -/
theorem test_signal_wraps :
    ((State.reset.setObject 5 0xFFFFFFFF).signalObj 5 3).obj 5 = 2 := by decide +kernel

/-- A package of one step on core 0, whose region and sync plan asks for a window of 256 sync objects. -/
def windowPackage : List Byte :=
  zeros 10 ++ [2, 0] ++ leBytes 4 128 ++ zeros 16 ++ leBytes 4 1 ++ zeros 92 ++
    ([1, 0, 1, 0] ++ leBytes 8 192 ++ leBytes 8 32 ++ zeros 12) ++ ([7, 0, 1, 0] ++ leBytes 8 224 ++ leBytes 8 576 ++ zeros 12) ++
    (zeros 4 ++ [1] ++ zeros 27) ++ (zeros 512 ++ leBytes 4 256 ++ zeros 60)

/-- A job that holds every object of the windows, and one that waits for its preparation, its job block lying at an address. -/
def windowsHeld (block : Nat) : State :=
  firmware fun f => { f with
    pkg := some ⟨windowPackage, 1, [], [], []⟩,
    jobs := [{ jobAt .running with number := 2, ring := 1, window := (0, 0x7F00) }, unprepared block] }

theorem witness_JobPrepared_later :
    ((windowsHeld bootArea.1).fw.jobs.find? fun j => j.ring == 0 && j.taken.index == 0 && !j.prepared) = some (unprepared bootArea.1) ∧
    (windowsHeld bootArea.1).windowSize = 256 ∧
    prepKind ((windowsHeld bootArea.1).prepare (unprepared bootArea.1) noInputs) = 2 := by decide +kernel

end Sys2Proof.Tests
end

/-! ## Undefined engine codes and opcodes (R113, R120) -/

namespace Sys2Proof.Machine

/-- Core `n` runs and has its next instruction: nothing holds issue back, no first half of a paired pass waits for its
partner, and the fetch succeeds, from the routine or from a valid line of the main stream. -/
structure State.Decodes (s : State) (n : Nat) : Prop where
  running : s.coreState n = 1
  clocked : s.coreStopped n = false
  resumed : (s.core n).paused = false
  inStep : (s.core n).stepEndAt = none
  unpaired : (s.core n).half = none
  routineFetched : (s.routineFetch n).1 = true
  lineValid : (s.core n).calls = [] → (s.core n).badLines.contains (s.pos n / 4) = false

/-- The check for a bad line of the main stream passes, in the main stream and in a routine. -/
theorem State.Decodes.not_badLine {s : State} {n : Nat} (h : s.Decodes n) :
    ((s.core n).calls.isEmpty && (s.core n).badLines.contains (s.pos n / 4)) = false := by
  cases hc : (s.core n).calls with
  | nil => simpa using h.lineValid hc
  | cons f fs => rfl

/-- Only the codes below 8 name an engine (R113). -/
theorem engineDefines_of_eight_le {eng : Nat} (h : 8 ≤ eng) (op : Nat) : engineDefines eng op = false := by
  obtain ⟨k, rfl⟩ := Nat.exists_eq_add_of_le' h
  rfl

/-- A fetched word that its engine does not define faults at issue whatever row issues it, the engine code being checked
before the opcode (R120). -/
theorem State.issue_of_not_engineDefines {s : State} {n : Nat} (h : s.Decodes n) {w : IWord} (eng op : Nat)
    (hw : engineDefines (fld w 11 8) (fld w 7 0) = false) :
    s.issue n w eng op = .fault (s.decodeFault n (fld w 11 8) (if 8 ≤ fld w 11 8 then 0x01 else 0x02)) := by
  have hissues : ¬(s.coreState n ≠ 1 ∨ s.coreStopped n ∨ (s.core n).paused ∨ (s.core n).stepEndAt.isSome) := by
    simp [h.running, h.clocked, h.resumed, h.inStep]
  have hhalf : ¬(((s.core n).half.any fun p => !isPartner w p.1) = true) := by simp [h.unpaired]
  have hfetch : ¬((!(s.routineFetch n).1) = true) := by simp [h.routineFetched]
  have hline := Bool.eq_false_iff.mp h.not_badLine
  rw [State.issue, if_neg hissues, if_neg hhalf, if_neg hfetch, if_neg hline]
  by_cases he : 8 ≤ fld w 11 8
  · rw [if_pos he, if_pos he]
  · rw [if_neg he, if_neg he, if_pos (by rw [hw]; rfl)]

/-- Settles O8: both cases are words that `engineDefines` refuses, told apart by the engine code. -/
theorem undefinedOpcodeFaults : Obligations.UndefinedOpcodeFaults := by
  intro s n w eng op hrun hclock hpause hstep hhalf hfetch hline
  have hdec : s.Decodes n.val := ⟨hrun, hclock, hpause, hstep, hhalf, hfetch, hline⟩
  constructor
  · intro he
    rw [State.issue_of_not_engineDefines hdec eng op (engineDefines_of_eight_le he _), if_pos he]
  · intro he hop
    rw [State.issue_of_not_engineDefines hdec eng op hop, if_neg (Nat.not_le.mpr he)]

end Sys2Proof.Machine

/-! ## Sending on the ring leaves memory (R320, R321, R346) -/

namespace Sys2Proof.Machine

@[simp] theorem State.setPort_mem (s : State) (p : Nat) (x : PortRt) : (s.setPort p x).mem = s.mem := rfl

@[simp] theorem State.putFrame_mem (s : State) (p : Nat) (f : RFrame) : (s.putFrame p f).mem = s.mem := rfl

@[simp] theorem State.pump_mem (s : State) (p fuel : Nat) : (s.pump p fuel).mem = s.mem := by
  induction fuel generalizing s with
  | zero => rfl
  | succ n ih =>
    rw [State.pump]
    split
    · rfl
    · rw [ih, State.putFrame_mem, State.setPort_mem]

@[simp] theorem State.portRun_mem (s : State) (p : Nat) : (s.portRun p).mem = s.mem := by
  rw [State.portRun]
  split
  · exact s.pump_mem p _
  · rfl

@[simp] theorem State.queueFrame_mem (s : State) (p : Nat) (f : RFrame) (transit : Bool) :
    (s.queueFrame p f transit).mem = s.mem := by
  rw [State.queueFrame, State.portRun_mem, State.setPort_mem]

/-- Sealing a frame counts it and touches nothing outside the ring's state. -/
theorem State.seal_mem {s t : State} {f g : RFrame} (h : s.seal f = some (g, t)) : t.mem = s.mem := by
  rw [State.seal] at h
  split at h
  · cases h
    rfl
  · dsimp only at h
    split at h
    · cases h
    · cases h
      rfl

@[simp] theorem State.sendFrame_mem (s : State) (f : RFrame) : (s.sendFrame f).mem = s.mem := by
  rw [State.sendFrame]
  split
  · rfl
  · split
    next => exact s.sediment_mem _ _ _ _
    next hseal => rw [State.queueFrame_mem, State.seal_mem hseal]

@[simp] theorem State.burstReply_mem (s : State) (dst id reason : Nat) : (s.burstReply dst id reason).mem = s.mem :=
  s.sendFrame_mem _

end Sys2Proof.Machine

/-! ## BURST_OPEN at its destination (R324, R327, R330) -/

namespace Sys2Proof.Machine

/-- Some line of the range that a BURST_OPEN names lies outside CI_RX_WINDOW (R330). -/
def State.outsideWindow (s : State) (f : RFrame) : Prop :=
  frField f 113 96 < s.fget f_ciRxWindow_base_line ∨
    s.fget f_ciRxWindow_base_line + s.fget f_ciRxWindow_lines < frField f 113 96 + (frField f 95 80 + 1)

/-- The burst that a BURST_OPEN opens at its receiver, under the current epoch and with no line received. -/
def State.openedBurst (s : State) (f : RFrame) : RecvBurst :=
  ⟨frField f 79 64, frSrc f, frField f 114 114 == 1, frField f 113 96, frField f 95 80 + 1, [], false, s.epoch⟩

/-- A device that is not a member answers reason 4 (R324). -/
theorem State.takeOpen_of_not_member {s : State} {f : RFrame} (h : s.ringState ≠ 1) :
    s.takeOpen f = s.burstReply (frSrc f) (frField f 79 64) 4 := by
  rw [State.takeOpen, if_pos h]

/-- A member refuses a range that leaves its window, with reason 3 (R330). -/
theorem State.takeOpen_of_outsideWindow {s : State} {f : RFrame} (hm : s.ringState = 1) (h : s.outsideWindow f) :
    s.takeOpen f = (s.raise f_ciEvent_window_refused).burstReply (frSrc f) (frField f 79 64) 3 := by
  rw [State.takeOpen, if_neg (not_not.mpr hm)]
  exact if_pos h

/-- A member opens a burst within its window in place of every older one of the same sender and identifier; only the
lists of open and of old bursts change (R327). -/
theorem State.takeOpen_of_not_outsideWindow {s : State} {f : RFrame} (hm : s.ringState = 1) (h : ¬ s.outsideWindow f) :
    s.takeOpen f = { s with ring := { s.ring with
      recvs := (s.ring.recvs.filter fun r => !(r.id == frField f 79 64 && r.src == frSrc f)) ++ [s.openedBurst f]
      oldRecvs := s.ring.oldRecvs.filter fun r => !(r.1 == frField f 79 64 && r.2.1 == frSrc f) } } := by
  rw [State.takeOpen, if_neg (not_not.mpr hm)]
  exact if_neg h

/-- Settles O28: the three answers of `takeOpen`, none of which writes memory. -/
theorem burstWindow : Obligations.BurstWindow := by
  intro s f
  refine ⟨fun hm => ?_, fun hm => ⟨fun hout => ?_, fun hbase hend => ?_⟩⟩
  · rw [State.takeOpen_of_not_member hm]
    exact ⟨rfl, s.burstReply_mem _ _ _⟩
  · rw [State.takeOpen_of_outsideWindow hm hout]
    exact ⟨rfl, by rw [State.burstReply_mem, State.raise_mem]⟩
  · have hin : ¬ s.outsideWindow f := not_or.mpr ⟨Nat.not_lt.mpr hbase, Nat.not_lt.mpr hend⟩
    rw [State.takeOpen_of_not_outsideWindow hm hin]
    exact ⟨⟨s.openedBurst f, List.mem_append_right _ (List.mem_singleton_self _), rfl, rfl, rfl, rfl, rfl⟩, rfl, rfl⟩

end Sys2Proof.Machine

/-! ## Writes to a tone-curve set (R414, R433) -/

namespace Sys2Proof.Machine

theorem State.curveWrite_of_curveNamed {s : State} {set : Nat} (h : s.curveNamed set = true) (p word : Nat) (v : Word) :
    s.curveWrite p set word v = s.raise (f_ipEvent_curve_busy p) := if_pos h

theorem State.curveWrite_of_not_curveNamed {s : State} {set : Nat} (h : s.curveNamed set = false) (p word : Nat) (v : Word) :
    s.curveWrite p set word v = s.writeReg (0x8D4000 + 2048 * set + 4 * word) v := if_neg (Bool.eq_false_iff.mp h)

/-- CURVE_WRITE completes with the write of the word, whoever names the set. -/
theorem exec_curveWrite (p : Fin 2) (set : Fin 16) (word : Fin 387) (v : Word) (s : State) :
    exec (.curveWrite p set word v) s = .next (s.curveWrite p.val set.val word.val v) := rfl

/-- IP_EVENT of either pipe is no register of the sediment record. -/
theorem ipEvent_curve_busy_off_not_mem_sedRegs (p : Fin 2) : (f_ipEvent_curve_busy p.val).off ∉ sedRegs := by
  revert p
  decide

/-- IP_EVENT of either pipe lies outside the tone-curve sets: below them for pipe 0, above them for pipe 1 (R430, R433). -/
theorem ipEvent_curve_busy_off_outside_curves (p : Fin 2) :
    (f_ipEvent_curve_busy p.val).off < 0x8D4000 ∨ 0x8DC000 ≤ (f_ipEvent_curve_busy p.val).off := by
  revert p
  decide

/-- The sediment record's registers lie above the tone-curve sets. -/
theorem le_of_mem_sedRegs : ∀ o ∈ sedRegs, 0x8DC000 ≤ o := by decide

/-- A raised curve_busy leaves every word of the tone-curve sets. -/
theorem State.rd_raise_curve_busy (s : State) (p : Fin 2) {o : Nat} (hlo : 0x8D4000 ≤ o) (hhi : o < 0x8DC000) :
    (s.raise (f_ipEvent_curve_busy p.val)).rd o = s.rd o := by
  have hsed : o ∉ sedRegs := fun hmem => Nat.not_le.mpr hhi (le_of_mem_sedRegs o hmem)
  have hev : o ≠ (f_ipEvent_curve_busy p.val).off := by
    have hout := ipEvent_curve_busy_off_outside_curves p
    omega
  exact s.rd_raise _ hsed hev

/-- Settles O35: a write to a named set only raises curve_busy, a flag whose register and whose entry's registers lie
outside the curves; a write to any other set is its register write. -/
theorem toneCurveWrites : Obligations.ToneCurveWrites := by
  intro s p set word v
  refine ⟨fun hnamed => ?_, fun hfree => ?_⟩
  · refine ⟨s.raise (f_ipEvent_curve_busy p.val), ?_, ?_, ?_, s.raise_mem _⟩
    · rw [exec_curveWrite, State.curveWrite_of_curveNamed hnamed]
    · exact s.fbit_raise _ rfl (by decide : 0 < 32) (ipEvent_curve_busy_off_not_mem_sedRegs p)
    · exact fun o hlo hhi => s.rd_raise_curve_busy p hlo hhi
  · rw [exec_curveWrite, State.curveWrite_of_not_curveNamed hfree]

end Sys2Proof.Machine

/-! ## Every step keeps the invariant and goes on (R527, R536) -/

namespace Sys2Proof.Machine

/-- Every command keeps the queue, the canonical form and the blown fuses, arm by arm. -/
theorem exec_keeps {s : State} : (c : Instr) → KeepsO s (exec c s)
  | .nop core w => execNop_keeps core w
  | .stepEnd core w => execStepEnd_keeps core w
  | .repeatBody core w => execRepeatBody_keeps core w
  | .call core w => execCall_keeps core w
  | .ret core w => execRet_keeps core w
  | .setb core w => execSetb_keeps core w
  | .addb core w => execAddb_keeps core w
  | .regionSet core w => execRegionSet_keeps core w
  | .aspLoad core w => execAspLoad_keeps core w
  | .pass core w upsets => execPass_keeps core w upsets
  | .profileLoad core w => execProfileLoad_keeps core w
  | .tableLoad core w => execTableLoad_keeps core w
  | .signal core w => execSignal_keeps core w
  | .wait core w => execWait_keeps core w
  | .setObj core w => execSetObj_keeps core w
  | .move core w => execMove_keeps core w
  | .veAdd core w => execVeAdd_keeps core w
  | .veSub core w => execVeSub_keeps core w
  | .veMul core w => execVeMul_keeps core w
  | .veMac core w => execVeMac_keeps core w
  | .veMax core w => execVeMax_keeps core w
  | .veMin core w => execVeMin_keeps core w
  | .veCvt core w => execVeCvt_keeps core w
  | .veTable core w => execVeTable_keeps core w
  | .veTableLoad core w => execVeTableLoad_keeps core w
  | .veRsum core w => execVeRsum_keeps core w
  | .veRmax core w => execVeRmax_keeps core w
  | .veTree core w => execVeTree_keeps core w
  | .veNorm core w => execVeNorm_keeps core w
  | .veExp core w => execVeExp_keeps core w
  | .veLn core w => execVeLn_keeps core w
  | .veRecip core w => execVeRecip_keeps core w
  | .veRsqrt core w => execVeRsqrt_keeps core w
  | .veDiv core w => execVeDiv_keeps core w
  | .vePatch core w => execVePatch_keeps core w
  | .veToPixel core w => execVeToPixel_keeps core w
  | .veToPlanar core w => execVeToPlanar_keeps core w
  | .vePool core w => execVePool_keeps core w
  | .veResample core w => execVeResample_keeps core w
  | .sample core w => execSample_keeps core w
  | .uniform16 core w => execUniform16_keeps core w
  | .uniform core w => execUniform_keeps core w
  | .normalBm core w => execNormalBm_keeps core w
  | .normalTab core w => execNormalTab_keeps core w
  | .bernoulli core w => execBernoulli_keeps core w
  | .waitSatisfied core cycles => execWaitSatisfied_keeps core cycles
  | .streamedPassComplete core arr cycles dry backup => execStreamedPassComplete_keeps core arr cycles dry backup
  | .streamAbandoned core arr cycles written dry backup poisoned => execStreamAbandoned_keeps core arr cycles written dry backup poisoned
  | .waitTimeout core cycles => execWaitTimeout_keeps core cycles
  | .transferComplete core idx data => execTransferComplete_keeps core idx data
  | .transferFailed core idx cause runs data => execTransferFailed_keeps core idx cause runs data
  | .spAsyncWriteback core line => execSpAsyncWriteback_keeps core line
  | .ncStart core => execNcStart_keeps core
  | .ncAbort core => execNcAbort_keeps core
  | .ncAbortDone core => execNcAbortDone_keeps core
  | .ncCountReset core => execNcCountReset_keeps core
  | .cpRelease core => execCpRelease_keeps core
  | .cpHold core => execCpHold_keeps core
  | .maClearBanks core arr => execMaClearBanks_keeps core arr
  | .maClearDone core arr => execMaClearDone_keeps core arr
  | .maCountReset core arr => execMaCountReset_keeps core arr
  | .maCountsClear core arr => execMaCountsClear_keeps core arr
  | .tgLogClear core => execTgLogClear_keeps core
  | .spScrubStart core => execSpScrubStart_keeps core
  | .spScrubDone core => execSpScrubDone_keeps core
  | .spCountsClear core => execSpCountsClear_keeps core
  | .spInjectArm core v => execSpInjectArm_keeps core v
  | .hbScrubStart => execHbScrubStart_keeps
  | .hbScrubDone => execHbScrubDone_keeps
  | .hbCountsClear => execHbCountsClear_keeps
  | .mvCountReset core => execMvCountReset_keeps core
  | .veCountsClear core => execVeCountsClear_keeps core
  | .seedClear core => execSeedClear_keeps core
  | .selfTest core pass => execSelfTest_keeps core pass
  | .grSeedWrite core m v => execGrSeedWrite_keeps core m v
  | .registerWrite rq off v => execRegisterWrite_keeps rq off v
  | .pairLowRead rq off => execPairLowRead_keeps rq off
  | .pairHighRead rq off => execPairHighRead_keeps rq off
  | .pairLowWrite rq off v => execPairLowWrite_keeps rq off v
  | .pairHighWrite rq off v => execPairHighWrite_keeps rq off v
  | .mpSyncSignal obj inc => execMpSyncSignal_keeps obj inc
  | .mpSyncSet obj v => execMpSyncSet_keeps obj v
  | .portEnable port => execPortEnable_keeps port
  | .portTrainingDone port reversed polarity => execPortTrainingDone_keeps port reversed polarity
  | .portTrainingTimeout port => execPortTrainingTimeout_keeps port
  | .linkHello rx => execLinkHello_keeps rx
  | .idleLinkWord port => execIdleLinkWord_keeps port
  | .linkAck port count => execLinkAck_keeps port count
  | .replayRequest port => execReplayRequest_keeps port
  | .creditReturn port classD lines => execCreditReturn_keeps port classD lines
  | .portSilenceTimeout port => execPortSilenceTimeout_keeps port
  | .frameData rx => execFrameData_keeps rx
  | .dataLast rx => execDataLast_keeps rx
  | .burstOpen rx => execBurstOpen_keeps rx
  | .burstReply rx => execBurstReply_keeps rx
  | .signalFrame rx => execSignalFrame_keeps rx
  | .fence rx => execFence_keeps rx
  | .enumOutbound rx => execEnumOutbound_keeps rx
  | .enumReturn rx => execEnumReturn_keeps rx
  | .enumClosedTimeout => execEnumClosedTimeout_keeps
  | .membershipQuiesce rx => execMembershipQuiesce_keeps rx
  | .membershipCommit rx => execMembershipCommit_keeps rx
  | .memberReplyTimeout => execMemberReplyTimeout_keeps
  | .fwMessage rx => execFwMessage_keeps rx
  | .burstHoldExpiry idx => execBurstHoldExpiry_keeps idx
  | .burstReplyTimeout idx => execBurstReplyTimeout_keeps idx
  | .ciReadmit => execCiReadmit_keeps
  | .ciCountsClear => execCiCountsClear_keeps
  | .frameStart port vc number hdr => execFrameStart_keeps port vc number hdr
  | .frameEnd port vc hdr => execFrameEnd_keeps port vc hdr
  | .longPacket port vc dt data hdr crcOk fifoFull => execLongPacket_keeps port vc dt data hdr crcOk fifoFull
  | .csiLaneError port => execCsiLaneError_keeps port
  | .lineTimeout n => execLineTimeout_keeps n
  | .sampleReady n => execSampleReady_keeps n
  | .collectionDeadline g => execCollectionDeadline_keeps g
  | .spiDataReady ctl data => execSpiDataReady_keeps ctl data
  | .ppsEdge => execPpsEdge_keeps
  | .ppsLost => execPpsLost_keeps
  | .fsyncAssert n => execFsyncAssert_keeps n
  | .fsyncDeassert n => execFsyncDeassert_keeps n
  | .iaFsyncCommit n w0 => execIaFsyncCommit_keeps n w0
  | .iaTimeStep delta => execIaTimeStep_keeps delta
  | .iaStreamEnable n w0 => execIaStreamEnable_keeps n w0
  | .iaStreamDisable n => execIaStreamDisable_keeps n
  | .iaGroupEnable g w0 => execIaGroupEnable_keeps g w0
  | .iaGroupDisable g => execIaGroupDisable_keeps g
  | .iaAugCommit g n0 => execIaAugCommit_keeps g n0
  | .iaCountsClear => execIaCountsClear_keeps
  | .pipeTurn p => execPipeTurn_keeps p
  | .contextCommit c => execContextCommit_keeps c
  | .curveWrite p cset word v => execCurveWrite_keeps p cset word v
  | .ipCountsClear p => execIpCountsClear_keeps p
  | .vxSeqHold image crcs => execVxSeqHold_keeps image crcs
  | .vxSeqRelease => execVxSeqRelease_keeps
  | .vxSeqReset => execVxSeqReset_keeps
  | .vxHeartbeatTimeout image crcs => execVxHeartbeatTimeout_keeps image crcs
  | .boundEncodeFrame n => execBoundEncodeFrame_keeps n
  | .videoFrameDone n host picture picType qp error key => execVideoFrameDone_keeps n host picture picType qp error key
  | .mcRequest port addr slot write mask data => execMcRequest_keeps port addr slot write mask data
  | .mcRequestComplete idx lat link linkBad => execMcRequestComplete_keeps idx lat link linkBad
  | .refreshDue chan => execRefreshDue_keeps chan
  | .mr4Poll rates => execMr4Poll_keeps rates
  | .oscillatorSample chan drift beyond => execOscillatorSample_keeps chan drift beyond
  | .selfRefreshRequest actor => execSelfRefreshRequest_keeps actor
  | .selfRefreshExit actor => execSelfRefreshExit_keeps actor
  | .powerDownIdle chan => execPowerDownIdle_keeps chan
  | .mcEnable v => execMcEnable_keeps v
  | .mcConfigWrite v => execMcConfigWrite_keeps v
  | .mcPortWrite p v => execMcPortWrite_keeps p v
  | .mcCountsClear => execMcCountsClear_keeps
  | .writePattern mask => execWritePattern_keeps mask
  | .readAndCompare mask => execReadAndCompare_keeps mask
  | .commandBusCompare mask => execCommandBusCompare_keeps mask
  | .readDqCalibration mask => execReadDqCalibration_keeps mask
  | .wck2ckLeveling mask => execWck2ckLeveling_keeps mask
  | .trainingOpDone errors => execTrainingOpDone_keeps errors
  | .bar2Read resize off len => execBar2Read_keeps resize off len
  | .bar2Write resize off data poisoned => execBar2Write_keeps resize off data poisoned
  | .bootWindowWrite off data => execBootWindowWrite_keeps off data
  | .bootGo => execBootGo_keeps
  | .signalWindowWrite obj inc => execSignalWindowWrite_keeps obj inc
  | .setWindowWrite obj v => execSetWindowWrite_keeps obj v
  | .sqDoorbell q p => execSqDoorbell_keeps q p
  | .cqDoorbell q p => execCqDoorbell_keeps q p
  | .ringPairEnable q v => execRingPairEnable_keeps q v
  | .ringPairDisable q v => execRingPairDisable_keeps q v
  | .descriptorTake q => execDescriptorTake_keeps q
  | .irqCoalesceTimer q => execIrqCoalesceTimer_keeps q
  | .functionLevelReset => execFunctionLevelReset_keeps
  | .perstAssert cool => execPerstAssert_keeps cool
  | .perstDeassert => execPerstDeassert_keeps
  | .fwOpen => execFwOpen_keeps
  | .fwClose => execFwClose_keeps
  | .loadPackage host => execLoadPackage_keeps host
  | .poolGrant => execPoolGrant_keeps
  | .poolReclaim => execPoolReclaim_keeps
  | .jobStop => execJobStop_keeps
  | .jobSuspend => execJobSuspend_keeps
  | .jobResume => execJobResume_keeps
  | .jobQuery => execJobQuery_keeps
  | .streamMargin => execStreamMargin_keeps
  | .ringEnumerate => execRingEnumerate_keeps
  | .ringConfigure host => execRingConfigure_keeps host
  | .ringReadmit => execRingReadmit_keeps
  | .timeSample => execTimeSample_keeps
  | .sideport answer host => execSideport_keeps answer host
  | .fwJob q => execFwJob_keeps q
  | .seqOpen q => execSeqOpen_keeps q
  | .seqClose q => execSeqClose_keeps q
  | .adaptCreate q => execAdaptCreate_keeps q
  | .adaptExport q host => execAdaptExport_keeps q host
  | .adaptImport q host => execAdaptImport_keeps q host
  | .adaptRelease q => execAdaptRelease_keeps q
  | .videoOpen q => execVideoOpen_keeps q
  | .videoFrame q => execVideoFrame_keeps q
  | .videoClose q => execVideoClose_keeps q
  | .jobPrepared q index x => execJobPrepared_keeps q index x
  | .jobBoundary overruns peers => execJobBoundary_keeps overruns peers
  | .aonPorstRelease => execAonPorstRelease_keeps
  | .mainPwrgdRise testen => execMainPwrgdRise_keeps testen
  | .mainPwrgdFall => execMainPwrgdFall_keeps
  | .unsealEnvelope => execUnsealEnvelope_keeps
  | .sealOutputs => execSealOutputs_keeps
  | .exportState => execExportState_keeps
  | .importState => execImportState_keeps
  | .measurePackage => execMeasurePackage_keeps
  | .releaseSlot => execReleaseSlot_keeps
  | .getVersion => execGetVersion_keeps
  | .getCapabilities => execGetCapabilities_keeps
  | .negotiateAlgorithms common => execNegotiateAlgorithms_keeps common
  | .getDigests => execGetDigests_keeps
  | .getCertificate off len => execGetCertificate_keeps off len
  | .challenge nonce => execChallenge_keeps nonce
  | .getMeasurements index nonce => execGetMeasurements_keeps index nonce
  | .keyExchange pub => execKeyExchange_keeps pub
  | .finish id good => execFinish_keeps id good
  | .heartbeat id => execHeartbeat_keeps id
  | .endSession id => execEndSession_keeps id
  | .partyKeySet id slot key proof => execPartyKeySet_keeps id slot key proof
  | .partyKeyErase id slot => execPartyKeyErase_keeps id slot
  | .ringKeySet id key ringId => execRingKeySet_keeps id key ringId
  | .slotRenew slot => execSlotRenew_keeps slot
  | .lifecycleSet target token => execLifecycleSet_keeps target token
  | .debugChallenge => execDebugChallenge_keeps
  | .debugResponse pub sig scope => execDebugResponse_keeps pub sig scope
  | .pllLockLoss k => execPllLockLoss_keeps k
  | .relockAttemptTimeout k => execRelockAttemptTimeout_keeps k
  | .pllRelocked k => execPllRelocked_keeps k
  | .refLost count => execRefLost_keeps count
  | .domainSourceWrite d v => execDomainSourceWrite_keeps d v
  | .pllCtrlWrite k v => execPllCtrlWrite_keeps k v
  | .governorUpdate temps avgMs avgSec => execGovernorUpdate_keeps temps avgMs avgSec
  | .voltageLoopUpdate core slack energy => execVoltageLoopUpdate_keeps core slack energy
  | .capCut avg => execCapCut_keeps avg
  | .capCutEnd avg => execCapCutEnd_keeps avg
  | .capCutHeld => execCapCutHeld_keeps
  | .thermalTrip sensor temp => execThermalTrip_keeps sensor temp
  | .limitWrite off v => execLimitWrite_keeps off v
  | .corePowerOff core => execCorePowerOff_keeps core
  | .corePowerOn core => execCorePowerOn_keeps core
  | .corePowerOnDone core => execCorePowerOnDone_keeps core
  | .slumberEntry => execSlumberEntry_keeps
  | .powerFail => execPowerFail_keeps
  | .tamper cool => execTamper_keeps cool
  | .watchdogArm v => execWatchdogArm_keeps v
  | .watchdogKick => execWatchdogKick_keeps
  | .watchdogExpiry => execWatchdogExpiry_keeps
  | .fencedWritesInterval => execFencedWritesInterval_keeps
  | .trickleFlush => execTrickleFlush_keeps
  | .journalRecordCommit failed => execJournalRecordCommit_keeps failed
  | .rasClassCfgWrite c v => execRasClassCfgWrite_keeps c v
  | .aocSedRead v => execAocSedRead_keeps v
  | .aocTakeover => execAocTakeover_keeps
  | .mpTakeback => execMpTakeback_keeps
  | .profileOpen eid vdm lo hi caps => execProfileOpen_keeps eid vdm lo hi caps
  | .health eid vdm => execHealth_keeps eid vdm
  | .sedimentRead eid vdm first count => execSedimentRead_keeps eid vdm first count
  | .setEndpointId eid vdm new => execSetEndpointId_keeps eid vdm new
  | .getEndpointId eid vdm => execGetEndpointId_keeps eid vdm
  | .getEndpointUuid eid vdm => execGetEndpointUuid_keeps eid vdm
  | .getMctpVersionSupport eid vdm type => execGetMctpVersionSupport_keeps eid vdm type
  | .getMessageTypeSupport eid vdm => execGetMessageTypeSupport_keeps eid vdm
  | .getVendorDefinedMessageSupport eid vdm selector => execGetVendorDefinedMessageSupport_keeps eid vdm selector
  | .getTid eid vdm => execGetTid_keeps eid vdm
  | .getPldmVersion eid vdm type => execGetPldmVersion_keeps eid vdm type
  | .getPldmTypes eid vdm => execGetPldmTypes_keeps eid vdm
  | .getPldmCommands eid vdm type => execGetPldmCommands_keeps eid vdm type
  | .getSensorReading eid vdm sensor => execGetSensorReading_keeps eid vdm sensor
  | .getStateSensorReadings eid vdm sensor => execGetStateSensorReadings_keeps eid vdm sensor
  | .getPdrRepositoryInfo eid vdm => execGetPdrRepositoryInfo_keeps eid vdm
  | .getPdr eid vdm record len => execGetPdr_keeps eid vdm record len
  | .setEventReceiver eid vdm receiver => execSetEventReceiver_keeps eid vdm receiver
  | .pinMuxWrite n v => execPinMuxWrite_keeps n v
  | .padSwitchDone n => execPadSwitchDone_keeps n
  | .lanesReturnToStopState port => execLanesReturnToStopState_keeps port
  | .aonPorstAssert => execAonPorstAssert_keeps
  | .pllReady k => execPllReady_keeps k
  | .pcieLinkRetrain speed width => execPcieLinkRetrain_keeps speed width
  | .packageLoadComplete => execPackageLoadComplete_keeps
  | .sideportTimeout => execSideportTimeout_keeps

/-- Settles O6: an idle cycle and every command keep all three, and the command runs on the queue's rest. -/
theorem stepKeepsInvariant : Obligations.StepKeepsInvariant := by
  intro s t life count hc hf ht
  unfold step at ht
  split at ht
  next hp =>
    cases ht
    have hk := State.tick_keeps (Keeps.refl s)
    exact ⟨hk.canonical hc, hk.fused life count hf, by rw [hk.pending, hp]; rfl⟩
  next c rest hp =>
    have hk := (exec_keeps c).keeps t ht
    exact ⟨hk.canonical hc, hk.fused life count hf, by rw [hk.pending, hp]; rfl⟩

/-- An outcome that is a next state. -/
def GoesOn (o : Host.Outcome State Fault Refusal) : Prop := ∃ t, o = .next t

theorem GoesOn.next (t : State) : GoesOn (.next t) := ⟨t, rfl⟩

/-- Every branch of every command's meaning ends in a next state: the arms that branch first, then those with one end. -/
theorem exec_goesOn (c : Instr) (s : State) : GoesOn (exec c s) := by
  cases c
  case
      nop | stepEnd | repeatBody | call | ret | setb | addb | regionSet | aspLoad | pass | profileLoad |
      tableLoad | signal | wait | setObj | move | veTableLoad | vePatch | veToPixel | veToPlanar | sample |
      waitSatisfied | streamedPassComplete | streamAbandoned | waitTimeout | transferComplete |
      transferFailed | portTrainingDone | replayRequest | enumClosedTimeout | memberReplyTimeout |
      burstHoldExpiry | burstReplyTimeout | frameStart | frameEnd | longPacket | csiLaneError | lineTimeout |
      sampleReady | spiDataReady | ppsEdge | fsyncAssert | fsyncDeassert | pipeTurn | vxHeartbeatTimeout |
      boundEncodeFrame | videoFrameDone | mcRequest | mcRequestComplete | refreshDue | mr4Poll |
      oscillatorSample | selfRefreshExit | powerDownIdle | trainingOpDone | descriptorTake | perstAssert |
      jobPrepared | jobBoundary | mainPwrgdRise | mainPwrgdFall | relockAttemptTimeout | pllRelocked |
      refLost | governorUpdate | voltageLoopUpdate | capCut | capCutEnd | thermalTrip | corePowerOnDone |
      slumberEntry | tamper | watchdogExpiry | fencedWritesInterval | journalRecordCommit | aocTakeover |
      profileOpen | setEndpointId | padSwitchDone | pllReady | packageLoadComplete =>
    dsimp only [exec,
      execNop, execStepEnd, execRepeatBody, execCall, execRet, execSetb, execAddb, execRegionSet, execAspLoad,
      execPass, execProfileLoad, execTableLoad, execSignal, execWait, execSetObj, execMove, execVeTableLoad,
      execVePatch, execVeToPixel, execVeToPlanar, execSample, execWaitSatisfied, execStreamedPassComplete,
      execStreamAbandoned, execWaitTimeout, execTransferComplete, execTransferFailed, execPortTrainingDone,
      execReplayRequest, execEnumClosedTimeout, execMemberReplyTimeout, execBurstHoldExpiry,
      execBurstReplyTimeout, execFrameStart, execFrameEnd, execLongPacket, execCsiLaneError, execLineTimeout,
      execSampleReady, execSpiDataReady, execPpsEdge, execFsyncAssert, execFsyncDeassert, execPipeTurn,
      execVxHeartbeatTimeout, execBoundEncodeFrame, execVideoFrameDone, execMcRequest, execMcRequestComplete,
      execRefreshDue, execMr4Poll, execOscillatorSample, execSelfRefreshExit, execPowerDownIdle,
      execTrainingOpDone, execDescriptorTake, execPerstAssert, execJobPrepared, execJobBoundary,
      execMainPwrgdRise, execMainPwrgdFall, execRelockAttemptTimeout, execPllRelocked, execRefLost,
      execGovernorUpdate, execVoltageLoopUpdate, execCapCut, execCapCutEnd, execThermalTrip,
      execCorePowerOnDone, execSlumberEntry, execTamper, execWatchdogExpiry, execFencedWritesInterval,
      execJournalRecordCommit, execAocTakeover, execProfileOpen, execSetEndpointId, execPadSwitchDone,
      execPllReady, execPackageLoadComplete]
    repeat' split
    all_goals exact .next _
  all_goals exact .next _

/-- Settles O5: with no command waiting a reference cycle passes, and every command goes on. -/
theorem everyStepGoesOn : Obligations.EveryStepGoesOn := by
  intro s
  unfold State.Safe step
  split
  · exact GoesOn.next _
  · exact exec_goesOn _ _

end Sys2Proof.Machine

/-! ## What each command means, by its function -/

namespace Sys2Proof.Machine

theorem exec_nop (core w) (s : State) : exec (.nop core w) s = execNop core w s := rfl
theorem exec_stepEnd (core w) (s : State) : exec (.stepEnd core w) s = execStepEnd core w s := rfl
theorem exec_repeatBody (core w) (s : State) : exec (.repeatBody core w) s = execRepeatBody core w s := rfl
theorem exec_call (core w) (s : State) : exec (.call core w) s = execCall core w s := rfl
theorem exec_ret (core w) (s : State) : exec (.ret core w) s = execRet core w s := rfl
theorem exec_setb (core w) (s : State) : exec (.setb core w) s = execSetb core w s := rfl
theorem exec_addb (core w) (s : State) : exec (.addb core w) s = execAddb core w s := rfl
theorem exec_regionSet (core w) (s : State) : exec (.regionSet core w) s = execRegionSet core w s := rfl
theorem exec_aspLoad (core w) (s : State) : exec (.aspLoad core w) s = execAspLoad core w s := rfl
theorem exec_pass (core w upsets) (s : State) : exec (.pass core w upsets) s = execPass core w upsets s := rfl
theorem exec_profileLoad (core w) (s : State) : exec (.profileLoad core w) s = execProfileLoad core w s := rfl
theorem exec_tableLoad (core w) (s : State) : exec (.tableLoad core w) s = execTableLoad core w s := rfl
theorem exec_signal (core w) (s : State) : exec (.signal core w) s = execSignal core w s := rfl
theorem exec_wait (core w) (s : State) : exec (.wait core w) s = execWait core w s := rfl
theorem exec_setObj (core w) (s : State) : exec (.setObj core w) s = execSetObj core w s := rfl
theorem exec_move (core w) (s : State) : exec (.move core w) s = execMove core w s := rfl
theorem exec_veTableLoad (core w) (s : State) : exec (.veTableLoad core w) s = execVeTableLoad core w s := rfl
theorem exec_vePatch (core w) (s : State) : exec (.vePatch core w) s = execVePatch core w s := rfl
theorem exec_veToPixel (core w) (s : State) : exec (.veToPixel core w) s = execVeToPixel core w s := rfl
theorem exec_veToPlanar (core w) (s : State) : exec (.veToPlanar core w) s = execVeToPlanar core w s := rfl
theorem exec_sample (core w) (s : State) : exec (.sample core w) s = execSample core w s := rfl
theorem exec_waitSatisfied (core cycles) (s : State) : exec (.waitSatisfied core cycles) s = execWaitSatisfied core cycles s := rfl
theorem exec_streamedPassComplete (core arr cycles dry backup) (s : State) : exec (.streamedPassComplete core arr cycles dry backup) s = execStreamedPassComplete core arr cycles dry backup s := rfl
theorem exec_streamAbandoned (core arr cycles written dry backup poisoned) (s : State) : exec (.streamAbandoned core arr cycles written dry backup poisoned) s = execStreamAbandoned core arr cycles written dry backup poisoned s := rfl
theorem exec_waitTimeout (core cycles) (s : State) : exec (.waitTimeout core cycles) s = execWaitTimeout core cycles s := rfl
theorem exec_transferComplete (core idx data) (s : State) : exec (.transferComplete core idx data) s = execTransferComplete core idx data s := rfl
theorem exec_transferFailed (core idx cause runs data) (s : State) : exec (.transferFailed core idx cause runs data) s = execTransferFailed core idx cause runs data s := rfl
theorem exec_spAsyncWriteback (core line) (s : State) : exec (.spAsyncWriteback core line) s = execSpAsyncWriteback core line s := rfl
theorem exec_maClearDone (core arr) (s : State) : exec (.maClearDone core arr) s = execMaClearDone core arr s := rfl
theorem exec_spScrubStart (core) (s : State) : exec (.spScrubStart core) s = execSpScrubStart core s := rfl
theorem exec_spScrubDone (core) (s : State) : exec (.spScrubDone core) s = execSpScrubDone core s := rfl
theorem exec_hbScrubStart (s : State) : exec (.hbScrubStart) s = execHbScrubStart s := rfl
theorem exec_hbScrubDone (s : State) : exec (.hbScrubDone) s = execHbScrubDone s := rfl
theorem exec_selfTest (core pass) (s : State) : exec (.selfTest core pass) s = execSelfTest core pass s := rfl
theorem exec_grSeedWrite (core m v) (s : State) : exec (.grSeedWrite core m v) s = execGrSeedWrite core m v s := rfl
theorem exec_portEnable (port) (s : State) : exec (.portEnable port) s = execPortEnable port s := rfl
theorem exec_portTrainingDone (port reversed polarity) (s : State) : exec (.portTrainingDone port reversed polarity) s = execPortTrainingDone port reversed polarity s := rfl
theorem exec_portTrainingTimeout (port) (s : State) : exec (.portTrainingTimeout port) s = execPortTrainingTimeout port s := rfl
theorem exec_idleLinkWord (port) (s : State) : exec (.idleLinkWord port) s = execIdleLinkWord port s := rfl
theorem exec_replayRequest (port) (s : State) : exec (.replayRequest port) s = execReplayRequest port s := rfl
theorem exec_enumClosedTimeout (s : State) : exec (.enumClosedTimeout) s = execEnumClosedTimeout s := rfl
theorem exec_memberReplyTimeout (s : State) : exec (.memberReplyTimeout) s = execMemberReplyTimeout s := rfl
theorem exec_burstHoldExpiry (idx) (s : State) : exec (.burstHoldExpiry idx) s = execBurstHoldExpiry idx s := rfl
theorem exec_burstReplyTimeout (idx) (s : State) : exec (.burstReplyTimeout idx) s = execBurstReplyTimeout idx s := rfl
theorem exec_ciReadmit (s : State) : exec (.ciReadmit) s = execCiReadmit s := rfl
theorem exec_frameStart (port vc number hdr) (s : State) : exec (.frameStart port vc number hdr) s = execFrameStart port vc number hdr s := rfl
theorem exec_frameEnd (port vc hdr) (s : State) : exec (.frameEnd port vc hdr) s = execFrameEnd port vc hdr s := rfl
theorem exec_longPacket (port vc dt data hdr crcOk fifoFull) (s : State) : exec (.longPacket port vc dt data hdr crcOk fifoFull) s = execLongPacket port vc dt data hdr crcOk fifoFull s := rfl
theorem exec_csiLaneError (port) (s : State) : exec (.csiLaneError port) s = execCsiLaneError port s := rfl
theorem exec_lineTimeout (n) (s : State) : exec (.lineTimeout n) s = execLineTimeout n s := rfl
theorem exec_pipeTurn (p) (s : State) : exec (.pipeTurn p) s = execPipeTurn p s := rfl
theorem exec_vxHeartbeatTimeout (image crcs) (s : State) : exec (.vxHeartbeatTimeout image crcs) s = execVxHeartbeatTimeout image crcs s := rfl
theorem exec_boundEncodeFrame (n) (s : State) : exec (.boundEncodeFrame n) s = execBoundEncodeFrame n s := rfl
theorem exec_videoFrameDone (n host picture picType qp error key) (s : State) : exec (.videoFrameDone n host picture picType qp error key) s = execVideoFrameDone n host picture picType qp error key s := rfl
theorem exec_mcRequestComplete (idx lat link linkBad) (s : State) : exec (.mcRequestComplete idx lat link linkBad) s = execMcRequestComplete idx lat link linkBad s := rfl
theorem exec_refreshDue (chan) (s : State) : exec (.refreshDue chan) s = execRefreshDue chan s := rfl
theorem exec_mr4Poll (rates) (s : State) : exec (.mr4Poll rates) s = execMr4Poll rates s := rfl
theorem exec_oscillatorSample (chan drift beyond) (s : State) : exec (.oscillatorSample chan drift beyond) s = execOscillatorSample chan drift beyond s := rfl
theorem exec_selfRefreshRequest (actor) (s : State) : exec (.selfRefreshRequest actor) s = execSelfRefreshRequest actor s := rfl
theorem exec_powerDownIdle (chan) (s : State) : exec (.powerDownIdle chan) s = execPowerDownIdle chan s := rfl
theorem exec_trainingOpDone (errors) (s : State) : exec (.trainingOpDone errors) s = execTrainingOpDone errors s := rfl
theorem exec_ringPairEnable (q v) (s : State) : exec (.ringPairEnable q v) s = execRingPairEnable q v s := rfl
theorem exec_ringPairDisable (q v) (s : State) : exec (.ringPairDisable q v) s = execRingPairDisable q v s := rfl
theorem exec_perstAssert (cool) (s : State) : exec (.perstAssert cool) s = execPerstAssert cool s := rfl
theorem exec_jobPrepared (q index x) (s : State) : exec (.jobPrepared q index x) s = execJobPrepared q index x s := rfl
theorem exec_jobBoundary (overruns peers) (s : State) : exec (.jobBoundary overruns peers) s = execJobBoundary overruns peers s := rfl
theorem exec_mainPwrgdRise (testen) (s : State) : exec (.mainPwrgdRise testen) s = execMainPwrgdRise testen s := rfl
theorem exec_mainPwrgdFall (s : State) : exec (.mainPwrgdFall) s = execMainPwrgdFall s := rfl
theorem exec_getMeasurements (index nonce) (s : State) : exec (.getMeasurements index nonce) s = execGetMeasurements index nonce s := rfl
theorem exec_finish (id good) (s : State) : exec (.finish id good) s = execFinish id good s := rfl
theorem exec_heartbeat (id) (s : State) : exec (.heartbeat id) s = execHeartbeat id s := rfl
theorem exec_endSession (id) (s : State) : exec (.endSession id) s = execEndSession id s := rfl
theorem exec_relockAttemptTimeout (k) (s : State) : exec (.relockAttemptTimeout k) s = execRelockAttemptTimeout k s := rfl
theorem exec_pllRelocked (k) (s : State) : exec (.pllRelocked k) s = execPllRelocked k s := rfl
theorem exec_refLost (count) (s : State) : exec (.refLost count) s = execRefLost count s := rfl
theorem exec_corePowerOnDone (core) (s : State) : exec (.corePowerOnDone core) s = execCorePowerOnDone core s := rfl
theorem exec_tamper (cool) (s : State) : exec (.tamper cool) s = execTamper cool s := rfl
theorem exec_watchdogArm (v) (s : State) : exec (.watchdogArm v) s = execWatchdogArm v s := rfl
theorem exec_fencedWritesInterval (s : State) : exec (.fencedWritesInterval) s = execFencedWritesInterval s := rfl
theorem exec_journalRecordCommit (failed) (s : State) : exec (.journalRecordCommit failed) s = execJournalRecordCommit failed s := rfl
theorem exec_aocTakeover (s : State) : exec (.aocTakeover) s = execAocTakeover s := rfl
theorem exec_profileOpen (eid vdm lo hi caps) (s : State) : exec (.profileOpen eid vdm lo hi caps) s = execProfileOpen eid vdm lo hi caps s := rfl
theorem exec_sedimentRead (eid vdm first count) (s : State) : exec (.sedimentRead eid vdm first count) s = execSedimentRead eid vdm first count s := rfl
theorem exec_setEndpointId (eid vdm new) (s : State) : exec (.setEndpointId eid vdm new) s = execSetEndpointId eid vdm new s := rfl
theorem exec_getPldmCommands (eid vdm type) (s : State) : exec (.getPldmCommands eid vdm type) s = execGetPldmCommands eid vdm type s := rfl
theorem exec_getSensorReading (eid vdm sensor) (s : State) : exec (.getSensorReading eid vdm sensor) s = execGetSensorReading eid vdm sensor s := rfl
theorem exec_getStateSensorReadings (eid vdm sensor) (s : State) : exec (.getStateSensorReadings eid vdm sensor) s = execGetStateSensorReadings eid vdm sensor s := rfl
theorem exec_getPdr (eid vdm record len) (s : State) : exec (.getPdr eid vdm record len) s = execGetPdr eid vdm record len s := rfl
theorem exec_setEventReceiver (eid vdm receiver) (s : State) : exec (.setEventReceiver eid vdm receiver) s = execSetEventReceiver eid vdm receiver s := rfl
theorem exec_padSwitchDone (n) (s : State) : exec (.padSwitchDone n) s = execPadSwitchDone n s := rfl
theorem exec_pllReady (k) (s : State) : exec (.pllReady k) s = execPllReady k s := rfl
theorem exec_packageLoadComplete (s : State) : exec (.packageLoadComplete) s = execPackageLoadComplete s := rfl

end Sys2Proof.Machine

/-! ## Issue and advance (R113, R115, R32, R156) -/

namespace Sys2Proof.Machine

/-- A core's position does not depend on what its registers hold but NC_STREAM_POS. -/
theorem State.pos_of_calls_nil {s : State} {n : Nat} (h : (s.core n).calls = []) :
    s.pos n = s.fget (f_ncStreamPos_position n) := by rw [State.pos, h]

theorem State.pos_of_calls_cons {s : State} {n : Nat} {f : CallFrame} {l : List CallFrame} (h : (s.core n).calls = f :: l) :
    s.pos n = (s.core n).rpos := by rw [State.pos, h]

/-- A core that does not run, or whose clock stands stopped, issues nothing. -/
theorem State.issue_of_not_running {s : State} {n : Nat} {w : IWord} {eng op : Nat}
    (h : s.coreState n ≠ 1 ∨ s.coreStopped n = true) : s.issue n w eng op = .none := by
  rw [State.issue, if_pos (by tauto)]

/-- A core with no body open goes to the position it is moved to. -/
theorem closeBodies_of_no_reps {c : CoreRt} (h : c.reps = []) (f p : Nat) : closeBodies c f p = (c, p) := by
  cases f with
  | zero => rfl
  | succ f => rw [closeBodies, h]

/-- At every position but the end of the innermost body nothing closes. -/
theorem closeBodies_of_ne {c : CoreRt} {r : RepFrame} {l : List RepFrame} (h : c.reps = r :: l) {p : Nat}
    (hp : p ≠ r.start + r.len) (f : Nat) : closeBodies c (f + 1) p = (c, p) := by
  rw [closeBodies, h]
  exact if_pos hp

/-- A core's own record stored again changes no core. -/
theorem State.core_setCore_self (s : State) (n m : Nat) : (s.setCore n (s.core n)).core m = s.core m := by
  by_cases h : m = n
  · rw [h, State.core_setCore_same]
  · exact State.core_setCore_ne _ _ h

/-- Moving a core writes NC_STREAM_POS and NC_STATUS of that core and no other register. -/
theorem State.rd_moveTo (s : State) (n p : Nat) {o : Nat} (h4 : o ≠ 0x100000 * n + 0x4) (h8 : o ≠ 0x100000 * n + 0x8) :
    (s.moveTo n p).rd o = s.rd o := by
  unfold State.moveTo
  simp only []
  rw [State.rd_fput_ne _ _ h4, State.rd_fput_ne _ _ h4]
  split
  · rw [State.rd_fput_ne _ _ h8, State.rd_setCore]
  · rw [State.rd_setCore]

/-- Moving a core changes registers and cores alone. -/
theorem State.moveTo_eq (s : State) (n p : Nat) :
    s.moveTo n p = { s with regs := (s.moveTo n p).regs, cores := (s.moveTo n p).cores } := by
  unfold State.moveTo
  simp only []
  split <;> rfl

@[simp] theorem State.moveTo_mem (s : State) (n p : Nat) : (s.moveTo n p).mem = s.mem := by rw [State.moveTo_eq]
@[simp] theorem State.moveTo_sync (s : State) (n p : Nat) : (s.moveTo n p).sync = s.sync := by rw [State.moveTo_eq]
@[simp] theorem State.moveTo_arrays (s : State) (n p : Nat) : (s.moveTo n p).arrays = s.arrays := by rw [State.moveTo_eq]
@[simp] theorem State.advance_mem (s : State) (n : Nat) : (s.advance n).mem = s.mem := s.moveTo_mem n _
@[simp] theorem State.advance_sync (s : State) (n : Nat) : (s.advance n).sync = s.sync := s.moveTo_sync n _
@[simp] theorem State.advance_arrays (s : State) (n : Nat) : (s.advance n).arrays = s.arrays := s.moveTo_arrays n _

theorem State.rd_advance (s : State) (n : Nat) {o : Nat} (h4 : o ≠ 0x100000 * n + 0x4) (h8 : o ≠ 0x100000 * n + 0x8) :
    (s.advance n).rd o = s.rd o := s.rd_moveTo n _ h4 h8

/-- In the main stream, with no body open, a core moves to the position named. -/
theorem State.moveTo_of_main {s : State} {n p : Nat} (hr : (s.core n).reps = []) (hc : (s.core n).calls = []) :
    s.moveTo n p = (((s.setCore n (s.core n)).fput (f_ncStreamPos_position n) p).fput (f_ncStatus_call_depth n) 0).fput
      (f_ncStatus_repeat_depth n) (repeatDepth (s.core n)) := by
  simp only [State.moveTo, closeBodies_of_no_reps hr, hc, List.length_nil]

/-- In a routine, with no body open, a core moves to the position named. -/
theorem State.moveTo_of_routine {s : State} {n p : Nat} {f : CallFrame} {l : List CallFrame} (hr : (s.core n).reps = [])
    (hc : (s.core n).calls = f :: l) :
    s.moveTo n p = ((s.setCore n { s.core n with rpos := p }).fput (f_ncStatus_call_depth n) (f :: l).length).fput
      (f_ncStatus_repeat_depth n) (repeatDepth (s.core n)) := by
  simp only [State.moveTo, closeBodies_of_no_reps hr, hc]

/-- A position just stored in NC_STREAM_POS is the position of a core in its main stream. -/
theorem State.fget_streamPos_moved (s : State) (n p d r : Nat) (h : p < 2 ^ 32) :
    (((s.fput (f_ncStreamPos_position n) p).fput (f_ncStatus_call_depth n) d).fput
      (f_ncStatus_repeat_depth n) r).fget (f_ncStreamPos_position n) = p := by
  have hne : (f_ncStreamPos_position n).off ≠ 0x100000 * n + 0x4 := by simp [f_ncStreamPos_position]
  rw [State.fget_fput_off _ _ hne, State.fget_fput_off _ _ hne, State.fget_fput_same _ _ _ (Nat.zero_le _) (by decide : 31 < 32)]
  exact Nat.mod_eq_of_lt h

/-- Going on from an instruction that ends no repeat body moves the core one position on. -/
theorem State.pos_advance {s : State} {n : Nat} (hr : (s.core n).reps = []) (hp : s.pos n + 1 < 2 ^ 32) :
    (s.advance n).pos n = s.pos n + 1 := by
  cases hc : (s.core n).calls with
  | nil =>
    rw [State.advance, State.moveTo_of_main hr hc, State.pos_of_calls_nil (by simpa using hc), State.fget_streamPos_moved _ _ _ _ _ hp]
  | cons f l =>
    have hcalls : ((s.advance n).core n).calls = f :: l := by
      simpa [State.advance, State.moveTo_of_routine hr hc] using hc
    rw [State.pos_of_calls_cons hcalls, State.advance, State.moveTo_of_routine hr hc]
    simp

/-- An instruction of its row that meets no conflict issues `delta` cycles after the reference cycle; away from a line the
core fetches only the core's record changes. -/
theorem State.issue_of_noClash {s : State} {n : Nat} {w : IWord} (h : s.Decodes n) (hf : s.routineFetch n = (true, s))
    (hpos : (s.core n).calls = [] → s.pos n % 4 ≠ 0) (he : fld w 11 8 < 8)
    (hdef : engineDefines (fld w 11 8) (fld w 7 0) = true) (hlt : (s.core n).lastIssue < (s.core n).ref + fld w 23 12) :
    s.issue n w (fld w 11 8) (fld w 7 0) = .go ((s.core n).ref + fld w 23 12) (s.who n (fld w 11 8))
      (s.setCore n { pruneCore (s.core n) ((s.core n).ref + fld w 23 12) with
        ref := (s.core n).ref + fld w 23 12, lastIssue := (s.core n).ref + fld w 23 12, engines := [fld w 11 8],
        stepOpen := false }) := by
  have hissues : ¬(s.coreState n ≠ 1 ∨ s.coreStopped n ∨ (s.core n).paused ∨ (s.core n).stepEndAt.isSome) := by
    simp [h.running, h.clocked, h.resumed, h.inStep]
  have hsame : ((s.core n).ref + fld w 23 12 == (s.core n).lastIssue) = false := by simp; omega
  have hline : ((s.core n).calls.isEmpty && s.pos n % 4 == 0) = false := by
    cases hc : (s.core n).calls with
    | nil => simpa using hpos hc
    | cons f l => rfl
  have hhalf : (s.core n).half = none := h.unpaired
  rw [State.issue, if_neg hissues, if_neg (by simp [hhalf]), hf]
  simp only [Bool.not_true, Bool.false_eq_true, if_false, h.not_badLine, hdef, Nat.not_le.mpr he, ne_eq, not_true_eq_false,
    or_self, hsame, Bool.false_and, hline]

/-- Settles O9. -/
theorem issueAndAdvance : Obligations.IssueAndAdvance := by
  refine ⟨?_, fun s n w eng op h => State.issue_of_not_running h, ?_⟩
  · intro s n w hrun hclock hpause hstep hhalf hfetch hmain he hdef hdelta hlast
    have hdec : s.Decodes n.val := ⟨hrun, hclock, hpause, hstep, hhalf, by rw [hfetch], fun hc => by simp [(hmain hc).1]⟩
    refine ⟨_, State.issue_of_noClash hdec hfetch (fun hc => (hmain hc).2) he hdef (by omega), ?_, rfl, fun m hm => ?_⟩
    · rw [State.core_setCore_same]
    · rw [State.core_setCore_ne _ _ hm]
  · intro s n hr hp
    refine ⟨State.pos_advance hr hp, fun o h4 h8 => s.rd_advance n h4 h8, s.moveTo_eq n _, fun hc m => ?_⟩
    rw [State.advance, State.moveTo_of_main hr hc, State.core_fput, State.core_fput, State.core_fput, State.core_setCore_self]

end Sys2Proof.Machine

/-! ## Base registers (R117, R122) -/

namespace Sys2Proof.Machine

/-- A write to a base register as its two cases: the first of its cycle keeps what the registers held. -/
theorem setBreg_of_eq {c : CoreRt} {cyc : Nat} (h : c.bCycle = cyc) (r : Nat) (v : Word) :
    setBreg c cyc r v = { c with bregs := mapSet (fun _ => 0) c.bregs r v } := by
  rw [setBreg, if_pos h]

theorem setBreg_of_ne {c : CoreRt} {cyc : Nat} (h : c.bCycle ≠ cyc) (r : Nat) (v : Word) :
    setBreg c cyc r v = { c with bOld := c.bregs, bCycle := cyc, bregs := mapSet (fun _ => 0) c.bregs r v } := by
  rw [setBreg, if_neg h]

theorem setBreg_bCycle (c : CoreRt) (cyc r : Nat) (v : Word) : (setBreg c cyc r v).bCycle = cyc := by
  unfold setBreg
  split <;> simp_all

theorem setBreg_bregs (c : CoreRt) (cyc r : Nat) (v : Word) :
    (setBreg c cyc r v).bregs = mapSet (fun _ => 0) c.bregs r v := by
  unfold setBreg
  split <;> rfl

/-- On its own cycle a base register still shows its old value. -/
theorem breg_setBreg_sameCycle (c : CoreRt) (cyc r : Nat) (v : Word) (q : Nat) :
    breg (setBreg c cyc r v) cyc q = breg c cyc q := by
  by_cases h : c.bCycle = cyc
  · simp [setBreg_of_eq h, breg, h]
  · simp [setBreg_of_ne h, breg, h]

/-- On every other cycle the registers show what they hold. -/
theorem breg_setBreg_laterCycle (c : CoreRt) (cyc r : Nat) (v : Word) {k : Nat} (h : k ≠ cyc) (q : Nat) :
    breg (setBreg c cyc r v) k q = (if q = r then v else mapGet (fun _ => (0 : Word)) c.bregs q).toNat := by
  rw [breg, setBreg_bCycle, if_neg (Ne.symm h), setBreg_bregs, mapGet_set]

theorem exec_nop_of_go {s s1 : State} {n : Fin 8} {w : IWord} {cyc : Nat} {who : Who} (h : s.issue n.val w 0 0x00 = .go cyc who s1) :
    exec (.nop n w) s = .next (s1.advance n.val) := by
  simp only [exec_nop, execNop, h]

theorem exec_setb_of_go {s s1 : State} {n : Fin 8} {w : IWord} {cyc : Nat} {who : Who} (h : s.issue n.val w 0 0x05 = .go cyc who s1) :
    exec (.setb n w) s = .next ((s1.setCore n.val
      (setBreg (s1.core n.val) cyc (fld w 27 24) (BitVec.ofNat 32 (fld w 59 28)))).advance n.val) := by
  simp only [exec_setb, execSetb, h]

theorem exec_addb_of_go {s s1 : State} {n : Fin 8} {w : IWord} {cyc : Nat} {who : Who} (h : s.issue n.val w 0 0x06 = .go cyc who s1) :
    exec (.addb n w) s = .next ((s1.setCore n.val (setBreg (s1.core n.val) cyc (fld w 27 24)
      (BitVec.ofNat 32 (breg (s1.core n.val) cyc (fld w 27 24)) + BitVec.ofNat 32 (fld w 59 28)))).advance n.val) := by
  simp only [exec_addb, execAddb, h]

/-- Settles O10. -/
theorem baseRegisters : Obligations.BaseRegisters := by
  refine ⟨fun s n w cyc who s1 => ⟨exec_nop_of_go, exec_setb_of_go, exec_addb_of_go⟩, fun c cyc r v => ⟨?_, ?_, ?_⟩⟩
  · exact breg_setBreg_sameCycle c cyc r v
  · intro k hk _
    rw [breg_setBreg_laterCycle c cyc r v hk, if_pos rfl]
  · intro k q hk hb hq
    rw [breg_setBreg_laterCycle c cyc r v hk, if_neg hq, breg, if_neg (Ne.symm hb)]

end Sys2Proof.Machine

/-! ## Changes of registers alone -/

namespace Sys2Proof.Machine

theorem RegsOnly.refl (s : State) (l : List Nat) : RegsOnly s s l := ⟨rfl, fun _ _ => rfl⟩

theorem RegsOnly.trans {s t u : State} {l : List Nat} (h : RegsOnly s t l) (h' : RegsOnly t u l) : RegsOnly s u l := by
  obtain ⟨hs, hrd⟩ := h
  obtain ⟨ht, hrd'⟩ := h'
  refine ⟨?_, fun o ho => (hrd' o ho).trans (hrd o ho)⟩
  rw [ht, hs]

theorem RegsOnly.of_wr (s : State) {o : Nat} {l : List Nat} (ho : o ∈ l) (v : Word) : RegsOnly s (s.wr o v) l :=
  ⟨rfl, fun _ hp => s.rd_wr_ne v fun e => hp (e ▸ ho)⟩

theorem RegsOnly.wr {s t : State} {l : List Nat} (h : RegsOnly s t l) {o : Nat} (ho : o ∈ l) (v : Word) : RegsOnly s (t.wr o v) l :=
  h.trans (.of_wr t ho v)

theorem RegsOnly.fput {s t : State} {l : List Nat} (h : RegsOnly s t l) {f : Fld} (ho : f.off ∈ l) (v : Nat) :
    RegsOnly s (t.fput f v) l := h.wr ho _

theorem RegsOnly.fsat {s t : State} {l : List Nat} (h : RegsOnly s t l) {f : Fld} (ho : f.off ∈ l) (v : Nat) :
    RegsOnly s (t.fsat f v) l := h.wr ho _

theorem RegsOnly.fput64 {s t : State} {l : List Nat} (h : RegsOnly s t l) {f : Fld} (ho : f.off ∈ l) (ho' : f.off + 4 ∈ l)
    (v : Nat) : RegsOnly s (t.fput64 f v) l := (h.wr ho _).wr ho' _

theorem RegsOnly.ite {s t u : State} {l : List Nat} {c : Prop} [Decidable c] (ht : RegsOnly s t l) (hu : RegsOnly s u l) :
    RegsOnly s (if c then t else u) l := by
  split <;> assumption

theorem RegsOnly.foldl {α : Type} {s t : State} {l : List Nat} {f : State → α → State} {k : List α} (h : RegsOnly s t l)
    (hf : ∀ u, ∀ x ∈ k, RegsOnly s u l → RegsOnly s (f u x) l) : RegsOnly s (k.foldl f t) l := by
  induction k generalizing t with
  | nil => exact h
  | cons x k ih => exact ih (hf t x List.mem_cons_self h) fun u y hy => hf u y (List.mem_cons_of_mem x hy)

theorem RegsOnly.mem {s t : State} {l : List Nat} (h : RegsOnly s t l) : t.mem = s.mem := by rw [h.1]
theorem RegsOnly.sync {s t : State} {l : List Nat} (h : RegsOnly s t l) : t.sync = s.sync := by rw [h.1]
theorem RegsOnly.cores {s t : State} {l : List Nat} (h : RegsOnly s t l) : t.cores = s.cores := by rw [h.1]
theorem RegsOnly.arrays {s t : State} {l : List Nat} (h : RegsOnly s t l) : t.arrays = s.arrays := by rw [h.1]

theorem RegsOnly.core {s t : State} {l : List Nat} (h : RegsOnly s t l) (n : Nat) : t.core n = s.core n := by
  rw [State.core, h.cores]
  rfl

theorem RegsOnly.fget {s t : State} {l : List Nat} (h : RegsOnly s t l) {f : Fld} (hf : f.off ∉ l) : t.fget f = s.fget f :=
  State.fget_congr (h.2 _ hf)

theorem RegsOnly.fbit {s t : State} {l : List Nat} (h : RegsOnly s t l) {f : Fld} (hf : f.off ∉ l) : t.fbit f = s.fbit f :=
  State.fbit_congr (h.2 _ hf)

/-- The credits of the eight cores. -/
def creditRegs : List Nat := (List.range 8).map fun n => 0x100000 * n + 0x10

/-- Credits taken from the job's cores change the credits alone (R513). -/
theorem State.creditZero_regsOnly (s : State) : RegsOnly s s.creditZero creditRegs := by
  refine RegsOnly.foldl (.refl s _) fun u n hn h => ?_
  exact .ite (h.fput (List.mem_map_of_mem hn) 0) h

/-- A condition that ends the job at its next boundary notes itself and takes the credits. -/
theorem State.cond_next (s : State) (c : JobCond) :
    s.cond c false = ({ s with conds := if s.conds.contains c then s.conds else s.conds ++ [c] } : State).creditZero := by
  simp only [State.cond, Bool.or_false, Bool.false_eq_true, if_false]

end Sys2Proof.Machine

/-! ## Repeat bodies, CALL and RETURN (R121, R124, R126, R127, R596) -/

namespace Sys2Proof.Machine

/-- The strides of a body, where it enables them (R124). -/
def bodyStrides (c : CoreRt) (r : RepFrame) : CoreRt :=
  let a := if r.enA then addStride c r.regA r.strideA else c
  if r.enB then addStride a r.regB r.strideB else a

/-- At the end of a body with iterations left the core goes back to the body's first instruction. -/
theorem closeBodies_again {c : CoreRt} {r : RepFrame} {l : List RepFrame} (h : c.reps = r :: l) (hl : 1 < r.left) (f : Nat) :
    closeBodies c (f + 1) (r.start + r.len) =
      ({ bodyStrides c r with reps := { r with left := r.left - 1, iter := r.iter + 1 } :: l }, r.start) := by
  rw [closeBodies, h]
  simp only [ne_eq, not_true_eq_false, if_false, Nat.not_le.mpr hl]
  rfl

/-- After its last iteration a body closes and the core falls through. -/
theorem closeBodies_through {c : CoreRt} {r : RepFrame} {l : List RepFrame} (h : c.reps = r :: l) (hl : r.left ≤ 1) (f : Nat) :
    closeBodies c (f + 1) (r.start + r.len) = closeBodies { bodyStrides c r with reps := l } f (r.start + r.len) := by
  rw [closeBodies, h]
  simp only [ne_eq, not_true_eq_false, if_false, hl, if_true]
  rfl

/-- A stride adds to its own base register. -/
theorem mapGet_addStride (c : CoreRt) (r : Nat) (d : Int) (q : Nat) :
    mapGet (fun _ => (0 : Word)) (addStride c r d).bregs q =
      if q = r then mapGet (fun _ => (0 : Word)) c.bregs r + BitVec.ofInt 32 d else mapGet (fun _ => (0 : Word)) c.bregs q :=
  mapGet_set _ _ _ _ _

/-- REPEAT with the check of its length written as the model's two streams give it. -/
theorem exec_repeatBody_of_go {s s1 : State} {n : Fin 8} {w : IWord} {cyc : Nat} {who : Who}
    (h : s.issue n.val w 0 0x02 = .go cyc who s1) :
    (4 ≤ (s.core n.val).reps.length ∨ s.bodyTooLong n.val (fld w 51 40 + 1) →
      exec (.repeatBody n w) s = .next (s.decodeFault n.val 0 0x08)) ∧
    ((s.core n.val).reps.length < 4 → ¬ s.bodyTooLong n.val (fld w 51 40 + 1) →
      exec (.repeatBody n w) s = .next ((s1.setCore n.val { s1.core n.val with reps :=
        ⟨s.pos n.val + 1, fld w 51 40 + 1, fld w 39 24 + 1, 1, fld w 55 52, bit w.toNat 56, sext 24 (fld w 80 57),
          fld w 84 81, bit w.toNat 85, sext 24 (fld w 109 86)⟩ :: (s1.core n.val).reps }).advance n.val)) := by
  unfold State.bodyTooLong
  simp only [exec_repeatBody, execRepeatBody, h]
  constructor
  · intro hbad
    rw [if_pos]
    rcases hbad with hnest | ⟨hc, hlen | ⟨l, hl, hlen⟩⟩ | ⟨f, rest, hc, hlen⟩
    · simp [hnest]
    · simp [hc, hlen]
    · simp [hc, hl, hlen]
    · simp [hc]
      omega
  · intro hnest hfits
    rw [if_neg]
    push Not at hfits
    obtain ⟨hmain, hroutine⟩ := hfits
    cases hc : (s.core n.val).calls with
    | nil =>
      obtain ⟨h64, hl⟩ := hmain hc
      cases hs : (s.core n.val).streamLen with
      | none => simp [Nat.not_le.mpr hnest, Nat.not_lt.mpr h64]
      | some l => simp [Nat.not_le.mpr hnest, Nat.not_lt.mpr h64, Nat.not_lt.mpr (hl l hs)]
    | cons f rest =>
      obtain ⟨h4096, hl⟩ := hroutine f rest hc
      simp [Nat.not_le.mpr hnest, Nat.not_lt.mpr h4096, Nat.not_lt.mpr hl]

/-- The call level that CALL opens (R126). -/
def State.callFrame (s2 : State) (n : Nat) (i cyc p : Nat) (e : RoutineEntry) : CallFrame :=
  { routine := i, saved := (List.range 8).map fun r => mapGet (fun _ => (0 : Word)) (s2.core n).bregs r, retPos := p + 1,
    reps := (s2.core n).reps, callCycle := cyc, stall := 0, cost := e.cost, len := e.length, body := 4 * e.offset }

/-- Entering a routine changes registers and the core's own record, which then stands at the routine's start. -/
theorem exec_call_of_valid {s s1 s2 : State} {n : Fin 8} {w : IWord} {cyc : Nat} {who : Who} {d : List Byte}
    (h : s.issue n.val w 0 0x03 = .go cyc who s1) (hg : fld w 35 34 = 0) (hl : (s.core n.val).calls.length < 4)
    (hr : s1.routineRead n.val (16 * fld w 33 24) = (some d, s2)) (hv : (routineEntry d).valid = true) :
    Answers (.call n w) s fun t =>
      t.core n.val = { s2.core n.val with
        calls := s2.callFrame n.val (fld w 33 24) cyc (s.pos n.val) (routineEntry d) :: (s2.core n.val).calls, reps := [], rpos := 0 } ∧
      (∀ m, m ≠ n.val → t.core m = s2.core m) ∧ t = { s2 with regs := t.regs, cores := t.cores } := by
  simp only [Answers, exec_call, execCall, h, hg, ne_eq, not_true_eq_false, if_false, Nat.not_le.mpr hl, hr, hv, Bool.not_true,
    Bool.false_eq_true]
  refine ⟨_, rfl, ?_, fun m hm => ?_, ?_⟩
  · rw [State.core_fput, State.core_fput, State.core_setCore_same]
    rfl
  · rw [State.core_fput, State.core_fput, State.core_setCore_ne _ _ hm]
    split <;> rfl
  · split <;> rfl

/-- Settles O11: the end of a body by the iterations left, a stride by its register, and each of the three instructions
by the branch it takes. -/
theorem repeatsAndCalls : Obligations.RepeatsAndCalls := by
  refine ⟨?_, fun c r d => ⟨rfl, mapGet_addStride c r d⟩, fun s n w cyc who s1 => ⟨exec_repeatBody_of_go, ?_, ?_⟩⟩
  · rintro c r rest f h
    refine ⟨?_, fun p hp => closeBodies_of_ne h hp f⟩
    rintro c1 rfl
    exact ⟨fun hl => closeBodies_again h hl f, fun hl => closeBodies_through h hl f⟩
  · intro h
    refine ⟨fun hg => ?_, fun hg hl => ?_, fun hg hl => ⟨fun s2 hr => ?_, fun d s2 hr => ⟨fun hv => ?_, fun hv => ?_⟩⟩⟩
    · simp only [exec_call, execCall, h, ne_eq, hg, not_false_eq_true, if_true]
    · simp only [exec_call, execCall, h, ne_eq, hg, not_true_eq_false, if_false, hl, if_true]
    · simp only [exec_call, execCall, h, ne_eq, hg, not_true_eq_false, if_false, Nat.not_le.mpr hl, hr]
    · simp only [exec_call, execCall, h, ne_eq, hg, not_true_eq_false, if_false, Nat.not_le.mpr hl, hr, hv, Bool.not_false, if_true]
    · obtain ⟨t, ht, hcore, hother, heq⟩ := exec_call_of_valid h hg hl hr hv
      have hcalls := congrArg CoreRt.calls hcore
      refine ⟨t, ht, _, hcalls, rfl, rfl, rfl, rfl, rfl, rfl, rfl, rfl, rfl, congrArg CoreRt.reps hcore, ?_, hother, heq⟩
      rw [State.pos_of_calls_cons hcalls, hcore]
  · intro h
    refine ⟨fun hc => ?_, fun f rest hc => ?_⟩
    · simp only [exec_ret, execRet, h, hc]
    · simp only [exec_ret, execRet, h, hc]

end Sys2Proof.Machine

/-! ## The boundary of a step (R123, R153, R154, R158) -/

namespace Sys2Proof.Machine

/-- Measuring a step changes what the firmware holds alone. -/
theorem State.measureStep_eq (s : State) (n step : Nat) : s.measureStep n step = { s with fw := (s.measureStep n step).fw } := by
  unfold State.measureStep
  split <;> rfl

/-- A step counted and measured: NC_STEP one further, and the MP told (R123). -/
def State.stepMeasured (s : State) (n : Nat) : State :=
  ((s.fput (f_ncStep_step n) ((s.fget (f_ncStep_step n) + 1) % 2 ^ 32)).measureStep n (s.fget (f_ncStep_step n))).emit
    (.toMp mpBoundary [n, s.fget (f_ncStep_step n)])

/-- The core at the end of a step it has counted, its next step not yet begun. -/
def State.stepCounted (s : State) (n cyc : Nat) : State :=
  (s.stepMeasured n).setCore n { (s.stepMeasured n).core n with
    ref := max ((s.stepMeasured n).core n).ref cyc, stepEndAt := none, profiling := (s.stepMeasured n).fbit (f_tgCtrl_profiling n) }

theorem State.stepMeasured_eq (s : State) (n : Nat) : s.stepMeasured n =
    { s with regs := (s.fput (f_ncStep_step n) ((s.fget (f_ncStep_step n) + 1) % 2 ^ 32)).regs,
             fw := (s.stepMeasured n).fw, out := (s.stepMeasured n).out } := by
  rw [State.stepMeasured, State.measureStep_eq]
  rfl

theorem State.stepCounted_regs (s : State) (n cyc : Nat) :
    (s.stepCounted n cyc).regs = (s.fput (f_ncStep_step n) ((s.fget (f_ncStep_step n) + 1) % 2 ^ 32)).regs := by
  rw [State.stepCounted, State.setCore_regs, State.stepMeasured_eq]

@[simp] theorem State.stepCounted_mem (s : State) (n cyc : Nat) : (s.stepCounted n cyc).mem = s.mem := by
  rw [State.stepCounted, State.setCore_mem, State.stepMeasured_eq]

@[simp] theorem State.stepCounted_sync (s : State) (n cyc : Nat) : (s.stepCounted n cyc).sync = s.sync := by
  rw [State.stepCounted, State.setCore_sync, State.stepMeasured_eq]

theorem State.rd_stepCounted (s : State) (n cyc : Nat) {o : Nat} (h : o ≠ 0x100000 * n + 0xC) :
    (s.stepCounted n cyc).rd o = s.rd o := by
  rw [State.rd, State.stepCounted_regs]
  exact s.rd_fput_ne _ h

theorem State.fget_stepCounted (s : State) (n cyc : Nat) :
    (s.stepCounted n cyc).fget (f_ncStep_step n) = (s.fget (f_ncStep_step n) + 1) % 2 ^ 32 := by
  rw [State.fget, State.rd, State.stepCounted_regs]
  exact (s.fget_fput_same _ _ (Nat.zero_le _) (by decide : 31 < 32)).trans (Nat.mod_mod _ _)

/-- The boundary tests the credit and the pending fault as they stood at the end of the step. -/
theorem State.boundary_eq (s : State) (n cyc : Nat) :
    s.boundary n cyc = if s.fget (f_ncBoundaryCredit_credit n) ≠ 0 ∧ (!(s.core n).tgPending) = true then
      ((s.stepCounted n cyc).fput (f_ncBoundaryCredit_credit n) (s.fget (f_ncBoundaryCredit_credit n) - 1)).setCore n
        { (s.stepCounted n cyc).core n with stepOpen := true }
    else (if (s.core n).tgPending = true then (s.stepCounted n cyc).cond .scheduleFault false
      else s.stepCounted n cyc).fput (f_ncStatus_state n) 3 := by
  have hcredit : (s.stepMeasured n).fget (f_ncBoundaryCredit_credit n) = s.fget (f_ncBoundaryCredit_credit n) := by
    rw [State.stepMeasured_eq]
    exact s.fget_fput_off _ (by simp [f_ncBoundaryCredit_credit, f_ncStep_step])
  have hcore : (s.stepMeasured n).core n = s.core n := by
    rw [State.stepMeasured_eq]
    rfl
  rw [← hcredit, ← hcore]
  rfl

/-- With a credit and no schedule fault pending the core spends it and runs on. -/
theorem State.boundary_of_credit {s : State} {n : Nat} (cyc : Nat) (hc : s.fget (f_ncBoundaryCredit_credit n) ≠ 0)
    (hp : (s.core n).tgPending = false) :
    s.boundary n cyc = ((s.stepCounted n cyc).fput (f_ncBoundaryCredit_credit n) (s.fget (f_ncBoundaryCredit_credit n) - 1)).setCore n
      { (s.stepCounted n cyc).core n with stepOpen := true } := by
  rw [State.boundary_eq, if_pos ⟨hc, by rw [hp]; rfl⟩]

/-- The core that a boundary halts, its job's credits taken where a schedule fault pends (R154). -/
def State.stepHalted (s : State) (n cyc : Nat) : State :=
  if (s.core n).tgPending = true then (s.stepCounted n cyc).cond .scheduleFault false else s.stepCounted n cyc

/-- With no credit, or a schedule fault pending, the core halts at its boundary. -/
theorem State.boundary_of_halt {s : State} {n : Nat} (cyc : Nat)
    (h : s.fget (f_ncBoundaryCredit_credit n) = 0 ∨ (s.core n).tgPending = true) :
    s.boundary n cyc = (s.stepHalted n cyc).fput (f_ncStatus_state n) 3 := by
  rw [State.boundary_eq, if_neg (by rintro ⟨hc, hp⟩; simp_all)]
  rfl

theorem State.rd_stepHalted (s : State) (n cyc : Nat) {o : Nat} (h : o ∉ creditRegs) :
    (s.stepHalted n cyc).rd o = (s.stepCounted n cyc).rd o := by
  unfold State.stepHalted
  split
  · rw [State.cond_next]
    exact (State.creditZero_regsOnly _).2 o h
  · rfl

theorem State.stepHalted_mem_sync (s : State) (n cyc : Nat) :
    (s.stepHalted n cyc).mem = s.mem ∧ (s.stepHalted n cyc).sync = s.sync := by
  unfold State.stepHalted
  split
  · rw [State.cond_next, (State.creditZero_regsOnly _).mem, (State.creditZero_regsOnly _).sync]
    exact ⟨s.stepCounted_mem n cyc, s.stepCounted_sync n cyc⟩
  · exact ⟨s.stepCounted_mem n cyc, s.stepCounted_sync n cyc⟩

/-- No register of a core but its credit is a credit. -/
theorem not_mem_creditRegs {n k : Nat} (hk : k < 0x100000) (h : k ≠ 0x10) : 0x100000 * n + k ∉ creditRegs := by
  simp only [creditRegs, List.mem_map, List.mem_range, not_exists, not_and]
  omega

/-- STEP_END of the step NC_STEP names, in the main stream with no body open. -/
theorem exec_stepEnd_of_go {s s1 : State} {n : Fin 8} {w : IWord} {cyc : Nat} {who : Who}
    (h : s.issue n.val w 0 0x01 = .go cyc who s1) (hc : (s.core n.val).calls = []) (hr : (s.core n.val).reps = [])
    (hs : fld w 55 24 = s.fget (f_ncStep_step n.val)) :
    exec (.stepEnd n w) s =
      (let async := !(s1.core n.val).queue.isEmpty || (s1.array n.val 0).streamed.isSome || (s1.array n.val 1).streamed.isSome ||
        (s1.core n.val).gens.any fun g => g.2.bound
       let s2 := if async || decide (cyc < s1.idleCycle n.val) then s1.tgFault who 0x08 0 0 false cyc else s1
       if async then .next ((s2.advance n.val).setCore n.val { (s2.advance n.val).core n.val with stepEndAt := some cyc })
       else .next ((s2.advance n.val).boundary n.val (max cyc (s1.idleCycle n.val)))) := by
  simp only [exec_stepEnd, execStepEnd, h, hc, hr, hs, List.isEmpty_nil, Bool.not_true, Bool.or_self, ne_eq, not_true_eq_false,
    decide_false, Bool.false_eq_true, if_false]

/-- The boundary leaves NC_STEP one further, whichever way the core goes on. -/
theorem State.fget_step_boundary (s : State) (n cyc : Nat) :
    (s.boundary n cyc).fget (f_ncStep_step n) = (s.fget (f_ncStep_step n) + 1) % 2 ^ 32 := by
  rw [← s.fget_stepCounted n cyc]
  by_cases h : s.fget (f_ncBoundaryCredit_credit n) = 0 ∨ (s.core n).tgPending = true
  · rw [State.boundary_of_halt cyc h, State.fget_fput_off _ _ (by simp [f_ncStep_step, f_ncStatus_state])]
    exact State.fget_congr (s.rd_stepHalted n cyc (not_mem_creditRegs (by decide) (by decide)))
  · rw [not_or, Bool.not_eq_true] at h
    rw [State.boundary_of_credit cyc h.1 h.2, State.fget_setCore,
      State.fget_fput_off _ _ (by simp [f_ncStep_step, f_ncBoundaryCredit_credit])]

/-- A boundary leaves memory and the sync objects. -/
theorem State.boundary_mem_sync (s : State) (n cyc : Nat) : (s.boundary n cyc).mem = s.mem ∧ (s.boundary n cyc).sync = s.sync := by
  by_cases h : s.fget (f_ncBoundaryCredit_credit n) = 0 ∨ (s.core n).tgPending = true
  · rw [State.boundary_of_halt cyc h]
    exact s.stepHalted_mem_sync n cyc
  · rw [not_or, Bool.not_eq_true] at h
    rw [State.boundary_of_credit cyc h.1 h.2]
    simp only [State.setCore_mem, State.fput_mem, State.stepCounted_mem, State.setCore_sync, State.fput_sync, State.stepCounted_sync, and_self]

/-- Settles O12: STEP_END by what is still busy, then the boundary by its credit and its pending fault. -/
theorem stepBoundaries : Obligations.StepBoundaries := by
  refine ⟨fun s n w cyc who s1 h => ⟨fun hbad => ?_, fun hc hr hs => ⟨fun hq h0 h1 hg => ⟨fun hi => ?_, fun hi => ?_⟩, fun hbusy => ?_⟩⟩,
    fun s n cyc => ⟨s.fget_step_boundary n cyc, fun h => ?_, fun hc hp => ⟨?_, ?_⟩, (s.boundary_mem_sync n cyc).1,
      (s.boundary_mem_sync n cyc).2⟩⟩
  · simp only [exec_stepEnd, execStepEnd, h]
    rw [if_pos]
    rcases hbad with hc | hr | hs
    · simp [hc]
    · simp [hr]
    · simp [hs]
  · rw [exec_stepEnd_of_go h hc hr hs]
    simp [hq, h0, h1, hg, Nat.not_lt.mpr hi, Nat.max_eq_left hi]
  · rw [exec_stepEnd_of_go h hc hr hs]
    simp [hq, h0, h1, hg, hi, Nat.max_eq_right hi.le]
  · rw [exec_stepEnd_of_go h hc hr hs]
    have hasync : (!(s1.core n.val).queue.isEmpty || (s1.array n.val 0).streamed.isSome || (s1.array n.val 1).streamed.isSome ||
        (s1.core n.val).gens.any fun g => g.2.bound) = true := by
      rcases hbusy with hq | h0 | h1 | hg
      · simp [hq]
      · simp [Option.isSome_iff_ne_none.mpr h0]
      · simp [Option.isSome_iff_ne_none.mpr h1]
      · simp only [hg, Bool.or_true]
    simp only [hasync, Bool.true_or, if_true]
  · rw [State.boundary_of_halt cyc h]
    exact State.fget_fput_same _ _ _ (by decide : 0 ≤ 2) (by decide : 2 < 32)
  · rw [State.boundary_of_credit cyc hc hp, State.coreState_setCore]
    refine (State.fget_fput_off _ _ (by simp [f_ncStatus_state, f_ncBoundaryCredit_credit])).trans ?_
    exact State.fget_congr (s.rd_stepCounted n cyc (by simp [f_ncStatus_state]))
  · rw [State.boundary_of_credit cyc hc hp, State.fget_setCore, State.fget_fput_same _ _ _ (Nat.zero_le _) (by decide : 15 < 32)]
    have : s.fget (f_ncBoundaryCredit_credit n) < 2 ^ 16 := bits_lt _ _ _
    exact Nat.mod_eq_of_lt (by simp [f_ncBoundaryCredit_credit] at this ⊢; omega)

end Sys2Proof.Machine

/-! ## Changes of registers and cores alone: the tilth guard's faults (R154, R155) -/

namespace Sys2Proof.Machine

/-- `t` differs from `s` in registers and in what the cores hold at most. -/
def CoresRegs (s t : State) : Prop := t = { s with regs := t.regs, cores := t.cores }

theorem CoresRegs.refl (s : State) : CoresRegs s s := rfl

theorem CoresRegs.trans {s t u : State} (h : CoresRegs s t) (h' : CoresRegs t u) : CoresRegs s u := by
  unfold CoresRegs at h h' ⊢
  rw [h', h]

theorem CoresRegs.wr {s t : State} (h : CoresRegs s t) (o : Nat) (v : Word) : CoresRegs s (t.wr o v) := h.trans rfl

theorem CoresRegs.fput {s t : State} (h : CoresRegs s t) (f : Fld) (v : Nat) : CoresRegs s (t.fput f v) := h.trans rfl

theorem CoresRegs.fsat {s t : State} (h : CoresRegs s t) (f : Fld) (v : Nat) : CoresRegs s (t.fsat f v) := h.trans rfl

theorem CoresRegs.setCore {s t : State} (h : CoresRegs s t) (n : Nat) (c : CoreRt) : CoresRegs s (t.setCore n c) := h.trans rfl

theorem CoresRegs.moveTo {s t : State} (h : CoresRegs s t) (n p : Nat) : CoresRegs s (t.moveTo n p) := h.trans (t.moveTo_eq n p)

theorem CoresRegs.advance {s t : State} (h : CoresRegs s t) (n : Nat) : CoresRegs s (t.advance n) := h.moveTo n _

theorem CoresRegs.ite {s t u : State} {c : Prop} [Decidable c] (ht : CoresRegs s t) (hu : CoresRegs s u) :
    CoresRegs s (if c then t else u) := by
  split <;> assumption

theorem CoresRegs.foldl {α : Type} {s t : State} {f : State → α → State} {l : List α} (h : CoresRegs s t)
    (hf : ∀ u x, CoresRegs s u → CoresRegs s (f u x)) : CoresRegs s (l.foldl f t) := by
  induction l generalizing t with
  | nil => exact h
  | cons x l ih => exact ih (hf t x h)

theorem CoresRegs.mem {s t : State} (h : CoresRegs s t) : t.mem = s.mem := by rw [h]
theorem CoresRegs.sync {s t : State} (h : CoresRegs s t) : t.sync = s.sync := by rw [h]
theorem CoresRegs.arrays {s t : State} (h : CoresRegs s t) : t.arrays = s.arrays := by rw [h]

theorem CoresRegs.obj {s t : State} (h : CoresRegs s t) (o : Nat) : t.obj o = s.obj o := by
  rw [State.obj, h.sync]
  rfl

theorem CoresRegs.array {s t : State} (h : CoresRegs s t) (n a : Nat) : t.array n a = s.array n a := by
  rw [State.array, h.arrays]
  rfl

theorem State.tgPut_coresRegs {s t : State} (h : CoresRegs s t) (n i : Nat) (ws : List Nat) : CoresRegs s (t.tgPut n i ws) :=
  h.foldl fun _ _ hu => hu.wr _ _

theorem State.tgInsert_coresRegs {s t : State} (h : CoresRegs s t) (n k : Nat) (ws : List Nat) :
    CoresRegs s (t.tgInsert n k ws) :=
  State.tgPut_coresRegs (h.foldl fun _ _ hu => .ite (State.tgPut_coresRegs hu _ _ _) hu) _ _ _

/-- A fault of the tilth guard changes its log, the pending mark and nothing outside registers and cores. -/
theorem State.tgFault_coresRegs {s t : State} (h : CoresRegs s t) (who : Who) (kind region slot : Nat) (write : Bool) (cyc : Nat) :
    CoresRegs s (t.tgFault who kind region slot write cyc) := by
  have hpend : CoresRegs s (t.tgPend who.core) := (h.setCore _ _).fput _ _
  exact .ite (.ite (hpend.fsat _ _) (hpend.fput _ _))
    ((State.tgInsert_coresRegs (.ite (hpend.fsat _ _) (hpend.fput _ _)) _ _ _).setCore _ _)

/-- Closing repeat bodies leaves the vector engine's tables. -/
theorem closeBodies_veTables (c : CoreRt) (f p : Nat) : (closeBodies c f p).1.veTables = c.veTables := by
  induction f generalizing c p with
  | zero => rfl
  | succ f ih =>
    rw [closeBodies]
    split
    · rfl
    · split
      · rfl
      · dsimp only
        split
        · rw [ih]
          split <;> split <;> rfl
        · split <;> split <;> rfl

/-- Moving a core leaves the vector engine's tables. -/
theorem State.veTables_moveTo (s : State) (n p : Nat) : ((s.moveTo n p).core n).veTables = (s.core n).veTables := by
  rw [← closeBodies_veTables (s.core n) 8 p, State.moveTo]
  simp only []
  split <;> simp

end Sys2Proof.Machine

/-! ## REGION_SET and the loads of generators, profiles and tables (R99, R136, R148, R149, R153, R273) -/

namespace Sys2Proof.Machine

/-- Registers `a`, `a + 4`, up to `a + 4 (k - 1)` set to zero, in order. -/
def State.zeroWords (s : State) (a k : Nat) : State := (List.range k).foldl (fun s i => s.wr (a + 4 * i) 0) s

theorem State.zeroWords_succ (s : State) (a k : Nat) : s.zeroWords a (k + 1) = (s.zeroWords a k).wr (a + 4 * k) 0 := by
  rw [State.zeroWords, List.range_succ, List.foldl_append]
  rfl

theorem State.rd_zeroWords (s : State) (a k : Nat) {i : Nat} (hi : i < k) : (s.zeroWords a k).rd (a + 4 * i) = 0 := by
  induction k with
  | zero => exact absurd hi (Nat.not_lt_zero i)
  | succ k ih =>
    rw [State.zeroWords_succ]
    by_cases h : i = k
    · rw [h, State.rd_wr_same]
    · rw [State.rd_wr_ne _ _ (by omega), ih (by omega)]

theorem State.rd_zeroWords_ne (s : State) (a k : Nat) {o : Nat} (ho : ∀ i, i < k → o ≠ a + 4 * i) :
    (s.zeroWords a k).rd o = s.rd o := by
  induction k with
  | zero => rfl
  | succ k ih =>
    rw [State.zeroWords_succ, State.rd_wr_ne _ _ (ho k (Nat.lt_succ_self k)), ih fun i hi => ho i (Nat.lt_succ_of_lt hi)]

theorem State.zeroWords_coresRegs {s t : State} (h : CoresRegs s t) (a k : Nat) : CoresRegs s (t.zeroWords a k) :=
  h.foldl fun _ _ hu => hu.wr _ _

/-- A field of a register that reads zero is zero. -/
theorem State.fget_of_rd_zero {s : State} {f : Fld} (h : s.rd f.off = 0) : s.fget f = 0 := by
  rw [State.fget, h]
  exact (congrArg (· % _) (Nat.zero_div _)).trans (Nat.zero_mod _)

/-- A field of an instruction word fits its width. -/
theorem fld_lt (w : IWord) (hi lo : Nat) : fld w hi lo < 2 ^ (hi + 1 - lo) := bits_lt _ _ _

/-- The geometry of a region written to its registers, its pointers and valid bits cleared (R149). -/
def State.applyRegion (s : State) (n r cyc base linesM1 slotsM1 : Nat) : State :=
  let s1 := ((s.fput (f_tgRegionCfg_base_line n r) base).fput (f_tgRegionCfg_slot_lines_m1 n r) linesM1).fput
    (f_tgRegionCfg_slot_count_m1 n r) slotsM1
  ((s1.note n cyc (.ptr r (s1.head n r) (s1.tail n r))).wr (f_tgRegionPtr_head n r).off 0).zeroWords
    (0x100000 * n + 0x14000 + 512 * r) 128

theorem State.applyRegion_coresRegs (s : State) (n r cyc base l k : Nat) : CoresRegs s (s.applyRegion n r cyc base l k) := by
  exact State.zeroWords_coresRegs (((((CoresRegs.refl s).fput _ _).fput _ _).fput _ _).setCore _ _ |>.wr _ _) _ _

/-- Below the valid bits a region's registers read as the geometry and the pointers were written. -/
theorem State.rd_applyRegion_below (s : State) {n r : Nat} (cyc base l k : Nat) {o : Nat} (h : o < 0x100000 * n + 0x14000) :
    (s.applyRegion n r cyc base l k).rd o = ((((s.fput (f_tgRegionCfg_base_line n r) base).fput
      (f_tgRegionCfg_slot_lines_m1 n r) l).fput (f_tgRegionCfg_slot_count_m1 n r) k).wr (f_tgRegionPtr_head n r).off 0).rd o := by
  rw [State.applyRegion, State.rd_zeroWords_ne _ _ _ (by omega)]
  by_cases ho : o = (f_tgRegionPtr_head n r).off
  · rw [ho, State.rd_wr_same, State.rd_wr_same]
  · rw [State.rd_wr_ne _ _ ho, State.rd_wr_ne _ _ ho, State.note, State.rd_setCore]

theorem State.rd_applyRegion_head (s : State) {n r : Nat} (cyc base l k : Nat) (hr : r < 64) :
    (s.applyRegion n r cyc base l k).rd (f_tgRegionPtr_head n r).off = 0 := by
  rw [State.rd_applyRegion_below _ _ _ _ _ (by simp only [f_tgRegionPtr_head]; omega), State.rd_wr_same]

theorem State.fget_applyRegion_base (s : State) {n r base : Nat} (cyc l k : Nat) (hr : r < 64) (hb : base < 2 ^ 18) :
    (s.applyRegion n r cyc base l k).fget (f_tgRegionCfg_base_line n r) = base := by
  rw [State.fget_congr (s.rd_applyRegion_below cyc base l k (by simp only [f_tgRegionCfg_base_line]; omega)),
    State.fget_wr_ne _ _ (by simp only [f_tgRegionCfg_base_line, f_tgRegionPtr_head]; omega),
    State.fget_fput_off _ _ (by simp only [f_tgRegionCfg_base_line, f_tgRegionCfg_slot_count_m1]; omega),
    State.fget_fput_ne _ _ _ _ (by decide : 18 ≤ 23) (by decide : 23 < 32) (Nat.zero_le _) (.inr (.inr (by decide : 17 < 18))),
    State.fget_fput_same _ _ _ (Nat.zero_le _) (by decide : 17 < 32)]
  exact Nat.mod_eq_of_lt hb

theorem State.fget_applyRegion_lines (s : State) {n r l : Nat} (cyc base k : Nat) (hr : r < 64) (hl : l < 2 ^ 6) :
    (s.applyRegion n r cyc base l k).fget (f_tgRegionCfg_slot_lines_m1 n r) = l := by
  rw [State.fget_congr (s.rd_applyRegion_below cyc base l k (by simp only [f_tgRegionCfg_slot_lines_m1]; omega)),
    State.fget_wr_ne _ _ (by simp only [f_tgRegionCfg_slot_lines_m1, f_tgRegionPtr_head]; omega),
    State.fget_fput_off _ _ (by simp only [f_tgRegionCfg_slot_lines_m1, f_tgRegionCfg_slot_count_m1]; omega),
    State.fget_fput_same _ _ _ (by decide : 18 ≤ 23) (by decide : 23 < 32)]
  exact Nat.mod_eq_of_lt hl

theorem State.fget_applyRegion_count (s : State) {n r k : Nat} (cyc base l : Nat) (hr : r < 64) (hk : k < 2 ^ 12) :
    (s.applyRegion n r cyc base l k).fget (f_tgRegionCfg_slot_count_m1 n r) = k := by
  rw [State.fget_congr (s.rd_applyRegion_below cyc base l k (by simp only [f_tgRegionCfg_slot_count_m1]; omega)),
    State.fget_wr_ne _ _ (by simp only [f_tgRegionCfg_slot_count_m1, f_tgRegionPtr_head]; omega),
    State.fget_fput_same _ _ _ (Nat.zero_le _) (by decide : 11 < 32)]
  exact Nat.mod_eq_of_lt hk

theorem State.rd_applyRegion_valid (s : State) (n r cyc base l k : Nat) {i : Nat} (hi : i < 128) :
    (s.applyRegion n r cyc base l k).rd (0x100000 * n + 0x14000 + 512 * r + 4 * i) = 0 := by
  rw [State.applyRegion, State.rd_zeroWords _ _ _ hi]

/-- REGION_SET of a region that fits applies its geometry on what its issue, and perhaps a fault, left. -/
theorem exec_regionSet_of_fits {s s1 : State} {n : Fin 8} {w : IWord} {cyc off : Nat} {who : Who}
    (h : s.issue n.val w 0 0x07 = .go cyc who s1) (ho : operand (s.core n.val) cyc (fld w 45 30) = .addr off)
    (hr : fld w 29 24 ≠ 63) (ha : off % 64 = 0) (hf : regionFits (off / 64) (fld w 51 46 + 1) (fld w 63 52 + 1) = true) :
    ∃ s2, CoresRegs s1 s2 ∧ exec (.regionSet n w) s =
      .next ((s2.applyRegion n.val (fld w 29 24) cyc (off / 64) (fld w 51 46) (fld w 63 52)).advance n.val) := by
  unfold State.applyRegion State.zeroWords
  simp only [exec_regionSet, execRegionSet, h, ho, hr, ha, hf, if_false, ne_eq, not_true_eq_false, Bool.not_true, Bool.false_eq_true,
    or_self, Nat.add_sub_cancel]
  exact ⟨_, .ite (State.tgFault_coresRegs (.refl s1) _ _ _ _ _ _) (.refl s1), rfl⟩

/-- What REGION_SET leaves of a region that fits. -/
theorem regionSet_applies {s s1 : State} {n : Fin 8} {w : IWord} {cyc off : Nat} {who : Who}
    (h : s.issue n.val w 0 0x07 = .go cyc who s1) (ho : operand (s.core n.val) cyc (fld w 45 30) = .addr off)
    (hr : fld w 29 24 ≠ 63) (ha : off % 64 = 0) (hf : regionFits (off / 64) (fld w 51 46 + 1) (fld w 63 52 + 1) = true) :
    Answers (.regionSet n w) s fun t =>
      t.fget (f_tgRegionCfg_base_line n.val (fld w 29 24)) = off / 64 ∧
      t.fget (f_tgRegionCfg_slot_lines_m1 n.val (fld w 29 24)) = fld w 51 46 ∧
      t.fget (f_tgRegionCfg_slot_count_m1 n.val (fld w 29 24)) = fld w 63 52 ∧
      t.head n.val (fld w 29 24) = 0 ∧ t.tail n.val (fld w 29 24) = 0 ∧
      (∀ k, k < 4096 → t.slotValid n.val (fld w 29 24) k = false) ∧ t.mem = s1.mem ∧ t.sync = s1.sync := by
  obtain ⟨s2, hs2, hexec⟩ := exec_regionSet_of_fits h ho hr ha hf
  have hr64 : fld w 29 24 < 64 := fld_lt w 29 24
  have hbase : off / 64 < 2 ^ 18 := by
    simp only [regionFits, decide_eq_true_eq] at hf
    have := Nat.le_add_right (off / 64) ((fld w 51 46 + 1) * (fld w 63 52 + 1))
    omega
  have hkeep : ∀ {o}, 0x100000 * n.val + 0x8 < o → ((s2.applyRegion n.val (fld w 29 24) cyc (off / 64) (fld w 51 46)
      (fld w 63 52)).advance n.val).rd o = (s2.applyRegion n.val (fld w 29 24) cyc (off / 64) (fld w 51 46) (fld w 63 52)).rd o :=
    fun ho => State.rd_advance _ _ (by omega) (by omega)
  have hframe := hs2.trans ((s2.applyRegion_coresRegs n.val (fld w 29 24) cyc (off / 64) (fld w 51 46) (fld w 63 52)).advance n.val)
  have hhead := s2.rd_applyRegion_head (n := n.val) cyc (off / 64) (fld w 51 46) (fld w 63 52) hr64
  refine ⟨_, hexec, ?_, ?_, ?_, ?_, ?_, fun k hk => ?_, hframe.mem, hframe.sync⟩
  · rw [State.fget_congr (hkeep (by simp only [f_tgRegionCfg_base_line]; omega))]
    exact s2.fget_applyRegion_base cyc _ _ hr64 hbase
  · rw [State.fget_congr (hkeep (by simp only [f_tgRegionCfg_slot_lines_m1]; omega))]
    exact s2.fget_applyRegion_lines cyc _ _ hr64 (fld_lt w 51 46)
  · rw [State.fget_congr (hkeep (by simp only [f_tgRegionCfg_slot_count_m1]; omega))]
    exact s2.fget_applyRegion_count cyc _ _ hr64 (fld_lt w 63 52)
  · exact State.fget_of_rd_zero ((hkeep (by simp only [f_tgRegionPtr_head]; omega)).trans hhead)
  · exact State.fget_of_rd_zero ((hkeep (by simp only [f_tgRegionPtr_tail]; omega)).trans hhead)
  · have hz := s2.rd_applyRegion_valid n.val (fld w 29 24) cyc (off / 64) (fld w 51 46) (fld w 63 52) (i := k / 32) (by omega)
    have hk := hkeep (o := (validFld n.val (fld w 29 24) k).off) (by simp only [validFld]; omega)
    rw [State.slotValid, State.fbit, State.fget_of_rd_zero (hk.trans hz)]
    rfl

/-- The array that the engine code of an array's row names (R113). -/
theorem arrayOf_eq {w : IWord} {a : Fin 2} (h : fld w 11 8 = 1 + a.val) : (if fld w 11 8 = 2 then 1 else 0) = a.val := by
  rw [h]
  split <;> omega

/-- PROFILE_LOAD puts what it reads into the profile it names. -/
theorem profileLoad_loads {s s1 : State} {n : Fin 8} {a : Fin 2} {w : IWord} {cyc off : Nat} {who : Who}
    (ha : fld w 11 8 = 1 + a.val) (h : s.issue n.val w (1 + a.val) 0x01 = .go cyc who s1)
    (ho : addrOnly (operand (s.core n.val) cyc (fld w 43 28)) 32 = some off) :
    Answers (.profileLoad n w) s fun t => mapGet (fun _ => 0) (t.array n.val a.val).profiles (fld w 27 24) =
      BitVec.ofNat 256 (leNat ((s1.sRead who (cyc + 1) (off / 64) rankDesc).1.take 32)) := by
  simp only [Answers, exec_profileLoad, execProfileLoad, arrayOf_eq ha, h, ho]
  refine ⟨_, rfl, ?_⟩
  rw [((CoresRegs.refl _).advance _).array, State.array_setArray_same]
  exact mapGet_set_same _ _ _ _

/-- A table slot named by a drain's bit holds what was put for it, whichever drains were named with it. -/
theorem mapGet_put_tables (t : Sparse (List Byte)) (d : List Byte) (mask slot : Nat) (k : Fin 2) (hk : bit mask k.val = true) :
    mapGet (fun _ => []) (if bit mask 1 = true then mapSet (fun _ => []) (if bit mask 0 = true then mapSet (fun _ => []) t (slot + 4 * 0) d
      else t) (slot + 4 * 1) d else if bit mask 0 = true then mapSet (fun _ => []) t (slot + 4 * 0) d else t) (slot + 4 * k.val) = d := by
  match k with
  | 0 =>
    change bit mask 0 = true at hk
    rw [if_pos hk]
    split
    · rw [mapGet_set_ne _ _ _ (by simp)]
      exact mapGet_set_same _ _ _ _
    · exact mapGet_set_same _ _ _ _
  | 1 =>
    change bit mask 1 = true at hk
    rw [if_pos hk]
    exact mapGet_set_same _ _ _ _

/-- TABLE_LOAD puts what it reads into the slots of the drains it names. -/
theorem tableLoad_loads {s s1 : State} {n : Fin 8} {a : Fin 2} {w : IWord} {cyc off : Nat} {who : Who}
    (ha : fld w 11 8 = 1 + a.val) (h : s.issue n.val w (1 + a.val) 0x02 = .go cyc who s1)
    (ho : addrOnly (operand (s.core n.val) cyc (fld w 43 28)) 2112 = some off) (hm : fld w 27 26 ≠ 0) :
    Answers (.tableLoad n w) s fun t => ∀ d : Fin 2, bit (fld w 27 26) d.val = true →
      mapGet (fun _ => []) (t.array n.val a.val).tables (fld w 25 24 + 4 * d.val) =
        (s1.sReads who (off / 64) rankDesc ((List.range 33).map fun i => cyc + 1 + i)).1 := by
  simp only [Answers, exec_tableLoad, execTableLoad, arrayOf_eq ha, h, ho, hm, if_false]
  refine ⟨_, rfl, fun d hd => ?_⟩
  rw [((CoresRegs.refl _).advance _).array, State.array_setArray_same]
  exact mapGet_put_tables _ _ _ _ d hd

/-- VTABLE_LOAD of a slot that no instruction uses puts what it reads into it. -/
theorem veTableLoad_loads {s s1 : State} {n : Fin 8} {w : IWord} {cyc off : Nat} {who : Who}
    (h : s.issue n.val w 3 0x09 = .go cyc who s1) (ho : addrOnly (operand (s.core n.val) cyc (fld w 63 48)) 2112 = some off)
    (hu : (s.core n.val).veTabUse = []) :
    Answers (.veTableLoad n w) s fun t => mapGet (fun _ => []) (t.core n.val).veTables (fld w 125 124) =
      ((s1.engineStart who cyc 33 34).2.sReads who (off / 64) rankVe
        ((List.range 33).map fun i => (s1.engineStart who cyc 33 34).1 + 2 + i)).1 := by
  simp only [Answers, exec_veTableLoad, execVeTableLoad, h, ho, hu, List.foldl_nil, Nat.not_lt_zero, if_false]
  refine ⟨_, rfl, ?_⟩
  rw [State.advance, State.veTables_moveTo, State.core_setCore_same]
  dsimp only
  rw [mapGet_set_same]

/-- ASP_LOAD to a generator that holds no load and has been handed over reads its descriptor on the next cycle. -/
theorem exec_aspLoad_of_ready {s s1 : State} {n : Fin 8} {w : IWord} {cyc off : Nat} {who : Who}
    (h : s.issue n.val w 0 0x08 = .go cyc who s1) (ho : addrOnly (operand (s.core n.val) cyc (fld w 43 28)) 64 = some off)
    (hl : mapGet (fun _ => none) (s1.core n.val).genLoads (fld w 27 24) = none)
    (hh : (getGen (s1.core n.val) (fld w 27 24)).handover ≤ cyc) :
    (parseGen (s1.sRead who (cyc + 1) (off / 64) rankDesc).1 = none → exec (.aspLoad n w) s = .next (s.decodeFault n.val 0 0x0B)) ∧
    (∀ x, parseGen (s1.sRead who (cyc + 1) (off / 64) rankDesc).1 = some x →
      ((getGen (s1.core n.val) (fld w 27 24)).bound = false → (getGen (s1.core n.val) (fld w 27 24)).freed ≤ cyc →
        exec (.aspLoad n w) s = .next (((s1.sRead who (cyc + 1) (off / 64) rankDesc).2.genLoad who (fld w 27 24)
          { x with freed := cyc } (cyc + 1)).advance n.val)) ∧
      ((getGen (s1.core n.val) (fld w 27 24)).bound = false → cyc < (getGen (s1.core n.val) (fld w 27 24)).freed →
        exec (.aspLoad n w) s = .next ((((s1.sRead who (cyc + 1) (off / 64) rankDesc).2.tgFault who 0x04 0 0 false cyc).genLoad
          who (fld w 27 24) { x with freed := (getGen (s1.core n.val) (fld w 27 24)).freed, handover := (getGen (s1.core n.val)
            (fld w 27 24)).freed } (getGen (s1.core n.val) (fld w 27 24)).freed).advance n.val)) ∧
      ((getGen (s1.core n.val) (fld w 27 24)).bound = true →
        exec (.aspLoad n w) s =
          let s2 := (s1.sRead who (cyc + 1) (off / 64) rankDesc).2.tgFault who 0x04 0 0 false cyc
          .next ((s2.setCore n.val { s2.core n.val with
            genLoads := mapSet (fun _ => none) (s2.core n.val).genLoads (fld w 27 24) (some x) }).advance n.val))) := by
  have hwait : (getGen (s1.core n.val) (fld w 27 24)).handover - cyc = 0 := Nat.sub_eq_zero_of_le hh
  simp only [exec_aspLoad, execAspLoad, h, ho, hl, hwait, Option.isSome_none, Bool.false_eq_true, if_false, lt_self_iff_false, Nat.add_zero]
  refine ⟨fun hp => by simp only [hp], fun x hp => ⟨fun hb hf => ?_, fun hb hf => ?_, fun hb => ?_⟩⟩
  · simp only [hp, hb, Bool.false_eq_true, if_false, Nat.not_lt.mpr hf]
  · simp only [hp, hb, Bool.false_eq_true, if_false, hf, if_true]
  · simp only [hp, hb, if_true]

/-- Settles O13: each instruction by its operand; the loads hold what they read because nothing after the load touches it. -/
theorem regionsAndTables : Obligations.RegionsAndTables := by
  refine ⟨fun s n w cyc who s1 h => ⟨fun r g k ho => ?_, fun off ho => ⟨fun hr => ?_, fun hr hbad => ?_, regionSet_applies h ho⟩⟩,
    fun s n w cyc who s1 => ⟨fun h => ⟨fun ho => ?_, fun off ho hl hh => exec_aspLoad_of_ready h ho hl hh⟩,
      fun a ha => ⟨fun h => ⟨fun ho => ?_, fun off ho => profileLoad_loads ha h ho⟩, fun h => ⟨fun hbad => ?_, fun off => tableLoad_loads ha h⟩⟩,
      fun h => ⟨fun ho => ?_, fun off => veTableLoad_loads h⟩⟩⟩
  · simp only [exec_regionSet, execRegionSet, h, ho]
  · simp only [exec_regionSet, execRegionSet, h, ho, hr, if_true]
  · simp only [exec_regionSet, execRegionSet, h, ho, hr, if_false, Bool.not_eq_true']
    rw [if_pos hbad]
  · simp only [exec_aspLoad, execAspLoad, h, ho]
  · simp only [exec_profileLoad, execProfileLoad, arrayOf_eq ha, h, ho]
  · simp only [exec_tableLoad, execTableLoad, arrayOf_eq ha, h]
    rcases hbad with ho | hm
    · rw [ho]
    · split
      · rfl
      · rw [if_pos hm]
  · simp only [exec_veTableLoad, execVeTableLoad, h, ho]

end Sys2Proof.Machine

/-! ## SIGNAL, SET and WAIT (R137, R141, R142, R144) -/

namespace Sys2Proof.Machine

/-- An object's counter after a completion signal of a core that has not failed. -/
theorem State.obj_complete {s : State} {n : Nat} (h : s.coreFailed n = false) (cyc o : Nat) (inc : Word) (p : Nat) :
    (s.complete n cyc (some (o, inc))).obj p = if p = o then s.obj o + inc else s.obj p := by
  simp only [State.complete, h, Bool.false_eq_true, if_false, State.signalObj]
  split
  next hp => rw [hp, State.obj_setObject_same]; rfl
  next hp => rw [State.obj_setObject_ne _ _ hp]; rfl

theorem State.complete_mem (s : State) (n cyc : Nat) (x : Option (Nat × Word)) : (s.complete n cyc x).mem = s.mem := by
  unfold State.complete
  split
  · rfl
  · split <;> rfl

theorem State.obj_replaceObject (s : State) (o : Nat) (v : Word) (p : Nat) :
    (s.replaceObject o v).obj p = if p = o then v + s.pendingSignals o else s.obj p := by
  unfold State.replaceObject
  split
  next hp => rw [hp, State.obj_setObject_same]
  next hp => rw [State.obj_setObject_ne _ _ hp]

theorem State.obj_advance (s : State) (n o : Nat) : (s.advance n).obj o = s.obj o := ((CoresRegs.refl s).advance n).obj o

/-- A local SIGNAL of a core that has not failed. -/
theorem signal_adds {s s1 : State} {n : Fin 8} {w : IWord} {cyc o : Nat} {who : Who} (h : s.issue n.val w 5 0x00 = .go cyc who s1)
    (hg : syncGrowth w = false) (hl : bit w.toNat 39 = false) (ho : s.syncIndex n.val (fld w 38 24) = some o)
    (hf : s1.coreFailed n.val = false) :
    Answers (.signal n w) s fun t => t.obj o = s1.obj o + BitVec.ofNat 32 (fld w 79 48) ∧ (∀ p, p ≠ o → t.obj p = s1.obj p) ∧
      t.mem = s1.mem := by
  refine ⟨(s1.complete n.val cyc (some (o, BitVec.ofNat 32 (fld w 79 48)))).advance n.val, ?_, ?_, fun p hp => ?_, ?_⟩
  · simp only [exec_signal, execSignal, h, hg, hl, ho, Bool.false_eq_true, if_false]
  · rw [State.obj_advance, State.obj_complete hf, if_pos rfl]
  · rw [State.obj_advance, State.obj_complete hf, if_neg hp]
  · rw [State.advance_mem, State.complete_mem]

/-- A SET of a core that has not failed. -/
theorem setObj_stores {s s1 : State} {n : Fin 8} {w : IWord} {cyc o : Nat} {who : Who} (h : s.issue n.val w 5 0x02 = .go cyc who s1)
    (hg : syncGrowth w = false) (hl : bit w.toNat 39 = false) (ho : s.syncIndex n.val (fld w 38 24) = some o)
    (hf : s1.coreFailed n.val = false) :
    Answers (.setObj n w) s fun t => t.obj o = BitVec.ofNat 32 (fld w 79 48) + s1.pendingSignals o ∧
      (∀ p, p ≠ o → t.obj p = s1.obj p) ∧ t.mem = s1.mem := by
  refine ⟨(s1.replaceObject o (BitVec.ofNat 32 (fld w 79 48))).advance n.val, ?_, ?_, fun p hp => ?_, ?_⟩
  · simp only [exec_setObj, execSetObj, h, hg, hl, ho, hf, Bool.false_eq_true, if_false]
  · rw [State.obj_advance, State.obj_replaceObject, if_pos rfl]
  · rw [State.obj_advance, State.obj_replaceObject, if_neg hp]
  · rw [State.advance_mem]
    rfl

/-- A WAIT whose counter has not reached its target holds the core. -/
theorem wait_holds {s s1 : State} {n : Fin 8} {w : IWord} {cyc o : Nat} {who : Who} {v : Word}
    (h : s.issue n.val w 5 0x01 = .go cyc who s1) (hg : syncGrowth w = false) (hl : bit w.toNat 39 = false)
    (hc : (s.core n.val).calls = []) (ho : s.syncIndex n.val (fld w 38 24) = some o)
    (hv : v = BitVec.ofNat 32 (fld w 79 48 + if bit w.toNat 84 then breg (s.core n.val) cyc (fld w 83 80) else 0))
    (hr : reached (s1.objSeen n.val o cyc) v = false) :
    Answers (.wait n w) s fun t => t.coreState n.val = 2 ∧
      (t.core n.val).waiting = some (o, v, cyc, (s.core n.val).stepOpen) ∧ t.mem = s1.mem ∧ t.sync = s1.sync := by
  refine ⟨(s1.setCore n.val { s1.core n.val with waitSkip := 0, waiting := some (o, v, cyc, (s.core n.val).stepOpen) }).fput
    (f_ncStatus_state n.val) 2, ?_, ?_, ?_, rfl, rfl⟩
  · simp only [exec_wait, execWait, h, hg, hl, hc, ho, ← hv, hr, List.isEmpty_nil, Bool.not_true, Bool.false_eq_true, if_false]
  · exact State.fget_fput_same _ _ _ (Nat.zero_le _) (by decide : 2 < 32)
  · rw [State.core_fput, State.core_setCore_same]

/-- The events that end a wait of a core whose clock runs. -/
theorem exec_waitSatisfied_of_waiting {s : State} {n : Fin 8} {o cyc : Nat} {target : Word} {opens : Bool}
    (h : (s.core n.val).waiting = some (o, target, cyc, opens)) (hs : s.coreStopped n.val = false) (cycles : Nat) :
    exec (.waitSatisfied n cycles) s = .next (if reached (s.objSeen n.val o (cyc + max 1 cycles)) target = true then
      ((s.waitCycles n.val (max 1 cycles - (s.core n.val).waitSkip)).fput (f_ncStatus_state n.val) 1).satisfy n.val
        (cyc + max 1 cycles) else s) := by
  simp only [exec_waitSatisfied, execWaitSatisfied, h, hs, Bool.not_false, Bool.true_and, Nat.add_sub_cancel_left]
  split <;> rfl

theorem exec_waitTimeout_of_waiting {s : State} {n : Fin 8} {o cyc : Nat} {target : Word} {opens : Bool}
    (h : (s.core n.val).waiting = some (o, target, cyc, opens)) (hs : s.coreStopped n.val = false) (cycles : Nat) :
    exec (.waitTimeout n cycles) s =
      if opens = true ∨ s.fget (f_ncWaitLimit_limit_us n.val) = 0 ∨ reached (s.obj o) target = true then .next s
      else .next ((s.waitCycles n.val (cycles - (s.core n.val).waitSkip)).faultAt (s.who n.val 5) 0x00 .waitTimeout) := by
  simp only [exec_waitTimeout, execWaitTimeout, h, hs, Bool.or_false, Bool.or_eq_true, beq_iff_eq, or_assoc]

/-- Settles O15: the checks of each instruction in their order, then its effect; a waiting core by its counter. -/
theorem syncInstructions : Obligations.SyncInstructions := by
  refine ⟨fun s n w cyc who s1 => ⟨fun h => ⟨fun hg => ?_, fun hg hr => ⟨fun hf => ?_, fun hf => ?_⟩,
      fun hg hl => ⟨fun ho => ?_, fun o ho hf => signal_adds h hg hl ho hf⟩⟩,
    fun h => ⟨fun hg => ?_, fun hg hbad => ?_, fun o hg hl ho hf => setObj_stores h hg hl ho hf⟩,
    fun h => ⟨fun hg => ?_, fun hg hr => ?_, fun hg hl => ⟨fun hc => ?_, fun hc ho => ?_,
      fun o v hc ho hv => ⟨fun hr => ?_, fun hr => wait_holds h hg hl hc ho hv hr⟩⟩⟩⟩,
    fun s n cycles o cyc target opens hw hs => ⟨fun hr => ?_, fun hr => ?_, fun hopen hlim hr => ?_, fun hopen => ?_⟩⟩
  · simp only [exec_signal, execSignal, h, hg, if_true]
  · simp only [exec_signal, execSignal, h, hg, hr, hf, Bool.false_eq_true, if_false, if_true]
  · simp only [exec_signal, execSignal, h, hg, hr, hf, Bool.false_eq_true, if_false, if_true]
  · simp only [exec_signal, execSignal, h, hg, hl, ho, Bool.false_eq_true, if_false]
  · simp only [exec_setObj, execSetObj, h, hg, if_true]
  · simp only [exec_setObj, execSetObj, h, hg, Bool.false_eq_true, if_false]
    rcases hbad with hr | ho
    · rw [if_pos hr]
    · rw [ho]
      exact ite_self _
  · simp only [exec_wait, execWait, h, hg, if_true]
  · simp only [exec_wait, execWait, h, hg, hr, Bool.false_eq_true, if_false, if_true]
  · have hin : (s.core n.val).calls.isEmpty = false := by simpa using hc
    simp only [exec_wait, execWait, h, hg, hl, hin, Bool.not_false, Bool.false_eq_true, if_false, if_true]
  · simp only [exec_wait, execWait, h, hg, hl, hc, ho, List.isEmpty_nil, Bool.not_true, Bool.false_eq_true, if_false]
  · simp only [exec_wait, execWait, h, hg, hl, hc, ho, ← hv, hr, List.isEmpty_nil, Bool.not_true, Bool.false_eq_true, if_false, if_true]
  · rw [exec_waitSatisfied_of_waiting hw hs, if_pos hr]
  · rw [exec_waitSatisfied_of_waiting hw hs, if_neg (Bool.eq_false_iff.mp hr)]
  · rw [exec_waitTimeout_of_waiting hw hs, if_neg (by simp [hopen, hlim, hr])]
  · rw [exec_waitTimeout_of_waiting hw hs, if_pos (.inl hopen)]

end Sys2Proof.Machine

/-! ## PASS and MOVE (R47, R54, R63, R134, R145, R201, R203) -/

namespace Sys2Proof.Machine

/-- Settles O14: PASS by what its word parses to, by the half that waits, and by the streamed instructions in its way. -/
theorem passCompletes : Obligations.PassCompletes := by
  rintro s n a w ups cyc who s1 s2 ha h rfl
  refine ⟨fun code hp => ?_, fun p hp => ⟨fun hhalf => ⟨fun hpair => ?_, fun hpair hs => ?_, fun hpair hs => ?_⟩,
    fun b q hhalf => ⟨fun hdiff => ?_, ?_⟩⟩⟩
  · simp only [exec_pass, execPass, arrayOf_eq ha, h, hp]
  · simp only [exec_pass, execPass, arrayOf_eq ha, h, hp, hhalf, hpair, if_true]
  · simp only [exec_pass, execPass, arrayOf_eq ha, h, hp, hhalf, hpair, hs, Option.isSome_none, Bool.false_eq_true, if_false]
  · simp only [exec_pass, execPass, arrayOf_eq ha, h, hp, hhalf, hpair, Option.isSome_iff_ne_none.mpr hs, Bool.false_eq_true, if_false, if_true]
  · simp only [exec_pass, execPass, arrayOf_eq ha, h, hp, hhalf]
    rw [if_pos hdiff]
  · rintro hact hvec htrans s3 rfl
    have hsame : ¬(bits q.act 15 0 ≠ bits p.act 15 0 ∨ q.vectors ≠ p.vectors ∨ q.trans ≠ p.trans) := by simp [hact, hvec, htrans]
    refine ⟨fun hb hp' => ?_, fun hbusy => ?_⟩
    · simp only [exec_pass, execPass, arrayOf_eq ha, h, hp, hhalf]
      rw [if_neg hsame]
      simp only [hb, hp', Option.isSome_none, Bool.false_eq_true, or_self, if_false]
    · simp only [Answers, exec_pass, execPass, arrayOf_eq ha, h, hp, hhalf]
      rw [if_neg hsame, if_pos (by simpa only [Option.isSome_iff_ne_none] using hbusy)]
      refine ⟨_, rfl, ?_, ?_, fun hne => ?_, ?_⟩
      · rw [State.core_setArray, State.core_setArray, State.core_setCore_same]
      · rw [State.array_setArray_same]
      · rw [State.array_setArray_ne _ _ (by omega), State.array_setArray_same]
      · simp only [State.setArray_mem, State.setArray_sync, State.setArray_regs, State.setCore_mem, State.setCore_sync, State.setCore_regs, and_self]

/-- The completion a MOVE names: none, or an increment of an object that its index names. -/
theorem exec_move_of_done {s s1 : State} {n : Fin 8} {w : IWord} {cyc : Nat} {who : Who} {done : Option (Nat × Word)}
    (h : s.issue n.val w 4 0x00 = .go cyc who s1)
    (hd : (bit w.toNat 63 = false ∧ done = none) ∨ (bit w.toNat 63 = true ∧ fld w 62 55 ≠ 0 ∧
      ∃ o, s.syncIndex n.val (fld w 54 40) = some o ∧ done = some (o, BitVec.ofNat 32 (fld w 62 55)))) :
    exec (.move n w) s =
      if 64 ≤ (s.core n.val).queue.length then .next (s.decodeFault n.val 4 0x0F)
      else match addrOnly (operand (s.core n.val) cyc (fld w 39 24)) 64 with
        | none => .next (s.decodeFault n.val 4 0x07)
        | some off =>
          match (s1.sRead who (cyc + 1) (off / 64) rankDesc).2.parseMove n.val cyc (s1.sRead who (cyc + 1) (off / 64) rankDesc).1 with
          | .error code => .next ((s1.sRead who (cyc + 1) (off / 64) rankDesc).2.faultAt who code .instructionFault)
          | .ok t => .next ((((s1.sRead who (cyc + 1) (off / 64) rankDesc).2.setCore n.val
              { (s1.sRead who (cyc + 1) (off / 64) rankDesc).2.core n.val with
                queue := ((s1.sRead who (cyc + 1) (off / 64) rankDesc).2.core n.val).queue ++
                  [{ t with done := done, serial := ((s1.sRead who (cyc + 1) (off / 64) rankDesc).2.core n.val).nextSerial }],
                nextSerial := ((s1.sRead who (cyc + 1) (off / 64) rankDesc).2.core n.val).nextSerial + 1 }).advance n.val).mvSettle n.val) := by
  rcases hd with ⟨hen, rfl⟩ | ⟨hen, hinc, o, ho, rfl⟩
  · simp only [exec_move, execMove, h, hen, Bool.false_and, Bool.false_eq_true, if_false] <;> rfl
  · have hinc' : (fld w 62 55 == 0) = false := by simpa using hinc
    simp only [exec_move, execMove, h, hen, hinc', ho, Bool.true_and, Option.isNone_some, Bool.false_eq_true, if_false, if_true, Option.map_some] <;>
      rfl

/-- Settles O16: the checks of MOVE in their order, then its place in the queue. -/
theorem moveQueues : Obligations.MoveQueues := by
  refine fun s n w cyc who s1 h => ⟨fun hen hinc => ?_, fun hen hinc ho => ?_, fun done hd => ⟨fun hfull => ?_,
    fun hfree => ⟨fun ha => ?_, ?_⟩⟩⟩
  · simp [exec_move, execMove, h, hen, hinc]
  · simp [exec_move, execMove, h, hen, hinc, ho]
  · rw [exec_move_of_done h hd, if_pos hfull]
  · rw [exec_move_of_done h hd, if_neg (Nat.not_le.mpr hfree), ha]
  · rintro off s2 ha rfl
    refine ⟨fun code hp => ?_, fun t hp => ?_⟩
    · rw [exec_move_of_done h hd, if_neg (Nat.not_le.mpr hfree), ha]
      dsimp only
      rw [hp]
    · rw [exec_move_of_done h hd, if_neg (Nat.not_le.mpr hfree), ha]
      dsimp only
      rw [hp]

end Sys2Proof.Machine

/-! ## The rows of the vector engine (R271 to R278) -/

namespace Sys2Proof.Machine

/-- NORM's second source: an address operand (R276). -/
def normSource : Option VOpd → Bool
  | some ⟨_, .addr _, _⟩ => true
  | _ => false

theorem normSource_iff (x : Option VOpd) : normSource x = true ↔ ∃ f off l, x = some ⟨f, .addr off, l⟩ := by
  constructor
  · intro h
    match x, h with
    | some ⟨f, .addr off, l⟩, _ => exact ⟨f, off, l, rfl⟩
  · rintro ⟨f, off, l, rfl⟩
    rfl

/-- The operands fit their opcode: NORM's second source and RESAMPLE's first (R276, R278). -/
def VInst.formOk (v : VInst) (xa : VOpd) (xb : Option VOpd) : Bool :=
  (v.op != 0x13 || normSource xb) && (v.op != 0x24 || xa.generated)

/-- A vector instruction that issues: its formats, its operands, their form, and then its effect. -/
theorem State.vecInst_of_go {s s1 : State} {n : Nat} {w : IWord} {op cyc : Nat} {who : Who} (h : s.issue n w 3 op = .go cyc who s1) :
    s.vecInst n w op =
      if (!(parseVec w).fmtsOk) = true then s.decodeFault n 3 0x04
      else match s.vecOpds n cyc w with
        | none => s.decodeFault n 3 0x07
        | some (xa, xb, xd) =>
          if (!(parseVec w).formOk xa xb) = true then s.decodeFault n 3 0x07 else vectorEffect s1 n cyc who (parseVec w) xa xb xd := by
  unfold State.vecInst State.vecOpds
  rw [h]
  dsimp only
  split
  · rfl
  · rcases s.vOpd n cyc (fld w 63 48) (vecLines (parseVec w).fa (parseVec w).n (parseVec w).sa) ((parseVec w).count * (parseVec w).leaves) false
      with _ | xa
    · rfl
    · rcases (parseVec w).second with _ | ⟨l, k⟩
      · dsimp only
        rcases s.vOpd n cyc (fld w 95 80) (vecLines (parseVec w).fd (parseVec w).outs (parseVec w).sd) (parseVec w).count true with _ | xd
        · rfl
        · rfl
      · dsimp only
        rcases s.vOpd n cyc (fld w 79 64) l k false with _ | ⟨f, o, m⟩
        · rfl
        · rcases s.vOpd n cyc (fld w 95 80) (vecLines (parseVec w).fd (parseVec w).outs (parseVec w).sd) (parseVec w).count true with _ | xd
          · rfl
          · cases o <;> rfl

/-- Each of these rows is `vecInst` with its opcode. -/
theorem exec_vectorRow {r : Nat × (Fin 8 → IWord → Instr)} (hr : r ∈ vectorRows) (n : Fin 8) (w : IWord) (s : State) :
    exec (r.2 n w) s = .next (s.vecInst n.val w r.1) := by
  fin_cases hr <;> rfl

/-- Settles O17: `vecInst` once for all rows, then its checks in their order. -/
theorem vectorRowsComplete : Obligations.VectorRowsComplete := by
  intro r hr s n w cyc who s1 h hop
  rw [exec_vectorRow hr, State.vecInst_of_go h]
  refine ⟨fun hf => ?_, fun hf ho => ?_, fun xa xb xd hf ho => ⟨fun hnorm hres => ?_, fun hbad => ?_⟩⟩
  · rw [hf]
    rfl
  · rw [hf, ho]
    rfl
  · have hform : (parseVec w).formOk xa xb = true := by
      simp only [VInst.formOk, hop, Bool.and_eq_true, Bool.or_eq_true, bne_iff_ne]
      exact ⟨or_iff_not_imp_left.mpr fun h13 => (normSource_iff xb).mpr (hnorm (not_not.mp h13)),
        or_iff_not_imp_left.mpr fun h24 => hres (not_not.mp h24)⟩
    rw [hf, ho]
    dsimp only
    rw [hform]
    rfl
  · have hform : (parseVec w).formOk xa xb = false := by
      simp only [VInst.formOk, hop]
      rcases hbad with ⟨h13, hno⟩ | ⟨h24, hno⟩
      · have hnot : normSource xb = false := Bool.eq_false_iff.mpr fun hyes => by
          obtain ⟨f, off, l, hx⟩ := (normSource_iff xb).mp hyes
          exact hno f off l hx
        rw [h13, hnot]
        rfl
      · rw [h24, hno]
        exact Bool.and_false _
    rw [hf, ho]
    dsimp only
    rw [hform]
    rfl

/-- The lines of each tap of PATCH: a slot of its source region (R277). -/
def State.tapLines (s : State) (n : Nat) : Operand → Nat
  | .region r _ _ => s.slotLines n r
  | .addr _ => 0

/-- PATCH: formats, then operands, then its vectors in order. -/
theorem patch_completes {s s1 : State} {n : Fin 8} {w : IWord} {cyc : Nat} {who : Who} (h : s.issue n.val w 3 0x20 = .go cyc who s1)
    (hf : (parseVec w).fmtsOk = true) {src : Operand} {ls : Nat} {xa : VOpd} (hsrc : operand (s.core n.val) cyc (fld w 63 48) = src)
    (hls : s.tapLines n.val src = ls) (hxa : xa = ⟨fld w 63 48, src, ls⟩) :
    exec (.vePatch n w) s = .next (match s.vOpd n.val cyc (fld w 95 80) (vecLines (parseVec w).fd 256 (parseVec w).sd) (parseVec w).count true with
      | none => s.decodeFault n.val 3 0x07
      | some xd =>
        if (!xa.generated || !readRegionOk src || decide (ls < vecLines (parseVec w).fa ((parseVec w).aux % 256 + 1) (parseVec w).sa)) = true then
          s.decodeFault n.val 3 0x07
        else
          let lines := 256 / ((parseVec w).aux % 256 + 1) * ls
          let c := ceilDiv lines 4
          let last := 2 + (parseVec w).count * c - 1 + 6
          let st := s1.engineStart who cyc ((parseVec w).count * c) last
          (((List.range (parseVec w).count).foldl (fun s k => s.patchOne who (parseVec w) xa xd
            (st.2.vHead n.val (s1.issuedAt who cyc) xa) st.1 c k) st.2).vDone who
              [(xa, st.1 + 2 + ((parseVec w).count - 1) * c + (lines - 1) / 4), (xd, 0)] (st.1 + last)).advance n.val) := by
  subst hxa hls
  cases hd : s.vOpd n.val cyc (fld w 95 80) (vecLines (parseVec w).fd 256 (parseVec w).sd) (parseVec w).count true with
  | none => simp only [exec_vePatch, execVePatch, h, hf, hd, Bool.not_true, Bool.false_eq_true, if_false]
  | some xd =>
    cases src <;> simp only [exec_vePatch, execVePatch, h, hf, hsrc, hd, Bool.not_true, Bool.false_eq_true, if_false]
    · exact (apply_ite Host.Outcome.next _ _ _).symm
    · exact (apply_ite Host.Outcome.next _ _ _).symm

/-- Settles O18: each of the three rows by its formats and its operands. -/
theorem layoutRowsComplete : Obligations.LayoutRowsComplete := by
  rintro s n w cyc who s1 v rfl
  refine ⟨fun h => ⟨fun hf => ?_, fun hf src ls xa hsrc hls hxa => ⟨fun hbad => ?_, fun xd ho hg hr hl => ?_⟩⟩,
    fun h => ⟨fun hf => ?_, ?_⟩, fun h => ⟨fun hf => ?_, ?_⟩⟩
  · simp only [exec_vePatch, execVePatch, h, hf, Bool.not_false, if_true]
  · have htap : s.tapLines n.val src = ls := by cases src <;> exact hls.symm
    rw [patch_completes h hf hsrc.symm htap hxa]
    rcases hbad with ho | hg | hr | hl
    · rw [ho]
    all_goals
      split
      · rfl
      · simp_all
  · have htap : s.tapLines n.val src = ls := by cases src <;> exact hls.symm
    rw [patch_completes h hf hsrc.symm htap hxa, ho]
    dsimp only
    rw [if_neg (by simp [hg, hr, Nat.not_lt.mpr hl])]
  · simp only [exec_veToPixel, execVeToPixel, h, hf, Bool.not_false, if_true]
  · rintro hf stride dst rfl rfl
    refine ⟨fun hbad => ?_, fun off xd ho hd hp => ?_⟩
    · simp only [exec_veToPixel, execVeToPixel, h, hf, Bool.not_true, Bool.false_eq_true, if_false]
      rcases hbad with hd | hp
      · rw [hd]
        cases operand (s.core n.val) cyc (fld w 63 48) <;> rfl
      · split
        next off xd ho hd => rw [hp off ho]; rfl
        next => rfl
    · simp only [exec_veToPixel, execVeToPixel, h, hf, ho, hd, hp, Bool.not_true, Bool.false_eq_true, if_false]
  · simp only [exec_veToPlanar, execVeToPlanar, h, hf, Bool.not_false, if_true]
  · rintro hf stride src rfl rfl
    refine ⟨fun hbad => ?_, fun off xa ho hs hp => ?_⟩
    · simp only [exec_veToPlanar, execVeToPlanar, h, hf, Bool.not_true, Bool.false_eq_true, if_false]
      rcases hbad with hs | hp
      · rw [hs]
      · split
        next xa off hs ho => rw [hp off ho]; rfl
        next => rfl
    · simp only [exec_veToPlanar, execVeToPlanar, h, hf, ho, hs, hp, Bool.not_true, Bool.false_eq_true, if_false]

end Sys2Proof.Machine

/-! ## The grit rows and SAMPLE (R282 to R290) -/

namespace Sys2Proof.Machine

/-- Each grit row is `gritInst` with its opcode. -/
theorem exec_gritRow {r : Nat × (Fin 8 → IWord → Instr)} (hr : r ∈ gritRows) (n : Fin 8) (w : IWord) (s : State) :
    exec (r.2 n w) s = .next (s.gritInst n.val w r.1) := by
  fin_cases hr <;> rfl

/-- Settles O19: a grit row by its destination; SAMPLE by its format and its three operands. -/
theorem gritAndSampleComplete : Obligations.GritAndSampleComplete := by
  refine ⟨fun r hr s n w cyc who s1 h => ⟨fun ho => ?_, fun xd ho => ?_⟩, fun s n w cyc who s1 h => ⟨fun h8 h9 hA => ?_, ?_⟩⟩
  · rw [exec_gritRow hr, State.gritInst]
    simp only [h, ho]
  · rw [exec_gritRow hr, State.gritInst]
    simp only [h, ho]
  · simp only [exec_sample, execSample, h]
    rw [if_pos ⟨h8, h9, hA⟩]
  · rintro hfmt v oa ob od rfl rfl rfl rfl
    have hok : ¬(fld w 31 28 ≠ 8 ∧ fld w 31 28 ≠ 9 ∧ fld w 31 28 ≠ 0xA) := by tauto
    refine ⟨fun hbad => ?_, fun xa xb xd ha hb hd => ?_⟩
    · simp only [exec_sample, execSample, h]
      rw [if_neg hok]
      split
      next xa xb xd ha hb hd => simp [ha, hb, hd] at hbad
      next => rfl
    · simp only [exec_sample, execSample, h]
      rw [if_neg hok, ha, hb, hd]

end Sys2Proof.Machine

/-! ## A core that starts on a stricken stream line (O20) -/

namespace Sys2Proof.Machine

/-- What a command answers is said of the one state it ends in. -/
theorem Answers.of_exec {c : Instr} {s u : State} {P : State → Prop} (h : Answers c s P) (hu : exec c s = .next u) : P u := by
  obtain ⟨t, ht, hP⟩ := h
  exact Host.Outcome.next.inj (hu.symm.trans ht) ▸ hP

/-- Core 0 stands at a boundary with the running job on it. Line 0 of its scratchpad, the first of its stream, holds one
inverted bit, and its banks' RAS class declares a fault lasting at the first event. -/
def strickenCore : State :=
  { State.reset with
    regs := [((f_ncStatus_state 0).off, 3), ((f_tgRegionCfg_slot_count_m1 0 63).off, 3), ((validFld 0 63 0).off, 15),
      ((f_rasClassCfg_threshold 1).off, 4156)]
    ecc := [(0, 1)]
    jobCores := 1 }

/-- The start's own fetch declares the core failed, and the abort of its job closes the step that the start had opened. -/
theorem strickenCore_startCore_stepOpen : ((strickenCore.startCore 0).core 0).stepOpen = false := by decide +kernel

/-- Refutes O20: a start reads the stream's first lines, and an error corrected there that the RAS count declares lasting
fails the core, whose job's abort (a core at a boundary is not idle) closes the step: the core runs with no step open. -/
theorem not_coreControl : ¬ Obligations.CoreControl := by
  unfold Obligations.CoreControl
  intro h
  have hstart := (h.1 strickenCore 0).1 (.inr (by decide +kernel)) (by decide +kernel)
  obtain ⟨-, -, -, -, hopen⟩ := hstart.of_exec (u := strickenCore.startCore 0) rfl
  exact absurd (strickenCore_startCore_stepOpen.symm.trans hopen) (by decide)

end Sys2Proof.Machine

/-! ## Clears and scrubs (O22) -/

namespace Sys2Proof.Machine

/-- A bank clear that starts marks itself in MA_STATUS and MA_CTRL, and nothing else (R66). -/
theorem State.maClear_of_idle (s : State) {n a : Nat} (h : s.arrayBusy n a = false) :
    (s.maClear n a).fget (f_maStatus_clearing n a) = 1 ∧ (s.maClear n a).fget (f_maCtrl_clear_banks n a) = 1 ∧
      RegsOnly s (s.maClear n a) [(f_maStatus_clearing n a).off, (f_maCtrl_clear_banks n a).off] := by
  simp only [State.maClear, h, Bool.false_eq_true, if_false]
  refine ⟨State.fget_fput_same _ _ _ (Nat.le_refl _) (by simp [f_maStatus_clearing]), ?_,
    ((RegsOnly.refl s _).fput (by simp) _).fput (by simp) _⟩
  rw [State.fget_fput_off _ _ (by simp [f_maStatus_clearing, f_maCtrl_clear_banks])]
  exact State.fget_fput_same _ _ _ (Nat.le_refl _) (by simp [f_maCtrl_clear_banks])

/-- A cleared array's registers read as R66 leaves them. -/
theorem State.maCleared_fields (s : State) (n a : Nat) :
    (s.maCleared n a).fget (f_maStatus_clearing n a) = 0 ∧ (s.maCleared n a).fget (f_maCtrl_clear_banks n a) = 0 := by
  simp (disch := simp) [State.maCleared, State.fget_fput_ne, State.fget_fput_same, f_maStatus_clearing, f_maCtrl_clear_banks, f_maStatus_current_tag,
    f_maStatus_bank0_format, f_maStatus_bank1_format]

theorem State.array_maCleared (s : State) (n a : Nat) : (s.maCleared n a).array n a =
    { ArrRt.reset with profiles := (s.array n a).profiles, tables := (s.array n a).tables } := by
  simp [State.maCleared]

/-- A scrub that starts leaves every byte of the scratchpad zero and every other as it was (R183). -/
theorem State.spScrub_of_halted (s : State) {n : Nat} (h : s.halted n = true) (hc : (s.core n).scrubbing = false) :
    (∀ o, o < 0xA00000 → (s.spScrub n).byte (spAddr n o) = 0) ∧
      (∀ a, a < spAddr n 0 ∨ spAddr n 0xA00000 ≤ a → (s.spScrub n).byte a = s.byte a) ∧
      ((s.spScrub n).core n).scrubbing = true ∧ (s.spScrub n).fget (f_spScrub_start n) = 1 := by
  have heq : s.spScrub n = (((s.clearRange (spAddr n 0) spBytes).fput (f_spScrub_start n) 1).setCore n
      { s.core n with scrubbing := true, writebacks := [], hist := [] }) := by
    simp only [State.spScrub, h, hc, Bool.not_true, Bool.false_eq_true, if_false]
    rfl
  rw [heq]
  refine ⟨fun o ho => ?_, fun a ha => ?_, by simp, ?_⟩
  · rw [State.byte_setCore, State.byte_fput, State.byte_clearRange, if_pos (by simp [spAddr, spBytes]; omega)]
  · rw [State.byte_setCore, State.byte_fput, State.byte_clearRange, if_neg (by simp [spAddr, spBytes] at *; omega)]
  · rw [State.fget_setCore, State.fget_fput_same _ _ _ (Nat.le_refl _) (by simp [f_spScrub_start])]
    rfl

/-- A scrub of the horizon buffer that starts leaves every byte of it zero and every other as it was (R196). -/
theorem State.hbScrub_of_idle (s : State) (h : s.fbit f_hbScrub_start = false) :
    (∀ o, o < 0x1000000 → s.hbScrub.byte (hbAddr o) = 0) ∧
      (∀ a, a < hbAddr 0 ∨ hbAddr 0x1000000 ≤ a → s.hbScrub.byte a = s.byte a) ∧ s.hbScrub.fget f_hbScrub_start = 1 := by
  simp only [State.hbScrub, h, Bool.false_eq_true, if_false]
  refine ⟨fun o ho => ?_, fun a ha => ?_, ?_⟩
  · rw [State.byte_fput, State.byte_clearRange, if_pos (by simp [hbAddr, hbBytes]; omega)]
  · rw [State.byte_fput, State.byte_clearRange, if_neg (by simp [hbAddr, hbBytes] at *; omega)]
  · exact State.fget_fput_same _ _ _ (by decide) (by decide)

/-- Settles O22: a bank clear and both scrubs start, are refused and end as R66, R183, R196 and R565 say. -/
theorem clearsAndScrubs : Obligations.ClearsAndScrubs := by
  unfold Obligations.ClearsAndScrubs
  refine ⟨fun s n a => ⟨fun h => ?_, fun h => ?_, fun h hs => ?_, fun h => ?_⟩,
    fun s n => ⟨fun h hc => ?_, fun h hc => ?_, fun h => ?_, fun h hs => ?_, fun h => ?_, fun h => ?_, fun h => ?_, fun h hs => ?_, fun h => ?_⟩⟩
  · exact ⟨_, rfl, s.maClear_of_idle h⟩
  · refine ⟨_, rfl, ?_⟩
    rw [State.maClear, h, if_pos rfl]
    exact s.fbit_raise _ rfl (by simp [f_maEvent_clear_refused]) (by simp [f_maEvent_clear_refused, sedRegs]; omega)
  · refine ⟨s.maCleared n.val a.val, ?_, s.array_maCleared _ _, (s.maCleared_fields _ _).1, (s.maCleared_fields _ _).2,
      by simp [State.maCleared], by simp [State.maCleared], by simp [State.maCleared]⟩
    simp only [exec_maClearDone, execMaClearDone, h, hs, Bool.not_false, Bool.and_self, if_true]
  · refine congrArg _ (if_neg ?_)
    rcases h with h | h <;> simp [h]
  · exact ⟨_, rfl, s.spScrub_of_halted h hc⟩
  · simp only [exec_spScrubStart, execSpScrubStart, State.spScrub, h, hc, Bool.not_true, Bool.false_eq_true, if_false, if_true]
  · refine ⟨_, rfl, ?_⟩
    simp only [State.spScrub, h, Bool.not_false, if_true]
    exact ⟨s.fbit_raise _ rfl (by simp [f_spEvent_scrub_refused]) (by simp [f_spEvent_scrub_refused, sedRegs]; omega),
      State.raise_mem _ _⟩
  · refine ⟨s.spScrubbed n.val, ?_, (s.fput (f_spScrub_start n.val) 0).setCore n.val { s.core n.val with scrubbing := false },
      ?_, by simp, ?_, fun o ho => s.rd_fput_ne _ ho, rfl⟩
    · simp only [exec_spScrubDone, execSpScrubDone, h, hs, Bool.not_false, Bool.and_self, if_true]
    · simp only [State.spScrubbed, State.core_fput]
    · exact State.fget_fput_same _ _ _ (Nat.le_refl _) (by simp [f_spScrub_start])
  · refine congrArg _ (if_neg ?_)
    rcases h with h | h <;> simp [h]
  · exact ⟨_, rfl, s.hbScrub_of_idle h⟩
  · simp only [exec_hbScrubStart, execHbScrubStart, State.hbScrub, h, if_true]
  · refine ⟨s.hbScrubbed, ?_, s.fput f_hbScrub_start 0, ?_, ?_, (RegsOnly.refl s _).fput (by simp) _⟩
    · simp only [exec_hbScrubDone, execHbScrubDone, hs, Bool.false_eq_true, if_false]
    · simp only [State.hbScrubbed, h, if_true]
    · exact State.fget_fput_same _ _ _ (by decide) (by decide)
  · simp only [exec_hbScrubDone, execHbScrubDone, State.hbScrubbed]
    rcases h with h | h <;> simp [h]

end Sys2Proof.Machine

/-! ## The tilth log, the armed injection and the grit key (O23) -/

namespace Sys2Proof.Machine

/-- The log's clear zeroes the status word and the 128 words of the sixteen records (R167). -/
theorem State.tgClear_eq (s : State) (n : Nat) :
    s.tgClear n = ((s.setCore n { s.core n with tgCycles := [] }).wr (f_tgStatus_records n).off 0).zeroWords
      (0x100000 * n + 0x10100) 128 := rfl

theorem State.rd_tgClear_records (s : State) (n : Nat) : (s.tgClear n).rd (f_tgStatus_records n).off = 0 := by
  rw [State.tgClear_eq, State.rd_zeroWords_ne _ _ _ (fun i _ => by simp only [f_tgStatus_records]; omega), State.rd_wr_same]

theorem State.rd_tgClear_log (s : State) (n : Nat) (i : Fin 128) : (s.tgClear n).rd (f_tgLog_word n i.val).off = 0 := by
  rw [State.tgClear_eq]
  exact State.rd_zeroWords _ _ _ i.isLt

theorem State.zeroWords_eq (s : State) (a k : Nat) : s.zeroWords a k = { s with regs := (s.zeroWords a k).regs } := by
  induction k with
  | zero => rfl
  | succ k ih =>
    rw [State.zeroWords_succ, ih]
    rfl

/-- Beyond registers a log clear changes the core's record of the logged cycles alone. -/
theorem State.tgClear_cores (s : State) (n : Nat) :
    (s.tgClear n).cores = (s.setCore n { s.core n with tgCycles := [] }).cores := by
  rw [State.tgClear_eq, State.zeroWords_eq]
  rfl

theorem State.tgClear_regs_cores (s : State) (n : Nat) :
    s.tgClear n = { s with regs := (s.tgClear n).regs, cores := (s.tgClear n).cores } := by
  rw [State.tgClear_eq]
  exact State.zeroWords_coresRegs ((CoresRegs.refl s).setCore n _ |>.wr _ _) _ _

theorem State.core_tgClear (s : State) (n m : Nat) :
    (s.tgClear n).core m = (s.setCore n { s.core n with tgCycles := [] }).core m := by
  rw [State.core, State.tgClear_cores]
  rfl

/-- A write of one word of the key while the core is halted (R298). -/
theorem State.seedWrite_of_halted (s : State) {n : Nat} (m : Nat) (v : Word) (h : s.halted n = true) :
    s.seedWrite n m v = (s.setCore n { s.core n with
        gritKey := BitVec.ofNat 128 (setBits (s.core n).gritKey.toNat (32 * m + 31) (32 * m) v.toNat),
        gritSeen := (s.core n).gritSeen ||| 2 ^ m }).fput (f_grStatus_seed_loaded n)
          (b2n ((s.core n).gritSeen ||| 2 ^ m == 15)) := by
  simp only [State.seedWrite, h, Bool.not_true, Bool.false_eq_true, if_false]

/-- The key with one of its four words replaced is a number of 128 bits. -/
theorem setKeyWord_lt (key : BitVec 128) (m : Fin 4) (v : Word) :
    setBits key.toNat (32 * m.val + 31) (32 * m.val) v.toNat < 2 ^ 128 :=
  setBits_lt _ _ (by omega) (by omega) key.isLt

theorem keyWord_setKeyWord_same (key : BitVec 128) (m : Fin 4) (v : Word) :
    bits (BitVec.ofNat 128 (setBits key.toNat (32 * m.val + 31) (32 * m.val) v.toNat)).toNat (32 * m.val + 31) (32 * m.val) =
      v.toNat := by
  rw [BitVec.toNat_ofNat, Nat.mod_eq_of_lt (setKeyWord_lt key m v), bits_setBits_same _ _ (by omega),
    show 32 * m.val + 31 + 1 - 32 * m.val = 32 by omega]
  exact Nat.mod_eq_of_lt v.isLt

theorem keyWord_setKeyWord_ne (key : BitVec 128) {m k : Fin 4} (hk : k ≠ m) (v : Word) :
    bits (BitVec.ofNat 128 (setBits key.toNat (32 * m.val + 31) (32 * m.val) v.toNat)).toNat (32 * k.val + 31) (32 * k.val) =
      bits key.toNat (32 * k.val + 31) (32 * k.val) := by
  rw [BitVec.toNat_ofNat, Nat.mod_eq_of_lt (setKeyWord_lt key m v)]
  rcases Nat.lt_or_gt_of_ne (Fin.val_ne_of_ne hk) with h | h
  · exact bits_setBits_below _ _ (by omega) (by omega) (by omega)
  · exact bits_setBits_above _ _ (by omega) (by omega)

/-- The key reads loaded exactly when its four words have been written. -/
theorem State.seedLoaded_fput (s : State) (n : Nat) (b : Bool) :
    (s.fput (f_grStatus_seed_loaded n) (b2n b)).fget (f_grStatus_seed_loaded n) = 1 ↔ b = true := by
  rw [State.fget_fput_same _ _ _ (Nat.le_refl _) (by simp [f_grStatus_seed_loaded])]
  cases b <;> simp [b2n, f_grStatus_seed_loaded]

/-- The arm bit that `v ||| 1` sets stands in the stored word (R189). -/
theorem injectWord_arm (v : Word) : bits ((v ||| 1) &&& 0x01FFFFFF).toNat 0 0 = 1 := by
  simp [bits]

/-- A self-test that passes reports in GR_CTRL and GR_STATUS alone (R296, R297). -/
theorem State.selfTest_of_pass (s : State) {n : Nat} (h : s.halted n = true) :
    s.selfTest n true = ((s.fput (f_grCtrl_self_test n) 0).fput (f_grStatus_self_test_pass n) 1).fput (f_grStatus_self_test_fail n) 0 := by
  simp [State.selfTest, h, b2n]

/-- Settles O23: the log's clear, the armed injection, the grit key word by word, and the self-test. -/
theorem logInjectAndGritKey : Obligations.LogInjectAndGritKey := by
  unfold Obligations.LogInjectAndGritKey
  refine ⟨fun s n v => ⟨?_, ?_⟩, fun s n m v pass => ⟨?_, fun h => ⟨?_, ?_, ?_⟩, fun h => ?_⟩⟩
  · refine ⟨_, rfl, s.rd_tgClear_records _, s.rd_tgClear_log _, ?_, fun m hm => ?_, s.tgClear_regs_cores _⟩
    · rw [State.core_tgClear, State.core_setCore_same]
    · rw [State.core_tgClear, State.core_setCore_ne _ _ hm]
  · refine ⟨_, rfl, ?_, State.rd_wr_same _ _ _, .of_wr s (by simp) _⟩
    rw [State.fget, State.rd_wr_same]
    exact injectWord_arm v
  · refine ⟨_, rfl, ?_, State.fget_fput_same _ _ _ (Nat.le_refl _) (by simp [f_grStatus_seed_loaded]), ?_, rfl, rfl⟩ <;>
      simp [State.seedClear]
  · refine ⟨_, rfl, ?_, fun k hk => ?_, ?_⟩
    · rw [s.seedWrite_of_halted _ _ h, State.core_fput, State.core_setCore_same]
      exact keyWord_setKeyWord_same _ _ _
    · rw [s.seedWrite_of_halted _ _ h, State.core_fput, State.core_setCore_same]
      exact keyWord_setKeyWord_ne _ hk _
    · rw [s.seedWrite_of_halted _ _ h, State.seedLoaded_fput, beq_iff_eq]
  · refine ⟨_, rfl, ?_, ?_, ?_, ?_⟩
    · rw [s.selfTest_of_pass h]
      simp (disch := simp) [State.fget_fput_ne, State.fget_fput_same, f_grCtrl_self_test, f_grStatus_self_test_pass, f_grStatus_self_test_fail]
    · rw [s.selfTest_of_pass h]
      simp (disch := simp) [State.fget_fput_ne, State.fget_fput_same, f_grCtrl_self_test, f_grStatus_self_test_pass, f_grStatus_self_test_fail]
    · rw [s.selfTest_of_pass h]
      exact State.fget_fput_same _ _ _ (Nat.le_refl _) (by simp [f_grStatus_self_test_fail])
    · rw [s.selfTest_of_pass h]
      exact (((RegsOnly.refl s _).fput (by simp) _).fput (by simp) _).fput (by simp [f_grStatus_self_test_fail, f_grStatus_self_test_pass]) _
  · simp [exec_selfTest, execSelfTest, State.selfTest, h, b2n]
  · simp [exec_grSeedWrite, execGrSeedWrite, exec_selfTest, execSelfTest, State.seedWrite, State.selfTest, h]

end Sys2Proof.Machine

/-! ## Transfers, streamed passes and write-backs end (O24) -/

namespace Sys2Proof.Machine

/-- Marking transfers that start keeps their serial numbers. -/
theorem serials_startable (l : List Transfer) (i k : Nat) : (startable l i k).map (·.serial) = l.map (·.serial) := by
  induction l generalizing i k with
  | nil => rfl
  | cons t l ih =>
    rw [startable]
    split
    · rw [List.map_cons, ih, List.map_cons]
    · split
      · rw [List.map_cons, ih, List.map_cons]
      · rfl

/-- Starting transfers changes the queue of its core alone. -/
theorem State.queue_startTransfers (s : State) (n : Nat) :
    ((s.startTransfers n).core n).queue = startable (s.core n).queue 0 0 := by
  simp [State.startTransfers]

/-- A transfer of a core that has not failed leaves the queue, adds its increment, and starts what follows (R205). -/
theorem State.retire_of_done (s : State) {n : Nat} {t : Transfer} {o : Nat} {inc : Word} (hc : s.coreFailed n = false)
    (hd : t.done = some (o, inc)) : s.retire n t =
      ((s.setCore n { s.core n with queue := (s.core n).queue.filter fun x => x.serial != t.serial }).signalObj o inc).startTransfers n := by
  have hc' : (s.setCore n { s.core n with queue := (s.core n).queue.filter fun x => x.serial != t.serial }).coreFailed n = false := hc
  simp only [State.retire, State.landNow, hd, hc', Bool.false_eq_true, if_false]

/-- No transfer of a retired transfer's serial number is left in its queue. -/
theorem State.retire_queue (s : State) {n : Nat} {t : Transfer} {o : Nat} {inc : Word} (hc : s.coreFailed n = false)
    (hd : t.done = some (o, inc)) : ∀ x ∈ ((s.retire n t).core n).queue, x.serial ≠ t.serial := by
  intro x hx
  rw [s.retire_of_done hc hd, State.queue_startTransfers, State.core_signalObj, State.core_setCore_same] at hx
  have hmem := List.mem_map_of_mem (f := fun x : Transfer => x.serial) hx
  rw [serials_startable] at hmem
  obtain ⟨y, hy, hyx⟩ := List.mem_map.mp hmem
  have hne := (List.mem_filter.mp hy).2
  rw [← hyx]
  simpa using hne

/-- A write-back changes memory and its check bits alone. -/
theorem State.writeBack_eq (s : State) (a : Nat) (r : LineRead) :
    s.writeBack a r = { s with mem := (s.writeBack a r).mem, ecc := (s.writeBack a r).ecc } := by
  rw [State.writeBack]
  generalize r.corrected = l
  induction l generalizing s with
  | nil => rfl
  | cons p l ih =>
    rw [List.foldl_cons, ih, State.setBytes_eq]
    rfl

/-- A corrected line that is written back leaves the list of those that wait (R181). -/
theorem State.asyncWriteBack_fields (s : State) (n line : Nat) :
    (s.asyncWriteBack n line).mem = (s.writeBack (spAddr n (64 * line)) (s.readLine (spAddr n (64 * line)))).mem ∧
      ((s.asyncWriteBack n line).core n).writebacks = (s.core n).writebacks.filter (· != line) ∧
      (s.asyncWriteBack n line).regs = s.regs ∧ (s.asyncWriteBack n line).sync = s.sync := by
  have hw := s.writeBack_eq (spAddr n (64 * line)) (s.readLine (spAddr n (64 * line)))
  have hcore : (s.writeBack (spAddr n (64 * line)) (s.readLine (spAddr n (64 * line)))).core n = s.core n := by
    rw [hw]
    rfl
  refine ⟨rfl, ?_, ?_, ?_⟩
  · rw [State.asyncWriteBack, State.core_setCore_same, hcore]
  · rw [State.asyncWriteBack, hw]
    rfl
  · rw [State.asyncWriteBack, hw]
    rfl

/-- Settles O24: each event is the end its row names, and a retired transfer signals. -/
theorem asynchronousEnds : Obligations.AsynchronousEnds := by
  unfold Obligations.AsynchronousEnds
  refine ⟨fun s n => ⟨fun idx data runs cause => ⟨fun h => ?_, fun t h hr => ?_, fun t h hr => ⟨fun r hm => ?_, fun r c hm => ?_, fun r c hm => ?_⟩⟩,
    fun a cycles dry backup => ⟨fun h => ?_, fun p fin r b h hs hf hfin hrun => ?_, fun p fin written poisoned r b h hs hfin hp hrun => ?_⟩,
    fun line h hs => ⟨_, ?_, s.asyncWriteBack_fields n.val line⟩, fun line h => ?_⟩, fun s n t o inc hc hd => ?_⟩
  · simp only [exec_transferComplete, execTransferComplete, exec_transferFailed, execTransferFailed, h, and_self]
  · simp only [exec_transferComplete, execTransferComplete, exec_transferFailed, execTransferFailed, h, hr, if_true, and_self]
  · simp only [exec_transferComplete, execTransferComplete, h, hr, hm, Bool.false_eq_true, if_false]
  · simp only [exec_transferComplete, execTransferComplete, h, hr, hm, Bool.false_eq_true, if_false]
  · simp only [exec_transferFailed, execTransferFailed, h, hr, hm, Bool.false_eq_true, if_false]
  · simp only [exec_streamedPassComplete, execStreamedPassComplete, exec_streamAbandoned, execStreamAbandoned, h, implies_true, and_self]
  · subst hfin
    simp only [exec_streamedPassComplete, execStreamedPassComplete, h, hs, hf, hrun, Bool.or_self, Bool.false_eq_true, if_false]
  · subst hfin
    simp only [exec_streamAbandoned, execStreamAbandoned, h, hs, hrun, Bool.false_or]
    rw [if_neg]
    rcases hp with hp | hp
    · simp [hp]
    · simp [Nat.not_lt.mpr hp]
  · simp only [exec_spAsyncWriteback, execSpAsyncWriteback, h, hs, Bool.not_false, Bool.and_self, if_true]
  · simp only [exec_spAsyncWriteback, execSpAsyncWriteback, h, Bool.false_and, Bool.false_eq_true, if_false]
  · refine ⟨?_, fun p hp => ?_, s.retire_queue hc hd, ?_⟩ <;> rw [s.retire_of_done hc hd]
    · simp [State.startTransfers, State.signalObj]
    · simp [State.startTransfers, State.signalObj, State.obj_setObject_ne _ _ hp]
    · simp [State.startTransfers, State.signalObj]

end Sys2Proof.Machine

/-! ## SECDED (O25, R181, R652) -/

namespace Sys2Proof.Machine

/-- The column of stored bit `i` in the syndrome's low seven bits; none for the parity bit. -/
def eccColumn (i : Nat) : Nat := if i < 64 then eccColumns.getD i 0 else if i < 71 then 2 ^ (i - 64) else 0

/-- The 72 columns differ from each other and fit seven bits. -/
theorem eccColumn_ne_lt : ((List.range 72).map eccColumn).Nodup ∧ ∀ i : Fin 72, eccColumn i.val < 128 := by decide +kernel

theorem eccColumn_lt {i : Nat} (h : i < 72) : eccColumn i < 128 := eccColumn_ne_lt.2 ⟨i, h⟩

theorem eccColumn_ne {i j : Nat} (hij : i < j) (hj : j < 72) : eccColumn i ≠ eccColumn j := fun h =>
  absurd (List.inj_on_of_nodup_map eccColumn_ne_lt.1 (List.mem_range.mpr (hij.trans hj)) (List.mem_range.mpr hj) h) hij.ne

theorem bit_eq_testBit (x i : Nat) : bit x i = x.testBit i := by
  rw [Nat.testBit_eq_decide_div_mod_eq, bit]
  rfl

/-- The bits of a sum of two powers of two. -/
theorem bit_two_powers {i j : Nat} (hij : i < j) (k : Nat) : bit (2 ^ i + 2 ^ j) k = (k == i || k == j) := by
  have hor : 2 ^ i + 2 ^ j = 2 ^ j ||| 2 ^ i := by
    have h := Nat.two_pow_add_eq_or_of_lt (Nat.pow_lt_pow_right (by decide : 1 < 2) hij) 1
    rw [Nat.mul_one] at h
    rw [Nat.add_comm, h]
  rw [bit_eq_testBit, hor, Nat.testBit_or, Nat.testBit_two_pow, Nat.testBit_two_pow, Bool.or_comm]
  grind

/-- The two places of a range, picked out in order. -/
theorem filter_range_pair {i j n : Nat} (hij : i < j) (hj : j < n) :
    (List.range n).filter (fun k => k == i || k == j) = [i, j] := by
  refine List.Pairwise.eq_of_mem_iff (r := (· < ·)) (List.pairwise_lt_range.filter _) (by simpa using hij) fun k => ?_
  simp only [List.mem_filter, List.mem_range, List.mem_cons, List.not_mem_nil, or_false, Bool.or_eq_true, beq_iff_eq]
  omega

/-- The syndrome of two inverted bits is the sum of their columns, with even parity. -/
theorem eccSyndrome_pair {i j : Nat} (hij : i < j) (hj : j < 72) :
    eccSyndrome (BitVec.ofNat 72 (2 ^ i + 2 ^ j)) = eccColumn i ^^^ eccColumn j := by
  have hlt : 2 ^ i + 2 ^ j < 2 ^ 72 := by
    have h1 := Nat.pow_lt_pow_right (by decide : 1 < 2) hij
    have h2 := Nat.pow_le_pow_right (by decide : 0 < 2) (Nat.succ_le_of_lt hj)
    rw [Nat.pow_succ] at h2
    omega
  rw [eccSyndrome, BitVec.toNat_ofNat, Nat.mod_eq_of_lt hlt]
  simp only [bit_two_powers hij, filter_range_pair hij hj]
  simp [eccColumn]

/-- Two inverted bits are uncorrectable: even parity with a syndrome that is not zero. -/
theorem eccMeaning_pair {i j : Nat} (hij : i < j) (hj : j < 72) :
    eccMeaning (eccSyndrome (BitVec.ofNat 72 (2 ^ i + 2 ^ j))) = .uncorrectable := by
  have hlt : eccColumn i ^^^ eccColumn j < 2 ^ 7 := Nat.xor_lt_two_pow (eccColumn_lt (hij.trans hj)) (eccColumn_lt hj)
  have hne : eccColumn i ^^^ eccColumn j ≠ 0 := fun h => eccColumn_ne hij hj (Nat.xor_eq_zero_iff.mp h)
  rw [eccSyndrome_pair hij hj, eccMeaning]
  simp only [if_neg hne, if_neg (show ¬eccColumn i ^^^ eccColumn j = 0x80 by omega), if_pos (show eccColumn i ^^^ eccColumn j < 128 from hlt)]

/-- One inverted bit is corrected: a data bit by its place, a check bit by none. -/
theorem eccMeaning_single : ∀ i : Fin 72, eccMeaning (eccSyndrome (BitVec.ofNat 72 (2 ^ i.val))) =
    .corrected (if i.val < 64 then some i.val else none) := by decide +kernel

/-! A line in which each word has at most one inverted bit. -/

theorem leBytes_leNat (d : List Byte) : leBytes d.length (leNat d) = d := by
  induction d with
  | nil => rfl
  | cons b t ih =>
    have hb := b.isLt
    rw [List.length_cons, leBytes, leNat, show (b.toNat + 256 * leNat t) / 256 = leNat t by omega, ih]
    refine congrArg (· :: t) (BitVec.eq_of_toNat_eq ?_)
    rw [BitVec.toNat_ofNat]
    omega

/-- Inverting no data bit leaves a word's eight bytes. -/
theorem flipWord_of_mod_zero {d : List Byte} (hd : d.length = 8) {m : Nat} (hm : m % 2 ^ 64 = 0) : flipWord d m = d := by
  rw [flipWord, hm, Nat.xor_zero, ← hd, leBytes_leNat]

/-- Words that each deliver their own bytes and report nothing uncorrectable deliver theirs in order. -/
theorem foldl_words {f : LineRead → Nat → LineRead} {d : Nat → List Byte} (l : List Nat)
    (h : ∀ r, ∀ w ∈ l, (f r w).data = r.data ++ d w ∧ (f r w).bad = r.bad) (r : LineRead) :
    (l.foldl f r).data = r.data ++ l.flatMap d ∧ (l.foldl f r).bad = r.bad := by
  induction l generalizing r with
  | nil => simp
  | cons w l ih =>
    obtain ⟨hdata, hbad⟩ := ih (fun r w hw => h r w (List.mem_cons_of_mem _ hw)) (f r w)
    obtain ⟨hd, hb⟩ := h r w List.mem_cons_self
    rw [List.foldl_cons, hdata, hbad, hd, hb, List.flatMap_cons, List.append_assoc]
    exact ⟨rfl, rfl⟩

/-- A word with at most one inverted bit is delivered as it was written. -/
theorem lineRead_of_single {data : Nat → List Byte} {flips : Nat → BitVec 72} (hlen : ∀ w, (data w).length = 8)
    (h : ∀ w < 8, flips w = 0 ∨ ∃ i : Fin 72, flips w = BitVec.ofNat 72 (2 ^ i.val)) :
    (lineRead data flips).data = (List.range 8).flatMap data ∧ (lineRead data flips).bad = [] := by
  refine foldl_words _ (fun r w hw => ?_) _
  dsimp only
  rcases h w (List.mem_range.mp hw) with hw0 | ⟨i, hi⟩
  · rw [if_pos hw0]
    exact ⟨rfl, rfl⟩
  · have hne : flips w ≠ 0 := by
      rw [hi]
      exact (by decide : ∀ i : Fin 72, BitVec.ofNat 72 (2 ^ i.val) ≠ 0) i
    rw [if_neg hne, hi, eccMeaning_single i]
    have hpow : (BitVec.ofNat 72 (2 ^ i.val)).toNat = 2 ^ i.val := by
      rw [BitVec.toNat_ofNat, Nat.mod_eq_of_lt (Nat.pow_lt_pow_right (by decide) i.isLt)]
    refine ⟨congrArg _ (flipWord_of_mod_zero (hlen w) ?_), rfl⟩
    rw [hpow]
    by_cases hlt : i.val < 64
    · simp [hlt]
    · simp only [hlt, if_false, Nat.xor_zero]
      exact Nat.mod_eq_zero_of_dvd (Nat.pow_dvd_pow 2 (Nat.le_of_not_lt hlt))

/-- Eight words in a row are the line. -/
theorem State.bytes_words (s : State) (a : Nat) : (List.range 8).flatMap (fun w => s.bytes (a + 8 * w) 8) = s.bytes a 64 := by
  simp [State.bytes, List.range_succ, Nat.add_assoc]

/-- Settles O25: single errors by evaluation over the 72 bits, double errors by the columns being distinct. -/
theorem secdedCorrectsSingleErrors : Obligations.SecdedCorrectsSingleErrors := by
  unfold Obligations.SecdedCorrectsSingleErrors
  refine ⟨fun s a _ h => ?_, fun i => ⟨_, eccMeaning_single i, fun h => if_pos h, fun h => if_neg (by omega)⟩,
    fun i j hij => eccMeaning_pair hij j.isLt, by decide +kernel⟩
  obtain ⟨hdata, hbad⟩ := lineRead_of_single (data := fun w => s.bytes (a + 8 * w) 8) (flips := fun w => s.eccAt (a + 8 * w))
    (fun w => by simp [State.bytes]) (fun w hw => h ⟨w, hw⟩)
  exact ⟨hdata.trans (s.bytes_words a), hbad⟩

end Sys2Proof.Machine

/-! ## Frames that arrive, and the words of a link (O27, R319 to R325, R336 to R338) -/

namespace Sys2Proof.Machine

@[simp] theorem State.port_setPort_same (s : State) (p : Nat) (x : PortRt) : (s.setPort p x).port p = x := by
  by_cases h : p = 0 <;> simp [State.port, State.setPort, h]

/-- A frame of a row is one the row takes: of its type, or of a type that no row defines. -/
theorem rowFrame_of_ofRow {kind : Nat} {phase : Option (Nat × Nat)} {rx : RingRx} (h : ofRow kind phase rx.frame) :
    rowFrame rx kind = true := by
  rcases h with ⟨hk, -⟩ | ⟨h1, h2, h8⟩
  · simp [rowFrame, hk]
  · simp [rowFrame, h1, h2, Nat.not_le.mpr h8]

theorem State.rowReceive_of_ofRow (s : State) {kind : Nat} {phase : Option (Nat × Nat)} {rx : RingRx}
    (h : ofRow kind phase rx.frame) : s.rowReceive rx kind = s.receive rx := by
  rw [State.rowReceive, rowFrame_of_ofRow h, if_pos rfl]

/-- A row of one phase of its type takes the frames of that phase, and those whose phase is not yet open to it. -/
theorem State.phaseReceive_of_ofRow (s : State) {kind hi phase : Nat} {rx : RingRx} (hkind : 8 ≤ kind)
    (h : ofRow kind (some (hi, phase)) rx.frame) : s.phaseReceive rx kind hi phase = s.receive rx := by
  rw [State.phaseReceive, if_neg, s.rowReceive_of_ofRow h]
  simp only [Bool.and_eq_true, beq_iff_eq, bne_iff_ne, Option.isNone_iff_eq_none, not_and]
  rintro ⟨hk, hext⟩
  rcases h with ⟨-, hp⟩ | ⟨-, -, h8⟩
  · simp [hp _ rfl hext]
  · omega

/-- Every row hands its frames to the link layer. -/
theorem exec_frameRow {r : Nat × Option (Nat × Nat) × (RingRx → Instr)} (hr : r ∈ frameRows) (s : State) {rx : RingRx}
    (h : ofRow r.1 r.2.1 rx.frame) : exec (r.2.2 rx) s = .next (s.receive rx) := by
  simp only [frameRows, List.mem_cons, List.not_mem_nil, or_false] at hr
  rcases hr with rfl | rfl | rfl | rfl | rfl | rfl | rfl | rfl | rfl | rfl | rfl | rfl
  case inr.inr.inr.inr.inr.inr.inl => exact congrArg _ (s.phaseReceive_of_ofRow (by decide) h)
  case inr.inr.inr.inr.inr.inr.inr.inl => exact congrArg _ (s.phaseReceive_of_ofRow (by decide) h)
  case inr.inr.inr.inr.inr.inr.inr.inr.inl => exact congrArg _ (s.phaseReceive_of_ofRow (by decide) h)
  case inr.inr.inr.inr.inr.inr.inr.inr.inr.inl => exact congrArg _ (s.phaseReceive_of_ofRow (by decide) h)
  all_goals exact congrArg _ (s.rowReceive_of_ofRow h)

/-- What `receive` tests before it takes a frame is that the port hears it. -/
theorem State.hears_iff (s : State) (rx : RingRx) : s.hears rx ↔
    (!(s.portState rx.port.val == 2 || s.portState rx.port.val == 3 || (s.portState rx.port.val == 1 && frKind rx.frame == 14)) ||
      s.rxHeld rx.frame) = false := by
  rw [Bool.or_eq_false_iff, Bool.not_eq_false', State.hears]
  simp only [Bool.or_eq_true, Bool.and_eq_true, beq_iff_eq, or_assoc]

theorem State.receive_of_not_hears (s : State) {rx : RingRx} (h : ¬ s.hears rx) : s.receive rx = s := by
  rw [State.hears_iff, Bool.not_eq_false] at h
  exact if_pos h

theorem State.receive_of_discarding (s : State) {rx : RingRx} (h : s.hears rx) (hd : (s.port rx.port.val).discarding = true)
    (hr : rx.resend = false) : s.receive rx = s := by
  rw [State.hears_iff] at h
  simp only [State.receive, h, hd, hr, Bool.false_eq_true, if_false, Bool.not_false, Bool.and_self, if_true]

/-- A port that discards takes the resend alone. -/
theorem not_discards {d r : Bool} (h : d = true → r = true) : (d && !r) = false := by
  cases d <;> simp_all

theorem State.receive_of_bad (s : State) {rx : RingRx} (h : s.hears rx)
    (hd : (s.port rx.port.val).discarding = true → rx.resend = true) (hg : rxGood rx = false) : s.receive rx =
      (s.setPort rx.port.val { s.port rx.port.val with discarding := true }).emit (.linkWord rx.port.val [2]) := by
  rw [State.hears_iff] at h
  simp only [State.receive, h, not_discards hd, hg, Bool.false_eq_true, if_false, Bool.not_false, if_true]

theorem State.receive_of_linked (s : State) {rx : RingRx} (h : s.linked rx) :
    s.receive rx = (s.afterLink rx).takeFrame rx.port.val rx.frame := by
  obtain ⟨hh, hd, hg⟩ := h
  rw [State.hears_iff] at hh
  simp only [State.receive, hh, not_discards hd, hg, Bool.false_eq_true, if_false, Bool.not_true, State.afterLink]

/-! The checks of every frame, in their order (R325). -/

theorem State.takeFrame_of_malformed (s : State) (p : Nat) {f : RFrame} (h : malformed f = true) :
    s.takeFrame p f = s.dropMalformed p := by
  rw [State.takeFrame, if_pos h]

theorem State.takeFrame_of_quarantined (s : State) (p : Nat) {f : RFrame} (h : malformed f = false) (hq : s.quarantined = true)
    (hk : frKind f ≠ 12) (hk' : frKind f ≠ 14) :
    s.takeFrame p f = (s.fsat f_ciStaleCount_stale 1).raise f_ciEvent_stale_dropped := by
  simp only [State.takeFrame, h, hq, hk, hk', Bool.false_eq_true, if_false, ne_eq, not_false_eq_true, and_self, if_true]

/-- Quarantine passes a frame where it passes enumerations and greetings. -/
theorem not_quarantined_of {q : Bool} {k : Nat} (h : q = true → k = 12 ∨ k = 14) : ¬(q = true ∧ k ≠ 12 ∧ k ≠ 14) :=
  fun ⟨hq, h12, h14⟩ => (h hq).elim h12 h14

theorem State.takeFrame_of_stale (s : State) (p : Nat) {f : RFrame} (h : malformed f = false)
    (hq : s.quarantined = true → frKind f = 12 ∨ frKind f = 14) (he : s.epochOk p f = false) :
    s.takeFrame p f = s.staleFrame p f := by
  simp only [State.takeFrame, h, Bool.false_eq_true, if_false, if_neg (not_quarantined_of hq), he, Bool.not_false, if_true]

/-! Link words. -/

/-- Frames put on the wire are sent in their order. -/
theorem State.out_wireAll (s : State) (p : Nat) (l : List RFrame) :
    (l.foldl (fun s f => s.wire p f) s).out = s.out ++ l.map fun f => .frame p f (frameCrc f) := by
  induction l generalizing s with
  | nil => simp
  | cons f l ih =>
    rw [List.foldl_cons, ih]
    simp [State.wire, State.emit]

theorem exec_replayRequest_of_live (s : State) {p : Fin 2} (h : s.portLive p.val = true) (hs : s.stopped 4 = false) :
    exec (.replayRequest p) s = .next ((s.replayFrames p.val).foldl (fun s f => s.wire p.val f)
      ((s.fsat (if p.val = 0 then f_ciCounts_replay_n else f_ciCounts_replay_s) 1).report 7 p.val 0x0006 1)) := by
  simp only [exec_replayRequest, execReplayRequest, h, hs, Bool.not_true, Bool.or_self, Bool.false_eq_true, if_false]

/-- Settles O27: the link layer's three answers to a frame, the checks behind it, and the words of the other end. -/
theorem linkLayer : Obligations.LinkLayer := by
  unfold Obligations.LinkLayer
  refine ⟨fun r hr s rx hrow => ?_, fun s p f => ⟨fun h => s.takeFrame_of_malformed _ h,
    fun h hq hk hk' => s.takeFrame_of_quarantined _ h hq hk hk', fun h hq he => s.takeFrame_of_stale _ h hq he⟩,
    fun s p k => ⟨rfl, rfl, rfl, fun h hs => exec_replayRequest_of_live s h hs, fun h hs => ?_, fun h => ?_⟩⟩
  · have hexec := exec_frameRow hr s hrow
    refine ⟨fun h => ?_, fun h hd hres => ?_, fun h hd hg => ⟨_, hexec, ?_⟩, fun h => ?_⟩
    · rw [hexec, s.receive_of_not_hears h]
    · rw [hexec, s.receive_of_discarding h hd hres]
    · rw [s.receive_of_bad h hd hg]
      exact ⟨congrArg PortRt.discarding (s.port_setPort_same _ _), rfl, rfl⟩
    · rw [hexec, s.receive_of_linked h]
  · exact ⟨_, exec_replayRequest_of_live s h hs, _, State.out_wireAll _ _ _⟩
  · refine (if_pos ?_ : _)
    rcases h with h | h <;> simp [h]

end Sys2Proof.Machine

/-! ## What an event for the driver changes (R488 to R490, R502)

The event ring's entries go to LPDDR; the ring pages and the MSI-X tables of BAR4 stand at 0x400_0000 and above. -/

namespace Sys2Proof.Machine

/-- `t` differs from `s` in memory, the host's rings, what was sent, and the registers of BAR4 at most. -/
structure EventsOnly (s t : State) : Prop where
  eq : t = { s with mem := t.mem, lineTag := t.lineTag, ecc := t.ecc, regs := t.regs, host := t.host, out := t.out }
  rd : ∀ o, o < 0x4000000 → t.rd o = s.rd o

namespace EventsOnly

theorem refl (s : State) : EventsOnly s s := ⟨rfl, fun _ _ => rfl⟩

theorem trans {s t u : State} (h : EventsOnly s t) (h' : EventsOnly t u) : EventsOnly s u :=
  ⟨by rw [h'.eq, h.eq], fun o ho => (h'.rd o ho).trans (h.rd o ho)⟩

theorem ite {s t u : State} {c : Prop} [Decidable c] (ht : EventsOnly s t) (hu : EventsOnly s u) :
    EventsOnly s (if c then t else u) := by
  split <;> assumption

theorem foldl {α : Type} {s t : State} {f : State → α → State} {l : List α} (h : EventsOnly s t)
    (hf : ∀ u x, EventsOnly s u → EventsOnly s (f u x)) : EventsOnly s (l.foldl f t) := by
  induction l generalizing t with
  | nil => exact h
  | cons x l ih => exact ih (hf t x h)

theorem wr {s t : State} (h : EventsOnly s t) {o : Nat} (ho : 0x4000000 ≤ o) (v : Word) : EventsOnly s (t.wr o v) :=
  h.trans ⟨rfl, fun _ hp => t.rd_wr_ne v (by omega)⟩

theorem fput {s t : State} (h : EventsOnly s t) {f : Fld} (ho : 0x4000000 ≤ f.off) (v : Nat) : EventsOnly s (t.fput f v) :=
  h.wr ho _

theorem emit {s t : State} (h : EventsOnly s t) (x : Output) : EventsOnly s (t.emit x) := h.trans ⟨rfl, fun _ _ => rfl⟩

theorem setHost {s t : State} (h : EventsOnly s t) (x : HostRt) : EventsOnly s { t with host := x } := h.trans ⟨rfl, fun _ _ => rfl⟩

theorem setPair {s t : State} (h : EventsOnly s t) (q : Nat) (x : RpRt) : EventsOnly s (t.setPair q x) := h.setHost _

theorem setBytes {s t : State} (h : EventsOnly s t) (a : Nat) (d : List Byte) : EventsOnly s (t.setBytes a d) := by
  refine h.trans ⟨?_, fun o _ => ?_⟩ <;> rw [State.setBytes_eq]
  rfl

theorem lpStoreLine {s t : State} (h : EventsOnly s t) (tag a : Nat) (d : List Byte) : EventsOnly s (t.lpStoreLine tag a d) := by
  unfold State.lpStoreLine
  extract_lets line old s1 s2
  have h2 : EventsOnly s s2 := (ite h (h.setBytes _ _)).trans ⟨rfl, fun _ _ => rfl⟩
  exact (h2.setBytes a d).trans ⟨rfl, fun _ _ => rfl⟩

theorem lpStore {s t : State} (h : EventsOnly s t) (slot a : Nat) (d : List Byte) : EventsOnly s (t.lpStore slot a d) := by
  have hfold : ∀ (l : List (List Byte)) (p : State × Nat), EventsOnly s p.1 →
      EventsOnly s (l.foldl (fun (p : State × Nat) c => (p.1.lpStoreLine (t.keyTag slot) p.2 c, p.2 + 64)) p).1 := by
    intro l
    induction l with
    | nil => exact fun p hp => hp
    | cons c l ih => exact fun p hp => ih _ (hp.lpStoreLine _ _ _)
  exact hfold _ _ (ite h (h.lpStoreLine _ _ _))

theorem msix {s t : State} (h : EventsOnly s t) (v : Nat) : EventsOnly s (t.msix v) := ite (h.wr (by omega) _) (h.emit _)

theorem raiseRing {s t : State} (h : EventsOnly s t) (q : Nat) : EventsOnly s (t.raiseRing q) := (h.setPair _ _).msix _

theorem cqWrite {s t : State} (h : EventsOnly s t) (q : Nat) (d : List Byte) (force : Bool) :
    EventsOnly s (t.cqWrite q d force) := by
  unfold State.cqWrite
  extract_lets n c phase line s1 x k s2 coalesce cnt tm
  have h1 : EventsOnly s s1 := (h.lpStore _ _ _).fput (by simp only [f_rpIndex_cq_tail]; omega) _
  exact ite ((h1.setPair _ _).raiseRing _) (h1.setPair _ _)

theorem eventWrite {s t : State} (h : EventsOnly s t) (type ring : Nat) (payload : List Byte) :
    EventsOnly s (t.eventWrite type ring payload) := (h.cqWrite _ _ _).setHost _

theorem eventOne {s t : State} (h : EventsOnly s t) (type ring : Nat) (payload : List Byte) :
    EventsOnly s (t.eventOne type ring payload) := by
  have hlose : ∀ u, EventsOnly s u → EventsOnly s { u with host := { u.host with evLost := u.host.evLost + 1 } } :=
    fun u hu => hu.setHost _
  unfold State.eventOne
  extract_lets full lose u host s1
  have h1 : EventsOnly s s1 := ite h ((h.eventWrite _ _ _).setHost _)
  exact ite (hlose t h) (ite (hlose s1 h1) (h1.eventWrite _ _ _))

theorem drainEvents {s t : State} (h : EventsOnly s t) : EventsOnly s t.drainEvents := by
  unfold State.drainEvents
  exact ite (h.setHost _) ((h.setHost _).foldl fun _ _ hu => hu.eventOne _ _ _)

theorem event {s t : State} (h : EventsOnly s t) (type ring : Nat) (payload : List Byte) :
    EventsOnly s (t.event type ring payload) := by
  unfold State.event
  exact ite h.drainEvents (h.drainEvents.eventOne _ _ _)

theorem fget {s t : State} (h : EventsOnly s t) {f : Fld} (hf : f.off < 0x4000000) : t.fget f = s.fget f :=
  State.fget_congr (h.rd _ hf)

theorem fbit {s t : State} (h : EventsOnly s t) {f : Fld} (hf : f.off < 0x4000000) : t.fbit f = s.fbit f :=
  State.fbit_congr (h.rd _ hf)

end EventsOnly

/-- An event leaves every register outside BAR4 as it was. -/
theorem State.event_eventsOnly (s : State) (type ring : Nat) (payload : List Byte) : EventsOnly s (s.event type ring payload) :=
  (EventsOnly.refl s).event _ _ _

end Sys2Proof.Machine

/-! ## Accepted frames do what their types say (O26) -/

namespace Sys2Proof.Machine

/-- Opening a frame keeps its type, which stands below the part that is encrypted (R346). -/
theorem frKind_withSecret (f : RFrame) (d : List Byte) : frKind (withSecret f d) = frKind f := by
  rw [withSecret]
  split
  · rfl
  · rw [frKind, frField, BitVec.toNat_ofNat, Nat.mod_eq_of_lt (setBits_lt _ _ (by decide) (by decide) f.hdr.isLt),
      bits_setBits_below _ _ (by decide) (by decide) (by decide)]
    rfl

theorem State.frKind_unseal {s : State} {f g : RFrame} (h : s.unseal f = some g) : frKind g = frKind f := by
  rw [State.unseal] at h
  split at h
  · split at h
    · cases h
    · cases h
      rfl
  · obtain ⟨d, -, rfl⟩ := Option.map_eq_some_iff.mp h
    exact frKind_withSecret f d

/-- The types whose frames go to the device that their header names. -/
def ownKinds : List Nat := [1, 2, 8, 9, 10, 15]

/-! An accepted frame, by its type. -/

section
variable {s : State} {p : Nat} {f : RFrame} (hm : malformed f = false)
  (hq : s.quarantined = true → frKind f = 12 ∨ frKind f = 14) (he : s.epochOk p f = true)
include hm hq he

theorem State.takeFrame_fence (hk : frKind f = 11) : s.takeFrame p f = s.takeFence f := by
  simp only [State.takeFrame, hm, Bool.false_eq_true, if_false, he, Bool.not_true, if_neg (not_quarantined_of hq)]
  simp only [hk]

theorem State.takeFrame_enum (hk : frKind f = 12) : s.takeFrame p f = s.takeEnum p f := by
  simp only [State.takeFrame, hm, Bool.false_eq_true, if_false, he, Bool.not_true, if_neg (not_quarantined_of hq)]
  simp only [hk]

theorem State.takeFrame_membership (hk : frKind f = 13) : s.takeFrame p f = s.takeMembership p f := by
  simp only [State.takeFrame, hm, Bool.false_eq_true, if_false, he, Bool.not_true, if_neg (not_quarantined_of hq)]
  simp only [hk]

theorem State.takeFrame_hello (hk : frKind f = 14) : s.takeFrame p f = s.takeHello p f := by
  simp only [State.takeFrame, hm, Bool.false_eq_true, if_false, he, Bool.not_true, if_neg (not_quarantined_of hq)]
  simp only [hk]

theorem State.takeFrame_own (hk : frKind f ∈ ownKinds) : s.takeFrame p f =
    if frKind f = 15 ∧ s.ring.quiesced = true then
      (if s.ring.claimed = some (frDst f) then s.deliver p f else s.queueFrame (1 - p) f true)
    else if frDst f = s.ringAddr ∨ (frField f 16 16 = 1 ∧ !frClassD f) then s.deliver p f
    else if s.fbit (f_ciRoute_valid (frDst f)) then s.queueFrame (s.fget (f_ciRoute_port (frDst f))) f true
    else s := by
  simp only [State.takeFrame, hm, Bool.false_eq_true, if_false, if_neg (not_quarantined_of hq), he, Bool.not_true]
  simp only [ownKinds, List.mem_cons, List.not_mem_nil, or_false] at hk
  rcases hk with h | h | h | h | h | h <;> simp only [h]

end

/-! Delivery. -/

theorem State.deliver_of_sealed {s : State} {p : Nat} {f : RFrame} (h : s.unseal f = none) :
    s.deliver p f = s.raise f_ciEvent_auth_failed := by
  simp only [State.deliver, h]

theorem State.deliver_of_badFields {s : State} {p : Nat} {f g : RFrame} (h : s.unseal f = some g) (ht : ¬ typeFieldsOk g) :
    s.deliver p f = s.dropMalformed p := by
  obtain ⟨hd, hl⟩ := Classical.not_imp.mp ht
  simp only [State.deliver, h]
  rw [if_pos ⟨hl, by simp [hd]⟩]

/-- The type fields of a good frame pass. -/
theorem typeFieldsOk.pass {g : RFrame} (h : typeFieldsOk g) :
    ¬((frType g).land (2 ^ 64 - 1 - typeMask (frKind g)) ≠ 0 ∧ (!frClassD g) = true) :=
  fun ⟨hl, hd⟩ => hl (h (by simpa using hd))

section
variable {s : State} {p : Nat} {f g : RFrame} (h : s.unseal f = some g) (ht : typeFieldsOk g)
include h ht

theorem State.deliver_data (hk : frKind f = 1 ∨ frKind f = 2) : s.deliver p f = s.takeData p g := by
  have ht' := ht.pass
  rw [State.frKind_unseal h] at ht'
  rcases hk with hk | hk <;> simp only [State.deliver, h, State.frKind_unseal h, hk, if_neg (hk ▸ ht')]

theorem State.deliver_open (hk : frKind f = 8) : s.deliver p f = s.takeOpen g := by
  have ht' := ht.pass
  rw [State.frKind_unseal h] at ht'
  simp only [State.deliver, h, State.frKind_unseal h, hk, if_neg (hk ▸ ht')]

theorem State.deliver_reply (hk : frKind f = 9) : s.deliver p f = s.takeReply g := by
  have ht' := ht.pass
  rw [State.frKind_unseal h] at ht'
  simp only [State.deliver, h, State.frKind_unseal h, hk, if_neg (hk ▸ ht')]

theorem State.deliver_signal (hk : frKind f = 10) :
    s.deliver p f = s.ringSignal (frField g 78 64) (BitVec.ofNat 32 (frField g 111 80)) := by
  have ht' := ht.pass
  rw [State.frKind_unseal h] at ht'
  simp only [State.deliver, h, State.frKind_unseal h, hk, if_neg (hk ▸ ht')]

theorem State.deliver_fw (hk : frKind f = 15) : s.deliver p f = s.takeFw g := by
  have ht' := ht.pass
  rw [State.frKind_unseal h] at ht'
  simp only [State.deliver, h, State.frKind_unseal h, hk, if_neg (hk ▸ ht')]

end

/-! The greeting (R319). -/

/-- Sending what a port may send changes the ring's state and what was sent alone. -/
theorem State.portRun_regs (s : State) (p : Nat) : (s.portRun p).regs = s.regs := by
  have hpump : ∀ (k : Nat) (t : State), (t.pump p k).regs = t.regs := by
    intro k
    induction k with
    | zero => exact fun t => rfl
    | succ k ih =>
      intro t
      rw [State.pump]
      split
      · rfl
      · exact ih _
  rw [State.portRun]
  split
  · exact hpump _ _
  · rfl

/-- A frame's events and the ring's ports leave the registers. -/
theorem State.portState_portRun (s : State) (p q : Nat) : (s.portRun p).portState q = s.portState q := by
  rw [State.portState, State.fget, State.rd, State.portRun_regs]
  rfl

/-- A port takes the state it is given (R319). -/
theorem State.portState_setPortState (s : State) (p : Fin 2) {v : Nat} (hv : v < 8) :
    (s.setPortState p.val v).portState p.val = v := by
  rw [State.setPortState]
  split
  · assumption
  · have hraise : ((s.fput (f_ciPortStatus_state p.val) v).raise f_ciEvent_port_change).fget (f_ciPortStatus_state p.val) =
        (s.fput (f_ciPortStatus_state p.val) v).fget (f_ciPortStatus_state p.val) :=
      State.fget_congr (State.rd_raise _ _ (by simp [f_ciPortStatus_state, sedRegs]; omega)
        (by simp [f_ciPortStatus_state, f_ciEvent_port_change]; omega))
    rw [State.portState, (State.event_eventsOnly _ _ _ _).fget (by simp [f_ciPortStatus_state]; omega), State.fget_emit, hraise,
      State.fget_fput_same _ _ _ (by simp [f_ciPortStatus_state]) (by simp [f_ciPortStatus_state])]
    exact Nat.mod_eq_of_lt hv

/-- A greeting that no port waits for is ignored. -/
theorem State.takeHello_of_ignored (s : State) {p : Nat} (f : RFrame) (h : s.portState p ≠ 1 ∨ (s.port p).trained = false) :
    s.takeHello p f = s := by
  rw [State.takeHello]
  exact if_pos (by simpa using h)

/-- A port that trains takes its peer's identity and capabilities, and fails its version, finds both ends the same port, or
comes up. -/
theorem State.takeHello_of_training (s : State) {p : Nat} {f : RFrame} (h : s.portState p = 1) (ht : (s.port p).trained = true)
    {u : State} (hu : u = s.setPort p { s.port p with
      peer := some (BitVec.ofNat 64 (fieldAt f.payload 0 8)), caps := frField f 127 96 }) : s.takeHello p f =
    if !(frField f 79 72 ≤ 1 && 1 ≤ frField f 87 80) then u.setPortState p 5
    else if frField f 64 64 = p then u.setPortState p 6 else (u.setPortState p 2).portRun p := by
  rw [State.takeHello, if_neg (by simp [h, ht]), ← hu]

/-! The row of a type hands an accepted frame to the checks. -/

/-- The destination rules' three cases (R325). -/
theorem State.forUs_iff (s : State) (f : RFrame) : s.forUs f ↔
    if frKind f = 15 ∧ s.ring.quiesced = true then s.ring.claimed = some (frDst f)
    else frDst f = s.ringAddr ∨ (frField f 16 16 = 1 ∧ (!frClassD f) = true) := by
  simp [State.forUs]

section
variable {s : State} {rx : RingRx} (h : s.accepts rx)
include h

theorem State.accepts.receive : s.receive rx = (s.afterLink rx).takeFrame rx.port.val rx.frame := s.receive_of_linked h.1

theorem State.accepts.exec_row {r : Nat × Option (Nat × Nat) × (RingRx → Instr)} (hr : r ∈ frameRows)
    (hk : frKind rx.frame = r.1) (hp : ∀ q, r.2.1 = some q → rx.frame.ext = none → frField rx.frame q.1 64 = q.2) :
    exec (r.2.2 rx) s = .next ((s.afterLink rx).takeFrame rx.port.val rx.frame) := by
  rw [exec_frameRow hr s (.inl ⟨hk, hp⟩), h.receive]

theorem State.accepts.exec_own {r : Nat × (RingRx → Instr)} (hr : r ∈ ownRows) (hk : frKind rx.frame = r.1) :
    exec (r.2 rx) s = .next ((s.afterLink rx).takeFrame rx.port.val rx.frame) := by
  refine h.exec_row (r := (r.1, none, r.2)) ?_ hk (fun q hq => by cases hq)
  simp only [ownRows, List.mem_cons, List.not_mem_nil, or_false] at hr
  rcases hr with rfl | rfl | rfl | rfl | rfl | rfl <;> simp [frameRows]

theorem State.accepts.takeFrame_own (hk : frKind rx.frame ∈ ownKinds) : (s.afterLink rx).takeFrame rx.port.val rx.frame =
    if frKind rx.frame = 15 ∧ s.ring.quiesced = true then
      (if s.ring.claimed = some (frDst rx.frame) then (s.afterLink rx).deliver rx.port.val rx.frame
        else (s.afterLink rx).queueFrame (1 - rx.port.val) rx.frame true)
    else if frDst rx.frame = s.ringAddr ∨ (frField rx.frame 16 16 = 1 ∧ !frClassD rx.frame) then
      (s.afterLink rx).deliver rx.port.val rx.frame
    else if s.fbit (f_ciRoute_valid (frDst rx.frame)) then
      (s.afterLink rx).queueFrame (s.fget (f_ciRoute_port (frDst rx.frame))) rx.frame true
    else s.afterLink rx := by
  have hring : (s.afterLink rx).ring.quiesced = s.ring.quiesced ∧ (s.afterLink rx).ring.claimed = s.ring.claimed := by
    simp only [State.afterLink, State.setPort, State.emit]
    split <;> exact ⟨rfl, rfl⟩
  rw [State.takeFrame_own (s := s.afterLink rx) h.2.1 h.2.2.1 h.2.2.2 hk, hring.1, hring.2]
  rfl

theorem State.accepts.takeFrame_forUs (hk : frKind rx.frame ∈ ownKinds) (hus : s.forUs rx.frame) :
    (s.afterLink rx).takeFrame rx.port.val rx.frame = (s.afterLink rx).deliver rx.port.val rx.frame := by
  rw [h.takeFrame_own hk]
  rw [State.forUs_iff] at hus
  split at hus
  next hq => rw [if_pos hq, if_pos hus]
  next hq => rw [if_neg hq, if_pos hus]

end

/-- The rows of `ownRows` are those of `ownKinds`. -/
theorem ownKinds_of_mem {r : Nat × (RingRx → Instr)} (hr : r ∈ ownRows) {k : Nat} (hk : k = r.1) : k ∈ ownKinds := by
  rw [hk]
  exact List.mem_map_of_mem (f := fun r : Nat × (RingRx → Instr) => r.1) hr

/-- Settles O26: an accepted frame for this device is delivered by its type, another goes on, and the ring's own frames go to
their logic. -/
theorem goodFramesAreTaken : Obligations.GoodFramesAreTaken := by
  unfold Obligations.GoodFramesAreTaken
  refine ⟨fun s rx h hus => ⟨fun g hg ht => ?_, fun r hr hk => ?_⟩, fun s rx h hus r hr hk => ?_, fun s rx h => ?_⟩
  · have hrow : ∀ r ∈ ownRows, frKind rx.frame = r.1 →
        exec (r.2 rx) s = .next ((s.afterLink rx).deliver rx.port.val rx.frame) := fun r hr hk => by
      rw [h.exec_own hr hk, h.takeFrame_forUs (ownKinds_of_mem hr hk) hus]
    refine ⟨fun hk => ?_, fun hk => ?_, fun hk => ?_, fun hk => ?_, fun hk => ?_, fun hk => ?_⟩
    · rw [hrow (1, .frameData) (by simp [ownRows]) hk, State.deliver_data hg ht (.inl hk)]
    · rw [hrow (2, .dataLast) (by simp [ownRows]) hk, State.deliver_data hg ht (.inr hk)]
    · rw [hrow (8, .burstOpen) (by simp [ownRows]) hk, State.deliver_open hg ht hk]
    · rw [hrow (9, .burstReply) (by simp [ownRows]) hk, State.deliver_reply hg ht hk]
    · rw [hrow (10, .signalFrame) (by simp [ownRows]) hk, State.deliver_signal hg ht hk]
    · rw [hrow (15, .fwMessage) (by simp [ownRows]) hk, State.deliver_fw hg ht hk]
  · rw [h.exec_own hr hk, h.takeFrame_forUs (ownKinds_of_mem hr hk) hus]
    exact ⟨fun hg => congrArg _ (State.deliver_of_sealed hg), fun g hg ht => congrArg _ (State.deliver_of_badFields hg ht)⟩
  · rw [h.exec_own hr hk, h.takeFrame_own (ownKinds_of_mem hr hk)]
    rw [State.forUs_iff] at hus
    refine ⟨fun h15 hq => ?_, fun hor => ⟨fun hv => ?_, fun hv => ?_⟩⟩
    · rw [if_pos ⟨h15, hq⟩] at hus ⊢
      rw [if_neg hus]
    all_goals
      have hno : ¬(frKind rx.frame = 15 ∧ s.ring.quiesced = true) := fun ⟨h15, hq⟩ =>
        hor.elim (fun hn => hn h15) fun hf => by simp [hf] at hq
      rw [if_neg hno] at hus ⊢
      rw [if_neg hus, hv]
      rfl
  · obtain ⟨-, hm, hq, he⟩ := id h
    have hphase : ∀ {hi v : Nat}, (rx.frame.ext = none → frField rx.frame hi 64 = v) →
        ∀ q, some (hi, v) = some q → rx.frame.ext = none → frField rx.frame q.1 64 = q.2 := fun hv q hq => by
      cases hq
      exact hv
    refine ⟨fun hk => ?_, fun hk hv => ?_, fun hk hv => ?_, fun hk hv => ?_, fun hk hv => ?_, fun hk => ?_⟩
    · rw [h.exec_row (r := (11, none, .fence)) (by simp [frameRows]) hk (fun q hq => by cases hq),
        State.takeFrame_fence (s := s.afterLink rx) hm hq he hk]
    · rw [h.exec_row (r := (12, some (71, 0), .enumOutbound)) (by simp [frameRows]) hk (hphase hv),
        State.takeFrame_enum (s := s.afterLink rx) hm hq he hk]
    · rw [h.exec_row (r := (12, some (71, 1), .enumReturn)) (by simp [frameRows]) hk (hphase hv),
        State.takeFrame_enum (s := s.afterLink rx) hm hq he hk]
    · rw [h.exec_row (r := (13, some (64, 0), .membershipQuiesce)) (by simp [frameRows]) hk (hphase hv),
        State.takeFrame_membership (s := s.afterLink rx) hm hq he hk]
    · rw [h.exec_row (r := (13, some (64, 1), .membershipCommit)) (by simp [frameRows]) hk (hphase hv),
        State.takeFrame_membership (s := s.afterLink rx) hm hq he hk]
    · rw [h.exec_row (r := (14, none, .linkHello)) (by simp [frameRows]) hk (fun q hq => by cases hq),
        State.takeFrame_hello (s := s.afterLink rx) hm hq he hk]
      have htrained : ((s.afterLink rx).port rx.port.val).trained = (s.port rx.port.val).trained := by
        change ((s.setPort rx.port.val _).port rx.port.val).trained = _
        rw [State.port_setPort_same]
      refine ⟨fun hign => congrArg _ (State.takeHello_of_ignored _ _ (htrained ▸ hign)), fun hst ht u hu => ?_⟩
      rw [State.takeHello_of_training (s := s.afterLink rx) hst (htrained.trans ht) hu]
      refine ⟨fun hver => ?_, fun hlo hhi => ⟨fun hp => ?_, fun hp => ⟨?_, ?_⟩⟩⟩
      · rw [if_pos (by simp only [Bool.not_eq_true', Bool.and_eq_false_iff, decide_eq_false_iff_not]; omega)]
      · rw [if_neg (by simp [hlo, hhi]), if_pos hp]
      · rw [if_neg (by simp [hlo, hhi]), if_neg hp]
      · rw [State.portState_portRun, State.portState_setPortState _ _ (by decide)]

end Sys2Proof.Machine

/-! ## Ports (O29, R319, R320, R338) -/

namespace Sys2Proof.Machine

/-- Settles O29: each event of a port, in the states that take it and in the others. -/
theorem portEvents : Obligations.PortEvents := by
  unfold Obligations.PortEvents
  refine fun s p rev pol => ⟨fun h => ?_, fun h => ?_, fun h ht => ⟨?_, ?_⟩, fun h => ⟨?_, ?_⟩, fun h => ?_, fun h h' => ?_,
    fun h => ?_, fun h => ?_⟩
  · simp only [exec_portEnable, execPortEnable, h, Bool.false_eq_true, if_false, State.portEnable]
  · simp only [exec_portEnable, execPortEnable, h, if_true]
  · rintro s1 s2 rfl rfl
    simp only [exec_portTrainingDone, execPortTrainingDone, h, ht, ne_eq, not_true_eq_false, Bool.false_eq_true, or_self, if_false]
    exact ⟨fun hq => by rw [hq, if_neg Bool.false_ne_true], fun hq => by rw [hq, if_pos rfl]⟩
  · simp only [exec_portTrainingTimeout, execPortTrainingTimeout, h, ht, Bool.not_false, and_self, if_true]
  · exact if_pos h
  · refine congrArg _ (if_neg ?_)
    rintro ⟨h1, ht⟩
    rcases h with h | h
    · exact h h1
    · simp [h] at ht
  · exact congrArg _ (if_pos h)
  · exact congrArg _ (if_neg (not_or.mpr ⟨h, h'⟩))
  · simp only [exec_idleLinkWord, execIdleLinkWord, h, if_true]
  · simp only [exec_idleLinkWord, execIdleLinkWord, h, Bool.false_eq_true, if_false]

end Sys2Proof.Machine

/-! ## Remote signals, and what time ends on the ring (O30, R328, R329, R331, R333, R339, R340) -/

namespace Sys2Proof.Machine

/-- A signal to an index of the window adds to the object there (R340). -/
theorem State.ringSignal_of_inside {s : State} (hw : s.fget f_ciSyncWindow_base + s.fget f_ciSyncWindow_size ≤ 32768) {i : Nat}
    (hi : i < s.fget f_ciSyncWindow_size) (inc : Word) : s.ringSignal i inc = s.signalObj (s.fget f_ciSyncWindow_base + i) inc := by
  simp only [State.ringSignal, if_neg (Nat.not_lt.mpr hw), if_pos hi]

/-- A signal to an index outside the window is refused. -/
theorem State.ringSignal_of_outside {s : State} (hw : s.fget f_ciSyncWindow_base + s.fget f_ciSyncWindow_size ≤ 32768) {i : Nat}
    (hi : s.fget f_ciSyncWindow_size ≤ i) (inc : Word) :
    s.ringSignal i inc = (s.raise f_ciEvent_sync_refused).cond .ringFault false := by
  simp only [State.ringSignal, if_neg (Nat.not_lt.mpr hw), if_neg (Nat.not_lt.mpr hi)]

/-- A condition that ends the job at its next boundary leaves every register but the credits, and the sync objects. -/
theorem State.rd_cond_next (s : State) (c : JobCond) {o : Nat} (ho : o ∉ creditRegs) : (s.cond c false).rd o = s.rd o := by
  rw [State.cond_next, (State.creditZero_regsOnly _).2 o ho]
  rfl

theorem State.obj_cond_next (s : State) (c : JobCond) (o : Nat) : (s.cond c false).obj o = s.obj o := by
  rw [State.cond_next, State.obj, (State.creditZero_regsOnly _).sync]
  rfl

/-- What a frame sent on the ring leaves: memory, the sync objects, and the bursts that are being received. -/
structure SendKeeps (s t : State) : Prop where
  mem : t.mem = s.mem
  sync : t.sync = s.sync
  recvs : t.ring.recvs = s.ring.recvs

theorem SendKeeps.refl (s : State) : SendKeeps s s := ⟨rfl, rfl, rfl⟩

theorem SendKeeps.trans {s t u : State} (h : SendKeeps s t) (h' : SendKeeps t u) : SendKeeps s u :=
  ⟨h'.mem.trans h.mem, h'.sync.trans h.sync, h'.recvs.trans h.recvs⟩

theorem State.setPort_sendKeeps (s : State) (p : Nat) (x : PortRt) : SendKeeps s (s.setPort p x) := by
  refine ⟨rfl, rfl, ?_⟩
  rw [State.setPort]
  split <;> rfl

theorem State.putFrame_sendKeeps (s : State) (p : Nat) (f : RFrame) : SendKeeps s (s.putFrame p f) :=
  (s.setPort_sendKeeps p _).trans ⟨rfl, rfl, rfl⟩

theorem State.pump_sendKeeps (s : State) (p k : Nat) : SendKeeps s (s.pump p k) := by
  induction k generalizing s with
  | zero => exact .refl s
  | succ k ih =>
    rw [State.pump]
    split
    · exact .refl s
    · exact ((s.setPort_sendKeeps p _).trans (State.putFrame_sendKeeps _ _ _)).trans (ih _)

theorem State.portRun_sendKeeps (s : State) (p : Nat) : SendKeeps s (s.portRun p) := by
  rw [State.portRun]
  split
  · exact State.pump_sendKeeps _ _ _
  · exact .refl _

theorem State.queueFrame_sendKeeps (s : State) (p : Nat) (f : RFrame) (transit : Bool) : SendKeeps s (s.queueFrame p f transit) := by
  rw [State.queueFrame]
  exact (s.setPort_sendKeeps p _).trans (State.portRun_sendKeeps _ p)

theorem State.seal_sendKeeps {s t : State} {f g : RFrame} (h : s.seal f = some (g, t)) : SendKeeps s t := by
  rw [State.seal] at h
  split at h
  · cases h
    exact .refl _
  · dsimp only at h
    split at h
    · cases h
    · cases h
      refine ⟨rfl, rfl, ?_⟩
      dsimp only
      split <;> rfl

theorem State.sendFrame_sendKeeps (s : State) (f : RFrame) : SendKeeps s (s.sendFrame f) := by
  rw [State.sendFrame]
  split
  · exact .refl s
  · split
    next => exact ⟨s.sediment_mem _ _ _ _, s.sediment_sync _ _ _ _, by rw [State.sediment_ring]⟩
    next hseal => exact (State.seal_sendKeeps hseal).trans (State.queueFrame_sendKeeps _ _ _ _)

/-- The receiver's end of a burst whose hold has expired (R328). -/
def State.holdExpired (s : State) (b : RecvBurst) : State :=
  ((({ s with ring := { s.ring with recvs := s.ring.recvs.filter fun r => r != b } } : State).fsat f_ciCounts_abandoned 1).raise
    f_ciEvent_burst_abandoned).burstReply b.src b.id 1

theorem exec_burstHoldExpiry_of_open {s : State} {i : Nat} {b : RecvBurst} (hs : s.stopped 4 = false)
    (hb : s.ring.recvs[i]? = some b) : exec (.burstHoldExpiry i) s = .next (s.holdExpired b) := by
  simp only [exec_burstHoldExpiry, execBurstHoldExpiry, hs, hb, Bool.false_eq_true, if_false, State.holdExpired]

/-- An expired burst is no longer received, and nothing of it has been written. -/
theorem State.holdExpired_keeps (s : State) (b : RecvBurst) :
    b ∉ (s.holdExpired b).ring.recvs ∧ (s.holdExpired b).mem = s.mem ∧ (s.holdExpired b).sync = s.sync := by
  have h := State.sendFrame_sendKeeps ((({ s with ring := { s.ring with recvs := s.ring.recvs.filter fun r => r != b } } : State).fsat
    f_ciCounts_abandoned 1).raise f_ciEvent_burst_abandoned)
  refine ⟨?_, ?_, ?_⟩
  · rw [State.holdExpired, State.burstReply, (h _).recvs, State.raise_ring]
    intro hb
    exact absurd rfl (bne_iff_ne.mp (List.mem_filter.mp hb).2)
  · rw [State.holdExpired, State.burstReply, (h _).mem, State.raise_mem]
    rfl
  · rw [State.holdExpired, State.burstReply, (h _).sync, State.raise_sync]
    rfl

/-- The members that have not answered the head, told to the driver, end the head's work under a free status (R333). -/
theorem exec_memberReplyTimeout_of_waiting {s : State} {w : List DWord} (hs : s.mpStands = false)
    (h : (∃ e t c, s.ring.head = .quiesce e t c w ∨ s.ring.head = .commit e t c w) ∨ ∃ b, s.ring.head = .collect w b) {u : State}
    (hu : u = w.foldl (fun (s : State) d => s.event 0x31 0xFF (leBytes 8 d.toNat)) s) :
    exec .memberReplyTimeout s = .next (({ u with ring := { u.ring with head := .none }, fresh := u.fresh + 1 } : State).bgDone 0x21
      (Done.of (Config.freeValue u.fresh % 65536))) := by
  subst hu
  rcases h with ⟨e, t, c, h | h⟩ | ⟨b, h⟩ <;>
    simp only [exec_memberReplyTimeout, execMemberReplyTimeout, hs, h, Bool.false_eq_true, if_false, State.draw]

/-- Readmission leaves the device unconfigured at epoch 0, no head (R339). -/
theorem State.ciReadmit_of_quarantined {s : State} (h : s.quarantined = true) :
    s.ciReadmit = ((s.fput f_ciStatus_ring_state 0).fput f_ciEpoch_epoch 0).fput f_ciStatus_head 0 := by
  simp only [State.ciReadmit, h, Bool.not_true, Bool.false_eq_true, if_false]

/-- Settles O30: the window's two cases, the restarts of a burst, and the timers of the ring. -/
theorem ringSignalsAndTimeouts : Obligations.RingSignalsAndTimeouts := by
  unfold Obligations.RingSignalsAndTimeouts
  refine ⟨fun s i inc hw => ⟨fun hi => ?_, fun hi => ⟨fun o => ?_, ?_⟩⟩, fun s b => ⟨fun h => if_pos h, fun h => if_neg (by omega)⟩,
    fun s => ⟨fun i b hs hb => ⟨exec_burstHoldExpiry_of_open hs hb, _, exec_burstHoldExpiry_of_open hs hb, s.holdExpired_keeps b⟩,
      fun i b hs hb => ?_, fun i => ⟨fun h => ?_, fun h => ?_⟩, fun rs late hs hh => ?_, fun h => ?_,
      fun w hs h u hu => ⟨_, Nat.mod_lt _ (by decide), exec_memberReplyTimeout_of_waiting hs h hu⟩, fun h => ?_, fun h => ?_, fun h => ?_⟩⟩
  · rw [State.ringSignal_of_inside hw hi]
    exact ⟨s.obj_setObject_same _ _, fun o ho => s.obj_setObject_ne _ ho, rfl⟩
  · rw [State.ringSignal_of_outside hw hi, State.obj_cond_next, State.obj, State.raise_sync]
    rfl
  · rw [State.ringSignal_of_outside hw hi, State.fbit_congr (State.rd_cond_next _ _ (by decide +kernel))]
    exact s.fbit_raise _ rfl (by decide) (by decide)
  · simp only [exec_burstReplyTimeout, execBurstReplyTimeout, hs, hb, Bool.false_eq_true, if_false]
  · rw [exec_burstHoldExpiry, execBurstHoldExpiry]
    rcases h with h | h <;> simp [h]
  · rw [exec_burstReplyTimeout, execBurstReplyTimeout]
    rcases h with h | h <;> simp [h]
  · refine ⟨({ s with ring := { s.ring with head := .enumerate true rs true } } : State).fput f_ciStatus_closed 0, ?_,
      State.fget_fput_same _ _ _ (by decide) (by decide), rfl, fun o ho => State.rd_fput_ne _ _ ho, rfl⟩
    simp only [exec_enumClosedTimeout, execEnumClosedTimeout, hs, hh, Bool.false_eq_true, if_false]
  · rw [exec_enumClosedTimeout, execEnumClosedTimeout]
    rcases h with h | h
    · simp [h]
    · split
      next rs late hh =>
        split at hh
        · cases hh
        · exact absurd hh (h rs late)
      · rfl
  · rw [exec_memberReplyTimeout, execMemberReplyTimeout]
    rcases h with h | h <;> simp [h]
  · refine ⟨_, rfl, ?_⟩
    rw [State.ciReadmit_of_quarantined h]
    refine ⟨?_, ?_, State.fget_fput_same _ _ _ (by decide) (by decide),
      (((RegsOnly.refl s _).fput (by simp) _).fput (by simp) _).fput (by simp [f_ciStatus_head, f_ciStatus_ring_state]) _⟩
    · rw [State.fget_fput_ne _ _ _ _ (by decide) (by decide) (by decide) (by decide), State.fget_fput_off _ _ (by decide)]
      exact State.fget_fput_same _ _ _ (by decide) (by decide)
    · rw [State.fget_fput_off _ _ (by decide)]
      exact State.fget_fput_same _ _ _ (by decide) (by decide)
  · simp only [exec_ciReadmit, execCiReadmit, State.ciReadmit, h, Bool.not_false, if_true]

end Sys2Proof.Machine

/-! ## What a completion and a write for the driver change (R485, R488, R500) -/

namespace Sys2Proof.Machine

namespace EventsOnly

/-- A completion writes its entry and, where it is a disabled pair's last, the pair's own register. -/
theorem completeTaken {s t : State} (h : EventsOnly s t) (q : Nat) (x : Taken) (d : Done) : EventsOnly s (t.completeTaken q x d) := by
  unfold State.completeTaken
  extract_lets p rest s1 e s2
  have h2 : EventsOnly s s2 := (h.setPair _ _).cqWrite _ _ _
  exact ite ((h2.setPair _ _).fput (by simp only [f_rpCfg_enable]; omega) _) h2

theorem begin_ {s t : State} (h : EventsOnly s t) (q : Nat) (x : Taken) : EventsOnly s (t.begin_ q x) := h.setPair _ _

end EventsOnly

/-- `t` differs from `s` in memory, registers, the sediment record, the host's rings and what was sent at most. -/
def HostWrites (s t : State) : Prop :=
  t = { s with mem := t.mem, lineTag := t.lineTag, ecc := t.ecc, regs := t.regs, sediment := t.sediment, host := t.host, out := t.out }

namespace HostWrites

theorem refl (s : State) : HostWrites s s := rfl

theorem trans {s t u : State} (h : HostWrites s t) (h' : HostWrites t u) : HostWrites s u := by
  unfold HostWrites at h h' ⊢
  rw [h', h]

theorem of_eventsOnly {s t : State} (h : EventsOnly s t) : HostWrites s t := by
  unfold HostWrites
  rw [h.eq]

theorem ite {s t u : State} {c : Prop} [Decidable c] (ht : HostWrites s t) (hu : HostWrites s u) :
    HostWrites s (if c then t else u) := by
  split <;> assumption

theorem foldl {α : Type} {s t : State} {f : State → α → State} {l : List α} (h : HostWrites s t)
    (hf : ∀ u x, HostWrites s u → HostWrites s (f u x)) : HostWrites s (l.foldl f t) := by
  induction l generalizing t with
  | nil => exact h
  | cons x l ih => exact ih (hf t x h)

theorem wr {s t : State} (h : HostWrites s t) (o : Nat) (v : Word) : HostWrites s (t.wr o v) := h.trans rfl

theorem fput {s t : State} (h : HostWrites s t) (f : Fld) (v : Nat) : HostWrites s (t.fput f v) := h.trans rfl

theorem emit {s t : State} (h : HostWrites s t) (x : Output) : HostWrites s (t.emit x) := h.trans rfl

theorem sediment {s t : State} (h : HostWrites s t) (a b c d : Nat) : HostWrites s (t.sediment' a b c d) := by
  refine h.trans ?_
  unfold HostWrites
  rw [State.sediment_eq]

theorem raise {s t : State} (h : HostWrites s t) (f : Fld) : HostWrites s (t.raise f) := by
  refine h.trans ?_
  unfold HostWrites
  rw [State.raise_eq]

theorem completeTaken {s t : State} (h : HostWrites s t) (q : Nat) (x : Taken) (d : Done) : HostWrites s (t.completeTaken q x d) :=
  h.trans (of_eventsOnly ((EventsOnly.refl t).completeTaken q x d))

theorem event {s t : State} (h : HostWrites s t) (type ring : Nat) (payload : List Byte) : HostWrites s (t.event type ring payload) :=
  h.trans (of_eventsOnly (t.event_eventsOnly _ _ _))

theorem areaWrite {s t : State} (h : HostWrites s t) (a : Nat) (d : List Byte) : HostWrites s (t.areaWrite a d) := by
  unfold State.areaWrite
  split
  · split
    · exact h.emit _
    · exact h.raise _
  · exact h.trans (of_eventsOnly ((EventsOnly.refl t).lpStore _ _ _))

theorem sync {s t : State} (h : HostWrites s t) : t.sync = s.sync := by rw [h]
theorem fw {s t : State} (h : HostWrites s t) : t.fw = s.fw := by rw [h]

theorem obj {s t : State} (h : HostWrites s t) (o : Nat) : t.obj o = s.obj o := by
  rw [State.obj, h.sync]
  rfl

end HostWrites

end Sys2Proof.Machine

/-! ## The video sequencer and the frames of a session (O36, R420, R422 to R427, R434) -/

namespace Sys2Proof.Machine

/-! The sequencer. -/

/-- Where every block checks, the sequencer stands loading. -/
theorem State.vxHold_of_good (s : State) {img : List Byte} {crcs : List Nat}
    (h : (List.zip (chunks 4096 (img.take 0x40000)) crcs).findIdx? (fun b => crc32c b.1 != b.2) = none) :
    s.vxHold img crcs = (({ s with fw := { s.fw with vxMem := img.take 0x40000, vxRefused := false } } : State).fput
      f_vxSeqCtrl_hold 1).fput f_vxSeqStatus_state 1 := by
  simp only [State.vxHold, h, Option.isSome_none, Bool.false_eq_true, if_false]

/-- A block that fails is named, and VX refused. -/
theorem State.vxHold_of_bad (s : State) {img : List Byte} {crcs : List Nat} {b : Nat}
    (h : (List.zip (chunks 4096 (img.take 0x40000)) crcs).findIdx? (fun b => crc32c b.1 != b.2) = some b) :
    s.vxHold img crcs = ((({ s with fw := { s.fw with vxMem := img.take 0x40000, vxRefused := true } } : State).fput
      f_vxSeqCtrl_hold 1).fput f_vxSeqStatus_state 3).fput f_vxSeqStatus_bad_block b := by
  simp only [State.vxHold, h, Option.isSome_some, if_true]

theorem State.vxRelease_of_loading {s : State} (h : s.fget f_vxSeqStatus_state = 1) :
    s.vxRelease = (s.fput f_vxSeqCtrl_hold 0).fput f_vxSeqStatus_state 2 := if_pos h

/-! A frame that ends: its session's queue and done object (R422). -/

theorem State.ringWrite_hostWrites (s : State) (v : Video) (d : List Byte) : HostWrites s (s.ringWrite v d) :=
  .ite (((HostWrites.refl s).areaWrite _ _).areaWrite _ _) ((HostWrites.refl s).areaWrite _ _)

theorem State.frameStatus_hostWrites (s : State) (f : VideoFrame) (status : Nat) : HostWrites s (s.frameStatus f status) := by
  rw [State.frameStatus]
  split
  · split
    · exact (HostWrites.refl s).completeTaken _ _ _
    · exact .refl s
  · exact .refl s

/-- Blocks given back may complete the reclaims that wait for them; the sync objects stay. -/
theorem State.reclaimCheck_sync (s : State) : s.reclaimCheck.sync = s.sync := by
  rw [State.reclaimCheck]
  generalize s.fw.reclaims = l
  induction l generalizing s with
  | nil => rfl
  | cons r l ih =>
    rw [List.foldl_cons, ih]
    dsimp only
    split
    · rfl
    · split
      · rw [((HostWrites.refl _).completeTaken _ _ _).sync]
      · rfl

theorem State.mpix_sync (s : State) (l : List Video) : (s.mpix l).2.sync = s.sync := by
  rw [State.mpix]
  dsimp only
  split <;> rfl

theorem State.videoLoad_sync (s : State) : s.videoLoad.sync = s.sync := by
  rw [State.videoLoad]
  simp only [State.fput_sync, State.mpix_sync]

/-- A session's end leaves the sync objects. -/
theorem State.endVideo_sync (s : State) (v : Video) (status : Nat) : (s.endVideo v status).sync = s.sync := by
  have h2 : ∀ t : State, (t.freeBlocks v.blocks).videoLoad.sync = t.sync := fun t => by
    rw [State.videoLoad_sync, State.freeBlocks, State.reclaimCheck_sync]
  rw [State.endVideo]
  dsimp only
  split
  · split
    · rw [((HostWrites.refl _).completeTaken _ _ _).sync, h2]
    · rw [h2]
  · rw [h2]

/-- The session of a frame that ends holds what it is given, and no other object than its done object changes. -/
theorem State.frameEnds_obj (s : State) (v : Video) (f : VideoFrame) (o : Nat) :
    (s.frameEnds v f).obj o = (s.signalObj (0x7F20 + v.session) 1).obj o := by
  have h1 : ∀ t : State, t.sync = ((s.setVideo v).signalObj (0x7F20 + v.session) 1).sync →
      t.obj o = (s.signalObj (0x7F20 + v.session) 1).obj o := fun t ht => by
    rw [State.obj, ht]
    rfl
  rw [State.frameEnds]
  split
  · exact h1 _ (by rw [State.endVideo_sync, (State.frameStatus_hostWrites _ _ _).sync])
  · exact h1 _ (State.frameStatus_hostWrites _ _ _).sync

/-- A session that is found again after it has been changed. -/
theorem State.video_setVideo {s : State} {n : Nat} {v x : Video} (h : s.video n = some x) (hv : v.session = n) :
    (s.setVideo v).video n = some v := by
  have hx : x.session = n := by simpa using List.find?_some h
  have hp : (fun y : Video => y.session == n) ∘ (fun y => if y.session = v.session then v else y) = fun y => y.session == n := by
    funext y
    by_cases hy : y.session = n <;> simp [hv, hy]
  rw [State.video, State.setVideo]
  simp only [List.find?_map, hp]
  rw [show s.fw.videos.find? (fun y => y.session == n) = some x from h, Option.map_some, if_pos (hx.trans hv.symm)]

/-- While the session does not close on this frame it stays, as it is given. -/
theorem State.frameEnds_video {s : State} {n : Nat} {v x : Video} (f : VideoFrame) (h : s.video n = some x) (hv : v.session = n)
    (hc : v.closing = none ∨ v.queue ≠ []) : (s.frameEnds v f).video n = some v := by
  have hne : ¬(v.queue.isEmpty = true ∧ v.closing.isSome = true) := by
    rcases hc with hc | hc
    · simp [hc]
    · simp [hc]
  simp only [State.frameEnds, if_neg hne]
  rw [State.video, (State.frameStatus_hostWrites _ _ _).fw]
  exact State.video_setVideo h hv

/-- What is done before the frame ends leaves the sync objects and the sessions. -/
theorem State.frameEnds_of_hostWrites {s u : State} (hu : HostWrites s u) {n : Nat} {v x : Video} (f : VideoFrame)
    (h : s.video n = some x) (hv : v.session = n) :
    (u.frameEnds v f).obj (0x7F20 + n) = s.obj (0x7F20 + n) + 1 ∧ (∀ o, o ≠ 0x7F20 + n → (u.frameEnds v f).obj o = s.obj o) ∧
      (v.closing = none ∨ v.queue ≠ [] → (u.frameEnds v f).video n = some v) := by
  refine ⟨?_, fun o ho => ?_, State.frameEnds_video f (x := x) ?_ hv⟩
  · rw [State.frameEnds_obj, hv, State.signalObj, State.obj_setObject_same, hu.obj]
  · rw [State.frameEnds_obj, hv, State.signalObj, State.obj_setObject_ne _ _ ho, hu.obj]
  · rw [State.video, hu.fw]
    exact h

section
variable {s : State} {n : Nat} {v : Video} {f : VideoFrame} {rest : List VideoFrame}
  (h : s.video n = some v) (hn : v.session = n) (hq : v.queue = f :: rest)
include h hn hq

theorem State.encodeFrame_ends (input : List Byte) :
    (s.encodeFrame v f input).obj (0x7F20 + n) = s.obj (0x7F20 + n) + 1 ∧
      (∀ o, o ≠ 0x7F20 + n → (s.encodeFrame v f input).obj o = s.obj o) ∧
      (v.closing = none ∨ rest ≠ [] → ∃ v', (s.encodeFrame v f input).video n = some v' ∧ v'.queue = rest ∧
        v'.pictures = v.pictures + 1 ∧ v'.coder = Config.videoNext v.params v.coder input) := by
  unfold State.encodeFrame
  extract_lets k c d s1 s2
  have h1 : HostWrites s s1 := s.ringWrite_hostWrites v _
  have h2 : HostWrites s s2 := .ite (h1.raise _) h1
  obtain ⟨hobj, hother, hvideo⟩ := State.frameEnds_of_hostWrites h2 (v := { v with
    queue := v.queue.drop 1, pictures := v.pictures + 1, coder := k, bitsPos := (v.bitsPos + d.length + 32) % max 1 v.bitsLen }) f h hn
  refine ⟨hobj, hother, fun hc => ⟨_, hvideo ?_, by simp [hq], rfl, rfl⟩⟩
  simpa [hq] using hc

theorem State.decodeFrame_ends (pic : List Byte) (ty qp : Nat) (bad key : Bool) :
    (s.decodeFrame v f pic ty qp bad key).obj (0x7F20 + n) = s.obj (0x7F20 + n) + 1 ∧
      (∀ o, o ≠ 0x7F20 + n → (s.decodeFrame v f pic ty qp bad key).obj o = s.obj o) ∧
      (v.closing = none ∨ rest ≠ [] → ∃ v', (s.decodeFrame v f pic ty qp bad key).video n = some v' ∧ v'.queue = rest ∧
        v'.pictures = v.pictures + 1 ∧ v'.coder = v.coder) := by
  unfold State.decodeFrame
  extract_lets shows s1 record s2 s3
  have h1 : HostWrites s s1 := .ite ((HostWrites.refl s).areaWrite _ _) (.refl s)
  have h2 : HostWrites s s2 := .ite (h1.trans (State.ringWrite_hostWrites _ _ _)) h1
  have h3 : HostWrites s s3 := .ite (h2.raise _) h2
  obtain ⟨hobj, hother, hvideo⟩ := State.frameEnds_of_hostWrites h3
    (v := { v with
      queue := v.queue.drop 1, pictures := v.pictures + 1, skipTo := !shows,
      bitsPos := (if record then (v.bitsPos + 32) % v.bitsLen else v.bitsPos) }) f h hn
  refine ⟨hobj, hother, fun hc => ⟨_, hvideo ?_, by simp [hq], rfl, rfl⟩⟩
  simpa [hq] using hc

end

theorem exec_videoFrameDone_of_queued {s : State} {n : Fin 16} {v : Video} {f : VideoFrame} {rest : List VideoFrame}
    (hs : s.vxStands = false) (h : s.video n.val = some v) (hq : v.queue = f :: rest) (host pic : List Byte) (ty : Fin 2)
    (qp : Fin 256) (bad key : Bool) : exec (.videoFrameDone n host pic ty qp bad key) s =
      .next (if v.encodes then s.encodeFrame v f (s.frameInput host v f) else s.decodeFrame v f pic ty.val qp.val bad key) := by
  simp only [exec_videoFrameDone, execVideoFrameDone, hs, h, hq, Bool.false_eq_true, if_false]

/-- Settles O36: the sequencer's rows, a bound session's release, and the frame that VX codes or decodes. -/
theorem videoRows : Obligations.VideoRows := by
  unfold Obligations.VideoRows
  refine ⟨fun s img crcs => ⟨fun h => ⟨_, rfl, ?_⟩, fun b h => ⟨_, rfl, ?_⟩, fun h => ⟨_, rfl, ?_⟩, fun h => congrArg _ (if_neg h), ⟨_, rfl, ?_⟩,
      fun h hs => ?_, fun h => if_pos h⟩,
    fun s n v hv hs => ⟨?_, fun h => ?_⟩, fun s n host pic ty qp bad key => ⟨fun h => ?_, fun h => ?_, fun v f rest hs hv hq => ?_⟩⟩
  · rw [s.vxHold_of_good h]
    refine ⟨?_, State.fget_fput_same _ _ _ (by decide) (by decide), rfl, rfl, rfl⟩
    rw [State.fget_fput_off _ _ (by decide)]
    exact State.fget_fput_same _ _ _ (by decide) (by decide)
  · rw [s.vxHold_of_bad h]
    refine ⟨?_, State.fget_fput_same _ _ _ (by decide) (by decide), rfl, rfl⟩
    rw [State.fget_fput_ne _ _ _ _ (by decide) (by decide) (by decide) (by decide)]
    exact State.fget_fput_same _ _ _ (by decide) (by decide)
  · rw [State.vxRelease_of_loading h]
    refine ⟨State.fget_fput_same _ _ _ (by decide) (by decide), ?_, ((RegsOnly.refl s _).fput (by simp) _).fput (by simp) _⟩
    rw [State.fget_fput_off _ _ (by decide)]
    exact State.fget_fput_same _ _ _ (by decide) (by decide)
  · rw [State.vxReset]
    refine ⟨?_, ?_, ?_, ((((RegsOnly.refl s _).fput (by simp) _).fput (by simp) _).fput
      (by simp [f_vxSeqStatus_heartbeat, f_vxSeqStatus_state]) _).fput (by simp [f_vxSeqStatus_bad_block, f_vxSeqStatus_state]) _⟩ <;>
      simp (disch := decide) only [State.fget_fput_ne, State.fget_fput_same] <;> rfl
  · simp only [exec_vxHeartbeatTimeout, execVxHeartbeatTimeout, h, hs, ne_eq, not_true_eq_false, Bool.false_eq_true, or_self, if_false]
  · rintro r count a e hg rfl hr rfl rfl rfl
    refine ⟨fun hb => ?_, fun hb => ?_⟩ <;>
      simp only [exec_boundEncodeFrame, execBoundEncodeFrame, hs, hv, hg, hr, hb, Bool.not_true, Bool.false_eq_true, or_self, if_false, if_true]
  · simp only [exec_boundEncodeFrame, execBoundEncodeFrame, hs, hv, Bool.false_eq_true, if_false]
    exact if_pos (by simpa using h)
  · rw [exec_boundEncodeFrame, execBoundEncodeFrame]
    rcases h with h | h <;> simp [h]
  · rw [exec_videoFrameDone, execVideoFrameDone]
    rcases h with h | h | ⟨v, h, hq⟩
    · simp [h]
    · simp [h]
    · cases hs : s.vxStands <;> simp [h, hq]
  · have hx := exec_videoFrameDone_of_queued hs hv hq host pic ty qp bad key
    refine ⟨fun he => ?_, fun he => ?_, fun hn => ⟨_, hx, ?_⟩⟩
    · rw [hx, he, if_pos rfl]
    · rw [hx, he, if_neg Bool.false_ne_true]
    · cases he : v.encodes
      · exact State.decodeFrame_ends hv hn hq _ _ _ _ _
      · exact State.encodeFrame_ends hv hn hq _

end Sys2Proof.Machine

/-! ## Requests of the memory controller's ports (O37, R445, R448, R469) -/

namespace Sys2Proof.Machine

/-- A request completes while the controller serves and no earlier one of its port waits for its line. -/
theorem exec_mcRequestComplete_of_first {s : State} {i lat link : Nat} {bad : Bool} {r : McReq} (h : s.mc.reqs[i]? = some r)
    (hup : s.mcUp = true) (hfirst : ((s.mc.reqs.take i).any fun q => q.port == r.port && q.addr == r.addr) = false) {s2 : State}
    (hs2 : s2 = (s.setMc { s.mc with reqs := s.mc.reqs.eraseIdx i }).mcDeliver r link bad false) :
    exec (.mcRequestComplete i lat link bad) s = .next (((if r.write then s2 else s2.fput (f_mcLatMax_max_ns r.port)
      (max (s2.fget (f_mcLatMax_max_ns r.port)) (min lat 0xFFFF))).mcRefresh r.chan).mcPull) := by
  simp only [exec_mcRequestComplete, execMcRequestComplete, h, hup, hfirst, Bool.not_true, Bool.or_self, Bool.false_eq_true, if_false, hs2]

/-- Settles O37: where a request lands, and the three conditions of its completion. -/
theorem memoryRequests : Obligations.MemoryRequests := by
  unfold Obligations.MemoryRequests
  refine fun s p a k wr m d => ⟨fun h => ?_, fun h h' => ?_, fun i lat link bad => ⟨fun h => ?_, fun r h => ⟨fun hearly => ?_,
    fun hup hfirst s2 hs2 => ⟨fun hw => ?_, fun hw => ?_⟩⟩⟩⟩
  · exact if_pos h
  · exact if_neg (by omega)
  · rw [exec_mcRequestComplete, execMcRequestComplete]
    rcases h with h | h
    · simp only [h]
    · cases hr : s.mc.reqs[i]? <;> simp [h]
  · simp only [exec_mcRequestComplete, execMcRequestComplete, h, hearly, Bool.or_true, if_true]
  · rw [exec_mcRequestComplete_of_first h hup hfirst hs2, hw, if_pos rfl]
  · rw [exec_mcRequestComplete_of_first h hup hfirst hs2, hw, if_neg Bool.false_ne_true]

end Sys2Proof.Machine

/-! ## The training helper (O40, R459, R470, R473) -/

namespace Sys2Proof.Machine

/-- A write of MC_TRAIN_CTRL that starts nothing. -/
theorem State.trainWrite_of_held {s : State} (mask op : Nat) (h : s.mc.run ≠ none ∨ s.trainAllowed = false) :
    s.trainWrite mask op true = (s.fput f_mcTrainCtrl_channel_mask mask).fput f_mcTrainCtrl_op op := by
  refine if_pos ?_
  rcases h with h | h
  · simp [Option.isSome_iff_ne_none.mpr h]
  · simp [h]

theorem State.trainWrite_of_free {s : State} (mask op : Nat) (h : s.mc.run = none) (ha : s.trainAllowed = true) :
    s.trainWrite mask op true = (((s.fput f_mcTrainCtrl_channel_mask mask).fput f_mcTrainCtrl_op op).fput f_mcTrainCtrl_start 1).setMc
      { s.mc with run := some (op, mask) } := by
  refine if_neg ?_
  simp [h, ha]

/-- Mask and operation read as they were written. -/
theorem State.trainCtrl_fields (s : State) {mask op : Nat} (hm : mask < 2 ^ 24) (ho : op < 8) :
    ((s.fput f_mcTrainCtrl_channel_mask mask).fput f_mcTrainCtrl_op op).fget f_mcTrainCtrl_op = op ∧
      ((s.fput f_mcTrainCtrl_channel_mask mask).fput f_mcTrainCtrl_op op).fget f_mcTrainCtrl_channel_mask = mask := by
  refine ⟨(State.fget_fput_same _ _ _ (by decide) (by decide)).trans (Nat.mod_eq_of_lt ho), ?_⟩
  rw [State.fget_fput_ne _ _ _ _ (by decide) (by decide) (by decide) (by decide)]
  exact (State.fget_fput_same _ _ _ (by decide) (by decide)).trans (Nat.mod_eq_of_lt hm)

@[simp] theorem State.fget_setMc (s : State) (m : McRt) (f : Fld) : (s.setMc m).fget f = s.fget f := rfl

/-- Each row of the helper is a write of MC_TRAIN_CTRL with its operation. -/
theorem exec_trainingRow {m : BitVec 24} {c : Instr} {op : Nat}
    (h : (c = .writePattern m ∧ op = 1) ∨ (c = .readAndCompare m ∧ op = 2) ∨ (c = .commandBusCompare m ∧ op = 3) ∨
      (c = .readDqCalibration m ∧ op = 4) ∨ (c = .wck2ckLeveling m ∧ op = 5)) (s : State) :
    exec c s = .next (s.trainWrite m.toNat op true) ∧ op < 8 := by
  rcases h with ⟨rfl, rfl⟩ | ⟨rfl, rfl⟩ | ⟨rfl, rfl⟩ | ⟨rfl, rfl⟩ | ⟨rfl, rfl⟩ <;> exact ⟨rfl, by decide⟩

/-- What the helper leaves in the error counter of a lane (R473). -/
def laneError (op : Nat) (errs : List Nat) (c l : Nat) : Nat :=
  if op = 5 then errs.getD (20 * c + l) 0 % 2 else min (errs.getD (20 * c + l) 0) 0xFFFF

theorem laneError_lt (op : Nat) (errs : List Nat) (c l : Nat) : laneError op errs c l < 2 ^ 16 := by
  rw [laneError]
  split <;> omega

/-- The counters of a channel's lanes written, lane by lane. -/
def State.putLanes (s : State) (op : Nat) (errs : List Nat) (c : Nat) (lanes : List Nat) : State :=
  lanes.foldl (fun s l => s.fput (f_mcTrainErrors_errors c l) (laneError op errs c l)) s

/-- The counters of the channels written. -/
def State.putChannels (s : State) (op : Nat) (errs : List Nat) (chans : List Nat) : State :=
  chans.foldl (fun s c => s.putLanes op errs c (List.range 20)) s

theorem State.putLanes_eq (s : State) (op : Nat) (errs : List Nat) (c : Nat) (lanes : List Nat) :
    s.putLanes op errs c lanes = { s with regs := (s.putLanes op errs c lanes).regs } := by
  induction lanes generalizing s with
  | nil => rfl
  | cons l t ih =>
    rw [State.putLanes, List.foldl_cons]
    exact (ih _).trans rfl

theorem State.putChannels_eq (s : State) (op : Nat) (errs : List Nat) (chans : List Nat) :
    s.putChannels op errs chans = { s with regs := (s.putChannels op errs chans).regs } := by
  induction chans generalizing s with
  | nil => rfl
  | cons c t ih =>
    rw [State.putChannels, List.foldl_cons]
    refine (ih _).trans ?_
    rw [State.putLanes_eq]
    rfl

theorem State.putChannels_mem (s : State) (op : Nat) (errs chans : List Nat) : (s.putChannels op errs chans).mem = s.mem := by
  rw [State.putChannels_eq]

theorem State.putChannels_mc (s : State) (op : Nat) (errs chans : List Nat) : (s.putChannels op errs chans).mc = s.mc := by
  rw [State.putChannels_eq]

/-- A register that is no counter of these lanes stays. -/
theorem State.rd_putLanes (s : State) (op : Nat) (errs : List Nat) (c : Nat) (lanes : List Nat) {o : Nat}
    (h : ∀ l ∈ lanes, o ≠ (f_mcTrainErrors_errors c l).off) : (s.putLanes op errs c lanes).rd o = s.rd o := by
  induction lanes generalizing s with
  | nil => rfl
  | cons l t ih =>
    rw [State.putLanes, List.foldl_cons]
    refine (ih _ fun l hl => h l (List.mem_cons_of_mem _ hl)).trans (s.rd_fput_ne _ (h l List.mem_cons_self))

theorem State.rd_putChannels (s : State) (op : Nat) (errs : List Nat) (chans : List Nat) {o : Nat}
    (h : ∀ c ∈ chans, ∀ l ∈ List.range 20, o ≠ (f_mcTrainErrors_errors c l).off) :
    (s.putChannels op errs chans).rd o = s.rd o := by
  induction chans generalizing s with
  | nil => rfl
  | cons c t ih =>
    rw [State.putChannels, List.foldl_cons]
    exact (ih _ fun c hc => h c (List.mem_cons_of_mem _ hc)).trans (s.rd_putLanes _ _ _ _ (h c List.mem_cons_self))

/-- The counter of a lane that is written reads as it was written: the lanes of a list differ. -/
theorem State.fget_putLanes (s : State) (op : Nat) (errs : List Nat) (c : Nat) {lanes : List Nat} (hd : lanes.Nodup) {l : Nat}
    (hl : l ∈ lanes) : (s.putLanes op errs c lanes).fget (f_mcTrainErrors_errors c l) = laneError op errs c l := by
  induction lanes generalizing s with
  | nil => cases hl
  | cons k t ih =>
    obtain ⟨hk, ht⟩ := List.nodup_cons.mp hd
    rw [State.putLanes, List.foldl_cons]
    rcases List.mem_cons.mp hl with rfl | hl
    · refine (State.fget_congr (State.rd_putLanes _ op errs c t fun j hj he => hk ?_)).trans ?_
      · simp only [f_mcTrainErrors_errors] at he
        rwa [show l = j by omega]
      · exact (State.fget_fput_same _ _ _ (Nat.zero_le _) (by simp [f_mcTrainErrors_errors])).trans
          (Nat.mod_eq_of_lt (laneError_lt op errs c l))
    · exact ih _ ht hl

theorem State.fget_putChannels (s : State) (op : Nat) (errs : List Nat) {chans : List Nat} (hd : chans.Nodup) {c l : Nat}
    (hc : c ∈ chans) (hl : l < 20) :
    (s.putChannels op errs chans).fget (f_mcTrainErrors_errors c l) = laneError op errs c l := by
  induction chans generalizing s with
  | nil => cases hc
  | cons k t ih =>
    obtain ⟨hk, ht⟩ := List.nodup_cons.mp hd
    rw [State.putChannels, List.foldl_cons]
    rcases List.mem_cons.mp hc with rfl | hc
    · refine (State.fget_congr (State.rd_putChannels _ op errs t fun j hj m hm he => hk ?_)).trans
        (s.fget_putLanes op errs c List.nodup_range (List.mem_range.mpr hl))
      have hm' := List.mem_range.mp hm
      simp only [f_mcTrainErrors_errors] at he
      rwa [show c = j by omega]
    · exact ih _ ht hc

/-- A comparison or leveling that is done writes its counters. -/
theorem exec_trainingOpDone_of_compare {s : State} {op mask : Nat} (errs : List Nat) (h : s.mc.run = some (op, mask)) (h2 : 2 ≤ op)
    (h5 : op ≤ 5) : exec (.trainingOpDone errs) s = .next (((s.fput f_mcTrainCtrl_start 0).setMc { s.mc with run := none }).putChannels
      op errs ((List.range 24).filter fun c => bit mask c)) := by
  simp only [exec_trainingOpDone, execTrainingOpDone, h]
  rw [if_neg (by omega), if_neg (by omega)]
  rfl

/-- A helper that starts holds its operation and its mask. -/
theorem State.trainWrite_starts {s : State} {mask op : Nat} (hm : mask < 2 ^ 24) (ho : op < 8) (h : s.mc.run = none)
    (ha : s.trainAllowed = true) : (s.trainWrite mask op true).mc.run = some (op, mask) ∧
      (s.trainWrite mask op true).fget f_mcTrainCtrl_start = 1 ∧ (s.trainWrite mask op true).fget f_mcTrainCtrl_op = op ∧
      (s.trainWrite mask op true).fget f_mcTrainCtrl_channel_mask = mask ∧ (s.trainWrite mask op true).mem = s.mem := by
  obtain ⟨hop, hmask⟩ := s.trainCtrl_fields hm ho
  rw [State.trainWrite_of_free _ _ h ha]
  refine ⟨rfl, ?_, ?_, ?_, by simp [State.setMc]⟩
  · rw [State.fget_setMc]
    exact State.fget_fput_same _ _ _ (by decide) (by decide)
  · rw [State.fget_setMc, State.fget_fput_ne _ _ _ _ (by decide) (by decide) (by decide) (by decide), hop]
  · rw [State.fget_setMc, State.fget_fput_ne _ _ _ _ (by decide) (by decide) (by decide) (by decide), hmask]

/-- Settles O40: the helper's start, its counters, and the pattern it lays. -/
theorem trainingHelper : Obligations.TrainingHelper := by
  unfold Obligations.TrainingHelper
  refine ⟨fun s m c op h => ?_, fun s m op errs => ⟨fun h => ?_, fun h h2 h5 => ?_, fun h u hu => ?_⟩⟩
  · obtain ⟨hx, ho⟩ := exec_trainingRow h s
    obtain ⟨hop, hmask⟩ := s.trainCtrl_fields m.isLt ho
    refine ⟨fun hr ha => ⟨_, hx, State.trainWrite_starts m.isLt ho hr ha⟩, fun hb => ⟨_, hx, ?_⟩⟩
    rw [State.trainWrite_of_held _ _ hb]
    exact ⟨rfl, hop, hmask, ((RegsOnly.refl s _).fput (by simp [f_mcTrainCtrl_channel_mask, f_mcTrainCtrl_start]) _).fput
      (by simp [f_mcTrainCtrl_op, f_mcTrainCtrl_start]) _⟩
  · simp only [exec_trainingOpDone, execTrainingOpDone, h]
  · refine ⟨_, exec_trainingOpDone_of_compare errs h h2 h5, ?_, ?_, fun c l hc => ?_, ?_⟩
    · rw [State.putChannels_mc]
      rfl
    · rw [State.fget_congr (State.rd_putChannels _ _ _ _ fun c _ l _ => by simp only [f_mcTrainErrors_errors, f_mcTrainCtrl_start]; omega)]
      exact State.fget_fput_same _ _ _ (by decide) (by decide)
    · exact State.fget_putChannels _ op errs (List.nodup_range.filter _) (List.mem_filter.mpr ⟨List.mem_range.mpr c.isLt, hc⟩) l.isLt
    · rw [State.putChannels_mem]
      rfl
  · subst hu
    simp only [exec_trainingOpDone, execTrainingOpDone, h, if_true]

end Sys2Proof.Machine

/-! ## What requests, refreshes and reports leave of the controller's state (R445, R450, R453, R454) -/

namespace Sys2Proof.Machine

/-- The registers from MC_CTRL to MC_CONFIG, and those of the PG and CRU blocks. -/
abbrev McQuietReg (o : Nat) : Prop := (0x810000 ≤ o ∧ o < 0x810010) ∨ (0x930000 ≤ o ∧ o < 0x950000)

/-- Those registers, the clocks, and who holds the controller in self-refresh, stand in `t` as in `s`. -/
structure McQuiet (s t : State) : Prop where
  rd : ∀ o, McQuietReg o → t.rd o = s.rd o
  causes : t.mc.causes = s.mc.causes
  clk : t.clk = s.clk

namespace McQuiet

theorem refl (s : State) : McQuiet s s := ⟨fun _ _ => rfl, rfl, rfl⟩

theorem trans {s t u : State} (h : McQuiet s t) (h' : McQuiet t u) : McQuiet s u :=
  ⟨fun o ho => (h'.rd o ho).trans (h.rd o ho), h'.causes.trans h.causes, h'.clk.trans h.clk⟩

/-- Nothing but other fields of the state differs. -/
theorem of_eq {s t : State} (hr : t.regs = s.regs) (hc : t.mc.causes = s.mc.causes)
    (hk : t.clk = s.clk) : McQuiet s t :=
  ⟨fun _ _ => by rw [State.rd, hr]; rfl, hc, hk⟩

theorem ite {s t u : State} {c : Prop} [Decidable c] (ht : McQuiet s t) (hu : McQuiet s u) : McQuiet s (if c then t else u) := by
  split <;> assumption

theorem foldl {α : Type} {s t : State} {f : State → α → State} {l : List α} (h : McQuiet s t)
    (hf : ∀ u x, McQuiet s u → McQuiet s (f u x)) : McQuiet s (l.foldl f t) := by
  induction l generalizing t with
  | nil => exact h
  | cons x l ih => exact ih (hf t x h)

theorem wr {s t : State} (h : McQuiet s t) {o : Nat} (ho : ¬McQuietReg o) (v : Word) : McQuiet s (t.wr o v) :=
  h.trans ⟨fun _ hp => t.rd_wr_ne v fun h => ho (h ▸ hp), rfl, rfl⟩

theorem fput {s t : State} (h : McQuiet s t) {f : Fld} (ho : ¬McQuietReg f.off) (v : Nat) :
    McQuiet s (t.fput f v) := h.wr ho _

theorem fsat {s t : State} (h : McQuiet s t) {f : Fld} (ho : ¬McQuietReg f.off) (v : Nat) :
    McQuiet s (t.fsat f v) := h.wr ho _

theorem sediment {s t : State} (h : McQuiet s t) (a b c d : Nat) : McQuiet s (t.sediment' a b c d) :=
  h.trans ⟨fun o ho => t.rd_sediment _ _ _ _ (by simp only [sedRegs, List.mem_cons, List.not_mem_nil, or_false]; omega),
    by rw [State.sediment_mc], State.sediment_clk _ _ _ _ _⟩

theorem raise {s t : State} (h : McQuiet s t) {f : Fld} (ho : ¬McQuietReg f.off) : McQuiet s (t.raise f) := by
  unfold State.raise
  exact ite h ((h.fput ho _).sediment _ _ _ _)

theorem event {s t : State} (h : McQuiet s t) (a b : Nat) (d : List Byte) : McQuiet s (t.event a b d) := by
  have he := t.event_eventsOnly a b d
  refine h.trans ⟨fun o ho => he.rd o (by omega), ?_, ?_⟩ <;> rw [he.eq]

theorem rasEvent {s t : State} (h : McQuiet s t) (a b c : Nat) : McQuiet s (t.rasEvent a b c) := h.trans (of_eq rfl rfl rfl)

/-- A report of the memory's class counts in its window; no core belongs to it. -/
theorem report {s t : State} (h : McQuiet s t) (idx code data : Nat) : McQuiet s (t.report 5 idx code data) := by
  have h0 : McQuiet s (t.sediment' 5 idx code data) := h.sediment _ _ _ _
  unfold State.report State.rasCount
  extract_lets u win thr u' last s1 f s2 s3
  have h1 : McQuiet s s1 := h0.trans (of_eq rfl rfl rfl)
  have h2 : McQuiet s s2 := (h1.fput (by simp only [f, f_rasLasting_lasting]; omega) _).fput (by simp [f_rasEvent_lasting]) _
  have h3 : McQuiet s s3 := (h2.sediment _ _ _ _).rasEvent _ _ _
  refine ite h0 (ite h1 ?_)
  change McQuiet s (if 5 = 9 then _ else s3)
  rw [if_neg (by decide)]
  exact h3

theorem writeBack {s t : State} (h : McQuiet s t) (a : Nat) (r : LineRead) : McQuiet s (t.writeBack a r) := by
  refine h.trans (of_eq ?_ ?_ ?_) <;> rw [State.writeBack_eq]

/-- The log of an uncorrectable error stands outside MC_CTRL to MC_CONFIG. -/
theorem errLog {s t : State} (h : McQuiet s t) (ch bank row link port line word syn : Nat) : McQuiet s
    (((((((((t.fput f_mcErrLog_channel ch).fput f_mcErrLog_bank bank).fput f_mcErrLog_row row).fput f_mcErrLog_link link).fput
      f_mcErrLog_valid 1).fput f_mcErrLog_port port).fput f_mcErrLog_line line).fput f_mcErrLog_word word).fput f_mcErrLog_syndrome syn) :=
  ((((((((h.fput (by decide) _).fput (by decide) _).fput (by decide) _).fput (by decide) _).fput (by decide) _).fput
    (by decide) _).fput (by decide) _).fput (by decide) _).fput (by decide) _

theorem flag {s t : State} (h : McQuiet s t) {f : Fld} (ho : ¬McQuietReg f.off) : McQuiet s (t.flag f) := h.fput ho _

theorem mcEccEffects {s t : State} (h : McQuiet s t) (a port : Nat) (r : LineRead) : McQuiet s (t.mcEccEffects a port r) := by
  have hbad : ∀ u, McQuiet s u → McQuiet s (u.flag f_mcEvent_uncorrectable) := fun u hu => hu.flag (by decide)
  have hcorr : McQuiet s (((t.flag f_mcEvent_inline_corrected).fsat f_mcCorrCount_inline r.corrected.length)) :=
    (h.flag (by decide)).fsat (by decide) _
  rw [State.mcEccEffects]
  rcases hc : r.corrected with _ | ⟨x, xs⟩ <;> rcases hb : r.bad with _ | ⟨y, ys⟩
  · exact h
  · exact report (ite (hbad _ h) (errLog (hbad _ h) _ _ _ _ _ _ _ _)) _ _ _
  · rw [hc] at hcorr
    exact (hcorr.report _ _ _).writeBack _ _
  · rw [hc] at hcorr
    have h2 := hbad _ ((hcorr.report (t.lpPlace a).1 0x0001 (x :: xs).length).writeBack a r)
    exact report (ite h2 (errLog h2 _ _ _ _ _ _ _ _)) _ _ _

theorem setMc {s t : State} (h : McQuiet s t) {m : McRt} (hm : m.causes = t.mc.causes) : McQuiet s (t.setMc m) :=
  h.trans (of_eq rfl hm rfl)

theorem lpRead {s t : State} (h : McQuiet s t) (slot a n port : Nat) : McQuiet s (t.lpRead slot a n port).2.2 := by
  have hfold : ∀ (f : Bool × State → Nat → Bool × State) (l : List Nat) (x : Bool × State), McQuiet s x.2 →
      (∀ x i, McQuiet s x.2 → McQuiet s (f x i).2) → McQuiet s (l.foldl f x).2 := by
    intro f l
    induction l with
    | nil => exact fun x hx _ => hx
    | cons i l ih => exact fun x hx hf => ih _ (hf x i hx) hf
  unfold State.lpRead
  extract_lets d x
  split
  · exact h
  · refine hfold _ _ _ h fun x i hx => ?_
    dsimp only
    split
    · exact hx
    · exact hx.mcEccEffects _ _ _

theorem mcDeliver {s t : State} (h : McQuiet s t) (r : McReq) (link : Nat) (bad poison : Bool) :
    McQuiet s (t.mcDeliver r link bad poison) := by
  have hbad : ∀ u, McQuiet s u → McQuiet s (u.flag f_mcEvent_uncorrectable) := fun u hu => hu.flag (by decide)
  unfold State.mcDeliver
  extract_lets s1 t1 pl u1 u2 t2 s2 d m
  have h1 : McQuiet s s1 := ite h (((h.flag (by decide)).fsat (by decide) _).report _ _ _)
  have h2 : McQuiet s t2 := ite (hbad _ h1) (errLog (hbad _ h1) _ _ _ _ _ _ _ _)
  have h3 : McQuiet s s2 := ite h1 (h2.report _ _ _)
  exact ite h3 ((h3.lpRead _ _ _ _).setMc rfl)

theorem lpStoreLine {s t : State} (h : McQuiet s t) (tag a : Nat) (d : List Byte) : McQuiet s (t.lpStoreLine tag a d) := by
  have he := (EventsOnly.refl t).lpStoreLine tag a d
  refine h.trans ⟨fun o ho => he.rd o (by omega), ?_, ?_⟩ <;> rw [he.eq]

theorem mcAccept {s t : State} (h : McQuiet s t) (r : McReq) : McQuiet s (t.mcAccept r) := by
  unfold State.mcAccept
  extract_lets eff r' m s1
  have h1 : McQuiet s s1 := h.setMc rfl
  exact ite h1 (h1.foldl fun _ _ hu => ite (hu.lpStoreLine _ _ _) hu)

theorem mcPull {s t : State} (h : McQuiet s t) : McQuiet s t.mcPull := by
  unfold State.mcPull
  refine ite h (h.foldl fun u x hu => ite (mcAccept (hu.setMc ?_) _) hu)
  rfl

end McQuiet

end Sys2Proof.Machine

/-! ## Refresh, rates, drift, power-down and self-refresh (O38, R449, R450, R455, R457, R458) -/

namespace Sys2Proof.Machine

/-- MC_STATUS reads self-refresh, in bypass where the memory PLL asked (R456). -/
def State.putSelfRefresh (s : State) (actor : Nat) : State :=
  if actor = 2 then ((s.fput f_mcStatus_state 3).fput f_mcStatus_bypass 1).raise f_mcEvent_bypass_entry
  else s.fput f_mcStatus_state 3

theorem State.fget_putSelfRefresh (s : State) (actor : Nat) : (s.putSelfRefresh actor).fget f_mcStatus_state = 3 := by
  rw [State.putSelfRefresh]
  split
  · rw [State.fget_congr (State.rd_raise _ _ (by decide) (by decide)),
      State.fget_fput_ne _ _ _ _ (by decide) (by decide) (by decide) (by decide)]
    exact State.fget_fput_same _ _ _ (by decide) (by decide)
  · exact State.fget_fput_same _ _ _ (by decide) (by decide)

theorem State.rd_putSelfRefresh_ctrl (s : State) (actor : Nat) :
    (s.putSelfRefresh actor).rd f_mcCtrl_enable.off = s.rd f_mcCtrl_enable.off := by
  rw [State.putSelfRefresh]
  split
  · rw [State.rd_raise _ _ (by decide) (by decide), State.rd_fput_ne _ _ (by decide), State.rd_fput_ne _ _ (by decide)]
  · exact State.rd_fput_ne _ _ (by decide)

/-- Who holds the controller in self-refresh, an actor added. -/
def State.addCause (s : State) (actor : Nat) : State :=
  s.setMc { s.mc with causes := if s.mc.causes.contains actor then s.mc.causes else s.mc.causes ++ [actor] }

theorem State.mem_causes_addCause (s : State) (actor : Nat) : actor ∈ (s.addCause actor).mc.causes := by
  change actor ∈ (if s.mc.causes.contains actor then s.mc.causes else s.mc.causes ++ [actor])
  split
  next h => exact List.contains_iff_mem.mp h
  next => exact List.mem_append_right _ List.mem_cons_self

@[simp] theorem State.fget_addCause (s : State) (actor : Nat) (f : Fld) : (s.addCause actor).fget f = s.fget f := rfl

/-- Out of training an actor's request enters self-refresh from service, and joins it there. -/
theorem State.srEnter_of_up (s : State) (actor : Nat) (h : 2 ≤ s.fget f_mcStatus_state) :
    (s.fget f_mcStatus_state = 3 → s.srEnter actor = s.addCause actor) ∧
      (s.fget f_mcStatus_state ≠ 3 → ∃ u, McQuiet s u ∧ s.srEnter actor = (u.putSelfRefresh actor).addCause actor) := by
  have h01 : ¬(s.fget f_mcStatus_state = 0 ∨ s.fget f_mcStatus_state = 1) := by omega
  refine ⟨fun h3 => ?_, fun h3 => ?_⟩
  · simp only [State.srEnter, if_neg h01, if_pos h3]
    rfl
  · simp only [State.srEnter, if_neg h01, if_neg h3]
    refine ⟨_, ?_, rfl⟩
    exact McQuiet.foldl (McQuiet.of_eq rfl rfl rfl) fun _ _ hu => hu.mcDeliver _ _ _ _

theorem State.srEnter_of_training (s : State) (actor : Nat) (h : s.fget f_mcStatus_state < 2) : s.srEnter actor = s :=
  if_pos (by omega)

theorem State.mem_causes_srEnter (s : State) (actor : Nat) (h : 2 ≤ s.fget f_mcStatus_state) :
    actor ∈ (s.srEnter actor).mc.causes := by
  by_cases h3 : s.fget f_mcStatus_state = 3
  · rw [(s.srEnter_of_up actor h).1 h3]
    exact s.mem_causes_addCause actor
  · obtain ⟨u, -, hu⟩ := (s.srEnter_of_up actor h).2 h3
    rw [hu]
    exact State.mem_causes_addCause _ actor

theorem State.fget_state_srEnter (s : State) (actor : Nat) (h : s.fget f_mcStatus_state = 2) :
    (s.srEnter actor).fget f_mcStatus_state = 3 := by
  obtain ⟨u, -, hu⟩ := (s.srEnter_of_up actor (by omega)).2 (by omega)
  rw [hu, State.fget_addCause, State.fget_putSelfRefresh]

/-- An entry leaves MC_CTRL as it was. -/
theorem State.rd_ctrl_srEnter (s : State) (actor : Nat) : (s.srEnter actor).rd f_mcCtrl_enable.off = s.rd f_mcCtrl_enable.off := by
  rcases Nat.lt_or_ge (s.fget f_mcStatus_state) 2 with h | h
  · rw [s.srEnter_of_training actor h]
  · by_cases h3 : s.fget f_mcStatus_state = 3
    · rw [(s.srEnter_of_up actor h).1 h3]
      rfl
    · obtain ⟨u, hq, hu⟩ := (s.srEnter_of_up actor h).2 h3
      rw [hu]
      exact (State.rd_putSelfRefresh_ctrl _ _).trans (hq.rd _ (by decide))

/-- The requests of one actor withdrawn. -/
def State.dropCause (s : State) (actor : Nat) : State := s.setMc { s.mc with causes := s.mc.causes.filter fun c => c != actor }

theorem State.not_mem_dropCause (s : State) (actor : Nat) : actor ∉ (s.dropCause actor).mc.causes := fun h =>
  absurd rfl (bne_iff_ne.mp (List.mem_filter.mp h).2)

/-- The last actor's exit returns the channels to service, and what waits at the ports is taken. -/
theorem State.srExit_of_last (s : State) {actor : Nat} (h : s.fget f_mcStatus_state = 3) (hall : ∀ c ∈ s.mc.causes, c = actor)
    (hne : s.mc.causes ≠ []) :
    s.srExit actor = (((s.dropCause actor).fput f_mcStatus_state 2).fput f_mcStatus_bypass 0).mcPull := by
  refine if_pos ⟨h, ?_, hne⟩
  rw [List.filter_eq_nil_iff]
  simpa using hall

/-- An earlier exit leaves the channels where they stand. -/
theorem State.srExit_of_not_last (s : State) {actor : Nat} (h : ∃ c ∈ s.mc.causes, c ≠ actor) : s.srExit actor = s.dropCause actor := by
  obtain ⟨c, hc, hca⟩ := h
  refine if_neg fun ⟨_, hnil, _⟩ => ?_
  exact absurd (List.filter_eq_nil_iff.mp hnil c hc) (by simpa using hca)

theorem State.not_mem_causes_srExit (s : State) (actor : Nat) : actor ∉ (s.srExit actor).mc.causes := by
  rw [State.srExit]
  dsimp only
  split
  · rw [((McQuiet.refl _).mcPull).causes]
    exact s.not_mem_dropCause actor
  · exact s.not_mem_dropCause actor

/-- A port with nothing waiting takes nothing. -/
theorem State.mcPull_of_held_nil (s : State) (h : s.mc.held = []) : s.mcPull = s := by
  rw [State.mcPull, h]
  split <;> rfl

theorem State.srExit_last_fields (s : State) {actor : Nat} (h : s.fget f_mcStatus_state = 3) (hall : ∀ c ∈ s.mc.causes, c = actor)
    (hne : s.mc.causes ≠ []) : (s.srExit actor).fget f_mcStatus_state = 2 ∧ (s.srExit actor).fget f_mcStatus_bypass = 0 ∧
      (s.mc.held = [] → (s.srExit actor).mem = s.mem) := by
  rw [s.srExit_of_last h hall hne]
  have hq := (McQuiet.refl (((s.dropCause actor).fput f_mcStatus_state 2).fput f_mcStatus_bypass 0)).mcPull
  refine ⟨?_, ?_, fun hh => ?_⟩
  · rw [State.fget_congr (hq.rd _ (by decide)), State.fget_fput_ne _ _ _ _ (by decide) (by decide) (by decide) (by decide)]
    exact State.fget_fput_same _ _ _ (by decide) (by decide)
  · rw [State.fget_congr (hq.rd _ (by decide))]
    exact State.fget_fput_same _ _ _ (by decide) (by decide)
  · rw [State.mcPull_of_held_nil (((s.dropCause actor).fput f_mcStatus_state 2).fput f_mcStatus_bypass 0) hh]
    rfl

/-! The rates of MR4 (R449). -/

/-- The rates of the channels as a poll gives them. -/
def pollRates (rates : List (Fin 3)) (l : List Nat) (m : Sparse Nat) : Sparse Nat :=
  l.foldl (fun m c => mapSet (fun _ => 0) m c ((rates[c]?.map (·.val)).getD 0)) m

theorem mapGet_pollRates (rates : List (Fin 3)) (l : List Nat) (m : Sparse Nat) {k : Nat} (hk : k ∈ l) :
    mapGet (fun _ => 0) (pollRates rates l m) k = (rates[k]?.map (·.val)).getD 0 := by
  induction l generalizing m with
  | nil => cases hk
  | cons c l ih =>
    rw [pollRates, List.foldl_cons]
    by_cases h : k ∈ l
    · exact ih _ h
    · obtain rfl := (List.mem_cons.mp hk).resolve_right h
      have hother : ∀ (l : List Nat) (m : Sparse Nat), k ∉ l → mapGet (fun _ => 0) (pollRates rates l m) k = mapGet (fun _ => 0) m k := by
        intro l
        induction l with
        | nil => exact fun m _ => rfl
        | cons d l ih =>
          intro m hd
          rw [List.mem_cons, not_or] at hd
          rw [pollRates, List.foldl_cons]
          exact (ih _ hd.2).trans (mapGet_set_ne _ _ _ hd.1)
      exact (hother l _ h).trans (mapGet_set_same _ _ _ _)

theorem State.limitEvent_mc (s : State) (kind unit value : Nat) (active : Bool) : (s.limitEvent kind unit value active).mc = s.mc := by
  unfold State.limitEvent
  extract_lets key at_ put now s1
  have hput : ∀ u k v, (put u k v).mc = u.mc := fun u k v => rfl
  split
  · exact hput _ _ _
  · split
    · rfl
    · split
      · exact hput _ _ _
      · rw [(State.event_eventsOnly _ _ _ _).eq]

theorem State.foldl_limitEvent_mc (s : State) (l : List Nat) (f : Nat → Bool) :
    (l.foldl (fun (s : State) c => s.limitEvent 8 c 977 (f c)) s).mc = s.mc := by
  induction l generalizing s with
  | nil => rfl
  | cons c l ih => exact (ih _).trans (State.limitEvent_mc _ _ _ _ _)

/-- The state whose channels have been polled, the driver told of the hot ones and the memory not yet marked. -/
def State.polled (s : State) (m : Sparse Nat) : State :=
  (List.range 24).foldl (fun (s : State) c => s.limitEvent 8 c 977 (mapGet (fun _ => 0) m c == 2)) (s.setMc { s.mc with mr4 := m })

theorem State.polled_mr4 (s : State) (m : Sparse Nat) : (s.polled m).mc.mr4 = m := by
  rw [State.polled, State.foldl_limitEvent_mc]
  rfl

theorem exec_mr4Poll_eq {s : State} (h : s.mcUp = true) (rates : List (Fin 3)) {m : Sparse Nat}
    (hm : m = pollRates rates (List.range 24) s.mc.mr4) :
    exec (.mr4Poll rates) s = .next (if (List.range 24).any (fun c => mapGet (fun _ => 0) m c == 2) then
      (s.polled m).raise f_mcEvent_dram_hot else s.polled m) := by
  rw [exec_mr4Poll, execMr4Poll, if_neg (by rw [h]; decide), hm]
  rfl

/-- A poll takes every channel's rate, and one of 2 marks the memory hot. -/
theorem exec_mr4Poll_of_up {s : State} (h : s.mcUp = true) (rates : List (Fin 3)) :
    Answers (.mr4Poll rates) s fun t => (∀ k : Fin 24, mapGet (fun _ => 0) t.mc.mr4 k.val = (rates[k.val]?.map (·.val)).getD 0) ∧
      ((∃ k : Fin 24, rates[k.val]? = some 2) → t.fbit f_mcEvent_dram_hot = true) := by
  obtain ⟨m, hm⟩ : ∃ m, m = pollRates rates (List.range 24) s.mc.mr4 := ⟨_, rfl⟩
  have hrate : ∀ k : Fin 24, mapGet (fun _ => 0) m k.val = (rates[k.val]?.map (·.val)).getD 0 := fun k => by
    rw [hm]
    exact mapGet_pollRates rates _ _ (List.mem_range.mpr k.isLt)
  refine ⟨_, exec_mr4Poll_eq h rates hm, fun k => ?_, fun ⟨k, hk⟩ => ?_⟩
  · rw [← hrate k]
    split
    · rw [State.raise_mc, State.polled_mr4]
    · rw [State.polled_mr4]
  · rw [if_pos]
    · exact State.fbit_raise _ _ rfl (by decide) (by decide)
    · rw [List.any_eq_true]
      refine ⟨k.val, List.mem_range.mpr k.isLt, ?_⟩
      rw [hrate k, hk]
      rfl

/-! The other upkeep. -/

theorem State.bit_powerDown (x c : Nat) : bit (x ||| 2 ^ c) c = true := by
  rw [bit_eq_testBit, Nat.testBit_or, Nat.testBit_two_pow_self, Bool.or_true]

/-- Out of service none of the upkeep's rows changes anything. -/
theorem exec_upkeep_of_down {s : State} (h : s.mcUp = false) (c : Fin 24) (drift : Int) (rates : List (Fin 3)) :
    exec (.refreshDue c) s = .next s ∧ (∀ b, exec (.oscillatorSample c drift b) s = .next s) ∧
      exec (.powerDownIdle c) s = .next s ∧ exec (.mr4Poll rates) s = .next s := by
  simp only [exec_refreshDue, execRefreshDue, exec_oscillatorSample, execOscillatorSample, exec_powerDownIdle, execPowerDownIdle,
    exec_mr4Poll, execMr4Poll, h, Bool.not_false, Bool.true_or, if_true, implies_true, and_self]

/-- An oscillator sample of a controller in service (R458). -/
theorem exec_oscillatorSample_of_up {s : State} (h : s.mcUp = true) (c : Fin 24) (drift : Int) (beyond : Bool) {s1 : State}
    (hs1 : s1 = s.setMc { s.mc with drift := mapSet (fun _ => 0) s.mc.drift c.val drift, retrain := s.mc.retrain || beyond }) :
    exec (.oscillatorSample c drift beyond) s =
      .next (if beyond then (s1.raise f_mcEvent_drift_limit).event 0x60 0xFF (leBytes 4 (2 ^ c.val)) else s1) := by
  simp only [exec_oscillatorSample, execOscillatorSample, h, Bool.not_true, Bool.false_eq_true, if_false, hs1]

/-- The firmware's request and its withdrawal pass through MC_CTRL.sr_req, another actor's does not. -/
theorem State.fget_state_srReq (s : State) (c : Prop) [Decidable c] (v : Nat) :
    (if c then s.fput f_mcCtrl_sr_req v else s).fget f_mcStatus_state = s.fget f_mcStatus_state := by
  split
  · exact State.fget_fput_off _ _ (by decide)
  · rfl

theorem State.srReq_mem_mc (s : State) (c : Prop) [Decidable c] (v : Nat) :
    (if c then s.fput f_mcCtrl_sr_req v else s).mem = s.mem ∧ (if c then s.fput f_mcCtrl_sr_req v else s).mc = s.mc := by
  split <;> exact ⟨rfl, rfl⟩

/-- Settles O38: the upkeep of a controller in service, and the actors of self-refresh. -/
theorem memoryUpkeep : Obligations.MemoryUpkeep := by
  unfold Obligations.MemoryUpkeep
  refine ⟨fun s c drift rates => ⟨fun h => ⟨?_, ?_, fun u hu => ?_, fun hpd hreq => ?_, exec_mr4Poll_of_up h rates⟩, fun h => ?_,
      fun h => exec_upkeep_of_down h c drift rates⟩,
    fun s a => ⟨fun h => ⟨_, rfl, ?_, fun h2 => ?_⟩, fun h => ⟨fun ha => ?_, fun ha => ?_⟩, fun ha => if_pos ha, fun ha => ⟨_, if_neg ha, ?_, fun h3 hall hne => ?_, fun hc => ?_⟩⟩⟩
  · simp only [exec_refreshDue, execRefreshDue, h, Bool.not_true, Bool.false_eq_true, if_false]
  · refine ⟨_, (exec_oscillatorSample_of_up h c drift false rfl).trans (congrArg _ (if_neg Bool.false_ne_true)),
      mapGet_set_same _ _ _ _, Bool.or_false _, rfl⟩
  · rw [exec_oscillatorSample_of_up h c drift true (hu.trans (by rw [Bool.or_true])), if_pos rfl]
  · refine ⟨s.setMc { s.mc with powerDown := s.mc.powerDown ||| 2 ^ c.val }, ?_, State.bit_powerDown _ _, rfl⟩
    simp only [exec_powerDownIdle, execPowerDownIdle, h, hpd, hreq, Bool.not_true, Bool.or_self, Bool.false_eq_true, if_false]
  · refine if_pos ?_
    rcases h with h | h <;> simp [h]
  · exact State.mem_causes_srEnter _ _ (by rwa [State.fget_state_srReq])
  · exact State.fget_state_srEnter _ _ (by rwa [State.fget_state_srReq])
  · rw [exec_selfRefreshRequest, execSelfRefreshRequest, State.srEnter_of_training _ _ (by rwa [State.fget_state_srReq]), if_pos ha]
  · rw [exec_selfRefreshRequest, execSelfRefreshRequest, State.srEnter_of_training _ _ (by rwa [State.fget_state_srReq]), if_neg ha]
  · exact State.not_mem_causes_srExit _ _
  · obtain ⟨hmem, hmc⟩ := s.srReq_mem_mc (a.val = 0) 0
    have hx := State.srExit_last_fields (if a.val = 0 then s.fput f_mcCtrl_sr_req 0 else s) (actor := a.val)
      (by rwa [State.fget_state_srReq]) (by rwa [hmc]) (by rwa [hmc])
    rwa [hmc, hmem] at hx
  · obtain ⟨hmem, hmc⟩ := s.srReq_mem_mc (a.val = 0) 0
    rw [State.srExit_of_not_last _ (by rwa [hmc])]
    exact ⟨State.fget_state_srReq s _ 0, hmem⟩

end Sys2Proof.Machine

/-! ## Configuration of the memory controller (O39, R446, R447, R455, R461, R463, R466) -/

namespace Sys2Proof.Machine

/-! MC_CONFIG. -/

theorem State.mcConfigWrite_of_bad {s : State} {v : Word} (h : densityOk (bits v.toNat 17 0) = false) :
    s.mcConfigWrite v = s.raise f_mcEvent_config_refused := by
  rw [State.mcConfigWrite, h]
  rfl

theorem State.mcConfigWrite_of_on {s : State} {v : Word} (h : densityOk (bits v.toNat 17 0) = true) (hon : s.fbit f_mcCtrl_enable = true) :
    s.mcConfigWrite v = s.fput f_mcConfig_rate_target (bits v.toNat 19 18) := by
  simp only [State.mcConfigWrite, h, hon, Bool.not_true, Bool.false_eq_true, if_false, if_true]

/-- A good MC_CONFIG out of service is stored, and the first one begins training (R459). -/
theorem State.mcConfigWrite_of_off {s : State} {v : Word} (h : densityOk (bits v.toNat 17 0) = true) (hoff : s.fbit f_mcCtrl_enable = false)
    {s2 : State} (hs2 : s2 = (s.fput f_mcConfig_rate_target (bits v.toNat 19 18)).fput f_mcConfig_density (bits v.toNat 17 0)) :
    s.mcConfigWrite v = if s.fget f_mcStatus_state = 0 then s2.fput f_mcStatus_state 1 else s2 := by
  have hst : s2.fget f_mcStatus_state = s.fget f_mcStatus_state := by
    rw [hs2, State.fget_fput_off _ _ (by decide), State.fget_fput_off _ _ (by decide)]
  rw [← hst]
  simp only [State.mcConfigWrite, h, hoff, Bool.not_true, Bool.false_eq_true, if_false, hs2]

theorem mcConfigWrite_of_off_answers {s : State} {v : Word} (h : densityOk (bits v.toNat 17 0) = true)
    (hoff : s.fbit f_mcCtrl_enable = false) :
    Answers (.mcConfigWrite v) s fun t => t.fget f_mcConfig_density = bits v.toNat 17 0 ∧
      t.fget f_mcConfig_rate_target = bits v.toNat 19 18 ∧
      t.fget f_mcStatus_state = (if s.fget f_mcStatus_state = 0 then 1 else s.fget f_mcStatus_state) ∧
      RegsOnly s t [f_mcConfig_density.off, f_mcStatus_state.off] := by
  obtain ⟨s2, hs2⟩ : ∃ s2, s2 = (s.fput f_mcConfig_rate_target (bits v.toNat 19 18)).fput f_mcConfig_density (bits v.toNat 17 0) := ⟨_, rfl⟩
  have hd : s2.fget f_mcConfig_density = bits v.toNat 17 0 := by
    rw [hs2]
    exact (State.fget_fput_same _ _ _ (by decide) (by decide)).trans (Nat.mod_eq_of_lt (bits_lt _ 17 0))
  have hr : s2.fget f_mcConfig_rate_target = bits v.toNat 19 18 := by
    rw [hs2, State.fget_fput_ne _ _ _ _ (by decide) (by decide) (by decide) (by decide)]
    exact (State.fget_fput_same _ _ _ (by decide) (by decide)).trans (Nat.mod_eq_of_lt (bits_lt _ 19 18))
  have hst : s2.fget f_mcStatus_state = s.fget f_mcStatus_state := by
    rw [hs2, State.fget_fput_off _ _ (by decide), State.fget_fput_off _ _ (by decide)]
  have hregs : RegsOnly s s2 [f_mcConfig_density.off, f_mcStatus_state.off] := by
    rw [hs2]
    exact ((RegsOnly.refl s _).fput (by decide) _).fput (by decide) _
  refine ⟨_, congrArg Host.Outcome.next (State.mcConfigWrite_of_off h hoff hs2), ?_⟩
  split
  · exact ⟨(State.fget_fput_off _ _ (by decide)).trans hd, (State.fget_fput_off _ _ (by decide)).trans hr,
      State.fget_fput_same _ _ _ (by decide) (by decide), hregs.fput (by decide) _⟩
  · exact ⟨hd, hr, hst, hregs⟩

/-! MC_PORT. -/

/-- What has MC_PORT refused (R446, R447). -/
def State.portRefused (s s1 : State) (v : Word) : Prop :=
  bits v.toNat 16 12 = 0 ∨ 16 < bits v.toNat 16 12 ∨ 64 < s1.mcCredits ∨ (s.fbit f_mcCtrl_enable = true ∧ ∃ q : Fin 10, s1.mcTarget q.val < s1.mcFloor)

theorem State.any_target_iff (s : State) :
    (List.range 10).any (fun q => s.mcTarget q < s.mcFloor) = true ↔ ∃ q : Fin 10, s.mcTarget q.val < s.mcFloor := by
  simp only [List.any_eq_true, List.mem_range, decide_eq_true_eq]
  exact ⟨fun ⟨q, hq, h⟩ => ⟨⟨q, hq⟩, h⟩, fun ⟨q, h⟩ => ⟨q.val, q.isLt, h⟩⟩

theorem State.mcPortWrite_of_refused {s : State} {p : Nat} {v : Word} (h : s.portRefused (s.writeReg (f_mcPort_target p).off v) v) :
    s.mcPortWrite p v = s.raise f_mcEvent_qos_refused := by
  refine if_pos ?_
  rw [State.any_target_iff]
  exact h

theorem State.mcPortWrite_of_taken {s : State} {p : Nat} {v : Word} {s1 : State} (hs1 : s1 = s.writeReg (f_mcPort_target p).off v)
    (h : ¬s.portRefused s1 v) :
    (s.fbit f_mcCtrl_enable = false → s.mcPortWrite p v = s1) ∧
      (s.fbit f_mcCtrl_enable = true → ∀ s2, s2 = s1.setMc { s1.mc with eff := mapSet (fun _ => 0) s1.mc.eff p (s1.mcTarget p) } →
        s.mcPortWrite p v = ((s2.fput f_mcStatus_u_ns (urgentNs s2.mcUrgent)).mcRaised).mcPull) := by
  have hcond : ¬(bits v.toNat 16 12 = 0 ∨ 16 < bits v.toNat 16 12 ∨ 64 < s1.mcCredits ∨
      (s.fbit f_mcCtrl_enable = true ∧ (List.range 10).any (fun q => s1.mcTarget q < s1.mcFloor) = true)) := by
    rw [State.any_target_iff]
    exact h
  subst hs1
  refine ⟨fun hoff => ?_, fun hon s2 hs2 => ?_⟩
  · refine (if_neg hcond).trans (if_pos ?_)
    rw [hoff]
    rfl
  · subst hs2
    refine (if_neg hcond).trans (if_neg ?_)
    rw [hon]
    exact Bool.false_ne_true

/-! MC_CTRL. -/

/-- Fields stored above a field leave it. -/
theorem bits_foldl_setBits (l : List RegField) (g : RegField → Nat) (x : Nat) {hi lo : Nat} (h : lo ≤ hi)
    (hl : ∀ f ∈ l, hi < f.lo ∧ f.lo ≤ f.hi) : bits (l.foldl (fun a f => setBits a f.hi f.lo (g f)) x) hi lo = bits x hi lo := by
  induction l generalizing x with
  | nil => rfl
  | cons f l ih =>
    obtain ⟨h1, h2⟩ := hl f List.mem_cons_self
    rw [List.foldl_cons, ih _ fun k hk => hl k (List.mem_cons_of_mem _ hk), bits_setBits_below _ _ h2 h h1]

/-- The first field of a row after a write of the register (R9). -/
theorem bits_rowWrite_head {r : RegRow} {f : RegField} {fs : List RegField} (hr : r.fields = f :: fs) (hf : f.lo ≤ f.hi)
    (hfs : ∀ g ∈ fs, f.hi < g.lo ∧ g.lo ≤ g.hi) (hk : f.kind = .rw) (old v : Nat) :
    bits (rowWrite r old v) f.hi f.lo = bits v f.hi f.lo := by
  rw [rowWrite, hr, List.foldl_cons, bits_foldl_setBits _ _ _ hf hfs, bits_setBits_same _ _ hf, hk]
  exact Nat.mod_eq_of_lt (bits_lt _ _ _)

/-- A register whose lowest bit is a plain field reads it as written. -/
theorem State.fbit_writeReg {s : State} {f : Fld} {r : RegRow} {g : RegField} {fs : List RegField} (hrow : findRow f.off = some r)
    (hr : r.fields = g :: fs) (hg : g.hi = 0 ∧ g.lo = 0) (hf : f.hi = 0 ∧ f.lo = 0) (hfs : ∀ k ∈ fs, 0 < k.lo ∧ k.lo ≤ k.hi)
    (hk : g.kind = .rw) (v : Word) : (s.writeReg f.off v).fbit f = bit v.toNat 0 := by
  obtain ⟨hhi, hlo⟩ := hg
  have hrw := bits_rowWrite_head hr (by omega) (by rwa [hhi]) hk (s.rd f.off).toNat v.toNat
  rw [hhi, hlo] at hrw
  have hw : s.writeReg f.off v = s.wr f.off (BitVec.ofNat 32 (rowWrite r (s.rd f.off).toNat v.toNat)) := by
    rw [State.writeReg, hrow]
  have hb : bits (BitVec.ofNat 32 (rowWrite r (s.rd f.off).toNat v.toNat)).toNat 0 0 = bits v.toNat 0 0 := by
    rw [← hrw, BitVec.toNat_ofNat]
    simp only [bits]
    omega
  rw [hw, State.fbit, State.fget, State.rd_wr_same, hf.1, hf.2, hb]
  rfl

/-- MC_CTRL stored with enable set reads so, whatever inline_ecc keeps. -/
theorem State.mcCtrl_stored_enable (s : State) {v : Word} (hv : bit v.toNat 0 = true) (inl : Nat) :
    ((s.writeReg f_mcCtrl_enable.off v).fput f_mcCtrl_inline_ecc inl).fbit f_mcCtrl_enable = true := by
  have hrow : findRow f_mcCtrl_enable.off = regRows_mc.head? := by decide +kernel
  rw [State.fbit, State.fget_fput_ne _ _ _ _ (by decide) (by decide) (by decide) (by decide)]
  exact (State.fbit_writeReg hrow rfl ⟨rfl, rfl⟩ ⟨rfl, rfl⟩ (by decide) rfl v).trans hv

/-- The registers that the rise of enable sets besides MC_CTRL, and its effective targets (R447). -/
def State.mcRise (s : State) (inl : Nat) : State :=
  let s2 := (s.fput f_mcStatus_rate (s.fget f_mcConfig_rate_target)).fput f_mcStatus_state 2
  let s2 := s2.setMc { s2.mc with
    retrain := false, drift := [], inlineNow := inl == 1,
    era := if s2.mc.inlineNow == (inl == 1) then s2.mc.era else s2.mc.era + 1,
    eff := (List.range 10).foldl (fun (m : Sparse Nat) p => mapSet (fun _ => 0) m p (max (s2.mcTarget p) s2.mcFloor)) [] }
  let s3 := (s2.fput f_mcStatus_u_ns (urgentNs s2.mcUrgent)).mcRaised
  if (List.range 10).any fun p => s3.mcTarget p < s3.mcFloor then s3.raise f_mcEvent_qos_refused else s3

theorem State.rd_setMc (s : State) (m : McRt) (o : Nat) : (s.setMc m).rd o = s.rd o := rfl

theorem State.mcRise_fields (s : State) (inl : Nat) :
    (s.mcRise inl).rd f_mcCtrl_enable.off = s.rd f_mcCtrl_enable.off ∧ (s.mcRise inl).fget f_mcStatus_state = 2 := by
  unfold State.mcRise
  extract_lets s1 src s2 s3
  have h1 : s1.rd f_mcCtrl_enable.off = s.rd f_mcCtrl_enable.off ∧ s1.fget f_mcStatus_state = 2 :=
    ⟨by rw [State.rd_fput_ne _ _ (by decide), State.rd_fput_ne _ _ (by decide)], State.fget_fput_same _ _ _ (by decide) (by decide)⟩
  have h2 : s2.rd f_mcCtrl_enable.off = s.rd f_mcCtrl_enable.off ∧ s2.fget f_mcStatus_state = 2 :=
    ⟨(State.rd_setMc s1 _ _).trans h1.1, (State.fget_setMc s1 _ _).trans h1.2⟩
  have h3 : s3.rd f_mcCtrl_enable.off = s.rd f_mcCtrl_enable.off ∧ s3.fget f_mcStatus_state = 2 := by
    refine ⟨?_, ?_⟩
    · exact (State.rd_fput_ne _ _ (by decide)).trans ((State.rd_fput_ne _ _ (by decide)).trans h2.1)
    · exact (State.fget_fput_ne _ _ _ _ (by decide) (by decide) (by decide) (by decide)).trans
        ((State.fget_fput_ne _ _ _ _ (by decide) (by decide) (by decide) (by decide)).trans h2.2)
  split
  · exact ⟨(State.rd_raise _ _ (by decide) (by decide)).trans h3.1, (State.fget_congr (State.rd_raise _ _ (by decide) (by decide))).trans h3.2⟩
  · exact h3

theorem State.rd_ctrl_srExit (s : State) (actor : Nat) : (s.srExit actor).rd f_mcCtrl_enable.off = s.rd f_mcCtrl_enable.off := by
  rw [State.srExit]
  dsimp only
  split
  · refine (((McQuiet.refl _).mcPull).rd _ (by decide)).trans ?_
    exact (State.rd_fput_ne _ _ (by decide)).trans (State.rd_fput_ne _ _ (by decide))
  · rfl

/-- An exit of an actor leaves the state of channels that are in service. -/
theorem State.fget_state_srExit (s : State) (actor : Nat) (h : s.fget f_mcStatus_state = 2) :
    (s.srExit actor).fget f_mcStatus_state = 2 := by
  rw [State.srExit]
  dsimp only
  rw [if_neg (by omega)]
  exact h

/-- What the fourth stage of the boot sets when memory enters service (R530, R481). -/
def State.mcBootReady (s : State) (rise : Bool) : State :=
  if rise && s.fbit f_mpStatus_hart0_running && s.fget f_hiFwStatus_state == 0 then s.fput f_hiFwStatus_state 1 else s

theorem State.mcBootReady_quiet (s : State) (rise : Bool) : McQuiet s (s.mcBootReady rise) :=
  McQuiet.ite ((McQuiet.refl s).fput (by decide) _) (McQuiet.refl s)

/-- What a write of MC_CTRL with enable set does with sr_req. -/
def State.mcSrReq (s : State) (had want : Bool) : State :=
  if want then (if had then s else s.srEnter 0) else if had then s.srExit 0 else s

theorem State.rd_ctrl_mcSrReq (s : State) (had want : Bool) : (s.mcSrReq had want).rd f_mcCtrl_enable.off = s.rd f_mcCtrl_enable.off := by
  cases had <;> cases want
  · rfl
  · exact s.rd_ctrl_srEnter 0
  · exact s.rd_ctrl_srExit 0
  · rfl

theorem State.bit_or_one (v : Word) : bit (v ||| 1).toNat 0 = true := by
  rw [bit_eq_testBit, BitVec.toNat_or, Nat.testBit_or]
  simp

theorem State.bit_or_one_two (v : Word) : bit (v ||| 1).toNat 2 = bit v.toNat 2 := by
  rw [bit_eq_testBit, bit_eq_testBit, BitVec.toNat_or, Nat.testBit_or, show (1 : Word).toNat.testBit 2 = false by decide, Bool.or_false]

/-- Enabling without a population is refused. -/
theorem State.mcCtrlWrite_of_refused {s : State} (v : Word) (hoff : s.fbit f_mcCtrl_enable = false) (hd : s.fget f_mcConfig_density = 0) :
    s.mcCtrlWrite (v ||| 1) = s.raise f_mcEvent_config_refused := by
  refine if_pos ?_
  rw [State.bit_or_one, hoff, hd]
  rfl

/-- A write of MC_CTRL with enable set on an enabled controller. -/
theorem State.mcCtrlWrite_of_on {s : State} (v : Word) (hon : s.fbit f_mcCtrl_enable = true) :
    s.mcCtrlWrite (v ||| 1) = ((((s.writeReg f_mcCtrl_enable.off (v ||| 1)).fput f_mcCtrl_inline_ecc (s.fget f_mcCtrl_inline_ecc)).mcSrReq
      (s.fbit f_mcCtrl_sr_req) (bit v.toNat 2)).mcBootReady false).mcPull := by
  rw [State.mcCtrlWrite, State.bit_or_one, hon, State.bit_or_one_two]
  rfl

/-- The rise of enable. -/
theorem State.mcCtrlWrite_of_rise {s : State} (v : Word) (hoff : s.fbit f_mcCtrl_enable = false) (hd : s.fget f_mcConfig_density ≠ 0) :
    s.mcCtrlWrite (v ||| 1) = (((((s.writeReg f_mcCtrl_enable.off (v ||| 1)).fput f_mcCtrl_inline_ecc (bits (v ||| 1).toNat 1 1)).mcRise
      (bits (v ||| 1).toNat 1 1)).mcSrReq (s.fbit f_mcCtrl_sr_req) (bit v.toNat 2)).mcBootReady true).mcPull := by
  rw [State.mcCtrlWrite, State.bit_or_one, hoff, State.bit_or_one_two, beq_eq_false_iff_ne.mpr hd]
  rfl

theorem mcCountsClear_answers (s : State) :
    Answers .mcCountsClear s fun t => t.rd f_mcCorrCount_link.off = 0 ∧ (∀ q : Fin 10, t.fget (f_mcLatMax_max_ns q.val) = 0) ∧
      t = { s with regs := t.regs } := by
  have hz : s.mcCountsClear = (s.wr f_mcCorrCount_link.off 0).zeroWords (f_mcLatMax_max_ns 0).off 10 := rfl
  refine ⟨_, congrArg Host.Outcome.next hz, ?_, fun q => ?_, ?_⟩
  · rw [State.rd_zeroWords_ne _ _ _ (by simp only [f_mcCorrCount_link, f_mcLatMax_max_ns]; omega), State.rd_wr_same]
  · exact State.fget_of_rd_zero (State.rd_zeroWords _ _ 10 q.isLt)
  · exact State.zeroWords_eq _ _ _

/-- Settles O39: the configuration of the memory controller, good and refused. -/
theorem memoryConfiguration : Obligations.MemoryConfiguration := by
  unfold Obligations.MemoryConfiguration
  refine fun s v p => ⟨fun h => ⟨_, congrArg Host.Outcome.next (State.mcConfigWrite_of_bad h), ?_, ?_⟩, fun h hoff => mcConfigWrite_of_off_answers h hoff,
    fun h hon => ⟨_, congrArg Host.Outcome.next (State.mcConfigWrite_of_on h hon), ?_, ?_, ?_⟩,
    fun s1 hs1 => ⟨fun h => ⟨_, congrArg Host.Outcome.next (State.mcPortWrite_of_refused (hs1 ▸ h)), ?_, ?_⟩, fun h0 h16 hc => ⟨fun hoff => ?_, fun hon hq s2 hs2 => ?_⟩⟩,
    fun hoff hd => ⟨_, congrArg Host.Outcome.next (State.mcCtrlWrite_of_refused v hoff hd), ?_, ?_⟩,
    fun hon => ⟨_, congrArg Host.Outcome.next (State.mcCtrlWrite_of_on v hon), ?_⟩,
    fun hoff hd => ⟨_, congrArg Host.Outcome.next (State.mcCtrlWrite_of_rise v hoff hd), ?_, fun h2 => ?_, fun h2 hsr => ?_⟩, mcCountsClear_answers s⟩
  -- MC_CONFIG with a bad density
  · exact State.fbit_raise _ _ rfl (by decide) (by decide)
  · exact State.fget_congr (State.rd_raise _ _ (by decide) (by decide))
  -- in service the target rate alone
  · exact State.fget_fput_ne _ _ _ _ (by decide) (by decide) (by decide) (by decide)
  · exact (State.fget_fput_same _ _ _ (by decide) (by decide)).trans (Nat.mod_eq_of_lt (bits_lt _ 19 18))
  · exact (RegsOnly.refl s _).fput List.mem_cons_self _
  -- MC_PORT refused
  · exact State.fbit_raise _ _ rfl (by decide) (by decide)
  · have := p.isLt
    refine State.rd_raise s f_mcEvent_qos_refused ?_ ?_
    · simp only [sedRegs, List.mem_cons, List.not_mem_nil, or_false, f_mcPort_target]
      omega
    · simp only [f_mcPort_target, f_mcEvent_qos_refused]
      omega
  -- MC_PORT taken
  · refine congrArg Host.Outcome.next ((State.mcPortWrite_of_taken hs1 ?_).1 hoff)
    rintro (h | h | h | ⟨h, -⟩)
    · omega
    · omega
    · omega
    · rw [hoff] at h
      cases h
  · refine congrArg Host.Outcome.next ((State.mcPortWrite_of_taken hs1 ?_).2 hon s2 hs2)
    rintro (h | h | h | ⟨-, q, h⟩)
    · omega
    · omega
    · omega
    · exact absurd h (Nat.not_lt.mpr (hq q))
  -- enable refused
  · exact State.fbit_raise _ _ rfl (by decide) (by decide)
  · exact (State.fbit_congr (State.rd_raise _ _ (by decide) (by decide))).trans hoff
  -- enable on an enabled controller
  · refine (State.fbit_congr ?_).trans (s.mcCtrl_stored_enable (State.bit_or_one v) (s.fget f_mcCtrl_inline_ecc))
    rw [((State.mcBootReady_quiet _ _).mcPull).rd _ (by decide), State.rd_ctrl_mcSrReq]
  -- the rise of enable
  · refine (State.fbit_congr ?_).trans (s.mcCtrl_stored_enable (State.bit_or_one v) (bits (v ||| 1).toNat 1 1))
    rw [((State.mcBootReady_quiet _ _).mcPull).rd _ (by decide), State.rd_ctrl_mcSrReq, (State.mcRise_fields _ _).1]
  · refine (State.fget_congr (((State.mcBootReady_quiet _ _).mcPull).rd _ (by decide))).trans ?_
    rw [h2]
    cases s.fbit f_mcCtrl_sr_req
    · exact (State.mcRise_fields _ _).2
    · exact State.fget_state_srExit _ 0 (State.mcRise_fields _ _).2
  · refine (State.fget_congr (((State.mcBootReady_quiet _ _).mcPull).rd _ (by decide))).trans ?_
    rw [h2, hsr]
    exact State.fget_state_srEnter _ 0 (State.mcRise_fields _ _).2

end Sys2Proof.Machine

/-! ## Ring pairs (O42, R14, R486, R488, R489) -/

namespace Sys2Proof.Machine

theorem State.bar4_of_released {s : State} (h : s.fget f_hiBoot_state = 4) (off : Nat) (f : State → State) : s.bar4 off f = f s := if_pos h

theorem bit_zero_and_mask (v : Word) : bit (v &&& 0xFFFFFFFE).toNat 0 = false := by
  rw [bit_eq_testBit, BitVec.toNat_and, Nat.testBit_and, show (0xFFFFFFFE : Word).toNat.testBit 0 = false by decide, Bool.and_false]

/-- The fields of RP_CFG that a write always takes. -/
def State.putPairFields (s : State) (q : Nat) (v : Word) : State :=
  (s.fput (f_rpCfg_priority q) (bits v.toNat 13 11)).fput (f_rpCfg_vector q) (bits v.toNat 19 14)

theorem State.pairConfig_of_growth {s : State} {q : Nat} {v : Word} (h : growthSet (f_rpCfg_enable q).off v = true) :
    s.pairConfig q v = s.growthOverflow (f_rpCfg_enable q).off := if_pos h

/-- RP_CFG written with enable set, of a pair that is off (R486). -/
theorem State.pairConfig_of_rise {s : State} {q : Nat} {v : Word} (hg : growthSet (f_rpCfg_enable q).off v = false)
    (hoff : s.fbit (f_rpCfg_enable q) = false) (hv : bit v.toNat 0 = true) {s2 : State}
    (hs2 : s2 = ((s.fput (f_rpCfg_log2_n q) (bits v.toNat 4 1)).fput (f_rpCfg_party q) (bits v.toNat 10 5)).putPairFields q v) :
    s.pairConfig q v = if s2.fwServes = true then
      if s2.enableOk q = true then (s2.fput (f_rpCfg_enable q) 1).markSlots else s2.ringError q 2 v.toNat else s2 := by
  have hstored : s.pairConfig q v = if (!s2.fwServes) = true then s2 else
      if s2.enableOk q = true then (s2.fput (f_rpCfg_enable q) 1).markSlots else s2.ringError q 2 v.toNat := by
    subst hs2
    rw [State.pairConfig, if_neg (Bool.eq_false_iff.mp hg), hoff, hv]
    dsimp only
    rw [if_neg Bool.false_ne_true]
    exact if_pos rfl
  rw [hstored]
  cases s2.fwServes
  · exact (if_pos rfl).trans (if_neg Bool.false_ne_true).symm
  · exact (if_neg Bool.false_ne_true).trans (if_pos rfl).symm

/-- RP_CFG written with enable set, of a pair that is on. -/
theorem State.pairConfig_of_on {s : State} {q : Nat} {v : Word} (hg : growthSet (f_rpCfg_enable q).off v = false)
    (hon : s.fbit (f_rpCfg_enable q) = true) (hv : bit v.toNat 0 = true) : s.pairConfig q v = s.putPairFields q v := by
  rw [State.pairConfig, if_neg (Bool.eq_false_iff.mp hg), hon, hv]
  dsimp only
  rw [if_pos rfl]
  exact (if_neg Bool.false_ne_true).trans (if_neg Bool.false_ne_true)

/-- RP_CFG written with enable clear, of a pair that is on (R486). -/
theorem State.pairConfig_of_fall {s : State} {q : Nat} {v : Word} (hg : growthSet (f_rpCfg_enable q).off v = false)
    (hon : s.fbit (f_rpCfg_enable q) = true) (hv : bit v.toNat 0 = false) {s2 : State} (hs2 : s2 = s.putPairFields q v) :
    s.pairConfig q v = if (s2.pair q).taken.isEmpty = true then (s2.fput (f_rpCfg_enable q) 0).markSlots
      else s2.setPair q { s2.pair q with disabling := true } := by
  subst hs2
  rw [State.pairConfig, if_neg (Bool.eq_false_iff.mp hg), hon, hv]
  dsimp only
  rw [if_pos rfl]
  exact (if_neg Bool.false_ne_true).trans (if_pos rfl)

/-- What keeps a pair's next descriptor from being taken (R488). -/
def State.takeBlocked (s : State) (q : Nat) : Prop :=
  (s.fget f_hiFwStatus_state ≠ 1 ∧ s.fget f_hiFwStatus_state ≠ 2) ∨ s.mpStands = true ∨ s.fbit (f_rpCfg_enable q) = false ∨
    (s.pair q).disabling = true ∨ s.fget (f_rpIndex_sq_head q) = (s.pair q).accepted ∨
    s.ringSize q ≤ s.cqUsed q + (s.pair q).taken.length

theorem exec_descriptorTake_of_blocked {s : State} {q : Fin 16} (h : s.takeBlocked q.val) : exec (.descriptorTake q) s = .next s := by
  refine if_pos ?_
  rw [Bool.not_eq_true']
  exact h

theorem exec_descriptorTake_of_free {s : State} {q : Fin 16} (h : ¬s.takeBlocked q.val) {n : Nat}
    (hn : n = s.fget (f_rpIndex_sq_head q.val)) :
    exec (.descriptorTake q) s = .next (((s.setPair q.val { s.pair q.val with taken := (s.pair q.val).taken ++
      [⟨n, s.lpBytes 0 (s.sqBase q.val + 64 * (n % s.ringSize q.val)) 64, s.devTime.toNat, false⟩] }).fput
        (f_rpIndex_sq_head q.val) ((n + 1) % 2 ^ 32)).settleRing q.val) := by
  subst hn
  refine if_neg fun hc => h ?_
  rw [Bool.not_eq_true'] at hc
  exact hc

/-- Settles O42: how RP_CFG is taken, and how a pair's descriptors and its coalescing timer run. -/
theorem ringPairs : Obligations.RingPairs := by
  unfold Obligations.RingPairs
  refine ⟨fun s q v hb => ⟨fun hg => ?_, fun hg => ?_, fun hg hoff s2 hs2 => ?_, fun hg hon => ?_, fun hg hon s2 hs2 => ?_⟩,
    fun s q => ⟨fun n hst hmp hen hdis hn hne hroom => ?_, fun h => exec_descriptorTake_of_blocked h⟩,
    fun s q => ⟨fun hmp hun hgr htm => ?_, fun h => ?_⟩⟩
  · rw [exec_ringPairEnable, execRingPairEnable, State.bar4_of_released hb, State.pairConfig_of_growth hg]
  · rw [exec_ringPairDisable, execRingPairDisable, State.bar4_of_released hb, State.pairConfig_of_growth hg]
  · rw [exec_ringPairEnable, execRingPairEnable, State.bar4_of_released hb, State.pairConfig_of_rise hg hoff (State.bit_or_one v) hs2]
    refine ⟨fun hf ho => ?_, fun hf ho => ?_, fun hf => ?_⟩
    · rw [if_pos hf, if_pos ho]
    · rw [if_pos hf, if_neg (Bool.eq_false_iff.mp ho)]
    · rw [if_neg (Bool.eq_false_iff.mp hf)]
  · rw [exec_ringPairEnable, execRingPairEnable, State.bar4_of_released hb, State.pairConfig_of_on hg hon (State.bit_or_one v)]
    rfl
  · rw [exec_ringPairDisable, execRingPairDisable, State.bar4_of_released hb,
      State.pairConfig_of_fall hg hon (bit_zero_and_mask v) hs2]
    refine ⟨fun hnil => ?_, fun hne => ?_⟩
    · rw [if_pos (List.isEmpty_iff.mpr hnil)]
    · rw [if_neg fun h => hne (List.isEmpty_iff.mp h)]
  · refine exec_descriptorTake_of_free ?_ hn
    rintro (⟨h1, h2⟩ | h | h | h | h | h)
    · exact hst.elim h1 h2
    · exact absurd (hmp.symm.trans h) Bool.false_ne_true
    · exact absurd (h.symm.trans hen) Bool.false_ne_true
    · exact absurd (hdis.symm.trans h) Bool.false_ne_true
    · exact hne (hn.trans h)
    · exact absurd hroom (Nat.not_lt.mpr h)
  · refine congrArg _ (if_pos ⟨?_, hun, hgr, htm⟩)
    rw [hmp]
    rfl
  · refine congrArg _ (if_neg fun ⟨hmp, hun, hgr, htm⟩ => ?_)
    rcases h with h | h | h | h
    · rw [h] at hmp
      cases hmp
    · omega
    · rw [h] at hgr
      cases hgr
    · exact htm h

end Sys2Proof.Machine

/-! ## Jobs and packages (O46, R20, R22, R26 to R30, R40, R510 to R513) -/

namespace Sys2Proof.Machine

/-! JOB_PREPARED. -/

theorem exec_jobPrepared_of_none {s : State} {q : Fin 16} {i : Nat} (x : JobInputs)
    (h : s.mpStands = true ∨ (s.fw.jobs.find? fun j => j.ring == q.val && j.taken.index == i && !j.prepared) = none) :
    exec (.jobPrepared q i x) s = .next s := by
  have hnone : (if s.mpStands = true then none else s.fw.jobs.find? fun j => j.ring == q.val && j.taken.index == i && !j.prepared) = none := by
    split
    next => rfl
    next hm => exact h.resolve_left hm
  rw [exec_jobPrepared, execJobPrepared, hnone]

/-- What a preparation comes to. -/
def State.afterPrepare (s : State) (j : Job) (x : JobInputs) : State :=
  match s.prepare j x with
  | .later s1 j1 => s1.setJob j1
  | .fails s1 j1 st => (s1.endJob j1 st).startNext []
  | .ready s1 j1 => ((s1.setJob j1).startNext []).preempt

theorem exec_jobPrepared_of_some {s : State} {q : Fin 16} {i : Nat} (x : JobInputs) {j : Job} (hm : s.mpStands = false)
    (h : (s.fw.jobs.find? fun j => j.ring == q.val && j.taken.index == i && !j.prepared) = some j) :
    exec (.jobPrepared q i x) s = .next (s.afterPrepare j x) := by
  rw [exec_jobPrepared, execJobPrepared, hm, if_neg Bool.false_ne_true, h, State.afterPrepare]
  dsimp only
  cases s.prepare j x <;> rfl

/-! JOB_BOUNDARY. -/

theorem State.overran_of_none {s : State} {l : List (Nat × Nat)} (h : ∀ o ∈ l, o.2 = 0 ∨ s.topStep ≤ o.1) : s.overran l = s := by
  have hnil : (l.filter fun o => o.2 != 0 && decide (o.1 < s.topStep)) = [] := by
    rw [List.filter_eq_nil_iff]
    intro o ho hc
    rw [Bool.and_eq_true, bne_iff_ne, decide_eq_true_eq] at hc
    rcases h o ho with h | h
    · exact hc.1 h
    · omega
  rw [State.overran, hnil]
  cases s.running <;> rfl

/-- What a boundary of the running job comes to. -/
def State.jobAtBoundary (s : State) (j : Job) (peers : List Nat) : State :=
  let cores := maskCores s.jobCores
  if s.abortNow then
    match s.condStatus, cores.all fun c => s.coreState c == 0 with
    | some st, true => s.finish j st peers
    | _, _ => s
  else if !cores.all s.standsCore then s
  else
    let k := s.topStep
    let behind := cores.filter fun c => decide (s.fget (f_ncStep_step c) < k)
    if s.condStatus.isSome || behind.isEmpty && decide (j.step < k) then s.atBoundary j k peers
    else if !behind.isEmpty then behind.foldl (fun s c => s.startFilled c) s
    else ((s.settleNow).answerQuery 1 k).stopOrSwitch j k peers

theorem exec_jobBoundary_of_none {s0 s : State} {ex : List (Nat × Nat)} (peers : List Nat) (hs : s = s0.overran ex)
    (h : s.mpStands = true ∨ s.running = none) : exec (.jobBoundary ex peers) s0 = .next s := by
  have hnone : (if s.mpStands = true then none else s.running) = none := by
    split
    next => rfl
    next hm => exact h.resolve_left hm
  rw [exec_jobBoundary, execJobBoundary, ← hs]
  dsimp only
  rw [hnone]

theorem exec_jobBoundary_of_some {s0 s : State} {ex : List (Nat × Nat)} (peers : List Nat) (hs : s = s0.overran ex) {j : Job}
    (hm : s.mpStands = false) (hj : s.running = some j) : exec (.jobBoundary ex peers) s0 = .next (s.jobAtBoundary j peers) := by
  rw [exec_jobBoundary, execJobBoundary, ← hs]
  dsimp only
  rw [hm, if_neg Bool.false_ne_true, hj, State.jobAtBoundary]
  dsimp only
  split
  next =>
    cases s.condStatus with
    | none => rfl
    | some st => cases (maskCores s.jobCores).all fun c => s.coreState c == 0 <;> rfl
  next =>
    split
    next => rfl
    next =>
      split
      next => rfl
      next => split <;> rfl

section
variable {s : State} {j : Job} {peers : List Nat}

theorem State.jobAtBoundary_of_aborted {st : Nat} (ha : s.abortNow = true) (hst : s.condStatus = some st)
    (h : ∀ c ∈ maskCores s.jobCores, s.coreState c = 0) : s.jobAtBoundary j peers = s.finish j st peers := by
  have hall : ((maskCores s.jobCores).all fun c => s.coreState c == 0) = true :=
    List.all_eq_true.mpr fun c hc => beq_iff_eq.mpr (h c hc)
  simp only [State.jobAtBoundary, ha, if_true, hst, hall]

theorem State.jobAtBoundary_of_aborting (ha : s.abortNow = true)
    (h : s.condStatus = none ∨ ∃ c ∈ maskCores s.jobCores, s.coreState c ≠ 0) : s.jobAtBoundary j peers = s := by
  simp only [State.jobAtBoundary, ha, if_true]
  split
  next st hst hall =>
    rw [List.all_eq_true] at hall
    rcases h with h | ⟨c, hc, h⟩
    · rw [h] at hst
      cases hst
    · exact absurd (beq_iff_eq.mp (hall c hc)) h
  next => rfl

theorem State.jobAtBoundary_of_midstep (ha : s.abortNow = false) (h : ∃ c ∈ maskCores s.jobCores, s.standsCore c = false) :
    s.jobAtBoundary j peers = s := by
  have hall : (maskCores s.jobCores).all s.standsCore = false := List.all_eq_false.mpr (by simpa using h)
  rw [State.jobAtBoundary]
  dsimp only
  rw [ha, if_neg Bool.false_ne_true, hall]
  exact if_pos rfl

/-- The boundary of a job whose cores all stand. -/
theorem State.jobAtBoundary_of_standing (ha : s.abortNow = false) (h : ∀ c ∈ maskCores s.jobCores, s.standsCore c = true) {b : List Nat}
    (hb : b = (maskCores s.jobCores).filter fun c => decide (s.fget (f_ncStep_step c) < s.topStep)) :
    s.jobAtBoundary j peers = if (s.condStatus.isSome || b.isEmpty && decide (j.step < s.topStep)) = true then s.atBoundary j s.topStep peers
      else if (!b.isEmpty) = true then b.foldl (fun s c => s.startFilled c) s
      else ((s.settleNow).answerQuery 1 s.topStep).stopOrSwitch j s.topStep peers := by
  rw [State.jobAtBoundary]
  dsimp only
  rw [ha, if_neg Bool.false_ne_true, List.all_eq_true.mpr h, ← hb]
  exact if_neg Bool.false_ne_true

end

/-- No core of the job stands behind the furthest boundary. -/
theorem State.behind_eq_nil {s : State} {cores : List Nat} (h : ∀ c ∈ cores, s.topStep ≤ s.fget (f_ncStep_step c)) :
    (cores.filter fun c => decide (s.fget (f_ncStep_step c) < s.topStep)) = [] := by
  rw [List.filter_eq_nil_iff]
  intro c hc hlt
  rw [decide_eq_true_eq] at hlt
  exact absurd (h c hc) (Nat.not_le.mpr hlt)

/-! PACKAGE_LOAD_COMPLETE. -/

theorem exec_packageLoadComplete_of_none {s : State} (h : s.fw.loading = none ∨ s.fw.jobs ≠ [] ∨ s.mpStands = true) :
    exec .packageLoadComplete s = .next s := by
  rw [exec_packageLoadComplete, execPackageLoadComplete]
  rcases hl : s.fw.loading with _ | ⟨i, r, m⟩
  · rfl
  · refine if_pos ?_
    rcases h with h | h | h
    · rw [hl] at h
      cases h
    · rw [Bool.or_eq_true, Bool.not_eq_true', List.isEmpty_eq_false_iff]
      exact .inl h
    · rw [h, Bool.or_true]

/-- The load of a package on a device with no job. -/
theorem exec_packageLoadComplete_of_loading {s s1 : State} {i : Nat} {r : Resident} {m : Nat} (hl : s.fw.loading = some (i, r, m))
    (hj : s.fw.jobs = []) (hm : s.mpStands = false) (hs1 : s1 = ({ s with fw := { s.fw with loading := none } } : State)) :
    (packageOk r.bytes = false → exec .packageLoadComplete s = .next (s1.loadEnds stPackageInvalid 0)) ∧
      (∀ pos n k, packageOk r.bytes = true → pos = (if r.ring ≤ 1 then some 0 else r.place.findIdx? (· == s.ringAddr)) →
        n = ceilDiv ((((loadedSections r.bytes r.ring pos).map (sectionAt r.bytes)).filter fun x => x.kind == 5).foldl
          (fun a x => a + 64 * ceilDiv x.length 64) 0) blockBytes →
        k = (if r.ring ≤ 1 then 0 else ceilDiv r.bytes.length blockBytes) →
        exec .packageLoadComplete s = .next (s1.loadPlaced r n (s1.allocBlocks true (n + k)))) := by
  have hidle : ¬(!s.fw.jobs.isEmpty || s.mpStands) = true := by
    rw [hj, hm]
    exact Bool.false_ne_true
  refine ⟨fun hok => ?_, fun pos n k hok hpos hn hk => ?_⟩
  · rw [exec_packageLoadComplete, execPackageLoadComplete, hl]
    dsimp only
    rw [if_neg hidle, if_pos (by rw [hok]; rfl), hs1]
  · rw [exec_packageLoadComplete, execPackageLoadComplete, hl]
    dsimp only
    rw [if_neg hidle, if_neg (by rw [hok]; exact Bool.false_ne_true), ← hpos, ← hn, ← hk, ← hs1]

/-- Settles O46: how jobs are prepared and taken over boundaries, and how the load of a package ends. -/
theorem jobsAndPackages : Obligations.JobsAndPackages := by
  unfold Obligations.JobsAndPackages
  refine ⟨fun s q i x f hf => ⟨fun h => exec_jobPrepared_of_none x (hf ▸ h), fun j hm hj => ?_⟩,
    fun s0 s ex peers hs => ⟨fun h => hs.trans (State.overran_of_none h), fun h => exec_jobBoundary_of_none peers hs h,
      fun j cores hm hj hcores => ?_⟩,
    fun s sp w => ⟨exec_packageLoadComplete_of_none, fun i r m s1 hl hj hm hs1 => ?_, ?_⟩⟩
  · have hx := exec_jobPrepared_of_some x hm (hf.symm.trans hj)
    refine ⟨fun s1 j1 hp => ?_, fun s1 j1 st hp => ?_, fun s1 j1 hp => ?_⟩ <;> rw [hx, State.afterPrepare, hp]
  · have hx := exec_jobBoundary_of_some peers hs hm hj
    rw [hx]
    subst hcores
    refine ⟨fun ha => ⟨fun st hst h => congrArg _ (State.jobAtBoundary_of_aborted ha hst h), fun h => congrArg _ (State.jobAtBoundary_of_aborting ha h)⟩,
      fun ha h => congrArg _ (State.jobAtBoundary_of_midstep ha h), fun ha h => ?_⟩
    rw [State.jobAtBoundary_of_standing ha h rfl]
    refine ⟨fun hc => congrArg _ (if_pos ?_), fun b hst hb hne => ?_, fun hst htop hstep => ?_⟩
    · rcases hc with hc | ⟨htop, hstep⟩
      · rw [Option.isSome_iff_ne_none.mpr hc, Bool.true_or]
      · rw [State.behind_eq_nil htop, decide_eq_true hstep, List.isEmpty_nil, Bool.and_self, Bool.or_true]
    · rw [← hb, hst, List.isEmpty_eq_false_iff.mpr hne]
      exact congrArg _ ((if_neg Bool.false_ne_true).trans (if_pos rfl))
    · rw [State.behind_eq_nil htop, hst, decide_eq_false (Nat.not_lt.mpr hstep)]
      exact congrArg _ ((if_neg Bool.false_ne_true).trans (if_neg Bool.false_ne_true))
  · have hx := exec_packageLoadComplete_of_loading hl hj hm hs1
    refine ⟨fun hok => hx.1 hok, fun pos n k hok hpos hn hk => ⟨fun ha => ?_, fun y ha => ?_⟩⟩ <;>
      rw [hx.2 pos n k hok hpos hn hk, ha] <;> rfl
  · refine ⟨_, rfl, ?_, ?_, ?_⟩
    · rw [State.fget_fput_ne _ _ _ _ (by decide) (by decide) (by decide) (by decide),
        State.fget_fput_same _ _ _ (by decide) (by decide)]
      exact Nat.mod_eq_of_lt (by have := sp.isLt; simp only [f_hiLink_speed]; omega)
    · rw [State.fget_fput_same _ _ _ (by decide) (by decide)]
      fin_cases w <;> rfl
    · exact ((RegsOnly.refl s _).fput List.mem_cons_self _).fput (by decide) _

end Sys2Proof.Machine

/-! ## The boot window and the release (O47, R477, R481, R531, R534 to R536) -/

namespace Sys2Proof.Machine

namespace EventsOnly

theorem settle {s t : State} (h : EventsOnly s t) (q fuel : Nat) : EventsOnly s (t.settle q fuel) := by
  induction fuel generalizing t with
  | zero => exact h
  | succ fuel ih =>
    rw [State.settle]
    split
    · exact h
    · split
      · exact ih (h.completeTaken _ _ _)
      · exact h

theorem settleRing {s t : State} (h : EventsOnly s t) (q : Nat) : EventsOnly s (t.settleRing q) := h.settle _ _

theorem bgDone {s t : State} (h : EventsOnly s t) (op : Nat) (d : Done) : EventsOnly s (t.bgDone op d) := by
  rw [State.bgDone]
  split
  · exact h.completeTaken _ _ _
  · exact h

end EventsOnly

/-! What the release leaves of the boot's results. -/

/-- The always-on controller, the blown fuses, the manifest and the boot's results stand in `t` as in `s`. -/
structure BootKeeps (s t : State) : Prop where
  aoc : t.aoc = s.aoc
  life : t.sc.lifeBlown = s.sc.lifeBlown
  sv : t.sc.svBlown = s.sc.svBlown
  manifest : t.sc.manifest = s.sc.manifest
  boot : t.rd 0x820000 = s.rd 0x820000
  attested : t.fget f_scStatus_attested = s.fget f_scStatus_attested
  locked : t.fget f_scStatus_keys_locked = s.fget f_scStatus_keys_locked

namespace BootKeeps

theorem refl (s : State) : BootKeeps s s := ⟨rfl, rfl, rfl, rfl, rfl, rfl, rfl⟩

theorem trans {s t u : State} (h : BootKeeps s t) (h' : BootKeeps t u) : BootKeeps s u :=
  ⟨h'.aoc.trans h.aoc, h'.life.trans h.life, h'.sv.trans h.sv, h'.manifest.trans h.manifest, h'.boot.trans h.boot,
    h'.attested.trans h.attested, h'.locked.trans h.locked⟩

theorem ite {s t u : State} {c : Prop} [Decidable c] (ht : BootKeeps s t) (hu : BootKeeps s u) : BootKeeps s (if c then t else u) := by
  split <;> assumption

theorem foldl {α : Type} {s t : State} {f : State → α → State} {l : List α} (h : BootKeeps s t)
    (hf : ∀ u x, BootKeeps s u → BootKeeps s (f u x)) : BootKeeps s (l.foldl f t) := by
  induction l generalizing t with
  | nil => exact h
  | cons x l ih => exact ih (hf t x h)

/-- Nothing but other fields of the state differs. -/
theorem of_eq {s t : State} (hr : t.regs = s.regs) (ha : t.aoc = s.aoc) (hl : t.sc.lifeBlown = s.sc.lifeBlown)
    (hs : t.sc.svBlown = s.sc.svBlown) (hm : t.sc.manifest = s.sc.manifest) : BootKeeps s t := by
  have hrd : ∀ o, t.rd o = s.rd o := fun o => by
    rw [State.rd, hr]
    rfl
  exact ⟨ha, hl, hs, hm, hrd _, State.fget_congr (hrd _), State.fget_congr (hrd _)⟩

theorem wr {s t : State} (h : BootKeeps s t) {o : Nat} (h1 : o ≠ 0x820000) (h2 : o ≠ 0x910000) (v : Word) : BootKeeps s (t.wr o v) :=
  h.trans ⟨rfl, rfl, rfl, rfl, t.rd_wr_ne v h1.symm, State.fget_congr (t.rd_wr_ne v h2.symm), State.fget_congr (t.rd_wr_ne v h2.symm)⟩

theorem fput {s t : State} (h : BootKeeps s t) {f : Fld} (h1 : f.off ≠ 0x820000) (h2 : f.off ≠ 0x910000) (v : Nat) :
    BootKeeps s (t.fput f v) := h.wr h1 h2 _

theorem fput_replayed {s t : State} (h : BootKeeps s t) (v : Nat) : BootKeeps s (t.fput f_scStatus_keys_replayed v) :=
  h.trans ⟨rfl, rfl, rfl, rfl, State.rd_fput_ne _ _ (by decide),
    State.fget_fput_ne _ _ _ _ (by decide) (by decide) (by decide) (by decide),
    State.fget_fput_ne _ _ _ _ (by decide) (by decide) (by decide) (by decide)⟩

theorem events {s t u : State} (h : BootKeeps s t) (he : EventsOnly t u) : BootKeeps s u := by
  have hrd : ∀ o, o < 0x4000000 → u.rd o = t.rd o := he.rd
  refine h.trans ⟨?_, ?_, ?_, ?_, hrd _ (by decide), State.fget_congr (hrd _ (by decide)), State.fget_congr (hrd _ (by decide))⟩ <;>
    rw [he.eq]

theorem setSc {s t : State} (h : BootKeeps s t) {x : ScRt} (hl : x.lifeBlown = t.sc.lifeBlown) (hs : x.svBlown = t.sc.svBlown)
    (hm : x.manifest = t.sc.manifest) : BootKeeps s { t with sc := x } :=
  h.trans (of_eq rfl rfl hl hs hm)

theorem setRingKey {s t : State} (h : BootKeeps s t) (k : Option (List Byte × List Byte × Nat)) :
    BootKeeps s { t with sc := { t.sc with ringKey := k } } := h.setSc rfl rfl rfl

theorem setPads {s t : State} (h : BootKeeps s t) (x : Sparse Nat) : BootKeeps s { t with pads := x } := h.trans (of_eq rfl rfl rfl rfl rfl)

theorem setFw {s t : State} (h : BootKeeps s t) (x : FwRt) : BootKeeps s { t with fw := x } := h.trans (of_eq rfl rfl rfl rfl rfl)

theorem draw {s t : State} (h : BootKeeps s t) : BootKeeps s t.draw.2 := h.trans (of_eq rfl rfl rfl rfl rfl)

theorem emit {s t : State} (h : BootKeeps s t) (x : Output) : BootKeeps s (t.emit x) := h.trans (of_eq rfl rfl rfl rfl rfl)

theorem markSealed {s t : State} (h : BootKeeps s t) : BootKeeps s t.markSealed := by
  rw [State.markSealed]
  refine h.foldl fun u i hu => ?_
  dsimp only
  refine (hu.fput ?_ ?_ _).fput ?_ ?_ _ <;> simp only [f_scSlot_psk_present, f_scSlot_sealed] <;> omega

theorem installPsk {s t : State} (h : BootKeeps s t) (slot gen : Nat) (key : List Byte) : BootKeeps s (t.installPsk slot gen key) := by
  rw [State.installPsk]
  dsimp only
  refine markSealed (setSc h ?_ ?_ ?_) <;> rfl

/-- The replay of the key records. -/
theorem keyReplay {s t : State} (h : BootKeeps s t) : BootKeeps s t.keyReplay := by
  unfold State.keyReplay
  split
  · exact h.markSealed
  · extract_lets s1 p _ _ _ s2
    have h1 : BootKeeps s s1 := by
      refine h.foldl fun u i hu => ?_
      split <;> exact hu.installPsk _ _ _
    have h2 : BootKeeps s s2 := by
      have hd : BootKeeps s p.2 := h1.draw
      dsimp only [s2]
      split
      · exact ite (h1.setRingKey _) (hd.setRingKey _)
      · exact h1.setRingKey _
    exact h2.fput_replayed 1

theorem pinFlag {s t : State} (h : BootKeeps s t) {f : Fld} (h1 : f.off ≠ 0x820000) (h2 : f.off ≠ 0x910000) (n : Nat) :
    BootKeeps s (t.pinFlag f n) := (h.fput h1 h2 _).emit _

theorem sideTimeout {s t : State} (h : BootKeeps s t) : BootKeeps s t.sideTimeout := by
  rw [State.sideTimeout]
  split
  · exact h
  · exact (h.setFw _).events (((EventsOnly.refl _).bgDone _ _).settleRing _)

/-- A write of a pad's register, one of the first 64 of the pin block. -/
theorem pinMuxWrite {s t : State} (h : BootKeeps s t) (n : Nat) (v : Word) : BootKeeps s (t.pinMuxWrite n v) := by
  have hput : ∀ {u : State} {f : Fld}, f.off = 0x970000 + 0x0 + 4 * n → BootKeeps s u → ∀ x, BootKeeps s (u.fput f x) :=
    fun hf hu x => hu.fput (by omega) (by omega) x
  rw [State.pinMuxWrite]
  dsimp only
  refine ite (h.pinFlag (by decide) (by decide) _) (ite (h.pinFlag (by decide) (by decide) _) (ite (h.pinFlag (by decide) (by decide) _) ?_))
  have h1 := hput (f := f_pinMux_pull n) rfl (hput (f := f_pinMux_drive n) rfl h (bits v.toNat 3 2)) (bits v.toNat 5 4)
  refine ite h1 ?_
  have h3 := hput (f := f_pinMux_switching n) rfl (hput (f := f_pinMux_func n) rfl h1 (bits v.toNat 1 0)) 1
  split
  · split
    · exact (h3.setPads _).sideTimeout
    · exact h3.setPads _
  · exact h3.setPads _

theorem applyPads {s t : State} (h : BootKeeps s t) : BootKeeps s t.applyPads := by
  rw [State.applyPads]
  split
  · exact h
  · exact h.foldl fun u n hu => hu.pinMuxWrite n _

end BootKeeps

/-! The release. -/

/-- A field that the first `k` bytes hold. -/
theorem fieldAt_take (l : List Byte) {k off n : Nat} (h : off + n ≤ k) : fieldAt (l.take k) off n = fieldAt l off n := by
  rw [fieldAt, fieldAt, List.drop_take, List.take_take, Nat.min_eq_left (by omega)]

/-- What the anti-rollback fuses come to (R536). -/
theorem State.blowFuses_fields {s : State} (m : List Byte) :
    (s.blowFuses m).aoc = s.aoc ∧ (s.blowFuses m).sc.lifeBlown = s.sc.lifeBlown ∧ (s.blowFuses m).sc.manifest = s.sc.manifest ∧
      (s.blowFuses m).rd 0x820000 = s.rd 0x820000 ∧ (s.blowFuses m).fget f_scStatus_attested = s.fget f_scStatus_attested ∧
      (s.blowFuses m).fget f_scStatus_keys_locked = s.fget f_scStatus_keys_locked ∧
      (s.blowFuses m).sc.svBlown = if s.fbit f_scStatus_attested = true ∧ bit (fieldAt m 6 2) 0 = true then
        max s.sc.svBlown (fieldAt m 0x10 1) else s.sc.svBlown := by
  rw [State.blowFuses]
  by_cases hc : s.fbit f_scStatus_attested = true ∧ bit (fieldAt m 6 2) 0 = true
  · rw [if_pos hc, if_pos ((Bool.and_eq_true _ _).mpr hc)]
    exact ⟨rfl, rfl, rfl, State.rd_fput_ne _ _ (by decide), State.fget_fput_ne _ _ _ _ (by decide) (by decide) (by decide) (by decide),
      State.fget_fput_ne _ _ _ _ (by decide) (by decide) (by decide) (by decide), rfl⟩
  · rw [if_neg hc, if_neg fun h => hc ((Bool.and_eq_true _ _).mp h)]
    exact ⟨rfl, rfl, rfl, rfl, rfl, rfl, rfl⟩

/-- What the checks found stands in its registers, and in the sediment record where one failed (R534, R535). -/
def State.bootJudged (s : State) (bad : Bool) (fails : Nat) : State :=
  let s1 := ((s.fput f_hiBoot_unattested (b2n bad)).fput f_scStatus_keys_locked (b2n bad)).fput f_scStatus_attested (b2n (!bad))
  if bad then s1.sediment' 0x10 0 0x0047 fails else s1

/-- The manifest is kept, the Alias key and its certificate are made, and the MP is let go (R531, R537). -/
def State.bootCertified (s : State) (m : List Byte) : State :=
  let cdi1 := Config.hmac384 s.sc.cdi0
    (Config.sha384 m ++ leBytes 1 (fieldAt m 0x10 1) ++ leBytes 1 s.fuseCount ++ leBytes 1 s.flagsByte)
  let s3 := { s with sc := { s.sc with cdi1 := cdi1, manifest := m } }
  { s3 with sc := { s3.sc with aliasCert := s3.aliasCertificate m }, fresh := s3.fresh + 1, aoc := { s3.aoc with released := true } }

/-- The image in MP SRAM, and both harts running (R533). -/
def State.bootStarted (s : State) (image : List Byte) : State :=
  let s5 := ((s.fput f_hiBoot_state 4).fput f_hiBoot_go 0).fput f_mpStatus_hart0_running 1
  (s5.setBytes (mpSram 0) ((image.drop 8192).take (4096 * min 126 (fieldAt (image.take 8192) 8 2)))).fput f_mpStatus_hart1_running 1

theorem State.bootGo_of_image {s : State} (h : s.fget f_hiBoot_state = 1 ∨ s.fget f_hiBoot_state = 2) {image : List Byte}
    (hi : image = s.host.image ++ zeros (0x80000 - s.host.image.length)) :
    s.bootGo = ((((((s.bootJudged (decide (s.bootChecks image ≠ 0)) (s.bootChecks image)).bootCertified (image.take 8192)).bootStarted
      image).keyReplay).applyPads).blowFuses (image.take 8192)) := by
  subst hi
  exact if_neg (by omega)

theorem b2n_mod_two (b : Bool) : b2n b % 2 = b2n b := by cases b <;> rfl

theorem State.bootJudged_fields (s : State) (bad : Bool) (fails : Nat) :
    (s.bootJudged bad fails).sc = s.sc ∧ (s.bootJudged bad fails).fget f_hiBoot_unattested = b2n bad ∧
      (s.bootJudged bad fails).fget f_scStatus_keys_locked = b2n bad ∧ (s.bootJudged bad fails).fget f_scStatus_attested = b2n (!bad) := by
  obtain ⟨s1, hs1⟩ : ∃ s1, s1 = ((s.fput f_hiBoot_unattested (b2n bad)).fput f_scStatus_keys_locked (b2n bad)).fput f_scStatus_attested
    (b2n (!bad)) := ⟨_, rfl⟩
  have h1 : s1.sc = s.sc ∧ s1.fget f_hiBoot_unattested = b2n bad ∧ s1.fget f_scStatus_keys_locked = b2n bad ∧
      s1.fget f_scStatus_attested = b2n (!bad) := by
    subst hs1
    refine ⟨rfl, ?_, ?_, ?_⟩
    · rw [State.fget_fput_off _ _ (by decide), State.fget_fput_off _ _ (by decide)]
      exact (State.fget_fput_same _ _ _ (by decide) (by decide)).trans (b2n_mod_two _)
    · rw [State.fget_fput_ne _ _ _ _ (by decide) (by decide) (by decide) (by decide)]
      exact (State.fget_fput_same _ _ _ (by decide) (by decide)).trans (b2n_mod_two _)
    · exact (State.fget_fput_same _ _ _ (by decide) (by decide)).trans (b2n_mod_two _)
  have hj : s.bootJudged bad fails = if bad then s1.sediment' 0x10 0 0x0047 fails else s1 := by rw [hs1]; rfl
  rw [hj]
  split
  · obtain ⟨hsc, hu, hl, ha⟩ := h1
    exact ⟨(State.sediment_sc _ _ _ _ _).trans hsc, (State.fget_congr (s1.rd_sediment _ _ _ _ (by decide))).trans hu,
      (State.fget_congr (s1.rd_sediment _ _ _ _ (by decide))).trans hl, (State.fget_congr (s1.rd_sediment _ _ _ _ (by decide))).trans ha⟩
  · exact h1

theorem State.bootCertified_fields (s : State) (m : List Byte) :
    (s.bootCertified m).aoc.released = true ∧ (s.bootCertified m).sc.lifeBlown = s.sc.lifeBlown ∧
      (s.bootCertified m).sc.svBlown = s.sc.svBlown ∧ (s.bootCertified m).sc.manifest = m ∧ (s.bootCertified m).regs = s.regs :=
  ⟨rfl, rfl, rfl, rfl, rfl⟩

theorem State.fget_setBytes (s : State) (a : Nat) (l : List Byte) (f : Fld) : (s.setBytes a l).fget f = s.fget f := by
  rw [State.setBytes_eq]
  rfl

theorem State.bootStarted_fields (s : State) (image : List Byte) :
    (s.bootStarted image).aoc = s.aoc ∧ (s.bootStarted image).sc = s.sc ∧ (s.bootStarted image).fget f_hiBoot_state = 4 ∧
      (s.bootStarted image).fget f_hiBoot_unattested = s.fget f_hiBoot_unattested ∧
      (s.bootStarted image).fget f_scStatus_keys_locked = s.fget f_scStatus_keys_locked ∧
      (s.bootStarted image).fget f_scStatus_attested = s.fget f_scStatus_attested := by
  have hother : ∀ f : Fld, f.off ≠ f_mpStatus_hart0_running.off → (s.bootStarted image).fget f = ((s.fput f_hiBoot_state 4).fput f_hiBoot_go 0).fget f :=
    fun f hf => by
      rw [State.bootStarted]
      rw [State.fget_fput_off (f := f_mpStatus_hart1_running) _ _ hf, State.fget_setBytes, State.fget_fput_off _ _ hf]
  refine ⟨?_, ?_, ?_, ?_, ?_, ?_⟩
  · rw [State.bootStarted, State.setBytes_eq]
    rfl
  · rw [State.bootStarted, State.setBytes_eq]
    rfl
  · rw [hother _ (by decide), State.fget_fput_ne _ _ _ _ (by decide) (by decide) (by decide) (by decide)]
    exact State.fget_fput_same _ _ _ (by decide) (by decide)
  · rw [hother _ (by decide), State.fget_fput_ne _ _ _ _ (by decide) (by decide) (by decide) (by decide)]
    exact State.fget_fput_ne _ _ _ _ (by decide) (by decide) (by decide) (by decide)
  · rw [hother _ (by decide), State.fget_fput_off _ _ (by decide), State.fget_fput_off _ _ (by decide)]
  · rw [hother _ (by decide), State.fget_fput_off _ _ (by decide), State.fget_fput_off _ _ (by decide)]

/-- The release of an endpoint that waits for the image or has it (R531, R534 to R536). -/
theorem exec_bootGo_of_image {s : State} (h : s.fget f_hiBoot_state = 1 ∨ s.fget f_hiBoot_state = 2) {image : List Byte}
    (hi : image = s.host.image ++ zeros (0x80000 - s.host.image.length)) :
    Answers .bootGo s fun t => t.aoc.released = true ∧ t.fget f_hiBoot_state = 4 ∧ t.sc.lifeBlown = s.sc.lifeBlown ∧
      t.sc.manifest = image.take 8192 ∧ t.fget f_hiBoot_unattested = b2n (s.bootChecks image != 0) ∧
      t.fget f_scStatus_keys_locked = b2n (s.bootChecks image != 0) ∧ t.fget f_scStatus_attested = b2n (s.bootChecks image == 0) ∧
      t.sc.svBlown = if s.bootChecks image = 0 ∧ bit (fieldAt image 6 2) 0 = true then max s.sc.svBlown (fieldAt image 0x10 1)
        else s.sc.svBlown := by
  obtain ⟨bad, hbad⟩ : ∃ bad, bad = decide (s.bootChecks image ≠ 0) := ⟨_, rfl⟩
  have hb : (s.bootChecks image != 0) = bad := by rw [hbad]; by_cases h0 : s.bootChecks image = 0 <;> simp [h0]
  have hb' : (s.bootChecks image == 0) = !bad := by rw [hbad]; by_cases h0 : s.bootChecks image = 0 <;> simp [h0]
  have hgo := State.bootGo_of_image h hi
  rw [← hbad] at hgo
  obtain ⟨u1, hu1⟩ : ∃ u, u = s.bootJudged bad (s.bootChecks image) := ⟨_, rfl⟩
  obtain ⟨u2, hu2⟩ : ∃ u, u = u1.bootCertified (image.take 8192) := ⟨_, rfl⟩
  obtain ⟨u3, hu3⟩ : ∃ u, u = u2.bootStarted image := ⟨_, rfl⟩
  obtain ⟨u4, hu4⟩ : ∃ u, u = u3.keyReplay.applyPads := ⟨_, rfl⟩
  obtain ⟨j1, j2, j3, j4⟩ := s.bootJudged_fields bad (s.bootChecks image)
  obtain ⟨c1, c2, c3, c4, c5⟩ := u1.bootCertified_fields (image.take 8192)
  obtain ⟨d1, d2, d3, d4, d5, d6⟩ := u2.bootStarted_fields image
  have hk : BootKeeps u3 u4 := hu4 ▸ ((BootKeeps.refl u3).keyReplay).applyPads
  obtain ⟨b1, b2, b3, b4, b5, b6, b7⟩ := u4.blowFuses_fields (image.take 8192)
  rw [← hu1, ← hu2, ← hu3, ← hu4] at hgo
  rw [← hu1] at j1 j2 j3 j4
  rw [← hu2] at c1 c2 c3 c4 c5
  rw [← hu3] at d1 d2 d3 d4 d5 d6
  have hreg : ∀ f, u2.fget f = u1.fget f := fun f => State.fget_congr (by rw [State.rd, c5]; rfl)
  have hatt : u4.fget f_scStatus_attested = b2n (!bad) := by rw [hk.attested, d6, hreg, j4]
  refine ⟨_, congrArg Host.Outcome.next hgo, ?_, ?_, ?_, ?_, ?_, ?_, ?_, ?_⟩
  · rw [b1, hk.aoc, d1, c1]
  · rw [State.fget_congr b4, State.fget_congr hk.boot, d3]
  · rw [b2, hk.life, d2, c2, j1]
  · rw [b3, hk.manifest, d2, c4]
  · rw [State.fget_congr b4, State.fget_congr hk.boot, d4, hreg, j2, hb]
  · rw [b6, hk.locked, d5, hreg, j3, hb]
  · rw [b5, hatt, hb']
  · rw [b7, hk.sv, d2, c3, j1, fieldAt_take _ (by decide), fieldAt_take _ (by decide), State.fbit, hatt]
    have h0 : (b2n (!bad) == 1) = true ↔ s.bootChecks image = 0 := by
      rw [← hb']
      by_cases h0 : s.bootChecks image = 0 <;> simp [h0, b2n]
    simp only [h0]

/-! The window. -/

theorem exec_bootWindowWrite_of_taken {s : State} {off : Nat} {d : List Byte} (h : s.fget f_hiBoot_state = 1 ∨ s.fget f_hiBoot_state = 2)
    (hd : d ≠ []) (hw : off + d.length ≤ 0x80000) (hoff : s.host.image.length ≤ off) :
    Answers (.bootWindowWrite off d) s fun t => t.host.image = s.host.image ++ zeros (off - s.host.image.length) ++ d ∧
      t.fget f_hiBoot_state = 2 ∧ t.fget f_hiBoot_blocks_checked =
        (s.fget f_hiBoot_blocks_checked + ((off + d.length) / 4096 - off / 4096)) % 256 ∧ t.mem = s.mem ∧ t.sc = s.sc := by
  have hlen : (s.host.image ++ zeros (off - s.host.image.length) ++ d).length = off + d.length := by
    rw [List.length_append, List.length_append, zeros, List.length_replicate]
    omega
  have hstart : (if off = s.host.image.length then s.host.image.length else off) = off := by
    split
    next h => exact h.symm
    next => rfl
  have hwrite : s.bootWrite off d = (({ s with host := { s.host with
      image := s.host.image ++ zeros (off - s.host.image.length) ++ d } } : State).fput f_hiBoot_blocks_checked
        (s.fget f_hiBoot_blocks_checked + ((off + d.length) / 4096 - off / 4096))).fput f_hiBoot_state 2 := by
    rw [State.bootWrite, if_neg (Nat.not_lt.mpr hw)]
    dsimp only
    rw [if_neg ?_, hlen, hstart]
    rintro (h0 | h0 | h0 | h0)
    · omega
    · omega
    · omega
    · exact hd (List.isEmpty_iff.mp h0)
  refine ⟨_, congrArg Host.Outcome.next ((if_neg (by omega)).trans hwrite), rfl, ?_, ?_, rfl, rfl⟩
  · exact State.fget_fput_same _ _ _ (by decide) (by decide)
  · rw [State.fget_fput_ne _ _ _ _ (by decide) (by decide) (by decide) (by decide)]
    exact State.fget_fput_same _ _ _ (by decide) (by decide)

/-- Settles O47: what the boot window takes, and what the release leaves. -/
theorem boot : Obligations.Boot := by
  unfold Obligations.Boot
  refine fun s off d image hi => ⟨exec_bootWindowWrite_of_taken, fun h hw => ?_, fun h4 hw => ?_, fun h4 => congrArg _ (if_pos h4),
    fun h1 h2 => congrArg _ (if_pos ⟨h1, h2⟩), fun h => exec_bootGo_of_image h hi⟩
  · refine congrArg Host.Outcome.next ?_
    split
    next => rfl
    next =>
      rw [State.bootWrite, if_neg (Nat.not_lt.mpr hw)]
      dsimp only
      refine if_pos ?_
      rcases h with h | h | h | h
      · exact .inl h
      · exact .inr (.inl h.ge)
      · exact .inr (.inr (.inl h))
      · exact .inr (.inr (.inr (List.isEmpty_iff.mpr h)))
  · exact congrArg _ ((if_neg h4).trans (if_pos hw))

end Sys2Proof.Machine

/-! ## Warm resets and the edges of power (O48, R474, R530, R572, R576, R604, R612, R614, R637 to R640) -/

namespace Sys2Proof.Machine

theorem State.warmReset_of_running {s : State} (h : s.timeRuns = true) (k : Nat) : s.warmReset k = (s.warmBegin k).mainRelease := if_pos h

theorem State.warmReset_of_held {s : State} (h : s.timeRuns = false) (k : Nat) : s.warmReset k = s := if_neg (Bool.eq_false_iff.mp h)

theorem State.warmBegin_timeRuns (s : State) (k : Nat) : (s.warmBegin k).timeRuns = false := rfl

/-- PERST# asserted: what it does first, and then it holds (R576, R639). -/
theorem exec_perstAssert_of {s s1 : State} {cool : Bool}
    (h : (s.aoc.tripped = true ∧ s1 = if cool = true then s.tripRelease else s) ∨
      (s.aoc.tripped = false ∧ s1 = if s.timeRuns = true then s.warmBegin 0 else s)) :
    exec (.perstAssert cool) s = .next { s1 with aoc := { s1.aoc with perst := true } } := by
  rw [exec_perstAssert, execPerstAssert]
  dsimp only
  rcases h with ⟨ht, h1⟩ | ⟨ht, h1⟩
  · rw [h1, if_pos ht]
  · rw [h1, if_neg (Bool.eq_false_iff.mp ht)]
    split <;> rfl

theorem exec_perstAssert_of_running {s : State} (ht : s.aoc.tripped = false) (hr : s.timeRuns = true) (cool : Bool) :
    Answers (.perstAssert cool) s fun t => t.aoc.perst = true ∧ t.timeRuns = false := by
  refine ⟨_, exec_perstAssert_of (.inr ⟨ht, rfl⟩), rfl, ?_⟩
  rw [if_pos hr]
  exact s.warmBegin_timeRuns 0

theorem exec_watchdogExpiry_of_held {s : State} (h : s.timeRuns = false ∨ s.fbit f_aocWdog_arm = false) :
    exec .watchdogExpiry s = .next s := by
  refine if_pos ?_
  rcases h with h | h <;> rw [h]
  · rfl
  · exact Bool.or_true _

theorem exec_watchdogExpiry_of_armed {s : State} (hr : s.timeRuns = true) (ha : s.fbit f_aocWdog_arm = true) :
    exec .watchdogExpiry s =
      .next (((s.sediment' 0x10 0 0x0044 (s.fget f_aocWdog_timeout_ms)).fput f_aocWdog_expired 1).warmReset 2) := by
  refine if_neg ?_
  rw [hr, ha]
  exact Bool.false_ne_true

/-- A tamper event's entry and the zeroisation of the keys leave a trip standing. -/
theorem State.zeroise_tripped (s : State) : ((s.sediment' 0x10 0 0x0045 0).zeroise).aoc.tripped = s.aoc.tripped := by
  rw [← State.sediment_aoc s 0x10 0 0x0045 0]
  rfl

theorem exec_tamper_of {s : State} (hp : s.aoc.porst = false) (cool : Bool) :
    exec (.tamper cool) s = .next (if s.aoc.tripped then
      (if cool then ((s.sediment' 0x10 0 0x0045 0).zeroise).tripRelease.mainRelease else (s.sediment' 0x10 0 0x0045 0).zeroise)
        else ((s.sediment' 0x10 0 0x0045 0).zeroise).warmReset 3) := by
  rw [exec_tamper, execTamper, if_neg (Bool.eq_false_iff.mp hp)]
  dsimp only
  rw [State.zeroise_tripped]

/-- Settles O48: warm resets by their causes, and the edges of power. -/
theorem warmResetsAndPower : Obligations.WarmResetsAndPower := by
  unfold Obligations.WarmResetsAndPower
  refine ⟨fun s cool => ⟨rfl, fun k => ⟨fun h => State.warmReset_of_held h k, fun h => State.warmReset_of_running h k⟩,
    fun s1 h => exec_perstAssert_of h, fun ht hr => exec_perstAssert_of_running ht hr cool,
    fun h => congrArg Host.Outcome.next (if_neg (Bool.eq_false_iff.mp h)), fun h => congrArg Host.Outcome.next (if_pos h),
    exec_watchdogExpiry_of_armed, exec_watchdogExpiry_of_held, fun h => if_pos h, fun s1 hp hs1 => ⟨fun ht => ?_, fun ht => ?_⟩⟩,
    fun s testen => ⟨⟨_, rfl, rfl, rfl, rfl, rfl, rfl, rfl, rfl, rfl, rfl⟩,
      fun s1 hs1 => ⟨fun h => ?_, fun h => ?_⟩, fun h => if_pos h, fun s1 s2 hp hs1 hs2 => ?_, fun h => if_pos ?_, fun s1 hp hs1 => ?_,
      fun h => if_pos ?_, fun hr => ⟨_, if_neg ?_, rfl, fun h2 => s.mem_causes_srEnter 1 h2⟩⟩⟩
  · rw [exec_tamper_of hp, if_neg (Bool.eq_false_iff.mp ht), hs1]
  · rw [exec_tamper_of hp, if_pos ht, hs1]
  · rw [hs1]
    exact congrArg Host.Outcome.next (if_pos h)
  · rw [hs1]
    exact congrArg Host.Outcome.next (if_neg h)
  · rw [exec_mainPwrgdRise, execMainPwrgdRise, if_neg (Bool.eq_false_iff.mp hp), hs2, hs1]
  · rw [h]
    rfl
  · rw [exec_mainPwrgdFall, execMainPwrgdFall, if_neg (by rw [hp]; exact Bool.false_ne_true), hs1]
  · rw [h]
    rfl
  · rw [hr]
    exact Bool.false_ne_true

end Sys2Proof.Machine

/-! ## SPDM in its order (O51, R538 to R540) -/

namespace Sys2Proof.Machine

theorem State.spdmAt_of_down {s : State} (h : s.scUp = false) (stage : Nat) (f : State) : s.spdmAt stage f = s := by
  rw [State.spdmAt, h]
  rfl

/-- A request before its turn is refused. -/
theorem State.spdmAt_of_early {s : State} (hu : s.scUp = true) {stage : Nat} (h : s.sc.spdm < stage) (f : State) :
    s.spdmAt stage f = s.spdmRefuse := by
  rw [State.spdmAt, if_neg (by rw [hu]; exact Bool.false_ne_true)]
  exact if_pos h

theorem State.spdmAt_of_turn {s : State} (hu : s.scUp = true) {stage : Nat} (h : stage ≤ s.sc.spdm) (f : State) : s.spdmAt stage f = f := by
  rw [State.spdmAt, if_neg (by rw [hu]; exact Bool.false_ne_true)]
  exact if_neg (Nat.not_lt.mpr h)

/-- What a request that the SC does not answer, refuses, or answers comes to. -/
theorem next_spdmAt_of_down {s : State} (h : s.scUp = false) (stage : Nat) (f : State) :
    (.next (s.spdmAt stage f) : Host.Outcome State Fault Refusal) = .next s := congrArg _ (State.spdmAt_of_down h stage f)

theorem next_spdmAt_of_early {s : State} (hu : s.scUp = true) {stage : Nat} (h : s.sc.spdm < stage) (f : State) :
    (.next (s.spdmAt stage f) : Host.Outcome State Fault Refusal) = .next s.spdmRefuse := congrArg _ (State.spdmAt_of_early hu h f)

theorem next_spdmAt_of_turn {s : State} (hu : s.scUp = true) {stage : Nat} (h : stage ≤ s.sc.spdm) (f : State) :
    (.next (s.spdmAt stage f) : Host.Outcome State Fault Refusal) = .next f := congrArg _ (State.spdmAt_of_turn hu h f)

section
variable {s : State} (hu : s.scUp = true)
include hu

/-- A request of the third stage before the negotiation is done. -/
theorem spdm_refused_before_algorithms (h : s.sc.spdm < 3) :
    exec .getDigests s = .next s.spdmRefuse ∧ (∀ o n, exec (.getCertificate o n) s = .next s.spdmRefuse) ∧
      (∀ d, exec (.challenge d) s = .next s.spdmRefuse ∧ exec (.keyExchange d) s = .next s.spdmRefuse) ∧
      (∀ i d, exec (.getMeasurements i d) s = .next s.spdmRefuse) ∧
      (∀ id b, exec (.finish id b) s = .next s.spdmRefuse ∧ exec (.heartbeat id) s = .next s.spdmRefuse ∧
        exec (.endSession id) s = .next s.spdmRefuse) := by
  have hr := fun f => next_spdmAt_of_early hu h f
  exact ⟨hr _, fun _ _ => hr _, fun _ => ⟨hr _, hr _⟩, fun _ _ => hr _, fun _ _ => ⟨hr _, hr _, hr _⟩⟩

variable (h3 : 3 ≤ s.sc.spdm)
include h3

theorem exec_getMeasurements_of_turn (i : Fin 256) (nonce : List Byte) {b : List Byte} (hb : b = s.measurements i.val) :
    (b = [] → exec (.getMeasurements i nonce) s = .next (s.emit (.spdm spdmError [1, 0]))) ∧
      (∀ n g, b ≠ [] → n = (s.drbg 32).1 → g = (s.drbg 32).2.aliasSign (nonce ++ b ++ n) →
        exec (.getMeasurements i nonce) s = .next (g.2.emit (.spdm 0x60 (b ++ n ++ g.1)))) := by
  rw [exec_getMeasurements, execGetMeasurements, State.spdmAt_of_turn hu h3, ← hb]
  refine ⟨fun h0 => ?_, fun n g h0 hn hg => ?_⟩
  · rw [h0]
    rfl
  · rw [hg, hn, if_neg fun h => h0 (List.isEmpty_iff.mp h)]

theorem exec_keyExchange_of_turn (pub : List Byte) :
    (4 ≤ s.sc.sessions.length → exec (.keyExchange pub) s = .next (s.emit (.spdm spdmError [0x0A, 0]))) ∧
      (s.sc.sessions.length < 4 → Answers (.keyExchange pub) s fun t =>
        t.sc.sessions = s.sc.sessions ++ [⟨s.sc.nextSession, false⟩] ∧ t.sc.nextSession = s.sc.nextSession + 1 ∧ t.regs = s.regs ∧
          t.mem = s.mem ∧ ∃ own sig, t.out = s.out ++ [.spdm 0x64 (leBytes 2 s.sc.nextSession ++ own ++ sig)]) := by
  have hx := fun f => next_spdmAt_of_turn hu h3 f
  refine ⟨fun h => (hx _).trans (congrArg _ (if_pos h)), fun h => ⟨_, (hx _).trans (congrArg _ (if_neg (Nat.not_le.mpr h))), rfl, rfl, rfl, rfl, _, _, rfl⟩⟩

theorem exec_finish_of_turn (id : Nat) :
    (s.session id = none ∨ s.inSession id = true → ∀ b, exec (.finish id b) s = .next s.spdmRefuse) ∧
      (s.session id ≠ none → s.inSession id = false →
        exec (.finish id true) s = .next ((s.openSession id).emit (.spdm 0x65 [])) ∧
        exec (.finish id false) s = .next ((s.dropSession id).emit (.spdm spdmError [6, 0]))) := by
  have hx : ∀ b, exec (.finish id b) s = .next (match s.session id with
      | none => s.spdmRefuse
      | some x => if x.open_ then s.spdmRefuse else if !b then (s.dropSession id).emit (.spdm spdmError [6, 0])
        else (s.openSession id).emit (.spdm 0x65 [])) := fun b => by
    rw [exec_finish, execFinish, State.spdmAt_of_turn hu h3]
    rfl
  rw [hx, hx]
  rcases hs : s.session id with _ | x
  · exact ⟨fun _ b => by rw [hx, hs], fun h => absurd rfl h⟩
  · have hin : s.inSession id = x.open_ := by rw [State.inSession, hs]
    refine ⟨fun h b => ?_, fun _ ho => ?_⟩
    · rw [hx, hs]
      have ho : x.open_ = true := hin ▸ h.resolve_left (Option.some_ne_none x)
      exact congrArg _ (if_pos ho)
    · rw [hin] at ho
      dsimp only
      rw [ho]
      exact ⟨rfl, rfl⟩

theorem exec_session_of_turn (id : Nat) :
    (s.inSession id = true → exec (.heartbeat id) s = .next (s.emit (.spdm 0x68 [])) ∧
      exec (.endSession id) s = .next ((s.dropSession id).emit (.spdm 0x6C []))) ∧
    (s.inSession id = false → exec (.heartbeat id) s = .next s.spdmRefuse ∧ exec (.endSession id) s = .next s.spdmRefuse) := by
  rw [exec_heartbeat, execHeartbeat, exec_endSession, execEndSession, State.spdmAt_of_turn hu h3, State.spdmAt_of_turn hu h3]
  refine ⟨fun h => ?_, fun h => ?_⟩ <;> rw [h] <;> exact ⟨rfl, rfl⟩

end

/-- Settles O51: SPDM requests in their order. -/
theorem spdmAnswers : Obligations.SpdmAnswers := by
  unfold Obligations.SpdmAnswers
  refine ⟨fun s hd => ?_, fun s hu => ?_⟩
  · have hx := fun stage f => next_spdmAt_of_down hd stage f
    exact ⟨hx _ _, hx _ _, hx _ _, fun _ => hx _ _, fun _ _ => hx _ _, fun _ => ⟨hx _ _, hx _ _⟩, fun _ _ => hx _ _,
      fun _ _ => ⟨hx _ _, hx _ _, hx _ _⟩⟩
  · have hearly := fun {stage} (h : s.sc.spdm < stage) f => next_spdmAt_of_early hu h f
    have hturn := fun {stage} (h : stage ≤ s.sc.spdm) f => next_spdmAt_of_turn hu h f
    refine ⟨hturn (Nat.zero_le _) _, fun h => hearly h _, fun h => hturn h _, fun h _ => hearly h _, fun h => ⟨hturn h _, hturn h _⟩,
      spdm_refused_before_algorithms hu, fun h3 => ⟨hturn h3 _, fun _ _ => hturn h3 _, fun nonce d g hd hg => ?_,
        fun i nonce b hb => exec_getMeasurements_of_turn hu h3 i nonce hb, exec_keyExchange_of_turn hu h3,
        fun id => ⟨(exec_finish_of_turn hu h3 id).1, (exec_finish_of_turn hu h3 id).2, exec_session_of_turn hu h3 id⟩⟩⟩
    subst hd hg
    exact hturn h3 _

/-! ## What a reset of the main domains leaves (O49, R639) -/

/-- The registers outside the always-on domain fall to their reset values, the others stay. -/
theorem State.rd_resetMain (s : State) {o : Nat} (h1 : o ≠ f_aocWdog_arm.off) (h2 : o ≠ f_scStatus_tamper_seen.off) :
    s.resetMain.rd o = if alwaysOn o then s.rd o else regReset o := by
  have hr : s.resetMain.rd o = mapGet regReset (mapDrop (fun k => !alwaysOn k) s.regs) o := by
    rw [State.resetMain]
    dsimp only
    rw [State.rd_fput_ne (f := f_scStatus_debug_unlocked) _ _ h2, State.rd_fput_ne _ _ h2, State.rd_fput_ne _ _ h1]
    rfl
  rw [hr, mapGet_drop]
  cases alwaysOn o <;> rfl

/-- Settles O49: what the reset of the main domains clears, and what it keeps. -/
theorem mainReset : Obligations.MainReset := by
  unfold Obligations.MainReset
  refine fun s => ⟨rfl, rfl, rfl, rfl, rfl, rfl, rfl, rfl, rfl, rfl, rfl, rfl, fun o ho hs => ?_, fun o ho ha hs => ?_⟩
  · have h1 : o ≠ f_aocWdog_arm.off := fun h => absurd (h ▸ ho) (by decide)
    rw [s.rd_resetMain h1 hs, ho]
    rfl
  · rw [s.rd_resetMain ha hs, ho]
    rfl

end Sys2Proof.Machine

/-! ## Clocks: lock loss, relock, the reference (O53, R561, R564, R566, R567) -/

namespace Sys2Proof.Machine

/-- A PLL that has lost lock at its first relock attempt, before its domain is stopped or moved. -/
def State.unlocked (s : State) (k : Nat) : State :=
  let s1 := (((s.fput (f_cruPllStatus_locked k) 0).fput (f_cruPllStatus_ready k) 0).fsat (f_cruPllStatus_losses k) 1).fput
    (f_cruPllStatus_attempts k) 1
  ({ s1 with clk := { s1.clk with lost := s1.clk.lost ++ [k] } } : State).raise f_cruEvent_lock_lost

/-- The registers of the PLLs and the domains stand below the block's event register. -/
theorem State.rd_raise_cru (s : State) {o : Nat} (h : 0x940000 ≤ o ∧ o < 0x940200) : (s.raise f_cruEvent_lock_lost).rd o = s.rd o := by
  refine State.rd_raise s f_cruEvent_lock_lost ?_ ?_
  · simp only [sedRegs, List.mem_cons, List.not_mem_nil, or_false]
    omega
  · simp only [f_cruEvent_lock_lost]
    omega

/-- A PLL's status fields share one register. -/
theorem State.pll_congr {s t : State} {k : Nat} (h : t.rd (f_cruPllStatus_locked k).off = s.rd (f_cruPllStatus_locked k).off) :
    t.fbit (f_cruPllStatus_locked k) = s.fbit (f_cruPllStatus_locked k) ∧ t.fbit (f_cruPllStatus_ready k) = s.fbit (f_cruPllStatus_ready k) ∧
      t.fget (f_cruPllStatus_attempts k) = s.fget (f_cruPllStatus_attempts k) :=
  ⟨State.fbit_congr h, State.fbit_congr (f := f_cruPllStatus_ready k) h, State.fget_congr (f := f_cruPllStatus_attempts k) h⟩

section
variable (s : State) (k : Nat)

/-- The status of a PLL that has lost lock, as `unlocked` writes it. -/
def State.unlockedPll : State :=
  (((s.fput (f_cruPllStatus_locked k) 0).fput (f_cruPllStatus_ready k) 0).fsat (f_cruPllStatus_losses k) 1).fput (f_cruPllStatus_attempts k) 1

theorem State.rd_unlocked {o : Nat} (h : 0x940000 ≤ o ∧ o < 0x940200) : (s.unlocked k).rd o = (s.unlockedPll k).rd o := by
  rw [State.unlocked, State.rd_raise_cru _ h]
  rfl

theorem State.unlocked_pll (hk : k < 9) : (s.unlocked k).fbit (f_cruPllStatus_locked k) = false ∧
    (s.unlocked k).fbit (f_cruPllStatus_ready k) = false ∧ (s.unlocked k).fget (f_cruPllStatus_attempts k) = 1 := by
  have hrd := s.rd_unlocked k (o := (f_cruPllStatus_locked k).off) (by simp only [f_cruPllStatus_locked]; omega)
  obtain ⟨hl, hr, ha⟩ := State.pll_congr hrd
  rw [hl, hr, ha, State.unlockedPll]
  simp (disch := simp) [State.fbit, State.fsat, State.fget_fput_ne, State.fget_fput_same, f_cruPllStatus_locked, f_cruPllStatus_ready,
    f_cruPllStatus_losses, f_cruPllStatus_attempts]

/-- The domains' registers, and the PLL counted among those that have lost lock. -/
theorem State.unlocked_domain (j : Nat) (hk : k < 9) (hj : j < 9) : (s.unlocked k).rd (f_cruDomain_src j).off = s.rd (f_cruDomain_src j).off := by
  have hput : ∀ (u : State) (f : Fld) (v : Nat), f.off = 0x940000 + 0x4 + 8 * k → (u.fput f v).rd (f_cruDomain_src j).off = u.rd (f_cruDomain_src j).off :=
    fun u f v hf => State.rd_fput_ne _ _ (by simp only [f_cruDomain_src]; omega)
  rw [s.rd_unlocked k (by simp only [f_cruDomain_src]; omega), State.unlockedPll, hput _ _ _ rfl, State.fsat, hput _ _ _ rfl, hput _ _ _ rfl,
    hput _ _ _ rfl]

theorem State.mem_lost_unlocked : k ∈ (s.unlocked k).clk.lost := by
  rw [State.unlocked, State.raise_clk]
  exact List.mem_append_right _ List.mem_cons_self

end

/-- What the loss of lock does with the domain that takes the PLL (R564). -/
theorem State.loseLock_of_locked {s : State} {k : Nat} (hk : k < 9) (h : s.fbit (f_cruPllStatus_locked k) = true) (noRef : Bool) :
    s.loseLock k noRef = if s.srcNow k ≠ 1 then s.unlocked k
      else if k = 5 ∧ noRef = false then ((s.unlocked k).fput (f_cruDomain_src_now 5) 0).srEnter 2 else (s.unlocked k).stopDomain k := by
  have hsrc : (s.unlocked k).srcNow k = s.srcNow k := State.fget_congr (s.unlocked_domain k k hk hk)
  rw [← hsrc, State.loseLock, if_neg (by rw [h]; exact Bool.false_ne_true)]
  rfl

theorem State.srEnter_quiet (s : State) (actor : Nat) :
    (s.srEnter actor).clk = s.clk ∧ ∀ o, 0x930000 ≤ o → o < 0x950000 → (s.srEnter actor).rd o = s.rd o := by
  rcases Nat.lt_or_ge (s.fget f_mcStatus_state) 2 with h | h
  · rw [s.srEnter_of_training actor h]
    exact ⟨rfl, fun _ _ _ => rfl⟩
  · by_cases h3 : s.fget f_mcStatus_state = 3
    · rw [(s.srEnter_of_up actor h).1 h3]
      exact ⟨rfl, fun _ _ _ => rfl⟩
    · obtain ⟨u, hq, hu⟩ := (s.srEnter_of_up actor h).2 h3
      rw [hu]
      refine ⟨?_, fun o h1 h2 => ?_⟩
      · change (u.putSelfRefresh actor).clk = s.clk
        rw [State.putSelfRefresh]
        split
        · rw [State.raise_clk]
          exact hq.clk
        · exact hq.clk
      · change (u.putSelfRefresh actor).rd o = s.rd o
        have hne : ∀ f : Fld, f.off < 0x820000 → o ≠ f.off := fun f hf => by omega
        rw [State.putSelfRefresh]
        split
        · rw [State.rd_raise _ _ (by simp only [sedRegs, List.mem_cons, List.not_mem_nil, or_false]; omega) (hne _ (by decide)),
            State.rd_fput_ne _ _ (hne _ (by decide)), State.rd_fput_ne _ _ (hne _ (by decide))]
          exact hq.rd o (.inr ⟨h1, h2⟩)
        · rw [State.rd_fput_ne _ _ (hne _ (by decide))]
          exact hq.rd o (.inr ⟨h1, h2⟩)

/-- A PLL that had lock loses it (R564, R566). -/
theorem exec_pllLockLoss_of_locked {s : State} {k : Fin 9} (h : s.fbit (f_cruPllStatus_locked k.val) = true) :
    Answers (.pllLockLoss k) s fun t =>
      t.fbit (f_cruPllStatus_locked k.val) = false ∧ t.fbit (f_cruPllStatus_ready k.val) = false ∧
        t.fget (f_cruPllStatus_attempts k.val) = 1 ∧ k.val ∈ t.clk.lost ∧
        (k.val ≠ 5 → s.srcNow k.val = 1 → t.fbit (f_cruDomain_stopped k.val) = true) ∧
        (k.val = 5 → s.srcNow k.val = 1 → t.srcNow k.val = 0) ∧
        (s.srcNow k.val ≠ 1 → t.srcNow k.val = s.srcNow k.val ∧
          t.fbit (f_cruDomain_stopped k.val) = s.fbit (f_cruDomain_stopped k.val)) := by
  obtain ⟨n, hn⟩ := k
  obtain ⟨u, hu⟩ : ∃ u, u = s.unlocked n := ⟨_, rfl⟩
  have hpll := s.unlocked_pll n hn
  have hlost := s.mem_lost_unlocked n
  have hdom := s.unlocked_domain n n hn hn
  have hx := State.loseLock_of_locked hn h false
  rw [← hu] at hpll hlost hdom hx
  have hne : (f_cruPllStatus_locked n).off ≠ (f_cruDomain_src n).off := by
    simp only [f_cruDomain_src, f_cruPllStatus_locked]
    omega
  refine ⟨_, congrArg Host.Outcome.next hx, ?_⟩
  by_cases h1 : s.srcNow n = 1
  · rw [if_neg (not_not.mpr h1)]
    by_cases h5 : n = 5
    · subst h5
      rw [if_pos ⟨rfl, rfl⟩]
      obtain ⟨hclk, hrd⟩ := (u.fput (f_cruDomain_src_now 5) 0).srEnter_quiet 2
      have hst : (((u.fput (f_cruDomain_src_now 5) 0)).srEnter 2).rd (f_cruPllStatus_locked 5).off = u.rd (f_cruPllStatus_locked 5).off :=
        (hrd _ (by decide) (by decide)).trans (State.rd_fput_ne _ _ (by decide))
      obtain ⟨hl, hr, ha⟩ := State.pll_congr hst
      refine ⟨hl.trans hpll.1, hr.trans hpll.2.1, ha.trans hpll.2.2, ?_,
        fun h => absurd rfl h, fun _ _ => ?_, fun h => absurd h1 h⟩
      · rw [hclk]
        exact hlost
      · rw [State.srcNow, State.fget_congr (hrd (f_cruDomain_src_now 5).off (by decide) (by decide))]
        exact State.fget_fput_same _ _ _ (by decide) (by decide)
    · rw [if_neg fun h => h5 h.1]
      have hst : (u.stopDomain n).rd (f_cruPllStatus_locked n).off = u.rd (f_cruPllStatus_locked n).off := State.rd_fput_ne u _ hne
      obtain ⟨hl, hr, ha⟩ := State.pll_congr hst
      refine ⟨hl.trans hpll.1, hr.trans hpll.2.1, ha.trans hpll.2.2, hlost,
        fun _ _ => ?_, fun h => absurd h h5, fun h => absurd h1 h⟩
      have hstop : (u.stopDomain n).fget (f_cruDomain_stopped n) = 1 :=
        State.fget_fput_same u (f_cruDomain_stopped n) 1 (show (5 : Nat) ≤ 5 by decide) (show (5 : Nat) < 32 by decide)
      rw [State.fbit, hstop]
      rfl
  · rw [if_pos h1]
    exact ⟨hpll.1, hpll.2.1, hpll.2.2, hlost, fun _ h => absurd h h1, fun _ h => absurd h h1,
      fun _ => ⟨State.fget_congr hdom, State.fbit_congr hdom⟩⟩

/-- Settles O53: what the loss of lock, a relock attempt, a relock and the loss of the reference come to. -/
theorem clockLosses : Obligations.ClockLosses := by
  unfold Obligations.ClockLosses
  refine ⟨fun s k => ⟨fun h => congrArg Host.Outcome.next (if_pos (by rw [h]; rfl)), exec_pllLockLoss_of_locked⟩,
    fun s k count => ⟨fun h ha => ?_, fun h ha => ?_, fun h => ?_, fun h => ?_, fun h1 h2 => if_pos ⟨h1, h2⟩, fun h => ?_,
      fun he hf hl => ?_, fun h => ?_⟩⟩
  · refine ⟨s.fput (f_cruPllStatus_attempts k.val) (s.fget (f_cruPllStatus_attempts k.val) + 1), ?_, ?_, ?_⟩
    · rw [exec_relockAttemptTimeout, execRelockAttemptTimeout, if_neg (by simpa using h)]
      exact congrArg Host.Outcome.next (if_pos ha)
    · rw [State.fget_fput_same _ _ _ (by simp [f_cruPllStatus_attempts]) (by simp [f_cruPllStatus_attempts])]
      exact Nat.mod_eq_of_lt (show _ < 2 ^ 2 by omega)
    · exact (RegsOnly.refl s _).fput List.mem_cons_self _
  · rw [exec_relockAttemptTimeout, execRelockAttemptTimeout, if_neg (by simpa using h)]
    exact congrArg Host.Outcome.next (if_neg (by omega))
  · exact ⟨if_pos (by simpa using h), if_pos (by simpa using h)⟩
  · rw [exec_pllRelocked, execPllRelocked, if_neg (by simpa using h)]
  · rw [exec_refLost, execRefLost, if_neg (by omega)]
  · refine ⟨(s.fput (f_cruPllStatus_locked k.val) 1).fput (f_cruPllStatus_ready k.val) 1, ?_, ?_, ?_, ?_⟩
    · rw [exec_pllReady, execPllReady, if_neg ?_]
      rw [he, hf]
      simpa using hl
    · simp (disch := simp) [State.fbit, State.fget_fput_ne, State.fget_fput_same, f_cruPllStatus_locked, f_cruPllStatus_ready]
    · simp (disch := simp) [State.fbit, State.fget_fput_same, f_cruPllStatus_ready]
    · exact ((RegsOnly.refl s [(f_cruPllStatus_locked k.val).off]).fput List.mem_cons_self _).fput (f := f_cruPllStatus_ready k.val) List.mem_cons_self _
  · refine if_pos ?_
    rcases h with h | h | h
    · rw [h]
      rfl
    · rw [h, Bool.or_true]
      rfl
    · rw [Bool.or_eq_true]
      exact .inr (by simpa using h)

end Sys2Proof.Machine

/-! ## Sources and PLLs (O54, R561, R580, R582), limits and core power (O56, R570, R571, R573, R591) -/

namespace Sys2Proof.Machine

/-- The means are written to the PG block alone. -/
theorem State.setMeans_spec (s : State) : s.setMeans = { s with regs := s.setMeans.regs } ∧
    ∀ o, o < 0x930010 ∨ 0x930020 ≤ o → s.setMeans.rd o = s.rd o := by
  have hfold : ∀ (l : List Nat) (u : State), (∀ k ∈ l, k < 4) → u = { s with regs := u.regs } →
      (∀ o, o < 0x930010 ∨ 0x930020 ≤ o → u.rd o = s.rd o) →
      (l.foldl (fun (s : State) k => s.fput (f_pgDomainStatus_mean_mhz k) (s.meanMhz k)) u =
        { s with regs := (l.foldl (fun (s : State) k => s.fput (f_pgDomainStatus_mean_mhz k) (s.meanMhz k)) u).regs }) ∧
        ∀ o, o < 0x930010 ∨ 0x930020 ≤ o → (l.foldl (fun (s : State) k => s.fput (f_pgDomainStatus_mean_mhz k) (s.meanMhz k)) u).rd o = s.rd o := by
    intro l
    induction l with
    | nil => exact fun u _ h1 h2 => ⟨h1, h2⟩
    | cons k l ih =>
      intro u hl h1 h2
      have hk := hl k List.mem_cons_self
      refine ih (u.fput (f_pgDomainStatus_mean_mhz k) (u.meanMhz k)) (fun x hx => hl x (List.mem_cons_of_mem _ hx)) ?_ fun o ho => ?_
      · rw [h1]
        rfl
      · refine (State.rd_fput_ne _ _ ?_).trans (h2 o ho)
        simp only [f_pgDomainStatus_mean_mhz]
        omega
  exact hfold _ s (fun k hk => List.mem_range.mp hk) rfl fun _ _ => rfl

theorem State.rd_setMeans (s : State) {o : Nat} (h : o < 0x930010 ∨ 0x930020 ≤ o) : s.setMeans.rd o = s.rd o := s.setMeans_spec.2 o h

/-- What has a write of a domain's source refused (R561, R582). -/
def State.sourceRefused (s : State) (d src : Nat) : Prop :=
  s.domainHeld d = true ∨ src = 3 ∨ (src = 1 ∧ s.fbit (f_cruPllStatus_ready d) = false) ∨
    (src = 2 ∧ (d = 4 ∨ d = 5 ∨ d = 8 ∨ (d < 4 ∧ (s.fbit (f_pgCorePwr_on (2 * d)) = true ∨ s.fbit (f_pgCorePwr_on (2 * d + 1)) = true))))

theorem State.sourceRefused_iff (s : State) (d src : Nat) :
    (src == 3 || s.domainHeld d || (src == 1 && !s.fbit (f_cruPllStatus_ready d)) ||
      (src == 2 && (d == 4 || d == 5 || d == 8 ||
        (decide (d < 4) && !(!s.fbit (f_pgCorePwr_on (2 * d)) && !s.fbit (f_pgCorePwr_on (2 * d + 1))))))) = true ↔ s.sourceRefused d src := by
  simp only [State.sourceRefused, Bool.or_eq_true, Bool.and_eq_true, beq_iff_eq, decide_eq_true_eq, Bool.not_and, Bool.not_not, Bool.not_eq_true']
  tauto

/-- A domain with its source written. -/
def State.sourceStored (s : State) (d : Nat) (v : Word) : State :=
  let s1 := (s.fput (f_cruDomain_src d) (bits v.toNat 1 0)).fput (f_cruDomain_gate_disable d) (bits v.toNat 2 2)
  if s.fbit (f_cruDomain_stopped d) then s1 else s1.fput (f_cruDomain_src_now d) (bits v.toNat 1 0)

theorem State.domainWrite_of_refused {s : State} {d : Nat} {v : Word} (h : s.sourceRefused d (bits v.toNat 1 0)) :
    s.domainWrite d v = s.raise f_cruEvent_switch_refused := if_pos ((s.sourceRefused_iff d _).mpr h)

theorem State.domainWrite_of_taken {s : State} {d : Nat} {v : Word} (h : ¬s.sourceRefused d (bits v.toNat 1 0)) :
    s.domainWrite d v = (s.sourceStored d v).setMeans := if_neg fun hb => h ((s.sourceRefused_iff d _).mp hb)

theorem State.sourceStored_fields (s : State) (d : Nat) (v : Word) :
    (s.sourceStored d v).srcNow d = (if s.fbit (f_cruDomain_stopped d) = true then s.srcNow d else bits v.toNat 1 0) ∧
      (s.sourceStored d v).fget (f_cruDomain_src d) = bits v.toNat 1 0 ∧ s.sourceStored d v = { s with regs := (s.sourceStored d v).regs } ∧
      ∀ o, o ≠ (f_cruDomain_src d).off → (s.sourceStored d v).rd o = s.rd o := by
  have hb : bits v.toNat 1 0 % 4 = bits v.toNat 1 0 := Nat.mod_eq_of_lt (bits_lt _ 1 0)
  rw [State.sourceStored]
  split
  · refine ⟨?_, ?_, rfl, fun o ho => ?_⟩
    · simp (disch := simp) [State.srcNow, State.fget_fput_ne, f_cruDomain_src, f_cruDomain_gate_disable, f_cruDomain_src_now]
    · simp (disch := simp) [State.fget_fput_ne, State.fget_fput_same, f_cruDomain_src, f_cruDomain_gate_disable, hb]
    · exact (State.rd_fput_ne (f := f_cruDomain_gate_disable d) _ _ ho).trans (State.rd_fput_ne _ _ ho)
  · refine ⟨?_, ?_, rfl, fun o ho => ?_⟩
    · simp (disch := simp) [State.srcNow, State.fget_fput_same, f_cruDomain_src_now, hb]
    · simp (disch := simp) [State.fget_fput_ne, State.fget_fput_same, f_cruDomain_src, f_cruDomain_gate_disable, f_cruDomain_src_now, hb]
    · exact (State.rd_fput_ne (f := f_cruDomain_src_now d) _ _ ho).trans
        ((State.rd_fput_ne (f := f_cruDomain_gate_disable d) _ _ ho).trans (State.rd_fput_ne _ _ ho))

/-- The domains' registers lie outside what the means are written to. -/
theorem State.fget_setMeans_domain (s : State) {f : Fld} {d : Nat} (hf : f.off = (f_cruDomain_src d).off) : s.setMeans.fget f = s.fget f :=
  State.fget_congr (s.rd_setMeans (by rw [hf]; simp only [f_cruDomain_src]; omega))

theorem exec_domainSourceWrite_of_taken {s : State} {d : Fin 9} {v : Word} (h : ¬s.sourceRefused d.val (bits v.toNat 1 0)) :
    Answers (.domainSourceWrite d v) s fun t =>
      t.srcNow d.val = (if s.fbit (f_cruDomain_stopped d.val) = true then s.srcNow d.val else bits v.toNat 1 0) ∧
      t.fget (f_cruDomain_src d.val) = bits v.toNat 1 0 ∧ t = { s with regs := t.regs } ∧
      ∀ e : Fin 9, e ≠ d → t.srcNow e.val = s.srcNow e.val := by
  obtain ⟨h1, h2, h3, h4⟩ := s.sourceStored_fields d.val v
  refine ⟨_, congrArg Host.Outcome.next (State.domainWrite_of_taken h), ?_, ?_, ?_, fun e he => ?_⟩
  · exact (State.fget_setMeans_domain (f := f_cruDomain_src_now d.val) (d := d.val) _ rfl).trans h1
  · exact (State.fget_setMeans_domain (d := d.val) _ rfl).trans h2
  · rw [(s.sourceStored d.val v).setMeans_spec.1, h3]
  · refine (State.fget_setMeans_domain (f := f_cruDomain_src_now e.val) (d := e.val) _ rfl).trans (State.fget_congr (h4 _ ?_))
    simp only [f_cruDomain_src_now, f_cruDomain_src]
    omega

/-! The PLLs' enables. -/

/-- A PLL switched off: it has neither lock nor readiness, and relocks no more. -/
def State.pllOff (s : State) (k : Nat) (v : Word) : State :=
  let t := ((s.writeReg (f_cruPllCtrl_enable k).off v).fput (f_cruPllStatus_locked k) 0).fput (f_cruPllStatus_ready k) 0
  { t with clk := { t.clk with lost := t.clk.lost.filter (· != k) } }

theorem State.writeReg_spec (s : State) (off : Nat) (v : Word) :
    s.writeReg off v = { s with regs := (s.writeReg off v).regs } ∧ ∀ o, o ≠ off → (s.writeReg off v).rd o = s.rd o := by
  rw [State.writeReg]
  split
  · exact ⟨rfl, fun o ho => State.rd_wr_ne _ _ ho⟩
  · exact ⟨rfl, fun _ _ => rfl⟩

theorem State.pllWrite_of_refused {s : State} {k : Nat} {v : Word} (hv : bit v.toNat 0 = false)
    (h : s.srcNow k = 1 ∨ s.fget (f_cruDomain_src k) = 1) : s.pllWrite k v = s.raise f_cruEvent_switch_refused :=
  if_pos ⟨by rw [hv]; rfl, h⟩

theorem State.pllWrite_of_on {s : State} {k : Nat} {v : Word} (hv : bit v.toNat 0 = true) :
    s.pllWrite k v = (s.writeReg (f_cruPllCtrl_enable k).off v).setMeans := by
  rw [State.pllWrite, hv]
  exact (if_neg fun h => absurd h.1 Bool.false_ne_true).trans (congrArg State.setMeans (if_pos rfl))

theorem State.pllWrite_of_off {s : State} {k : Nat} {v : Word} (hv : bit v.toNat 0 = false) (h1 : s.srcNow k ≠ 1)
    (h2 : s.fget (f_cruDomain_src k) ≠ 1) : s.pllWrite k v = (s.pllOff k v).setMeans := by
  rw [State.pllWrite, hv]
  exact (if_neg fun h => h.2.elim h1 h2).trans (congrArg State.setMeans (if_neg Bool.false_ne_true))

theorem fbit_writeReg_pllEnable (s : State) (k : Fin 9) (v : Word) :
    (s.writeReg (f_cruPllCtrl_enable k.val).off v).fbit (f_cruPllCtrl_enable k.val) = bit v.toNat 0 := by
  have hrow : ∀ k : Fin 9, findRow (f_cruPllCtrl_enable k.val).off = regRows_cru.head? := by decide +kernel
  exact State.fbit_writeReg (hrow k) rfl ⟨rfl, rfl⟩ ⟨rfl, rfl⟩ (by decide) rfl v

theorem State.pllOff_fields (s : State) (k : Fin 9) {v : Word} (hv : bit v.toNat 0 = false) :
    (s.pllOff k.val v).fbit (f_cruPllCtrl_enable k.val) = false ∧ (s.pllOff k.val v).fbit (f_cruPllStatus_locked k.val) = false ∧
      (s.pllOff k.val v).fbit (f_cruPllStatus_ready k.val) = false ∧ (s.pllOff k.val v).clk.lost = s.clk.lost.filter (· != k.val) ∧
      s.pllOff k.val v = { s with regs := (s.pllOff k.val v).regs, clk := (s.pllOff k.val v).clk } ∧
      ∀ e : Nat, (s.pllOff k.val v).srcNow e = s.srcNow e := by
  obtain ⟨u, hu⟩ : ∃ u, u = s.writeReg (f_cruPllCtrl_enable k.val).off v := ⟨_, rfl⟩
  have hspec := s.writeReg_spec (f_cruPllCtrl_enable k.val).off v
  have hen := fbit_writeReg_pllEnable s k v
  rw [← hu] at hspec hen
  have hoff : s.pllOff k.val v = { (u.fput (f_cruPllStatus_locked k.val) 0).fput (f_cruPllStatus_ready k.val) 0 with
      clk := { u.clk with lost := u.clk.lost.filter (· != k.val) } } := by
    rw [hu]
    rfl
  have hfget : ∀ f, (s.pllOff k.val v).fget f = ((u.fput (f_cruPllStatus_locked k.val) 0).fput (f_cruPllStatus_ready k.val) 0).fget f := fun f => by
    rw [hoff]
    rfl
  have hother : ∀ f : Fld, f.off ≠ (f_cruPllStatus_locked k.val).off → (s.pllOff k.val v).fget f = u.fget f := fun f hf => by
    rw [hfget, State.fget_fput_off (f := f_cruPllStatus_ready k.val) _ _ hf, State.fget_fput_off _ _ hf]
  refine ⟨?_, ?_, ?_, ?_, ?_, fun e => ?_⟩
  · rw [State.fbit, hother _ (by simp only [f_cruPllCtrl_enable, f_cruPllStatus_locked]; omega)]
    exact hen.trans hv
  · rw [State.fbit, hfget]
    simp (disch := simp) [State.fget_fput_ne, State.fget_fput_same, f_cruPllStatus_locked, f_cruPllStatus_ready]
  · rw [State.fbit, hfget]
    simp (disch := simp) [State.fget_fput_same, f_cruPllStatus_ready]
  · rw [hoff, hspec.1]
  · rw [hoff, hspec.1]
    rfl
  · rw [State.srcNow, hother _ (by simp only [f_cruDomain_src_now, f_cruPllStatus_locked]; omega)]
    exact State.fget_congr (hspec.2 _ (by simp only [f_cruDomain_src_now, f_cruPllCtrl_enable]; omega))

/-- Settles O54: the source a domain takes, and the enable of a PLL. -/
theorem sourcesAndPlls : Obligations.SourcesAndPlls := by
  unfold Obligations.SourcesAndPlls
  refine fun s d v => ⟨fun hheld hsrc => exec_domainSourceWrite_of_taken ?_, fun h => congrArg Host.Outcome.next (State.domainWrite_of_refused h),
    fun hv h => congrArg Host.Outcome.next (State.pllWrite_of_refused hv h), fun hv => congrArg Host.Outcome.next (State.pllWrite_of_on hv),
    fun hv h1 h2 => ⟨_, congrArg Host.Outcome.next (State.pllWrite_of_off hv h1 h2), ?_⟩⟩
  · rintro (h | h | ⟨h, hr⟩ | ⟨h, hd⟩)
    · exact absurd (hheld.symm.trans h) Bool.false_ne_true
    · omega
    · rcases hsrc with hs | ⟨hs, hok⟩ | ⟨hs, hok⟩
      · omega
      · exact absurd (hr.symm.trans hok) Bool.false_ne_true
      · omega
    · rcases hsrc with hs | ⟨hs, hok⟩ | ⟨hs, hok⟩
      · omega
      · omega
      · rcases hok with h6 | h7 | ⟨h4, ha, hb⟩
        · omega
        · omega
        · rcases hd with hd | hd | hd | ⟨-, hd | hd⟩
          · omega
          · omega
          · omega
          · exact absurd (ha.symm.trans hd) Bool.false_ne_true
          · exact absurd (hb.symm.trans hd) Bool.false_ne_true
  · obtain ⟨h1, h2, h3, h4, h5, h6⟩ := s.pllOff_fields d hv
    obtain ⟨hmeans, hrd⟩ := (s.pllOff d.val v).setMeans_spec
    have hcru : ∀ f : Fld, 0x940000 ≤ f.off → (s.pllOff d.val v).setMeans.fget f = (s.pllOff d.val v).fget f :=
      fun f hf => State.fget_congr (hrd _ (by omega))
    refine ⟨?_, ?_, ?_, ?_, ?_, fun e => ?_⟩
    · rw [State.fbit, hcru _ (by simp only [f_cruPllCtrl_enable]; omega)]
      exact h1
    · rw [State.fbit, hcru _ (by simp only [f_cruPllStatus_locked]; omega)]
      exact h2
    · rw [State.fbit, hcru _ (by simp only [f_cruPllStatus_ready]; omega)]
      exact h3
    · rw [hmeans]
      exact h4
    · rw [hmeans, h5]
    · rw [State.srcNow, hcru _ (by simp only [f_cruDomain_src_now]; omega)]
      exact h6 e.val

end Sys2Proof.Machine

/-! ## Limits and core power (O56, R570, R571, R573, R591) -/

namespace Sys2Proof.Machine

/-! The limit registers. -/

/-- Where the fields of a limit register lie. -/
theorem limitFields_cases (o : Nat) : limitFields o = [] ∨ (∃ f b, limitFields o = [(f, b)] ∧ f.lo ≤ f.hi ∧ f.hi < 32) ∨
    limitFields o = [(f_pgLimitTemp_throttle_c, 70), (f_pgLimitTemp_trip_c, 100)] := by
  unfold limitFields
  split
  next => exact .inr (.inl ⟨_, _, rfl, by simp [f_pgLimitFmax_fmax_mhz], by simp [f_pgLimitFmax_fmax_mhz]⟩)
  next =>
    split
    next => exact .inr (.inl ⟨_, _, rfl, by decide, by decide⟩)
    next =>
      split
      next => exact .inr (.inr rfl)
      next =>
        split
        next => exact .inr (.inl ⟨_, _, rfl, by simp [f_pgLimitVmax_vmax_mv], by simp [f_pgLimitVmax_vmax_mv]⟩)
        next => exact .inl rfl

/-- A field takes the bits of a word that stand at its place. -/
theorem State.fget_fput_bits (s : State) (f : Fld) (x : Nat) (h : f.lo ≤ f.hi) (h31 : f.hi < 32) :
    (s.fput f (bits x f.hi f.lo)).fget f = bits x f.hi f.lo := by
  rw [State.fget_fput_same _ _ _ h h31]
  exact Nat.mod_eq_of_lt (bits_lt _ _ _)

/-- The fields of a limit register stored. -/
theorem State.limitStored (s : State) (o x : Nat) :
    (∀ p ∈ limitFields o, ((limitFields o).foldl (fun (s : State) p => s.fput p.1 (bits x p.1.hi p.1.lo)) s).fget p.1 = bits x p.1.hi p.1.lo) ∧
      RegsOnly s ((limitFields o).foldl (fun (s : State) p => s.fput p.1 (bits x p.1.hi p.1.lo)) s) ((limitFields o).map fun p => p.1.off) := by
  rcases limitFields_cases o with h | ⟨f, b, h, hlo, hhi⟩ | h <;> rw [h]
  · exact ⟨fun p hp => absurd hp List.not_mem_nil, RegsOnly.refl _ _⟩
  · refine ⟨fun p hp => ?_, (RegsOnly.refl s _).fput List.mem_cons_self _⟩
    rw [List.mem_singleton] at hp
    subst hp
    exact s.fget_fput_bits f x hlo hhi
  · refine ⟨fun p hp => ?_, ((RegsOnly.refl s _).fput (f := f_pgLimitTemp_throttle_c) List.mem_cons_self _).fput
      (f := f_pgLimitTemp_trip_c) List.mem_cons_self _⟩
    rcases List.mem_cons.mp hp with rfl | hp
    · exact (State.fget_fput_ne _ _ _ _ (by decide) (by decide) (by decide) (by decide)).trans (s.fget_fput_bits _ x (by decide) (by decide))
    · rw [List.mem_singleton] at hp
      subst hp
      exact State.fget_fput_bits _ f_pgLimitTemp_trip_c x (by decide) (by decide)

theorem State.limitSet_of_raise {s : State} {o : Nat} {v : Word} (h : ∃ p ∈ limitFields o, s.fget p.1 < bits v.toNat p.1.hi p.1.lo) :
    s.limitSet o v = s.raise f_pgEvent_raise_refused := by
  refine if_pos ?_
  rw [List.any_eq_true]
  simpa using h

theorem State.limitSet_of_low {s : State} {o : Nat} {v : Word} (h : ∀ p ∈ limitFields o, bits v.toNat p.1.hi p.1.lo ≤ s.fget p.1) :
    s.limitSet o v = if (∃ p ∈ limitFields o, bits v.toNat p.1.hi p.1.lo < p.2) then s
      else (limitFields o).foldl (fun (s : State) p => s.fput p.1 (bits v.toNat p.1.hi p.1.lo)) s := by
  have hraise : ¬((limitFields o).any fun p => decide (s.fget p.1 < bits v.toNat p.1.hi p.1.lo)) = true := by
    rw [List.any_eq_true]
    rintro ⟨p, hp, hlt⟩
    exact absurd (h p hp) (Nat.not_le.mpr (of_decide_eq_true hlt))
  refine (if_neg hraise).trans ?_
  by_cases hb : ∃ p ∈ limitFields o, bits v.toNat p.1.hi p.1.lo < p.2
  · rw [if_pos hb]
    refine if_pos ?_
    rw [List.any_eq_true]
    simpa using hb
  · rw [if_neg hb]
    refine if_neg fun ha => hb ?_
    rw [List.any_eq_true] at ha
    simpa using ha

/-! Core power. -/

theorem State.corePower_of_busy {s : State} {n : Nat} (h : s.coreState n ≠ 0) (off : Bool) : s.corePower n off = s := if_pos h

theorem State.corePower_off {s : State} {n : Nat} (h : s.coreState n = 0) :
    s.corePower n true = ((s.fput (f_pgCorePwr_off_req n) 1).fput (f_pgCorePwr_on n) 0).fput (f_pgCoreV_v_mv n) 0 :=
  (if_neg (not_not.mpr h)).trans (if_pos rfl)

theorem State.corePower_on {s : State} {n : Nat} (h : s.coreState n = 0) : s.corePower n false = s.fput (f_pgCorePwr_off_req n) 0 :=
  (if_neg (not_not.mpr h)).trans (if_neg Bool.false_ne_true)

/-- A bank clear that has begun, or was refused, and has ended. -/
theorem State.cleared_keeps (s : State) (n a : Nat) :
    ((s.maClear n a).maCleared n a).mem = s.mem ∧ ((s.maClear n a).maCleared n a).sync = s.sync ∧
      ((s.maClear n a).maCleared n a).fw = s.fw ∧
      ((s.maClear n a).maCleared n a).array n a = { ArrRt.reset with profiles := (s.array n a).profiles, tables := (s.array n a).tables } ∧
      ∀ b, b ≠ a → a < 2 → b < 2 → ((s.maClear n a).maCleared n a).array n b = s.array n b := by
  have hclear : (s.maClear n a).mem = s.mem ∧ (s.maClear n a).sync = s.sync ∧ (s.maClear n a).fw = s.fw ∧ (s.maClear n a).arrays = s.arrays := by
    rw [State.maClear]
    split
    · exact ⟨State.raise_mem _ _, State.raise_sync _ _, State.raise_fw _ _, State.raise_arrays _ _⟩
    · exact ⟨rfl, rfl, rfl, rfl⟩
  obtain ⟨h1, h2, h3, h4⟩ := hclear
  have harr : ∀ b, (s.maClear n a).array n b = s.array n b := fun b => by
    rw [State.array, h4]
    rfl
  refine ⟨?_, ?_, ?_, ?_, fun b hb ha hb2 => ?_⟩
  · simp [State.maCleared, h1]
  · simp [State.maCleared, h2]
  · simp [State.maCleared, h3]
  · rw [State.array_maCleared, harr]
  · rw [← harr b]
    simp only [State.maCleared, State.array_fput]
    exact State.array_setArray_ne _ _ (by omega)

/-- Settles O56: what a limit register takes, and the power of a core. -/
theorem limitsAndCorePower : Obligations.LimitsAndCorePower := by
  unfold Obligations.LimitsAndCorePower
  refine fun s off v n => ⟨fun _ h => ⟨_, congrArg Host.Outcome.next (State.limitSet_of_low fun p hp => (h p hp).2), ?_⟩,
    fun h => congrArg Host.Outcome.next (State.limitSet_of_raise h), fun h hlow => ?_,
    fun h => ⟨⟨_, congrArg Host.Outcome.next (State.corePower_off h), ?_⟩, ⟨_, congrArg Host.Outcome.next (State.corePower_on h), ?_, ?_⟩⟩,
    fun h => ⟨congrArg Host.Outcome.next (State.corePower_of_busy h true), congrArg Host.Outcome.next (State.corePower_of_busy h false)⟩,
    fun h => ?_, fun hon hoff => ?_⟩
  · rw [if_neg fun ⟨p, hp, hlt⟩ => absurd (h p hp).1 (Nat.not_le.mpr hlt)]
    exact s.limitStored off v.toNat
  · refine congrArg Host.Outcome.next ((State.limitSet_of_low h).trans ?_)
    rcases hlow with hnil | hlow
    · rw [hnil]
      exact ite_self _
    · exact if_pos hlow
  · refine ⟨?_, ?_, ?_, ?_⟩
    · simp (disch := simp) [State.fbit, State.fget_fput_ne, State.fget_fput_same, f_pgCorePwr_off_req, f_pgCorePwr_on, f_pgCoreV_v_mv]
    · simp (disch := simp) [State.fbit, State.fget_fput_ne, State.fget_fput_same, f_pgCorePwr_off_req, f_pgCorePwr_on, f_pgCoreV_v_mv]
    · exact (State.fget_fput_same _ _ _ (by simp [f_pgCoreV_v_mv]) (by simp [f_pgCoreV_v_mv])).trans (Nat.zero_mod _)
    · exact (((RegsOnly.refl s _).fput (f := f_pgCorePwr_off_req n.val) List.mem_cons_self _).fput (f := f_pgCorePwr_on n.val)
        List.mem_cons_self _).fput (List.mem_cons_of_mem _ List.mem_cons_self) _
  · simp (disch := simp) [State.fbit, State.fget_fput_same, f_pgCorePwr_off_req]
  · exact (RegsOnly.refl s _).fput (f := f_pgCorePwr_off_req n.val) List.mem_cons_self _
  · refine if_pos ?_
    rcases h with h | h <;> rw [h]
    · rfl
    · exact Bool.or_true _
  · have hexec : exec (.corePowerOnDone n) s = .next (((((s.maClear n.val 0).maCleared n.val 0).maClear n.val 1).maCleared n.val 1).fput
        (f_pgCorePwr_on n.val) 1 |>.startNext []) := by
      rw [exec_corePowerOnDone, execCorePowerOnDone, hon, hoff]
      exact if_neg Bool.false_ne_true
    obtain ⟨m1, y1, w1, a1, b1⟩ := s.cleared_keeps n.val 0
    obtain ⟨u1, hu1⟩ : ∃ u, u = (s.maClear n.val 0).maCleared n.val 0 := ⟨_, rfl⟩
    rw [← hu1] at hexec m1 y1 w1 a1 b1
    obtain ⟨m2, y2, w2, a2, b2⟩ := u1.cleared_keeps n.val 1
    obtain ⟨u2, hu2⟩ : ∃ u, u = (u1.maClear n.val 1).maCleared n.val 1 := ⟨_, rfl⟩
    rw [← hu2] at hexec m2 y2 w2 a2 b2
    refine ⟨u2.fput (f_pgCorePwr_on n.val) 1, hexec, ?_, m2.trans m1, y2.trans y1, w2.trans w1, fun a => ?_⟩
    · simp (disch := simp) [State.fbit, State.fget_fput_same, f_pgCorePwr_on]
    · rw [State.array_fput]
      match a with
      | ⟨0, _⟩ => exact (b2 0 (by decide) (by decide) (by decide)).trans a1
      | ⟨1, _⟩ =>
        refine a2.trans ?_
        rw [b1 1 (by decide) (by decide) (by decide)]

end Sys2Proof.Machine

/-! ## The watchdog, RAS and journal rows (O57, R600, R604, R607, R611, R612, R614, R622, R625, R626, R628) -/

namespace Sys2Proof.Machine

/-! AOC_WDOG. -/

theorem bits_or_one (v : Word) : bits (v ||| 1).toNat 16 1 = bits v.toNat 16 1 := by
  rw [BitVec.toNat_or, show (1 : Word).toNat = 1 by decide]
  simp only [bits, pow_one]
  rw [Nat.or_div_two, show 1 / 2 = 0 by decide, Nat.or_zero]

/-- The watchdog's timeout as a write that arms it sets it: one in range is kept, for another the spec leaves a value open. -/
def State.wdogTimeout (s : State) (t : Nat) : State :=
  if 10 ≤ t ∧ t ≤ 60000 then s.fput f_aocWdog_timeout_ms t else s.draw.2.fput f_aocWdog_timeout_ms (10 + s.draw.1 % 59991)

theorem State.wdogTimeout_spec (s : State) (t : Nat) :
    10 ≤ (s.wdogTimeout t).fget f_aocWdog_timeout_ms ∧ (s.wdogTimeout t).fget f_aocWdog_timeout_ms ≤ 60000 ∧
      (10 ≤ t → t ≤ 60000 → (s.wdogTimeout t).fget f_aocWdog_timeout_ms = t ∧ (s.wdogTimeout t).fresh = s.fresh) ∧
      s.wdogTimeout t = { s with regs := (s.wdogTimeout t).regs, fresh := (s.wdogTimeout t).fresh } ∧
      ∀ o, o ≠ f_aocWdog_arm.off → (s.wdogTimeout t).rd o = s.rd o := by
  have hput : ∀ (u : State) (x : Nat), 10 ≤ x → x ≤ 60000 → (u.fput f_aocWdog_timeout_ms x).fget f_aocWdog_timeout_ms = x := fun u x _ h =>
    (State.fget_fput_same u _ x (by decide) (by decide)).trans (Nat.mod_eq_of_lt (show x < 65536 by omega))
  rw [State.wdogTimeout]
  split
  next h =>
    obtain ⟨h1, h2⟩ := h
    rw [hput s t h1 h2]
    exact ⟨h1, h2, fun _ _ => ⟨rfl, rfl⟩, rfl, fun o ho => State.rd_fput_ne _ _ ho⟩
  next h =>
    have hlt := Nat.mod_lt s.draw.1 (show 0 < 59991 by decide)
    rw [hput s.draw.2 _ (by omega) (by omega)]
    exact ⟨by omega, by omega, fun h1 h2 => absurd ⟨h1, h2⟩ h, rfl, fun o ho => State.rd_fput_ne s.draw.2 _ ho⟩

theorem exec_watchdogArm_of_unarmed {s : State} {v : Word} (h : s.fbit f_aocWdog_arm = false) :
    exec (.watchdogArm v) s = .next { (s.wdogTimeout (bits v.toNat 16 1)).fput f_aocWdog_arm 1 with
      aoc := { s.aoc with wdogAt := s.aonTicks } } := by
  have hw := (s.wdogTimeout_spec (bits v.toNat 16 1)).2.2.2.1
  have haoc : (s.wdogTimeout (bits v.toNat 16 1)).aoc = s.aoc ∧ (s.wdogTimeout (bits v.toNat 16 1)).aonTicks = s.aonTicks := by
    rw [hw]
    exact ⟨rfl, rfl⟩
  rw [← haoc.1, ← haoc.2, exec_watchdogArm, execWatchdogArm, State.wdogWrite, h, State.bit_or_one, bits_or_one]
  exact congrArg Host.Outcome.next (if_pos rfl)

theorem exec_watchdogArm_of_armed {s : State} {v : Word} (h : s.fbit f_aocWdog_arm = true) : exec (.watchdogArm v) s = .next s := by
  rw [exec_watchdogArm, execWatchdogArm, State.wdogWrite, h, State.bit_or_one]
  exact congrArg Host.Outcome.next (if_neg Bool.false_ne_true)

theorem watchdogArm_answers {s : State} (v : Word) (h : s.fbit f_aocWdog_arm = false) :
    Answers (.watchdogArm v) s fun t => t.fbit f_aocWdog_arm = true ∧ t.aoc.wdogAt = s.aonTicks ∧
      10 ≤ t.fget f_aocWdog_timeout_ms ∧ t.fget f_aocWdog_timeout_ms ≤ 60000 ∧
      (10 ≤ bits v.toNat 16 1 → bits v.toNat 16 1 ≤ 60000 → t.fget f_aocWdog_timeout_ms = bits v.toNat 16 1 ∧ t.fresh = s.fresh) ∧
      t = { s with regs := t.regs, aoc := t.aoc, fresh := t.fresh } ∧ ∀ o, o ≠ f_aocWdog_arm.off → t.rd o = s.rd o := by
  obtain ⟨hlo, hhi, hin, heq, hrd⟩ := s.wdogTimeout_spec (bits v.toNat 16 1)
  have hexec := exec_watchdogArm_of_unarmed (v := v) h
  obtain ⟨u, hu⟩ : ∃ u, u = s.wdogTimeout (bits v.toNat 16 1) := ⟨_, rfl⟩
  rw [← hu] at hexec hlo hhi hin heq hrd
  have ht : (u.fput f_aocWdog_arm 1).fget f_aocWdog_timeout_ms = u.fget f_aocWdog_timeout_ms :=
    State.fget_fput_ne _ _ _ _ (by decide) (by decide) (by decide) (by decide)
  refine ⟨_, hexec, ?_, rfl, ?_, ?_, fun h1 h2 => ⟨?_, (hin h1 h2).2⟩, ?_, fun o ho => ?_⟩
  · change (u.fput f_aocWdog_arm 1).fbit f_aocWdog_arm = true
    rw [State.fbit, State.fget_fput_same _ _ _ (by decide) (by decide)]
    rfl
  · change 10 ≤ (u.fput f_aocWdog_arm 1).fget f_aocWdog_timeout_ms
    rwa [ht]
  · change (u.fput f_aocWdog_arm 1).fget f_aocWdog_timeout_ms ≤ 60000
    rwa [ht]
  · change (u.fput f_aocWdog_arm 1).fget f_aocWdog_timeout_ms = bits v.toNat 16 1
    rw [ht]
    exact (hin h1 h2).1
  · rw [heq]
    rfl
  · change (u.fput f_aocWdog_arm 1).rd o = s.rd o
    rw [State.rd_fput_ne _ _ ho, hrd o ho]

/-! RAS_CLASS_CFG and AOC_SED_READ. -/

theorem State.classCfg_of_refused {s : State} {c : Nat} {v : Word}
    (h : c = 0 ∨ bits v.toNat 11 0 = 0 ∨ 3600 < bits v.toNat 11 0 ∨ (c ≠ 11 ∧ bits v.toNat 19 12 = 0)) : s.classCfg c v = s := by
  refine if_pos ?_
  omega

theorem State.classCfg_of_taken {s : State} {c : Nat} {v : Word} (h1 : 1 ≤ c) (h11 : c ≤ 11) (hlo : 1 ≤ bits v.toNat 11 0)
    (hhi : bits v.toNat 11 0 ≤ 3600) (hthr : c ≠ 11 → bits v.toNat 19 12 ≠ 0) :
    s.classCfg c v = if c = 11 then s.fput (f_rasClassCfg_window_s (c - 1)) (bits v.toNat 11 0)
      else (s.fput (f_rasClassCfg_window_s (c - 1)) (bits v.toNat 11 0)).fput (f_rasClassCfg_threshold (c - 1)) (bits v.toNat 19 12) := by
  refine if_neg ?_
  rintro (h | h | h | h | ⟨h, hc⟩)
  · omega
  · omega
  · omega
  · omega
  · exact hthr hc h

theorem State.classCfg_fields {s : State} {c : Nat} {v : Word} (h1 : 1 ≤ c) (h11 : c ≤ 11) (hlo : 1 ≤ bits v.toNat 11 0)
    (hhi : bits v.toNat 11 0 ≤ 3600) (hthr : c ≠ 11 → bits v.toNat 19 12 ≠ 0) :
    (s.classCfg c v).fget (f_rasClassCfg_window_s (c - 1)) = bits v.toNat 11 0 ∧
      (c ≠ 11 → (s.classCfg c v).fget (f_rasClassCfg_threshold (c - 1)) = bits v.toNat 19 12) ∧
      RegsOnly s (s.classCfg c v) [(f_rasClassCfg_window_s (c - 1)).off] := by
  have hwin : (s.fput (f_rasClassCfg_window_s (c - 1)) (bits v.toNat 11 0)).fget (f_rasClassCfg_window_s (c - 1)) = bits v.toNat 11 0 :=
    s.fget_fput_bits (f_rasClassCfg_window_s (c - 1)) v.toNat (by simp [f_rasClassCfg_window_s]) (by simp [f_rasClassCfg_window_s])
  have hregs : RegsOnly s (s.fput (f_rasClassCfg_window_s (c - 1)) (bits v.toNat 11 0)) [(f_rasClassCfg_window_s (c - 1)).off] :=
    (RegsOnly.refl s _).fput List.mem_cons_self _
  rw [State.classCfg_of_taken h1 h11 hlo hhi hthr]
  split
  next hc => exact ⟨hwin, fun h => absurd hc h, hregs⟩
  next hc =>
    refine ⟨?_, fun _ => ?_, hregs.fput (f := f_rasClassCfg_threshold (c - 1)) List.mem_cons_self _⟩
    · refine (State.fget_fput_ne _ _ _ _ ?_ ?_ ?_ ?_).trans hwin <;> simp [f_rasClassCfg_window_s, f_rasClassCfg_threshold]
    · exact State.fget_fput_bits _ (f_rasClassCfg_threshold (c - 1)) v.toNat (by simp [f_rasClassCfg_threshold])
        (by simp [f_rasClassCfg_threshold])

/-- A read of the sediment record shows the entry's four words (R625). -/
theorem State.sedRead_fields (s : State) (v : Word) :
    (s.sedRead v).fget f_aocSedRead_slot = bits v.toNat 11 0 ∧
      (∀ i : Fin 4, ((s.sedRead v).rd (f_aocSedData_data i.val).off).toNat =
        bits (mapGet (fun _ => (0 : BitVec 128)) s.sediment (bits v.toNat 11 0)).toNat (32 * i.val + 31) (32 * i.val)) ∧
      RegsOnly s (s.sedRead v) [f_aocSedRead_slot.off, 0x920014, 0x920018, 0x92001C, 0x920020] := by
  obtain ⟨e, he⟩ : ∃ e, e = (mapGet (fun _ => (0 : BitVec 128)) s.sediment (bits v.toNat 11 0)).toNat := ⟨_, rfl⟩
  have hread : s.sedRead v = ((((s.fput f_aocSedRead_slot (bits v.toNat 11 0)).wr 0x920014 (BitVec.ofNat 32 (e / 2 ^ (32 * 0)))).wr 0x920018
      (BitVec.ofNat 32 (e / 2 ^ (32 * 1)))).wr 0x92001C (BitVec.ofNat 32 (e / 2 ^ (32 * 2)))).wr 0x920020 (BitVec.ofNat 32 (e / 2 ^ (32 * 3))) := by
    rw [he]
    rfl
  have hword : ∀ i, (BitVec.ofNat 32 (e / 2 ^ (32 * i))).toNat = bits e (32 * i + 31) (32 * i) := fun i => by
    rw [BitVec.toNat_ofNat, bits, show 32 * i + 31 + 1 - 32 * i = 32 by omega]
  rw [hread, ← he]
  refine ⟨?_, fun i => ?_, ?_⟩
  · rw [State.fget, State.rd_wr_ne _ _ (by decide), State.rd_wr_ne _ _ (by decide), State.rd_wr_ne _ _ (by decide), State.rd_wr_ne _ _ (by decide)]
    exact s.fget_fput_bits f_aocSedRead_slot v.toNat (by decide) (by decide)
  · rw [← hword]
    match i with
    | 0 => exact congrArg _ ((State.rd_wr_ne _ _ (by decide)).trans ((State.rd_wr_ne _ _ (by decide)).trans ((State.rd_wr_ne _ _ (by decide)).trans
        (State.rd_wr_same _ _ _))))
    | 1 => exact congrArg _ ((State.rd_wr_ne _ _ (by decide)).trans ((State.rd_wr_ne _ _ (by decide)).trans (State.rd_wr_same _ _ _)))
    | 2 => exact congrArg _ ((State.rd_wr_ne _ _ (by decide)).trans (State.rd_wr_same _ _ _))
    | 3 => exact congrArg _ (State.rd_wr_same _ _ _)
  · exact (((((RegsOnly.refl s _).fput (by decide) _).wr (by decide) _).wr (by decide) _).wr (by decide) _).wr (by decide) _

/-! The journal. -/

theorem State.jrPut_regs (s : State) (a : Nat) (l : List Byte) : (s.jrPut a l).regs = s.regs := by
  induction l generalizing s a with
  | nil => rfl
  | cons b l ih => exact ih _ _

/-- A record whose write failed is written once more, at the next sector (R628). -/
theorem exec_journalRecordCommit_of_retry {s : State} {off : Nat} {a : JrAppend} (hw : s.jr.writing = some (off, a)) (hr : s.jr.retried = false) :
    Answers (.journalRecordCommit true) s fun t => t.fbit f_jrEvent_flash_error = true ∧
      t.jr.retried = true ∧ t.jr.writing = some ((off / 4096 + 1) * 4096, a) := by
  obtain ⟨s2, hs2⟩ : ∃ s2, s2 = (s.flag f_jrEvent_flash_error).jrPut ((s.flag f_jrEvent_flash_error).jrSet * setBytes4M + (off / 4096 + 1) * 4096)
    (recordBytes (s.flag f_jrEvent_flash_error).jr.seq a.type a.writer a.payload 0xFF) := ⟨_, rfl⟩
  have hf : s.jrFailed = { s2 with jr := { s2.jr with writing := some ((off / 4096 + 1) * 4096, a), retried := true } } := by
    rw [State.jrFailed, hw, hs2]
    dsimp only
    rw [if_neg (by rw [hr]; exact Bool.false_ne_true)]
  refine ⟨{ s2 with jr := { s2.jr with writing := some ((off / 4096 + 1) * 4096, a), retried := true } }, ?_, ?_, rfl, rfl⟩
  · rw [exec_journalRecordCommit, execJournalRecordCommit, if_pos rfl, hf]
    exact congrArg Host.Outcome.next (if_pos rfl)
  · have hregs : s2.regs = (s.flag f_jrEvent_flash_error).regs := by
      rw [hs2]
      exact State.jrPut_regs _ _ _
    change s2.fbit f_jrEvent_flash_error = true
    rw [State.fbit_congr (s := s.flag f_jrEvent_flash_error) (by rw [State.rd, hregs]; rfl), State.fbit, State.flag,
      State.fget_fput_same _ _ _ (by decide) (by decide)]
    rfl

/-- A record whose second write failed is given up (log entry 27). -/
theorem exec_journalRecordCommit_of_given_up {s s1 : State} {off : Nat} {a : JrAppend} (hw : s.jr.writing = some (off, a))
    (hr : s.jr.retried = true) (hs1 : s1 = s.flag f_jrEvent_flash_error) :
    exec (.journalRecordCommit true) s = .next ((({ s1 with jr := { s1.jr with
      writing := none, retried := false, wp := (off / 4096 + 1) * 4096 } } : State).fput f_jrStatus_state 1).jrServe) := by
  have hf : s.jrFailed = ({ s1 with jr := { s1.jr with
      writing := none, retried := false, wp := (off / 4096 + 1) * 4096 } } : State).fput f_jrStatus_state 1 := by
    rw [State.jrFailed, hw, hs1]
    exact if_pos hr
  rw [exec_journalRecordCommit, execJournalRecordCommit, if_pos rfl, hf]
  exact congrArg Host.Outcome.next (if_neg Bool.false_ne_true)

/-- Settles O57: the watchdog, the counted classes, and the journal's rows. -/
theorem watchdogRasAndJournal : Obligations.WatchdogRasAndJournal := by
  unfold Obligations.WatchdogRasAndJournal
  refine ⟨fun s v c => ⟨watchdogArm_answers v, exec_watchdogArm_of_armed, ⟨_, rfl, rfl, rfl⟩, fun h => ?_, fun n h => ?_,
      fun h1 hlo hhi hthr => ⟨_, rfl, State.classCfg_fields h1 (Nat.lt_succ_iff.mp c.isLt) hlo hhi hthr⟩,
      fun h => congrArg Host.Outcome.next (State.classCfg_of_refused h), ⟨_, rfl, s.sedRead_fields v⟩⟩,
    fun s => ⟨fun h => ⟨congrArg Host.Outcome.next (if_neg (Bool.eq_false_iff.mp h)), congrArg Host.Outcome.next (if_neg (Bool.eq_false_iff.mp h))⟩,
      fun h => ⟨congrArg Host.Outcome.next (if_pos h), congrArg Host.Outcome.next (if_pos h)⟩, fun h => ?_,
      fun a seq s1 s2 h hs2 => ⟨fun ha => ?_, fun ha => ?_⟩, fun h => ?_,
      fun off a hw => ⟨exec_journalRecordCommit_of_retry hw, fun s1 hr hs1 => exec_journalRecordCommit_of_given_up hw hr hs1⟩⟩⟩
  · rw [exec_fencedWritesInterval, execFencedWritesInterval, h]
  · refine ⟨{ s.sediment' 0x0B (((List.range 8).find? fun c => s.coreFailed c).getD 0) 0x0012 n with fenceOpen := none }, ?_, rfl,
      s.sedCount_sediment _ _ _ _, s.sediment_mem _ _ _ _, s.sediment_sync _ _ _ _⟩
    rw [exec_fencedWritesInterval, execFencedWritesInterval, h]
  · rw [exec_journalRecordCommit, execJournalRecordCommit, if_neg Bool.false_ne_true, h]
  · rw [exec_journalRecordCommit, execJournalRecordCommit, if_neg Bool.false_ne_true, h, hs2]
    exact congrArg (fun u => Host.Outcome.next (State.jrServe u)) (if_neg ha)
  · rw [exec_journalRecordCommit, execJournalRecordCommit, if_neg Bool.false_ne_true, h, hs2]
    exact congrArg (fun u => Host.Outcome.next (State.jrServe u)) (if_pos ha)
  · have hf : s.jrFailed = s := by rw [State.jrFailed, h]
    rw [exec_journalRecordCommit, execJournalRecordCommit, if_pos rfl, hf]
    refine congrArg Host.Outcome.next (if_neg ?_)
    rw [h]
    exact Bool.false_ne_true

end Sys2Proof.Machine

/-! ## The management port (O58, R615 to R618) -/

namespace Sys2Proof.Machine

/-! Who owns the port, and the profiles. -/

theorem find?_dropped (l : List (Nat × Nat)) (x : Nat) : (l.filter fun p => p.1 != x).find? (fun p => p.1 == x) = none := by
  rw [List.find?_eq_none]
  intro p hp
  simpa using (List.mem_filter.mp hp).2

theorem find?_not_dropped (l : List (Nat × Nat)) {x y : Nat} (h : y ≠ x) :
    (l.filter fun p => p.1 != x).find? (fun p => p.1 == y) = l.find? fun p => p.1 == y := by
  rw [List.find?_filter]
  congr 1
  funext p
  by_cases hp : p.1 = y
  · simp [hp, h]
  · simp [hp]

theorem toNat_ne_of_ne {e eid : BitVec 8} (h : e ≠ eid) : e.toNat ≠ eid.toNat := fun he => h (BitVec.eq_of_toNat_eq he)

/-- An open profile replaces the one its endpoint had, and no other. -/
theorem State.profile_of_opened {s t : State} {eid : BitVec 8} {g : Nat}
    (h : t.aoc.profiles = (s.aoc.profiles.filter fun (p : Nat × Nat) => p.1 != eid.toNat) ++ [(eid.toNat, g)]) :
    t.profile eid = some g ∧ ∀ e, e ≠ eid → t.profile e = s.profile e := by
  refine ⟨?_, fun e he => ?_⟩
  · rw [State.profile, h, List.find?_append, find?_dropped]
    simp
  · have hne := toNat_ne_of_ne he
    rw [State.profile, State.profile, h, List.find?_append, find?_not_dropped _ hne]
    simp [hne.symm]

theorem State.profile_of_closed {s t : State} {eid : BitVec 8}
    (h : t.aoc.profiles = s.aoc.profiles.filter fun (p : Nat × Nat) => p.1 != eid.toNat) :
    t.profile eid = none ∧ ∀ e, e ≠ eid → t.profile e = s.profile e := by
  refine ⟨?_, fun e he => ?_⟩
  · rw [State.profile, h, find?_dropped]
    rfl
  · rw [State.profile, State.profile, h, find?_not_dropped _ (toNat_ne_of_ne he)]

/-- Whether the port hears a request at all. -/
def State.portDeaf (s : State) (vdm : Bool) : Prop := s.aoc.porst = true ∨ (s.aoc.owns = true ∧ vdm = true)

theorem State.portDeaf_iff (s : State) (vdm : Bool) : (s.aoc.porst || (s.aoc.owns && vdm)) = true ↔ s.portDeaf vdm := by
  simp only [State.portDeaf, Bool.or_eq_true, Bool.and_eq_true]

theorem State.not_portDeaf {s : State} {vdm : Bool} (hp : s.aoc.porst = false) (ho : s.aoc.owns = false ∨ vdm = false) : ¬s.portDeaf vdm := by
  rintro (h | ⟨h1, h2⟩)
  · exact absurd (hp.symm.trans h) Bool.false_ne_true
  · rcases ho with ho | ho
    · exact absurd (ho.symm.trans h1) Bool.false_ne_true
    · exact absurd (ho.symm.trans h2) Bool.false_ne_true

theorem exec_aocTakeover_of_released {s : State} (ho : s.aoc.owns = false) (hr : s.aoc.released = true) :
    Answers .aocTakeover s fun t => t.aoc.owns = true ∧ t.sedCount = (s.sedCount + 1) % 2 ^ 64 ∧ t.mem = s.mem := by
  obtain ⟨s1, hs1⟩ : ∃ s1, s1 = ({ s with aoc := { s.aoc with owns := true } } : State) := ⟨_, rfl⟩
  have hs : s1.sedCount = s.sedCount ∧ s1.mem = s.mem ∧ s1.aoc.owns = true := by
    rw [hs1]
    exact ⟨rfl, rfl, rfl⟩
  refine ⟨s1.sediment' 0x10 0 0x004A (s.fget f_hiFwStatus_heartbeat), ?_, ?_, ?_, (State.sediment_mem _ _ _ _ _).trans hs.2.1⟩
  · rw [exec_aocTakeover, execAocTakeover, if_neg (Bool.eq_false_iff.mp ho)]
    dsimp only
    rw [if_pos hr, hs1]
  · rw [State.sediment_aoc]
    exact hs.2.2
  · exact (s1.sedCount_sediment _ _ _ _).trans (congrArg (fun n => (n + 1) % 2 ^ 64) hs.1)

/-- An endpoint's profile, opened with the bits granted, or closed. -/
def State.openProfile (s : State) (eid : BitVec 8) (g : Nat) : State :=
  { s with aoc := { s.aoc with profiles := (s.aoc.profiles.filter fun (p : Nat × Nat) => p.1 != eid.toNat) ++ [(eid.toNat, g)] } }

def State.closeProfile (s : State) (eid : BitVec 8) : State :=
  { s with aoc := { s.aoc with profiles := s.aoc.profiles.filter fun (p : Nat × Nat) => p.1 != eid.toNat } }

theorem exec_profileOpen_of_match {s : State} {vdm : Bool} (eid : BitVec 8) {lo hi : BitVec 8} (caps : Word) (hd : ¬s.portDeaf vdm)
    (hlo : lo.toNat ≤ 1) (hhi : 1 ≤ hi.toNat) :
    Answers (.profileOpen eid vdm lo hi caps) s fun t => t.profile eid = some (bits caps.toNat 3 0) ∧
      (∀ e, e ≠ eid → t.profile e = s.profile e) ∧ t.regs = s.regs ∧ t.mem = s.mem := by
  obtain ⟨h1, h2⟩ := State.profile_of_opened (s := s) (t := s.openProfile eid (bits caps.toNat 3 0)) rfl
  refine ⟨(s.openProfile eid (bits caps.toNat 3 0)).answer eid 0 (leBytes 1 1 ++ leBytes 1 1 ++ leBytes 1 1 ++ leBytes 4 (bits caps.toNat 3 0)),
    ?_, h1, h2, rfl, rfl⟩
  rw [exec_profileOpen, execProfileOpen, if_neg (mt (s.portDeaf_iff vdm).mp hd), if_pos ⟨hlo, hhi⟩]
  rfl

theorem exec_profileOpen_of_mismatch {s : State} {vdm : Bool} (eid : BitVec 8) {lo hi : BitVec 8} (caps : Word) (hd : ¬s.portDeaf vdm)
    (h : 1 < lo.toNat ∨ hi.toNat < 1) :
    Answers (.profileOpen eid vdm lo hi caps) s fun t => t.profile eid = none ∧ (∀ e, e ≠ eid → t.profile e = s.profile e) ∧
      t.sedCount = (s.sedCount + 1) % 2 ^ 64 := by
  obtain ⟨u, hu⟩ : ∃ u, u = (s.closeProfile eid).sediment' 0x10 0 0x004B hi.toNat := ⟨_, rfl⟩
  have haoc : u.aoc = (s.closeProfile eid).aoc := hu ▸ State.sediment_aoc _ _ _ _ _
  have hcount : u.sedCount = (s.sedCount + 1) % 2 ^ 64 := hu ▸ (s.closeProfile eid).sedCount_sediment _ _ _ _
  obtain ⟨h1, h2⟩ := State.profile_of_closed (s := s) (t := u.answer eid 0x02 (leBytes 1 1 ++ leBytes 1 1)) (eid := eid)
    ((congrArg (·.profiles) haoc).trans rfl)
  refine ⟨u.answer eid 0x02 (leBytes 1 1 ++ leBytes 1 1), ?_, h1, h2, hcount⟩
  rw [exec_profileOpen, execProfileOpen, if_neg (mt (s.portDeaf_iff vdm).mp hd), if_neg (by omega), hu]
  rfl

/-! How a request is served (R616, R617). -/

section
variable {s : State} {eid : BitVec 8} {vdm own : Bool} {code : Nat} {d : List Byte}

theorem State.serve_of_deaf (h : s.portDeaf vdm) (need : MgmtNeed) : s.serve eid vdm own need code d = s :=
  if_pos h

theorem State.serve_of_aoc (hp : s.aoc.porst = false) (ho : s.aoc.owns = true) (hv : vdm = false) (hown : own = false) (need : MgmtNeed) :
    s.serve eid vdm own need code d = s.answer eid 0x04 [] :=
  (if_neg (State.not_portDeaf hp (.inr hv))).trans (if_pos ⟨ho, hown⟩)

/-- What a request that is heard and served comes to by its needs and the endpoint's profile. -/
def State.served (s : State) (eid : BitVec 8) (vdm : Bool) (need : MgmtNeed) (code : Nat) (d : List Byte) : Option Nat → State
  | none => match need with
    | .none => s.answer eid code d
    | .pldm _ => s.answer eid 0x04 []
    | .vendor _ => s
  | some g => match need with
    | .none => s.answer eid code d
    | .pldm (some c) => if bit g c && (!vdm || bit g 2) then s.answer eid code d else s.answer eid 0x05 []
    | .pldm none => if vdm && !bit g 2 then s.answer eid 0x05 [] else s.answer eid code d
    | .vendor c => if bit g c && (!vdm || bit g 2) then s.answer eid code d else s.answer eid 0x05 []

theorem State.serve_of_heard (hp : s.aoc.porst = false) (ho : s.aoc.owns = false ∨ (vdm = false ∧ own = true)) (need : MgmtNeed) :
    s.serve eid vdm own need code d = s.served eid vdm need code d (s.profile eid) := by
  have hdeaf : ¬s.portDeaf vdm := State.not_portDeaf hp (ho.imp_right And.left)
  have hown : ¬(s.aoc.owns = true ∧ own = false) := by
    rintro ⟨h1, h2⟩
    rcases ho with ho | ⟨-, ho⟩
    · exact absurd (ho.symm.trans h1) Bool.false_ne_true
    · exact absurd (h2.symm.trans ho) Bool.false_ne_true
  refine (if_neg hdeaf).trans ((if_neg hown).trans ?_)
  rcases hprof : s.profile eid with _ | g
  · cases need <;> rfl
  · rcases need with _ | (_ | c) | c <;> rfl

/-- The condition under which a request of a feature is served: its capability, and PCIe's where it came over PCIe. -/
theorem granted_iff (g c : Nat) (vdm : Bool) : (bit g c && (!vdm || bit g 2)) = true ↔ bit g c = true ∧ (vdm = true → bit g 2 = true) := by
  cases vdm <;> simp

theorem not_granted_iff (g c : Nat) (vdm : Bool) : ¬(bit g c && (!vdm || bit g 2)) = true ↔ bit g c = false ∨ (vdm = true ∧ bit g 2 = false) := by
  cases vdm <;> cases bit g c <;> simp

end

/-- Before an open, of a feature that is granted, and of one that is not. -/
theorem State.serve_answers {s : State} {eid : BitVec 8} {vdm own : Bool} {need : MgmtNeed} {code : Nat} {d : List Byte}
    (hp : s.aoc.porst = false) (ho : s.aoc.owns = false ∨ (vdm = false ∧ own = true)) :
    (need = .none → s.serve eid vdm own need code d = s.answer eid code d) ∧
      (∀ c, need = .pldm c → s.profile eid = none → s.serve eid vdm own need code d = s.answer eid 0x04 []) ∧
      (∀ c, need = .vendor c → s.profile eid = none → s.serve eid vdm own need code d = s) ∧
      (∀ c g, need = .pldm (some c) ∨ need = .vendor c → s.profile eid = some g →
        (bit g c = true → (vdm = true → bit g 2 = true) → s.serve eid vdm own need code d = s.answer eid code d) ∧
        (bit g c = false ∨ (vdm = true ∧ bit g 2 = false) → s.serve eid vdm own need code d = s.answer eid 0x05 [])) ∧
      (∀ g, need = .pldm none → s.profile eid = some g →
        ((vdm = true → bit g 2 = true) → s.serve eid vdm own need code d = s.answer eid code d) ∧
        (vdm = true → bit g 2 = false → s.serve eid vdm own need code d = s.answer eid 0x05 [])) := by
  rw [State.serve_of_heard hp ho]
  refine ⟨fun h => ?_, fun c h hn => ?_, fun c h hn => ?_, fun c g h hg => ?_, fun g h hg => ?_⟩
  · rw [h]
    cases s.profile eid <;> rfl
  · rw [h, hn]
    rfl
  · rw [h, hn]
    rfl
  · rw [hg]
    rcases h with h | h <;> rw [h] <;>
      exact ⟨fun hb hv => if_pos ((granted_iff g c vdm).mpr ⟨hb, hv⟩), fun hb => if_neg ((not_granted_iff g c vdm).mpr hb)⟩
  · rw [h, hg]
    refine ⟨fun hv => if_neg ?_, fun hv hb => if_pos ?_⟩
    · cases vdm
      · exact Bool.false_ne_true
      · rw [hv rfl]
        exact Bool.false_ne_true
    · rw [hv, hb]
      rfl

/-! The rows' answers (R615, R617, R618). -/

section
variable (s : State) (eid : BitVec 8) (vdm : Bool)

theorem exec_getMctpVersionSupport_answers (x : BitVec 8) :
    (x = 0 ∨ x = 0xFF → exec (.getMctpVersionSupport eid vdm x) s = .next (s.serve eid vdm true .none 0 [1, 0xF1, 0xF3, 0xFF, 0])) ∧
      (x = 1 ∨ x = 5 ∨ x = 0x7E → exec (.getMctpVersionSupport eid vdm x) s =
        .next (s.serve eid vdm true .none 0 (1 :: (List.range 4).map (Config.mctpVersion x.toNat)))) ∧
      (x ≠ 0 → x ≠ 0xFF → x ≠ 1 → x ≠ 5 → x ≠ 0x7E →
        exec (.getMctpVersionSupport eid vdm x) s = .next (s.serve eid vdm true .none 0x80 [])) := by
  have hne : ∀ y : BitVec 8, x ≠ y → x.toNat ≠ y.toNat := fun _ h => toNat_ne_of_ne h
  refine ⟨fun h => ?_, fun h => ?_, fun h0 hff h1 h5 h7e => ?_⟩
  · rcases h with rfl | rfl <;> rfl
  · rcases h with rfl | rfl | rfl <;> rfl
  · have hall : ¬(x.toNat = 0xFF ∨ x.toNat = 0) := not_or.mpr ⟨hne _ hff, hne _ h0⟩
    have hlist : ¬mctpTypes.contains x.toNat = true := by
      simpa [mctpTypes] using ⟨hne _ h1, hne _ h5, hne _ h7e⟩
    exact congrArg Host.Outcome.next ((if_neg hall).trans (if_neg hlist))

theorem exec_getPldmCommands_answers (x : BitVec 8) :
    (x ≠ 0 → x ≠ 2 → exec (.getPldmCommands eid vdm x) s = .next (s.serve eid vdm true (.pldm none) 0x83 [])) ∧
      (x = 0 → exec (.getPldmCommands eid vdm x) s = .next (s.serve eid vdm true (.pldm none) 0 (leBytes 32 0x3C))) ∧
      (x = 2 → exec (.getPldmCommands eid vdm x) s =
        .next (s.serve eid vdm true (.pldm none) 0 (leBytes 32 (2 ^ 4 + 2 ^ 0x0A + 2 ^ 0x11 + 2 ^ 0x21 + 2 ^ 0x50 + 2 ^ 0x51)))) := by
  refine ⟨fun h0 h2 => congrArg Host.Outcome.next (if_neg (not_or.mpr ⟨h0, h2⟩)), fun h => ?_, fun h => ?_⟩
  · rw [exec_getPldmCommands, execGetPldmCommands, if_pos (.inl h), h]
    rfl
  · have hsum : (pldmCommands (2 : BitVec 8).toNat).foldl (fun a c => a + 2 ^ c) 0 =
        2 ^ 4 + 2 ^ 0x0A + 2 ^ 0x11 + 2 ^ 0x21 + 2 ^ 0x50 + 2 ^ 0x51 := by decide
    rw [exec_getPldmCommands, execGetPldmCommands, if_pos (.inr h), h, hsum]

theorem exec_getStateSensorReadings_answers (n : Nat) :
    (∀ r, n = 3 ∨ n = 4 ∨ n = 38 → s.sensor n = some r →
      exec (.getStateSensorReadings eid vdm n) s = .next (s.serve eid vdm false (.pldm (some 0)) 0 (leBytes 4 r))) ∧
      (n ≠ 3 → n ≠ 4 → n ≠ 38 → exec (.getStateSensorReadings eid vdm n) s = .next (s.serve eid vdm false (.pldm (some 0)) 0x80 [])) := by
  refine ⟨fun r hn hr => ?_, fun h3 h4 h38 => ?_⟩
  · rw [exec_getStateSensorReadings, execGetStateSensorReadings, if_pos hn, hr]
    rfl
  · rw [exec_getStateSensorReadings, execGetStateSensorReadings, if_neg (by omega)]
    rfl

theorem exec_setEventReceiver_of_granted {s : State} {eid : BitVec 8} {vdm : Bool} (x : BitVec 8) {g : Nat} (hp : s.aoc.porst = false)
    (ho : s.aoc.owns = false) (hg : s.profile eid = some g) (h0 : bit g 0 = true) (hv : vdm = true → bit g 2 = true) :
    exec (.setEventReceiver eid vdm x) s = .next { s.answer eid 0 [] with evReceiver := some x.toNat } := by
  have hserve := ((State.serve_answers (eid := eid) (vdm := vdm) (own := false) (need := .pldm (some 0)) (code := 0) (d := []) hp (.inl ho)).2.2.2.1
    0 g (.inl rfl) hg).1 h0 hv
  rw [exec_setEventReceiver, execSetEventReceiver, ho, hp, hg, hserve]
  exact congrArg Host.Outcome.next (if_pos ((granted_iff g 0 vdm).mpr ⟨h0, hv⟩))

theorem exec_setEventReceiver_of_refused {s : State} {eid : BitVec 8} {vdm : Bool} (x : BitVec 8)
    (h : s.aoc.porst = true ∨ s.aoc.owns = true ∨ (∀ g, s.profile eid = some g → bit g 0 = false ∨ (vdm = true ∧ bit g 2 = false))) :
    exec (.setEventReceiver eid vdm x) s = .next (s.serve eid vdm false (.pldm (some 0)) 0 []) := by
  refine congrArg Host.Outcome.next (if_neg ?_)
  rw [Bool.and_eq_true, Bool.and_eq_true, Bool.not_eq_true', Bool.not_eq_true']
  rintro ⟨⟨ho, hp⟩, hg⟩
  rcases h with h | h | h
  · exact absurd (hp.symm.trans h) Bool.false_ne_true
  · exact absurd (ho.symm.trans h) Bool.false_ne_true
  · rcases hprof : s.profile eid with _ | g
    · rw [hprof] at hg
      cases hg
    · rw [hprof] at hg
      exact (not_granted_iff g 0 vdm).mpr (h g hprof) hg

end

/-- Settles O58: the management port, its profiles, and the answer of every request. -/
theorem managementPort : Obligations.ManagementPort := by
  unfold Obligations.ManagementPort
  refine ⟨fun s eid vdm lo hi caps x => ⟨fun h => if_pos h, fun ho hr => ?_, exec_aocTakeover_of_released, fun hr hm => ?_, fun h => ?_,
      fun h => ⟨if_pos ((s.portDeaf_iff vdm).mpr h), if_pos ((s.portDeaf_iff vdm).mpr h)⟩, fun hp ho =>
        ⟨exec_profileOpen_of_match eid caps (State.not_portDeaf hp ho), exec_profileOpen_of_mismatch eid caps (State.not_portDeaf hp ho),
          fun h0 hff => ?_, fun h => ?_⟩⟩,
    fun s eid vdm own need code d => ⟨fun h => State.serve_of_deaf h need, fun hp ho hv hown => State.serve_of_aoc hp ho hv hown need,
      fun hp ho => State.serve_answers hp ho⟩,
    fun s eid vdm x n len first count => ⟨rfl, rfl, (exec_getMctpVersionSupport_answers s eid vdm x).1,
      (exec_getMctpVersionSupport_answers s eid vdm x).2.1, (exec_getMctpVersionSupport_answers s eid vdm x).2.2, rfl,
      fun h => congrArg Host.Outcome.next (if_pos h), fun h => congrArg Host.Outcome.next (if_neg h), rfl,
      fun h => congrArg Host.Outcome.next (if_pos h), fun h0 h2 => ⟨congrArg Host.Outcome.next (if_neg (not_or.mpr ⟨h0, h2⟩)),
        (exec_getPldmCommands_answers s eid vdm x).1 h0 h2⟩, rfl, (exec_getPldmCommands_answers s eid vdm x).2.1,
      (exec_getPldmCommands_answers s eid vdm x).2.2, fun own hown => ⟨fun r hr => ?_, fun hr => ?_, ?_⟩,
      (exec_getStateSensorReadings_answers s eid vdm n).1, (exec_getStateSensorReadings_answers s eid vdm n).2, rfl,
      fun g hp ho hg h0 hv => exec_setEventReceiver_of_granted x hp ho hg h0 hv, exec_setEventReceiver_of_refused x, rfl,
      fun h => congrArg Host.Outcome.next (if_neg (by omega)), fun i k h1 h8 hi hk => ?_⟩⟩
  · rw [exec_aocTakeover, execAocTakeover, if_neg (Bool.eq_false_iff.mp ho)]
    exact congrArg Host.Outcome.next (if_neg (Bool.eq_false_iff.mp hr))
  · refine congrArg Host.Outcome.next (if_pos ?_)
    rw [hr, hm]
    rfl
  · refine congrArg Host.Outcome.next (if_neg ?_)
    rcases h with h | h <;> rw [h]
    · exact Bool.false_ne_true
    · rw [Bool.not_true, Bool.and_false]
      exact Bool.false_ne_true
  · rw [exec_setEndpointId, execSetEndpointId, if_neg (mt (s.portDeaf_iff vdm).mp (State.not_portDeaf hp ho)), if_neg (not_or.mpr ⟨h0, hff⟩)]
  · rw [exec_setEndpointId, execSetEndpointId, if_neg (mt (s.portDeaf_iff vdm).mp (State.not_portDeaf hp ho)), if_pos h]
  · rw [exec_getSensorReading, execGetSensorReading, hr, hown]
    rfl
  · rw [exec_getSensorReading, execGetSensorReading, hr, hown]
    rfl
  · rw [exec_getPdr, execGetPdr, hown]
  · rw [exec_sedimentRead, execSedimentRead, hk, hi]
    exact congrArg Host.Outcome.next (if_pos ⟨h1, h8⟩)

end Sys2Proof.Machine

/-! ## Multiplexed pads (O59, R632, R633, R648) -/

namespace Sys2Proof.Machine

theorem padSignal_zero (n : Nat) : padSignal n 0 = none := rfl

theorem padSignal_three (n : Nat) : padSignal n 3 = none := rfl

/-- Another pad than `n` carries the signal, as the write of PIN_MUX judges it. -/
def State.padConflict (s : State) (n : Nat) (sig : Option Nat) : Bool :=
  sig.isSome && (List.range 64).any fun m => m != n && padSignal m (s.fget (f_pinMux_func m)) == sig

theorem State.padConflict_iff (s : State) (n : Fin 64) (sig : Option Nat) :
    s.padConflict n.val sig = true ↔
      ∃ g, sig = some g ∧ ∃ m : Fin 64, m ≠ n ∧ padSignal m.val (s.fget (f_pinMux_func m.val)) = some g := by
  simp only [State.padConflict, Bool.and_eq_true, List.any_eq_true, List.mem_range, bne_iff_ne, beq_iff_eq]
  constructor
  · rintro ⟨hsome, m, hm, hne, hsig⟩
    obtain ⟨g, hg⟩ := Option.isSome_iff_exists.mp hsome
    exact ⟨g, hg, ⟨m, hm⟩, fun e => hne (congrArg Fin.val e), hsig.trans hg⟩
  · rintro ⟨g, hg, m, hne, hsig⟩
    exact ⟨hg ▸ rfl, m.val, m.isLt, fun e => hne (Fin.ext e), hsig.trans hg.symm⟩

/-! What a write leaves. -/

/-- The pad with the drive and pull that a write gives it. -/
def State.padSettings (s : State) (n : Nat) (v : Word) : State :=
  (s.fput (f_pinMux_drive n) (bits v.toNat 3 2)).fput (f_pinMux_pull n) (bits v.toNat 5 4)

/-- The pad at the function that a write gives it, in its hold. -/
def State.padHeld (s : State) (n : Nat) (v : Word) : State :=
  let s1 := ((s.padSettings n v).fput (f_pinMux_func n) (bits v.toNat 1 0)).fput (f_pinMux_switching n) 1
  { s1 with pads := mapSet (fun _ => 0) s1.pads n (1 + b2n (s.padSense n)) }

theorem State.padSettings_fields (s : State) (n : Nat) (v : Word) :
    (s.padSettings n v).fget (f_pinMux_func n) = s.fget (f_pinMux_func n) ∧
      (s.padSettings n v).fget (f_pinMux_drive n) = bits v.toNat 3 2 ∧ (s.padSettings n v).fget (f_pinMux_pull n) = bits v.toNat 5 4 ∧
      (s.padSettings n v).fbit (f_pinMux_switching n) = s.fbit (f_pinMux_switching n) ∧
      RegsOnly s (s.padSettings n v) [(f_pinMux_func n).off] := by
  refine ⟨?_, ?_, ?_, ?_,
    ((RegsOnly.refl s _).fput (f := f_pinMux_drive n) List.mem_cons_self _).fput (f := f_pinMux_pull n) List.mem_cons_self _⟩
  · simp (disch := simp) [State.padSettings, State.fget_fput_ne, f_pinMux_func, f_pinMux_drive, f_pinMux_pull]
  · rw [State.padSettings, State.fget_fput_ne _ _ _ _ (by simp [f_pinMux_pull]) (by simp [f_pinMux_pull]) (by simp [f_pinMux_drive])
      (by simp [f_pinMux_pull, f_pinMux_drive])]
    exact (State.fget_fput_same s (f_pinMux_drive n) _ (show 2 ≤ 3 by decide) (show 3 < 32 by decide)).trans (Nat.mod_eq_of_lt (bits_lt _ _ _))
  · exact (State.fget_fput_same _ (f_pinMux_pull n) _ (show 4 ≤ 5 by decide) (show 5 < 32 by decide)).trans (Nat.mod_eq_of_lt (bits_lt _ _ _))
  · simp (disch := simp) [State.padSettings, State.fbit, State.fget_fput_ne, f_pinMux_switching, f_pinMux_drive, f_pinMux_pull]

theorem State.padHeld_fields (s : State) (n : Nat) (v : Word) :
    (s.padHeld n v).fget (f_pinMux_func n) = bits v.toNat 1 0 ∧
      (s.padHeld n v).fget (f_pinMux_drive n) = bits v.toNat 3 2 ∧ (s.padHeld n v).fget (f_pinMux_pull n) = bits v.toNat 5 4 ∧
      (s.padHeld n v).fbit (f_pinMux_switching n) = true ∧ (s.padHeld n v).fw = s.fw ∧
      RegsOnly { s with pads := (s.padHeld n v).pads } (s.padHeld n v) [(f_pinMux_func n).off] := by
  obtain ⟨-, hdrive, hpull, -, honly⟩ := s.padSettings_fields n v
  obtain ⟨u, hu⟩ : ∃ u, u = s.padSettings n v := ⟨_, rfl⟩
  rw [← hu] at hdrive hpull honly
  have hkeep : ∀ f : Fld, f.lo ≤ f.hi → 1 < f.lo → f.hi < 7 →
      ((u.fput (f_pinMux_func n) (bits v.toNat 1 0)).fput (f_pinMux_switching n) 1).fget f = u.fget f := fun f h1 h2 h3 =>
    (State.fget_fput_ne _ _ _ _ (show 7 ≤ 7 by decide) (show 7 < 32 by decide) h1 (.inr (.inr h3))).trans
      (State.fget_fput_ne _ _ _ _ (show 0 ≤ 1 by decide) (show 1 < 32 by decide) h1 (.inr (.inl h2)))
  have hputs := (honly.fput (f := f_pinMux_func n) List.mem_cons_self (bits v.toNat 1 0)).fput (f := f_pinMux_switching n) List.mem_cons_self 1
  rw [State.padHeld, ← hu]
  refine ⟨?_, (hkeep (f_pinMux_drive n) (show 2 ≤ 3 by decide) (show 1 < 2 by decide) (show 3 < 7 by decide)).trans hdrive,
    (hkeep (f_pinMux_pull n) (show 4 ≤ 5 by decide) (show 1 < 4 by decide) (show 5 < 7 by decide)).trans hpull, ?_,
    (congrArg State.fw hputs.1 :), ?_⟩
  · exact (State.fget_fput_ne _ _ _ _ (show 7 ≤ 7 by decide) (show 7 < 32 by decide) (show 0 ≤ 1 by decide) (.inr (.inr (show 1 < 7 by decide)))).trans
      ((State.fget_fput_same u (f_pinMux_func n) _ (show 0 ≤ 1 by decide) (show 1 < 32 by decide)).trans (Nat.mod_eq_of_lt (bits_lt _ _ _)))
  · exact beq_iff_eq.mpr (State.fget_fput_same _ (f_pinMux_switching n) 1 (show 7 ≤ 7 by decide) (show 7 < 32 by decide))
  · obtain ⟨hself, hrd⟩ := hputs
    refine ⟨?_, hrd⟩
    dsimp only
    rw [hself]

/-- A flag of PIN_EVENT that is raised. -/
theorem State.pinFlag_spec (s : State) {f : Fld} (n : Nat) (ho : f.off = f_pinEvent_busy.off) (h : f.lo = f.hi) (h31 : f.hi < 32) :
    (s.pinFlag f n).fbit f = true ∧ RegsOnly { s with out := (s.pinFlag f n).out } (s.pinFlag f n) [f_pinEvent_busy.off] := by
  refine ⟨beq_iff_eq.mpr ?_, rfl, fun o hne => State.rd_fput_ne s _ (ho ▸ fun e => hne (List.mem_singleton.mpr e))⟩
  rw [show (s.pinFlag f n).fget f = (s.fput f 1).fget f from rfl, State.fget_fput_same _ _ _ (le_of_eq h) h31, ← h,
    Nat.add_sub_cancel_left]
  rfl

/-! The four outcomes of a write. -/

section
variable {s : State} {n : Fin 64} {v : Word}

theorem pinMuxWrite_of_busy (h : s.fbit (f_pinMux_switching n.val) = true) : s.pinMuxWrite n.val v = s.pinFlag f_pinEvent_busy n.val := if_pos h

theorem pinMuxWrite_of_lacking (h : s.fbit (f_pinMux_switching n.val) = false)
    (hf : bits v.toNat 1 0 = 3 ∨ (bits v.toNat 1 0 ≠ 0 ∧ padSignal n.val (bits v.toNat 1 0) = none)) :
    s.pinMuxWrite n.val v = s.pinFlag f_pinEvent_refused n.val := (if_neg (Bool.eq_false_iff.mp h)).trans (if_pos hf)

/-- The pad has the function: it is function 0, or one that gives the pad a signal. -/
theorem padFunction_taken (hf : bits v.toNat 1 0 = 0 ∨ padSignal n.val (bits v.toNat 1 0) ≠ none) :
    ¬(bits v.toNat 1 0 = 3 ∨ (bits v.toNat 1 0 ≠ 0 ∧ padSignal n.val (bits v.toNat 1 0) = none)) := by
  rintro (h3 | ⟨h0, hnone⟩)
  · rw [h3, padSignal_three] at hf
    simp at hf
  · exact hf.elim h0 fun hs => hs hnone

theorem pinMuxWrite_of_conflict {g : Nat} (h : s.fbit (f_pinMux_switching n.val) = false)
    (hne : bits v.toNat 1 0 ≠ s.fget (f_pinMux_func n.val)) (hsig : padSignal n.val (bits v.toNat 1 0) = some g)
    (hm : ∃ m : Fin 64, m ≠ n ∧ padSignal m.val (s.fget (f_pinMux_func m.val)) = some g) :
    s.pinMuxWrite n.val v = s.pinFlag f_pinEvent_conflict n.val :=
  (if_neg (Bool.eq_false_iff.mp h)).trans <| (if_neg (padFunction_taken (.inr (hsig ▸ Option.some_ne_none g)))).trans <|
    if_pos ⟨hne, (State.padConflict_iff s n _).mpr ⟨g, hsig, hm⟩⟩

theorem pinMuxWrite_of_same (h : s.fbit (f_pinMux_switching n.val) = false) (he : bits v.toNat 1 0 = s.fget (f_pinMux_func n.val))
    (hf : bits v.toNat 1 0 = 0 ∨ padSignal n.val (bits v.toNat 1 0) ≠ none) : s.pinMuxWrite n.val v = s.padSettings n.val v :=
  (if_neg (Bool.eq_false_iff.mp h)).trans <| (if_neg (padFunction_taken hf)).trans <| (if_neg fun hc => hc.1 he).trans (if_pos he)

theorem pinMuxWrite_of_new (h : s.fbit (f_pinMux_switching n.val) = false) (hne : bits v.toNat 1 0 ≠ s.fget (f_pinMux_func n.val))
    (hf : bits v.toNat 1 0 = 0 ∨ (∃ g, padSignal n.val (bits v.toNat 1 0) = some g ∧
      ∀ m : Fin 64, m ≠ n → padSignal m.val (s.fget (f_pinMux_func m.val)) ≠ some g)) :
    ((∃ x b, s.fw.side = some x ∧ padBus n.val (s.fget (f_pinMux_func n.val)) = some b ∧ x.2 = b) →
      s.pinMuxWrite n.val v = (s.padHeld n.val v).sideTimeout) ∧
    ((∀ x b, s.fw.side = some x → padBus n.val (s.fget (f_pinMux_func n.val)) = some b → x.2 ≠ b) →
      s.pinMuxWrite n.val v = s.padHeld n.val v) := by
  have hhas : bits v.toNat 1 0 = 0 ∨ padSignal n.val (bits v.toNat 1 0) ≠ none := hf.imp_right fun ⟨g, hg, _⟩ => hg ▸ Option.some_ne_none g
  have hfree : ¬(bits v.toNat 1 0 ≠ s.fget (f_pinMux_func n.val) ∧ s.padConflict n.val (padSignal n.val (bits v.toNat 1 0)) = true) := fun hc => by
    obtain ⟨g, hg, m, hm, hsig⟩ := (State.padConflict_iff s n _).mp hc.2
    rcases hf with h0 | ⟨g', hg', hall⟩
    · rw [h0, padSignal_zero] at hg
      cases hg
    · exact hall m hm (hsig.trans (hg.symm.trans hg'))
  obtain ⟨u, hu⟩ : ∃ u, u = s.padHeld n.val v := ⟨_, rfl⟩
  have hside : u.fw = s.fw := hu ▸ (s.padHeld_fields n.val v).2.2.2.2.1
  have hwrite : s.pinMuxWrite n.val v = match u.fw.side, padBus n.val (s.fget (f_pinMux_func n.val)) with
      | some x, some b => if x.2 = b then u.sideTimeout else u
      | _, _ => u := by
    rw [hu]
    exact (if_neg (Bool.eq_false_iff.mp h)).trans <| (if_neg (padFunction_taken hhas)).trans <| (if_neg hfree).trans (if_neg hne)
  rw [hwrite, ← hu, hside]
  constructor
  · rintro ⟨x, b, hx, hb, he⟩
    rw [hx, hb]
    exact if_pos he
  · intro hall
    rcases hx : s.fw.side with _ | x
    · rfl
    · rcases hb : padBus n.val (s.fget (f_pinMux_func n.val)) with _ | b
      · rfl
      · exact if_neg (hall x b hx hb)

end

/-! The end of a hold. -/

/-- The pad out of its hold. -/
def State.padReleased (s : State) (n : Nat) : State :=
  { s.fput (f_pinMux_switching n) 0 with pads := mapSet (fun _ => 0) s.pads n 0 }

theorem State.driveGpio_out (s : State) (n : Nat) : s.driveGpio n = { s with out := (s.driveGpio n).out } := by
  rw [State.driveGpio]
  split
  · rfl
  · split <;> rfl

/-- The new function drives the pad, and nothing else changes. -/
theorem exec_padSwitchDone_of_held {s : State} {n : Fin 64} (h : s.fbit (f_pinMux_switching n.val) = true) :
    ∃ t, exec (.padSwitchDone n) s = .next t ∧ t = { s.padReleased n.val with out := t.out } := by
  rw [exec_padSwitchDone, execPadSwitchDone, h, if_neg (by decide)]
  dsimp only
  split
  · exact ⟨_, rfl, State.driveGpio_out _ _⟩
  · split
    · exact ⟨_, rfl, rfl⟩
    · exact ⟨_, rfl, rfl⟩

/-- Settles O59: the write of a pad's register in its five cases, and the end of its hold. -/
theorem pinMux : Obligations.PinMux := by
  unfold Obligations.PinMux
  intro s n v
  refine ⟨fun h => ⟨_, congrArg Host.Outcome.next (pinMuxWrite_of_busy h), s.pinFlag_spec n.val rfl rfl (by decide)⟩,
    fun h hf => ⟨_, congrArg Host.Outcome.next (pinMuxWrite_of_lacking h hf), s.pinFlag_spec n.val rfl rfl (by decide)⟩,
    fun g h hne hsig hm => ⟨_, congrArg Host.Outcome.next (pinMuxWrite_of_conflict h hne hsig hm), s.pinFlag_spec n.val rfl rfl (by decide)⟩,
    fun h he hf => ⟨_, congrArg Host.Outcome.next (pinMuxWrite_of_same h he hf), ?_⟩,
    fun old h hold hne hf => ⟨s.padHeld n.val v, ?_⟩, fun h => ?_, fun h => ?_⟩
  · obtain ⟨hfunc, hdrive, hpull, hswitching, honly⟩ := s.padSettings_fields n.val v
    exact ⟨hfunc, hdrive, hpull, hswitching.trans h, honly⟩
  · obtain ⟨hfunc, hdrive, hpull, hswitching, -, honly⟩ := s.padHeld_fields n.val v
    subst hold
    obtain ⟨hlost, hkept⟩ := pinMuxWrite_of_new h hne hf
    exact ⟨hfunc, hdrive, hpull, hswitching, honly, fun hx => congrArg Host.Outcome.next (hlost hx), fun hx => congrArg Host.Outcome.next (hkept hx)⟩
  · rw [exec_padSwitchDone, execPadSwitchDone, h]
    rfl
  · obtain ⟨t, ht, hout⟩ := exec_padSwitchDone_of_held h
    refine ⟨t, ht, ?_, ?_, fun o ho => ?_⟩
    · rw [hout]
      exact beq_eq_false_iff_ne.mpr ((State.fget_fput_same s (f_pinMux_switching n.val) 0 (show 7 ≤ 7 by decide) (show 7 < 32 by decide)).trans_ne
        (show 0 % 2 ^ (7 + 1 - 7) ≠ 1 by decide))
    · rw [hout]
      rfl
    · rw [hout]
      exact State.rd_fput_ne s _ fun e => ho (List.mem_singleton.mpr e)

end Sys2Proof.Machine

/-! ## Register accesses and 64-bit pairs (O60, R12, R14, R475) -/

namespace Sys2Proof.Machine

theorem mapGet_holds_setHold (s : State) (k : Nat) (x : Option Word) : mapGet (fun _ => (none : Option Word)) (s.setHold k x).holds k = x :=
  mapGet_set_same _ _ _ _

theorem mapGet_latches_setLatch (s : State) (k : Nat) (x : Option Word) :
    mapGet (fun _ => (none : Option Word)) (s.setLatch k x).latches k = x := mapGet_set_same _ _ _ _

/-! A write that sets a growth bit (R14). -/

theorem State.growthOverflow_spec (s : State) (a : Nat) :
    (s.growthOverflow a).fbit f_rasEvent_growth_overflow = true ∧ (s.growthOverflow a).sedCount = (s.sedCount + 1) % 2 ^ 64 ∧
      (s.growthOverflow a).mem = s.mem ∧ (s.growthOverflow a).sync = s.sync ∧ ∀ o, o < 0x920000 → (s.growthOverflow a).rd o = s.rd o := by
  obtain ⟨u, hu⟩ : ∃ u, u = s.flag f_rasEvent_growth_overflow := ⟨_, rfl⟩
  have hflag : u.fget f_rasEvent_growth_overflow = 1 := hu ▸ State.fget_fput_same s _ 1 (by decide) (by decide)
  have hrd : ∀ o, o ≠ 0x950000 → u.rd o = s.rd o := fun o ho => hu ▸ State.rd_fput_ne s 1 ho
  have hcount : u.sedCount = s.sedCount := by
    rw [State.sedCount, State.fget64, hrd _ (by decide), hrd _ (by decide)]
    rfl
  rw [State.growthOverflow, ← hu]
  refine ⟨beq_iff_eq.mpr ((State.fget_congr (State.rd_sediment u _ _ _ _ (by decide))).trans hflag), ?_, ?_, ?_, fun o ho => ?_⟩
  · exact (State.sedCount_sediment u _ _ _ _).trans (congrArg (fun c => (c + 1) % 2 ^ 64) hcount)
  · rw [State.sediment_mem, hu, State.flag_mem]
  · rw [State.sediment_sync, hu, State.flag_sync]
  · rw [State.rd_sediment u _ _ _ _ (by simp [sedRegs]; omega), hrd o (by omega)]

/-! A word that reaches its register. -/

theorem State.regPut_of_growth (s : State) (rq : Requester) {off : Nat} {v : Word} (h : growthSet (regStore off) v = true) :
    s.regPut rq off v = s.growthOverflow (regStore off) := if_pos h

theorem State.regPut_of_act {s : State} {rq : Requester} {off : Nat} {v : Word} (h : growthSet (regStore off) v = false)
    (hr : rq = .host ∨ s.mpReport off v = none) : s.regPut rq off v = s.regAct off v := by
  refine (if_neg (Bool.eq_false_iff.mp h)).trans ?_
  rcases hr with hr | hr <;> rw [hr]
  cases rq <;> rfl

theorem State.regPut_of_report {s s1 : State} {off : Nat} {v : Word} (h : growthSet (regStore off) v = false)
    (hr : s.mpReport off v = some s1) : s.regPut .mp off v = s1 := by
  refine (if_neg (Bool.eq_false_iff.mp h)).trans ?_
  rw [hr]

/-! Who writes where. -/

section
variable {s : State} {rq : Requester} {off : Nat} {v : Word}

theorem State.access_of_misaligned (h : off < bar4Base) (ha : off % 4 ≠ 0) : s.access rq off v = s :=
  (if_neg (Nat.not_le.mpr h)).trans (if_pos ha)

theorem State.access_of_refused (h : off < bar4Base) (ha : off % 4 = 0) (hw : mayWrite rq off = false) :
    s.access rq off v = s.discardWrite rq := by
  refine (if_neg (Nat.not_le.mpr h)).trans ((if_neg (not_not.mpr ha)).trans (if_pos ?_))
  rw [hw, Bool.not_false]

theorem State.access_of_allowed (h : off < bar4Base) (ha : off % 4 = 0) (hw : mayWrite rq off = true) :
    s.access rq off v = if pairKind off ≠ 0 then s.pairWrite rq off v else s.regPut rq off v := by
  refine (if_neg (Nat.not_le.mpr h)).trans ((if_neg (not_not.mpr ha)).trans (if_neg ?_))
  rw [hw, Bool.not_true]
  exact Bool.false_ne_true

theorem State.access_of_single (h : off < bar4Base) (ha : off % 4 = 0) (hk : pairKind off = 0) (hw : mayWrite rq off = true) :
    s.access rq off v = s.regPut rq off v := (State.access_of_allowed h ha hw).trans (if_neg (not_not.mpr hk))

theorem State.access_of_low (h : off < bar4Base) (ha : off % 4 = 0) (hk : pairKind off = 1) (hw : mayWrite rq off = true) :
    s.access rq off v = s.setHold (pairKey rq off) (some v) :=
  (State.access_of_allowed h ha hw).trans ((if_pos (hk.trans_ne (by decide))).trans (if_pos hk))

/-- A write of a pair's high word commits it with what is held. -/
theorem State.access_of_high (h : off + 4 < bar4Base) (ha : off % 4 = 0) (hk : pairKind (off + 4) = 2) (hw : mayWrite rq (off + 4) = true) :
    s.access rq (off + 4) v = (s.setHold (pairKey rq off) none).pairCommit rq off
      (mapGet (fun _ => (none : Option Word)) s.holds (pairKey rq off)) v :=
  (State.access_of_allowed h (by omega) hw).trans ((if_pos (hk.trans_ne (by decide))).trans (if_neg (hk.trans_ne (by decide))))

end

/-! What a pair commits. -/

section
variable {s : State} {rq : Requester} {low : Nat} {lo : Option Word} {hi : Word}

/-- A growth bit in either half. -/
theorem pairGrowth_iff : (growthSet (low + 4) hi || (match lo with | some l => growthSet low l | none => false)) = true ↔
    growthSet (low + 4) hi = true ∨ ∃ w, lo = some w ∧ growthSet low w = true := by
  cases lo with
  | none => simp
  | some w => simp

theorem State.pairCommit_of_growth (h : growthSet (low + 4) hi = true ∨ ∃ w, lo = some w ∧ growthSet low w = true) :
    s.pairCommit rq low lo hi = s.growthOverflow low := if_pos (pairGrowth_iff.mpr h)

theorem State.pairCommit_of_clear (h : growthSet (low + 4) hi = false) (hl : ∀ w, lo = some w → growthSet low w = false) :
    s.pairCommit rq low lo hi = if low = f_iaTimeStep_step_lo.off then
      s.timeStep (BitVec.ofNat 64 (hi.toNat * 2 ^ 32 + (lo.getD 0).toNat))
    else (match lo with | some l => s.regPut rq low l | none => s).regPut rq (low + 4) hi := by
  refine if_neg fun hg => ?_
  rcases pairGrowth_iff.mp hg with hg | ⟨w, hw, hg⟩
  · rw [h] at hg
    cases hg
  · rw [hl w hw] at hg
    cases hg

end

/-! Reads of a pair. -/

/-- No pair of registers lies across the end of BAR0. -/
theorem pairLow_lt {off : Nat} (h : off < 0x4000000) (ha : off % 4 = 0) (hk : pairKind off = 1) : off + 4 < bar4Base := by
  have hlast : pairKind 0x3FFFFFC = 0 := by decide +kernel
  have hne : off ≠ 0x3FFFFFC := fun e => by
    rw [e, hlast] at hk
    cases hk
  rw [bar4Base]
  omega

/-- No pair of registers lies across the start of SC's block. -/
theorem pairHigh_block {off : Nat} (ha : off % 4 = 0) (hk : pairKind off = 1) (h : (off + 4) / 0x10000 = 0x91) : off / 0x10000 = 0x91 := by
  have hlast : pairKind 0x90FFFC = 0 := by decide +kernel
  have hne : off ≠ 0x90FFFC := fun e => by
    rw [e, hlast] at hk
    cases hk
  omega

section
variable {s : State} {rq : Requester} {off : Nat}

theorem State.readWord_of_hidden (h : off / 0x10000 = 0x91) : s.readWord .host off = s.emit (.readData [0, 0, 0, 0]) := by
  refine (if_neg fun hc => absurd hc.1 ?_).trans (if_pos ?_)
  · rw [bar4Base]
    omega
  · rw [h]
    rfl

theorem State.readWord_of_pair (h : off < bar4Base) (hs : ¬(rq = .host ∧ off / 0x10000 = 0x91)) :
    s.readWord rq off = match pairKind off with
      | 1 => (s.setLatch (pairKey rq off) (some (s.regRead rq (off + 4)))).emit (.readData (leBytes 4 (s.regRead rq off).toNat))
      | 2 => match mapGet (fun _ => (none : Option Word)) s.latches (pairKey rq (off - 4)) with
        | some l => (s.setLatch (pairKey rq (off - 4)) none).emit (.readData (leBytes 4 l.toNat))
        | none => s.emit (.readData (leBytes 4 (s.regRead rq off).toNat))
      | _ => (if off < bar4Base then s.windowRead off else s).emit (.readData (leBytes 4 (s.regRead rq off).toNat)) := by
  refine (if_neg fun hc => Nat.not_le.mpr h hc.1).trans ((if_neg fun hc => hs ?_).trans ?_)
  · simpa using hc
  · rfl

theorem State.readWord_of_low (h : off < bar4Base) (hs : ¬(rq = .host ∧ off / 0x10000 = 0x91)) (hk : pairKind off = 1) :
    s.readWord rq off = (s.setLatch (pairKey rq off) (some (s.regRead rq (off + 4)))).emit (.readData (leBytes 4 (s.regRead rq off).toNat)) := by
  rw [State.readWord_of_pair h hs, hk]
  rfl

theorem State.readWord_of_high (h : off + 4 < bar4Base) (hs : ¬(rq = .host ∧ (off + 4) / 0x10000 = 0x91)) (hk : pairKind (off + 4) = 2) :
    s.readWord rq (off + 4) = match mapGet (fun _ => (none : Option Word)) s.latches (pairKey rq off) with
      | some l => (s.setLatch (pairKey rq off) none).emit (.readData (leBytes 4 l.toNat))
      | none => s.emit (.readData (leBytes 4 (s.regRead rq (off + 4)).toNat)) := by
  rw [State.readWord_of_pair h hs, hk, Nat.add_sub_cancel]
  rfl

end

/-- A write of a register that is no half of a pair (R14, R475). -/
theorem registerWrite_answers (s : State) (rq : Requester) (off : Nat) (v : Word) (hlt : off < 0x4000000) (ha : off % 4 = 0)
    (hk : pairKind off = 0) :
    (mayWrite .mp off = false → exec (.registerWrite .mp off v) s = .next s) ∧
    (mayWrite .host off = false → exec (.registerWrite .host off v) s = .next (s.raise f_hiEvent_host_write_refused)) ∧
    (mayWrite rq off = true → growthSet (regStore off) v = true → Answers (.registerWrite rq off v) s fun t =>
      t.fbit f_rasEvent_growth_overflow = true ∧ t.sedCount = (s.sedCount + 1) % 2 ^ 64 ∧ t.mem = s.mem ∧ t.sync = s.sync ∧
        (off < 0x920000 → t.rd off = s.rd off)) ∧
    (mayWrite rq off = true → growthSet (regStore off) v = false →
      (rq = .host ∨ s.mpReport off v = none → exec (.registerWrite rq off v) s = .next (s.regAct off v)) ∧
      (∀ s1, rq = .mp → s.mpReport off v = some s1 → exec (.registerWrite rq off v) s = .next s1)) := by
  refine ⟨fun hw => congrArg Host.Outcome.next (State.access_of_refused hlt ha hw), fun hw => congrArg Host.Outcome.next (State.access_of_refused hlt ha hw),
    fun hw hg => ⟨_, congrArg Host.Outcome.next ((State.access_of_single hlt ha hk hw).trans (s.regPut_of_growth rq hg)), ?_⟩,
    fun hw hg => ⟨fun hr => congrArg Host.Outcome.next ((State.access_of_single hlt ha hk hw).trans (State.regPut_of_act hg hr)),
      fun s1 hrq hr => congrArg Host.Outcome.next ((State.access_of_single hlt ha hk hw).trans (hrq ▸ State.regPut_of_report hg hr))⟩⟩
  obtain ⟨hflag, hcount, hmem, hsync, hrd⟩ := s.growthOverflow_spec (regStore off)
  exact ⟨hflag, hcount, hmem, hsync, hrd off⟩

/-- A write of a pair's high word, which it may reach (R12, R14, R372). -/
theorem pairHighWrite_answers (s : State) (rq : Requester) (off : Nat) (v : Word) (h : Option Word) (s1 : State) (hlt : off + 4 < bar4Base)
    (ha : off % 4 = 0) (hk : pairKind (off + 4) = 2) (hw : mayWrite rq (off + 4) = true)
    (hh : h = mapGet (fun _ => (none : Option Word)) s.holds (pairKey rq off)) (hs1 : s1 = s.setHold (pairKey rq off) none) :
    (growthSet (off + 4) v = true ∨ (∃ w, h = some w ∧ growthSet off w = true) →
      exec (.pairHighWrite rq (off + 4) v) s = .next (s1.growthOverflow off)) ∧
    (growthSet (off + 4) v = false → (∀ w, h = some w → growthSet off w = false) →
      (off = f_iaTimeStep_step_lo.off → exec (.pairHighWrite rq (off + 4) v) s =
        .next (s1.timeStep (BitVec.ofNat 64 (v.toNat * 2 ^ 32 + (h.getD 0).toNat)))) ∧
      (off ≠ f_iaTimeStep_step_lo.off → h = none → exec (.pairHighWrite rq (off + 4) v) s = .next (s1.regPut rq (off + 4) v)) ∧
      (∀ w, off ≠ f_iaTimeStep_step_lo.off → h = some w → exec (.pairHighWrite rq (off + 4) v) s =
        .next ((s1.regPut rq off w).regPut rq (off + 4) v))) := by
  have hcommit : exec (.pairHighWrite rq (off + 4) v) s = .next (s1.pairCommit rq off h v) := by
    rw [hh, hs1]
    exact congrArg Host.Outcome.next (State.access_of_high hlt ha hk hw)
  rw [hcommit]
  refine ⟨fun hg => congrArg Host.Outcome.next (State.pairCommit_of_growth hg), fun hg hl => ?_⟩
  rw [State.pairCommit_of_clear hg hl]
  refine ⟨fun he => congrArg Host.Outcome.next (if_pos he), fun he hn => ?_, fun w he hn => ?_⟩
  · rw [if_neg he, hn]
  · rw [if_neg he, hn]

/-- Settles O60: register writes in all their cases, and the two halves of a pair. -/
theorem registerAccesses : Obligations.RegisterAccesses := by
  unfold Obligations.RegisterAccesses
  refine ⟨fun s rq off v => ⟨fun hlt ha => congrArg Host.Outcome.next (State.access_of_misaligned hlt ha), fun hge =>
      ⟨congrArg Host.Outcome.next (if_pos hge), congrArg Host.Outcome.next (if_pos hge)⟩⟩,
    registerWrite_answers, fun s rq off v l hlt ha hk1 hk2 => ?_, fun s off ho =>
      ⟨congrArg Host.Outcome.next (State.readWord_of_hidden ho), congrArg Host.Outcome.next (State.readWord_of_hidden ho)⟩⟩
  have hlt4 := pairLow_lt hlt ha hk1
  refine ⟨fun hs => ?_, fun hw => ⟨_, congrArg Host.Outcome.next (State.access_of_low hlt ha hk1 hw), mapGet_holds_setHold _ _ _, rfl⟩,
    fun hw => congrArg Host.Outcome.next (State.access_of_refused hlt ha hw),
    fun hw => congrArg Host.Outcome.next (State.access_of_refused hlt4 (by omega) hw),
    fun h s1 hw hh hs1 => pairHighWrite_answers s rq off v h s1 hlt4 ha hk2 hw hh hs1⟩
  have hhigh := State.readWord_of_high (s := s) (rq := rq) hlt4 (fun hc => hs ⟨hc.1, pairHigh_block ha hk1 hc.2⟩) hk2
  refine ⟨⟨_, congrArg Host.Outcome.next (State.readWord_of_low hlt hs hk1), rfl, mapGet_latches_setLatch _ _ _, rfl, rfl⟩, fun hl => ?_, fun hl => ?_⟩
  · rw [hl] at hhigh
    exact ⟨_, congrArg Host.Outcome.next hhigh, rfl, mapGet_latches_setLatch _ _ _, rfl, rfl⟩
  · rw [hl] at hhigh
    exact congrArg Host.Outcome.next hhigh

end Sys2Proof.Machine

/-! ## The queue, time, reset and sync objects (O1, O2, O3, O4, O7) -/

namespace Sys2Proof.Machine

/-- Settles O1: what `step` is where a command waits. -/
theorem stepRunsFront : Obligations.StepRunsFront := by
  unfold Obligations.StepRunsFront
  intro s c rest h
  rw [step, h]

/-! Device time, and what leaves it. -/

theorem State.timeUnits_congr {s t : State} (h : t.devTime = s.devTime) (h' : t.devFrac = s.devFrac) : t.timeUnits = s.timeUnits := by
  rw [State.timeUnits, State.timeUnits, h, h']

theorem State.timeUnits_jrPut (s : State) (a : Nat) (l : List Byte) : (s.jrPut a l).timeUnits = s.timeUnits := by
  induction l generalizing s a with
  | nil => rfl
  | cons b l ih => exact (ih { s with jr := { s.jr with flash := mapSet erased s.jr.flash a b } } _).trans rfl

theorem State.timeUnits_jrServe (s : State) : s.jrServe.timeUnits = s.timeUnits := by
  rw [State.jrServe]
  split
  · rfl
  · split
    · rfl
    · extract_lets n o off k s0 s1
      have hput : s1.timeUnits = s.timeUnits := (State.timeUnits_jrPut s0 _ _).trans (State.timeUnits_congr (s := s) (t := s0) rfl rfl)
      clear_value s1
      exact (State.timeUnits_congr rfl rfl).trans hput

theorem State.timeUnits_jrAppend (s : State) (a : JrAppend) : (s.jrAppend a).timeUnits = s.timeUnits := by
  rw [State.jrAppend]
  split
  · rfl
  · exact (State.timeUnits_jrServe _).trans rfl

theorem State.timeUnits_flushFrom (s : State) (flags upto fuel first : Nat) : (s.flushFrom flags upto fuel first).timeUnits = s.timeUnits := by
  induction fuel generalizing s first with
  | zero => rfl
  | succ fuel ih =>
    rw [State.flushFrom]
    split
    · rfl
    · exact (ih _ _).trans (State.timeUnits_jrAppend _ _)

theorem State.timeUnits_flushTick (s : State) : s.flushTick.timeUnits = s.timeUnits := by
  rw [State.flushTick]
  split
  · exact State.timeUnits_flushFrom _ _ _ _ _
  · rfl

theorem State.timeUnits_drainEvents (s : State) : s.drainEvents.timeUnits = s.timeUnits :=
  have h := (EventsOnly.refl s).drainEvents.eq
  State.timeUnits_congr ((congrArg State.devTime h).trans rfl) ((congrArg State.devFrac h).trans rfl)

theorem State.timeUnits_aonTick (s : State) : s.aonTick.timeUnits = s.timeUnits := by
  rw [State.aonTick]
  split
  · rfl
  · split <;> rfl

theorem State.timeUnits_tick (s : State) : s.tick.timeUnits = s.timeTick.timeUnits :=
  (State.timeUnits_flushTick _).trans ((State.timeUnits_drainEvents _).trans (State.timeUnits_aonTick _))

/-- A count of 2^-32 ns that is stored as device time and its fraction, modulo 2^96. -/
theorem State.timeUnits_stored (s : State) (t : Nat) :
    ({ s with devTime := BitVec.ofNat 64 (t / 2 ^ 32), devFrac := BitVec.ofNat 32 t } : State).timeUnits = t % 2 ^ 96 := by
  rw [State.timeUnits]
  simp only [BitVec.toNat_ofNat]
  omega

theorem State.timeUnits_timeTick_of_runs {s : State} (h : s.timeRuns = true) :
    s.timeTick.timeUnits =
      (s.timeUnits + (26 * 2 ^ 32 + 0x0AAAAAAB + clampInt (-55924053) 55924053 (s.rd 0x8C0008).toInt).toNat) % 2 ^ 96 :=
  (congrArg State.timeUnits (if_pos h)).trans (State.timeUnits_stored s _)

theorem State.timeTick_of_stopped {s : State} (h : s.timeRuns = false) : s.timeTick = s := if_neg (Bool.eq_false_iff.mp h)

/-- Settles O2: nothing else of a tick moves device time. -/
theorem idleCycleAdvancesTime : Obligations.IdleCycleAdvancesTime := by
  unfold Obligations.IdleCycleAdvancesTime
  intro s h
  refine ⟨s.tick, by rw [step, h], fun hr => ?_, fun hr => ?_⟩
  · rw [State.timeUnits_tick, State.timeUnits_timeTick_of_runs hr]
  · rw [State.timeUnits_tick, State.timeTick_of_stopped hr]

/-! Reset. -/

theorem lifeCode_le (fuse : Nat) : lifeCode fuse ≤ 4 := by
  unfold lifeCode
  split <;> decide

/-- Whatever the part's fuses, debug is locked after reset. -/
theorem fget_reset_debug_unlocked : State.reset.fget f_scStatus_debug_unlocked = 0 := by
  have hlife := lifeCode_le Config.lifeCycle
  have hrd : State.reset.rd 0x910000 = BitVec.ofNat 32 (lifeCode Config.lifeCycle + 64 * min Config.fuseCounter 64) := rfl
  rw [State.fget, show f_scStatus_debug_unlocked.off = 0x910000 from rfl, hrd, BitVec.toNat_ofNat, bits]
  simp only [f_scStatus_debug_unlocked]
  omega

/-- Settles O3: the sparse maps of the reset state are empty. -/
theorem resetReads : Obligations.ResetReads := by
  unfold Obligations.ResetReads
  exact ⟨fun _ => rfl, fun _ => rfl, fun _ => rfl, rfl, rfl, rfl, by decide +kernel, by decide +kernel, fget_reset_debug_unlocked⟩

/-- Settles O4: the empty maps are canonical, no fuse is blown and no command waits. -/
theorem invariantAtReset : Obligations.InvariantAtReset := by
  unfold Obligations.InvariantAtReset
  exact ⟨⟨rfl, rfl, rfl, rfl⟩, ⟨Nat.zero_and _, Nat.zero_le _⟩, fun _ hc => absurd hc List.not_mem_nil⟩

/-! Sync objects (R141). -/

/-- The object reads the value it is given, and no other changes. -/
theorem State.setObject_spec (s : State) (o : Nat) (v : Word) :
    (s.setObject o v).obj o = v ∧ (∀ p, p ≠ o → (s.setObject o v).obj p = s.obj p) ∧
      s.setObject o v = { s with sync := (s.setObject o v).sync } :=
  ⟨s.obj_setObject_same o v, fun _ hp => s.obj_setObject_ne v hp, rfl⟩

/-- No signal is on its way where no core has one that lands later. -/
theorem State.pendingSignals_of_no_landings {s : State} (h : ∀ n : Fin 8, (s.core n.val).landings = []) (o : Nat) : s.pendingSignals o = 0 := by
  have hfold : ∀ l : List Nat, (∀ n ∈ l, (s.core n).landings = []) → l.foldl (fun v n =>
      let c := s.core n
      c.landings.foldl (fun v p => if p.2.1 = o ∧ c.ref ≤ p.1 then v + p.2.2 else v) v) (0 : Word) = 0 := by
    intro l
    induction l with
    | nil => exact fun _ => rfl
    | cons n l ih =>
      intro hl
      rw [List.foldl_cons]
      dsimp only
      rw [hl n List.mem_cons_self]
      exact ih fun m hm => hl m (List.mem_cons_of_mem n hm)
  exact hfold _ fun n hn => h ⟨n, List.mem_range.mp hn⟩

/-- Modulo 2^32 a counter is `k` past a target; it has reached it where `k` lies below half the range. -/
theorem reached_iff (target : Word) {k : Nat} (h : k < 2 ^ 32) : reached (target + BitVec.ofNat 32 k) target = true ↔ k < 2 ^ 31 := by
  rw [reached, decide_eq_true_iff, add_sub_cancel_left, BitVec.toNat_ofNat, Nat.mod_eq_of_lt h]

/-- Settles O7: signals and sets from each of their sources, and when a target is reached. -/
theorem syncObjects : Obligations.SyncObjects := by
  unfold Obligations.SyncObjects
  refine ⟨fun s o v => ⟨⟨_, rfl, s.setObject_spec o.val _⟩, ⟨_, rfl, s.setObject_spec o.val _⟩, fun h =>
      ⟨⟨_, congrArg Host.Outcome.next (State.bar4_of_released h _ _), s.setObject_spec o.val _⟩,
        ⟨_, congrArg Host.Outcome.next (State.bar4_of_released h _ _), s.setObject_spec o.val _⟩⟩⟩,
    fun s o h => State.pendingSignals_of_no_landings h o, fun target k h => reached_iff target h⟩

end Sys2Proof.Machine

/-! ## Turns of an image pipe (O34) and the mailbox of the security controller (O50) -/

namespace Sys2Proof.Machine

/-! A turn of a pipe (R413, R416). -/

section
variable {s : State} {p : Fin 2}

theorem exec_pipeTurn_of_stripe {x n r : Nat} (hm : s.fbit (f_ipCtrl_mode p.val) = true) (hs : s.stopped 4 = false)
    (hx : (s.nextCtx p.val fun n => (s.readyStripe p.val n).isSome) = some (x, n)) (hr : s.readyStripe p.val n = some r) :
    exec (.pipeTurn p) s = .next ((s.turnTo p.val x false).serveRows n r) := by
  rw [exec_pipeTurn, execPipeTurn, hs, if_neg Bool.false_ne_true, if_pos hm, hx]
  dsimp only
  rw [hr, Option.getD_some]

theorem exec_pipeTurn_of_frame {x n : Nat} (hm : s.fbit (f_ipCtrl_mode p.val) = false) (hs : s.stopped 4 = false)
    (hf : (s.ipRt p.val).serving = false) (hx : (s.nextCtx p.val fun n => s.hasLines n) = some (x, n)) :
    exec (.pipeTurn p) s = .next ((s.turnTo p.val x true).pipeRun p.val) := by
  rw [exec_pipeTurn, execPipeTurn, hs, if_neg Bool.false_ne_true, if_neg (Bool.eq_false_iff.mp hm), hf, if_neg Bool.false_ne_true, hx]

theorem exec_pipeTurn_of_no_stripe (hm : s.fbit (f_ipCtrl_mode p.val) = true) (hs : s.stopped 4 = false)
    (hx : (s.nextCtx p.val fun n => (s.readyStripe p.val n).isSome) = none) : exec (.pipeTurn p) s = .next s := by
  rw [exec_pipeTurn, execPipeTurn, hs, if_neg Bool.false_ne_true, if_pos hm, hx]

theorem exec_pipeTurn_of_no_frame (hm : s.fbit (f_ipCtrl_mode p.val) = false) (hs : s.stopped 4 = false)
    (hf : (s.ipRt p.val).serving = false) (hx : (s.nextCtx p.val fun n => s.hasLines n) = none) : exec (.pipeTurn p) s = .next s := by
  rw [exec_pipeTurn, execPipeTurn, hs, if_neg Bool.false_ne_true, if_neg (Bool.eq_false_iff.mp hm), hf, if_neg Bool.false_ne_true, hx]

/-- A stopped clock, or a frame in service, holds the pipe. -/
theorem exec_pipeTurn_of_held (h : s.stopped 4 = true ∨ (s.fbit (f_ipCtrl_mode p.val) = false ∧ (s.ipRt p.val).serving = true)) :
    exec (.pipeTurn p) s = .next s := by
  rcases h with hs | ⟨hm, hf⟩
  · exact if_pos hs
  · by_cases hs : s.stopped 4 = true
    · exact if_pos hs
    · rw [exec_pipeTurn, execPipeTurn, if_neg hs, if_neg (Bool.eq_false_iff.mp hm), if_pos hf]

end

/-- Settles O34: a pipe's turn in its two modes, a commit, and stage 4 of a pixel. -/
theorem imagePipes : Obligations.ImagePipes := by
  unfold Obligations.ImagePipes
  refine ⟨fun s p c => ⟨fun hm hs => ⟨fun x n r hx hr => exec_pipeTurn_of_stripe hm hs hx hr, exec_pipeTurn_of_no_stripe hm hs⟩,
      fun hm hs hf => ⟨fun x n hx => exec_pipeTurn_of_frame hm hs hf hx, exec_pipeTurn_of_no_frame hm hs hf⟩, exec_pipeTurn_of_held, ?_⟩,
    fun j i k => ?_⟩
  · exact ⟨s.fput (f_ipCtx_commit 0 c.val) 1, rfl, State.fget_fput_same s (f_ipCtx_commit 0 c.val) 1 (show 0 ≤ 0 by decide) (show 0 < 32 by decide),
      (RegsOnly.refl s _).fput List.mem_cons_self 1⟩
  · rw [PipeJob.white]
    norm_num

/-! The mailbox (R548, R549, R556). -/

theorem State.mboxDone_fields (s : State) {op st : Nat} (hop : op ≤ 6) (hst : st ≤ 3) :
    (s.mboxDone op st).fget f_scMboxCmd_op = op ∧ (s.mboxDone op st).fget f_scMboxCmd_go = 0 ∧
      (s.mboxDone op st).fget f_scMboxCmd_status = st ∧ RegsOnly s (s.mboxDone op st) [f_scMboxCmd_op.off] := by
  refine ⟨?_, ?_, ?_, (((RegsOnly.refl s _).fput (f := f_scMboxCmd_op) List.mem_cons_self _).fput (f := f_scMboxCmd_go) List.mem_cons_self _).fput
    (f := f_scMboxCmd_status) List.mem_cons_self _⟩
  · simp (disch := simp) [State.mboxDone, State.fget_fput_ne, State.fget_fput_same, f_scMboxCmd_op, f_scMboxCmd_go, f_scMboxCmd_status]
    omega
  · simp (disch := simp) [State.mboxDone, State.fget_fput_ne, State.fget_fput_same, f_scMboxCmd_go, f_scMboxCmd_status]
  · simp (disch := simp) [State.mboxDone, State.fget_fput_same, f_scMboxCmd_status]
    omega

section
variable {s : State}

theorem State.mbox_of_stopped (h : s.stopped 8 = true) (f : State) : s.mbox f = s := if_pos h

theorem State.mbox_of_running (h : s.stopped 8 = false) (f : State) : s.mbox f = f := if_neg (Bool.eq_false_iff.mp h)

theorem State.mboxKeyed_of_locked (h : s.keysLocked = true) (op : Nat) (f : State) : s.mboxKeyed op f = s.mboxDone op 2 := if_pos h

theorem State.mboxKeyed_of_unlocked (h : s.keysLocked = false) (op : Nat) (f : State) : s.mboxKeyed op f = f := if_neg (Bool.eq_false_iff.mp h)

theorem State.mboxMeasure_eq (s : State) : s.mboxMeasure =
    ({ s with sc := { s.sc with measured := if s.fw.pkg = none then zeros 48 else (s.pkgBytes.drop 0x30).take 48 } } : State).mboxDone 5 0 := by
  rw [State.mboxMeasure]
  rcases s.fw.pkg <;> rfl

/-! Operation 1. -/

theorem State.mboxUnseal_of_bad {blk : List Byte} (hk : s.keysLocked = false) (hb : blk = (s.areaRead [] (s.mboxAddr 2) 256).1)
    (h : s.inArea (s.mboxAddr 0) 0x80 = false ∨ s.inArea (s.mboxAddr 2) 256 = false ∨ s.mboxIo blk = none) : s.mboxUnseal = s.mboxDone 1 3 := by
  rw [State.mboxUnseal, State.mboxKeyed_of_unlocked hk]
  dsimp only
  rw [← hb]
  rcases h with h | h | h
  · exact if_pos (.inl (by rw [h, Bool.not_false]))
  · exact if_pos (.inr (by rw [h, Bool.not_false]))
  · split
    · rfl
    · rw [h]

theorem State.mboxUnseal_of_good {blk : List Byte} {io : List (List PoolBlock)} (hk : s.keysLocked = false)
    (hb : blk = (s.areaRead [] (s.mboxAddr 2) 256).1) (h0 : s.inArea (s.mboxAddr 0) 0x80 = true) (h2 : s.inArea (s.mboxAddr 2) 256 = true)
    (hio : s.mboxIo blk = some io) : s.mboxUnseal = if (s.unsealEnvelope [] (s.mboxAddr 0) blk io).ok then
      ({ (s.unsealEnvelope [] (s.mboxAddr 0) blk io).state with sc := { (s.unsealEnvelope [] (s.mboxAddr 0) blk io).state.sc with
        sealedKey := (s.unsealEnvelope [] (s.mboxAddr 0) blk io).key,
        sealedEnts := (s.unsealEnvelope [] (s.mboxAddr 0) blk io).entries } } : State).mboxDone 1 0
    else (s.unsealEnvelope [] (s.mboxAddr 0) blk io).state.mboxDone 1 1 := by
  rw [State.mboxUnseal, State.mboxKeyed_of_unlocked hk]
  dsimp only
  rw [← hb, h0, h2, if_neg (by decide), hio]

/-! Operation 2. -/

theorem State.mboxSeal_of_bad {blk : List Byte} (hk : s.keysLocked = false) (hb : blk = (s.areaRead [] (s.mboxAddr 2) 256).1)
    (h : s.inArea (s.mboxAddr 2) 256 = false ∨ 15 < s.mboxArg 4 ∨ s.mboxIo blk = none) : s.mboxSeal = s.mboxDone 2 3 := by
  rw [State.mboxSeal, State.mboxKeyed_of_unlocked hk]
  dsimp only
  rw [← hb]
  rcases h with h | h | h
  · exact if_pos (.inl (by rw [h, Bool.not_false]))
  · exact if_pos (.inr h)
  · split
    · rfl
    · rw [h]

theorem State.mboxSeal_of_good {blk : List Byte} {io : List (List PoolBlock)} (hk : s.keysLocked = false)
    (hb : blk = (s.areaRead [] (s.mboxAddr 2) 256).1) (h2 : s.inArea (s.mboxAddr 2) 256 = true) (h4 : s.mboxArg 4 ≤ 15)
    (hio : s.mboxIo blk = some io) : s.mboxSeal =
      ({ s.sealOutputs s.sc.sealedKey (s.mboxArg 4) io s.sc.sealedEnts with
        sc := { (s.sealOutputs s.sc.sealedKey (s.mboxArg 4) io s.sc.sealedEnts).sc with sealedKey := [], sealedEnts := [] } } : State).mboxDone 2 0 := by
  rw [State.mboxSeal, State.mboxKeyed_of_unlocked hk]
  dsimp only
  rw [← hb, h2, if_neg (by simpa using h4), hio]

/-! Operations 3 and 4. -/

theorem State.mboxExport_eq (hk : s.keysLocked = false) {a : Adapt} (ha : s.mboxAdapt = some a) {x : List Byte × State}
    (hx : s.exportState [] a = some x) : s.mboxExport =
      if s.inArea (s.mboxAddr 0) x.1.length then (x.2.areaWrite (s.mboxAddr 0) x.1).mboxDone 3 0 else s.mboxDone 3 3 := by
  rw [State.mboxExport, State.mboxKeyed_of_unlocked hk, ha]
  dsimp only
  rw [hx]

theorem State.mboxExport_of_rejected (hk : s.keysLocked = false) {a : Adapt} (ha : s.mboxAdapt = some a)
    (hx : s.exportState [] a = none) : s.mboxExport = s.mboxDone 3 1 := by
  rw [State.mboxExport, State.mboxKeyed_of_unlocked hk, ha]
  dsimp only
  rw [hx]

theorem State.mbox_of_no_adapt (hk : s.keysLocked = false) (ha : s.mboxAdapt = none) :
    s.mboxExport = s.mboxDone 3 3 ∧ s.mboxImport = s.mboxDone 4 3 := by
  rw [State.mboxExport, State.mboxImport, State.mboxKeyed_of_unlocked hk, State.mboxKeyed_of_unlocked hk, ha]
  exact ⟨rfl, rfl⟩

theorem State.mboxImport_of_bad (hk : s.keysLocked = false) {a : Adapt} (ha : s.mboxAdapt = some a)
    (h : s.inArea (s.mboxAddr 0) (s.mboxArg 2) = false) : s.mboxImport = s.mboxDone 4 3 := by
  rw [State.mboxImport, State.mboxKeyed_of_unlocked hk, ha]
  exact if_pos (by rw [h, Bool.not_false])

theorem State.mboxImport_of_rejected (hk : s.keysLocked = false) {a : Adapt} (ha : s.mboxAdapt = some a)
    (h : s.inArea (s.mboxAddr 0) (s.mboxArg 2) = true)
    (hp : s.importPayload a (s.areaRead [] (s.mboxAddr 0) (s.mboxArg 2)).1 = none) : s.mboxImport = s.mboxDone 4 1 := by
  rw [State.mboxImport, State.mboxKeyed_of_unlocked hk, ha]
  dsimp only
  rw [h, if_neg (by decide), hp]

theorem State.mboxImport_of_payload (hk : s.keysLocked = false) {a : Adapt} (ha : s.mboxAdapt = some a)
    (h : s.inArea (s.mboxAddr 0) (s.mboxArg 2) = true) {g}
    (hp : s.importPayload a (s.areaRead [] (s.mboxAddr 0) (s.mboxArg 2)).1 = some g) :
    s.mboxImport = s.mboxImported (s.importState a g.1 g.2) := by
  rw [State.mboxImport, State.mboxKeyed_of_unlocked hk, ha]
  dsimp only
  rw [h, if_neg (by decide), hp]

/-! Operation 6. -/

theorem State.mboxRelease_of_due (h : s.mboxArg 0 ∈ s.sc.renewed) : s.mboxRelease =
    ({ s with sc := { s.sc with renewed := s.sc.renewed.filter (· != s.mboxArg 0) } } : State).mboxDone 6 0 :=
  if_pos (List.contains_iff_mem.mpr h)

theorem State.mboxRelease_of_not_due (h : s.mboxArg 0 ∉ s.sc.renewed) : s.mboxRelease = s.mboxDone 6 3 :=
  if_neg (mt List.contains_iff_mem.mp h)

end

/-- Settles O50: the six operations of the mailbox with every status. -/
theorem mailbox : Obligations.Mailbox := by
  unfold Obligations.Mailbox
  refine ⟨fun s h => ?_, fun s op st _ hop hst => s.mboxDone_fields hop hst, fun s hs => ?_⟩
  · have hstop : ∀ f, (.next (s.mbox f) : Host.Outcome State Fault Refusal) = .next s := fun f =>
      congrArg Host.Outcome.next (State.mbox_of_stopped h f)
    exact ⟨hstop _, hstop _, hstop _, hstop _, hstop _, hstop _⟩
  have hrun : ∀ {f t : State}, f = t → (.next (s.mbox f) : Host.Outcome State Fault Refusal) = .next t := fun h =>
    congrArg Host.Outcome.next ((State.mbox_of_running hs _).trans h)
  refine ⟨fun d hd => hrun (s.mboxMeasure_eq.trans (hd ▸ rfl)), fun h => hrun (State.mboxRelease_of_due h),
    fun h => hrun (State.mboxRelease_of_not_due h), fun hk => ?_, fun hk blk hb => ⟨fun h => hrun (State.mboxUnseal_of_bad hk hb h),
      fun io u h0 h2 hio hu => ?_, fun h => hrun (State.mboxSeal_of_bad hk hb h), fun io s1 h2 h4 hio hs1 => ?_, fun ha => ?_, fun a ha => ?_⟩⟩
  · have hlocked := fun op f => hrun (State.mboxKeyed_of_locked hk op f)
    exact ⟨hlocked 1 _, hlocked 2 _, hlocked 3 _, hlocked 4 _⟩
  · have hgood := State.mboxUnseal_of_good hk hb h0 h2 hio
    rw [← hu] at hgood
    exact ⟨fun hok => hrun (hgood.trans (if_pos hok)), fun hok => hrun (hgood.trans (if_neg (Bool.eq_false_iff.mp hok)))⟩
  · rw [hs1]
    exact hrun (State.mboxSeal_of_good hk hb h2 h4 hio)
  · obtain ⟨hexport, himport⟩ := State.mbox_of_no_adapt hk ha
    exact ⟨hrun hexport, hrun himport⟩
  · refine ⟨fun hx => hrun (State.mboxExport_of_rejected hk ha hx), fun x hx => ⟨fun h => hrun ((State.mboxExport_eq hk ha hx).trans (if_pos h)),
      fun h => hrun ((State.mboxExport_eq hk ha hx).trans (if_neg (Bool.eq_false_iff.mp h)))⟩, fun h => hrun (State.mboxImport_of_bad hk ha h),
      fun p h hp => ⟨fun hn => hrun (State.mboxImport_of_rejected hk ha h (hp.symm.trans hn)), fun g hg hn => ?_, fun g s1 hg hn => ?_⟩⟩
    · exact hrun ((State.mboxImport_of_payload hk ha h (hp.symm.trans hg)).trans (congrArg s.mboxImported hn))
    · exact hrun ((State.mboxImport_of_payload hk ha h (hp.symm.trans hg)).trans (congrArg s.mboxImported hn))

end Sys2Proof.Machine

/-! ## Host accesses to BAR2 and the doorbells (O41) -/

namespace Sys2Proof.Machine

section
variable {s : State} {off n : Nat} {d : List Byte}

/-! BAR2 (R183, R196, R477, R481). -/

theorem State.bar2Read_of_unreleased (h : s.fget f_hiBoot_state ≠ 4) : s.bar2Read off n = s.refuseAccess off := if_pos h

theorem State.bar2Read_of_held (h : s.fget f_hiBoot_state = 4) (hh : s.bar2Held (s.bar2Target off n) = true) : s.bar2Read off n = s :=
  (if_neg (not_not.mpr h)).trans (if_pos hh)

/-- A read that no scrub holds is answered by what it names. -/
theorem State.bar2Read_of_served (h : s.fget f_hiBoot_state = 4) {t : Bar2Target} (ht : s.bar2Target off n = t) (hh : s.bar2Held t = false) :
    (t = .refused → s.bar2Read off n = s.refuseAccess off) ∧
    (∀ c o k, t = .sp c o → k = min n (spBytes - o) → s.bar2Read off n =
      (s.spBytesA c o k 17).2.2.answerRead ((s.spBytesA c o k 17).1 ++ zeros (n - k)) (s.spBytesA c o k 17).2.1) ∧
    (∀ o, t = .hb o → s.bar2Read off n = (s.hbBytesP o n 9).2.2.answerRead (s.hbBytesP o n 9).1 (s.hbBytesP o n 9).2.1) ∧
    (∀ k a, t = .lp k a → s.bar2Read off n = (s.lpRead k a n 9).2.2.answerRead (s.lpRead k a n 9).1 (s.lpRead k a n 9).2.1) := by
  rw [State.bar2Read, if_neg (not_not.mpr h)]
  dsimp only
  rw [ht, hh, if_neg Bool.false_ne_true]
  refine ⟨fun e => ?_, fun c o k e hk => ?_, fun o e => ?_, fun k a e => ?_⟩
  · rw [e]
  · rw [e, hk]
  · rw [e]
  · rw [e]

theorem State.bar2Write_of_unreleased (h : s.fget f_hiBoot_state ≠ 4) :
    s.bar2Write off d = if off < 0x80000 then s.bootWrite off d else s.refuseAccess off := if_pos h

theorem State.bar2Write_of_held (h : s.fget f_hiBoot_state = 4) (hh : s.bar2Held (s.bar2Target off d.length) = true) : s.bar2Write off d = s :=
  (if_neg (not_not.mpr h)).trans (if_pos hh)

/-- A write that no scrub holds is stored where it goes. -/
theorem State.bar2Write_of_served (h : s.fget f_hiBoot_state = 4) {t : Bar2Target} (ht : s.bar2Target off d.length = t) (hh : s.bar2Held t = false) :
    (t = .refused → s.bar2Write off d = s.refuseAccess off) ∧
    (∀ c o, t = .sp c o → s.bar2Write off d = if spBytes ≤ o then s else s.spStoreA c o (d.take (spBytes - o))) ∧
    (∀ o, t = .hb o → s.bar2Write off d = s.hbStore o d) ∧ (∀ k a, t = .lp k a → s.bar2Write off d = s.lpStore k a d) := by
  rw [State.bar2Write, if_neg (not_not.mpr h)]
  dsimp only
  rw [ht, hh, if_neg Bool.false_ne_true]
  refine ⟨fun e => ?_, fun c o e => ?_, fun o e => ?_, fun k a e => ?_⟩ <;> rw [e]

/-- A poisoned write stores nothing. -/
theorem exec_bar2Write_of_poisoned (s : State) (z : Option (Fin 10)) (off : Nat) (d : List Byte) :
    Answers (.bar2Write z off d true) s fun t => t.fbit f_hiEvent_poisoned_write = true ∧ t.mem = s.mem := by
  refine ⟨_, congrArg Host.Outcome.next (if_pos rfl), State.fbit_raise _ f_hiEvent_poisoned_write rfl (by decide) (by decide), ?_⟩
  rw [State.raise_mem]
  cases z <;> rfl

end

/-! Doorbells (R479, R487, R488). -/

section
variable {s : State} {q : Fin 17} {p : Word}

theorem exec_sqDoorbell_of_released (h : s.fget f_hiBoot_state = 4) : exec (.sqDoorbell q p) s = .next (s.sqDoorbell q.val p.toNat) :=
  congrArg Host.Outcome.next (State.bar4_of_released h _ _)

theorem exec_cqDoorbell_of_released (h : s.fget f_hiBoot_state = 4) : exec (.cqDoorbell q p) s = .next (s.cqDoorbell q.val p.toNat) :=
  congrArg Host.Outcome.next (State.bar4_of_released h _ _)

theorem State.sqDoorbell_of_events (hq : q.val = 16) : s.sqDoorbell q.val p.toNat = s.raise f_hiEvent_doorbell_bad_access := if_pos hq

theorem State.sqDoorbell_of_unserved (hs : s.fwServes = false) (hq : q.val < 16) : s.sqDoorbell q.val p.toNat = s := by
  rw [State.sqDoorbell, if_neg (Nat.ne_of_lt hq), hs]
  rfl

theorem State.cqDoorbell_of_unserved (hs : s.fwServes = false) : s.cqDoorbell q.val p.toNat = s := by
  rw [State.cqDoorbell, hs]
  rfl

theorem State.sqDoorbell_of_served (hs : s.fwServes = true) (hq : q.val < 16) : s.sqDoorbell q.val p.toNat =
    if (p.toNat + 2 ^ 32 - s.fget (f_rpIndex_sq_head q.val)) % 2 ^ 32 ≤ s.ringSize q.val ∧
        (p.toNat + 2 ^ 32 - (s.pair q.val).accepted) % 2 ^ 32 < 2 ^ 31 then
      s.setPair q.val { s.pair q.val with accepted := p.toNat }
    else s.ringError q.val 0 p.toNat := by
  rw [State.sqDoorbell, if_neg (Nat.ne_of_lt hq), hs, if_neg (by decide)]

theorem State.cqDoorbell_of_served (hs : s.fwServes = true) : s.cqDoorbell q.val p.toNat =
    if (s.fget (f_rpIndex_cq_tail q.val) + 2 ^ 32 - p.toNat) % 2 ^ 32 ≤ s.ringSize q.val ∧
        (p.toNat + 2 ^ 32 - (s.pair q.val).consumer) % 2 ^ 32 < 2 ^ 31 then
      s.setPair q.val { s.pair q.val with consumer := p.toNat }
    else s.ringError q.val 1 p.toNat := by
  rw [State.cqDoorbell, hs, if_neg (by decide)]

end

/-- Settles O41: BAR2 by what an access names, and the doorbells by the ring's bounds. -/
theorem hostAccesses : Obligations.HostAccesses := by
  unfold Obligations.HostAccesses
  refine ⟨fun s => ⟨rfl, fun _ => rfl⟩, fun s u z off n d hu => ?_, fun s q p hb => ?_, fun s q o p hb => ?_⟩
  · subst hu
    have hwrite : ∀ {t}, (s.bar2Resize z).bar2Write off d = t → exec (.bar2Write z off d false) s = .next t := fun h => congrArg Host.Outcome.next h
    have hread : ∀ {t}, (s.bar2Resize z).bar2Read off n = t → exec (.bar2Read z off n) s = .next t := fun h => congrArg Host.Outcome.next h
    refine ⟨fun hb => ⟨hread (State.bar2Read_of_unreleased hb), fun ho => hwrite ((State.bar2Write_of_unreleased hb).trans (if_pos ho)),
        fun ho => hwrite ((State.bar2Write_of_unreleased hb).trans (if_neg (Nat.not_lt.mpr ho)))⟩, fun hb =>
      ⟨fun hh => hread (State.bar2Read_of_held hb hh), fun hh => ?_, fun hh => hwrite (State.bar2Write_of_held hb hh), fun hh => ?_⟩,
      exec_bar2Write_of_poisoned s z off d⟩
    · obtain ⟨hrefused, hsp, hhb, hlp⟩ := State.bar2Read_of_served hb rfl hh
      exact ⟨fun h => hread (hrefused h), fun c o k h hk => hread (hsp c o k h hk), fun o h => hread (hhb o h), fun k a h => hread (hlp k a h)⟩
    · obtain ⟨hrefused, hsp, hhb, hlp⟩ := State.bar2Write_of_served hb rfl hh
      exact ⟨fun h => hwrite (hrefused h), fun c o h => ⟨fun ho => hwrite ((hsp c o h).trans (if_neg (Nat.not_le.mpr ho))),
        fun ho => hwrite ((hsp c o h).trans (if_pos ho))⟩, fun o h => hwrite (hhb o h), fun k a h => hwrite (hlp k a h)⟩
  · rw [exec_sqDoorbell_of_released hb, exec_cqDoorbell_of_released hb]
    refine ⟨fun hs => ⟨fun hq => ?_, ?_⟩, fun hq => congrArg Host.Outcome.next (State.sqDoorbell_of_events hq), fun hs =>
      ⟨fun hq => congrArg Host.Outcome.next (State.sqDoorbell_of_unserved hs hq), congrArg Host.Outcome.next (State.cqDoorbell_of_unserved hs)⟩⟩
    · rw [State.sqDoorbell_of_served hs hq]
      exact ⟨fun h1 h2 => congrArg Host.Outcome.next (if_pos ⟨h1, h2⟩), fun h => congrArg Host.Outcome.next (if_neg (by omega))⟩
    · rw [State.cqDoorbell_of_served hs]
      exact ⟨fun h1 h2 => congrArg Host.Outcome.next (if_pos ⟨h1, h2⟩), fun h => congrArg Host.Outcome.next (if_neg (by omega))⟩
  · have hrefuse : ∀ (off : Nat) (f : State → State), (.next (s.bar4 off f) : Host.Outcome State Fault Refusal) = .next (s.refuseAccess off) :=
      fun off f => congrArg Host.Outcome.next (if_neg hb)
    exact ⟨hrefuse _ _, hrefuse _ _, hrefuse _ _, hrefuse _ _, hrefuse _ _, hrefuse _ _⟩

end Sys2Proof.Machine

/-! ## Packets of a camera port (O31, R363, R364, R380) -/

namespace Sys2Proof.Machine

section
variable {s : State} {p : Fin 8} {vc : Fin 32} {dt : Fin 64} {hdr : Fin 3} {num : BitVec 16} {d : List Byte} {ok full : Bool}

/-! A port that is not up takes nothing. -/

theorem exec_packet_of_down (h : s.crUp p.val = false) :
    exec (.frameStart p vc num hdr) s = .next s ∧ exec (.frameEnd p vc hdr) s = .next s ∧
      exec (.longPacket p vc dt d hdr ok full) s = .next s ∧ exec (.csiLaneError p) s = .next s := by
  rw [exec_frameStart, execFrameStart, exec_frameEnd, execFrameEnd, exec_longPacket, execLongPacket, exec_csiLaneError, execCsiLaneError, h]
  exact ⟨rfl, rfl, rfl, rfl⟩

/-! The header. -/

theorem State.crHeader_of_dropped (s : State) (p : Nat) : s.crHeader p 2 = s.fsat (f_crStatus_hdr_dropped p) 1 := rfl

theorem State.crHeader_of_kept (p : Nat) (h : hdr ≠ 2) : s.crHeader p hdr = if hdr = 1 then s.fsat (f_crStatus_hdr_corrected p) 1 else s := by
  rw [State.crHeader, if_neg h]

theorem exec_packet_of_dropped (h : s.crUp p.val = true) :
    exec (.frameStart p vc num 2) s = .next (s.fsat (f_crStatus_hdr_dropped p.val) 1) ∧
      exec (.frameEnd p vc 2) s = .next (s.fsat (f_crStatus_hdr_dropped p.val) 1) ∧
      exec (.longPacket p vc dt d 2 ok full) s = .next (s.fsat (f_crStatus_hdr_dropped p.val) 1) := by
  rw [exec_frameStart, execFrameStart, exec_frameEnd, execFrameEnd, exec_longPacket, execLongPacket, h, State.crHeader_of_dropped]
  exact ⟨rfl, rfl, rfl⟩

/-! A packet whose header is kept, and the streams it finds. -/

theorem exec_frame_of_streams (h : s.crUp p.val = true) (hh : hdr ≠ 2) {u : State} (hu : u = s.crHeader p.val hdr)
    (hl : u.camStreams p.val vc.val ≠ []) :
    exec (.frameStart p vc num hdr) s = .next ((u.camStreams p.val vc.val).foldl (fun s n => s.openFrame n num.toNat) u).pipesRun ∧
      exec (.frameEnd p vc hdr) s = .next ((u.camStreams p.val vc.val).foldl (fun s n => s.closeFrame n) u).pipesRun := by
  obtain ⟨n, l, hnl⟩ := List.exists_cons_of_ne_nil hl
  constructor
  · rw [exec_frameStart, execFrameStart, h, ← hu, if_neg (by decide)]
    dsimp only
    rw [if_neg hh, hnl]
  · rw [exec_frameEnd, execFrameEnd, h, ← hu, if_neg (by decide)]
    dsimp only
    rw [if_neg hh, hnl]

theorem exec_frame_of_unmatched (h : s.crUp p.val = true) (hh : hdr ≠ 2) {u : State} (hu : u = s.crHeader p.val hdr)
    (hl : u.camStreams p.val vc.val = []) :
    exec (.frameStart p vc num hdr) s = .next (u.fsat (f_crStatus_unmatched p.val) 1) ∧
      exec (.frameEnd p vc hdr) s = .next (u.fsat (f_crStatus_unmatched p.val) 1) := by
  constructor
  · rw [exec_frameStart, execFrameStart, h, ← hu, if_neg (by decide)]
    dsimp only
    rw [if_neg hh, hl]
  · rw [exec_frameEnd, execFrameEnd, h, ← hu, if_neg (by decide)]
    dsimp only
    rw [if_neg hh, hl]

theorem exec_longPacket_of_stream (h : s.crUp p.val = true) (hh : hdr ≠ 2) {u : State} (hu : u = s.crHeader p.val hdr) {n : Nat}
    (hn : (u.camStreams p.val vc.val).find? (fun n => u.fget (f_iaStream_dt n) == dt.val) = some n) :
    exec (.longPacket p vc dt d hdr ok full) s =
      .next ((if ok then u else (u.fsat (f_crStatus_crc_errors p.val) 1).inputError p.val).takePacket n d ok full).pipesRun := by
  rw [exec_longPacket, execLongPacket, h, ← hu, if_neg (by decide)]
  dsimp only
  rw [if_neg hh, hn]

theorem exec_longPacket_of_unmatched (h : s.crUp p.val = true) (hh : hdr ≠ 2) {u : State} (hu : u = s.crHeader p.val hdr)
    (hn : (u.camStreams p.val vc.val).find? (fun n => u.fget (f_iaStream_dt n) == dt.val) = none) :
    exec (.longPacket p vc dt d hdr ok full) s = .next (u.fsat (f_crStatus_unmatched p.val) 1) := by
  rw [exec_longPacket, execLongPacket, h, ← hu, if_neg (by decide)]
  dsimp only
  rw [if_neg hh, hn]

theorem exec_csiLaneError_of_up (h : s.crUp p.val = true) :
    exec (.csiLaneError p) s = .next ((s.fput (f_crStatus_state p.val) 3).inputError p.val) := by
  rw [exec_csiLaneError, execCsiLaneError, h]
  rfl

end

/-! The line timeout. -/

section
variable {s : State} {n : Fin 32}

theorem exec_lineTimeout_of_open {fr : CamFrame} (he : s.fbit (f_iaStream_enable n.val) = true)
    (ht : s.fget (f_iaStream_line_timeout_us n.val) ≠ 0) (hc : (s.stream n.val).cur = some fr) :
    exec (.lineTimeout n) s = .next (if s.maxLines n.val ≤ fr.lines then s.closeFrame n.val else s.truncate n.val false).pipesRun := by
  rw [exec_lineTimeout, execLineTimeout, he, beq_eq_false_iff_ne.mpr ht, if_neg (by decide), hc]

theorem exec_lineTimeout_of_none (h : s.fbit (f_iaStream_enable n.val) = false ∨ s.fget (f_iaStream_line_timeout_us n.val) = 0 ∨
    (s.stream n.val).cur = none) : exec (.lineTimeout n) s = .next s := by
  rw [exec_lineTimeout, execLineTimeout]
  rcases h with h | h | h
  · rw [h]
    rfl
  · exact if_pos (by rw [h, BEq.rfl, Bool.or_true])
  · rw [h]
    exact ite_self _

end

/-- Settles O31: packets by header and stream, the lane error and its end, and the line timeout. -/
theorem cameraPackets : Obligations.CameraPackets := by
  unfold Obligations.CameraPackets
  refine ⟨fun s p vc dt num d hdr ok full => ⟨fun h hh u hu => ?_, exec_packet_of_dropped, exec_packet_of_down⟩, fun s p n =>
    ⟨exec_csiLaneError_of_up, fun h => ⟨s.fput (f_crStatus_state p.val) 1, congrArg Host.Outcome.next (if_pos h),
        State.fget_fput_same s (f_crStatus_state p.val) 1 (show 0 ≤ 1 by decide) (show 1 < 32 by decide),
        (RegsOnly.refl s _).fput List.mem_cons_self 1⟩,
      fun h => congrArg Host.Outcome.next (if_neg h), fun fr he ht hc => ?_, exec_lineTimeout_of_none⟩⟩
  · have hu' : u = s.crHeader p.val hdr := hu.trans (State.crHeader_of_kept p.val hh).symm
    exact ⟨exec_frame_of_streams h hh hu', exec_frame_of_unmatched h hh hu', fun n hn =>
      ⟨by rw [exec_longPacket_of_stream h hh hu' hn, if_pos rfl],
      by rw [exec_longPacket_of_stream h hh hu' hn, if_neg Bool.false_ne_true]⟩, exec_longPacket_of_unmatched h hh hu'⟩
  · have htimeout := exec_lineTimeout_of_open he ht hc
    rw [htimeout]
    exact ⟨fun hm => by rw [if_pos hm], fun hm => by rw [if_neg (Nat.not_le.mpr hm)]⟩

end Sys2Proof.Machine

/-! ## Job controls, TIME_SAMPLE and side-port transfers (O44, R369, R497, R501, R515) -/

namespace Sys2Proof.Machine

/-! A command of a ring. -/

section
variable {s : State} {q op : Nat} {f : Taken → State}

theorem State.command_of_no_turn (h : s.turn q op = none) : s.command q op f = s := by
  rw [State.command, h]

theorem State.command_of_turn {t : Taken} (h : s.turn q op = some t) {u : State} (hu : f t = u) : s.command q op f = u.afterCommand q := by
  rw [State.command, h, ← hu]
  rfl

end

/-! Job controls (R515). -/

section
variable {s : State} {t : Taken} {op : Nat} {f : Job → State}

/-- A control of a job that has ended has no effect, and one of a job that there is not is refused. -/
theorem State.control_of_no_job (h : s.turn 0 op = some t) (hj : s.namedJob t = none) {st : Nat}
    (hst : st = if s.namedPast t = none then stInvalidField else stSuccess) : s.control_ op f = s.answered 0 t st := by
  refine State.command_of_turn h ?_
  rw [hj, hst]
  rcases s.namedPast t <;> rfl

theorem State.control_of_job (h : s.turn 0 op = some t) {j : Job} (hj : s.namedJob t = some j) {u : State} (hu : f j = u) :
    s.control_ op f = u.answered 0 t stSuccess := by
  refine State.command_of_turn h ?_
  rw [hj, ← hu]

end

/-! JOB_QUERY (R28, R497). -/

/-- What JOB_QUERY does to the machine before the ring settles. -/
def State.queryJob (s : State) (t : Taken) : State :=
  let ok := fun (x y : Nat) => s.completeTaken 0 t { Done.of stSuccess with result0 := x, result1 := y }
  match s.namedJob t with
  | some j => match j.phase with
    | .running => if (maskCores s.jobCores).all s.standsCore then ok 1 (((maskCores s.jobCores).head?.map fun c => s.fget (f_ncStep_step c)).getD 0)
        else (s.begin_ 0 t).halt
    | .suspended => ok 2 j.step
    | _ => ok 0 j.step
  | none => match s.namedPast t with
    | some p => ok 3 p.2.2
    | none => s.completeTaken 0 t (Done.of stInvalidField)

section
variable {s : State} {t : Taken}

theorem exec_jobQuery_of_turn (h : s.turn 0 0x1B = some t) {u : State} (hu : s.queryJob t = u) : exec .jobQuery s = .next (u.afterCommand 0) :=
  congrArg Host.Outcome.next (State.command_of_turn h hu)

theorem State.queryJob_of_past (hj : s.namedJob t = none) {p : Nat × Nat × Nat} (hp : s.namedPast t = some p) :
    s.queryJob t = s.completeTaken 0 t { Done.of stSuccess with result0 := 3, result1 := p.2.2 } := by
  rw [State.queryJob]
  dsimp only
  rw [hj, hp]

theorem State.queryJob_of_none (hj : s.namedJob t = none) (hp : s.namedPast t = none) :
    s.queryJob t = s.completeTaken 0 t (Done.of stInvalidField) := by
  rw [State.queryJob]
  dsimp only
  rw [hj, hp]

variable {j : Job}

theorem State.queryJob_of_boundary (hj : s.namedJob t = some j) (hp : j.phase = .running)
    (hall : ∀ c ∈ maskCores s.jobCores, s.standsCore c = true) {c : Nat} {cs : List Nat} (hc : maskCores s.jobCores = c :: cs) :
    s.queryJob t = s.completeTaken 0 t { Done.of stSuccess with result0 := 1, result1 := s.fget (f_ncStep_step c) } := by
  rw [State.queryJob]
  dsimp only
  rw [hj]
  dsimp only
  rw [hp]
  dsimp only
  rw [if_pos (List.all_eq_true.mpr hall), hc]
  rfl

theorem State.queryJob_of_step (hj : s.namedJob t = some j) (hp : j.phase = .running)
    (hsome : ∃ c ∈ maskCores s.jobCores, s.standsCore c = false) : s.queryJob t = (s.begin_ 0 t).halt := by
  obtain ⟨c, hc, hfalse⟩ := hsome
  rw [State.queryJob]
  dsimp only
  rw [hj]
  dsimp only
  rw [hp]
  exact if_neg fun hall => Bool.eq_false_iff.mp hfalse (List.all_eq_true.mp hall c hc)

theorem State.queryJob_of_standing (hj : s.namedJob t = some j) {r : Nat}
    (hr : (j.phase = .suspended ∧ r = 2) ∨ (j.phase ≠ .running ∧ j.phase ≠ .suspended ∧ r = 0)) :
    s.queryJob t = s.completeTaken 0 t { Done.of stSuccess with result0 := r, result1 := j.step } := by
  rw [State.queryJob]
  dsimp only
  rw [hj]
  dsimp only
  rcases hr with ⟨hp, hr⟩ | ⟨hrun, hsusp, hr⟩
  · rw [hp, hr]
  · rw [hr]
    split
    · exact absurd ‹_› hrun
    · exact absurd ‹_› hsusp
    · rfl

end

/-! TIME_SAMPLE (R372, R373). -/

theorem State.anyGroup_of_rd {s t : State} (h : ∀ g, g < 16 → t.rd (f_iaGroup_enable g).off = s.rd (f_iaGroup_enable g).off) :
    t.anyGroup = s.anyGroup := by
  rw [State.anyGroup, State.anyGroup, Bool.eq_iff_iff, List.any_eq_true, List.any_eq_true]
  exact exists_congr fun g => and_congr_right fun hg => by rw [State.fbit_congr (h g (List.mem_range.mp hg))]

theorem exec_timeSample_of_unknown {s : State} {t : Taken} (h : s.turn 0 0x28 = some t) (hsrc : t.field 40 1 < 1 ∨ 3 < t.field 40 1) :
    exec .timeSample s = .next (s.answered 0 t stInvalidField) := congrArg Host.Outcome.next (State.command_of_turn h (if_pos hsrc))

/-- The servo's free rate, signed and within IA's clamp. -/
def State.servoRate (s : State) : Int := (s.draw.1 % 111848107 : Nat) - 55924053

theorem State.servoRate_bounds (s : State) : -55924053 ≤ s.servoRate ∧ s.servoRate ≤ 55924053 := by
  have h := Nat.mod_lt s.draw.1 (show 0 < 111848107 by decide)
  rw [State.servoRate]
  omega

/-- The machine at that rate. -/
def State.servoTaken (s : State) : State :=
  ({ s with fresh := s.fresh + 1 } : State).wr f_iaTimeRate_rate_adj.off (BitVec.ofInt 32 s.servoRate)

theorem State.anyGroup_servoTaken (s : State) : s.servoTaken.anyGroup = s.anyGroup :=
  State.anyGroup_of_rd fun g _ => State.rd_wr_ne ({ s with fresh := s.fresh + 1 } : State) _ (by
    simp only [f_iaGroup_enable, f_iaTimeRate_rate_adj]
    omega)

theorem exec_timeSample_of_known {s : State} {t : Taken} (h : s.turn 0 0x28 = some t) (h1 : 1 ≤ t.field 40 1) (h3 : t.field 40 1 ≤ 3) :
    exec .timeSample s = .next ((if s.servoTaken.anyGroup then s.servoTaken
      else s.servoTaken.draw.2.timeStep (BitVec.ofNat 64 s.servoTaken.draw.1)).answered 0 t stSuccess) :=
  congrArg Host.Outcome.next (State.command_of_turn h (if_neg (by omega)))

theorem exec_timeSample_of_groups {s : State} {t : Taken} (h : s.turn 0 0x28 = some t) (h1 : 1 ≤ t.field 40 1) (h3 : t.field 40 1 ≤ 3)
    (hg : s.anyGroup = true) : exec .timeSample s = .next (s.servoTaken.answered 0 t stSuccess) := by
  rw [exec_timeSample_of_known h h1 h3, s.anyGroup_servoTaken, if_pos hg]

theorem exec_timeSample_of_no_group {s : State} {t : Taken} (h : s.turn 0 0x28 = some t) (h1 : 1 ≤ t.field 40 1) (h3 : t.field 40 1 ≤ 3)
    (hg : s.anyGroup = false) : ∃ d : DWord, exec .timeSample s =
      .next (({ s.servoTaken with fresh := s.servoTaken.fresh + 1, devTime := s.servoTaken.devTime + d } : State).answered 0 t stSuccess) := by
  have hnone : s.servoTaken.draw.2.anyGroup = false := s.anyGroup_servoTaken.trans hg
  refine ⟨BitVec.ofNat 64 s.servoTaken.draw.1, ?_⟩
  rw [exec_timeSample_of_known h h1 h3, s.anyGroup_servoTaken, if_neg (Bool.eq_false_iff.mp hg), State.timeStep, if_neg (Bool.eq_false_iff.mp hnone)]
  rfl

/-! Side-port transfers (R369, R497). -/

/-- The controller, and the bus as SIDEPORT names it, of a transfer's descriptor. -/
def Taken.sideCtl (t : Taken) : Nat := t.field 16 1 % 8
def Taken.sideKind (t : Taken) : Nat := t.field 16 1 / 8 % 4
def Taken.sideBus (t : Taken) : Nat := t.sideCtl + 8 * t.sideKind

/-- The transfer's fields are in range. -/
def State.sideRanged (s : State) (t : Taken) : Bool :=
  (if t.sideKind == 1 then decide (t.sideCtl < 4) else t.sideKind == 0 && decide (t.sideCtl < 6)) && decide (t.field 17 1 ≤ 4) &&
    decide (t.field 20 2 ≤ 256) && decide (t.field 22 2 ≤ 256) &&
    (t.field 17 1 != 3 || t.sideKind == 1 && decide (t.field 20 2 ≤ 4) && decide (t.field 22 2 ≤ 48)) &&
    (t.field 17 1 != 4 || !(t.sideKind == 1)) && s.inArea (t.field 24 8) (t.field 20 2 + t.field 22 2)

theorem State.sideRanged_iff (s : State) (t : Taken) : s.sideRanged t = true ↔
    ((t.sideKind = 0 ∧ t.sideCtl < 6 ∧ t.field 17 1 ≠ 3) ∨
        (t.sideKind = 1 ∧ t.sideCtl < 4 ∧ t.field 17 1 ≠ 4 ∧ (t.field 17 1 = 3 → t.field 20 2 ≤ 4 ∧ t.field 22 2 ≤ 48))) ∧
      t.field 17 1 ≤ 4 ∧ t.field 20 2 ≤ 256 ∧ t.field 22 2 ≤ 256 ∧ s.inArea (t.field 24 8) (t.field 20 2 + t.field 22 2) = true := by
  rw [State.sideRanged]
  by_cases h1 : t.sideKind = 1
  · simp only [h1, BEq.rfl, if_true, Bool.and_eq_true, Bool.or_eq_true, decide_eq_true_eq, bne_iff_ne, Bool.not_true, Bool.false_eq_true]
    constructor
    · rintro ⟨⟨⟨⟨⟨⟨hctl, hop⟩, hw⟩, hr⟩, h3⟩, h4⟩, ha⟩
      exact ⟨.inr ⟨trivial, hctl, h4.resolve_right id, fun e => (h3.resolve_left fun hn => hn e).imp And.right id⟩, hop, hw, hr, ha⟩
    · rintro ⟨h | ⟨-, hctl, h4, h3⟩, hop, hw, hr, ha⟩
      · exact absurd h.1 (by decide)
      · exact ⟨⟨⟨⟨⟨⟨hctl, hop⟩, hw⟩, hr⟩, or_iff_not_imp_left.mpr fun hn => (h3 (not_not.mp hn)).imp (And.intro trivial) id⟩, .inl h4⟩, ha⟩
  · have hb : (t.sideKind == 1) = false := beq_eq_false_iff_ne.mpr h1
    simp only [hb, if_false, Bool.false_eq_true, Bool.and_eq_true, Bool.or_eq_true, decide_eq_true_eq, bne_iff_ne, beq_iff_eq, Bool.not_false,
      or_true, and_true, false_and, or_false]
    constructor
    · rintro ⟨⟨⟨⟨⟨⟨h0, hctl⟩, hop⟩, hw⟩, hr⟩, h3⟩, ha⟩
      exact ⟨.inl ⟨h0, hctl, h3⟩, hop, hw, hr, ha⟩
    · rintro ⟨⟨h0, hctl, h3⟩ | h, hop, hw, hr, ha⟩
      · exact ⟨⟨⟨⟨⟨⟨h0, hctl⟩, hop⟩, hw⟩, hr⟩, h3⟩, ha⟩
      · exact absurd h.1 h1

/-- The bytes a transfer writes, and the machine once they are on the bus. -/
def State.sideBytes (s : State) (host : List Byte) (t : Taken) : List Byte :=
  if t.field 17 1 = 1 then [] else (s.areaRead host (t.field 24 8) (t.field 20 2)).1
def State.sideSent (s : State) (host : List Byte) (t : Taken) : State :=
  s.emit (.sidePort t.sideBus (leBytes 2 (t.field 18 2) ++ s.sideBytes host t))

/-- An acknowledged transfer: the bytes read are stored, and a dynamic address is kept. -/
def State.sideAcked (s : State) (t : Taken) (wr d : List Byte) : State :=
  let rd := t.field 17 1 == 1 || t.field 17 1 == 2
  let s2 := if rd then s.areaWrite (t.field 24 8 + if t.field 17 1 = 1 then 0 else t.field 20 2) ((d ++ zeros (t.field 22 2)).take (t.field 22 2)) else s
  let dyn := (mapGet (fun _ => []) s2.fw.dynAddr t.sideCtl).filter (· != t.field 18 2) ++ [t.field 18 2]
  let s3 : State := if t.field 17 1 = 4 then { s2 with fw := { s2.fw with dynAddr := mapSet (fun _ => []) s2.fw.dynAddr t.sideCtl dyn } } else s2
  s3.completeTaken 0 t { Done.of stSuccess with result0 := wr.length + if rd then t.field 22 2 else 0 }

/-- What SIDEPORT does to the machine before the ring settles. -/
def State.sideRun (s : State) (answer : Option (Bool × List Byte)) (host : List Byte) (t : Taken) : State :=
  if !s.sideRanged t then s.completeTaken 0 t (Done.of stInvalidField)
  else if t.field 17 1 = 3 then
    ({ s with fw := { s.fw with spiStream := mapSet (fun _ => ([], 0)) s.fw.spiStream t.sideCtl (s.sideBytes host t, t.field 22 2) } }).completeTaken 0 t
      (Done.of stSuccess)
  else match answer with
    | none => { (s.sideSent host t).begin_ 0 t with fw := { ((s.sideSent host t).begin_ 0 t).fw with side := some (t.index, t.sideBus) } }
    | some (false, _) => (s.sideSent host t).completeTaken 0 t (Done.of stSideportNak)
    | some (true, d) => (s.sideSent host t).sideAcked t (s.sideBytes host t) d

theorem exec_sideport_eq (ans : Option (Bool × List Byte)) (host : List Byte) (s : State) :
    exec (.sideport ans host) s = .next (s.command 0 0x30 fun t => s.sideRun ans host t) := rfl

section
variable {s : State} {t : Taken} {host : List Byte}

theorem exec_sideport_of_turn (h : s.turn 0 0x30 = some t) {ans : Option (Bool × List Byte)} {u : State} (hu : s.sideRun ans host t = u) :
    exec (.sideport ans host) s = .next (u.afterCommand 0) :=
  (exec_sideport_eq ans host s).trans (congrArg Host.Outcome.next (State.command_of_turn h hu))

theorem State.sideRun_of_unranged (h : ¬ s.sideRanged t = true) (ans : Option (Bool × List Byte)) :
    s.sideRun ans host t = s.completeTaken 0 t (Done.of stInvalidField) :=
  if_pos ((Bool.not_eq_true' _).mpr (Bool.eq_false_iff.mpr h))

theorem State.sideRun_of_stream (h : s.sideRanged t = true) (hop : t.field 17 1 = 3) (ans : Option (Bool × List Byte)) :
    s.sideRun ans host t = ({ s with fw := { s.fw with
      spiStream := mapSet (fun _ => ([], 0)) s.fw.spiStream t.sideCtl ((s.areaRead host (t.field 24 8) (t.field 20 2)).1, t.field 22 2) } } :
        State).completeTaken 0 t (Done.of stSuccess) := by
  have hb : s.sideBytes host t = (s.areaRead host (t.field 24 8) (t.field 20 2)).1 := if_neg (by omega)
  have hin : ¬(!s.sideRanged t) = true := by
    rw [h, Bool.not_true]
    exact Bool.false_ne_true
  rw [← hb]
  exact (if_neg hin).trans (if_pos hop)

theorem State.sideRun_of_transfer (h : s.sideRanged t = true) (hop : t.field 17 1 ≠ 3) :
    s.sideRun none host t = { (s.sideSent host t).begin_ 0 t with fw := { ((s.sideSent host t).begin_ 0 t).fw with side := some (t.index, t.sideBus) } } ∧
      (∀ d, s.sideRun (some (false, d)) host t = (s.sideSent host t).completeTaken 0 t (Done.of stSideportNak)) ∧
      (∀ d, s.sideRun (some (true, d)) host t = (s.sideSent host t).sideAcked t (s.sideBytes host t) d) := by
  have hin : ¬(!s.sideRanged t) = true := by
    rw [h, Bool.not_true]
    exact Bool.false_ne_true
  exact ⟨(if_neg hin).trans (if_neg hop), fun _ => (if_neg hin).trans (if_neg hop), fun _ => (if_neg hin).trans (if_neg hop)⟩

variable {wr d : List Byte}

theorem State.sideAcked_of_write (hop : t.field 17 1 = 0) :
    s.sideAcked t wr d = s.completeTaken 0 t { Done.of stSuccess with result0 := wr.length } := by
  have hrd : (t.field 17 1 == 1 || t.field 17 1 == 2) = false := by
    rw [hop]
    rfl
  rw [State.sideAcked, hrd]
  simp only [Bool.false_eq_true, if_false]
  rw [if_neg (by omega), Nat.add_zero]

theorem State.sideAcked_of_read (hop : t.field 17 1 = 1 ∨ t.field 17 1 = 2) :
    s.sideAcked t wr d = (s.areaWrite (if t.field 17 1 = 1 then t.field 24 8 else t.field 24 8 + t.field 20 2)
      ((d ++ zeros (t.field 22 2)).take (t.field 22 2))).completeTaken 0 t { Done.of stSuccess with result0 := wr.length + t.field 22 2 } := by
  have hrd : (t.field 17 1 == 1 || t.field 17 1 == 2) = true := by rcases hop with hop | hop <;> rw [hop] <;> rfl
  have hplace : (t.field 24 8 + if t.field 17 1 = 1 then 0 else t.field 20 2) = if t.field 17 1 = 1 then t.field 24 8 else t.field 24 8 + t.field 20 2 := by
    split <;> rfl
  rw [State.sideAcked, hrd, hplace]
  simp only [if_true]
  rw [if_neg (by omega)]

theorem State.sideAcked_of_address (hop : t.field 17 1 = 4) {l : List Nat}
    (hl : l = (mapGet (fun _ => []) s.fw.dynAddr t.sideCtl).filter (· != t.field 18 2) ++ [t.field 18 2]) :
    s.sideAcked t wr d = ({ s with fw := { s.fw with dynAddr := mapSet (fun _ => []) s.fw.dynAddr t.sideCtl l } } : State).completeTaken 0 t
      { Done.of stSuccess with result0 := wr.length } := by
  have hrd : (t.field 17 1 == 1 || t.field 17 1 == 2) = false := by
    rw [hop]
    rfl
  rw [State.sideAcked, hrd]
  simp only [Bool.false_eq_true, if_false]
  rw [if_pos hop, hl, Nat.add_zero]

end

/-- Settles O44: the job controls by the job they name, TIME_SAMPLE, and side-port transfers by what the bus answers. -/
theorem jobControlsAndSideports : Obligations.JobControlsAndSideports := by
  unfold Obligations.JobControlsAndSideports
  have hnone : ∀ {s : State} {op : Nat} {f : Taken → State}, s.turn 0 op = none →
      (.next (s.command 0 op f) : Host.Outcome State Fault Refusal) = .next s := fun h => congrArg Host.Outcome.next (State.command_of_no_turn h)
  refine ⟨fun s ans host => ⟨hnone, hnone, hnone, hnone, hnone, hnone, fun h => congrArg Host.Outcome.next (if_pos h),
      fun h => congrArg Host.Outcome.next (if_neg (Bool.eq_false_iff.mp h))⟩,
    fun s t hj => ⟨fun st hst => ?_, fun h hp => exec_jobQuery_of_turn h (State.queryJob_of_none hj hp),
      fun p h hp => exec_jobQuery_of_turn h (State.queryJob_of_past hj hp)⟩,
    fun s t j hj => ⟨fun h => ?_, fun h => ?_, fun h => ?_, fun h => ?_⟩,
    fun s t h => ⟨exec_timeSample_of_unknown h, fun h1 h3 => ⟨s.servoRate, s.servoRate_bounds.1, s.servoRate_bounds.2, fun s1 hs1 => ?_⟩⟩,
    fun s t host h ctl kind op w r a ranged hctl hkind hop hw hr ha hranged => ?_⟩
  · have hcontrol : ∀ {op : Nat} {f : Job → State}, s.turn 0 op = some t →
        (.next (s.control_ op f) : Host.Outcome State Fault Refusal) = .next (s.answered 0 t st) := fun h =>
      congrArg Host.Outcome.next (State.control_of_no_job h hj hst)
    exact ⟨hcontrol, hcontrol, hcontrol⟩
  · exact ⟨fun hp => congrArg Host.Outcome.next (State.control_of_job h hj (if_pos hp)),
      fun hp => congrArg Host.Outcome.next (State.control_of_job h hj (if_neg hp))⟩
  · exact ⟨fun hp => congrArg Host.Outcome.next (State.control_of_job h hj (if_pos hp)),
      fun hp => congrArg Host.Outcome.next (State.control_of_job h hj (if_neg hp))⟩
  · refine ⟨fun ph hp hph => ?_, fun hp => congrArg Host.Outcome.next (State.control_of_job h hj (if_neg hp))⟩
    rw [hph]
    exact congrArg Host.Outcome.next (State.control_of_job h hj (if_pos hp))
  · exact ⟨fun hp hall c cs hc => exec_jobQuery_of_turn h (State.queryJob_of_boundary hj hp hall hc),
      fun hp hsome => exec_jobQuery_of_turn h (State.queryJob_of_step hj hp hsome),
      fun r hr => exec_jobQuery_of_turn h (State.queryJob_of_standing hj hr)⟩
  · subst hs1
    exact ⟨exec_timeSample_of_groups h h1 h3, exec_timeSample_of_no_group h h1 h3⟩
  · subst hctl hkind hop hw hr ha
    have hiff : ranged ↔ s.sideRanged t = true := hranged.trans (s.sideRanged_iff t).symm
    refine ⟨fun hn ans => exec_sideport_of_turn h (State.sideRun_of_unranged (mt hiff.mpr hn) ans),
      fun hin h3 ans => exec_sideport_of_turn h (State.sideRun_of_stream (hiff.mp hin) h3 ans), fun hin h3 wr s1 hwr hs1 => ?_⟩
    obtain ⟨hsilent, hnak, hack⟩ := State.sideRun_of_transfer (host := host) (hiff.mp hin) h3
    have hwr' : wr = s.sideBytes host t := hwr
    subst hwr'
    have hs1' : s1 = s.sideSent host t := hs1
    rw [← hs1'] at hsilent hnak hack
    exact ⟨exec_sideport_of_turn h hsilent, fun d => exec_sideport_of_turn h (hnak d),
      fun d h0 => exec_sideport_of_turn h ((hack d).trans (State.sideAcked_of_write h0)),
      fun d h12 => exec_sideport_of_turn h ((hack d).trans (State.sideAcked_of_read h12)),
      fun d l h4 hl => exec_sideport_of_turn h ((hack d).trans (State.sideAcked_of_address h4 hl))⟩

end Sys2Proof.Machine

/-! ## The commands of ring 0 (O43) -/

namespace Sys2Proof.Machine

/-! OPEN (R17, R503). -/

section
variable {s : State} {t : Taken}

theorem State.openCmd_of_opened (h : s.fw.opened = true) : s.openCmd t = s.completeTaken 0 t (Done.of stBusy) := if_pos h

variable {reply size : Nat}

/-- An OPEN whose reply address is good goes by its majors and its size. -/
theorem State.openCmd_of_good_reply (h : s.fw.opened = false) (hr : reply = t.field 40 8) (h64 : reply % 64 = 0) (h1 : bootArea.1 ≤ reply)
    (h2 : reply + 256 ≤ bootArea.1 + bootArea.2) : s.openCmd t =
      if 2 < t.field 16 1 ∨ t.field 17 1 < 2 then
        ((s.areaWrite (reply + 1) [2, 2]).completeTaken 0 t (Done.of stVersionMismatch)).fput f_hiFwStatus_state 3
      else if t.field 32 8 % blockBytes ≠ 0 ∨ 0x100000000 < t.field 32 8 then s.completeTaken 0 t (Done.of stInvalidField)
      else match s.allocRun (t.field 32 8 / blockBytes) with
        | none => s.completeTaken 0 t (Done.of stPoolExhausted)
        | some x =>
          let base := lpBase + x.1 * blockBytes
          let granted := t.field 24 8 % 64
          let s1 := { x.2 with
            host := { x.2.host with granted := granted, area := some (base, t.field 32 8) },
            fw := { x.2.fw with opened := true, margins := [] } }
          ((s1.areaWrite reply (s1.openReply granted base (t.field 32 8))).completeTaken 0 t (Done.of stSuccess)).fput f_hiFwStatus_state 2 := by
  rw [hr] at h64 h1 h2 ⊢
  exact (if_neg (Bool.eq_false_iff.mp h)).trans (if_neg (by omega))

theorem State.openCmd_of_bad_reply (h : s.fw.opened = false) (hr : reply = t.field 40 8)
    (hbad : reply % 64 ≠ 0 ∨ reply < bootArea.1 ∨ bootArea.1 + bootArea.2 < reply + 256) :
    s.openCmd t = s.completeTaken 0 t (Done.of stInvalidField) := by
  rw [hr] at hbad
  exact (if_neg (Bool.eq_false_iff.mp h)).trans (if_pos hbad)

end

theorem exec_fwOpen_of_turn {s : State} {t : Taken} (h : s.turn 0 0x01 = some t) {u : State} (hu : s.openCmd t = u) :
    exec .fwOpen s = .next (u.afterCommand 0) := congrArg Host.Outcome.next (State.command_of_turn h hu)

theorem fwOpen_answers (s : State) (t : Taken) (ht : s.turn 0 0x01 = some t) :
    (s.fw.opened = true → exec .fwOpen s = .next (s.answered 0 t stBusy)) ∧
    (s.fw.opened = false → ∀ reply size, reply = t.field 40 8 → size = t.field 32 8 →
      (reply % 64 ≠ 0 ∨ reply < bootArea.1 ∨ bootArea.1 + bootArea.2 < reply + 256 →
        exec .fwOpen s = .next (s.answered 0 t stInvalidField)) ∧
      (reply % 64 = 0 → bootArea.1 ≤ reply → reply + 256 ≤ bootArea.1 + bootArea.2 →
        (2 < t.field 16 1 ∨ t.field 17 1 < 2 → exec .fwOpen s = .next ((((s.areaWrite (reply + 1) [2, 2]).completeTaken 0 t
          (Done.of stVersionMismatch)).fput f_hiFwStatus_state 3).afterCommand 0)) ∧
        (t.field 16 1 ≤ 2 → 2 ≤ t.field 17 1 →
          (size % blockBytes ≠ 0 ∨ 0x100000000 < size → exec .fwOpen s = .next (s.answered 0 t stInvalidField)) ∧
          (size % blockBytes = 0 → size ≤ 0x100000000 → s.allocRun (size / blockBytes) = none →
            exec .fwOpen s = .next (s.answered 0 t stPoolExhausted)) ∧
          (∀ x g base s1, size % blockBytes = 0 → size ≤ 0x100000000 → s.allocRun (size / blockBytes) = some x →
            g = t.field 24 8 % 64 → base = lpBase + x.1 * blockBytes →
            s1 = { x.2 with host := { x.2.host with granted := g, area := some (base, size) },
                            fw := { x.2.fw with opened := true, margins := [] } } →
            exec .fwOpen s = .next ((((s1.areaWrite reply (s1.openReply g base size)).completeTaken 0 t
              (Done.of stSuccess)).fput f_hiFwStatus_state 2).afterCommand 0))))) := by
  refine ⟨fun h => exec_fwOpen_of_turn ht (State.openCmd_of_opened h), fun h reply size hr hsize =>
    ⟨fun hbad => exec_fwOpen_of_turn ht (State.openCmd_of_bad_reply h hr hbad), fun h64 h1 h2 => ?_⟩⟩
  have hgood := State.openCmd_of_good_reply h hr h64 h1 h2
  rw [← hsize] at hgood
  refine ⟨fun hv => exec_fwOpen_of_turn ht (hgood.trans (if_pos hv)), fun hv1 hv2 => ?_⟩
  rw [if_neg (show ¬(2 < t.field 16 1 ∨ t.field 17 1 < 2) by omega)] at hgood
  refine ⟨fun hs => exec_fwOpen_of_turn ht (hgood.trans (if_pos hs)), fun hs hlt ha => ?_, fun x g base s1 hs hlt ha hg hbase hs1 => ?_⟩
  · rw [if_neg (by omega), ha] at hgood
    exact exec_fwOpen_of_turn ht hgood
  · rw [if_neg (by omega), ha] at hgood
    dsimp only at hgood
    rw [← hg, ← hbase, ← hs1] at hgood
    exact exec_fwOpen_of_turn ht hgood

/-! CLOSE (R28, R497). -/

theorem exec_fwClose_of_turn {s s1 : State} {t : Taken} (h : s.turn 0 0x02 = some t) (hs1 : s1 = (s.fput f_hiFwStatus_state 4).begin_ 0 t) :
    (s.running = none → exec .fwClose s = .next ((s1.closeEnds { t with begun := true }).afterCommand 0)) ∧
    (s.running ≠ none → exec .fwClose s = .next (((s1.fw.jobs.filter fun j => j.phase != .running).foldl
      (fun s j => s.endJob j stAborted) s1).halt.afterCommand 0)) := by
  have hrun : s1.running = s.running := hs1 ▸ rfl
  have hexec : ∀ {u : State}, s.closeCmd t = u → exec .fwClose s = .next (u.afterCommand 0) := fun hu =>
    congrArg Host.Outcome.next (State.command_of_turn h hu)
  constructor
  · intro hr
    refine hexec ?_
    rw [State.closeCmd, ← hs1, hrun, hr]
  · intro hr
    obtain ⟨j, hj⟩ := Option.ne_none_iff_exists'.mp hr
    refine hexec ?_
    rw [State.closeCmd, ← hs1, hrun, hj]

/-! LOAD_PACKAGE (R20, R40, R342, R497). -/

section
variable {s : State} {t : Taken} {host : List Byte} {n : Nat} {place : List Nat} {b : List Byte} {len : Nat}

theorem State.loadCmd_of_busy (h : s.fw.loading ≠ none) : s.loadCmd host t = s.completeTaken 0 t (Done.of stBusy) :=
  if_pos (Option.isSome_iff_ne_none.mpr h)

/-- The fields of LOAD_PACKAGE that are refused before the header is read. -/
theorem loadFields_iff (s : State) (t : Taken) (n len : Nat) (place : List Nat) :
    (n < 1 ∨ 16 < n ∨ len < 128 ∨ (!s.inArea (t.field 16 8) len) = true ∨ place.any (fun a => 15 < a ∧ a ≠ 0xFF) = true) ↔
      (n < 1 ∨ 16 < n ∨ len < 128 ∨ s.inArea (t.field 16 8) len = false ∨ ∃ a ∈ place, 15 < a ∧ a ≠ 0xFF) := by
  simp only [Bool.not_eq_true', List.any_eq_true, decide_eq_true_eq]

theorem State.loadCmd_of_bad_field (hl : s.fw.loading = none) (hn : n = if bit s.host.granted 4 = true then t.field 32 1 else 1)
    (hp : place = (List.range n).map fun p => t.field (48 + p) 1) (hlen : len = t.field 24 8)
    (h : n < 1 ∨ 16 < n ∨ len < 128 ∨ s.inArea (t.field 16 8) len = false ∨ ∃ a ∈ place, 15 < a ∧ a ≠ 0xFF) :
    s.loadCmd host t = s.completeTaken 0 t (Done.of stInvalidField) := by
  rw [← loadFields_iff, hp, hlen, hn] at h
  exact (if_neg (by rw [hl]; exact Bool.false_ne_true)).trans (if_pos h)

/-- LOAD_PACKAGE once its fields are good: by its header, its placement and LPDDR. -/
theorem State.loadCmd_of_good_fields (hl : s.fw.loading = none) (hn : n = if bit s.host.granted 4 = true then t.field 32 1 else 1)
    (hp : place = (List.range n).map fun p => t.field (48 + p) 1) (hlen : len = t.field 24 8) (hb : b = (s.areaRead host (t.field 16 8) len).1)
    (h : ¬(n < 1 ∨ 16 < n ∨ len < 128 ∨ s.inArea (t.field 16 8) len = false ∨ ∃ a ∈ place, 15 < a ∧ a ≠ 0xFF)) :
    s.loadCmd host t =
      if !headerMagic b then s.completeTaken 0 t (Done.of stPackageInvalid)
      else if !contractOk b then s.completeTaken 0 t (Done.of stContractMismatch)
      else if !headerOk b len then s.completeTaken 0 t (Done.of stPackageInvalid)
      else if !bit (pkRings b) (n - 1) ∨ (1 < n ∧ !s.placeOk place) then s.completeTaken 0 t (Done.of stInvalidField)
      else if s.fget f_mcStatus_state < 2 then s.completeTaken 0 t (Done.of stPoolExhausted)
      else { s.begin_ 0 t with fw := { (s.begin_ 0 t).fw with loading := some (t.index, ⟨b, n, place, [], []⟩, 0) } } := by
  rw [← loadFields_iff, hp, hlen, hn] at h
  rw [hb, hp, hlen, hn]
  exact (if_neg (by rw [hl]; exact Bool.false_ne_true)).trans (if_neg h)

theorem exec_loadPackage_of_turn (h : s.turn 0 0x10 = some t) {u : State} (hu : s.loadCmd host t = u) :
    exec (.loadPackage host) s = .next (u.afterCommand 0) := congrArg Host.Outcome.next (State.command_of_turn h hu)

end

theorem loadPackage_answers (s : State) (t : Taken) (host : List Byte) (ht : s.turn 0 0x10 = some t) (n : Nat) (place : List Nat) (b : List Byte)
    (len : Nat) (hn : n = if bit s.host.granted 4 = true then t.field 32 1 else 1)
    (hp : place = (List.range n).map fun p => t.field (48 + p) 1) (hlen : len = t.field 24 8) (hb : b = (s.areaRead host (t.field 16 8) len).1) :
    (s.fw.loading ≠ none → exec (.loadPackage host) s = .next (s.answered 0 t stBusy)) ∧
    (s.fw.loading = none →
      (n < 1 ∨ 16 < n ∨ len < 128 ∨ s.inArea (t.field 16 8) len = false ∨ (∃ a ∈ place, 15 < a ∧ a ≠ 0xFF) →
        exec (.loadPackage host) s = .next (s.answered 0 t stInvalidField)) ∧
      (1 ≤ n → n ≤ 16 → 128 ≤ len → s.inArea (t.field 16 8) len = true → (∀ a ∈ place, a ≤ 15 ∨ a = 0xFF) →
        (headerMagic b = false ∨ (contractOk b = true ∧ headerOk b len = false) →
          exec (.loadPackage host) s = .next (s.answered 0 t stPackageInvalid)) ∧
        (headerMagic b = true → contractOk b = false → exec (.loadPackage host) s = .next (s.answered 0 t stContractMismatch)) ∧
        (headerMagic b = true → contractOk b = true → headerOk b len = true →
          (bit (pkRings b) (n - 1) = false ∨ (1 < n ∧ s.placeOk place = false) →
            exec (.loadPackage host) s = .next (s.answered 0 t stInvalidField)) ∧
          (bit (pkRings b) (n - 1) = true → (1 < n → s.placeOk place = true) →
            (s.fget f_mcStatus_state < 2 → exec (.loadPackage host) s = .next (s.answered 0 t stPoolExhausted)) ∧
            (2 ≤ s.fget f_mcStatus_state → exec (.loadPackage host) s = .next (({ s.begin_ 0 t with
              fw := { (s.begin_ 0 t).fw with loading := some (t.index, ⟨b, n, place, [], []⟩, 0) } } : State).afterCommand 0)))))) := by
  refine ⟨fun h => exec_loadPackage_of_turn ht (State.loadCmd_of_busy h), fun hl => ⟨fun h =>
    exec_loadPackage_of_turn ht (State.loadCmd_of_bad_field hl hn hp hlen h), fun h1 h16 h128 ha hplace => ?_⟩⟩
  have hfields : ¬(n < 1 ∨ 16 < n ∨ len < 128 ∨ s.inArea (t.field 16 8) len = false ∨ ∃ a ∈ place, 15 < a ∧ a ≠ 0xFF) := by
    rintro (h | h | h | h | ⟨a, hmem, hlt, hne⟩)
    · omega
    · omega
    · omega
    · rw [ha] at h
      cases h
    · exact (hplace a hmem).elim (by omega) hne
  have hgood := State.loadCmd_of_good_fields (host := host) hl hn hp hlen hb hfields
  have hbad : ∀ {c : Bool}, c = false → (!c) = true := fun h => by rw [h, Bool.not_false]
  have hok : ∀ {c : Bool}, c = true → ¬(!c) = true := fun h => by
    rw [h, Bool.not_true]
    exact Bool.false_ne_true
  refine ⟨fun h => ?_, fun hm hc => ?_, fun hm hc hh => ⟨fun h => ?_, fun hbit hpl => ?_⟩⟩
  · by_cases hm : headerMagic b = true
    · obtain ⟨hc, hh⟩ := h.resolve_left fun e => Bool.eq_false_iff.mp e hm
      exact exec_loadPackage_of_turn ht (hgood.trans ((if_neg (hok hm)).trans ((if_neg (hok hc)).trans (if_pos (hbad hh)))))
    · exact exec_loadPackage_of_turn ht (hgood.trans (if_pos (hbad (Bool.eq_false_iff.mpr hm))))
  · exact exec_loadPackage_of_turn ht (hgood.trans ((if_neg (hok hm)).trans (if_pos (hbad hc))))
  · have hring := hgood.trans ((if_neg (hok hm)).trans ((if_neg (hok hc)).trans (if_neg (hok hh))))
    exact exec_loadPackage_of_turn ht (hring.trans (if_pos (h.imp hbad (And.imp_right hbad))))
  · have hring := hgood.trans ((if_neg (hok hm)).trans ((if_neg (hok hc)).trans (if_neg (hok hh))))
    have hlast := hring.trans (if_neg fun h => h.elim (hok hbit) fun hp => hok (hpl hp.1) hp.2)
    exact ⟨fun hmc => exec_loadPackage_of_turn ht (hlast.trans (if_pos hmc)),
      fun hmc => exec_loadPackage_of_turn ht (hlast.trans (if_neg (Nat.not_lt.mpr hmc)))⟩

/-! The pools (R213, R497). -/

/-- Host-window entries that POOL_GRANT may take. -/
theorem grantEntries_iff (s : State) (t : Taken) (es : List Nat) :
    (4096 < t.field 16 2 + t.field 18 2 ∨ es.any (fun i => !s.fbit (f_hiHostwin_valid i) || !s.fbit (f_hiHostwin_write_en i)) = true) ↔
      (4096 < t.field 16 2 + t.field 18 2 ∨ ∃ i ∈ es, s.fbit (f_hiHostwin_valid i) = false ∨ s.fbit (f_hiHostwin_write_en i) = false) := by
  simp only [List.any_eq_true, Bool.or_eq_true, Bool.not_eq_true']

/-- No reclaim is in progress, as the commands of the pools ask. -/
theorem reclaims_busy_iff (s : State) : (!s.fw.reclaims.isEmpty) = true ↔ s.fw.reclaims ≠ [] := by
  rw [Bool.not_eq_true', ← Bool.not_eq_true, List.isEmpty_iff]

theorem poolGrant_answers {s : State} {t : Taken} {es : List Nat} (hes : es = (List.range (t.field 18 2)).map (t.field 16 2 + ·))
    (ht : s.turn 0 0x11 = some t) :
    (s.fw.reclaims ≠ [] → exec .poolGrant s = .next (s.answered 0 t stBusy)) ∧
    (s.fw.reclaims = [] →
      (4096 < t.field 16 2 + t.field 18 2 ∨ (∃ i ∈ es, s.fbit (f_hiHostwin_valid i) = false ∨ s.fbit (f_hiHostwin_write_en i) = false) →
        exec .poolGrant s = .next (s.answered 0 t stInvalidField)) ∧
      (t.field 16 2 + t.field 18 2 ≤ 4096 → (∀ i ∈ es, s.fbit (f_hiHostwin_valid i) = true ∧ s.fbit (f_hiHostwin_write_en i) = true) →
        exec .poolGrant s = .next (({ s with fw := { s.fw with
          t3 := s.fw.t3 ++ es.filter (!s.fw.t3.contains ·) } } : State).answered 0 t stSuccess))) := by
  subst hes
  refine ⟨fun h => congrArg Host.Outcome.next (State.command_of_turn ht (if_pos ((reclaims_busy_iff s).mpr h))), fun h =>
    ⟨fun hbad => congrArg Host.Outcome.next (State.command_of_turn ht ((if_neg (mt (reclaims_busy_iff s).mp (not_not.mpr h))).trans
      (if_pos ((grantEntries_iff s t _).mpr hbad)))), fun hlt hall => ?_⟩⟩
  refine congrArg Host.Outcome.next (State.command_of_turn ht ((if_neg (mt (reclaims_busy_iff s).mp (not_not.mpr h))).trans
    (if_neg fun hbad => ?_)))
  rcases (grantEntries_iff s t _).mp hbad with hlt' | ⟨i, hi, hv | hw⟩
  · omega
  · exact Bool.eq_false_iff.mp hv (hall i hi).1
  · exact Bool.eq_false_iff.mp hw (hall i hi).2

theorem poolReclaim_answers {s : State} {t : Taken} {es : List Nat} (hes : es = (List.range (t.field 18 2)).map (t.field 16 2 + ·))
    (ht : s.turn 0 0x12 = some t) :
    (s.fw.reclaims ≠ [] → exec .poolReclaim s = .next (s.answered 0 t stBusy)) ∧
    (s.fw.reclaims = [] →
      (4096 < t.field 16 2 + t.field 18 2 → exec .poolReclaim s = .next (s.answered 0 t stInvalidField)) ∧
      (t.field 16 2 + t.field 18 2 ≤ 4096 → exec .poolReclaim s = .next ((({ s.begin_ 0 t with fw := { (s.begin_ 0 t).fw with
        t3 := (s.begin_ 0 t).fw.t3.filter (!es.contains ·),
        reclaims := [(t.index, t.field 16 2, t.field 18 2)] } } : State).reclaimCheck).afterCommand 0))) := by
  subst hes
  have hfree := fun h => mt (reclaims_busy_iff s).mp (not_not.mpr h)
  exact ⟨fun h => congrArg Host.Outcome.next (State.command_of_turn ht (if_pos ((reclaims_busy_iff s).mpr h))), fun h =>
    ⟨fun hlt => congrArg Host.Outcome.next (State.command_of_turn ht ((if_neg (hfree h)).trans (if_pos hlt))),
      fun hle => congrArg Host.Outcome.next (State.command_of_turn ht ((if_neg (hfree h)).trans (if_neg (Nat.not_lt.mpr hle))))⟩⟩

/-! The ring (R331 to R333, R339). -/

theorem ringEnumerate_answers {s : State} {t : Taken} (ht : s.turn 0 0x20 = some t) :
    (s.ring.head ≠ .none → exec .ringEnumerate s = .next (s.answered 0 t stBusy)) ∧
    (s.ring.head = .none →
      (s.inArea (t.field 16 8) 1024 = false → exec .ringEnumerate s = .next (s.answered 0 t stInvalidField)) ∧
      (s.inArea (t.field 16 8) 1024 = true → exec .ringEnumerate s = .next ((s.begin_ 0 t).enumStart.afterCommand 0))) := by
  refine ⟨fun h => congrArg Host.Outcome.next (State.command_of_turn ht (if_pos h)), fun h => ⟨fun ha => ?_, fun ha => ?_⟩⟩
  · refine congrArg Host.Outcome.next (State.command_of_turn ht ((if_neg (not_not.mpr h)).trans (if_pos ?_)))
    rw [ha, Bool.not_false]
  · refine congrArg Host.Outcome.next (State.command_of_turn ht ((if_neg (not_not.mpr h)).trans (if_neg ?_)))
    rw [ha, Bool.not_true]
    exact Bool.false_ne_true

/-- A member table that the head refuses. -/
theorem badTable_iff (tb : List Member) (as : List Nat) :
    (as.any (15 < ·) = true ∨ as.eraseDups.length ≠ as.length ∨ (!tb.any fun m => m.identity == Config.deviceId && m.address.isSome) = true) ↔
      ((∃ a ∈ as, 15 < a) ∨ as.eraseDups.length ≠ as.length ∨ ∀ m ∈ tb, m.identity = Config.deviceId → m.address = none) := by
  refine or_congr ?_ (or_congr Iff.rfl ?_)
  · simp only [List.any_eq_true, decide_eq_true_eq]
  · simp only [Bool.not_eq_true', List.any_eq_false, Bool.and_eq_true, beq_iff_eq, not_and, Bool.not_eq_true, Option.isSome_eq_false_iff,
      Option.isNone_iff_eq_none]

theorem ringConfigure_answers {s : State} {t : Taken} (host : List Byte) (ht : s.turn 0 0x21 = some t) :
    (s.ring.head ≠ .none → exec (.ringConfigure host) s = .next (s.answered 0 t stBusy)) ∧
    (s.ring.head = .none → s.quarantined = true → exec (.ringConfigure host) s = .next (s.answered 0 t 0x41)) ∧
    (s.ring.head = .none → s.quarantined = false →
      ∀ tb as, tb = s.memberTable (s.areaRead host (t.field 16 8) 1024).1 → as = tb.filterMap (·.address) →
      (s.inArea (t.field 16 8) 1024 = false ∨ (∃ a ∈ as, 15 < a) ∨ as.eraseDups.length ≠ as.length ∨
          (∀ m ∈ tb, m.identity = Config.deviceId → m.address = none) →
        exec (.ringConfigure host) s = .next (s.answered 0 t stInvalidField)) ∧
      (s.inArea (t.field 16 8) 1024 = true → (∀ a ∈ as, a ≤ 15) → as.eraseDups.length = as.length →
          (∃ m ∈ tb, m.identity = Config.deviceId ∧ m.address ≠ none) →
        exec (.ringConfigure host) s = .next (((s.begin_ 0 t).headConfigure tb (s.fbit f_ciStatus_closed)).afterCommand 0))) := by
  refine ⟨fun h => congrArg Host.Outcome.next (State.command_of_turn ht (if_pos h)),
    fun h hq => congrArg Host.Outcome.next (State.command_of_turn ht ((if_neg (not_not.mpr h)).trans (if_pos hq))), fun h hq tb as htb has => ?_⟩
  subst has htb
  have hfree : ¬ s.ring.head ≠ .none := not_not.mpr h
  have harea : s.inArea (t.field 16 8) 1024 = true → ¬(!s.inArea (t.field 16 8) 1024) = true := fun ha => by
    rw [ha, Bool.not_true]
    exact Bool.false_ne_true
  refine ⟨fun hbad => ?_, fun ha h15 hdup hmine => ?_⟩
  · by_cases ha : s.inArea (t.field 16 8) 1024 = true
    · exact congrArg Host.Outcome.next (State.command_of_turn ht ((if_neg hfree).trans ((if_neg (Bool.eq_false_iff.mp hq)).trans
        ((if_neg (harea ha)).trans (if_pos ((badTable_iff _ _).mpr (hbad.resolve_left fun e => Bool.eq_false_iff.mp e ha)))))))
    · refine congrArg Host.Outcome.next (State.command_of_turn ht ((if_neg hfree).trans ((if_neg (Bool.eq_false_iff.mp hq)).trans (if_pos ?_))))
      rw [Bool.eq_false_iff.mpr ha, Bool.not_false]
  · refine congrArg Host.Outcome.next (State.command_of_turn ht ((if_neg hfree).trans ((if_neg (Bool.eq_false_iff.mp hq)).trans
      ((if_neg (harea ha)).trans (if_neg fun hbad => ?_)))))
    rcases (badTable_iff _ _).mp hbad with ⟨a, hmem, hlt⟩ | hne | hall
    · have := h15 a hmem
      omega
    · exact hne hdup
    · obtain ⟨m, hm, hid, haddr⟩ := hmine
      exact haddr (hall m hm hid)

/-- Settles O43: each command of ring 0 by the checks that its row makes. -/
theorem ringZeroCommands : Obligations.RingZeroCommands := by
  unfold Obligations.RingZeroCommands
  have hnone : ∀ {s : State} {op : Nat} {f : Taken → State}, s.turn 0 op = none →
      (.next (s.command 0 op f) : Host.Outcome State Fault Refusal) = .next s := fun h => congrArg Host.Outcome.next (State.command_of_no_turn h)
  exact ⟨fun s host => ⟨hnone, hnone, hnone, hnone, hnone, hnone, hnone, hnone, hnone⟩, fwOpen_answers,
    fun s t h s1 hs1 => exec_fwClose_of_turn h hs1, loadPackage_answers, fun s t es hes => ⟨poolGrant_answers hes, poolReclaim_answers hes⟩,
    fun s t h => ⟨fun hm => congrArg Host.Outcome.next (State.command_of_turn h (if_pos hm)),
      fun hm => congrArg Host.Outcome.next (State.command_of_turn h (if_neg (Nat.not_lt.mpr hm)))⟩,
    fun s t host => ⟨ringEnumerate_answers, ringConfigure_answers host, fun h => congrArg Host.Outcome.next (State.command_of_turn h rfl)⟩⟩

end Sys2Proof.Machine

/-! ## The commands of every ring (O45) -/

namespace Sys2Proof.Machine

theorem isSome_of_ne_none {α : Type} {o : Option α} (h : o ≠ none) : o.isSome = true := Option.isSome_iff_ne_none.mpr h

theorem not_isSome_of_eq_none {α : Type} {o : Option α} (h : o = none) : ¬o.isSome = true := by
  rw [h]
  exact Bool.false_ne_true

/-! Sequences (R238). -/

/-- Writing a sequence's record touches memory alone. -/
theorem State.fw_putRecord (s : State) (q : Seq) : (s.putRecord q).fw = s.fw := by
  rw [State.putRecord]
  split
  · exact (congrArg State.fw ((EventsOnly.refl s).lpStore 0 _ _).eq).trans rfl
  · rfl

/-- A sequence that is opened stands in the table. -/
theorem State.seqs_openSeq {s s1 : State} {party h : Nat} (ho : s.openSeq party h = some s1) :
    s1.fw.seqs = s.fw.seqs ++ [⟨party, h, 0, false, false, 0, [], [], s.freePlace, none⟩] := by
  rw [State.openSeq] at ho
  obtain ⟨u, hu, rfl⟩ := Option.map_eq_some_iff.mp ho
  have hseqs : u.fw.seqs = s.fw.seqs := by
    split at hu
    · cases hu
      rfl
    · obtain ⟨x, hx, rfl⟩ := Option.map_eq_some_iff.mp hu
      obtain ⟨i, -, rfl⟩ := Option.map_eq_some_iff.mp hx
      rfl
  rw [State.fw_putRecord, ← hseqs]

section
variable {s : State} {q : Fin 16} {t : Taken}

theorem seqOpen_answers (ht : s.turn q.val 0x41 = some t) :
    (s.seq (t.field 16 4) ≠ none → exec (.seqOpen q) s = .next (s.answered q.val t stInvalidField)) ∧
    (s.seq (t.field 16 4) = none → s.openSeq (s.ringParty q.val) (t.field 16 4) = none →
      exec (.seqOpen q) s = .next (s.answered q.val t stPoolExhausted)) ∧
    (∀ s1, s.seq (t.field 16 4) = none → s.openSeq (s.ringParty q.val) (t.field 16 4) = some s1 →
      exec (.seqOpen q) s = .next (s1.answered q.val t stSuccess) ∧
        s1.fw.seqs = s.fw.seqs ++ [⟨s.ringParty q.val, t.field 16 4, 0, false, false, 0, [], [], s.freePlace, none⟩]) := by
  refine ⟨fun h => congrArg Host.Outcome.next (State.command_of_turn ht (if_pos (isSome_of_ne_none h))), fun h ho => ?_,
    fun s1 h ho => ⟨?_, State.seqs_openSeq ho⟩⟩
  · refine congrArg Host.Outcome.next (State.command_of_turn ht ((if_neg (not_isSome_of_eq_none h)).trans ?_))
    rw [ho]
  · refine congrArg Host.Outcome.next (State.command_of_turn ht ((if_neg (not_isSome_of_eq_none h)).trans ?_))
    rw [ho]

theorem seqClose_answers (ht : s.turn q.val 0x42 = some t) :
    (s.seq (t.field 16 4) = none ∨ (∃ x, s.seq (t.field 16 4) = some x ∧ (x.party ≠ s.ringParty q.val ∨ x.closing ≠ none)) →
      exec (.seqClose q) s = .next (s.answered q.val t stInvalidField)) ∧
    (∀ x, s.seq (t.field 16 4) = some x → x.party = s.ringParty q.val → x.closing = none →
      exec (.seqClose q) s = .next ((((s.begin_ q.val t).setSeq { x with
        closing := some (q.val, t.index, s.fw.jobNo) }).settleCloses).afterCommand q.val)) := by
  refine ⟨?_, fun x hx hp hc => congrArg Host.Outcome.next (State.command_of_turn ht ?_)⟩
  · rintro (h | ⟨x, hx, hbad⟩) <;> refine congrArg Host.Outcome.next (State.command_of_turn ht ?_)
    · rw [h]
    · rw [hx]
      exact if_pos (hbad.imp_right isSome_of_ne_none)
  · rw [hx]
    exact if_neg fun h => h.elim (fun hne => hne hp) (not_isSome_of_eq_none hc)

/-! Adaptation state (R312, R549). -/

theorem adaptCreate_answers (ht : s.turn q.val 0x48 = some t) :
    (t.field 16 4 = 0 ∨ s.adaptOf q.val t ≠ none → exec (.adaptCreate q) s = .next (s.answered q.val t stInvalidField)) ∧
    (t.field 16 4 ≠ 0 → s.adaptOf q.val t = none → exec (.adaptCreate q) s = .next (({ s with fw := { s.fw with
      adapts := s.fw.adapts ++ [⟨s.ringParty q.val, t.field 16 4, 0, [], [], false, none⟩] } } : State).answered q.val t stSuccess)) :=
  ⟨fun h => congrArg Host.Outcome.next (State.command_of_turn ht (if_pos (h.imp_right isSome_of_ne_none))), fun h0 ha =>
    congrArg Host.Outcome.next (State.command_of_turn ht (if_neg fun h => h.elim h0 (not_isSome_of_eq_none ha)))⟩

theorem adaptRelease_answers (ht : s.turn q.val 0x4B = some t) :
    (s.adaptOf q.val t = none ∨ (∃ a, s.adaptOf q.val t = some a ∧ a.releasing ≠ none) →
      exec (.adaptRelease q) s = .next (s.answered q.val t stInvalidField)) ∧
    (∀ a, s.adaptOf q.val t = some a → a.releasing = none →
      exec (.adaptRelease q) s = .next ((((s.begin_ q.val t).setAdapt { a with
        releasing := some (q.val, t.index, s.fw.jobNo) }).settleCloses).afterCommand q.val)) := by
  refine ⟨?_, fun a ha hr => congrArg Host.Outcome.next (State.command_of_turn ht ?_)⟩
  · rintro (h | ⟨a, ha, hr⟩) <;> refine congrArg Host.Outcome.next (State.command_of_turn ht ?_)
    · rw [h]
    · rw [ha]
      exact if_pos (isSome_of_ne_none hr)
  · rw [ha]
    exact if_neg (not_isSome_of_eq_none hr)

theorem adaptExport_answers (host : List Byte) (ht : s.turn q.val 0x49 = some t) :
    (s.adaptOf q.val t = none → exec (.adaptExport q host) s = .next (s.answered q.val t stInvalidField)) ∧
    (∀ a, s.adaptOf q.val t = some a → s.exportState host a = none →
      exec (.adaptExport q host) s = .next (s.answered q.val t stSealRejected)) ∧
    (∀ a b s1, s.adaptOf q.val t = some a → s.exportState host a = some (b, s1) →
      (t.field 32 8 < b.length ∨ s.inArea (t.field 24 8) b.length = false →
        exec (.adaptExport q host) s = .next (s.answered q.val t stInvalidField)) ∧
      (b.length ≤ t.field 32 8 → s.inArea (t.field 24 8) b.length = true →
        exec (.adaptExport q host) s = .next (((s1.areaWrite (t.field 24 8) b).completeTaken q.val t
          { Done.of stSuccess with result0 := b.length }).afterCommand q.val))) := by
  refine ⟨fun ha => congrArg Host.Outcome.next (State.command_of_turn ht ?_), fun a ha hx => congrArg Host.Outcome.next (State.command_of_turn ht ?_),
    fun a b s1 ha hx => ⟨fun hbad => congrArg Host.Outcome.next (State.command_of_turn ht ?_), fun hlen hin =>
      congrArg Host.Outcome.next (State.command_of_turn ht ?_)⟩⟩
  · dsimp only
    rw [ha]
  · dsimp only
    rw [ha]
    dsimp only
    rw [hx]
  · dsimp only
    rw [ha]
    dsimp only
    rw [hx]
    exact if_pos (hbad.imp_right fun e => by rw [e, Bool.not_false])
  · dsimp only
    rw [ha]
    dsimp only
    rw [hx]
    exact if_neg fun h => h.elim (Nat.not_lt.mpr hlen) (by rw [hin, Bool.not_true]; exact Bool.false_ne_true)

/-- What ADAPT_IMPORT makes of a payload that passed its checks, or of none. -/
def State.adaptImported (s : State) (q : Nat) (t : Taken) (a : Adapt) : Option (Nat × List Byte) → State
  | none => s.completeTaken q t (Done.of stSealRejected)
  | some p => if s.running.isNone then s.importEnds q t (s.importState a p.1 p.2)
    else { s.begin_ q t with fw := { (s.begin_ q t).fw with imports := (s.begin_ q t).fw.imports ++ [(q, t.index, p.1, p.2)] } }

/-- ADAPT_IMPORT once its state and its bytes are there. -/
theorem exec_adaptImport_of_payload {host : List Byte} {a : Adapt} (ht : s.turn q.val 0x4A = some t) (ha : s.adaptOf q.val t = some a)
    (hin : s.inArea (t.field 24 8) (t.field 32 8) = true) {u : State}
    (hu : s.adaptImported q.val t a (s.importPayload a (s.areaRead host (t.field 24 8) (t.field 32 8)).1) = u) :
    exec (.adaptImport q host) s = .next (u.afterCommand q.val) := by
  refine congrArg Host.Outcome.next (State.command_of_turn ht ?_)
  rw [← hu]
  dsimp only
  rw [ha]
  exact if_neg (by rw [hin, Bool.not_true]; exact Bool.false_ne_true)

theorem adaptImport_answers (host : List Byte) (ht : s.turn q.val 0x4A = some t) :
    (s.adaptOf q.val t = none ∨ s.inArea (t.field 24 8) (t.field 32 8) = false →
      exec (.adaptImport q host) s = .next (s.answered q.val t stInvalidField)) ∧
    (∀ a, s.adaptOf q.val t = some a → s.inArea (t.field 24 8) (t.field 32 8) = true →
      (s.importPayload a (s.areaRead host (t.field 24 8) (t.field 32 8)).1 = none →
        exec (.adaptImport q host) s = .next (s.answered q.val t stSealRejected)) ∧
      (∀ p, s.importPayload a (s.areaRead host (t.field 24 8) (t.field 32 8)).1 = some p →
        (s.running = none → s.importState a p.1 p.2 = none →
          exec (.adaptImport q host) s = .next (s.answered q.val t stPoolExhausted)) ∧
        (∀ s1, s.running = none → s.importState a p.1 p.2 = some s1 →
          exec (.adaptImport q host) s = .next (s1.answered q.val t stSuccess)) ∧
        (s.running ≠ none → exec (.adaptImport q host) s = .next (({ s.begin_ q.val t with fw := { (s.begin_ q.val t).fw with
          imports := (s.begin_ q.val t).fw.imports ++ [(q.val, t.index, p.1, p.2)] } } : State).afterCommand q.val)))) := by
  refine ⟨fun h => congrArg Host.Outcome.next (State.command_of_turn ht ?_), fun a ha hin => ⟨fun hn => exec_adaptImport_of_payload ht ha hin ?_,
    fun p hp => ⟨fun hr hs => exec_adaptImport_of_payload ht ha hin ?_, fun s1 hr hs => exec_adaptImport_of_payload ht ha hin ?_,
      fun hr => exec_adaptImport_of_payload ht ha hin ?_⟩⟩⟩
  · rcases ha : s.adaptOf q.val t with _ | a
    · rfl
    · refine if_pos ?_
      rw [h.resolve_left (by rw [ha]; exact Option.some_ne_none a), Bool.not_false]
  · rw [hn]
    rfl
  · rw [hp, State.adaptImported, hr, hs]
    rfl
  · rw [hp, State.adaptImported, hr, hs]
    rfl
  · rw [hp]
    exact if_neg fun h => hr (Option.isNone_iff_eq_none.mp h)

end

end Sys2Proof.Machine

/-! ## Jobs and video sessions of every ring (O45) -/

namespace Sys2Proof.Machine

/-! A JOB descriptor as it is taken (R18, R498). -/

theorem fieldAt_set_ne (l : List Byte) {i j : Nat} (h : i < j) (x : Byte) : fieldAt (l.set j x) i 1 = fieldAt l i 1 := by
  rw [fieldAt, fieldAt, List.drop_set, if_neg (Nat.not_lt.mpr h.le), List.take_set, List.set_eq_of_length_le]
  exact (List.length_take_le _ _).trans (by omega)

/-- A byte whose upper six bits are cleared keeps bit 0. -/
theorem bit_fieldAt_set (l : List Byte) (i : Nat) : bit (fieldAt (l.set i (BitVec.ofNat 8 (fieldAt l i 1 % 4))) i 1) 0 = bit (fieldAt l i 1) 0 := by
  rw [fieldAt, List.drop_set, if_neg (lt_irrefl i), Nat.sub_self, fieldAt]
  rcases l.drop i with _ | ⟨b, l'⟩
  · rfl
  · rw [bit_eq_testBit, bit_eq_testBit, Nat.testBit_zero, Nat.testBit_zero]
    simp [leNat]

theorem State.grantedJob_of_granted {s : State} (h : bit s.host.granted 3 = true) (t : Taken) : s.grantedJob t = t := if_pos h

theorem State.grantedJob_fields (s : State) (t : Taken) :
    (s.grantedJob t).field 32 1 = t.field 32 1 ∧ bit ((s.grantedJob t).field 33 1) 0 = bit (t.field 33 1) 0 := by
  rw [State.grantedJob]
  split
  · exact ⟨rfl, rfl⟩
  · exact ⟨fieldAt_set_ne _ (by decide) _, bit_fieldAt_set _ _⟩

/-- The job that a JOB descriptor submits. -/
def State.newJob (s : State) (q : Nat) (t : Taken) : Job :=
  { number := s.fw.jobNo + 1, ring := q, taken := s.grantedJob t, party := s.ringParty q, phase := .waiting, known := false,
    prepared := false, stop := false, suspend := false, grit := 0, aug := 0, augBase := [], handles := [], adapt := 0,
    io := [], store := [], gen := [], copies := [], window := (0, 0), sealedKey := [], sealedEnts := [], iters := [],
    groups := [], inGroups := false, fallback := none, overrun := false, stepsRun := 0, step := 0, ended := none, area := [],
    saved := [], records := [], objects := [], out := false }

section
variable {s : State} {q : Fin 16} {t : Taken}

theorem exec_fwJob_of_turn (ht : s.turn q.val 0x40 = some t) {s1 : State} (hs1 : s1 = { s.begin_ q.val t with
    fw := { s.fw with jobNo := s.fw.jobNo + 1, jobs := s.fw.jobs ++ [s.newJob q.val t] } }) : exec (.fwJob q) s = .next
      ((if s.fw.pkg.isNone then s1.endJob (s.newJob q.val t) stNoPackage
        else if 31 < (s.newJob q.val t).stream ∨ ((s.newJob q.val t).flagFallback ∧ pkFallback s.pkgBytes = 0) then
          s1.endJob (s.newJob q.val t) stInvalidField
        else s1).afterCommand q.val) := by
  subst hs1
  exact congrArg Host.Outcome.next (State.command_of_turn ht rfl)

/-- The fields of a job that the model refuses, in its descriptor's terms. -/
theorem newJob_refused_iff (s : State) (q : Nat) (t : Taken) :
    (31 < (s.newJob q t).stream ∨ ((s.newJob q t).flagFallback = true ∧ pkFallback s.pkgBytes = 0)) ↔
      (31 < t.field 32 1 ∨ (bit (t.field 33 1) 0 = true ∧ pkFallback s.pkgBytes = 0)) := by
  obtain ⟨hstream, hflag⟩ := s.grantedJob_fields t
  rw [Job.stream, Job.flagFallback, State.newJob, hstream, hflag]

theorem fwJob_answers (ht : s.turn q.val 0x40 = some t) {s1 : State} (hs1 : s1 = { s.begin_ q.val t with
    fw := { s.fw with jobNo := s.fw.jobNo + 1, jobs := s.fw.jobs ++ [s.newJob q.val t] } }) :
    (s.fw.pkg = none → exec (.fwJob q) s = .next ((s1.endJob (s.newJob q.val t) stNoPackage).afterCommand q.val)) ∧
    (s.fw.pkg ≠ none → 31 < t.field 32 1 ∨ (bit (t.field 33 1) 0 = true ∧ pkFallback s.pkgBytes = 0) →
      exec (.fwJob q) s = .next ((s1.endJob (s.newJob q.val t) stInvalidField).afterCommand q.val)) ∧
    (s.fw.pkg ≠ none → t.field 32 1 ≤ 31 → bit (t.field 33 1) 0 = false ∨ pkFallback s.pkgBytes ≠ 0 →
      exec (.fwJob q) s = .next (s1.afterCommand q.val)) := by
  have hpkg : s.fw.pkg ≠ none → ¬s.fw.pkg.isNone = true := fun h e => h (Option.isNone_iff_eq_none.mp e)
  rw [exec_fwJob_of_turn ht hs1]
  refine ⟨fun h => ?_, fun h hbad => ?_, fun h h31 hf => ?_⟩
  · rw [if_pos (Option.isNone_iff_eq_none.mpr h)]
  · rw [if_neg (hpkg h), if_pos ((newJob_refused_iff s q.val t).mpr hbad)]
  · rw [if_neg (hpkg h), if_neg fun hbad => ?_]
    rcases (newJob_refused_iff s q.val t).mp hbad with h' | ⟨hbit, h0⟩
    · omega
    · exact hf.elim (fun e => Bool.eq_false_iff.mp e hbit) fun hne => hne h0

/-! Video sessions (R421, R422, R425, R497). -/

theorem exec_videoOpen_of_turn (ht : s.turn q.val 0x50 = some t) {n : Nat} {v : Video}
    (hn : n = ((List.range 16).find? fun i => (s.video i).isNone).getD 16) (hv : v = videoOf t n (s.ringParty q.val) q.val) :
    exec (.videoOpen q) s = .next ((if !s.videoOk v then s.completeTaken q.val t (Done.of stInvalidField)
      else if s.vxDown then s.completeTaken q.val t (Done.of stVideoFault)
      else if !s.videoFits v then s.completeTaken q.val t (Done.of stVideoCapacity)
      else s.videoOpened q.val t n v ((s.videoBytes v).2.allocSides true (ceilDiv (s.videoBytes v).1 blockBytes))).afterCommand q.val) := by
  refine congrArg Host.Outcome.next (State.command_of_turn ht ?_)
  dsimp only
  rw [← hn, ← hv]

theorem videoOpen_answers (s : State) (q : Fin 16) (t : Taken) (ht : s.turn q.val 0x50 = some t) (n : Nat) (v : Video)
    (hn : n = ((List.range 16).find? fun i => (s.video i).isNone).getD 16) (hv : v = videoOf t n (s.ringParty q.val) q.val) :
    (s.videoOk v = false → exec (.videoOpen q) s = .next (s.answered q.val t stInvalidField)) ∧
    (s.videoOk v = true → s.vxDown = true → exec (.videoOpen q) s = .next (s.answered q.val t stVideoFault)) ∧
    (s.videoOk v = true → s.vxDown = false → s.videoFits v = false →
      exec (.videoOpen q) s = .next (s.answered q.val t stVideoCapacity)) ∧
    (∀ b, s.videoOk v = true → s.vxDown = false → s.videoFits v = true → b = s.videoBytes v →
      (b.2.allocSides true (ceilDiv b.1 blockBytes) = none → exec (.videoOpen q) s = .next (s.answered q.val t stPoolExhausted)) ∧
      (∀ x r, b.2.allocSides true (ceilDiv b.1 blockBytes) = some x →
        r = (if v.group = 0xFF then 0 else (s.obj (s.fget (f_iaGroup_ready_obj v.group))).toNat) →
        exec (.videoOpen q) s = .next ((({ x.2 with fw := { x.2.fw with
          videos := x.2.fw.videos ++ [{ v with blocks := x.1, releases := r }] } } : State).videoLoad.completeTaken q.val t
            { Done.of stSuccess with result0 := n }).afterCommand q.val))) := by
  rw [exec_videoOpen_of_turn ht hn hv]
  have htrue : ¬(!true) = true := by decide
  have hfalse : (!false) = true := rfl
  refine ⟨fun h => ?_, fun h hd => ?_, fun h hd hf => ?_, fun b h hd hf hb => ?_⟩
  · rw [h, if_pos hfalse, State.answered]
  · rw [h, if_neg htrue, if_pos hd, State.answered]
  · rw [h, if_neg htrue, if_neg (Bool.eq_false_iff.mp hd), hf, if_pos hfalse, State.answered]
  · rw [h, if_neg htrue, if_neg (Bool.eq_false_iff.mp hd), hf, if_neg htrue, ← hb]
    refine ⟨fun ha => ?_, fun x r ha hr => ?_⟩
    · rw [ha, State.videoOpened, State.answered]
    · rw [ha, hr, State.videoOpened]

theorem videoFrame_answers (ht : s.turn q.val 0x51 = some t) :
    (s.video (t.field 16 1) = none → exec (.videoFrame q) s = .next (s.answered q.val t stInvalidField)) ∧
    (∀ v, s.video (t.field 16 1) = some v →
      (v.party ≠ s.ringParty q.val ∨ v.closing ≠ none ∨ v.group ≠ 0xFF ∨ s.inArea (t.field 24 8) (t.field 32 4) = false ∨
          (v.encodes = false ∧ s.inArea (t.field 40 8) v.frameBytes = false) →
        exec (.videoFrame q) s = .next (s.answered q.val t stInvalidField)) ∧
      (v.party = s.ringParty q.val → v.closing = none → v.group = 0xFF → s.inArea (t.field 24 8) (t.field 32 4) = true →
          v.encodes = true ∨ s.inArea (t.field 40 8) v.frameBytes = true →
        exec (.videoFrame q) s = .next (((s.begin_ q.val t).setVideo { v with queue := v.queue ++
          [⟨t.field 24 8, t.field 32 4, t.field 40 8, t.field 48 8, some (q.val, t.index)⟩] }).afterCommand q.val))) := by
  have hiff : ∀ v : Video, (v.party ≠ s.ringParty q.val ∨ v.closing.isSome = true ∨ v.group ≠ 0xFF ∨
      (!s.inArea (t.field 24 8) (t.field 32 4)) = true ∨ ((!v.encodes) = true ∧ (!s.inArea (t.field 40 8) v.frameBytes) = true)) ↔
        (v.party ≠ s.ringParty q.val ∨ v.closing ≠ none ∨ v.group ≠ 0xFF ∨ s.inArea (t.field 24 8) (t.field 32 4) = false ∨
          (v.encodes = false ∧ s.inArea (t.field 40 8) v.frameBytes = false)) := fun v => by
    simp only [Option.isSome_iff_ne_none, Bool.not_eq_true']
  refine ⟨fun hv => congrArg Host.Outcome.next (State.command_of_turn ht ?_), fun v hv => ⟨fun hbad =>
    congrArg Host.Outcome.next (State.command_of_turn ht ?_), fun hp hc hg hin hout => congrArg Host.Outcome.next (State.command_of_turn ht ?_)⟩⟩
  · rw [hv]
  · rw [hv]
    exact if_pos ((hiff v).mpr hbad)
  · rw [hv]
    refine if_neg fun hbad => ?_
    rcases (hiff v).mp hbad with h | h | h | h | ⟨he, ho⟩
    · exact h hp
    · exact h hc
    · exact h hg
    · exact Bool.eq_false_iff.mp h hin
    · exact hout.elim (Bool.eq_false_iff.mp he) (Bool.eq_false_iff.mp ho)

theorem videoClose_answers (ht : s.turn q.val 0x52 = some t) :
    (s.video (t.field 16 1) = none → exec (.videoClose q) s = .next (s.answered q.val t stInvalidField)) ∧
    (∀ v v1, s.video (t.field 16 1) = some v → v1 = { v with closing := some (q.val, t.index) } →
      (v.party ≠ s.ringParty q.val ∨ v.closing ≠ none → exec (.videoClose q) s = .next (s.answered q.val t stInvalidField)) ∧
      (v.party = s.ringParty q.val → v.closing = none →
        (v.queue ≠ [] → exec (.videoClose q) s = .next (((s.begin_ q.val t).setVideo v1).afterCommand q.val)) ∧
        (v.queue = [] → exec (.videoClose q) s = .next (((s.begin_ q.val t).endVideo v1 stSuccess).afterCommand q.val)))) := by
  refine ⟨fun hv => congrArg Host.Outcome.next (State.command_of_turn ht ?_), fun v v1 hv hv1 => ⟨fun hbad =>
    congrArg Host.Outcome.next (State.command_of_turn ht ?_), fun hp hc => ?_⟩⟩
  · rw [hv]
  · rw [hv]
    exact if_pos (hbad.imp_right isSome_of_ne_none)
  · subst hv1
    have hgood : ¬(v.party ≠ s.ringParty q.val ∨ v.closing.isSome = true) := fun h => h.elim (fun hne => hne hp) (not_isSome_of_eq_none hc)
    refine ⟨fun hq => congrArg Host.Outcome.next (State.command_of_turn ht ?_), fun hq => congrArg Host.Outcome.next (State.command_of_turn ht ?_)⟩
    · rw [hv]
      exact (if_neg hgood).trans (if_neg (mt List.isEmpty_iff.mp hq))
    · rw [hv]
      exact (if_neg hgood).trans (if_pos (List.isEmpty_iff.mpr hq))

end

/-- Settles O45: each command of a ring by the checks that its row makes. -/
theorem ringCommands : Obligations.RingCommands := by
  unfold Obligations.RingCommands
  have hnone : ∀ {s : State} {q op : Nat} {f : Taken → State}, s.turn q op = none →
      (.next (s.command q op f) : Host.Outcome State Fault Refusal) = .next s := fun h => congrArg Host.Outcome.next (State.command_of_no_turn h)
  exact ⟨fun s q host => ⟨hnone, hnone, hnone, hnone, hnone, hnone, hnone, hnone, hnone, hnone⟩,
    fun s q t => ⟨seqOpen_answers, seqClose_answers, adaptCreate_answers, adaptRelease_answers⟩,
    fun s q t host => ⟨adaptExport_answers host, adaptImport_answers host⟩,
    fun s q t ht => ⟨s.newJob q.val t, rfl, rfl, rfl, rfl, rfl, rfl, rfl, rfl, rfl, rfl, fun h => State.grantedJob_of_granted h t,
      fun s1 hs1 => fwJob_answers ht hs1⟩,
    videoOpen_answers, fun s q t => ⟨videoFrame_answers, videoClose_answers⟩⟩

end Sys2Proof.Machine
